-- ==== Sys2Proof/Word.lean ====
section
/-! DEFINITION. The word types of the Lanrid F8 and their plainest arithmetic (R8, R179). -/

namespace Sys2Proof

/-- A 64-bit g register, control register or dword of memory. -/
abbrev Word := BitVec 64

/-- One byte of a memory. -/
abbrev Byte := BitVec 8

/-- A 128-bit vector register (R268). -/
abbrev VWord := BitVec 128

/-- A 16-bit predicate register (R224). -/
abbrev PWord := BitVec 16

/-- A Boolean as a 64-bit word: 1 or 0. -/
def boolWord (b : Bool) : Word := if b then 1#64 else 0#64

/-- A natural number as a 64-bit word, modulo 2^64. -/
abbrev natWord (n : Nat) : Word := BitVec.ofNat 64 n

end Sys2Proof
end

