-- ==== Sys2Proof/Config.lean ====
section
/-! DEFINITION. What the spec leaves to an implementation or leaves open: free values (opaque constants that no proof can
evaluate) and the model's fixed choices, each with its entry of the assumption log. -/

namespace Sys2Proof

/-- A word that the spec leaves open, by the number of free values drawn before it (log entry 2). -/
opaque Config.freeWord : Nat → Word

/-- Firmware default weight of an energy class in units of 1/256 pJ (R426 gives none; log entry 3). DESIGN CHOICE. -/
def Config.energyWeight (_cls : Nat) : BitVec 24 := 0

/-- The throttle factor for a reading of input power against the limit (R424 gives the range of k, not the law; log
entry 7). -/
opaque Config.throttle : Nat → Nat → Nat

/-- The module attestation key: the modulus of 3,072 bits and the private exponent (R407; log entry 11). -/
opaque Config.rsaModulus : Nat
opaque Config.rsaExponent : Nat

/-- The SHA-256 digest of the key that signs firmware images, fused in the hub (R430; log entry 10). -/
opaque Config.fusedKeyDigest : BitVec 256

/-- Byte i of the attestation certificate chain, by the number of the issue and the boot log whose digest it carries (R431;
log entry 97). -/
opaque Config.attestChain : Nat → List (BitVec 256) → Nat → Byte

/-- The module's serial number (R406). -/
opaque Config.serial : BitVec 128

/-- A seed drawn by the root of trust (R403). -/
opaque Config.drawnSeed : Nat → Word

/-- Where the two ends of the model's enclosure of a transcendental function round apart: the correctly rounded value is the
upper end's (R283; log entry 12). -/
opaque Config.sfuTie : Nat → Nat → Bool

/-- The place of a bank-port agent in the fixed rotation of deterministic mode, in a cycle by its number modulo 8: R46 gives no
order of the agents (log entry 117). -/
opaque Config.bankRank : Nat → Nat → Nat

/-- The flits that a virtual channel of a link may send when the link comes up (R418 gives no number; log entry 116). -/
opaque Config.linkCredits : Nat → Nat

/-- A byte that an engine reads in the scratchpad of another module, by pointer and cycle: what other modules hold is
outside this model, a free value (log entry 21). -/
opaque Config.remoteByte : Nat → Nat → Byte

end Sys2Proof
end

