-- ==== Sys2Proof/Syntax.lean ====
section
/-! DEFINITION. The steps of the Lanrid F8: one constructor of Instr per row of the opcode table. The first 168 are
the S, V and E operations of a bundle (R211 to R213) with the fields of their tails (R206); the others are the
indivisible steps of the module's other agents, with the data that names the pending activity or that the outside
world supplies. -/

namespace Sys2Proof

/-! ## Operands -/

/-- Queue flags of a G3 tail (R208). -/
structure QFlags where
  qd : Bool
  qa : Bool
  qb : Bool
  deriving DecidableEq, Repr, Inhabited

/-- Conditions of CMP, CMPI and VCMP (R228), in code order. -/
inductive Cond where
  | eq | ne | lt | ge | ltu | geu | le | gt | leu | gtu | tst | ntst
  deriving DecidableEq, Repr, Inhabited

/-- Conditions of VFCMP (R282), in code order. -/
inductive FCond where
  | eq | ne | lt | le | gt | ge | un | ord
  deriving DecidableEq, Repr, Inhabited

/-- Address modes (R16), in code order. -/
inductive AMode where
  | own | blk | ilv | gen
  deriving DecidableEq, Repr, Inhabited

/-- Access sizes of MEM and MEMX tails: 1, 2, 4 and 8 bytes. -/
inductive Size where
  | b | h | w | d
  deriving DecidableEq, Repr, Inhabited

/-- Combining operations of AMO (R253), in code order. -/
inductive AmoOp where
  | swap | add | and | or | xor | min | max | minu | maxu
  deriving DecidableEq, Repr, Inhabited

/-- The acq, rel and scope fields of a MEMX or EN tail (R131, R206). -/
structure Ord where
  acq : Bool
  rel : Bool
  scope : BitVec 3
  deriving DecidableEq, Repr, Inhabited

/-- Lane types (R210), in code order. -/
inductive LaneType where
  | i8 | i16 | i32 | i64 | f32 | f19 | c4 | c8
  deriving DecidableEq, Repr, Inhabited

/-- Rounding modes (R181), in code order. -/
inductive Rnd where
  | rne | rz | ru | rd | rs
  deriving DecidableEq, Repr, Inhabited

/-- Saturation of VADD and VSUB (R272), in code order. -/
inductive Sat where
  | wrap | signed | unsigned
  deriving DecidableEq, Repr, Inhabited

/-- Reductions of VRED (R279), in code order. -/
inductive RedOp where
  | add | min | max | minu | maxu | and | or | xor | fadd | fmin | fmax
  deriving DecidableEq, Repr, Inhabited

/-- Functions of VSFU (R283), in code order. -/
inductive SfuFn where
  | rcp | rsq | sqrt | exp2 | log2 | sinpi | cospi | tanh
  deriving DecidableEq, Repr, Inhabited

/-- Byte kinds of VPLANE align (R288), in code order. -/
inductive ByteKind where
  | lo | hi | spec
  deriving DecidableEq, Repr, Inhabited

/-- Views of an array command's scratchpad operand (R302), in code order. -/
inductive View where
  | own | blk | ilv
  deriving DecidableEq, Repr, Inhabited

/-- Drain modes of ADRN (R321), in code order. -/
inductive DrainMode where
  | raw | fp32 | planes
  deriving DecidableEq, Repr, Inhabited

/-! ## What packets between agents carry (R147) -/

/-- What a remote word access does at its bank (R50, R253, R254). -/
inductive AccOp where
  | load | store | lds | ldsp | sts | fesetFull | fesetEmpty | amo (op : AmoOp) | cas
  deriving DecidableEq, Repr, Inhabited

/-- One word access at a target core: the window offset already aligned, its size in bytes, its data, the expected
value of CAS, which word of a 16-byte access it is, and the outstanding result of the sender it answers. -/
structure WordAcc where
  op : AccOp
  off : Nat
  size : Nat
  data : Word
  expect : Word
  part : Nat
  out : Nat
  deriving DecidableEq, Repr, Inhabited

/-- Operations on a future entry that travel as messages (R330), with the retirement of a producer (R170). -/
inductive FutOp where
  | touch (consume : Bool) | touchq | resolve (v : Word) | cancel | fdrop
  | retire (v : Word) | fault (rec : Word) | cancelled
  deriving DecidableEq, Repr, Inhabited

/-- What an answer tells the thread that waits for it: a value and a predicate, a precise trap (R341 to R345), or that
its TOUCH has joined the waiter list. -/
inductive Reply where
  | parked
  | value (v : Word) (pd : Bool)
  | trap (cause : BitVec 8) (eval : Word)
  deriving DecidableEq, Repr, Inhabited

/-- A thread that awaits an answer: its endpoint (another module's for a thread there), its frame key in its own module,
and the number of its operation. -/
structure Asker where
  end_ : Nat
  frame : Nat
  out : Nat
  deriving DecidableEq, Repr, Inhabited

/-- What a spawned task takes over from its spawner: formats, launch sequence number, and in deterministic mode the lane
(R178, R336, R358). -/
structure Heritage where
  formats : Word
  lseq : Nat
  lane : Option Nat
  deriving DecidableEq, Repr, Inhabited

/-- The body of a packet. Frame numbers are frame keys of the sender or addressee; `out` numbers the operation that an
answer meets, or the retirement of a producer (R173). The four spawn bodies are the SPAWN family's (a SPAWN names the cluster it is for, which another module needs); a record's place is a
pool key of the sender's module. `retry` in a response asks for the operation again; `parked` says that it waits at a
pre-empted core. -/
inductive Body where
  | access (a : WordAcc)
  | response (out part : Nat) (data : Word) (oor xpart retry parked ecc : Bool) (acc : WordAcc)
  | send (frame : Nat) (dwords : List Word) (out : Nat)
  | copyRecord (frame : Nat) (dwords : List Word) (copy : Nat)
  | future (op : FutOp) (handle : Word) (out : Nat)
  | futureReply (frame out : Nat) (r : Reply) (xpart oor : Bool)
  | wake (frame out : Nat) (r : Reply)
  | grant (frame wait : Nat) (v : Word)
  | join (ptr : Word) (final : Nat) (lane : Option Nat)
  | joini (count : BitVec 32) (prio : BitVec 2) (lseq : Nat) (ptr : Word) (out : Nat)
  | spawn (rec cluster : Nat) (h : Heritage) (out : Nat) (trap : Bool)
  | spawni (entry arg : Word) (prio : BitVec 2) (nt : Bool) (h : Heritage) (out : Nat) (trap : Bool)
  | spawnr (core tmpl list : Nat) (h : Heritage) (out : Nat) (trap : Bool)
  | grow (lseq n out : Nat)
  | contribution (comm member : Nat) (shape : Word) (data : List Byte)
  deriving DecidableEq, Repr, Inhabited

/-- A packet in the network. Endpoints: core index, 2^20 + channel for a Geyser, 2^21 + cluster for a Lamplighter,
2^22 for the hub, 2^23 + module for another module. `after` lists the accesses of the sender that must be performed
before the packet is sent (its release); `notBefore` is the earliest cycle of its execution (R151). -/
structure Packet where
  id : Nat
  src : Nat
  dst : Nat
  vc : Nat
  tag : BitVec 10
  epoch : BitVec 6
  sender : Nat
  after : List Nat
  notBefore : Nat
  body : Body
  deriving DecidableEq, Repr, Inhabited

/-! ## Host writes of tables without a row of their own -/

/-- One owner of a channel (R70). -/
structure Owner where
  tag : BitVec 10
  base : BitVec 16
  limit : BitVec 16
  t : BitVec 4
  deriving DecidableEq, Repr, Inhabited

/-- A write of a hub table or register that has no row of its own (R394). -/
inductive HubWrite where
  | root (tag : Nat) (pa : Word)
  | spillBase (tag : Nat) (va : Word)
  | pageRequestEnable (tag : Nat) (en : Bool)
  | quota (tag : Nat) (entries slots : Nat)
  | budget (tag : Nat) (word : Nat) (v : Word)
  | stealList (tag dom : Nat) (clusters : List Nat)
  | watchdogDefault (tag : Nat) (limit : BitVec 24)
  | policy (tag : Nat) (lim pol : Bool)
  | fifoOwner (cluster fifo : Nat) (tag : Option Nat)
  | pasid (tag : Nat) (v : BitVec 20)
  | slice (tag : Nat) (v : Word)
  | context (tag : Nat) (va : Word)
  | ring (tag idx : Nat) (word : Nat) (v : Word)
  | causeRing (rcb : Word)
  | coalesce (v : Word)
  | clearCovf (bits : BitVec 32)
  | clearRdrop (bits : BitVec 32)
  | clearLdown (bits : BitVec 18)
  | powerLimit (watts : Nat)
  | clearErrors (die : Nat) (kind : Nat) (bits : BitVec 32)
  | badlClear (vf : Nat) (bits : BitVec 32)
  | busMaster (vf : Nat) (en : Bool)
  | ats (vf : Nat) (en : Bool)
  | pageRequestAllocation (vf n : Nat)
  | hostStore (vf : Nat) (va : Nat) (bytes : List Byte)
  | invalidate (tag : Nat) (va len : Nat) (whole : Bool)
  | debugResume (slot : Nat)
  | moduleNumber (n : BitVec 10)
  | timestampReference (n : Nat)
  | resumeClear (tag : Nat)
  | raiseMinimum
  deriving DecidableEq, Repr, Inhabited

/-- The header of a flit that arrives on a link, as far as the machine sees it (R418): the sequence number of the packet's first
flit, the number up to which the neighbour has received, whether it asks for the rest again, and the flits that channels may
send beyond those granted before (DESIGN CHOICE, log entries 71 and 116: R418 gives no format). -/
structure FlitHead where
  seq : Nat := 0
  ack : Nat := 0
  again : Bool := false
  credits : List (Nat × Nat) := []
  deriving DecidableEq, Repr, Inhabited

/-- A flit that arrives on a link: its header, and the packet that it begins, if it begins one (R418). -/
structure Flit where
  head : FlitHead := {}
  packet : Option Packet := none
  deriving DecidableEq, Repr, Inhabited

/-- A host page that the host could not translate: the number of the request that met it, and whether the host lets the page
be read (R98, R263). -/
structure PriAsk where
  id : Nat
  readable : Bool := false
  deriving DecidableEq, Repr, Inhabited

/-- A measurement of power (R424): the readings of the module, by 0 for its input and d + 1 for die d, and the factors of
other modules. -/
structure PowerReadings where
  own : List (Nat × Nat)
  others : List (Nat × Nat) := []
  deriving DecidableEq, Repr, Inhabited

/-- A firmware image in the module's flash (R430): the digest of the key that it carries, whether its signature verifies under
that key, and its version. -/
structure BootImage where
  keyDigest : BitVec 256
  signed : Bool
  version : Nat
  deriving DecidableEq, Repr, Inhabited

/-! ## The steps -/

/-- One constructor per row of the opcode table, in the table's order but for scrubClearingEnd: Lean cannot build a
constructor numbered above 244 at run time, so the last places are those of outside inputs. -/
inductive Instr where
  -- integer group (R225 to R228)
  | add (q : QFlags) (rd ra rb : BitVec 6)
  | sub (q : QFlags) (rd ra rb : BitVec 6)
  | mul (q : QFlags) (rd ra rb : BitVec 6)
  | mulh (q : QFlags) (rd ra rb : BitVec 6)
  | mulhu (q : QFlags) (rd ra rb : BitVec 6)
  | div (q : QFlags) (rd ra rb : BitVec 6)
  | divu (q : QFlags) (rd ra rb : BitVec 6)
  | rem (q : QFlags) (rd ra rb : BitVec 6)
  | remu (q : QFlags) (rd ra rb : BitVec 6)
  | and (q : QFlags) (rd ra rb : BitVec 6)
  | or (q : QFlags) (rd ra rb : BitVec 6)
  | xor (q : QFlags) (rd ra rb : BitVec 6)
  | shl (q : QFlags) (rd ra rb : BitVec 6)
  | shr (q : QFlags) (rd ra rb : BitVec 6)
  | sar (q : QFlags) (rd ra rb : BitVec 6)
  | rol (q : QFlags) (rd ra rb : BitVec 6)
  | min (q : QFlags) (rd ra rb : BitVec 6)
  | max (q : QFlags) (rd ra rb : BitVec 6)
  | minu (q : QFlags) (rd ra rb : BitVec 6)
  | maxu (q : QFlags) (rd ra rb : BitVec 6)
  | adc (q : QFlags) (rd ra rb : BitVec 6) (pc pd : BitVec 4)
  | sbc (q : QFlags) (rd ra rb : BitVec 6) (pc pd : BitVec 4)
  | sel (q : QFlags) (rd ra rb : BitVec 6) (ps : BitVec 4) (inv : Bool)
  | cmp (q : QFlags) (rd ra rb : BitVec 6) (pd : BitVec 4) (c : Cond)
  -- immediate group (R229, R230)
  | addi (rd ra : BitVec 6) (imm : BitVec 20)
  | andi (rd ra : BitVec 6) (imm : BitVec 20)
  | ori (rd ra : BitVec 6) (imm : BitVec 20)
  | xori (rd ra : BitVec 6) (imm : BitVec 20)
  | shli (rd ra : BitVec 6) (sh : BitVec 6)
  | shri (rd ra : BitVec 6) (sh : BitVec 6)
  | sari (rd ra : BitVec 6) (sh : BitVec 6)
  | cmpi (rd ra : BitVec 6) (c : Cond) (pd : BitVec 4) (imm : BitVec 12)
  | lea (rd : BitVec 6) (delta : BitVec 15) (head : BitVec 5)
  -- unary and predicate group (R231)
  | clz (rd ra : BitVec 6)
  | ctz (rd ra : BitVec 6)
  | popc (rd ra : BitVec 6)
  | movpPredFromG (pd : BitVec 4) (ra : BitVec 6)
  | movpGFromPred (rd : BitVec 6) (pa : BitVec 4)
  | movpPredFromPred (pd pa : BitVec 4)
  | pand (pd pa pb : BitVec 4)
  | por (pd pa pb : BitVec 4)
  | pxor (pd pa pb : BitVec 4)
  | pnot (pd pa : BitVec 4)
  -- bit fields and long immediates (R232, R233)
  | bfx (q : QFlags) (rd ra rb : BitVec 6) (len : BitVec 6) (sgn : Bool)
  | bfi (q : QFlags) (rd ra rb : BitVec 6) (len : BitVec 6)
  | li (rd : BitVec 6) (zx : Bool) (imm : BitVec 48)
  | lih (rd : BitVec 6) (imm : BitVec 16)
  -- window group (R234)
  | gptrOwn (rd ra : BitVec 6)
  | gptrBlk (rd ra : BitVec 6)
  | gptrIlv (rd ra : BitVec 6)
  | gwinCls (rd ra : BitVec 6)
  | gwinLoc (rd ra : BitVec 6)
  -- control flow (R235)
  | br (p : BitVec 4) (inv : Bool) (delta : BitVec 22) (head : BitVec 5)
  | brc (p : BitVec 4) (inv : Bool) (delta : BitVec 22) (head : BitVec 5)
  | jmp (delta : BitVec 22) (head : BitVec 5)
  | jal (delta : BitVec 22) (head : BitVec 5)
  | jr (ra : BitVec 6)
  | jalr (rd ra : BitVec 6)
  | loop (rd ra : BitVec 6) (delta : BitVec 15) (head : BitVec 5)
  | nop
  -- loads, stores, full/empty operations (R251, R252)
  | ld (rt rb : BitVec 6) (am : AMode) (sz : Size) (off : BitVec 16)
  | st (rt rb : BitVec 6) (am : AMode) (sz : Size) (off : BitVec 16)
  | vld (vt : BitVec 5) (rb : BitVec 6) (am : AMode) (off : BitVec 16)
  | vst (vt : BitVec 5) (rb : BitVec 6) (am : AMode) (off : BitVec 16)
  | lds (rt rb : BitVec 6) (am : AMode) (sz : Size) (off : BitVec 16)
  | ldsp (rt rb : BitVec 6) (am : AMode) (sz : Size) (off : BitVec 16)
  | sts (rt rb : BitVec 6) (am : AMode) (sz : Size) (off : BitVec 16)
  | fesetFull (rb : BitVec 6) (am : AMode) (sz : Size) (off : BitVec 16)
  | fesetEmpty (rb : BitVec 6) (am : AMode) (sz : Size) (off : BitVec 16)
  -- atomics, fence, copies, subscriptions (R253 to R260); dw selects 64 bits
  | amo (rt rb rc : BitVec 6) (am : AMode) (dw : Bool) (op : AmoOp) (o : Ord) (off : BitVec 32)
  | cas (rt rb rc : BitVec 6) (am : AMode) (dw : Bool) (o : Ord) (off : BitVec 32)
  | fence (o : Ord)
  | cgo (rd : BitVec 6)
  | csub (rd ra rb : BitVec 6)
  | cunsub (rd ra : BitVec 6)
  -- X group (R264 to R267)
  | xld (rt rb : BitVec 6) (am : AMode) (sz : Size) (o : Ord) (off : BitVec 32)
  | xst (rt rb : BitVec 6) (am : AMode) (sz : Size) (o : Ord) (off : BitVec 32)
  | xpush (rt rb rc : BitVec 6) (am : AMode) (o : Ord) (off : BitVec 32)
  | xpref (rb : BitVec 6) (am : AMode) (off : BitVec 32)
  | xtlbi (rt rb rc : BitVec 6) (am : AMode) (off : BitVec 32)
  | xtlbiAll (rt : BitVec 6) (am : AMode)
  -- tasks, futures, messages (R336 to R353)
  | spawn (rd ra rb : BitVec 6) (pd : BitVec 4) (t : Bool)
  | spawnr (rd ra rb : BitVec 6) (pd : BitVec 4) (t : Bool)
  | spawni (rd ra rb : BitVec 6) (pd : BitVec 4) (t : Bool) (prio : BitVec 2) (nt : Bool)
  | grow (rd ra : BitVec 6) (pd : BitVec 4)
  | touch (rd ra : BitVec 6) (pd : BitVec 4) (c : Bool)
  | touchq (rd ra : BitVec 6)
  | resolve (ra rb : BitVec 6) (pd : BitVec 4)
  | cancel (rd ra : BitVec 6)
  | fdrop (ra : BitVec 6) (pd : BitVec 4)
  | joini (rd ra rb : BitVec 6) (prio : BitVec 2)
  | retire
  | waitw
  | waitm (rd : BitVec 6)
  | yield
  | send (ra rb : BitVec 6) (tag : BitVec 8) (sys : Bool)
  -- system operations (R239 to R248)
  | trap (fn : BitVec 8)
  | eret
  | crd (rd : BitVec 6) (num : BitVec 12)
  | cwr (ra : BitVec 6) (num : BitVec 12)
  | time (rd : BitVec 6)
  | flushi (line : Bool) (ra : BitVec 6)
  | dbrk
  | halt
  | scrub (rd : BitVec 6) (fn : BitVec 3)
  | tabw (fn : BitVec 2) (x : BitVec 8) (ra : BitVec 6)
  | tabr (fn : BitVec 2) (x : BitVec 8) (rd : BitVec 6)
  -- vector integer (R272 to R279); gp is the guard predicate
  | vadd (lt : LaneType) (sat : Sat) (vd va vb : BitVec 5) (gp : BitVec 4)
  | vsub (lt : LaneType) (sat : Sat) (vd va vb : BitVec 5) (gp : BitVec 4)
  | vadc (lt : LaneType) (vd va vb : BitVec 5) (ps pd gp : BitVec 4)
  | vsbc (lt : LaneType) (vd va vb : BitVec 5) (ps pd gp : BitVec 4)
  | vmul (lt : LaneType) (vd va vb : BitVec 5) (gp : BitVec 4)
  | vmulh (lt : LaneType) (u : Bool) (vd va vb : BitVec 5) (gp : BitVec 4)
  | vmadw (lt : LaneType) (hi : Bool) (vd va vb vc : BitVec 5) (ps pd gp : BitVec 4)
  | vmin (lt : LaneType) (u : Bool) (vd va vb : BitVec 5) (gp : BitVec 4)
  | vmax (lt : LaneType) (u : Bool) (vd va vb : BitVec 5) (gp : BitVec 4)
  | vabs (lt : LaneType) (vd va : BitVec 5) (gp : BitVec 4)
  | vand (lt : LaneType) (vd va vb : BitVec 5) (gp : BitVec 4)
  | vor (lt : LaneType) (vd va vb : BitVec 5) (gp : BitVec 4)
  | vxor (lt : LaneType) (vd va vb : BitVec 5) (gp : BitVec 4)
  | vshl (lt : LaneType) (vd va vb : BitVec 5) (gp : BitVec 4)
  | vshr (lt : LaneType) (vd va vb : BitVec 5) (gp : BitVec 4)
  | vsar (lt : LaneType) (vd va vb : BitVec 5) (gp : BitVec 4)
  | vcmp (lt : LaneType) (c : Cond) (nv : Bool) (vd va vb : BitVec 5) (pd gp : BitVec 4)
  | vsel (lt : LaneType) (vd va vb : BitVec 5) (ps gp : BitVec 4)
  | vperm (vd va vb : BitVec 5) (gp : BitVec 4)
  | vsplat (lt : LaneType) (vd : BitVec 5) (g : BitVec 6) (gp : BitVec 4)
  | vextr (lt : LaneType) (s : Bool) (g : BitVec 6) (va : BitVec 5) (idx : BitVec 4)
  | vins (lt : LaneType) (vd : BitVec 5) (g : BitVec 6) (idx : BitVec 4) (gp : BitVec 4)
  | vred (lt : LaneType) (op : RedOp) (r : Rnd) (vd va : BitVec 5) (gp : BitVec 4)
  | vmov (lt : LaneType) (vd va : BitVec 5) (gp : BitVec 4)
  -- vector float (R280 to R283); f19 selects lane type 5
  | vfadd (f19 : Bool) (r : Rnd) (vd va vb : BitVec 5) (gp : BitVec 4)
  | vfsub (f19 : Bool) (r : Rnd) (vd va vb : BitVec 5) (gp : BitVec 4)
  | vfmul (f19 : Bool) (r : Rnd) (vd va vb : BitVec 5) (gp : BitVec 4)
  | vfma (f19 : Bool) (r : Rnd) (np nc : Bool) (vd va vb vc : BitVec 5) (gp : BitVec 4)
  | vfmin (f19 : Bool) (vd va vb : BitVec 5) (gp : BitVec 4)
  | vfmax (f19 : Bool) (vd va vb : BitVec 5) (gp : BitVec 4)
  | vfcmp (f19 : Bool) (c : FCond) (nv : Bool) (vd va vb : BitVec 5) (pd gp : BitVec 4)
  | vsfu (f19 : Bool) (r : Rnd) (fn : SfuFn) (vd va : BitVec 5) (gp : BitVec 4)
  -- conversion, codes, planes (R284 to R296)
  | vcvt (dst src : LaneType) (r : Rnd) (su du sat : Bool) (part : BitVec 2) (vd va : BitVec 5) (gp : BitVec 4)
  | vdec (b : Bool) (g : BitVec 5) (x : BitVec 4) (vd va vc : BitVec 5) (gp : BitVec 4)
  | venc (f19 : Bool) (b : Bool) (g : BitVec 5) (x : BitVec 4) (vd va vb vc : BitVec 5)
  | vplaneScan (f19 : Bool) (r : Rnd) (vd va vc : BitVec 5)
  | vplaneFix (r : Rnd) (w : BitVec 5) (vd va : BitVec 5)
  | vplaneAlign (f19 : Bool) (r : Rnd) (q : BitVec 2) (kind : ByteKind) (vd va vb vc : BitVec 5)
  | vplaneTr (r : Rnd) (pair : BitVec 2) (vd va vb vc : BitVec 5)
  | vunplGather (i16 : Bool) (g : BitVec 3) (r : BitVec 2) (h : Bool) (vd va vb : BitVec 5)
  | vunplVal (i16 : Bool) (q : BitVec 2) (vd va vb vc : BitVec 5)
  | vquant (half : Bool) (h : BitVec 5) (vd va vc : BitVec 5) (gp : BitVec 4)
  | vquantInv (half : Bool) (h : BitVec 5) (vd va vb vc : BitVec 5) (gp : BitVec 4)
  | vrand (lt : LaneType) (vd : BitVec 5) (gp : BitVec 4)
  -- the semiring array (R316 to R323)
  | alease (l : BitVec 6)
  | arel
  | aset (o : Ord) (t : Bool) (entry : BitVec 4) (p : BitVec 5) (sat skip rm : Bool)
  | aldb (o : Ord) (t : Bool) (view : View) (ga gb : BitVec 6) (rstr : BitVec 11) (n : BitVec 8) (k : BitVec 10)
  | astr (o : Ord) (t : Bool) (view : View) (ga : BitVec 6) (aoff : BitVec 14) (rstr : BitVec 11) (m : BitVec 11)
  | adrn (o : Ord) (t : Bool) (view : View) (ga : BitVec 6) (aoff : BitVec 14) (n m : BitVec 8) (wd : BitVec 4)
      (clr tr : Bool) (mode : DrainMode)
  | azero (o : Ord) (t : Bool) (aoff : BitVec 14) (n m : BitVec 8)
  | amark (acq : Bool) (scope : BitVec 3) (tag : BitVec 32)
  | qpush (n : BitVec 3) (ga : BitVec 6)
  -- fetch, port engines, responses (R34, R54, R147, R214)
  | bundleFetch (slot : Nat)
  | istoreFill (fill : Nat)
  | portEngineMessage (packet : Nat)
  | deferredRetryResend (packet : Nat)
  | accessResponse (packet : Nat)
  | scrubClearingEnd (scrub : Nat)
  -- copies and translation (R87, R88, R96, R108, R113)
  | copyCommand (copy : Nat)
  | burstAdmission (copy : Nat)
  | burstComplete (copy burst : Nat)
  | copyCompletion (copy : Nat)
  | mailboxRecordPlace (mailbox : Nat)
  | tlbInvalidation (inv channel : Nat)
  | geyserPrefetch (channel stream : Nat)
  -- trap messages, page requests, the host (R91 to R99, R381)
  | trapMessage (msg : Nat)
  | hubTrapMessage (beacon : Nat)
  | pageRequestRecord (req : Nat)
  | pageResponse (vf : Nat) (rid : Word) (gen : BitVec 16) (code : BitVec 2)
  | priPageRequest (req : PriAsk)
  | prgResponse (vf : Nat) (index : Nat) (gen : BitVec 16) (code : BitVec 2)
  | hostCompletion (req : Nat) (error : Bool)
  | hostCompletionTimeout (req : Nat)
  | atsInvalidateRequest (vf : Nat) (va len : Nat)
  | atsInvalidateCompletion (inv : Nat)
  -- multicast and reduce (R120 to R122, R421)
  | multicastJoin (join : Nat)
  | multicastJoinAck (join : Nat)
  | multicastLeave (leave : Nat)
  | multicastPush (tile router : Nat)
  | multicastDelivery (tile core : Nat)
  | reduceContribution (copy : Nat)
  -- tasks and futures (R125, R170, R171, R176, R336, R346, R353)
  | spawnRecordRead (packet : Nat)
  | futureEvent (packet : Nat)
  | futureWake (packet : Nat)
  | spillWriteCompletion (spill : Nat)
  | spillReadCompletion (spill : Nat)
  | joinDecrement (packet : Nat)
  | sendMessageArrival (packet : Nat)
  | sendRetryResend (packet : Nat)
  -- launches and the Lamplighter (R356 to R372)
  | launchRecord (vf : Nat) (whole : Bool) (dwords : List Word)
  | launchCheck (tag : Nat)
  | launchRangeRequest (tag lseq cluster : Nat)
  | launchCompletion (tag lseq : Nat)
  | taskDispatch (cluster : Nat)
  | tilePrefetchStart (cluster : Nat)
  | prefetchCompletion (copy : Nat)
  | stealRequest (cluster : Nat)
  | budgetPeriod
  | watchdogExpiry (frame : Nat)
  | timerExpiry (core : Nat)
  | mailInterrupt (slot : Nat)
  | engineTrapEntry (slot : Nat)
  | cancelInterrupt (slot : Nat)
  -- the array's own steps (R305 to R308)
  | leaseGrant (cluster : Nat)
  | leaseExpiry (cluster : Nat)
  | arrayCommandComplete (cluster : Nat)
  -- pre-emption and containment (R385 to R393)
  | preemptSlice (tag : Nat)
  | preempt (core : Nat)
  | contextSave (tag : Nat)
  | contextSaveDone (tag : Nat)
  | resume (tag : Nat)
  | restoreDone (tag : Nat)
  | containmentDelayExpiry (tag : Nat)
  | containmentReset (tag : Nat) (cause : BitVec 8)
  | partitionResetRequest (tag : Nat)
  -- Caldera and certificates (R403 to R408)
  | scrubCommand (tag : Nat) (scope : BitVec 32) (assign : Bool) (seed : Word)
  | scrubComplete (tag : Nat)
  | certificateSigned (tag : Nat)
  | certificateWriteDone (tag : Nat)
  | token (vf : Nat) (ptr : Word)
  -- register and table writes (R70, R75, R76, R92, R93, R394, R398, R410, R420, R421)
  | prring (vf : Nat) (ptr : Word)
  | run (vf k t word : Nat) (v : Word)
  | geyserThreadStop (slot : Nat)
  | channelTableWrite (channel k : Nat) (owners : List Owner)
  | steeringTableWrite (tag : Nat) (entries : List Nat)
  | logicalTableWrite (tag : Nat) (entries : List (BitVec 32))
  | routeTableWrite (module : Nat) (entry : BitVec 32) (schedule : Option (List (Nat × Nat × Nat)))
  | communicatorWrite (num : Nat) (part : BitVec 10) (op : BitVec 2) (members : List Nat)
  | guestTimeOffsetWrite (tag : Nat) (x : Word)
  | hubTableWrite (w : HubWrite)
  | pageStaleClear (vf : Nat) (bits : Word)
  -- host rings (R413 to R415)
  | ringUpdate (tag ring : Nat)
  | ringNoticeTimeout (tag ring : Nat)
  | ringConsReread (key : Nat)
  -- links, time, power, health, resets (R93, R99, R418 to R430)
  | flitReceive (link : Nat) (crcOk : Bool) (flit : Flit)
  | linkDown (link : Nat)
  | linkRetrain (link : Nat)
  | timestampSync (ppm : Int)
  | powerSample (readings : PowerReadings)
  | ageingMonitorRead (die : Nat) (millivolts : Nat) (holds : Bool)
  | patrolScrub (device : Bool) (addr : Nat) (outcome : Nat)
  | moduleReset (image : BootImage) (digest : BitVec 256)
  | hostLinkChange (up : Bool)
  | virtualFunctionReset (vf : Nat)
  deriving DecidableEq, Repr, Inhabited

end Sys2Proof
end

