-- ==== Sys2Proof/WellFormed.lean ====
section
/-! DEFINITION. Which operations an encoding of the tables of "Instruction encoding" can hold (R206 to R213 and the
field limits each description states). The steps of the other agents carry data of the machine, not fields of an
encoding: for those the numbers that the spec bounds are checked. -/

namespace Sys2Proof

/-- The number of bytes of an access size. -/
def Size.bytes : Size → Nat
  | .b => 1 | .h => 2 | .w => 4 | .d => 8

/-- Integer lane types 0 to 3 (R210). -/
def LaneType.isInt : LaneType → Bool
  | .i8 | .i16 | .i32 | .i64 => true
  | _ => false

/-- Lane types 4 and 5 (R210). -/
def LaneType.isFloat : LaneType → Bool
  | .f32 | .f19 => true
  | _ => false

/-- Lane width in bits (R268). -/
def LaneType.bits : LaneType → Nat
  | .i8 => 8 | .i16 => 16 | .i32 => 32 | .i64 => 64 | .f32 => 32 | .f19 => 32 | .c4 => 4 | .c8 => 8

/-- Number of lanes of a register (R268). -/
def LaneType.lanes (lt : LaneType) : Nat := 128 / lt.bits

/-- A flagged field names one of q0 to q7 (R208). -/
def QFlags.fieldOk (flag : Bool) (r : BitVec 6) : Bool := !flag || r.toNat < 8

/-- The queue flags of a G3 tail fit its fields, and QA and QB name two queues (R208). -/
def QFlags.ok (q : QFlags) (rd ra rb : BitVec 6) : Bool :=
  QFlags.fieldOk q.qd rd && QFlags.fieldOk q.qa ra && QFlags.fieldOk q.qb rb && !(q.qa && q.qb && ra == rb)

/-- Lane types and fields that VRED accepts (R279). -/
def RedOp.accepts (op : RedOp) (lt : LaneType) (r : Rnd) : Bool :=
  match op with
  | .fadd => lt.isFloat
  | .fmin | .fmax => lt.isFloat && r == .rne
  | _ => lt.isInt && r == .rne

/-- Number of source elements read and destination elements written by VCVT: the smaller lane count (R284). -/
def vcvtParts (dst src : LaneType) : Nat :=
  if dst.bits = src.bits then 1
  else if src.bits < dst.bits then src.lanes / dst.lanes
  else dst.lanes / src.lanes

/-- Type, sign, saturation and part limits of VCVT (R284). -/
def vcvtOk (dst src : LaneType) (su du sat : Bool) (part : BitVec 2) : Bool :=
  (dst.isInt || dst.isFloat) && (src.isInt || src.isFloat) && dst != src &&
  !(su && src.isFloat) && !(du && dst.isFloat) &&
  !(sat && !(dst.isInt && src.isInt && decide (dst.bits < src.bits))) &&
  decide (part.toNat < vcvtParts dst src)

/-- The range of P that ASET accepts for an entry of the operator table (R312, R317). -/
def asetOk (entry : BitVec 4) (p : BitVec 5) : Bool :=
  match entry.toNat with
  | 0 | 3 | 5 | 6 => decide (1 ≤ p.toNat ∧ p.toNat ≤ 16)
  | 1 | 2 => decide (4 ≤ p.toNat ∧ p.toNat ≤ 16)
  | 4 => decide (2 ≤ p.toNat ∧ p.toNat ≤ 16)
  | 7 | 8 | 9 => decide (p.toNat = 1)
  | _ => false

/-- The index of TABW and TABR is aligned for its form (R248). -/
def tabOk (fn : BitVec 2) (x : BitVec 8) : Bool :=
  match fn.toNat with
  | 2 => x.toNat % 8 == 0
  | 3 => x.toNat % 2 == 0
  | _ => true

/-- An instruction that the encodings of R206 to R213 can hold, or a step of another agent whose numbers lie in the
ranges the spec gives them. -/
def Instr.wf : Instr → Bool
  | .add q d a b | .sub q d a b | .mul q d a b | .mulh q d a b | .mulhu q d a b | .div q d a b | .divu q d a b
  | .rem q d a b | .remu q d a b | .and q d a b | .or q d a b | .xor q d a b | .shl q d a b | .shr q d a b
  | .sar q d a b | .rol q d a b | .min q d a b | .max q d a b | .minu q d a b | .maxu q d a b => q.ok d a b
  | .adc q d a b _ _ | .sbc q d a b _ _ | .sel q d a b _ _ | .cmp q d a b _ _ => q.ok d a b
  | .bfx q d a b _ _ => q.ok d a b
  | .bfi q d a b _ => !q.qd && q.ok d a b
  | .spawni _ ra rb _ _ _ nt => !nt || (ra == 0 && rb == 0)
  | .send _ rb _ _ => decide (rb.toNat ≤ 62)
  | .tabw fn x _ | .tabr fn x _ => tabOk fn x
  | .vadd lt _ _ _ _ _ | .vsub lt _ _ _ _ _ | .vadc lt _ _ _ _ _ _ | .vsbc lt _ _ _ _ _ _ | .vmul lt _ _ _ _
  | .vmulh lt _ _ _ _ _ | .vmin lt _ _ _ _ _ | .vmax lt _ _ _ _ _ | .vabs lt _ _ _ | .vshl lt _ _ _ _
  | .vshr lt _ _ _ _ | .vsar lt _ _ _ _ | .vrand lt _ _ => lt.isInt
  | .vmadw lt _ _ _ _ _ _ _ _ => lt == .i32 || lt == .i64
  | .vcmp lt _ nv vd _ _ _ _ => lt.isInt && (!nv || vd == 0)
  | .vfcmp _ _ nv vd _ _ _ _ => !nv || vd == 0
  | .vsplat lt _ _ _ => lt.isInt || lt == .f32
  | .vextr lt _ _ _ idx => (lt.isInt || lt == .f32) && decide (idx.toNat < lt.lanes)
  | .vins lt _ _ idx _ => (lt.isInt || lt == .f32) && decide (idx.toNat < lt.lanes)
  | .vred lt op r _ _ _ => op.accepts lt r
  | .vcvt dst src _ su du sat part _ _ _ => vcvtOk dst src su du sat part
  | .vplaneFix _ w _ _ => decide (4 ≤ w.toNat ∧ w.toNat ≤ 16)
  | .vunplGather i16 g _ h _ _ _ => if i16 then decide (g.toNat ≤ 5) else decide (g.toNat ≤ 2) && !h
  | .vunplVal i16 q _ _ _ _ => if i16 then decide (q.toNat < 2) else true
  | .aset _ _ entry p _ _ _ => asetOk entry p
  | .aldb _ _ _ _ _ _ _ k => decide (k.toNat < 768)
  | .adrn _ _ _ _ _ _ _ wd _ _ mode => mode == .planes || wd == 0
  | .qpush n _ => decide (2 ≤ n.toNat)
  | .xtlbiAll _ am => am == .own
  | .launchRecord vf _ ds => decide (1 ≤ vf ∧ vf ≤ 1024 ∧ ds.length = 8)
  | .pageResponse vf _ _ _ | .pageStaleClear vf _ | .token vf _ | .prring vf _ | .virtualFunctionReset vf
  | .prgResponse vf _ _ _ | .atsInvalidateRequest vf _ _ => decide (1 ≤ vf ∧ vf ≤ 1024)
  | .run vf _ t word _ => decide (1 ≤ vf ∧ vf ≤ 1024 ∧ 1 ≤ t ∧ t ≤ 3 ∧ word < 3)
  | .channelTableWrite ch k owners => decide (ch < 1024 ∧ k ≤ 4 ∧ owners.length ≤ 16)
  | .steeringTableWrite tag es => decide (tag < 1024 ∧ es.length = 256)
  | .logicalTableWrite tag es => decide (tag < 1024 ∧ 1 ≤ es.length ∧ es.length ≤ 65536)
  | .communicatorWrite num _ _ ms => decide (num < 4096 ∧ 1 ≤ ms.length ∧ ms.length ≤ 65536)
  | .linkDown l | .linkRetrain l => decide (l < 18)
  | .flitReceive l _ _ => decide (l < 18)
  | _ => true

end Sys2Proof
end

