-- ==== Sys2Proof/Decode.lean ====
section
/-! DEFINITION. The decoder of operation heads and tails, of lines and of bundles (R201 to R215), total on any bytes,
and after it the encoder, written from the same tables. -/

namespace Sys2Proof

/-! ## Fields -/

/-- Bits [lo + n − 1 : lo] of a tail. -/
def fld (t : BitVec 64) (lo n : Nat) : BitVec n := t.extractLsb' lo n

/-- Bit i of a tail as a Boolean. -/
def flag (t : BitVec 64) (i : Nat) : Bool := t.getLsbD i

/-- Bits [lo + n − 1 : lo] of a tail are zero. -/
def zeros (t : BitVec 64) (lo n : Nat) : Bool := t.extractLsb' lo n == 0#n

/-- What the tail of a known opcode gives. -/
inductive OpDec where
  /-- an operation -/
  | op (i : Instr)
  /-- a field that must be zero is not, or a register field names no register: reason 8 of R214 -/
  | zero
  /-- a check of the operation itself fails: ILLEGAL, with the c.eval its description states (none where it states
  no value) -/
  | own (eval : Option Word)
  deriving DecidableEq, Repr, Inhabited

/-- The operation when the zero fields are zero. -/
def OpDec.guard (ok : Bool) (d : OpDec) : OpDec := if ok then d else .zero

/-- The operation when its own check holds. -/
def OpDec.check (ok : Bool) (eval : Option Word) (d : OpDec) : OpDec := if ok then d else .own eval

/-! ## Codes of enumerated fields -/

def condOf : Nat → Option Cond
  | 0 => some .eq | 1 => some .ne | 2 => some .lt | 3 => some .ge | 4 => some .ltu | 5 => some .geu
  | 6 => some .le | 7 => some .gt | 8 => some .leu | 9 => some .gtu | 10 => some .tst | 11 => some .ntst
  | _ => none

def fcondOf : Nat → Option FCond
  | 0 => some .eq | 1 => some .ne | 2 => some .lt | 3 => some .le | 4 => some .gt | 5 => some .ge
  | 6 => some .un | 7 => some .ord | _ => none

def amodeOf (b : BitVec 2) : AMode :=
  if b = 0 then .own else if b = 1 then .blk else if b = 2 then .ilv else .gen

def sizeOf2 (b : BitVec 2) : Size :=
  if b = 0 then .b else if b = 1 then .h else if b = 2 then .w else .d

def amoOf : Nat → Option AmoOp
  | 0 => some .swap | 1 => some .add | 2 => some .and | 3 => some .or | 4 => some .xor | 5 => some .min
  | 6 => some .max | 7 => some .minu | 8 => some .maxu | _ => none

def laneOf (b : BitVec 3) : LaneType :=
  if b = 0 then .i8 else if b = 1 then .i16 else if b = 2 then .i32 else if b = 3 then .i64
  else if b = 4 then .f32 else if b = 5 then .f19 else if b = 6 then .c4 else .c8

def rndOf : Nat → Option Rnd
  | 0 => some .rne | 1 => some .rz | 2 => some .ru | 3 => some .rd | 4 => some .rs | _ => none

def satOf : Nat → Option Sat
  | 0 => some .wrap | 1 => some .signed | 2 => some .unsigned | _ => none

def redOf : Nat → Option RedOp
  | 0 => some .add | 1 => some .min | 2 => some .max | 3 => some .minu | 4 => some .maxu | 5 => some .and
  | 6 => some .or | 7 => some .xor | 8 => some .fadd | 9 => some .fmin | 10 => some .fmax | _ => none

def sfuOf : Nat → Option SfuFn
  | 0 => some .rcp | 1 => some .rsq | 2 => some .sqrt | 3 => some .exp2 | 4 => some .log2 | 5 => some .sinpi
  | 6 => some .cospi | 7 => some .tanh | _ => none

def kindOf : Nat → Option ByteKind
  | 0 => some .lo | 1 => some .hi | 2 => some .spec | _ => none

def viewOf : Nat → Option View
  | 0 => some .own | 1 => some .blk | 2 => some .ilv | _ => none

def drainOf : Nat → Option DrainMode
  | 0 => some .raw | 1 => some .fp32 | 2 => some .planes | _ => none

/-! ## Tails of the S slot (R206, R211) -/

/-- A G3 operation of the integer group without modifier (R225). -/
def decG3 (t : BitVec 64) (f : QFlags → BitVec 6 → BitVec 6 → BitVec 6 → Instr) : OpDec :=
  let q : QFlags := ⟨flag t 13, flag t 12, flag t 11⟩
  let rd := fld t 26 6
  let ra := fld t 20 6
  let rb := fld t 14 6
  .guard (zeros t 0 11 && QFlags.fieldOk q.qd rd && QFlags.fieldOk q.qa ra && QFlags.fieldOk q.qb rb)
    (.op (f q rd ra rb))

/-- The G3 operations with a modifier (R227, R228, R225 SEL, R232). -/
def decG3Mod (t : BitVec 64) (modOk : Bool) (f : QFlags → BitVec 6 → BitVec 6 → BitVec 6 → OpDec) : OpDec :=
  let q : QFlags := ⟨flag t 13, flag t 12, flag t 11⟩
  let rd := fld t 26 6
  let ra := fld t 20 6
  let rb := fld t 14 6
  .guard (modOk && QFlags.fieldOk q.qd rd && QFlags.fieldOk q.qa ra && QFlags.fieldOk q.qb rb) (f q rd ra rb)

/-- A GI operation (R229). -/
def decGI (t : BitVec 64) (f : BitVec 6 → BitVec 6 → BitVec 20 → Instr) : OpDec :=
  .op (f (fld t 26 6) (fld t 20 6) (fld t 0 20))

/-- An immediate shift: imm[19:6] must be zero (R229). -/
def decShift (t : BitVec 64) (f : BitVec 6 → BitVec 6 → BitVec 6 → Instr) : OpDec :=
  .guard (zeros t 6 14) (.op (f (fld t 26 6) (fld t 20 6) (fld t 0 6)))

/-- A unary G2 operation on g registers: another fn is ILLEGAL with c.eval 0 (R231). -/
def decUn (t : BitVec 64) (f : BitVec 6 → BitVec 6 → Instr) : OpDec :=
  .check (zeros t 0 4) (some 0) (.op (f (fld t 10 6) (fld t 4 6)))

/-- A binary predicate operation: p fields fit four bits (R231). -/
def decPp (t : BitVec 64) (f : BitVec 4 → BitVec 4 → BitVec 4 → Instr) : OpDec :=
  .guard (zeros t 14 2 && zeros t 8 2) (.op (f (fld t 10 4) (fld t 4 4) (fld t 0 4)))

/-- MOVP: three forms by fn; others ILLEGAL with c.eval 0 (R231). -/
def decMovp (t : BitVec 64) : OpDec :=
  match (fld t 0 4).toNat with
  | 0 => .guard (zeros t 14 2) (.op (.movpPredFromG (fld t 10 4) (fld t 4 6)))
  | 1 => .guard (zeros t 8 2) (.op (.movpGFromPred (fld t 10 6) (fld t 4 4)))
  | 2 => .guard (zeros t 14 2 && zeros t 8 2) (.op (.movpPredFromPred (fld t 10 4) (fld t 4 4)))
  | _ => .own (some 0)

/-- A BR tail (R209): predicate, invert, line delta, head index. -/
def decBr (t : BitVec 64) (f : BitVec 4 → Bool → BitVec 22 → BitVec 5 → Instr) : OpDec :=
  .op (f (fld t 28 4) (flag t 27) (fld t 5 22) (fld t 0 5))

/-- JMP and JAL: predicate and invert must be zero (R235). -/
def decJ (t : BitVec 64) (f : BitVec 22 → BitVec 5 → Instr) : OpDec :=
  .guard (zeros t 27 5) (.op (f (fld t 5 22) (fld t 0 5)))

/-- A MEM tail that names a g register (R251, R252). -/
def decMem (t : BitVec 64) (f : BitVec 6 → BitVec 6 → AMode → Size → BitVec 16 → Instr) : OpDec :=
  .op (f (fld t 26 6) (fld t 20 6) (amodeOf (fld t 18 2)) (sizeOf2 (fld t 16 2)) (fld t 0 16))

/-- A MEM tail that names a v register: rt[5] and size must be zero (R251). -/
def decVMem (t : BitVec 64) (f : BitVec 5 → BitVec 6 → AMode → BitVec 16 → Instr) : OpDec :=
  .guard (zeros t 31 1 && zeros t 16 2) (.op (f (fld t 26 5) (fld t 20 6) (amodeOf (fld t 18 2)) (fld t 0 16)))

/-- The acq, rel and scope fields of a MEMX tail. -/
def memxOrd (t : BitVec 64) : Ord := ⟨flag t 34, flag t 33, fld t 35 3⟩

/-- AMO (R253): op codes 9 to 15 and sizes 0 and 1 are ILLEGAL with c.eval 0. -/
def decAmo (t : BitVec 64) : OpDec :=
  .guard (zeros t 32 1) <|
  .check (flag t 43) (some 0) <|
  match amoOf (fld t 38 4).toNat with
  | some op => .op (.amo (fld t 58 6) (fld t 52 6) (fld t 46 6) (amodeOf (fld t 44 2)) (flag t 42) op (memxOrd t)
      (fld t 0 32))
  | none => .own (some 0)

/-- CAS (R254): the op field is zero, sizes 0 and 1 are ILLEGAL with c.eval 0. -/
def decCas (t : BitVec 64) : OpDec :=
  .guard (zeros t 32 1 && zeros t 38 4) <|
  .check (flag t 43) (some 0) <|
  .op (.cas (fld t 58 6) (fld t 52 6) (fld t 46 6) (amodeOf (fld t 44 2)) (flag t 42) (memxOrd t) (fld t 0 32))

/-- FENCE (R256): every other field is zero. -/
def decFence (t : BitVec 64) : OpDec :=
  .guard (zeros t 0 33 && zeros t 38 26) (.op (.fence (memxOrd t)))

/-- XLD and XST (R264): rc and op are zero. -/
def decX (t : BitVec 64) (f : BitVec 6 → BitVec 6 → AMode → Size → Ord → BitVec 32 → Instr) : OpDec :=
  .guard (zeros t 32 1 && zeros t 46 6 && zeros t 38 4)
    (.op (f (fld t 58 6) (fld t 52 6) (amodeOf (fld t 44 2)) (sizeOf2 (fld t 42 2)) (memxOrd t) (fld t 0 32)))

/-- XPUSH (R265): size and op are zero. -/
def decXpush (t : BitVec 64) : OpDec :=
  .guard (zeros t 32 1 && zeros t 38 6)
    (.op (.xpush (fld t 58 6) (fld t 52 6) (fld t 46 6) (amodeOf (fld t 44 2)) (memxOrd t) (fld t 0 32)))

/-- XPREF (R266): rt, rc, size, op, acq, rel and scope are zero. -/
def decXpref (t : BitVec 64) : OpDec :=
  .guard (zeros t 58 6 && zeros t 32 12 && zeros t 46 6)
    (.op (.xpref (fld t 52 6) (amodeOf (fld t 44 2)) (fld t 0 32)))

/-- XTLBI (R267): op 0 names a range, op 1 the whole partition, others are ILLEGAL with c.eval 0. -/
def decXtlbi (t : BitVec 64) : OpDec :=
  .guard (zeros t 32 6 && zeros t 42 2) <|
  match (fld t 38 4).toNat with
  | 0 => .op (.xtlbi (fld t 58 6) (fld t 52 6) (fld t 46 6) (amodeOf (fld t 44 2)) (fld t 0 32))
  | 1 => .guard (zeros t 44 14 && zeros t 0 32) (.op (.xtlbiAll (fld t 58 6) .own))
  | _ => .own (some 0)

/-- The task, future and message operations with a TK tail (R329, R333). -/
def decTk (op : Nat) (t : BitVec 64) : OpDec :=
  let rd := fld t 26 6
  let ra := fld t 20 6
  let rb := fld t 14 6
  let pd := fld t 0 4
  match op with
  | 0x0C0 => .guard (zeros t 5 9) (.op (.spawn rd ra rb pd (flag t 4)))
  | 0x0C1 => .guard (zeros t 5 9) (.op (.spawnr rd ra rb pd (flag t 4)))
  | 0x0C2 => .guard (zeros t 8 6 && (!flag t 7 || (ra == 0 && rb == 0)))
      (.op (.spawni rd ra rb pd (flag t 4) (fld t 5 2) (flag t 7)))
  | 0x0C3 => .guard (zeros t 4 16) (.op (.grow rd ra pd))
  | 0x0C4 => .guard (zeros t 5 15) (.op (.touch rd ra pd (flag t 4)))
  | 0x0C5 => .guard (zeros t 0 20) (.op (.touchq rd ra))
  | 0x0C6 => .guard (zeros t 4 10 && zeros t 26 6) (.op (.resolve ra rb pd))
  | 0x0C7 => .guard (zeros t 0 20) (.op (.cancel rd ra))
  | 0x0C8 => .guard (zeros t 4 16 && zeros t 26 6) (.op (.fdrop ra pd))
  | 0x0C9 => .guard (zeros t 0 5 && zeros t 7 7) (.op (.joini rd ra rb (fld t 5 2)))
  | 0x0CC => .guard (zeros t 0 26) (.op (.waitm rd))
  | _ => .guard (zeros t 9 5 && zeros t 26 6)
      (.check (decide (rb.toNat ≤ 62)) none (.op (.send ra rb (fld t 0 8) (flag t 8))))

/-- The system operations with an SY tail (R239, R242 to R248). -/
def decSy (op : Nat) (t : BitVec 64) : OpDec :=
  let rd := fld t 26 6
  let ra := fld t 20 6
  let num := fld t 8 12
  let fn := fld t 0 8
  let x := fld t 8 8
  match op with
  | 0x0E0 => .guard (zeros t 8 24) (.op (.trap fn))
  | 0x0E2 => .check (zeros t 0 8 && zeros t 20 6) (some (num.setWidth 64)) (.op (.crd rd num))
  | 0x0E3 => .check (zeros t 0 8 && zeros t 26 6) (some (num.setWidth 64)) (.op (.cwr ra num))
  | 0x0E4 => .guard (zeros t 0 26) (.op (.time rd))
  | 0x0E5 => .guard (zeros t 8 12 && zeros t 26 6) <|
      .check (zeros t 1 7) none <|
      .guard (flag t 0 || ra == 0) (.op (.flushi (flag t 0) ra))
  | 0x0E8 => .guard (zeros t 8 18 && zeros t 3 5) (.op (.scrub rd (fld t 0 3)))
  | 0x0E9 => .guard (zeros t 16 4) <|
      .check (zeros t 2 6 && zeros t 26 6 && tabOk (fld t 0 2) x) (some (x.setWidth 64)) (.op (.tabw (fld t 0 2) x ra))
  | _ => .guard (zeros t 16 4 && zeros t 20 6) <|
      .check (zeros t 2 6 && tabOk (fld t 0 2) x) (some (x.setWidth 64)) (.op (.tabr (fld t 0 2) x rd))

/-- The tail of an S operation whose opcode is assigned (R211). -/
def decodeS (op : Nat) (t : BitVec 64) : OpDec :=
  match op with
  | 0x000 => decG3 t .add | 0x001 => decG3 t .sub | 0x002 => decG3 t .mul | 0x003 => decG3 t .mulh
  | 0x004 => decG3 t .mulhu | 0x005 => decG3 t .div | 0x006 => decG3 t .divu | 0x007 => decG3 t .rem
  | 0x008 => decG3 t .remu | 0x009 => decG3 t .and | 0x00A => decG3 t .or | 0x00B => decG3 t .xor
  | 0x00C => decG3 t .shl | 0x00D => decG3 t .shr | 0x00E => decG3 t .sar | 0x00F => decG3 t .rol
  | 0x010 => decG3 t .min | 0x011 => decG3 t .max | 0x012 => decG3 t .minu | 0x013 => decG3 t .maxu
  | 0x014 => decG3Mod t (zeros t 8 3) fun q d a b => .op (.adc q d a b (fld t 0 4) (fld t 4 4))
  | 0x015 => decG3Mod t (zeros t 8 3) fun q d a b => .op (.sbc q d a b (fld t 0 4) (fld t 4 4))
  | 0x016 => decG3Mod t (zeros t 5 6) fun q d a b => .op (.sel q d a b (fld t 0 4) (flag t 4))
  | 0x017 => decG3Mod t (zeros t 8 3) fun q d a b =>
      match condOf (fld t 4 4).toNat with
      | some c => .op (.cmp q d a b (fld t 0 4) c)
      | none => .own (some 0)
  | 0x020 => decGI t .addi | 0x021 => decGI t .andi | 0x022 => decGI t .ori | 0x023 => decGI t .xori
  | 0x024 => decShift t .shli | 0x025 => decShift t .shri | 0x026 => decShift t .sari
  | 0x027 =>
      match condOf (fld t 16 4).toNat with
      | some c => .op (.cmpi (fld t 26 6) (fld t 20 6) c (fld t 12 4) (fld t 0 12))
      | none => .own (some 0)
  | 0x028 => .guard (zeros t 20 6) (.op (.lea (fld t 26 6) (fld t 5 15) (fld t 0 5)))
  | 0x030 => decUn t .clz | 0x031 => decUn t .ctz | 0x032 => decUn t .popc | 0x033 => decMovp t
  | 0x034 => decPp t .pand | 0x035 => decPp t .por | 0x036 => decPp t .pxor
  | 0x037 => .guard (zeros t 14 2 && zeros t 8 2)
      (.check (zeros t 0 4) (some 0) (.op (.pnot (fld t 10 4) (fld t 4 4))))
  | 0x038 => decG3Mod t (zeros t 7 4) fun q d a b => .op (.bfx q d a b (fld t 0 6) (flag t 6))
  | 0x039 => decG3Mod t (zeros t 7 4) fun q d a b =>
      .check (!flag t 6 && !q.qd) (some 0) (.op (.bfi q d a b (fld t 0 6)))
  | 0x040 => .guard (zeros t 52 6 && zeros t 49 3) (.op (.li (fld t 58 6) (flag t 48) (fld t 0 48)))
  | 0x041 => .guard (zeros t 16 42) (.op (.lih (fld t 58 6) (fld t 0 16)))
  | 0x048 =>
      match (fld t 0 4).toNat with
      | 0 => .op (.gptrOwn (fld t 10 6) (fld t 4 6))
      | 1 => .op (.gptrBlk (fld t 10 6) (fld t 4 6))
      | 2 => .op (.gptrIlv (fld t 10 6) (fld t 4 6))
      | _ => .own (some 0)
  | 0x049 =>
      match (fld t 0 4).toNat with
      | 0 => .op (.gwinCls (fld t 10 6) (fld t 4 6))
      | 1 => .op (.gwinLoc (fld t 10 6) (fld t 4 6))
      | _ => .own (some 0)
  | 0x050 => decBr t .br | 0x051 => decBr t .brc | 0x052 => decJ t .jmp | 0x053 => decJ t .jal
  | 0x054 =>
      match (fld t 0 4).toNat with
      | 0 => .guard (zeros t 10 6) (.op (.jr (fld t 4 6)))
      | 1 => .op (.jalr (fld t 10 6) (fld t 4 6))
      | _ => .zero
  | 0x055 => .op (.loop (fld t 26 6) (fld t 20 6) (fld t 5 15) (fld t 0 5))
  | 0x056 => .op .nop
  | 0x080 => decMem t .ld | 0x081 => decMem t .st | 0x082 => decMem t .lds | 0x083 => decMem t .ldsp
  | 0x084 => decMem t .sts
  | 0x085 =>
      match (fld t 26 6).toNat with
      | 0 => .op (.fesetEmpty (fld t 20 6) (amodeOf (fld t 18 2)) (sizeOf2 (fld t 16 2)) (fld t 0 16))
      | 1 => .op (.fesetFull (fld t 20 6) (amodeOf (fld t 18 2)) (sizeOf2 (fld t 16 2)) (fld t 0 16))
      | _ => .zero
  | 0x086 => decVMem t .vld | 0x087 => decVMem t .vst
  | 0x088 => decAmo t | 0x089 => decCas t | 0x08A => decFence t
  | 0x08B => .guard (zeros t 0 26) (.op (.cgo (fld t 26 6)))
  | 0x08C => .guard (zeros t 0 14) (.op (.csub (fld t 26 6) (fld t 20 6) (fld t 14 6)))
  | 0x08D => .guard (zeros t 0 20) (.op (.cunsub (fld t 26 6) (fld t 20 6)))
  | 0x0A0 => decX t .xld | 0x0A1 => decX t .xst | 0x0A2 => decXpush t | 0x0A3 => decXpref t | 0x0A4 => decXtlbi t
  | 0x0CA => .op .retire | 0x0CB => .op .waitw | 0x0CD => .op .yield
  | 0x0E1 => .op .eret | 0x0E6 => .op .dbrk | 0x0E7 => .op .halt
  | 0x0E0 | 0x0E2 | 0x0E3 | 0x0E4 | 0x0E5 | 0x0E8 | 0x0E9 | 0x0EA => decSy op t
  | _ => decTk op t

/-! ## Tails of the V slot (R206, R212) -/

/-- An integer V3 operation whose fn is zero (R272). -/
def decV3 (t : BitVec 64) (accepts : LaneType → Bool) (fnOk : Bool)
    (f : LaneType → BitVec 5 → BitVec 5 → BitVec 5 → BitVec 4 → OpDec) : OpDec :=
  .guard fnOk <|
  .check (accepts (laneOf (fld t 14 3))) (some t)
    (f (laneOf (fld t 14 3)) (fld t 27 5) (fld t 22 5) (fld t 17 5) (fld t 10 4))

/-- A V3 operation without vb. -/
def decV3u (t : BitVec 64) (accepts : LaneType → Bool) (fnOk : Bool)
    (f : LaneType → BitVec 5 → BitVec 5 → BitVec 4 → OpDec) : OpDec :=
  decV3 t accepts (fnOk && zeros t 17 5) fun lt d a _ g => f lt d a g

/-- Every lane type. -/
def anyLane (_ : LaneType) : Bool := true

/-- Saturation field of VADD and VSUB (R272). -/
def decSat (t : BitVec 64) (f : LaneType → Sat → BitVec 5 → BitVec 5 → BitVec 5 → BitVec 4 → Instr) : OpDec :=
  decV3 t LaneType.isInt (zeros t 2 8) fun lt d a b g =>
    match satOf (fld t 0 2).toNat with
    | some s => .op (f lt s d a b g)
    | none => .own (some t)

/-- The U bit of VMULH, VMIN and VMAX (R272). -/
def decU (t : BitVec 64) (f : LaneType → Bool → BitVec 5 → BitVec 5 → BitVec 5 → BitVec 4 → Instr) : OpDec :=
  decV3 t LaneType.isInt (zeros t 1 9) fun lt d a b g => .op (f lt (flag t 0) d a b g)

/-- A plain V3 operation on lane types 0 to 3. -/
def decVi (t : BitVec 64) (f : LaneType → BitVec 5 → BitVec 5 → BitVec 5 → BitVec 4 → Instr) : OpDec :=
  decV3 t LaneType.isInt (zeros t 0 10) fun lt d a b g => .op (f lt d a b g)

/-- A plain V3 operation on any lane type. -/
def decVa (t : BitVec 64) (f : LaneType → BitVec 5 → BitVec 5 → BitVec 5 → BitVec 4 → Instr) : OpDec :=
  decV3 t anyLane (zeros t 0 10) fun lt d a b g => .op (f lt d a b g)

/-- A rounding V3 operation of the float group (R280). -/
def decVf (t : BitVec 64) (f : Bool → Rnd → BitVec 5 → BitVec 5 → BitVec 5 → BitVec 4 → Instr) : OpDec :=
  decV3 t LaneType.isFloat (zeros t 3 7) fun lt d a b g =>
    match rndOf (fld t 0 3).toNat with
    | some r => .op (f (lt == .f19) r d a b g)
    | none => .own (some t)

/-- VADC and VSBC (R273). -/
def decVc (t : BitVec 64) (f : LaneType → BitVec 5 → BitVec 5 → BitVec 5 → BitVec 4 → BitVec 4 → BitVec 4 → Instr) :
    OpDec :=
  .guard (zeros t 44 5 && zeros t 0 29) <|
  .check (laneOf (fld t 41 3)).isInt (some t) <|
  .op (f (laneOf (fld t 41 3)) (fld t 59 5) (fld t 54 5) (fld t 49 5) (fld t 29 4) (fld t 33 4) (fld t 37 4))

/-- VSPLAT, VEXTR and VINS accept lane types 0 to 4 (R278). -/
def vgLane (lt : LaneType) : Bool := lt.isInt || lt == .f32

/-- VPLANE (R288 to R292). -/
def decVplane (t : BitVec 64) : OpDec :=
  let lt := laneOf (fld t 41 3)
  let vd := fld t 59 5
  let va := fld t 54 5
  let vb := fld t 49 5
  let vc := fld t 44 5
  let mode := (fld t 3 2).toNat
  let unused := match mode with
    | 0 => zeros t 49 5 && zeros t 5 5
    | 1 => zeros t 44 10
    | 2 => zeros t 9 1
    | _ => zeros t 7 3
  .guard (zeros t 29 12 && zeros t 10 19 && unused) <|
  match rndOf (fld t 0 3).toNat with
  | none => .own (some t)
  | some r =>
    match mode with
    | 0 => .check lt.isFloat (some t) (.op (.vplaneScan (lt == .f19) r vd va vc))
    | 1 => .check (lt == .i64 && decide (4 ≤ (fld t 5 5).toNat ∧ (fld t 5 5).toNat ≤ 16)) (some t)
          (.op (.vplaneFix r (fld t 5 5) vd va))
    | 2 => .check lt.isFloat (some t) <|
        match kindOf (fld t 7 2).toNat with
        | some k => .op (.vplaneAlign (lt == .f19) r (fld t 5 2) k vd va vb vc)
        | none => .own (some t)
    | _ => .check (lt == .i8) (some t) (.op (.vplaneTr r (fld t 5 2) vd va vb vc))

/-- VUNPL (R293 to R295). -/
def decVunpl (t : BitVec 64) : OpDec :=
  let lt := laneOf (fld t 41 3)
  let vd := fld t 59 5
  let va := fld t 54 5
  let vb := fld t 49 5
  let vc := fld t 44 5
  .guard (zeros t 29 12 && zeros t 0 3 && zeros t 10 19 && (if flag t 3 then zeros t 6 4 else zeros t 44 5)) <|
  .check (lt == .i8 || lt == .i16) (some t) <|
  if flag t 3 then
    .check (lt == .i8 || decide ((fld t 4 2).toNat < 2)) (some t) (.op (.vunplVal (lt == .i16) (fld t 4 2) vd va vb vc))
  else
    .check (if lt == .i16 then decide ((fld t 4 3).toNat ≤ 5) else decide ((fld t 4 3).toNat ≤ 2) && !flag t 9) (some t)
      (.op (.vunplGather (lt == .i16) (fld t 4 3) (fld t 7 2) (flag t 9) vd va vb))

/-- VQUANT (R296). -/
def decVquant (t : BitVec 64) : OpDec :=
  let lt := laneOf (fld t 41 3)
  .guard (zeros t 29 8 && zeros t 0 3 && zeros t 10 19) <|
  if flag t 9 then
    .check (lt == .f32) (some t)
      (.op (.vquantInv (flag t 3) (fld t 4 5) (fld t 59 5) (fld t 54 5) (fld t 49 5) (fld t 44 5) (fld t 37 4)))
  else
    .guard (zeros t 49 5) <|
    .check (lt == .i64) (some t)
      (.op (.vquant (flag t 3) (fld t 4 5) (fld t 59 5) (fld t 54 5) (fld t 44 5) (fld t 37 4)))

/-- VCVT (R284). -/
def decVcvt (t : BitVec 64) : OpDec :=
  let dst := laneOf (fld t 41 3)
  let src := laneOf (fld t 3 3)
  .guard (zeros t 44 10 && zeros t 29 8 && zeros t 11 18) <|
  match rndOf (fld t 0 3).toNat with
  | none => .own (some t)
  | some r =>
    .check (vcvtOk dst src (flag t 6) (flag t 7) (flag t 8) (fld t 9 2)) (some t)
      (.op (.vcvt dst src r (flag t 6) (flag t 7) (flag t 8) (fld t 9 2) (fld t 59 5) (fld t 54 5) (fld t 37 4)))

/-- The tail of a V operation whose opcode is assigned (R212). -/
def decodeV (op : Nat) (t : BitVec 64) : OpDec :=
  match op with
  | 0x000 => decSat t .vadd | 0x001 => decSat t .vsub
  | 0x002 => decVc t .vadc | 0x003 => decVc t .vsbc
  | 0x004 => decVi t .vmul | 0x005 => decU t .vmulh
  | 0x006 => .guard (zeros t 1 28) <|
      .check (laneOf (fld t 41 3) == .i32 || laneOf (fld t 41 3) == .i64) (some t) <|
      .op (.vmadw (laneOf (fld t 41 3)) (flag t 0) (fld t 59 5) (fld t 54 5) (fld t 49 5) (fld t 44 5) (fld t 29 4)
        (fld t 33 4) (fld t 37 4))
  | 0x007 => decU t .vmin | 0x008 => decU t .vmax
  | 0x009 => decV3u t LaneType.isInt (zeros t 0 10) fun lt d a g => .op (.vabs lt d a g)
  | 0x00A => decVa t .vand | 0x00B => decVa t .vor | 0x00C => decVa t .vxor
  | 0x00D => decVi t .vshl | 0x00E => decVi t .vshr | 0x00F => decVi t .vsar
  | 0x010 => decV3 t LaneType.isInt (zeros t 9 1 && (!flag t 8 || zeros t 27 5)) fun lt d a b g =>
      match condOf (fld t 0 4).toNat with
      | some c => .op (.vcmp lt c (flag t 8) d a b (fld t 4 4) g)
      | none => .own (some t)
  | 0x011 => .guard (zeros t 44 5 && zeros t 33 4 && zeros t 0 29)
      (.op (.vsel (laneOf (fld t 41 3)) (fld t 59 5) (fld t 54 5) (fld t 49 5) (fld t 29 4) (fld t 37 4)))
  | 0x012 => decV3 t (· == .i8) (zeros t 0 10) fun _ d a b g => .op (.vperm d a b g)
  | 0x013 => .guard (zeros t 17 4 && zeros t 0 10) <|
      .check (vgLane (laneOf (fld t 14 3))) (some t)
        (.op (.vsplat (laneOf (fld t 14 3)) (fld t 27 5) (fld t 21 6) (fld t 10 4)))
  | 0x014 => .guard (zeros t 10 4 && zeros t 1 9) <|
      .check (vgLane (laneOf (fld t 14 3)) && decide ((fld t 17 4).toNat < (laneOf (fld t 14 3)).lanes)) (some t)
        (.op (.vextr (laneOf (fld t 14 3)) (flag t 0) (fld t 21 6) (fld t 27 5) (fld t 17 4)))
  | 0x015 => .guard (zeros t 0 10) <|
      .check (vgLane (laneOf (fld t 14 3)) && decide ((fld t 17 4).toNat < (laneOf (fld t 14 3)).lanes)) (some t)
        (.op (.vins (laneOf (fld t 14 3)) (fld t 27 5) (fld t 21 6) (fld t 17 4) (fld t 10 4)))
  | 0x016 => decV3u t anyLane (zeros t 7 3 && ((fld t 3 4).toNat == 8 || zeros t 0 3)) fun lt d a g =>
      match redOf (fld t 3 4).toNat with
      | none => .own (some t)
      | some o =>
        if o == .fadd then
          match rndOf (fld t 0 3).toNat with
          | some r => .check lt.isFloat (some t) (.op (.vred lt o r d a g))
          | none => .own (some t)
        else .check (o.accepts lt .rne) (some t) (.op (.vred lt o .rne d a g))
  | 0x017 => decV3u t anyLane (zeros t 0 10) fun lt d a g => .op (.vmov lt d a g)
  | 0x040 => decVf t .vfadd | 0x041 => decVf t .vfsub | 0x042 => decVf t .vfmul
  | 0x043 => .guard (zeros t 29 8 && zeros t 5 24) <|
      .check (laneOf (fld t 41 3)).isFloat (some t) <|
      match rndOf (fld t 0 3).toNat with
      | some r => .op (.vfma (laneOf (fld t 41 3) == .f19) r (flag t 3) (flag t 4) (fld t 59 5) (fld t 54 5) (fld t 49 5)
          (fld t 44 5) (fld t 37 4))
      | none => .own (some t)
  | 0x044 => decV3 t LaneType.isFloat (zeros t 0 10) fun lt d a b g => .op (.vfmin (lt == .f19) d a b g)
  | 0x045 => decV3 t LaneType.isFloat (zeros t 0 10) fun lt d a b g => .op (.vfmax (lt == .f19) d a b g)
  | 0x046 => decV3 t LaneType.isFloat (zeros t 9 1 && (!flag t 8 || zeros t 27 5)) fun lt d a b g =>
      match fcondOf (fld t 0 4).toNat with
      | some c => .op (.vfcmp (lt == .f19) c (flag t 8) d a b (fld t 4 4) g)
      | none => .own (some t)
  | 0x047 => decV3u t LaneType.isFloat (zeros t 7 3) fun lt d a g =>
      match rndOf (fld t 0 3).toNat, sfuOf (fld t 3 4).toNat with
      | some r, some f => .op (.vsfu (lt == .f19) r f d a g)
      | _, _ => .own (some t)
  | 0x060 => decVcvt t
  | 0x061 => .guard (zeros t 49 5 && zeros t 29 8 && zeros t 0 3 && zeros t 13 16) <|
      .check (laneOf (fld t 41 3) == .f19) (some t)
        (.op (.vdec (flag t 3) (fld t 4 5) (fld t 9 4) (fld t 59 5) (fld t 54 5) (fld t 44 5) (fld t 37 4)))
  | 0x062 => .guard (zeros t 29 12 && zeros t 0 3 && zeros t 13 16) <|
      .check (laneOf (fld t 41 3)).isFloat (some t)
        (.op (.venc (laneOf (fld t 41 3) == .f19) (flag t 3) (fld t 4 5) (fld t 9 4) (fld t 59 5) (fld t 54 5)
          (fld t 49 5) (fld t 44 5)))
  | 0x063 => decVplane t
  | 0x064 => decVunpl t
  | 0x065 => decVquant t
  | _ => .guard (zeros t 44 15 && zeros t 0 37) <|
      .check (laneOf (fld t 41 3)).isInt (some t) (.op (.vrand (laneOf (fld t 41 3)) (fld t 59 5) (fld t 37 4)))

/-! ## Tails of the E slot (R213, R315 to R323) -/

/-- The acq, rel and scope fields of an EN tail. -/
def enOrd (t : BitVec 64) : Ord := ⟨flag t 45, flag t 44, fld t 41 3⟩

/-- A command with a VIEW field; view 3 is ILLEGAL with c.eval the tail (R302). -/
def decView (t : BitVec 64) (f : View → OpDec) : OpDec :=
  match viewOf (fld t 38 2).toNat with
  | some v => f v
  | none => .own (some t)

/-- The tail of an E operation whose opcode is assigned (R213). -/
def decodeE (op : Nat) (t : BitVec 64) : OpDec :=
  let ga := fld t 58 6
  match op with
  | 0x000 => .guard (zeros t 6 58) (.op (.alease (fld t 0 6)))
  | 0x001 => .guard (zeros t 0 64) (.op .arel)
  | 0x002 => .guard (zeros t 46 18 && zeros t 12 28) <|
      .check (asetOk (fld t 0 4) (fld t 4 5)) (some t)
        (.op (.aset (enOrd t) (flag t 40) (fld t 0 4) (fld t 4 5) (flag t 9) (flag t 10) (flag t 11)))
  | 0x003 => .guard (zeros t 46 6 && zeros t 0 9) <|
      decView t fun v => .check (decide ((fld t 28 10).toNat < 768)) (some t)
        (.op (.aldb (enOrd t) (flag t 40) v ga (fld t 52 6) (fld t 9 11) (fld t 20 8) (fld t 28 10)))
  | 0x004 => .guard (zeros t 46 12 && zeros t 14 2) <|
      decView t fun v => .op (.astr (enOrd t) (flag t 40) v ga (fld t 0 14) (fld t 16 11) (fld t 27 11))
  | 0x005 => .guard (zeros t 46 12 && ((fld t 36 2).toNat == 2 || zeros t 30 4)) <|
      decView t fun v =>
        match drainOf (fld t 36 2).toNat with
        | some m => .op (.adrn (enOrd t) (flag t 40) v ga (fld t 0 14) (fld t 14 8) (fld t 22 8) (fld t 30 4) (flag t 34)
              (flag t 35) m)
        | none => .own (some t)
  | 0x006 => .guard (zeros t 46 18 && zeros t 30 10)
      (.op (.azero (enOrd t) (flag t 40) (fld t 0 14) (fld t 14 8) (fld t 22 8)))
  | 0x007 => .guard (zeros t 46 18 && zeros t 44 1 && zeros t 32 9)
      (.op (.amark (flag t 45) (fld t 41 3) (fld t 0 32)))
  | _ => .guard (zeros t 41 17 && zeros t 3 38)
      (.check (decide (2 ≤ (fld t 0 3).toNat)) (some t) (.op (.qpush (fld t 0 3) ga)))

/-! ## The opcode map (R205, R211 to R213) -/

/-- The tail class of an opcode of a slot, or none when it is unassigned. Slots: 0 S, 1 V, 2 E, 3 the two markers. -/
def opClass (slot op : Nat) : Option Nat :=
  match slot with
  | 0 =>
    if op ≤ 0x017 then some 2
    else if 0x020 ≤ op ∧ op ≤ 0x028 then some 2
    else if 0x030 ≤ op ∧ op ≤ 0x037 then some 1
    else if op = 0x038 ∨ op = 0x039 then some 2
    else if op = 0x040 ∨ op = 0x041 then some 3
    else if op = 0x048 ∨ op = 0x049 then some 1
    else if 0x050 ≤ op ∧ op ≤ 0x053 then some 2
    else if op = 0x054 then some 1
    else if op = 0x055 then some 2
    else if op = 0x056 then some 0
    else if 0x080 ≤ op ∧ op ≤ 0x087 then some 2
    else if 0x088 ≤ op ∧ op ≤ 0x08A then some 3
    else if 0x08B ≤ op ∧ op ≤ 0x08D then some 2
    else if 0x0A0 ≤ op ∧ op ≤ 0x0A4 then some 3
    else if 0x0C0 ≤ op ∧ op ≤ 0x0C9 then some 2
    else if op = 0x0CA ∨ op = 0x0CB then some 0
    else if op = 0x0CC then some 2
    else if op = 0x0CD then some 0
    else if op = 0x0CE then some 2
    else if op = 0x0E0 then some 2
    else if op = 0x0E1 then some 0
    else if 0x0E2 ≤ op ∧ op ≤ 0x0E5 then some 2
    else if op = 0x0E6 ∨ op = 0x0E7 then some 0
    else if 0x0E8 ≤ op ∧ op ≤ 0x0EA then some 2
    else none
  | 1 =>
    if op = 0x002 ∨ op = 0x003 ∨ op = 0x006 ∨ op = 0x011 then some 3
    else if op ≤ 0x017 then some 2
    else if op = 0x043 then some 3
    else if 0x040 ≤ op ∧ op ≤ 0x047 then some 2
    else if 0x060 ≤ op ∧ op ≤ 0x066 then some 3
    else none
  | 2 => if op ≤ 0x008 then some 3 else none
  | _ => if op = 0 then some 0 else if op = 1 then some 1 else none

/-- The operation of a slot, opcode and tail. -/
def decodeOp (slot op : Nat) (t : BitVec 64) : OpDec :=
  match slot with
  | 0 => decodeS op t
  | 1 => decodeV op t
  | _ => decodeE op t

/-! ## Registers an operation names (R161, R214 reason 12)

A register key is its number for g, 64 + number for v and 128 + number for p: the NUM and FILE fields of R161. -/

def gKey (r : BitVec 6) : Nat := r.toNat
def vKey (r : BitVec 5) : Nat := 64 + r.toNat
def pKey (r : BitVec 4) : Nat := 128 + r.toNat

/-- A g destination; g0 is no register (R224). -/
def gDst (r : BitVec 6) : List Nat := if r = 0 then [] else [gKey r]

/-- A p destination; p0 is no register (R224). -/
def pDst (r : BitVec 4) : List Nat := if r = 0 then [] else [pKey r]

/-- Registers a G3 tail reads through its fields. -/
def QFlags.srcs (q : QFlags) (ra rb : BitVec 6) : List Nat :=
  (if q.qa then [] else [gKey ra]) ++ (if q.qb then [] else [gKey rb])

/-- The g register a G3 tail writes, when rd names no queue. -/
def QFlags.dst (q : QFlags) (rd : BitVec 6) : List Nat := if q.qd then [] else gDst rd

/-- The destination that a non-zero guard also reads (R269). -/
def guarded (gp : BitVec 4) (dst : List Nat) : List Nat := if gp = 0 then [] else pKey gp :: dst

/-- Registers an operation writes. -/
def Instr.writes : Instr → List Nat
  | .add q d _ _ | .sub q d _ _ | .mul q d _ _ | .mulh q d _ _ | .mulhu q d _ _ | .div q d _ _ | .divu q d _ _
  | .rem q d _ _ | .remu q d _ _ | .and q d _ _ | .or q d _ _ | .xor q d _ _ | .shl q d _ _ | .shr q d _ _
  | .sar q d _ _ | .rol q d _ _ | .min q d _ _ | .max q d _ _ | .minu q d _ _ | .maxu q d _ _ => q.dst d
  | .adc q d _ _ _ pd | .sbc q d _ _ _ pd => q.dst d ++ pDst pd
  | .sel q d _ _ _ _ => q.dst d
  | .cmp q d _ _ pd _ => q.dst d ++ pDst pd
  | .addi d _ _ | .andi d _ _ | .ori d _ _ | .xori d _ _ | .shli d _ _ | .shri d _ _ | .sari d _ _ => gDst d
  | .cmpi d _ _ pd _ => gDst d ++ pDst pd
  | .lea d _ _ | .clz d _ | .ctz d _ | .popc d _ | .movpGFromPred d _ => gDst d
  | .movpPredFromG pd _ | .movpPredFromPred pd _ | .pand pd _ _ | .por pd _ _ | .pxor pd _ _ | .pnot pd _ => pDst pd
  | .bfx q d _ _ _ _ | .bfi q d _ _ _ => q.dst d
  | .li d _ _ | .lih d _ | .gptrOwn d _ | .gptrBlk d _ | .gptrIlv d _ | .gwinCls d _ | .gwinLoc d _ => gDst d
  | .jal _ _ => [63]
  | .jalr d _ | .loop d _ _ _ => gDst d
  | .ld t _ _ _ _ | .lds t _ _ _ _ | .ldsp t _ _ _ _ => gDst t
  | .vld t _ _ _ => [vKey t]
  | .amo t _ _ _ _ _ _ _ | .cas t _ _ _ _ _ _ | .xld t _ _ _ _ _ | .xpush t _ _ _ _ _ | .xtlbi t _ _ _ _
  | .xtlbiAll t _ => gDst t
  | .cgo d | .csub d _ _ | .cunsub d _ => gDst d
  | .spawn d _ _ pd _ | .spawnr d _ _ pd _ | .spawni d _ _ pd _ _ _ | .grow d _ pd | .touch d _ pd _ =>
      gDst d ++ pDst pd
  | .touchq d _ | .cancel d _ | .joini d _ _ _ | .waitm d => gDst d
  | .resolve _ _ pd | .fdrop _ pd => pDst pd
  | .crd d _ | .time d | .scrub d _ | .tabr _ _ d => gDst d
  | .vadd _ _ d _ _ _ | .vsub _ _ d _ _ _ | .vmul _ d _ _ _ | .vmulh _ _ d _ _ _ | .vmin _ _ d _ _ _
  | .vmax _ _ d _ _ _ | .vabs _ d _ _ | .vand _ d _ _ _ | .vor _ d _ _ _ | .vxor _ d _ _ _ | .vshl _ d _ _ _
  | .vshr _ d _ _ _ | .vsar _ d _ _ _ | .vsel _ d _ _ _ _ | .vperm d _ _ _ | .vsplat _ d _ _ | .vins _ d _ _ _
  | .vred _ _ _ d _ _ | .vmov _ d _ _ => [vKey d]
  | .vadc _ d _ _ _ pd _ | .vsbc _ d _ _ _ pd _ | .vmadw _ _ d _ _ _ _ pd _ => vKey d :: pDst pd
  | .vcmp _ _ nv d _ _ pd _ => (if nv then [] else [vKey d]) ++ pDst pd
  | .vextr _ _ g _ _ => gDst g
  | .vfadd _ _ d _ _ _ | .vfsub _ _ d _ _ _ | .vfmul _ _ d _ _ _ | .vfma _ _ _ _ d _ _ _ _ | .vfmin _ d _ _ _
  | .vfmax _ d _ _ _ | .vsfu _ _ _ d _ _ | .vcvt _ _ _ _ _ _ _ d _ _ | .vdec _ _ _ d _ _ _ | .venc _ _ _ _ d _ _ _
  | .vplaneScan _ _ d _ _ | .vplaneFix _ _ d _ | .vplaneAlign _ _ _ _ d _ _ _ | .vplaneTr _ _ d _ _ _
  | .vunplGather _ _ _ _ d _ _ | .vunplVal _ _ d _ _ _ | .vquant _ _ d _ _ _ | .vquantInv _ _ d _ _ _ _
  | .vrand _ d _ => [vKey d]
  | .vfcmp _ _ nv d _ _ pd _ => (if nv then [] else [vKey d]) ++ pDst pd
  | _ => []

/-- Registers an operation reads. -/
def Instr.reads : Instr → List Nat
  | .add q _ a b | .sub q _ a b | .mul q _ a b | .mulh q _ a b | .mulhu q _ a b | .div q _ a b | .divu q _ a b
  | .rem q _ a b | .remu q _ a b | .and q _ a b | .or q _ a b | .xor q _ a b | .shl q _ a b | .shr q _ a b
  | .sar q _ a b | .rol q _ a b | .min q _ a b | .max q _ a b | .minu q _ a b | .maxu q _ a b => q.srcs a b
  | .adc q _ a b pc _ | .sbc q _ a b pc _ => q.srcs a b ++ [pKey pc]
  | .sel q _ a b ps _ => q.srcs a b ++ [pKey ps]
  | .cmp q _ a b _ _ => q.srcs a b
  | .addi _ a _ | .andi _ a _ | .ori _ a _ | .xori _ a _ | .shli _ a _ | .shri _ a _ | .sari _ a _
  | .cmpi _ a _ _ _ | .clz _ a | .ctz _ a | .popc _ a | .movpPredFromG _ a => [gKey a]
  | .movpGFromPred _ pa | .movpPredFromPred _ pa | .pnot _ pa => [pKey pa]
  | .pand _ a b | .por _ a b | .pxor _ a b => [pKey a, pKey b]
  | .bfx q _ a b _ _ => q.srcs a b
  | .bfi q d a b _ => q.srcs a b ++ [gKey d]
  | .lih d _ => [gKey d]
  | .gptrOwn _ a | .gptrBlk _ a | .gptrIlv _ a | .gwinCls _ a | .gwinLoc _ a => [gKey a]
  | .br p _ _ _ | .brc p _ _ _ => [pKey p]
  | .jr a | .jalr _ a | .loop _ a _ _ => [gKey a]
  | .ld _ b _ _ _ | .lds _ b _ _ _ | .ldsp _ b _ _ _ | .vld _ b _ _ | .fesetFull b _ _ _ | .fesetEmpty b _ _ _ =>
      [gKey b]
  | .st t b _ _ _ | .sts t b _ _ _ => [gKey t, gKey b]
  | .vst t b _ _ => [vKey t, gKey b]
  | .amo _ b c _ _ _ _ _ => [gKey b, gKey c]
  | .cas t b c _ _ _ _ => [gKey t, gKey b, gKey c]
  | .csub _ a b => [gKey a, gKey b]
  | .cunsub _ a => [gKey a]
  | .xld _ b _ _ _ _ | .xpref b _ _ => [gKey b]
  | .xst t b _ _ _ _ => [gKey t, gKey b]
  | .xpush _ b c _ _ _ | .xtlbi _ b c _ _ => [gKey b, gKey c]
  | .spawn _ a b _ _ | .spawnr _ a b _ _ | .spawni _ a b _ _ _ _ | .resolve a b _ | .joini _ a b _ => [gKey a, gKey b]
  | .grow _ a _ | .touch _ a _ _ | .touchq _ a | .cancel _ a | .fdrop a _ => [gKey a]
  | .retire | .waitw => [1]
  | .send a b _ _ => [gKey a, gKey b, b.toNat + 1]
  | .cwr a _ => [gKey a]
  | .flushi l a => if l then [gKey a] else []
  | .tabw _ _ a => [gKey a]
  | .vadd _ _ d a b g | .vsub _ _ d a b g | .vmul _ d a b g | .vmulh _ _ d a b g | .vmin _ _ d a b g
  | .vmax _ _ d a b g | .vand _ d a b g | .vor _ d a b g | .vxor _ d a b g | .vshl _ d a b g
  | .vshr _ d a b g | .vsar _ d a b g | .vperm d a b g => [vKey a, vKey b] ++ guarded g [vKey d]
  | .vabs _ d a g | .vmov _ d a g => vKey a :: guarded g [vKey d]
  | .vadc _ d a b ps pd g | .vsbc _ d a b ps pd g => [vKey a, vKey b, pKey ps] ++ guarded g (vKey d :: pDst pd)
  | .vmadw _ _ d a b c ps pd g => [vKey a, vKey b, vKey c, pKey ps] ++ guarded g (vKey d :: pDst pd)
  | .vcmp _ _ nv d a b pd g => [vKey a, vKey b] ++ guarded g ((if nv then [] else [vKey d]) ++ pDst pd)
  | .vsel _ d a b ps g => [vKey a, vKey b, pKey ps] ++ guarded g [vKey d]
  | .vsplat _ d s g => gKey s :: guarded g [vKey d]
  | .vextr _ _ _ a _ => [vKey a]
  | .vins _ d s _ g => [gKey s, vKey d] ++ guarded g []
  | .vred _ _ _ _ a g => vKey a :: guarded g []
  | .vfadd _ _ d a b g | .vfsub _ _ d a b g | .vfmul _ _ d a b g | .vfmin _ d a b g | .vfmax _ d a b g =>
      [vKey a, vKey b] ++ guarded g [vKey d]
  | .vfma _ _ _ _ d a b c g => [vKey a, vKey b, vKey c] ++ guarded g [vKey d]
  | .vfcmp _ _ nv d a b pd g => [vKey a, vKey b] ++ guarded g ((if nv then [] else [vKey d]) ++ pDst pd)
  | .vsfu _ _ _ d a g => vKey a :: guarded g [vKey d]
  | .vcvt dst src _ _ _ _ _ d a g =>
      vKey a :: (guarded g [vKey d] ++ (if dst.bits < src.bits then [vKey d] else []))
  | .vdec _ _ _ d a c g => [vKey a, vKey c] ++ guarded g [vKey d]
  | .venc _ _ _ _ _ a b c => [vKey a, vKey b, vKey c]
  | .vplaneScan _ _ _ a c => [vKey a, vKey c]
  | .vplaneFix _ _ _ a => [vKey a]
  | .vplaneAlign _ _ _ _ _ a b c | .vplaneTr _ _ _ a b c => [vKey a, vKey b, vKey c]
  | .vunplGather _ _ _ _ _ a b => [vKey a, vKey b]
  | .vunplVal _ _ _ a b c => [vKey a, vKey b, vKey c]
  | .vquant _ _ d a c g => [vKey a, vKey c] ++ guarded g [vKey d]
  | .vquantInv _ _ d a b c g => [vKey a, vKey b, vKey c] ++ guarded g [vKey d]
  | .vrand _ d g => guarded g [vKey d]
  | .aldb _ _ _ a b _ _ _ => gKey a :: (if b = 0 then [] else [gKey b])
  | .astr _ _ _ a _ _ _ | .adrn _ _ _ a _ _ _ _ _ _ _ | .qpush _ a => [gKey a]
  | _ => []

/-- Queue registers an S operation pops (ra, then rb). -/
def Instr.pops : Instr → List Nat
  | .add q _ a b | .sub q _ a b | .mul q _ a b | .mulh q _ a b | .mulhu q _ a b | .div q _ a b | .divu q _ a b
  | .rem q _ a b | .remu q _ a b | .and q _ a b | .or q _ a b | .xor q _ a b | .shl q _ a b | .shr q _ a b
  | .sar q _ a b | .rol q _ a b | .min q _ a b | .max q _ a b | .minu q _ a b | .maxu q _ a b
  | .adc q _ a b _ _ | .sbc q _ a b _ _ | .sel q _ a b _ _ | .cmp q _ a b _ _ | .bfx q _ a b _ _ | .bfi q _ a b _ =>
      (if q.qa then [a.toNat % 8] else []) ++ (if q.qb then [b.toNat % 8] else [])
  | _ => []

/-- Queue registers an operation pushes. -/
def Instr.pushes : Instr → List Nat
  | .add q d _ _ | .sub q d _ _ | .mul q d _ _ | .mulh q d _ _ | .mulhu q d _ _ | .div q d _ _ | .divu q d _ _
  | .rem q d _ _ | .remu q d _ _ | .and q d _ _ | .or q d _ _ | .xor q d _ _ | .shl q d _ _ | .shr q d _ _
  | .sar q d _ _ | .rol q d _ _ | .min q d _ _ | .max q d _ _ | .minu q d _ _ | .maxu q d _ _
  | .adc q d _ _ _ _ | .sbc q d _ _ _ _ | .sel q d _ _ _ _ | .cmp q d _ _ _ _ | .bfx q d _ _ _ _ | .bfi q d _ _ _ =>
      if q.qd then [d.toNat % 8] else []
  | .qpush n _ => [n.toNat]
  | _ => []

/-! ## Lines and bundles (R201 to R204, R214, R215) -/

/-- A 64-byte code line, bit 0 the least significant bit of byte 0. -/
abbrev Line := BitVec 512

/-- Byte i of a line. -/
def Line.byte (l : Line) (i : Nat) : Nat := (l.toNat >>> (8 * i)) % 256

/-- The n bytes from byte i are zero. -/
def Line.zeroBytes (l : Line) (i : Nat) : Nat → Bool
  | 0 => true
  | n + 1 => l.byte i == 0 && l.zeroBytes (i + 1) n

/-- Halfword i of a line. -/
def Line.half (l : Line) (i : Nat) : Nat := (l.toNat >>> (16 * i)) % 65536

/-- The number of op heads (R201). -/
def Line.heads (l : Line) : Nat := l.half 0 / 2048

/-- Op head i (R203). -/
def Line.head (l : Line) (i : Nat) : Nat := l.half (1 + i)

/-- END of a head. -/
def headEnd (h : Nat) : Bool := h / 32768 % 2 == 1

/-- SW of a head. -/
def headSw (h : Nat) : Bool := h / 16384 % 2 == 1

/-- SLOT of a head. -/
def headSlot (h : Nat) : Nat := h / 4096 % 4

/-- CLASS of a head. -/
def headClass (h : Nat) : Nat := h / 1024 % 4

/-- OP of a head. -/
def headOp (h : Nat) : Nat := h % 1024

/-- Tail length in bytes of a class (R202). -/
def classBytes (c : Nat) : Nat := if c = 0 then 0 else if c = 1 then 2 else if c = 2 then 4 else 8

/-- Total tail bytes of heads 0 to n − 1 (R202). -/
def Line.tailBytes (l : Line) : Nat → Nat
  | 0 => 0
  | n + 1 => l.tailBytes n + classBytes (headClass (l.head n))

/-- The tail value of head i: L bytes little-endian from start_i (R202). -/
def Line.tail (l : Line) (i : Nat) : BitVec 64 :=
  let len := classBytes (headClass (l.head i))
  let start := 64 - l.tailBytes (i + 1)
  BitVec.ofNat 64 ((l.toNat >>> (8 * start)) % 2 ^ (8 * len))

/-- The line-level reasons 1 to 4 of R214, first that holds. -/
def Line.badReason (l : Line) : Option Nat :=
  let h := l.heads
  let tb := l.tailBytes h
  if h = 0 ∨ l.half 0 % 2048 ≠ 0 then some 1
  else if 2 + 2 * h + tb > 64 then some 2
  else if !l.zeroBytes (2 + 2 * h) (64 - tb - (2 + 2 * h)) then some 3
  else if headEnd (l.head (h - 1)) = false then some 4
  else none

/-- Head i begins a bundle: it is head 0, or it follows a head with END (R33). -/
def Line.startsBundle (l : Line) (i : Nat) : Bool :=
  decide (i < l.heads) && (decide (i = 0) || headEnd (l.head (i - 1)))

/-- The number of heads of the bundle that begins at head i, at most n (R204). -/
def Line.bundleLen (l : Line) (i : Nat) : Nat → Nat
  | 0 => 0
  | n + 1 => if headEnd (l.head i) then 1 else 1 + l.bundleLen (i + 1) n

/-- One decoded head of a bundle: its index, its head value and its tail. -/
structure RawHead where
  idx : Nat
  head : Nat
  tail : BitVec 64
  deriving DecidableEq, Repr

/-- The heads of a bundle of n heads from head i. -/
def Line.rawHeads (l : Line) (i : Nat) : Nat → List RawHead
  | 0 => []
  | n + 1 => ⟨i, l.head i, l.tail i⟩ :: l.rawHeads (i + 1) n

/-- The head stands in slot 3. -/
def RawHead.isPre (r : RawHead) : Bool := headSlot r.head == 3

/-- What an operation head decodes to. -/
def RawHead.dec (r : RawHead) : OpDec := decodeOp (headSlot r.head) (headOp r.head) r.tail

/-- Reason 8 at a head: an operation's zero fields, or the zero bits of a GRD tail (R205). -/
def RawHead.bad8 (r : RawHead) : Bool :=
  if r.isPre then headOp r.head == 1 && !zeros r.tail 0 11
  else match r.dec with | .zero => true | _ => false

/-- An operation that RX may stand ahead of (R205). -/
def Instr.takesRx : Instr → Bool
  | .ld .. | .st .. | .vld .. | .vst .. | .amo .. | .cas .. | .xld .. | .xst .. | .xpush .. | .xpref .. => true
  | _ => false

/-- RX may stand ahead of this head (R205): its opcode decides. -/
def RawHead.takesRx (r : RawHead) : Bool :=
  headSlot r.head == 0 &&
    (headOp r.head == 0x080 || headOp r.head == 0x081 || headOp r.head == 0x086 || headOp r.head == 0x087 ||
     headOp r.head == 0x088 || headOp r.head == 0x089 || (decide (0x0A0 ≤ headOp r.head) && decide (headOp r.head ≤ 0x0A3)))

/-- The first operation head of a list. -/
def firstOp : List RawHead → Option RawHead
  | [] => none
  | r :: rs => if r.isPre then firstOp rs else some r

/-- Prefix opcodes that precede a head without an operation between (R205), nearest first in `seen`. -/
def bad10 (seen : List Nat) (count : Nat) : List RawHead → Option Nat
  | [] => none
  | r :: rs =>
    if r.isPre then
      let k := headOp r.head
      let misplaced :=
        match firstOp rs with
        | none => true
        | some o => (k == 0 && !o.takesRx) || (k == 1 && headSlot o.head == 1)
      if misplaced || decide (2 ≤ count) || seen.contains k then some r.idx
      else bad10 (k :: seen) (count + 1) rs
    else bad10 [] count rs

/-- Reason 9: the first head whose slot an earlier operation head of the bundle has. -/
def bad9 (seen : List Nat) : List RawHead → Option Nat
  | [] => none
  | r :: rs =>
    if r.isPre then bad9 seen rs
    else if seen.contains (headSlot r.head) then some r.idx
    else bad9 (headSlot r.head :: seen) rs

/-- The task operations that raise ILLEGAL on a Geyser thread (R73). -/
def geyserBanned (op : Nat) : Bool :=
  op == 0x0C0 || op == 0x0C1 || op == 0x0C2 || op == 0x0C3 || op == 0x0C9 || op == 0x0CA || op == 0x0CB || op == 0x0CD

/-- The registers that the destination fields of a tail name, where a check of the operation itself fails (R206, R224). -/
def fieldDst (slot op : Nat) (t : BitVec 64) : List Nat :=
  match slot with
  | 0 =>
    match op with
    | 0x017 => (if flag t 13 then [] else gDst (fld t 26 6)) ++ pDst (fld t 0 4)
    | 0x039 => if flag t 13 then [] else gDst (fld t 26 6)
    | 0x027 => gDst (fld t 26 6) ++ pDst (fld t 12 4)
    | 0x030 | 0x031 | 0x032 | 0x048 | 0x049 => gDst (fld t 10 6)
    | 0x037 => pDst (fld t 10 4)
    | 0x088 | 0x089 | 0x0A4 => gDst (fld t 58 6)
    | 0x0E2 | 0x0EA => gDst (fld t 26 6)
    | _ => []
  | 1 =>
    match op with
    | 0x002 | 0x003 | 0x006 => vKey (fld t 59 5) :: pDst (fld t 33 4)
    | 0x010 | 0x046 => (if flag t 8 then [] else [vKey (fld t 27 5)]) ++ pDst (fld t 4 4)
    | 0x014 => gDst (fld t 21 6)
    | _ => [vKey (if opClass 1 op = some 3 then fld t 59 5 else fld t 27 5)]
  | _ => []

/-- The queue registers that the flags of a tail pop, where a check of the operation itself fails (R208). -/
def fieldPops (slot op : Nat) (t : BitVec 64) : List Nat :=
  if slot = 0 ∧ (op = 0x017 ∨ op = 0x039) then
    (if flag t 12 then [(fld t 20 3).toNat] else []) ++ (if flag t 11 then [(fld t 14 3).toNat] else [])
  else []

/-- The queue register that a tail pushes, where a check of the operation itself fails (R208, R323). -/
def fieldPush (slot op : Nat) (t : BitVec 64) : List Nat :=
  if slot = 0 ∧ (op = 0x017 ∨ op = 0x039) then (if flag t 13 then [(fld t 26 3).toNat] else [])
  else if slot = 2 ∧ op = 0x008 then [(fld t 0 3).toNat]
  else []

/-- Registers written by a head's operation. -/
def RawHead.writes (r : RawHead) : List Nat :=
  if r.isPre then []
  else match r.dec with
    | .op i => i.writes
    | .own _ => fieldDst (headSlot r.head) (headOp r.head) r.tail
    | .zero => []

/-- Queue registers popped by a head's operation. -/
def RawHead.pops (r : RawHead) : List Nat :=
  if r.isPre then []
  else match r.dec with
    | .op i => i.pops
    | .own _ => fieldPops (headSlot r.head) (headOp r.head) r.tail
    | .zero => []

/-- Queue registers named by a head's operation. -/
def RawHead.queues (r : RawHead) : List Nat :=
  if r.isPre then []
  else match r.dec with
    | .op i => i.pops ++ i.pushes
    | .own _ => r.pops ++ fieldPush (headSlot r.head) (headOp r.head) r.tail
    | .zero => []

/-- Reason 11 at a head: E operations, operations of R73's list and q1 to q7 on a Geyser core, the X group on a
compute core. -/
def RawHead.bad11 (geyser : Bool) (r : RawHead) : Bool :=
  let slot := headSlot r.head
  let op := headOp r.head
  if geyser then slot == 2 || (slot == 0 && (geyserBanned op || r.queues.any (· != 0)))
  else slot == 0 && decide (0x0A0 ≤ op) && decide (op ≤ 0x0A4)

/-- Reason 12: a register that an earlier operation writes too, QA and QB naming one queue, or QPUSH and an S
operation naming one queue. -/
def bad12 (written queues : List Nat) : List RawHead → Option Nat
  | [] => none
  | r :: rs =>
    let w := r.writes
    let q := r.queues
    let twice := match r.pops with | [a, b] => a == b | _ => false
    if twice || w.any written.contains || q.any queues.contains then some r.idx
    else bad12 (w ++ written) (q ++ queues) rs

/-- The reason and head index that R214 reports for a bundle, or none. -/
def bundleReason (geyser : Bool) (hs : List RawHead) : Option (Nat × Nat) :=
  match hs.find? (fun r => headSw r.head && !headEnd r.head) with
  | some r => some (5, r.idx)
  | none =>
  match hs.find? (fun r => (opClass (headSlot r.head) (headOp r.head)).isNone) with
  | some r => some (6, r.idx)
  | none =>
  match hs.find? (fun r => opClass (headSlot r.head) (headOp r.head) != some (headClass r.head)) with
  | some r => some (7, r.idx)
  | none =>
  match hs.find? RawHead.bad8 with
  | some r => some (8, r.idx)
  | none =>
  match bad9 [] hs with
  | some i => some (9, i)
  | none =>
  match bad10 [] 0 hs with
  | some i => some (10, i)
  | none =>
  match hs.find? (RawHead.bad11 geyser) with
  | some r => some (11, r.idx)
  | none =>
  match bad12 [] [] hs with
  | some i => some (12, i)
  | none => none

/-- A guard of an operation: predicate and invert bit (R205). -/
abbrev Guard := BitVec 4 × Bool

/-- One operation of a bundle with its prefixes. -/
structure BundleOp where
  dec : OpDec
  rx : Bool
  guard : Option Guard
  deriving DecidableEq, Repr, Inhabited

/-- A bundle: its operations in slot order S, V, E, its marker and its number of heads. -/
structure Bundle where
  ops : List BundleOp
  sw : Bool
  len : Nat
  deriving DecidableEq, Repr, Inhabited

/-- Operations of a bundle in head order with the prefixes that stand ahead of each. -/
def attach (rx : Bool) (g : Option Guard) : List RawHead → List (Nat × BundleOp)
  | [] => []
  | r :: rs =>
    if r.isPre then
      if headOp r.head == 0 then attach true g rs
      else attach rx (some (fld r.tail 12 4, flag r.tail 11)) rs
    else (headSlot r.head, ⟨r.dec, rx, g⟩) :: attach false none rs

/-- The operations of one slot. -/
def ofSlot (s : Nat) (ops : List (Nat × BundleOp)) : List BundleOp :=
  (ops.filter (fun x => x.1 == s)).map (·.2)

/-- c.eval of an ILLEGAL of R214 (R215). -/
def illegalEval (head reason : Nat) : Word := natWord (head + reason * 256)

/-- The outcome of fetching the bundle at a head of a line: the bundle, or the reason and head of R214. -/
def fetchBundle (l : Line) (head : Nat) (geyser : Bool) : Except (Nat × Nat) Bundle :=
  match l.badReason with
  | some r => .error (r, 31)
  | none =>
    if l.startsBundle head then
      let n := l.bundleLen head 31
      let hs := l.rawHeads head n
      match bundleReason geyser hs with
      | some e => .error e
      | none =>
        let ops := attach false none hs
        .ok ⟨ofSlot 0 ops ++ ofSlot 1 ops ++ ofSlot 2 ops, hs.any (fun r => headSw r.head), n⟩
    else .error (13, 31)

/-! ## The line of one operation, and the host's probe of the opcode table -/

/-- The line that holds one bundle of one head: line head, op head, zero bytes, tail at the top (R201, R202). -/
def lineOf (head : BitVec 16) (tail : BitVec 64) : Line :=
  let len := classBytes (headClass head.toNat)
  BitVec.ofNat 512 (2048 + head.toNat * 65536 + (tail.toNat % 2 ^ (8 * len)) <<< (8 * (64 - len)))

/-- The line of a word of the opcode table: the head stands above the tail bits the table gives. -/
def tableLine (nbits w : Nat) : Line :=
  lineOf (BitVec.ofNat 16 (w / 2 ^ (nbits - 16))) (BitVec.ofNat 64 (w % 2 ^ (nbits - 16)))

/-- The only operation of a fetched bundle. -/
def soleOp (b : Except (Nat × Nat) Bundle) : Option Instr :=
  match b with
  | .ok b => (match b.ops with | [o] => (match o.dec with | .op i => some i | _ => none) | _ => none)
  | .error _ => none

/-- The operation that the decoder reads from a word of the opcode table, whose low bits are the tail and whose high
16 bits are the op head: on a compute core, or, for the X group, on a Geyser core (R214, reason 11). -/
def decodeTableWord (nbits w : Nat) : Option Instr :=
  (soleOp (fetchBundle (tableLine nbits w) 0 false)).or (soleOp (fetchBundle (tableLine nbits w) 0 true))

/-! ## The encoder, from the same tables (R203, R206, R211 to R213) -/

/-- A field placed at its lowest bit. -/
def pk {n : Nat} (lo : Nat) (x : BitVec n) : BitVec 64 := x.setWidth 64 <<< lo

/-- One bit placed at its position. -/
def pb (i : Nat) (b : Bool) : BitVec 64 := pk i (BitVec.ofBool b)

/-- The head of an operation that ends its bundle without a marker: END, slot, class, opcode. -/
def opHead (slot op : Nat) : BitVec 16 :=
  BitVec.ofNat 16 (32768 + slot * 4096 + ((opClass slot op).getD 0) * 1024 + op)

def Cond.code : Cond → BitVec 4
  | .eq => 0 | .ne => 1 | .lt => 2 | .ge => 3 | .ltu => 4 | .geu => 5
  | .le => 6 | .gt => 7 | .leu => 8 | .gtu => 9 | .tst => 10 | .ntst => 11

def FCond.code : FCond → BitVec 4
  | .eq => 0 | .ne => 1 | .lt => 2 | .le => 3 | .gt => 4 | .ge => 5 | .un => 6 | .ord => 7

def AMode.code : AMode → BitVec 2
  | .own => 0 | .blk => 1 | .ilv => 2 | .gen => 3

def Size.code : Size → BitVec 2
  | .b => 0 | .h => 1 | .w => 2 | .d => 3

def AmoOp.code : AmoOp → BitVec 4
  | .swap => 0 | .add => 1 | .and => 2 | .or => 3 | .xor => 4 | .min => 5 | .max => 6 | .minu => 7 | .maxu => 8

def LaneType.code : LaneType → BitVec 3
  | .i8 => 0 | .i16 => 1 | .i32 => 2 | .i64 => 3 | .f32 => 4 | .f19 => 5 | .c4 => 6 | .c8 => 7

def Rnd.code : Rnd → BitVec 3
  | .rne => 0 | .rz => 1 | .ru => 2 | .rd => 3 | .rs => 4

def Sat.code : Sat → BitVec 2
  | .wrap => 0 | .signed => 1 | .unsigned => 2

def RedOp.code : RedOp → BitVec 4
  | .add => 0 | .min => 1 | .max => 2 | .minu => 3 | .maxu => 4 | .and => 5 | .or => 6 | .xor => 7
  | .fadd => 8 | .fmin => 9 | .fmax => 10

def SfuFn.code : SfuFn → BitVec 4
  | .rcp => 0 | .rsq => 1 | .sqrt => 2 | .exp2 => 3 | .log2 => 4 | .sinpi => 5 | .cospi => 6 | .tanh => 7

def ByteKind.code : ByteKind → BitVec 2
  | .lo => 0 | .hi => 1 | .spec => 2

def View.code : View → BitVec 2
  | .own => 0 | .blk => 1 | .ilv => 2

def DrainMode.code : DrainMode → BitVec 2
  | .raw => 0 | .fp32 => 1 | .planes => 2

/-- Lane type 4 or 5. -/
def fType (f19 : Bool) : BitVec 3 := if f19 then 5 else 4

def tG3 (q : QFlags) (d a b : BitVec 6) : BitVec 64 :=
  pk 26 d ||| pk 20 a ||| pk 14 b ||| pb 13 q.qd ||| pb 12 q.qa ||| pb 11 q.qb
def tGI (d a : BitVec 6) (imm : BitVec 20) : BitVec 64 := pk 26 d ||| pk 20 a ||| pk 0 imm
def tShift (d a sh : BitVec 6) : BitVec 64 := pk 26 d ||| pk 20 a ||| pk 0 sh
def tG2 (d a : BitVec 6) (fn : BitVec 4) : BitVec 64 := pk 10 d ||| pk 4 a ||| pk 0 fn
def tPp (pd pa : BitVec 4) (pb' : BitVec 4) : BitVec 64 := pk 10 pd ||| pk 4 pa ||| pk 0 pb'
def tBr (p : BitVec 4) (inv : Bool) (d : BitVec 22) (h : BitVec 5) : BitVec 64 :=
  pk 28 p ||| pb 27 inv ||| pk 5 d ||| pk 0 h
def tMem (t b : BitVec 6) (am : AMode) (z : Size) (off : BitVec 16) : BitVec 64 :=
  pk 26 t ||| pk 20 b ||| pk 18 am.code ||| pk 16 z.code ||| pk 0 off
def tVMem (t : BitVec 5) (b : BitVec 6) (am : AMode) (off : BitVec 16) : BitVec 64 :=
  pk 26 t ||| pk 20 b ||| pk 18 am.code ||| pk 0 off
def tOrd (o : Ord) : BitVec 64 := pk 35 o.scope ||| pb 34 o.acq ||| pb 33 o.rel
def tX (t b : BitVec 6) (am : AMode) (o : Ord) (off : BitVec 32) : BitVec 64 :=
  pk 58 t ||| pk 52 b ||| pk 44 am.code ||| tOrd o ||| pk 0 off
def tTk (d a b : BitVec 6) : BitVec 64 := pk 26 d ||| pk 20 a ||| pk 14 b
def tV3 (d a b : BitVec 5) (lt : BitVec 3) (g : BitVec 4) : BitVec 64 :=
  pk 27 d ||| pk 22 a ||| pk 17 b ||| pk 14 lt ||| pk 10 g
def tV4 (d a b c : BitVec 5) (lt : BitVec 3) (g pd ps : BitVec 4) : BitVec 64 :=
  pk 59 d ||| pk 54 a ||| pk 49 b ||| pk 44 c ||| pk 41 lt ||| pk 37 g ||| pk 33 pd ||| pk 29 ps
def tVG (d : BitVec 5) (g : BitVec 6) (idx : BitVec 4) (lt : BitVec 3) (gp : BitVec 4) : BitVec 64 :=
  pk 27 d ||| pk 21 g ||| pk 17 idx ||| pk 14 lt ||| pk 10 gp
def tEn (ga gb : BitVec 6) (o : Ord) (t : Bool) : BitVec 64 :=
  pk 58 ga ||| pk 52 gb ||| pb 45 o.acq ||| pb 44 o.rel ||| pk 41 o.scope ||| pb 40 t

/-- Slot, opcode and tail of an operation; none for a step of another agent. -/
def Instr.parts : Instr → Option (Nat × Nat × BitVec 64)
  | .add q d a b => some (0, 0x000, tG3 q d a b)
  | .sub q d a b => some (0, 0x001, tG3 q d a b)
  | .mul q d a b => some (0, 0x002, tG3 q d a b)
  | .mulh q d a b => some (0, 0x003, tG3 q d a b)
  | .mulhu q d a b => some (0, 0x004, tG3 q d a b)
  | .div q d a b => some (0, 0x005, tG3 q d a b)
  | .divu q d a b => some (0, 0x006, tG3 q d a b)
  | .rem q d a b => some (0, 0x007, tG3 q d a b)
  | .remu q d a b => some (0, 0x008, tG3 q d a b)
  | .and q d a b => some (0, 0x009, tG3 q d a b)
  | .or q d a b => some (0, 0x00A, tG3 q d a b)
  | .xor q d a b => some (0, 0x00B, tG3 q d a b)
  | .shl q d a b => some (0, 0x00C, tG3 q d a b)
  | .shr q d a b => some (0, 0x00D, tG3 q d a b)
  | .sar q d a b => some (0, 0x00E, tG3 q d a b)
  | .rol q d a b => some (0, 0x00F, tG3 q d a b)
  | .min q d a b => some (0, 0x010, tG3 q d a b)
  | .max q d a b => some (0, 0x011, tG3 q d a b)
  | .minu q d a b => some (0, 0x012, tG3 q d a b)
  | .maxu q d a b => some (0, 0x013, tG3 q d a b)
  | .adc q d a b pc pd => some (0, 0x014, tG3 q d a b ||| pk 0 pc ||| pk 4 pd)
  | .sbc q d a b pc pd => some (0, 0x015, tG3 q d a b ||| pk 0 pc ||| pk 4 pd)
  | .sel q d a b ps inv => some (0, 0x016, tG3 q d a b ||| pk 0 ps ||| pb 4 inv)
  | .cmp q d a b pd c => some (0, 0x017, tG3 q d a b ||| pk 0 pd ||| pk 4 c.code)
  | .addi d a i => some (0, 0x020, tGI d a i)
  | .andi d a i => some (0, 0x021, tGI d a i)
  | .ori d a i => some (0, 0x022, tGI d a i)
  | .xori d a i => some (0, 0x023, tGI d a i)
  | .shli d a i => some (0, 0x024, tShift d a i)
  | .shri d a i => some (0, 0x025, tShift d a i)
  | .sari d a i => some (0, 0x026, tShift d a i)
  | .cmpi d a c pd i => some (0, 0x027, pk 26 d ||| pk 20 a ||| pk 16 c.code ||| pk 12 pd ||| pk 0 i)
  | .lea d dl h => some (0, 0x028, pk 26 d ||| pk 5 dl ||| pk 0 h)
  | .clz d a => some (0, 0x030, tG2 d a 0)
  | .ctz d a => some (0, 0x031, tG2 d a 0)
  | .popc d a => some (0, 0x032, tG2 d a 0)
  | .movpPredFromG pd a => some (0, 0x033, pk 10 pd ||| pk 4 a)
  | .movpGFromPred d pa => some (0, 0x033, pk 10 d ||| pk 4 pa ||| pk 0 (1 : BitVec 4))
  | .movpPredFromPred pd pa => some (0, 0x033, pk 10 pd ||| pk 4 pa ||| pk 0 (2 : BitVec 4))
  | .pand d a b => some (0, 0x034, tPp d a b)
  | .por d a b => some (0, 0x035, tPp d a b)
  | .pxor d a b => some (0, 0x036, tPp d a b)
  | .pnot d a => some (0, 0x037, tPp d a 0)
  | .bfx q d a b len sgn => some (0, 0x038, tG3 q d a b ||| pk 0 len ||| pb 6 sgn)
  | .bfi q d a b len => some (0, 0x039, tG3 q d a b ||| pk 0 len)
  | .li d zx i => some (0, 0x040, pk 58 d ||| pb 48 zx ||| pk 0 i)
  | .lih d i => some (0, 0x041, pk 58 d ||| pk 0 i)
  | .gptrOwn d a => some (0, 0x048, tG2 d a 0)
  | .gptrBlk d a => some (0, 0x048, tG2 d a 1)
  | .gptrIlv d a => some (0, 0x048, tG2 d a 2)
  | .gwinCls d a => some (0, 0x049, tG2 d a 0)
  | .gwinLoc d a => some (0, 0x049, tG2 d a 1)
  | .br p inv d h => some (0, 0x050, tBr p inv d h)
  | .brc p inv d h => some (0, 0x051, tBr p inv d h)
  | .jmp d h => some (0, 0x052, tBr 0 false d h)
  | .jal d h => some (0, 0x053, tBr 0 false d h)
  | .jr a => some (0, 0x054, tG2 0 a 0)
  | .jalr d a => some (0, 0x054, tG2 d a 1)
  | .loop d a dl h => some (0, 0x055, pk 26 d ||| pk 20 a ||| pk 5 dl ||| pk 0 h)
  | .nop => some (0, 0x056, 0)
  | .ld t b am z off => some (0, 0x080, tMem t b am z off)
  | .st t b am z off => some (0, 0x081, tMem t b am z off)
  | .lds t b am z off => some (0, 0x082, tMem t b am z off)
  | .ldsp t b am z off => some (0, 0x083, tMem t b am z off)
  | .sts t b am z off => some (0, 0x084, tMem t b am z off)
  | .fesetEmpty b am z off => some (0, 0x085, tMem 0 b am z off)
  | .fesetFull b am z off => some (0, 0x085, tMem 1 b am z off)
  | .vld t b am off => some (0, 0x086, tVMem t b am off)
  | .vst t b am off => some (0, 0x087, tVMem t b am off)
  | .amo t b c am dw op o off =>
      some (0, 0x088, tX t b am o off ||| pk 46 c ||| pb 43 true ||| pb 42 dw ||| pk 38 op.code)
  | .cas t b c am dw o off => some (0, 0x089, tX t b am o off ||| pk 46 c ||| pb 43 true ||| pb 42 dw)
  | .fence o => some (0, 0x08A, tOrd o)
  | .cgo d => some (0, 0x08B, pk 26 d)
  | .csub d a b => some (0, 0x08C, tTk d a b)
  | .cunsub d a => some (0, 0x08D, tTk d a 0)
  | .xld t b am z o off => some (0, 0x0A0, tX t b am o off ||| pk 42 z.code)
  | .xst t b am z o off => some (0, 0x0A1, tX t b am o off ||| pk 42 z.code)
  | .xpush t b c am o off => some (0, 0x0A2, tX t b am o off ||| pk 46 c)
  | .xpref b am off => some (0, 0x0A3, pk 52 b ||| pk 44 am.code ||| pk 0 off)
  | .xtlbi t b c am off => some (0, 0x0A4, pk 58 t ||| pk 52 b ||| pk 46 c ||| pk 44 am.code ||| pk 0 off)
  | .xtlbiAll t am => some (0, 0x0A4, pk 58 t ||| pk 44 am.code ||| pk 38 (1 : BitVec 4))
  | .spawn d a b pd t => some (0, 0x0C0, tTk d a b ||| pk 0 pd ||| pb 4 t)
  | .spawnr d a b pd t => some (0, 0x0C1, tTk d a b ||| pk 0 pd ||| pb 4 t)
  | .spawni d a b pd t pr nt => some (0, 0x0C2, tTk d a b ||| pk 0 pd ||| pb 4 t ||| pk 5 pr ||| pb 7 nt)
  | .grow d a pd => some (0, 0x0C3, tTk d a 0 ||| pk 0 pd)
  | .touch d a pd c => some (0, 0x0C4, tTk d a 0 ||| pk 0 pd ||| pb 4 c)
  | .touchq d a => some (0, 0x0C5, tTk d a 0)
  | .resolve a b pd => some (0, 0x0C6, tTk 0 a b ||| pk 0 pd)
  | .cancel d a => some (0, 0x0C7, tTk d a 0)
  | .fdrop a pd => some (0, 0x0C8, tTk 0 a 0 ||| pk 0 pd)
  | .joini d a b pr => some (0, 0x0C9, tTk d a b ||| pk 5 pr)
  | .retire => some (0, 0x0CA, 0)
  | .waitw => some (0, 0x0CB, 0)
  | .waitm d => some (0, 0x0CC, tTk d 0 0)
  | .yield => some (0, 0x0CD, 0)
  | .send a b tag sys => some (0, 0x0CE, tTk 0 a b ||| pk 0 tag ||| pb 8 sys)
  | .trap fn => some (0, 0x0E0, pk 0 fn)
  | .eret => some (0, 0x0E1, 0)
  | .crd d n => some (0, 0x0E2, pk 26 d ||| pk 8 n)
  | .cwr a n => some (0, 0x0E3, pk 20 a ||| pk 8 n)
  | .time d => some (0, 0x0E4, pk 26 d)
  | .flushi l a => some (0, 0x0E5, pk 20 a ||| pb 0 l)
  | .dbrk => some (0, 0x0E6, 0)
  | .halt => some (0, 0x0E7, 0)
  | .scrub d fn => some (0, 0x0E8, pk 26 d ||| pk 0 fn)
  | .tabw fn x a => some (0, 0x0E9, pk 20 a ||| pk 8 x ||| pk 0 fn)
  | .tabr fn x d => some (0, 0x0EA, pk 26 d ||| pk 8 x ||| pk 0 fn)
  | .vadd lt s d a b g => some (1, 0x000, tV3 d a b lt.code g ||| pk 0 s.code)
  | .vsub lt s d a b g => some (1, 0x001, tV3 d a b lt.code g ||| pk 0 s.code)
  | .vadc lt d a b ps pd g => some (1, 0x002, tV4 d a b 0 lt.code g pd ps)
  | .vsbc lt d a b ps pd g => some (1, 0x003, tV4 d a b 0 lt.code g pd ps)
  | .vmul lt d a b g => some (1, 0x004, tV3 d a b lt.code g)
  | .vmulh lt u d a b g => some (1, 0x005, tV3 d a b lt.code g ||| pb 0 u)
  | .vmadw lt hi d a b c ps pd g => some (1, 0x006, tV4 d a b c lt.code g pd ps ||| pb 0 hi)
  | .vmin lt u d a b g => some (1, 0x007, tV3 d a b lt.code g ||| pb 0 u)
  | .vmax lt u d a b g => some (1, 0x008, tV3 d a b lt.code g ||| pb 0 u)
  | .vabs lt d a g => some (1, 0x009, tV3 d a 0 lt.code g)
  | .vand lt d a b g => some (1, 0x00A, tV3 d a b lt.code g)
  | .vor lt d a b g => some (1, 0x00B, tV3 d a b lt.code g)
  | .vxor lt d a b g => some (1, 0x00C, tV3 d a b lt.code g)
  | .vshl lt d a b g => some (1, 0x00D, tV3 d a b lt.code g)
  | .vshr lt d a b g => some (1, 0x00E, tV3 d a b lt.code g)
  | .vsar lt d a b g => some (1, 0x00F, tV3 d a b lt.code g)
  | .vcmp lt c nv d a b pd g => some (1, 0x010, tV3 d a b lt.code g ||| pk 0 c.code ||| pk 4 pd ||| pb 8 nv)
  | .vsel lt d a b ps g => some (1, 0x011, tV4 d a b 0 lt.code g 0 ps)
  | .vperm d a b g => some (1, 0x012, tV3 d a b 0 g)
  | .vsplat lt d r g => some (1, 0x013, tVG d r 0 lt.code g)
  | .vextr lt s r a idx => some (1, 0x014, tVG a r idx lt.code 0 ||| pb 0 s)
  | .vins lt d r idx g => some (1, 0x015, tVG d r idx lt.code g)
  | .vred lt o r d a g => some (1, 0x016, tV3 d a 0 lt.code g ||| pk 0 r.code ||| pk 3 o.code)
  | .vmov lt d a g => some (1, 0x017, tV3 d a 0 lt.code g)
  | .vfadd f r d a b g => some (1, 0x040, tV3 d a b (fType f) g ||| pk 0 r.code)
  | .vfsub f r d a b g => some (1, 0x041, tV3 d a b (fType f) g ||| pk 0 r.code)
  | .vfmul f r d a b g => some (1, 0x042, tV3 d a b (fType f) g ||| pk 0 r.code)
  | .vfma f r np nc d a b c g =>
      some (1, 0x043, tV4 d a b c (fType f) g 0 0 ||| pk 0 r.code ||| pb 3 np ||| pb 4 nc)
  | .vfmin f d a b g => some (1, 0x044, tV3 d a b (fType f) g)
  | .vfmax f d a b g => some (1, 0x045, tV3 d a b (fType f) g)
  | .vfcmp f c nv d a b pd g => some (1, 0x046, tV3 d a b (fType f) g ||| pk 0 c.code ||| pk 4 pd ||| pb 8 nv)
  | .vsfu f r fn d a g => some (1, 0x047, tV3 d a 0 (fType f) g ||| pk 0 r.code ||| pk 3 fn.code)
  | .vcvt dst src r su du sat part d a g =>
      some (1, 0x060, tV4 d a 0 0 dst.code g 0 0 ||| pk 0 r.code ||| pk 3 src.code ||| pb 6 su ||| pb 7 du |||
        pb 8 sat ||| pk 9 part)
  | .vdec b g x d a c gp => some (1, 0x061, tV4 d a 0 c 5 gp 0 0 ||| pb 3 b ||| pk 4 g ||| pk 9 x)
  | .venc f b g x d a vb c => some (1, 0x062, tV4 d a vb c (fType f) 0 0 0 ||| pb 3 b ||| pk 4 g ||| pk 9 x)
  | .vplaneScan f r d a c => some (1, 0x063, tV4 d a 0 c (fType f) 0 0 0 ||| pk 0 r.code)
  | .vplaneFix r w d a => some (1, 0x063, tV4 d a 0 0 3 0 0 0 ||| pk 0 r.code ||| pk 3 (1 : BitVec 2) ||| pk 5 w)
  | .vplaneAlign f r q k d a b c =>
      some (1, 0x063, tV4 d a b c (fType f) 0 0 0 ||| pk 0 r.code ||| pk 3 (2 : BitVec 2) ||| pk 5 q ||| pk 7 k.code)
  | .vplaneTr r q d a b c => some (1, 0x063, tV4 d a b c 0 0 0 0 ||| pk 0 r.code ||| pk 3 (3 : BitVec 2) ||| pk 5 q)
  | .vunplGather w g r h d a b =>
      some (1, 0x064, tV4 d a b 0 (if w then 1 else 0) 0 0 0 ||| pk 4 g ||| pk 7 r ||| pb 9 h)
  | .vunplVal w q d a b c => some (1, 0x064, tV4 d a b c (if w then 1 else 0) 0 0 0 ||| pb 3 true ||| pk 4 q)
  | .vquant half h d a c g => some (1, 0x065, tV4 d a 0 c 3 g 0 0 ||| pb 3 half ||| pk 4 h)
  | .vquantInv half h d a b c g => some (1, 0x065, tV4 d a b c 4 g 0 0 ||| pb 3 half ||| pk 4 h ||| pb 9 true)
  | .vrand lt d g => some (1, 0x066, tV4 d 0 0 0 lt.code g 0 0)
  | .alease l => some (2, 0x000, pk 0 l)
  | .arel => some (2, 0x001, 0)
  | .aset o t e p sat skip rm =>
      some (2, 0x002, tEn 0 0 o t ||| pk 0 e ||| pk 4 p ||| pb 9 sat ||| pb 10 skip ||| pb 11 rm)
  | .aldb o t v ga gb rstr n k => some (2, 0x003, tEn ga gb o t ||| pk 38 v.code ||| pk 28 k ||| pk 20 n ||| pk 9 rstr)
  | .astr o t v ga aoff rstr m => some (2, 0x004, tEn ga 0 o t ||| pk 38 v.code ||| pk 27 m ||| pk 16 rstr ||| pk 0 aoff)
  | .adrn o t v ga aoff n m wd clr tr md =>
      some (2, 0x005, tEn ga 0 o t ||| pk 38 v.code ||| pk 36 md.code ||| pb 35 tr ||| pb 34 clr ||| pk 30 wd |||
        pk 22 m ||| pk 14 n ||| pk 0 aoff)
  | .azero o t aoff n m => some (2, 0x006, tEn 0 0 o t ||| pk 22 m ||| pk 14 n ||| pk 0 aoff)
  | .amark acq scope tag => some (2, 0x007, tEn 0 0 ⟨acq, false, scope⟩ false ||| pk 0 tag)
  | .qpush n ga => some (2, 0x008, pk 58 ga ||| pk 0 n)
  | _ => none

/-- The op head and the tail of an operation. -/
def encode (i : Instr) : Option (BitVec 16 × BitVec 64) :=
  match i.parts with
  | some (slot, op, t) => some (opHead slot op, t)
  | none => none

/-- The tail value of an operation, zero-extended. -/
def Instr.tail (i : Instr) : BitVec 64 := match i.parts with | some x => x.2.2 | none => 0

/-- The opcode of an operation within its slot. -/
def Instr.opcode (i : Instr) : Nat := match i.parts with | some x => x.2.1 | none => 0

end Sys2Proof
end

