-- ==== Sys2Proof/Machine/Map.lean ====
section
/-! DEFINITION. Finite maps as sorted lists, and byte memories as sorted lists of cells in one canonical form. -/

namespace Sys2Proof.Machine

/-- A finite map from numbers: pairs with strictly rising keys. -/
abbrev NMap (α : Type) := List (Nat × α)

/-- The entry of a key. -/
def NMap.get? {α : Type} (k : Nat) : NMap α → Option α
  | [] => none
  | (a, v) :: m => if a = k then some v else NMap.get? k m

/-- The entry of a key, or a default. -/
def NMap.getD {α : Type} (k : Nat) (d : α) (m : NMap α) : α := (m.get? k).getD d

/-- The map with one entry set. -/
def NMap.put {α : Type} (k : Nat) (v : α) : NMap α → NMap α
  | [] => [(k, v)]
  | (a, w) :: m => if k < a then (k, v) :: (a, w) :: m else if a = k then (k, v) :: m else (a, w) :: NMap.put k v m

/-- The map without a key. -/
def NMap.del {α : Type} (k : Nat) (m : NMap α) : NMap α := m.filter (fun x => x.1 != k)

/-- A function applied to every entry. -/
def NMap.mapVal {α : Type} (f : α → α) : NMap α → NMap α
  | [] => []
  | (k, v) :: m => (k, f v) :: NMap.mapVal f m

/-- The keys of a map. -/
def NMap.keys {α : Type} (m : NMap α) : List Nat := m.map (·.1)

/-- A byte memory: cells with strictly rising addresses and no zero byte; an unlisted address reads as zero. -/
abbrev Mem := List Host.Cell

/-- The byte at an address. -/
def Mem.read (a : Nat) : Mem → Byte
  | [] => 0
  | (b, v) :: m => if b = a then v else Mem.read a m

/-- The memory without an address that may be listed. -/
def Mem.erase (a : Nat) : Mem → Mem
  | [] => []
  | (b, v) :: m => if b = a then m else (b, v) :: Mem.erase a m

/-- The memory with a non-zero byte set. -/
def Mem.insert (a : Nat) (x : Byte) : Mem → Mem
  | [] => [(a, x)]
  | (b, v) :: m =>
    if a < b then (a, x) :: (b, v) :: m else if b = a then (a, x) :: m else (b, v) :: Mem.insert a x m

/-- A write of one byte keeps the canonical form: a zero byte is not listed. -/
def Mem.write (a : Nat) (x : Byte) (m : Mem) : Mem := if x = 0 then m.erase a else m.insert a x

/-- All keys of a list of cells are above a bound, rising, with non-zero bytes. -/
def Mem.wfAbove (lo : Nat) : Mem → Bool
  | [] => true
  | (b, v) :: m => decide (lo ≤ b) && v != 0 && Mem.wfAbove (b + 1) m

/-- The canonical form: addresses strictly rising and no listed byte equal to what an unlisted address reads as. -/
def Mem.wf (m : Mem) : Bool := Mem.wfAbove 0 m

/-- The n bytes from an address, little-endian, as a number. -/
def Mem.readLE (m : Mem) (a : Nat) : Nat → Nat
  | 0 => 0
  | n + 1 => (m.read a).toNat + 256 * m.readLE (a + 1) n

/-- Writes the n low bytes of a number from an address, little-endian. -/
def Mem.writeLE (m : Mem) (a : Nat) : Nat → Nat → Mem
  | 0, _ => m
  | n + 1, x => (m.write a (BitVec.ofNat 8 x)).writeLE (a + 1) n (x / 256)

/-- A dword of a memory. -/
def Mem.dword (m : Mem) (a : Nat) : Word := natWord (m.readLE a 8)

/-- A memory with one dword written. -/
def Mem.setDword (m : Mem) (a : Nat) (x : Word) : Mem := m.writeLE a 8 x.toNat

/-- n bytes from an address. -/
def Mem.bytes (m : Mem) (a : Nat) : Nat → List Byte
  | 0 => []
  | n + 1 => m.read a :: m.bytes (a + 1) n

/-- A memory with a list of bytes written from an address. -/
def Mem.setBytes (m : Mem) (a : Nat) : List Byte → Mem
  | [] => m
  | b :: bs => (m.write a b).setBytes (a + 1) bs

/-- A memory with n bytes from an address cleared. -/
def Mem.clear (m : Mem) (a n : Nat) : Mem := m.filter (fun c => decide (c.1 < a) || decide (a + n ≤ c.1))

/-- Replaces the first element that meets a condition. -/
def replaceFirst {α : Type} (p : α → Bool) (f : α → α) : List α → List α
  | [] => []
  | x :: xs => if p x then f x :: xs else x :: replaceFirst p f xs

/-- Removes the first element that meets a condition. -/
def removeFirst {α : Type} (p : α → Bool) : List α → List α
  | [] => []
  | x :: xs => if p x then xs else x :: removeFirst p xs

/-- The bits of a number from lo, n of them. -/
def natBits (x lo n : Nat) : Nat := x / 2 ^ lo % 2 ^ n

/-- The numbers from a, n of them. -/
def rangeFrom (a : Nat) : Nat → List Nat
  | 0 => []
  | n + 1 => a :: rangeFrom (a + 1) n

end Sys2Proof.Machine
end

