-- ==== Sys2Proof/Machine/Types.lean ====
section
/-! DEFINITION. The records that State holds: frames, slots, cores, clusters and what waits in them. -/

namespace Sys2Proof.Machine

/-! ## Threads -/

/-- Kinds of outstanding results (R160, R163). -/
inductive OutKind where
  | plain | rx | x | xpush | other
  deriving DecidableEq, Repr, Inhabited

/-- What a FENCE and a release see in an access (R139). -/
inductive AccClass where
  | load | store | atomic | other
  deriving DecidableEq, Repr, Inhabited

/-- One outstanding result of a thread: which kind it counts as, the register and predicate that receive it, how many
words are missing, the data received, the bytes it touches and whether it is a full/empty operation. -/
structure Outst where
  id : Nat
  kind : OutKind
  cls : AccClass
  dst : Option Nat := none
  pd : Nat := 0
  need : Nat := 1
  lo : Word := 0
  hi : Word := 0
  bytes : List (Nat × Nat) := []
  fe : Bool := false
  deriving DecidableEq, Repr, Inhabited

/-- A trap with all that its entry records (R240, R374). -/
structure TrapRec where
  cause : BitVec 8
  detail : BitVec 8 := 0
  eval : Word := 0
  epc : Word := 0
  imp : Bool := false
  deriving DecidableEq, Repr, Inhabited

/-- An imprecise event that is due on a task (R240). -/
structure Due where
  cause : BitVec 8
  detail : BitVec 8
  eval : Word
  eseq : BitVec 17
  imp : Bool := true
  deriving DecidableEq, Repr, Inhabited

/-- The state of a future (R169). -/
inductive FState where
  | free | pending | resolved | faulted | cancelled
  deriving DecidableEq, Repr, Inhabited

/-- Where a task stands (R156, R362). -/
inductive TaskState where
  | free | queued | running | touch | waitm | yield | waitw | resumable
  deriving DecidableEq, Repr, Inhabited

/-- An error of a word or line of storage that no read has met yet (R428, R429): one that its code corrects, one that is
uncorrectable and gone on the retry, and a lasting one. -/
inductive Err where
  | correctable | transient | lasting
  deriving DecidableEq, Repr, Inhabited

/-- A register frame (R41), with what its task carries. Keys: core * 64 + frame, or 2^20 + channel * 4 + thread. -/
structure Frame where
  g : NMap Word := []
  v : NMap VWord := []
  p : NMap PWord := []
  pc : Word := 0
  epc : Word := 0
  eval : Word := 0
  fut : Word := 0
  join : Word := 0
  task : Word := 0
  wdogCount : BitVec 40 := 0
  wdogLimit : BitVec 24 := 0
  energy : BitVec 48 := 0
  energySat : Bool := false
  energyFrac : BitVec 8 := 0
  /-- energy by the firmware weights, for the partition total (R426), in units of 1/256 pJ -/
  energyFw : Nat := 0
  status : BitVec 8 := 0
  ecause : BitVec 17 := 0
  eseq : BitVec 17 := 0
  estat : BitVec 32 := 0
  /-- flags of results that are not readable yet, with the ready cycle of each (R271) -/
  flagsDue : List (Nat × BitVec 32) := []
  rowmask : BitVec 32 := 0
  fmta : BitVec 21 := 0
  fmtb : BitVec 21 := 0
  scale : BitVec 21 := 0
  index : BitVec 32 := 0
  prio : BitVec 2 := 0
  /-- ready cycle of each register (R161): g n, 64 + v, 128 + p -/
  ready : NMap Nat := []
  /-- pending registers (R160) -/
  pend : List Nat := []
  /-- outstanding results -/
  outs : List Outst := []
  /-- accesses every later access waits for, and accesses later stores and atomics wait for (R139) -/
  fenceAll : List Nat := []
  fenceStore : List Nat := []
  /-- those accesses that copies and array commands wait for too: of core scope or wider (R131, R139) -/
  fenceEngine : List Nat := []
  /-- acquires that every later access waits for (R141) -/
  acquires : List Nat := []
  /-- values the waits of the current bundle have received, and the waits still queued (R51) -/
  held : NMap Word := []
  waits : List Nat := []
  reply : Option Reply := none
  /-- the number of the operation whose answer the bundle waits for, 0 for none -/
  asked : Nat := 0
  /-- the address of the bundle whose switch marker acts (R372) -/
  markPc : Word := 0
  due : List Due := []
  /-- imprecise events taken at the marker that waits for their access (R250) -/
  dueMark : List Due := []
  /-- the waits for a mailbox dword and for a token, by wait number -/
  waitMail : Option Nat := none
  waitTok : Option Nat := none
  cancelReq : Bool := false
  /-- the request has not been taken yet (R173, R240) -/
  cancelDue : Bool := false
  /-- commands of the task are flushed until its ENGINE entry (R326) -/
  flushing : Bool := false
  trapPend : Option TrapRec := none
  /-- the bundle that issued last carried a switch marker (R173) -/
  atMarker : Bool := false
  state : TaskState := .free
  lseq : Nat := 0
  lane : Option Nat := none
  /-- the state that the task's future reached before the task has retired (R173) -/
  settled : Option FState := none
  /-- own-pool offsets of tiles 0 to 3, given to the slot at every dispatch (R45, R165) -/
  tiles : List Word := []
  /-- reserved tile regions on the core: offset and length (R367) -/
  regions : List (Nat × Nat) := []
  /-- identifiers of the task's outstanding copies (R107, R115) -/
  copies : List Nat := []
  /-- the next dword of the oldest mailbox entry (R355) -/
  mpos : Nat := 0
  deriving DecidableEq, Repr, Inhabited

/-- What a slot does (R156). -/
inductive SlotState where
  | free | run | marker | inPlace | line | halted | stopped
  deriving DecidableEq, Repr, Inhabited

/-- A barrel slot with its copy shadow set and its record (R44, R45). Keys: core * 8 + slot, or
131072 + channel * 4 + thread. -/
structure Slot where
  state : SlotState := .free
  frame : Option Nat := none
  cpsrc : Word := 0
  cpdst : Word := 0
  cpshape : Word := 0
  cpsstr : Word := 0
  cpdstr : Word := 0
  cpmask : Word := 0
  cpflags : Word := 0
  tile : List Word := []
  rkey : Word := 0
  rctr : Word := 0
  qbind : Word := 0
  deriving DecidableEq, Repr, Inhabited

/-! ## Waiting operations of words and FIFOs -/

/-- Who waits: a local thread, or a remote access with its packet's addresses. -/
inductive Who where
  | thread (frame : Nat)
  | remote (src sender : Nat) (tag : BitVec 10) (epoch : BitVec 6) (out part : Nat)
  deriving DecidableEq, Repr, Inhabited

/-- One operation in a word's wait queue (R52). -/
structure Waiter where
  who : Who
  op : AccOp
  off : Nat
  size : Nat
  data : Word
  id : Nat
  deriving DecidableEq, Repr, Inhabited

/-- One waiting push or pop at a FIFO (R65), with the held value's wait number. -/
structure FifoWaiter where
  frame : Nat
  wait : Nat
  value : Option Word
  deriving DecidableEq, Repr, Inhabited

/-- A cluster FIFO (R62). -/
structure Fifo where
  owner : Option (BitVec 10) := none
  items : List Word := []
  waiting : List FifoWaiter := []
  pushedAt : Option Nat := none
  poppedAt : Option Nat := none
  deriving DecidableEq, Repr, Inhabited

/-- An own-pool plain access that is performed one turn after its issue (R250). -/
structure Delayed where
  at_ : Nat
  id : Nat
  frame : Nat
  /-- the endpoint whose pool it reaches -/
  at_end : Nat
  accs : List WordAcc
  gap : Bool
  dst : Option Nat
  deriving DecidableEq, Repr, Inhabited

/-- A TABW that reads see from a cycle on (R187): its form, index and data. -/
structure TabWrite where
  at_ : Nat
  core : Nat
  fn : BitVec 2
  x : BitVec 8
  data : Word
  deriving DecidableEq, Repr, Inhabited

/-! ## Futures (R167 to R176) -/

/-- The producer of a future: a queued task, a dispatched task's frame, or none. -/
inductive Producer where
  | none | queued (task : Nat) | frame (fk : Nat)
  deriving DecidableEq, Repr, Inhabited

/-- A future-table entry. Keys: cluster * 4096 + entry. -/
structure Future where
  gen : Nat := 0x000F
  state : FState := .free
  value : Word := 0
  dropped : Bool := false
  owner : BitVec 10 := 0
  waiters : List Asker := []
  age : Nat := 0
  producer : Producer := .none
  /-- reserved by an allocation whose spill write is on its way -/
  spilling : Bool := false
  deriving DecidableEq, Repr, Inhabited

/-! ## Mailboxes and messages (R354, R355) -/

/-- A mailbox entry: the frame it is addressed to and its four dwords. -/
structure MailEntry where
  frame : Nat
  dwords : List Word
  deriving DecidableEq, Repr, Inhabited

/-! ## The semiring array (chapter 12) -/

/-- An array command with its operand values read at issue: g[ga], g[gb] and c.rowmask. -/
structure ACmd where
  seq : BitVec 16
  core : Nat
  frame : Nat
  op : Instr
  ga : Word
  gb : Word
  token : Bool
  rowmask : BitVec 32
  /-- accesses that precede its first read: by a FENCE, and under REL -/
  after : List Nat
  before : List Nat
  /-- its task has retired (R327) -/
  orphan : Bool := false
  deriving DecidableEq, Repr, Inhabited

/-- A token-store entry (R310). -/
structure Token where
  frame : Nat
  placed : Bool
  value : Word
  order : Nat
  deriving DecidableEq, Repr, Inhabited

/-! ## Cores -/

/-- One entry of a multicast match table (R120). -/
structure MatchEntry where
  tag : BitVec 10
  mtag : BitVec 16
  off : Nat
  confirmed : Bool
  /-- the join that it was entered with -/
  join : Nat := 0
  deriving DecidableEq, Repr, Inhabited

/-- A compute core. -/
structure Core where
  pword : BitVec 32 := 0
  tag : BitVec 10 := 0
  epoch : BitVec 6 := 0
  det : Bool := false
  failed : Bool := false
  lcid : Nat := 0
  tvec : Word := 0
  svec : Word := 0
  timer : Word := 0
  timerOwner : Option Nat := none
  ering : BitVec 7 := 0
  eseqNext : BitVec 16 := 1
  copyNext : BitVec 16 := 1
  /-- decode table, entry 0 where not listed, and encode order, position p holding p where not listed (R186) -/
  dtab : NMap (BitVec 32) := []
  order : NMap Byte := []
  mail : List MailEntry := []
  ring : NMap (Word × Word) := []
  acmds : List ACmd := []
  tokens : List Token := []
  groups : List MatchEntry := []
  ewt : NMap (BitVec 24) := []
  ewtIdx : BitVec 4 := 0
  ewtSel : Bool := false
  preempted : Bool := false
  inbox : List Packet := []
  overflow : List Packet := []
  heldRecords : List Nat := []
  retryBuf : List Packet := []
  deriving DecidableEq, Repr, Inhabited

/-! ## The bundle in issue -/

/-- The thread whose bundle is in issue and all that its operations read: the frame and the slot's registers as they
stood before the bundle (R157). -/
structure Cur where
  sk : Nat := 0
  fk : Nat := 0
  bpc : Word := 0
  npc : Word := 0
  rx : Bool := false
  sw : Bool := false
  ops : List Instr := []
  pre : Frame := {}
  slot : Slot := {}
  /-- the bundle has trapped, stalled or parked -/
  stopped : Bool := false
  /-- the precise trap that annulled it -/
  trapped : Option TrapRec := none
  deriving DecidableEq, Repr, Inhabited

/-- What the timing and the outside world choose next: an outside step, the k-th pending activity, or the next issue
opportunity of the rotation. -/
inductive Move where
  | input (i : Instr)
  | pending (k : Nat)
  | issue
  deriving DecidableEq, Repr, Inhabited

/-- A pending activity of an agent and the earliest cycle of its execution. -/
structure Event where
  notBefore : Nat
  act : Instr
  deriving DecidableEq, Repr, Inhabited

/-! ## Lamplighters (chapter 14) -/

/-- A task of a cluster that awaits placement (R361), with its record's data. -/
structure Task where
  id : Nat
  entry : Word
  args : List Word
  index : BitVec 32 := 0
  g7 : Word := 0
  prio : BitVec 2
  sdom : Nat := 0
  lseq : Nat := 0
  fut : Word := 0
  join : Word := 0
  tag : BitVec 10
  tiles : List (Word × Word) := []
  fmta : BitVec 21 := 0
  fmtb : BitVec 21 := 0
  scale : BitVec 21 := 0
  rowmask : BitVec 32 := 0xFFFFFFFF
  lane : Option Nat := none
  /-- the state that its future has reached already (R173) -/
  settled : Option FState := none
  /-- the moment it joined its order -/
  order : Nat := 0
  /-- the frame of a resumable task -/
  resume : Option Nat := none
  /-- the frame reserved for its prefetch, its region and the prefetch copies still running -/
  target : Option Nat := none
  regions : List (Nat × Nat) := []
  prefetching : List Nat := []
  failed : Option (BitVec 8) := none
  /-- a slot reserved by JOINI whose continuation has not been enqueued yet -/
  reservedOnly : Bool := false
  /-- the record was malformed: the task retires at once (R336) -/
  malformed : Bool := false
  /-- removed from its queue while prefetch copies still run (R126) -/
  cancelled : Bool := false
  /-- created from an index of a launch (R359) -/
  launched : Bool := false
  /-- a launch and a continuation name no formats (R165): they are free values at dispatch -/
  freeFormats : Bool := false
  deriving DecidableEq, Repr, Inhabited

/-- The range of indices a cluster holds of a launch. -/
structure Range where
  tag : BitVec 10
  lseq : Nat
  next : Nat
  limit : Nat
  /-- its first index -/
  lo : Nat := 0
  deriving DecidableEq, Repr, Inhabited

/-- A launch in progress (R356 to R359). -/
structure Launch where
  vf : Nat
  lseq : Nat
  dwords : List Word
  count : Nat
  next : Nat := 0
  checked : Bool := false
  live : Nat := 0
  faulted : Nat := 0
  cancelled : Nat := 0
  /-- clusters whose request found the launch empty -/
  asking : List Nat := []
  status : Option (BitVec 8) := none
  /-- CERT = 1 and the certificate has not been written (R408) -/
  certWait : Bool := false
  deriving DecidableEq, Repr, Inhabited

end Sys2Proof.Machine
end

