-- ==== Sys2Proof/Machine/Units.lean ====
section
/-! DEFINITION. The records of the units beside the cores: the array, the Lamplighter, Geysers, copies, partitions,
routers and the hub. -/

namespace Sys2Proof.Machine

/-! ## The semiring array -/

/-- A decoded plane record of one 48-element block (R57 to R60): scale exponent, width, class, flags, and per element
its integer, infinity, sign of infinity and zero mark. -/
structure PRec where
  e : Nat := 0
  w : Nat := 0
  cls : Nat := 0
  sgn : Bool := false
  nan : Bool := false
  s : List Int := []
  inf : List Bool := []
  neg : List Bool := []
  zero : List Bool := []
  deriving DecidableEq, Repr, Inhabited

/-- The stationary tile: one list of records per column (R318). -/
structure BTile where
  k : Nat
  n : Nat
  enabled : List Bool
  cols : List (List PRec)
  deriving DecidableEq, Repr, Inhabited

/-- A standing lease (R305 to R307). -/
structure Lease where
  core : Nat
  frame : Nat
  remaining : Nat
  granted : Nat
  config : Option ACmd := none
  tile : Option BTile := none
  /-- the ALDB that loaded the tile and the ASET then in force (R328) -/
  ldb : Option ACmd := none
  ldbConfig : Option ACmd := none
  ending : Bool := false
  lastAstr : Bool := false
  deriving DecidableEq, Repr, Inhabited

/-- A lease record saved at pre-emption (R328). -/
structure LeaseRec where
  frame : Nat
  remaining : Nat
  ldb : Option ACmd
  ldbConfig : Option ACmd
  config : Option ACmd
  deriving DecidableEq, Repr, Inhabited

/-! ## The cluster -/

/-- A line of the instruction store (R34). -/
structure ILine where
  va : Nat
  tag : BitVec 10
  epoch : BitVec 6
  data : Line
  deriving DecidableEq, Repr

/-- The allocation of a task that waits for the spill writes it needs (R171): its entries, what is created, and who is
answered. -/
inductive AllocFor where
  | spawn (t : Task) (a : Asker) (trap : Bool)
  | spawnNt (a : Asker) (trap : Bool)
  | spawnr (ts : List Task) (a : Asker) (trap : Bool)
  | index (t : Task)
  | joini (count : BitVec 32) (prio : BitVec 2) (lseq : Nat) (ptr : Word) (a : Asker) (core : Nat)
  deriving DecidableEq, Repr, Inhabited

/-- The array command in execution: the words that it has still to read, those it has read, the owner of its writes on their way,
and its outcome when only these are left: status, sticky bits, units of energy classes 6 and 7 (R129, R426). -/
structure ARun where
  todo : List (Nat × Nat) := []
  read : List (Nat × List Byte) := []
  id : Nat := 0
  done : Option (Nat × BitVec 32 × Nat × Nat) := none
  deriving DecidableEq, Repr, Inhabited

/-- One cluster: its Lamplighter, instruction store and array. -/
structure Cluster where
  tasks : List Task := []
  passed : Nat := 0
  /-- the cycle of the last placement (R363) -/
  placedAt : Option Nat := none
  ranges : List Range := []
  dispatched : NMap Nat := []
  leaseCycles : NMap Nat := []
  prefetches : Nat := 0
  prefetchNext : BitVec 16 := 1
  icache : List ILine := []
  lease : Option Lease := none
  /-- logical number of the core of the last holder (R305) -/
  lastHolder : Option Nat := none
  running : Option ACmd := none
  runningUntil : Nat := 0
  run : ARun := {}
  deriving DecidableEq, Repr, Inhabited

/-! ## Geysers, translation and copies -/

/-- A GTLB entry (R86). -/
structure GEntry where
  id : Nat
  tag : BitVec 10
  va : Nat
  block : Bool
  frame : Nat
  wr : Bool
  host : Bool
  c : Bool
  d : Bool
  inUse : Nat
  invalid : Bool
  deriving DecidableEq, Repr, Inhabited

/-- A line of the cache directory (R77): set, way, tag of the address, dirty. Device memory holds its bytes as every agent sees
them (R130); of a dirty line `old` are those that HBM4E holds, which come back where it is not written back (R393). -/
structure CLine where
  set : Nat
  way : Nat
  tag : Nat
  dirty : Bool
  old : List Byte := []
  deriving DecidableEq, Repr, Inhabited

/-- A prefetch stream (R96): the extent of its last burst, descending, bytes read ahead. -/
structure PStream where
  tag : BitVec 10
  lo : Nat
  hi : Nat
  down : Bool
  ahead : Nat
  deriving DecidableEq, Repr, Inhabited

/-- The control words and state of one Geyser thread (R75). -/
structure GThread where
  entry : Word := 0
  arg : Word := 0
  priv : Bool := false
  state : BitVec 2 := 0
  cause : BitVec 8 := 0
  held : Bool := false
  deriving DecidableEq, Repr, Inhabited

/-- A Geyser. -/
structure Geyser where
  threads : NMap GThread := []
  tag : BitVec 10 := 0
  epoch : BitVec 6 := 0
  det : Bool := false
  tvec : Word := 0
  svec : Word := 0
  timer : Word := 0
  timerOwner : Option Nat := none
  ewt : NMap (BitVec 24) := []
  ewtIdx : BitVec 4 := 0
  ewtSel : Bool := false
  mail : List MailEntry := []
  gtlb : List GEntry := []
  lines : List CLine := []
  plru : NMap Nat := []
  streams : List PStream := []
  bytes : NMap Nat := []
  deriving DecidableEq, Repr, Inhabited

/-- A translation outcome that carries an address (R84). -/
structure Trans where
  addr : Nat
  host : Bool
  c : Bool
  entry : Nat
  deriving DecidableEq, Repr, Inhabited

/-- What a copy serves: a thread's CGO, a tile prefetch, an XPUSH, or the write of a certificate for a launch (R408). -/
inductive CopyFor where
  | thread | prefetch (cluster task : Nat) | xpush (out : Nat) | cert (lseq : Nat)
  deriving DecidableEq, Repr, Inhabited

/-- An admitted burst of a copy (R87): packed row j, offset in the row, length, translated address, GTLB entry. -/
structure Burst where
  id : Nat
  row : Nat
  j : Nat
  off : Nat
  len : Nat
  host : Bool
  addr : Nat
  channel : Nat
  entry : Nat
  /-- the cached host translation it uses, 0 for none -/
  ats : Nat
  /-- the leaf's C bit (R79), and the address before translation (R374) -/
  c : Bool
  va : Nat
  /-- the bytes of a host read that has returned, or those that a host write has collected -/
  got : Option (List Byte) := none
  /-- a host read that has ended with an error -/
  err : Bool := false
  /-- its bytes that have been read (R129) -/
  moved : Nat := 0
  deriving DecidableEq, Repr, Inhabited

/-- A write of at most one word by a copy, a delivery or a reduce that has been issued and not yet performed (R113, R117,
R129): its owner, the core or Geyser from which its window is named, its place and bytes. -/
structure Late where
  id : Nat := 0
  owner : Nat
  tag : BitVec 10
  epoch : BitVec 6
  core : Nat := 0
  ptr : Word := 0
  off : Nat
  data : List Byte
  /-- it goes to device memory at the address `off`, with its leaf's C and the GTLB entry that it uses at a channel -/
  device : Bool := false
  c : Bool := false
  channel : Nat := 0
  entry : Nat := 0
  /-- it sets its word full (R121) -/
  full : Bool := false
  /-- it follows every other write of its owner at its core -/
  last : Bool := false
  deriving DecidableEq, Repr, Inhabited

/-- A copy in progress (R105 to R127). -/
structure Copy where
  tid : BitVec 16
  purpose : CopyFor
  core : Nat
  frame : Nat
  tag : BitVec 10
  epoch : BitVec 6
  src : Word
  dst : Word
  shape : Word
  sstr : Word
  dstr : Word
  mask : Word
  flags : Word
  after : List Nat
  channel : Nat
  /-- rows still to be copied with their packed numbers, once the mask has been read -/
  rows : Option (List (Nat × Nat)) := none
  off : Nat := 0
  bursts : List Burst := []
  /-- data of a push that has been read, and rows written in full, bytes done, outcome flags -/
  data : List Byte := []
  fullRows : Nat := 0
  bytes : Nat := 0
  gap : Bool := false
  refused : Bool := false
  status : Option (BitVec 8) := none
  count : Nat := 0
  stalled : Option Nat := none
  response : Option (BitVec 2) := none
  cancelled : Bool := false
  retired : Bool := false
  ended : Bool := false
  /-- the tile of a push has entered the root -/
  entered : Bool := false
  /-- the next burst has been charged to the Geyser-byte budget (R370) -/
  charged : Bool := false
  /-- a burst has ended with HOSTERR: the later ones move nothing (R99, R115) -/
  dead : Bool := false
  /-- the header of a gather has been written (R111) -/
  header : Bool := false
  /-- the number in the order of completion, once its record is on its way (R113) -/
  order : Option Nat := none
  /-- bytes of the Geyser pool that the thread of a push reaches (R31) -/
  reach : Nat := 0
  /-- its record is parked in an inbox (R127) -/
  parked : Bool := false
  deriving DecidableEq, Repr, Inhabited

/-- A pushed tile on its way through the group's routers (R121). -/
structure Tile where
  id : Nat
  tag : BitVec 10
  epoch : BitVec 6
  mtag : BitVec 16
  rows : Nat
  rowb : Nat
  dstr : Nat
  data : List Byte
  /-- copies of the tile that have still to pass a router, and deliveries to cores with the offset matched -/
  routers : List Nat
  cores : List (Nat × Nat)
  /-- its full bit is a release of its writes: ACQ = 1 at a scope wider than the thread (R140) -/
  rel : Bool := true
  /-- the next byte of each delivery -/
  next : NMap Nat := []
  deriving DecidableEq, Repr, Inhabited

/-- A join on its way to the root (R120). -/
structure JoinReq where
  id : Nat
  core : Nat
  frame : Nat
  tag : BitVec 10
  mtag : BitVec 16
  out : Nat
  at_ : Nat
  port : Nat
  path : List (Nat × Nat)
  /-- later CSUBs of the same tag, by frame and outstanding result: they wait for the same end (R121) -/
  also : List (Nat × Nat) := []
  deriving DecidableEq, Repr, Inhabited

/-- A leave (R122), with the tiles begun before the removal that are still being delivered. -/
structure LeaveReq where
  id : Nat
  core : Nat
  frame : Nat
  out : Nat
  begun : List Nat
  tag : BitVec 10
  mtag : BitVec 16
  at_ : Nat
  port : Nat
  deriving DecidableEq, Repr, Inhabited

/-- A group entry of a router: port bits, 16 for the local cores, 16 to 19 for neighbours, 20 for the hub. -/
structure GroupEntry where
  tag : BitVec 10
  mtag : BitVec 16
  ports : List Nat
  deriving DecidableEq, Repr, Inhabited

structure Router where
  groups : List GroupEntry := []
  deriving DecidableEq, Repr, Inhabited

/-! ## Partitions, virtual functions and the hub -/

/-- What the images of a saved partition hold beside the dwords that the spec lays out (R388): its cores, slots, frames,
wait queues and lease records, by cluster its tasks and the anti-starvation count, its futures and FIFOs, and its Geyser
threads with their mailboxes and pools. -/
structure Image where
  /-- the timestamp of the save -/
  time : Nat := 0
  cores : NMap Core := []
  slots : NMap Slot := []
  frames : NMap Frame := []
  waitq : NMap (List Waiter) := []
  leaseRecs : NMap LeaseRec := []
  queues : NMap (List Task × Nat) := []
  futures : NMap Future := []
  fifos : NMap Fifo := []
  threads : NMap GThread := []
  mails : NMap (List MailEntry) := []
  gpool : Mem := []
  deriving DecidableEq, Repr, Inhabited

/-- A registered program ring (R414) with its pending count (R415). -/
structure Ring where
  rcb : Word := 0
  ccount : BitVec 16 := 0
  ctime : BitVec 32 := 0
  en : Bool := false
  pending : Nat := 0
  oldest : Nat := 0
  deriving DecidableEq, Repr, Inhabited

/-- A launch-completion record that waits for its ring, or is being written (R358, R413). -/
structure Completion where
  ring : Word
  dwords : List Word
  deriving DecidableEq, Repr, Inhabited

/-- The body of a certificate (R406). -/
structure Cert where
  scope : BitVec 32 := 0
  seq : Nat := 0
  tag : Nat := 0
  oldGen : Nat := 0
  newGen : Nat := 0
  start : Nat := 0
  end_ : Nat := 0
  deriving DecidableEq, Repr, Inhabited

/-- A partition of this module (R394). -/
structure Part where
  assigned : Bool := false
  epoch : BitVec 6 := 0
  logical : List (BitVec 32) := []
  /-- cores that have left the table and wait for a scrub (R398) -/
  left : List Nat := []
  root : Nat := 0
  spill : Nat := 0
  pageReq : Bool := false
  quotaEntries : Nat := 0
  quotaSlots : Nat := 0
  budget0 : Word := 0
  budget1 : Word := 0
  steal : NMap (List Nat) := []
  wdog : BitVec 24 := 0
  lim : Bool := false
  pol : Bool := false
  steer : List Nat := []
  pasid : BitVec 20 := 0
  rings : NMap Ring := []
  slice : Nat := 0
  ctx : Nat := 0
  state : BitVec 2 := 0
  err : BitVec 8 := 0
  restoring : Bool := false
  /-- the bit RESUME as it was written last (R384) -/
  resume : Bool := false
  /-- what the saved images hold, the next 4 KiB of the context area that the context unit moves, what it has read back, and
  its request that waits for the host, 0 for none (R388, R390, R98) -/
  image : Option Image := none
  ctxNext : Nat := 0
  readback : Mem := []
  ctxReq : Nat := 0
  toff : Word := 0
  saved : Option Nat := none
  energyTotal : Word := 0
  seed : Word := 0
  k : Nat := 16
  kNext : Nat := 16
  launches : List Launch := []
  held : List Launch := []
  completions : List Completion := []
  cert : Option Cert := none
  /-- the last certificate written at TOKEN: sequence number and nonce, and its bytes -/
  lastCert : Option ((Nat × Word × Word) × List Byte) := none
  /-- the certificate that has been signed, with the launch that it is for -/
  signing : Option (Nat × List Byte) := none
  scrubbing : Bool := false
  fabric : Nat := 0
  heldPackets : List Packet := []
  deriving DecidableEq, Repr, Inhabited

/-- An outstanding page request (R91, R92, R98). -/
structure PageReq where
  id : Nat
  va : Nat
  write : Bool
  host : Bool
  rid : Nat
  gen : BitVec 16
  sent : Bool
  /-- stalled copies, and frames of stalled Geyser threads -/
  copies : List Nat
  threads : List Nat
  /-- units of the hub that wait for the page: rings, records, context units (R98) -/
  units : List Nat := []
  deriving DecidableEq, Repr, Inhabited

/-- A write of PRRING, TOKEN or RUNW held during a scrub (R400). -/
structure HeldWrite where
  act : Instr
  deriving DecidableEq, Repr, Inhabited

/-- A virtual function. -/
structure Vf where
  stale : BitVec 32 := 0
  staleSat : Bool := false
  badl : BitVec 32 := 0
  pgresp0 : Word := 0
  pgresp1 : Word := 0
  prring : Word := 0
  token : Word := 0
  certseq : Word := 0
  gen : BitVec 16 := 0
  nextRid : Nat := 0
  nextLseq : BitVec 32 := 1
  reqs : List PageReq := []
  bme : Bool := true
  ats : Bool := false
  alloc : Nat := 0
  heldWrites : List HeldWrite := []
  deriving DecidableEq, Repr, Inhabited

/-- A host read or a translation request that the hub has sent: for a copy's burst, a Geyser thread's access, a fill or a
spill (R97 to R99). -/
structure HostReq where
  id : Nat
  vf : Nat
  /-- the PASID that the request carries (R97) -/
  pasid : BitVec 20
  va : Nat
  len : Nat
  copy : Option (Nat × Nat)
  frame : Option Nat
  /-- the fill or spill that it serves, 0 for none -/
  unit : Nat := 0
  /-- the cached translation it uses, 0 for none -/
  entry : Nat
  ats : Bool
  /-- the GTLB entry that an access holds, 0 for none, with its channel, and the access's address (R87, R263) -/
  chan : Nat := 0
  gent : Nat := 0
  eval : Word := 0
  write : Bool := false
  deriving DecidableEq, Repr, Inhabited

/-- A trap message (R380). -/
structure TrapMsg where
  id : Nat := 0
  beacon : Nat := 0
  kind : Nat
  part : BitVec 10
  acc : Nat := 0
  die : Nat := 0
  edge : Bool := false
  cause : BitVec 8 := 0
  src : BitVec 32 := 0
  srcmap : Word := 0
  va : Nat := 0
  /-- the copies and Geyser threads stalled on a page request -/
  copies : List Nat := []
  threads : List Nat := []
  /-- the 64 KiB page of a lasting fault in a slice or channel (R429) -/
  page : Option Nat := none
  /-- the core of a lasting fault in its pool (R429) -/
  pool : Option Nat := none
  /-- the storage belongs to no partition (R401) -/
  noPart : Bool := false
  deriving DecidableEq, Repr, Inhabited

/-- A cause entry (R401). -/
structure CauseEntry where
  kind : BitVec 8
  vf : BitVec 11
  cause : BitVec 8
  count : BitVec 32
  detail : Word
  time : Word
  deriving DecidableEq, Repr, Inhabited

/-- A contribution of a member in another module (R421): the member, the shape of its copy and its bytes. -/
structure Contribution where
  member : Nat
  shape : Word
  data : List Byte
  deriving DecidableEq, Repr, Inhabited

/-- A communicator (R421). -/
structure Comm where
  part : BitVec 10 := 0
  op : BitVec 2 := 0
  members : List Nat := []
  state : BitVec 2 := 0
  gen : BitVec 8 := 0
  /-- open rounds, oldest first: the copies that have contributed, and the contributions of other modules -/
  rounds : List (List Nat) := []
  remote : NMap Contribution := []
  deriving DecidableEq, Repr, Inhabited

/-- A scrub (R403). -/
structure Scrub where
  tag : Nat
  scope : BitVec 32
  assign : Bool
  seed : Word
  start : Nat
  deriving DecidableEq, Repr, Inhabited

/-- A SCRUB instruction whose clearing runs (R247). -/
structure CoreScrub where
  id : Nat
  core : Nat
  frame : Nat
  out : Nat
  fn : BitVec 3
  seq : BitVec 16
  /-- the next scratchpad word to clear -/
  next : Nat := 0
  deriving DecidableEq, Repr, Inhabited

/-- A task that has retired and whose future, in another cluster or module, has not been set yet: what its decrement and
its launch's count wait for (R173, R176, R358). -/
structure TaskEnd where
  id : Nat
  src : Nat
  tag : BitVec 10
  epoch : BitVec 6
  sender : Nat
  fut : Word
  join : Word
  lane : Option Nat
  lseq : Nat
  final : FState
  deriving DecidableEq, Repr, Inhabited

/-- A spill write or read in progress (R171). -/
structure Spill where
  id : Nat
  cluster : Nat
  /-- entries whose records are written, and the allocation that waits; or the handle a TOUCH reads for a thread -/
  entries : List Nat
  work : Option AllocFor
  handle : Word
  consume : Bool
  asker : Asker
  tag : BitVec 10
  /-- the owners that the entries had before they were reserved -/
  owners : List (BitVec 10) := []
  /-- the host could not translate an address of the record (R98, R171) -/
  failed : Bool := false
  deriving DecidableEq, Repr, Inhabited

/-- An invalidation (R88): partition, range, what waits for its completion. -/
structure Inval where
  id : Nat
  tag : BitVec 10
  va : Nat
  len : Nat
  whole : Bool
  channels : List Nat
  frame : Option Nat
  out : Nat
  ats : Option Nat
  /-- the entries it has found, by channel, when it began there (R88) -/
  found : NMap (List Nat) := []
  deriving DecidableEq, Repr, Inhabited

/-- An instruction-store fill (R34). -/
structure Fill where
  id : Nat
  cluster : Nat
  va : Nat
  tag : BitVec 10
  epoch : BitVec 6
  slot : Nat
  /-- the end of its read of host memory: its bytes, or the outcome code -/
  done : Option (List Byte × Nat) := none
  deriving DecidableEq, Repr, Inhabited

/-- An entry of the hub's address translation cache (R98): function, PASID, page, in-use count. -/
structure AtsEntry where
  id : Nat
  vf : Nat
  pasid : BitVec 20
  page : Nat
  inUse : Nat
  invalid : Bool
  deriving DecidableEq, Repr, Inhabited

/-- Per-die error counters (R429). -/
structure Errors where
  corr : BitVec 32 := 0
  trans : BitVec 32 := 0
  last : BitVec 32 := 0
  deriving DecidableEq, Repr, Inhabited

/-- The attestation certificate that the hub holds: how often it has been issued, and the boot log whose digest it carries
(R431). -/
structure Attest where
  issue : Nat := 1
  log : List (BitVec 256) := []
  deriving DecidableEq, Repr, Inhabited

/-- A link (R418): packets that wait for credits of their channel or for room, those that have been sent and not yet
acknowledged with the sequence number of their first flit, the sequence numbers sent next and expected next, and the flits
that each channel may still send (log entries 71 and 116). -/
structure Link where
  up : Bool := false
  waiting : List Packet := []
  replay : List (Nat × Packet) := []
  /-- requests forwarded over the link and not yet answered -/
  unanswered : List Packet := []
  sent : Nat := 0
  received : Nat := 0
  credits : NMap Nat := []
  deriving DecidableEq, Repr, Inhabited

/-- The hub. -/
structure Hub where
  recovery : Bool := false
  /-- the fused minimum version of firmware images (R430) -/
  minVersion : Nat := 0
  /-- dies that cannot hold their clock at 420 mV (R427) -/
  slowDies : List Nat := []
  bootLog : List (BitVec 256) := []
  attest : Attest := {}
  channelK : NMap Nat := []
  owners : NMap (List Owner) := []
  routes : NMap (BitVec 32) := []
  /-- the time-division schedule: slot, link, and flow as source * 2^24 + destination -/
  schedule : List (Nat × Nat × Nat) := []
  tsRef : Nat := 0
  comms : NMap Comm := []
  crcb : Word := 0
  ccoal : Ring := {}
  covf : BitVec 32 := 0
  rdrop : BitVec 32 := 0
  lup : BitVec 18 := 0
  ldown : BitVec 18 := 0
  links : NMap Link := []
  causes : List CauseEntry := []
  /-- cached CONS values by control block address -/
  cons : NMap Word := []
  msix : List Nat := []
  scrubs : List Scrub := []
  /-- scrubs that run, by partition -/
  running : NMap Scrub := []
  scrubSeq : Nat := 0
  coreScrubs : List CoreScrub := []
  powerLimit : Nat := 3600
  /-- core supply of a die in mV, set by firmware (R423, R427) -/
  supply : NMap Nat := []
  errors : NMap Errors := []
  retired : List Nat := []
  /-- trap messages on VC3 on their way to their Beacons, and those the Beacons hold in arrival order (R381) -/
  beacons : List TrapMsg := []
  queue : List TrapMsg := []
  /-- refusals counted in the period: agent * 1024 + tag to (count, a message has been sent) -/
  refusals : NMap (Nat × Bool) := []
  tiles : List Tile := []
  joins : List JoinReq := []
  leaves : List LeaveReq := []
  spills : List Spill := []
  ends : List TaskEnd := []
  invals : List Inval := []
  fills : List Fill := []
  hostReqs : List HostReq := []
  ats : List AtsEntry := []
  hostUp : Bool := true
  deriving DecidableEq, Repr, Inhabited

end Sys2Proof.Machine
end

