-- ==== Sys2Proof/Machine/State.lean ====
section
/-! DEFINITION. The machine's whole state, the stops, and the state after reset. Every field is plain data. -/

namespace Sys2Proof.Machine

/-- What stops the machine. -/
inductive Fault where
  /-- Raised by step when the module is in recovery after a boot whose image did not verify (R430): every step but a
  module reset stops. Safe: the spec says that nothing else is accepted. -/
  | recovery
  deriving DecidableEq, Repr, Inhabited

/-- Why an instruction has no meaning in the model. -/
inductive Refusal where
  /-- Raised by an arm of Dispatch whose instruction has no meaning yet. Safe: nothing is claimed of it. -/
  | notModelled (mnemonic : String)
  deriving DecidableEq, Repr

/-- The state of one Lanrid F8 module. Key conventions: core index = die * 2048 + cluster * 16 + core; cluster index =
core index / 16; pool byte = core index * 2^17 + offset; Geyser pool byte = channel * 2^16 + offset; host byte =
virtual function * 2^56 + address. -/
structure State where
  /-- the cycle counter (R154), the device timestamp in ns, the rest of a ns in units of 1/7,000,000 ns, and the slew in
  ppm (R422) -/
  cycle : Nat := 0
  time : Nat := 0
  frac : Int := 0
  slew : Int := 0
  /-- the module's number in its load-store domain (R14, R420) -/
  module : BitVec 10 := 0
  /-- slots that have not yet had their issue opportunity in this cycle -/
  thisCycle : List Nat := []
  cur : Cur := {}
  frames : NMap Frame := []
  slots : NMap Slot := []
  cores : NMap Core := []
  fifos : NMap Fifo := []
  futures : NMap Future := []
  clusters : NMap Cluster := []
  leaseRecs : NMap LeaseRec := []
  geysers : NMap Geyser := []
  parts : NMap Part := []
  vfs : NMap Vf := []
  routers : NMap Router := []
  hub : Hub := {}
  pool : Mem := []
  gpool : Mem := []
  dev : Mem := []
  host : Mem := []
  /-- words of the pools that are full (R49), by core index * 2^14 + word -/
  full : NMap Unit := []
  /-- wait queues of words (R52), by the same key -/
  waitq : NMap (List Waiter) := []
  /-- storage with an error (R428, R429), by the keys of patrolPlace: pool words by their own key, words of Geyser pools and
  of Geyser frames, FIFOs, entries of the future table, arrays and instruction stores from 2^28, metadata words (R56) from
  2^29, lines of HBM4E from 2^30, lines of cache slices from 2^40 -/
  bad : NMap Err := []
  delayed : List Delayed := []
  /-- TABW writes that no read sees yet (R187) -/
  tabWrites : List TabWrite := []
  net : List Packet := []
  /-- accesses that have been issued and not yet performed -/
  unperf : List Nat := []
  copies : NMap Copy := []
  /-- writes of copies, deliveries and reduces that have been issued and not yet performed -/
  late : List Late := []
  agenda : List Event := []
  tape : List Move := []
  nextId : Nat := 1
  /-- free values drawn so far: the model's own field -/
  free : Nat := 0
  deriving DecidableEq, Repr, Inhabited

/-- The machine right after a module reset whose image verified (R430). -/
def State.reset : State := {}

end Sys2Proof.Machine
end

