-- ==== Sys2Proof/Machine/Access.lean ====
section
/-! DEFINITION. Keys, positions and the accessors of State: every read and write of a register or unit goes through
here. -/

namespace Sys2Proof.Machine

/-! ## Keys and positions -/

/-- Frame keys from 2^20 on belong to Geyser threads. -/
def isGeyserFrame (fk : Nat) : Bool := decide (2 ^ 20 ≤ fk)

/-- The core of a frame key, or the channel of a Geyser thread's. -/
def frameCore (fk : Nat) : Nat := if isGeyserFrame fk then (fk - 2 ^ 20) / 4 else fk / 64

/-- The frame number, or the Geyser thread's number. -/
def frameNum (fk : Nat) : Nat := if isGeyserFrame fk then fk % 4 else fk % 64

/-- Slot keys from 2^17 on belong to Geyser threads. -/
def isGeyserSlot (sk : Nat) : Bool := decide (2 ^ 17 ≤ sk)

/-- The core of a slot key, or the channel of a Geyser thread's. -/
def slotCore (sk : Nat) : Nat := if isGeyserSlot sk then (sk - 2 ^ 17) / 4 else sk / 8

/-- The slot's number, or the Geyser thread's. -/
def slotNum (sk : Nat) : Nat := if isGeyserSlot sk then sk % 4 else sk % 8

/-- The cycle modulo 8 in which a slot issues (R72, R154). -/
def slotPhase (sk : Nat) : Nat := if isGeyserSlot sk then 2 * (sk % 4) else sk % 8

/-- The frame key of a Geyser thread. -/
def geyserFrame (ch t : Nat) : Nat := 2 ^ 20 + ch * 4 + t

/-- The slot key of a Geyser thread. -/
def geyserSlot (ch t : Nat) : Nat := 2 ^ 17 + ch * 4 + t

/-- The endpoint of a frame's core: the core index, or 2^20 + channel. -/
def frameEnd (fk : Nat) : Nat := if isGeyserFrame fk then 2 ^ 20 + (fk - 2 ^ 20) / 4 else fk / 64

/-- The endpoint of a cluster's Lamplighter. -/
def lampEnd (q : Nat) : Nat := 2 ^ 21 + q

/-- The hub's endpoint. -/
def hubEnd : Nat := 2 ^ 22

/-- The endpoint of another module. -/
def moduleEnd (m : Nat) : Nat := 2 ^ 23 + m

/-- Die, column and row of an endpoint (R14, R151, R457). -/
def endPos (e : Nat) : Nat × Nat × Nat :=
  if e < 2 ^ 20 then (e / 2048, e / 16 % 16, e / 256 % 8)
  else if e < 2 ^ 21 then
    let c := e - 2 ^ 20
    (c / 128, c / 4 % 16, if c / 64 % 2 = 0 then 0 else 7)
  else if e < 2 ^ 22 then
    let q := e - 2 ^ 21
    (q / 128, q % 16, q / 16 % 8)
  else (0, 8, 7)

/-- Hops from a position to its die's hub port (R151). -/
def hubHops (p : Nat × Nat × Nat) : Nat :=
  let py := if p.1 < 4 then 7 else 0
  (if p.2.1 ≤ 8 then 8 - p.2.1 else p.2.1 - 8) + (if p.2.2 ≤ py then py - p.2.2 else p.2.2 - py)

/-- The difference of two numbers. -/
def absDiff (a b : Nat) : Nat := if a ≤ b then b - a else a - b

/-- Mesh hops between two endpoints of the module. -/
def hops (a b : Nat) : Nat :=
  let p := endPos a
  let q := endPos b
  if p.1 = q.1 then absDiff p.2.1 q.2.1 + absDiff p.2.2 q.2.2 else hubHops p + hubHops q

/-- c.pcid [55:32] of an endpoint's position: module, die, cluster and core (R15); a Geyser as a SEND address names
it. -/
def State.position (s : State) (e : Nat) : Nat :=
  s.module.toNat * 2 ^ 14 +
    (if e < 2 ^ 20 then e / 2048 * 2 ^ 11 + e / 16 % 128 * 16 + e % 16
     else if e < 2 ^ 21 then (e - 2 ^ 20) / 128 * 2 ^ 11 + (e - 2 ^ 20) % 128 * 16
     else if e < 2 ^ 22 then (e - 2 ^ 21) / 128 * 2 ^ 11 + (e - 2 ^ 21) % 128 * 16
     else 0)

/-- c.pcid of a core (R15). -/
def State.pcid (s : State) (k : Nat) : Word := natWord (0xF3 * 2 ^ 56 + s.position k * 2 ^ 32)

/-- The route-table entry of a module (R420): no route by default. -/
def State.route (s : State) (m : Nat) : BitVec 32 := s.hub.routes.getD m 0x3FF

/-- The module is reachable: this one, or one with a route (R26, R420). -/
def State.hasRoute (s : State) (m : Nat) : Bool :=
  m == s.module.toNat || (decide (m < 256) && (s.route m).toNat % 32 != 31)

/-- The link that a packet to another module takes on a virtual channel (R420). -/
def State.linkTo (s : State) (m vc : Nat) : Nat :=
  let r := (s.route m).toNat
  if vc = 5 then r / 32 % 32 else r % 32

/-- An engine's traffic reaches a module: this one, or one whose route has a link that is up (R419). -/
def State.reaches (s : State) (m : Nat) : Bool :=
  m == s.module.toNat || (s.hasRoute m && (s.hub.links.getD (s.linkTo m 0) {}).up)

/-- The one-way time of R151 between two endpoints. -/
def State.delay (s : State) (a b : Nat) : Nat :=
  if 2 ^ 23 ≤ b then
    6 + 2 * hubHops (endPos a) + 64 + natBits (s.route (b - 2 ^ 23)).toNat 10 16
  else if 2 ^ 23 ≤ a then 6 + 2 * hubHops (endPos b)
  else
    let p := endPos a
    let q := endPos b
    if p.1 = q.1 then 6 + 2 * (absDiff p.2.1 q.2.1 + absDiff p.2.2 q.2.2)
    else 6 + 2 * (hubHops p + hubHops q) + 32

/-! ## Units -/

/-- A frame as reset leaves it: thread 0 of a Geyser is at level M (R7), every other one at U. -/
def Frame.initial (fk : Nat) : Frame := if isGeyserFrame fk && fk % 4 == 0 then { status := 2 } else {}

def State.frame (s : State) (fk : Nat) : Frame := s.frames.getD fk (Frame.initial fk)
def State.setFrame (s : State) (fk : Nat) (f : Frame) : State := { s with frames := s.frames.put fk f }
def State.updFrame (s : State) (fk : Nat) (h : Frame → Frame) : State := s.setFrame fk (h (s.frame fk))

def State.slot (s : State) (sk : Nat) : Slot := s.slots.getD sk {}
def State.setSlot (s : State) (sk : Nat) (r : Slot) : State := { s with slots := s.slots.put sk r }
def State.updSlot (s : State) (sk : Nat) (h : Slot → Slot) : State := s.setSlot sk (h (s.slot sk))

def State.core (s : State) (k : Nat) : Core := s.cores.getD k {}
def State.setCore (s : State) (k : Nat) (c : Core) : State := { s with cores := s.cores.put k c }
def State.updCore (s : State) (k : Nat) (h : Core → Core) : State := s.setCore k (h (s.core k))

def State.cluster (s : State) (q : Nat) : Cluster := s.clusters.getD q {}
def State.updCluster (s : State) (q : Nat) (h : Cluster → Cluster) : State :=
  { s with clusters := s.clusters.put q (h (s.cluster q)) }

def State.geyser (s : State) (ch : Nat) : Geyser := s.geysers.getD ch {}
def State.updGeyser (s : State) (ch : Nat) (h : Geyser → Geyser) : State :=
  { s with geysers := s.geysers.put ch (h (s.geyser ch)) }

def State.part (s : State) (t : Nat) : Part := s.parts.getD t {}
def State.updPart (s : State) (t : Nat) (h : Part → Part) : State := { s with parts := s.parts.put t (h (s.part t)) }

def State.vf (s : State) (n : Nat) : Vf := s.vfs.getD n {}
def State.updVf (s : State) (n : Nat) (h : Vf → Vf) : State := { s with vfs := s.vfs.put n (h (s.vf n)) }

def State.fifo (s : State) (n : Nat) : Fifo := s.fifos.getD n {}
def State.updFifo (s : State) (n : Nat) (h : Fifo → Fifo) : State := { s with fifos := s.fifos.put n (h (s.fifo n)) }

def State.future (s : State) (n : Nat) : Future := s.futures.getD n {}
def State.updFuture (s : State) (n : Nat) (h : Future → Future) : State :=
  { s with futures := s.futures.put n (h (s.future n)) }

def State.router (s : State) (n : Nat) : Router := s.routers.getD n {}
def State.updRouter (s : State) (n : Nat) (h : Router → Router) : State :=
  { s with routers := s.routers.put n (h (s.router n)) }

def State.updHub (s : State) (h : Hub → Hub) : State := { s with hub := h s.hub }

/-- The thread control words of a Geyser thread. -/
def Geyser.thread (g : Geyser) (t : Nat) : GThread := g.threads.getD t {}
def Geyser.updThread (g : Geyser) (t : Nat) (h : GThread → GThread) : Geyser :=
  { g with threads := g.threads.put t (h (g.thread t)) }

/-- Partition tag, epoch and DET of the core or Geyser that holds a frame (R395). -/
def State.frameTag (s : State) (fk : Nat) : BitVec 10 :=
  if isGeyserFrame fk then (s.geyser (frameCore fk)).tag else (s.core (frameCore fk)).tag
def State.frameEpoch (s : State) (fk : Nat) : BitVec 6 :=
  if isGeyserFrame fk then (s.geyser (frameCore fk)).epoch else (s.core (frameCore fk)).epoch
def State.frameDet (s : State) (fk : Nat) : Bool :=
  if isGeyserFrame fk then (s.geyser (frameCore fk)).det else (s.core (frameCore fk)).det

/-- A fresh identifier. -/
def State.fresh (s : State) : Nat × State := (s.nextId, { s with nextId := s.nextId + 1 })

/-- A free value (log entry 2). -/
def State.draw (s : State) : Word × State := (Config.freeWord s.free, { s with free := s.free + 1 })

/-- Adds a pending activity whose earliest cycle is n cycles from now. -/
def State.later (s : State) (n : Nat) (i : Instr) : State := { s with agenda := s.agenda ++ [⟨s.cycle + n, i⟩] }

/-- Guest time of a frame's partition (R410, R243). -/
def State.guestTime (s : State) (fk : Nat) : Word := natWord s.time + (s.part (s.frameTag fk).toNat).toff

/-! ## Registers -/

/-- g registers: g0 reads as zero (R224). -/
def Frame.rg (f : Frame) (n : Nat) : Word := if n = 0 then 0 else f.g.getD n 0
def Frame.wg (f : Frame) (n : Nat) (x : Word) : Frame := if n = 0 then f else { f with g := f.g.put n x }

/-- v registers. -/
def Frame.rv (f : Frame) (n : Nat) : VWord := f.v.getD n 0
def Frame.wv (f : Frame) (n : Nat) (x : VWord) : Frame := { f with v := f.v.put n x }

/-- p registers: p0 reads as all ones (R224). -/
def Frame.rp (f : Frame) (n : Nat) : PWord := if n = 0 then 0xFFFF else f.p.getD n 0
def Frame.wp (f : Frame) (n : Nat) (x : PWord) : Frame := if n = 0 then f else { f with p := f.p.put n x }

/-- Sets the ready cycle of a register; g0 and p0 have none (R161). -/
def Frame.setReady (f : Frame) (key cyc : Nat) : Frame :=
  if key = 0 ∨ key = 128 then f else { f with ready := f.ready.put key cyc }

/-- Marks a register pending; g0 and p0 never are (R161). -/
def Frame.setPend (f : Frame) (key : Nat) : Frame :=
  if key = 0 ∨ key = 128 then f else { f with pend := key :: f.pend }

/-- The frame with one bit of c.estat set. -/
def Frame.setSticky (f : Frame) (bit : Nat) : Frame := { f with estat := f.estat ||| (1 : BitVec 32) <<< bit }

/-! ## The thread in issue -/

/-- Operands as they stood before the bundle (R157). -/
def State.pg (s : State) (r : BitVec 6) : Word := s.cur.pre.rg r.toNat
def State.pv (s : State) (r : BitVec 5) : VWord := s.cur.pre.rv r.toNat
def State.pp (s : State) (r : BitVec 4) : PWord := s.cur.pre.rp r.toNat

/-- The frame of the thread in issue. -/
def State.cf (s : State) : Frame := s.frame s.cur.fk

/-- Updates the frame of the thread in issue. -/
def State.upd (s : State) (h : Frame → Frame) : State := s.updFrame s.cur.fk h

/-- Writes a g register of the thread, readable `lat` turns after this cycle (R159). -/
def State.setG (s : State) (r : BitVec 6) (x : Word) (lat : Nat := 1) : State :=
  s.upd (fun f => (f.wg r.toNat x).setReady r.toNat (s.cycle + 8 * lat))

def State.setV (s : State) (r : BitVec 5) (x : VWord) (lat : Nat := 1) : State :=
  s.upd (fun f => (f.wv r.toNat x).setReady (64 + r.toNat) (s.cycle + 8 * lat))

def State.setP (s : State) (r : BitVec 4) (x : PWord) (lat : Nat := 1) : State :=
  s.upd (fun f => (f.wp r.toNat x).setReady (128 + r.toNat) (s.cycle + 8 * lat))

/-- A scalar predicate write: all 16 bits are the result bit (R224). -/
def boolP (b : Bool) : PWord := if b then 0xFFFF else 0

/-- The thread in issue runs on a Geyser. -/
def State.onGeyser (s : State) : Bool := isGeyserFrame s.cur.fk

/-- Core index of the thread in issue (its channel on a Geyser). -/
def State.curCore (s : State) : Nat := frameCore s.cur.fk

/-- Privilege of the thread in issue: 0 U, 1 S, 2 M (R237). -/
def Frame.priv (f : Frame) : Nat := f.status.toNat % 4

/-- c.status bits (R237). -/
def Frame.intrap (f : Frame) : Bool := f.status.getLsbD 6
def Frame.ie (f : Frame) : Bool := f.status.getLsbD 4
def Frame.mie (f : Frame) : Bool := f.status.getLsbD 7

/-- The slot that points at a frame. -/
def State.slotOf (s : State) (fk : Nat) : Option Nat :=
  (s.slots.find? (fun x => x.2.frame == some fk)).map (·.1)

/-- Logical cores of this module that a partition's table names, as core indices in logical order (R397). -/
def State.partCores (s : State) (t : Nat) : List Nat :=
  ((s.part t).logical.filter (fun e => natBits e.toNat 14 10 == s.module.toNat)).map (fun e => e.toNat % 2 ^ 14)

/-- The cores of this module that a partition's table names, each with its logical number (R397). -/
def State.partLogical (s : State) (t : Nat) : List (Nat × Nat) :=
  (((rangeFrom 0 (s.part t).logical.length).zip (s.part t).logical).filter (fun x =>
    natBits x.2.toNat 14 10 == s.module.toNat)).map (fun x => (x.1, x.2.toNat % 2 ^ 14))

/-- The core of this module with a logical number; none where another module holds it. -/
def State.logicalCore (s : State) (t n : Nat) : Option Nat := ((s.partLogical t).find? (fun x => x.1 == n)).map (·.2)

/-- Clusters that hold a core of the partition, in order of their lowest logical core (R359). -/
def State.partClusters (s : State) (t : Nat) : List Nat := ((s.partCores t).map (· / 16)).eraseDups

/-- Channels that list the partition as an owner, ascending. -/
def State.partChannels (s : State) (t : Nat) : List Nat :=
  (s.hub.owners.filter (fun x => x.2.any (fun o => o.tag.toNat == t))).map (·.1)

/-! ## Membership of cores (R397 to R399) -/

/-- The position of a table entry in this module. -/
def tableCore (e : BitVec 32) : Nat := e.toNat % 2 ^ 14

/-- The module of a table entry. -/
def tableModule (e : BitVec 32) : Nat := natBits e.toNat 14 10

/-- A partition takes a logical-to-physical table: its cores of this module take tag, epoch and logical number. -/
def State.setTable (s : State) (tag : Nat) (es : List (BitVec 32)) : State :=
  let e := (s.part tag).epoch
  let mine (x : BitVec 32 × Nat) : Bool := tableModule x.1 == s.module.toNat
  let s1 := s.updPart tag (fun p => { p with logical := es })
  ((es.zip (rangeFrom 0 es.length)).filter mine).foldl (fun s x =>
    s.updCore (tableCore x.1) (fun c => { c with tag := BitVec.ofNat 10 tag, epoch := e, lcid := x.2 })) s1

/-- Failed cores leave the table; their epoch becomes 0 (R393, R399). -/
def State.removeFailed (s : State) (tag : Nat) : State :=
  let bad := (s.partCores tag).filter (fun k => (s.core k).failed)
  if bad.isEmpty then s
  else
    let keep (e : BitVec 32) : Bool := !(tableModule e == s.module.toNat && bad.contains (tableCore e))
    let s1 := s.setTable tag ((s.part tag).logical.filter keep)
    bad.foldl (fun s k => s.updCore k (fun c => { c with epoch := 0 })) s1

end Sys2Proof.Machine
end

