-- ==== Sys2Proof/Machine/Flags.lean ====
section
/-! DEFINITION. Conditions, carries and the sticky bits of c.estat (R24, R133, R180, R226 to R228, R311). -/

namespace Sys2Proof.Machine

/-! ## Positions of the sticky bits -/

def bitOor : Nat := 0
def bitMisal : Nat := 1
def bitXpart : Nat := 2
def bitScopedem : Nat := 3
def bitDetmiss : Nat := 4
def bitIv : Nat := 5
def bitDz : Nat := 6
def bitOf : Nat := 7
def bitUf : Nat := 8
def bitNx : Nat := 9
def bitSatc : Nat := 10
def bitIdz : Nat := 11
def bitRwrap : Nat := 12
def bitSatmp : Nat := 13
def bitAov : Nat := 14

/-- Sets a sticky bit of the thread in issue. -/
def State.sticky (s : State) (b : Nat) : State := s.upd (fun f => f.setSticky b)

/-- Sets a sticky bit of the thread in issue when a condition holds. -/
def State.stickyIf (s : State) (c : Bool) (b : Nat) : State := if c then s.sticky b else s

/-! ## Conditions (R228) -/

/-- A condition on two words of one width. -/
def condHolds {w : Nat} (c : Cond) (a b : BitVec w) : Bool :=
  match c with
  | .eq => a == b
  | .ne => a != b
  | .lt => a.slt b
  | .ge => !a.slt b
  | .ltu => a.ult b
  | .geu => !a.ult b
  | .le => !b.slt a
  | .gt => b.slt a
  | .leu => !b.ult a
  | .gtu => b.ult a
  | .tst => (a &&& b) != 0
  | .ntst => (a &&& b) == 0

/-! ## Integer results with flags -/

/-- Carry in: field 0 gives 0, not p0 (R227). -/
def State.carryIn (s : State) (pc : BitVec 4) : Bool := if pc = 0 then false else (s.pp pc).getLsbD 0

/-- ADC: the 65-bit sum (R227). -/
def addCarry (a b : Word) (cin : Bool) : Word × Bool :=
  let t := a.toNat + b.toNat + cin.toNat
  (natWord t, decide (2 ^ 64 ≤ t))

/-- SBC: the 65-bit difference; the flag is the borrow (R227). -/
def subBorrow (a b : Word) (cin : Bool) : Word × Bool :=
  (a - b - boolWord cin, decide (a.toNat < b.toNat + cin.toNat))

/-- DIV: truncates toward zero; divisor 0 gives all ones; −2^63 / −1 gives −2^63 (R226). -/
def divS (a b : Word) : Word := if b = 0 then -1 else BitVec.ofInt 64 (a.toInt.tdiv b.toInt)

/-- REM: the sign of the dividend; divisor 0 gives the dividend (R226). -/
def remS (a b : Word) : Word := if b = 0 then a else BitVec.ofInt 64 (a.toInt.tmod b.toInt)

/-- DIVU (R226). -/
def divU (a b : Word) : Word := if b = 0 then -1 else a / b

/-- REMU (R226). -/
def remU (a b : Word) : Word := if b = 0 then a else a % b

/-- MULH: the high half of the signed product (R225). -/
def mulHS {w : Nat} (a b : BitVec w) : BitVec w := BitVec.ofInt w (a.toInt * b.toInt / 2 ^ w)

/-- MULHU: the high half of the unsigned product (R225). -/
def mulHU {w : Nat} (a b : BitVec w) : BitVec w := BitVec.ofNat w (a.toNat * b.toNat / 2 ^ w)

/-- Signed and unsigned minimum and maximum. -/
def minS {w : Nat} (a b : BitVec w) : BitVec w := if b.slt a then b else a
def maxS {w : Nat} (a b : BitVec w) : BitVec w := if a.slt b then b else a
def minU {w : Nat} (a b : BitVec w) : BitVec w := if b.ult a then b else a
def maxU {w : Nat} (a b : BitVec w) : BitVec w := if a.ult b then b else a

/-- Count of leading zeros. -/
def clz64 (a : Word) : Nat := if a = 0 then 64 else 63 - a.toNat.log2

/-- Count of trailing zeros among the low n bits. -/
def ctzN (a : Word) : Nat → Nat
  | 0 => 0
  | n + 1 => if a.getLsbD 0 then 0 else 1 + ctzN (a >>> 1) n

/-- Number of one bits among the low n bits. -/
def popN (a : Word) : Nat → Nat
  | 0 => 0
  | n + 1 => (a.getLsbD n).toNat + popN a n

/-- A mask of n low bits, n at most 64. -/
def maskW (n : Nat) : Word := natWord (2 ^ n - 1)

/-- Sign extension from n bits, n at least 1. -/
def sextFrom (x : Word) (n : Nat) : Word := if x.getLsbD (n - 1) then x ||| ~~~ maskW n else x &&& maskW n

/-- BFX (R232): bits beyond 63 read as zero. -/
def bfx (a : Word) (pos len : Nat) (sgn : Bool) : Word :=
  let n := min len (64 - pos)
  let f := (a >>> pos) &&& maskW n
  if sgn then sextFrom f n else f

/-- BFI (R232): bits beyond 63 are not written. -/
def bfi (old a : Word) (pos len : Nat) : Word :=
  let m := maskW len <<< pos
  (old &&& ~~~ m) ||| ((a <<< pos) &&& m)

end Sys2Proof.Machine
end

