-- ==== Sys2Proof/Machine/Memory.lean ====
section
/-! DEFINITION. Windows, pools and the word accesses at a bank (R13 to R56). -/

namespace Sys2Proof.Machine

/-! ## The partition word (R36 to R39) -/

def pwF (w : BitVec 32) : Nat := natBits w.toNat 0 6
def pwA (w : BitVec 32) : Nat := natBits w.toNat 6 7
def pwI (w : BitVec 32) : Nat := natBits w.toNat 13 5

/-- S (R37). -/
def pwS (w : BitVec 32) : Nat := 131072 - 1152 * pwF w - 1024 * pwA w - 1024 * pwI w - 4096

/-- Validity of a partition word (R37). -/
def pwOk (w : BitVec 32) : Bool :=
  decide (8 ≤ pwF w) && decide (pwF w ≤ 63) && decide (1 ≤ pwI w) && natBits w.toNat 18 14 == 0 &&
    decide (8192 + 1152 * pwF w + 1024 * pwA w + 1024 * pwI w + 4096 ≤ 131072)

/-- M, the smallest power of two at least S (R21, R38). -/
def modulus (sz : Nat) : Nat :=
  if sz ≤ 8192 then 8192 else if sz ≤ 16384 then 16384 else if sz ≤ 32768 then 32768
  else if sz ≤ 65536 then 65536 else 131072

/-- S of a core. -/
def State.poolS (s : State) (k : Nat) : Nat := pwS (s.core k).pword

/-- A local offset reduced by a core's modulus (R21). -/
def State.reduce (s : State) (k off : Nat) : Nat := off % modulus (s.poolS k)

/-- The reduced offset lies in the gap (R21). -/
def State.inGap (s : State) (k off : Nat) : Bool := decide (s.poolS k ≤ s.reduce k off)

/-- Pool offset of the accumulator area (R39). -/
def State.accBase (s : State) (k : Nat) : Nat := s.poolS k + 1024 * pwI (s.core k).pword

/-- The key of a pool byte. -/
def poolKey (k off : Nat) : Nat := k * 2 ^ 17 + off

/-- The key of a pool word. -/
def wordKey (k off : Nat) : Nat := k * 2 ^ 14 + off / 8

/-! ## Operand decode (R16, R29 to R31) -/

/-- A decoded scratchpad operand: view 0 own, 1 blocked, 2 interleaved; module; cluster index; aligned offset. -/
structure Dec where
  view : Nat
  module : Nat
  q : Nat
  off : Nat
  misal : Bool
  deriving DecidableEq, Repr, Inhabited

/-- Aligns an offset down (R23). -/
def alignDec (view m q off n : Nat) : Dec := ⟨view, m, q, off - off % n, off % n != 0⟩

/-- Window and offset of a pointer or mode on a compute core (R29): cause and c.eval of the trap, or the operand. -/
def coreDecode (s : State) (k : Nat) (am : AMode) (sum : Word) (n : Nat) : Except TrapRec Dec :=
  let x := sum.toNat
  let q := k / 16
  let m := s.module.toNat
  match am with
  | .own => .ok (alignDec 0 m q (x % 2 ^ 17) n)
  | .blk => .ok (alignDec 1 m q (x % 2 ^ 21) n)
  | .ilv => .ok (alignDec 2 m q (x % 2 ^ 21) n)
  | .gen =>
    let tag := natBits x 56 8
    if tag = 0 ∨ tag = 1 then .error { cause := 0x03, eval := sum }
    else if tag = 0xF0 then .ok (alignDec 0 m q (x % 2 ^ 17) n)
    else if tag = 0xF1 then .ok (alignDec 1 m q (x % 2 ^ 21) n)
    else if tag = 0xF2 then .ok (alignDec 2 m q (x % 2 ^ 21) n)
    else if tag = 0xF3 then
      if natBits x 17 14 ≠ 0 then .error { cause := 0x04, eval := sum }
      else .ok (alignDec (if natBits x 31 1 = 1 then 2 else 1) (natBits x 46 10) (natBits x 36 10)
        (natBits x 32 4 * 2 ^ 17 + x % 2 ^ 17) n)
    else .error { cause := 0x04, eval := sum }

/-- Window and offset on a Geyser core (R30, R31). -/
def geyserDecode (s : State) (am : AMode) (sum : Word) (n : Nat) : Except TrapRec Dec :=
  let x := sum.toNat
  let own : Except TrapRec Dec := .ok (alignDec 0 s.module.toNat 0 (x % 2 ^ 16) n)
  match am with
  | .own => own
  | .gen => if natBits x 56 8 = 0xF0 then own else .error { cause := 0x04, eval := sum }
  | _ => .error { cause := 0x04, eval := sum }

/-- The operand of the thread in issue. -/
def State.decodeOperand (s : State) (am : AMode) (sum : Word) (n : Nat) : Except TrapRec Dec :=
  if s.onGeyser then geyserDecode s am sum n else coreDecode s s.curCore am sum n

/-- Core within the cluster and local offset of the word at 8 * w of an operand that is not the own pool (R18 to
R20). -/
def Dec.route (d : Dec) (w : Nat) : Nat × Nat :=
  let o := (d.off + 8 * w) % 2 ^ 21
  if d.view = 1 then (o / 2 ^ 17, o % 2 ^ 17) else (natBits o 3 4, o / 128 * 8 + o % 8)

/-! ## Bytes of the pools -/

/-- n bytes of a core's pool at a reduced offset. -/
def State.poolRead (s : State) (k off n : Nat) : Word := natWord (s.pool.readLE (poolKey k off) n)

def State.poolWrite (s : State) (k off n : Nat) (x : Word) : State :=
  { s with pool := s.pool.writeLE (poolKey k off) n x.toNat }

/-- The full/empty bit of a word (R49). -/
def State.isFull (s : State) (k off : Nat) : Bool := (s.full.get? (wordKey k off)).isSome

def State.setFull (s : State) (k off : Nat) (b : Bool) : State :=
  { s with full := if b then s.full.put (wordKey k off) () else s.full.del (wordKey k off) }

/-- The combining table of AMO on n-byte values (R253). -/
def amoCombine (op : AmoOp) (n : Nat) (old b : Word) : Word :=
  if n = 4 then
    let x : BitVec 32 := old.setWidth 32
    let y : BitVec 32 := b.setWidth 32
    (match op with
     | .swap => y | .add => x + y | .and => x &&& y | .or => x ||| y | .xor => x ^^^ y
     | .min => minS x y | .max => maxS x y | .minu => minU x y | .maxu => maxU x y).setWidth 64
  else
    match op with
    | .swap => b | .add => old + b | .and => old &&& b | .or => old ||| b | .xor => old ^^^ b
    | .min => minS old b | .max => maxS old b | .minu => minU old b | .maxu => maxU old b

/-- The low n bytes of a word. -/
def lowBytes (n : Nat) (x : Word) : Word := natWord (x.toNat % 2 ^ (8 * n))

/-- What one access does at its word when it need not wait (R50, R253, R254): the new bytes if any, the value returned
and the new state of the word if it changes. -/
def accEffect (a : WordAcc) (old : Word) : Option Word × Word × Option Bool :=
  match a.op with
  | .load => (none, old, none)
  | .store => (some a.data, 0, none)
  | .lds => (none, old, some false)
  | .ldsp => (none, old, none)
  | .sts => (some a.data, 0, some true)
  | .fesetFull => (none, 0, some true)
  | .fesetEmpty => (none, 0, some false)
  | .amo op => (some (amoCombine op a.size old (lowBytes a.size a.data)), old, none)
  | .cas => (if lowBytes a.size a.expect = old then some a.data else none, old, none)

/-- The access waits in this state of its word (R50). -/
def accWaits (op : AccOp) (isFull : Bool) : Bool :=
  match op with
  | .lds | .ldsp => !isFull
  | .sts => isFull
  | _ => false

/-- Performs an access at a core's bank, its offset reduced and not in the gap, without serving waiters: the value
returned. -/
def State.bankAccess (s : State) (k : Nat) (a : WordAcc) : State × Word :=
  let off := s.reduce k a.off
  let e := accEffect a (s.poolRead k off a.size)
  let s1 := match e.1 with | some x => s.poolWrite k off a.size x | none => s
  let s2 := match e.2.2 with | some b => s1.setFull k off b | none => s1
  (s2, e.2.1)

/-- Performs an access at a Geyser pool's bank. -/
def State.geyserBank (s : State) (ch : Nat) (a : WordAcc) : State × Word :=
  let key := ch * 2 ^ 16 + a.off
  let e := accEffect a (natWord (s.gpool.readLE key a.size))
  (match e.1 with | some x => { s with gpool := s.gpool.writeLE key a.size x.toNat } | none => s, e.2.1)

/-! ## Scratchpad bytes for engines (R21, R26, R27) -/

/-- The core of this module and the local offset of a byte of a window: own core k0, the window of a pointer tag, and
an offset in it; none for another module. -/
def scratchByte (s : State) (k0 : Nat) (ptr : Word) (off : Nat) : Option (Nat × Nat) :=
  let x := ptr.toNat
  let tag := natBits x 56 8
  if tag = 0xF0 then some (k0, off % 2 ^ 17)
  else
    let o := off % 2 ^ 21
    let q := if tag = 0xF3 then natBits x 36 10 else k0 / 16
    let ilv := tag == 0xF2 || (tag == 0xF3 && natBits x 31 1 == 1)
    if tag = 0xF3 ∧ natBits x 46 10 ≠ s.module.toNat then none
    else if ilv then some (q * 16 + natBits o 3 4, o / 128 * 8 + o % 8)
    else some (q * 16 + o / 2 ^ 17, o % 2 ^ 17)

/-- The window offset of a scratchpad pointer (R108). -/
def scratchOff (ptr : Word) : Nat :=
  let x := ptr.toNat
  let tag := natBits x 56 8
  if tag = 0xF0 then x % 2 ^ 17 else if tag = 0xF3 then natBits x 32 4 * 2 ^ 17 + x % 2 ^ 17 else x % 2 ^ 21

/-- The core belongs to a partition in its current epoch (R396) and has not left the partition's table (R26, R398). -/
def State.coreOf (s : State) (k : Nat) (tag : BitVec 10) (epoch : BitVec 6) : Bool :=
  (s.core k).tag == tag && (s.core k).epoch == epoch && epoch != 0 && !(s.part tag.toNat).left.contains k

/-- Reads n bytes of a window for an engine: bytes, a byte fell in a gap, a byte was refused. A byte of another module that
has a route over a link that is up is a free value, and one written there leaves the module. -/
def engineRead (s : State) (k0 : Nat) (tag : BitVec 10) (epoch : BitVec 6) (ptr : Word) (off : Nat) :
    Nat → List Byte × Bool × Bool
  | 0 => ([], false, false)
  | n + 1 =>
    let r := engineRead s k0 tag epoch ptr (off + 1) n
    match scratchByte s k0 ptr off with
    | none =>
      if s.reaches (natBits ptr.toNat 46 10) then (Config.remoteByte (ptr.toNat + off) s.cycle :: r.1, r.2.1, r.2.2)
      else (0 :: r.1, r.2.1, true)
    | some (k, l) =>
      if s.coreOf k tag epoch then
        if s.inGap k l then (0 :: r.1, true, r.2.2)
        else (s.pool.read (poolKey k (s.reduce k l)) :: r.1, r.2.1, r.2.2)
      else (0 :: r.1, r.2.1, true)

/-- Writes bytes to a window for an engine: the state, a byte fell in a gap, a byte was refused. -/
def engineWrite (s : State) (k0 : Nat) (tag : BitVec 10) (epoch : BitVec 6) (ptr : Word) (off : Nat) :
    List Byte → State × Bool × Bool
  | [] => (s, false, false)
  | b :: bs =>
    match scratchByte s k0 ptr off with
    | none =>
      let r := engineWrite s k0 tag epoch ptr (off + 1) bs
      (r.1, r.2.1, r.2.2 || !s.reaches (natBits ptr.toNat 46 10))
    | some (k, l) =>
      if s.coreOf k tag epoch then
        if s.inGap k l then let r := engineWrite s k0 tag epoch ptr (off + 1) bs; (r.1, true, r.2.2)
        else engineWrite { s with pool := s.pool.write (poolKey k (s.reduce k l)) b } k0 tag epoch ptr (off + 1) bs
      else let r := engineWrite s k0 tag epoch ptr (off + 1) bs; (r.1, r.2.1, true)

/-- A list of bytes as a little-endian number. -/
def bytesNat : List Byte → Nat
  | [] => 0
  | b :: bs => b.toNat + 256 * bytesNat bs

/-- The n little-endian bytes of a number. -/
def natBytes (x : Nat) : Nat → List Byte
  | 0 => []
  | n + 1 => BitVec.ofNat 8 x :: natBytes (x / 256) n

end Sys2Proof.Machine
end

