-- ==== Sys2Proof/Machine/Net.lean ====
section
/-! DEFINITION. Packets, refusals and trap messages, results that return to threads, wait queues of words and FIFOs
(R25, R26, R52 to R55, R62 to R66, R147, R152, R153, R160, R379 to R383). -/

namespace Sys2Proof.Machine

/-! ## Trap messages and refusals -/

/-- The Beacon of an endpoint: die * 8 + row (R381, R457). -/
def beaconOf (e : Nat) : Nat := let p := endPos e; p.1 * 8 + p.2.2

/-- Sends a trap message on VC3: it waits in its Beacon (R381). -/
def State.trapMsg (s : State) (e : Nat) (m : TrapMsg) : State :=
  let r := s.fresh
  let s1 := r.2.updHub (fun h => { h with beacons := h.beacons ++ [{ m with id := r.1, beacon := beaconOf e }] })
  s1.later (s.delay e hubEnd) (.trapMessage r.1)

/-- Counts a refusal for a partition at an agent; the first of a period is reported at once (R26, R383). -/
def State.refuse (s : State) (agent : Nat) (tag : BitVec 10) : State :=
  let key := agent * 1024 + tag.toNat
  let c := s.hub.refusals.getD key (0, false)
  let die := (endPos agent).1
  let msg : TrapMsg := { kind := 2, part := tag, die := die, src := BitVec.ofNat 32 (s.position agent), srcmap := 1 }
  if c.2 then s.updHub (fun h => { h with refusals := h.refusals.put key (c.1 + 1, true) })
  else (s.updHub (fun h => { h with refusals := h.refusals.put key (c.1, true) })).trapMsg agent msg

/-- The agents that refuse words of a range of a window, one for each refused word; a word of a module without a route is
refused where its packet starts (R26, R27). -/
def State.refusingAgents (s : State) (k0 : Nat) (tag : BitVec 10) (epoch : BitVec 6) (ptr : Word) (off n : Nat) :
    List Nat :=
  (rangeFrom (off / 8) ((off + n + 7) / 8 - off / 8)).filterMap (fun w =>
    match scratchByte s k0 ptr (max off (8 * w)) with
    | none => if s.reaches (natBits ptr.toNat 46 10) then none else some k0
    | some (k, _) => if s.coreOf k tag epoch then none else some k)

/-- Counts the refused words of an engine's access to a range of a window (R26, R27). -/
def State.refuseWords (s : State) (k0 : Nat) (tag : BitVec 10) (epoch : BitVec 6) (ptr : Word) (off n : Nat) : State :=
  if n = 0 then s else (s.refusingAgents k0 tag epoch ptr off n).foldl (fun s a => s.refuse a tag) s

/-! ## Energy (R425, R426) -/

/-- The weight of a class on a core or Geyser. -/
def weightOf (ewt : NMap (BitVec 24)) (cls : Nat) : Nat := (ewt.getD cls (Config.energyWeight cls)).toNat

/-- Adds energy to a frame in units of 1/256 pJ; COUNT saturates and SAT stays. -/
def Frame.addEnergy (f : Frame) (x : Nat) : Frame :=
  let t := f.energyFrac.toNat + x
  let c := f.energy.toNat + t / 256
  if c < 2 ^ 48 then { f with energy := BitVec.ofNat 48 c, energyFrac := BitVec.ofNat 8 t }
  else { f with energy := -1, energySat := true, energyFrac := BitVec.ofNat 8 t }

/-- Charges n events of a class to the thread of a frame. -/
def State.charge (s : State) (fk cls n : Nat) : State :=
  let ewt := if isGeyserFrame fk then (s.geyser (frameCore fk)).ewt else (s.core (frameCore fk)).ewt
  s.updFrame fk (fun f => { f.addEnergy (n * weightOf ewt cls) with
    energyFw := f.energyFw + n * (Config.energyWeight cls).toNat })

/-! ## Sending -/

/-- The step that executes a packet at its destination. -/
def packetStep (p : Packet) : Instr :=
  match p.body with
  | .access _ | .joini .. => .portEngineMessage p.id
  | .response .. => .accessResponse p.id
  | .send .. => .sendMessageArrival p.id
  | .copyRecord .. => .copyCompletion p.id
  | .future .. => .futureEvent p.id
  | .futureReply .. | .wake .. => .futureWake p.id
  | .grant .. => .accessResponse p.id
  | .join .. => .joinDecrement p.id
  | .spawn .. | .spawni .. | .spawnr .. | .grow .. => .spawnRecordRead p.id
  | .contribution .. => .reduceContribution p.id

/-- The flow of a packet is listed in the time-division schedule (R150, R153). -/
def State.scheduled (s : State) (src dst : Nat) : Bool := s.hub.schedule.any (fun x => x.2.2 == src * 2 ^ 24 + dst)

/-- The operation whose reply a request asks for: of the SPAWN family, of JOINI, or on a future (R330, R332). -/
def bodyAsks : Body → Option Nat
  | .joini _ _ _ _ out | .spawn _ _ _ out _ | .spawni _ _ _ _ _ out _ | .spawnr _ _ _ _ out _ | .grow _ _ out
  | .future _ _ out => some out
  | _ => none

/-- The refused answer to a packet (R26): to an access, a SEND, or an operation that waits for a value; none to others. -/
def refusedBody (p : Packet) : Option Body :=
  match p.body with
  | .access a => some (.response a.out a.part 0 false true false false false a)
  | .send _ _ out => some (.response out 0 0 false true false false false default)
  | b => (bodyAsks b).map (fun out => .futureReply p.sender out (.value 0 false) true false)

/-- The access that a packet performs, or its own number. A retirement stays until its answer comes. -/
def packetAccess (p : Packet) : Nat :=
  match p.body with | .access a => a.out | .joini _ _ _ _ out => out | _ => p.id

/-- A partition runs in deterministic mode. -/
def State.tagDet (s : State) (tag : BitVec 10) : Bool := (s.partCores tag.toNat).any (fun k => (s.core k).det)

/-- The agent at an endpoint acts in deterministic mode for a partition (R150). -/
def State.endDet (s : State) (e : Nat) (tag : BitVec 10) : Bool :=
  if e < 2 ^ 20 then (s.core e).det else if e < 2 ^ 21 then (s.geyser (e - 2 ^ 20)).det else s.tagDet tag

/-- The packet answers another one: its `sender` is a frame at its destination. -/
def bodyAnswers : Body → Bool
  | .response .. | .futureReply .. | .wake .. => true
  | _ => false

/-- The packet is an access's response. -/
def bodyResponse : Body → Bool
  | .response .. => true
  | _ => false

/-- The 256-byte flits of a packet: 242 bytes of data each (R418). Only a contribution of a reduce is longer than one. -/
def packetFlits (p : Packet) : Nat :=
  match p.body with
  | .contribution _ _ _ data => max 1 ((data.length + 241) / 242)
  | _ => 1

/-- A partition has reached its fabric budget of the period at the hub (R370). -/
def State.fabricHolds (s : State) (t : Nat) : Bool :=
  let budget := natBits (s.part t).budget1.toNat 0 32
  budget != 0 && decide (budget ≤ (s.part t).fabric)

/-- Charges n flits to a partition's fabric budget. -/
def State.chargeFabric (s : State) (t n : Nat) : State := s.updPart t (fun q => { q with fabric := q.fabric + 256 * n })

/-- Flits of a virtual channel that a link may still send (R418). -/
def Link.credit (k : Link) (vc : Nat) : Nat := k.credits.getD vc (Config.linkCredits vc)

/-- A link sends a packet that waits: none of its channel waits before it, its flits have credits, and the replay buffer of 512
flits has room (R418). -/
def Link.sendable (k : Link) (p : Packet) : Bool :=
  !(k.waiting.takeWhile (fun x => x.id != p.id)).any (fun x => x.vc == p.vc) && decide (packetFlits p ≤ k.credit p.vc) &&
    decide ((k.replay.map (fun x => packetFlits x.2)).sum + packetFlits p ≤ 512)

/-- A link sends what it can; n bounds the packets. -/
def Link.pump (k : Link) : Nat → Link
  | 0 => k
  | n + 1 =>
    match k.waiting.find? k.sendable with
    | none => k
    | some p =>
      { k with
        waiting := k.waiting.erase p, replay := k.replay ++ [(k.sent, p)], sent := k.sent + packetFlits p
        credits := k.credits.put p.vc (k.credit p.vc - packetFlits p) }.pump n

/-- A packet joins the queue of a link. -/
def Link.add (k : Link) (p : Packet) : Link := ({ k with waiting := k.waiting ++ [p] }).pump 1

/-- The hub refuses a packet that cannot travel: the event is reported and the sender answered, over its link where it is in
another module (R26, R419). -/
def State.refusePacket (s : State) (p : Packet) : State :=
  let s1 := s.refuse p.src p.tag
  let s2 := { s1 with unperf := s1.unperf.erase (packetAccess p) }
  match refusedBody p with
  | none => s2
  | some b =>
    let r := s2.fresh
    let a : Packet := ⟨r.1, hubEnd, p.src, 1, p.tag, p.epoch, p.sender, [], s.cycle + 8, b⟩
    if 2 ^ 23 ≤ p.src then
      let l := s.linkTo (p.src - 2 ^ 23) 1
      r.2.updHub (fun h => { h with links := h.links.put l ((h.links.getD l {}).add a) })
    else { r.2 with net := r.2.net ++ [a] }.later 8 (packetStep a)

/-- A packet that leaves on a link: it is charged to the partition's fabric budget at the hub, or held there (R370); on a
link that is down it is refused (R419). -/
def State.toLink (s : State) (p : Packet) : State :=
  let t := p.tag.toNat
  let l := s.linkTo (p.dst - 2 ^ 23) p.vc
  let k := s.hub.links.getD l {}
  if !k.up then s.refusePacket p
  else if s.fabricHolds t then s.updPart t (fun q => { q with heldPackets := q.heldPackets ++ [p] })
  else
    let s0 := s.chargeFabric t (packetFlits p)
    let s1 := if bodyAnswers p.body || decide (2 ^ 23 ≤ p.src) then s0 else s0.charge p.sender 10 (packetFlits p)
    let k1 := { k with unanswered := if (refusedBody p).isSome then k.unanswered ++ [p] else k.unanswered }
    s1.updHub (fun h => { h with links := h.links.put l (k1.add p) })

/-- A message between a core and the Lamplighter of its own cluster crosses no link. -/
def inCluster (a b : Nat) : Bool :=
  (decide (2 ^ 21 ≤ a) && decide (a < 2 ^ 22) && decide (b < 2 ^ 20) && b / 16 == a - 2 ^ 21) ||
    (decide (2 ^ 21 ≤ b) && decide (b < 2 ^ 22) && decide (a < 2 ^ 20) && a / 16 == b - 2 ^ 21)

/-- An answer that a core gives itself, or a message inside a cluster, is part of no flow of the schedule. -/
def noFlow (a b : Nat) (body : Body) : Bool :=
  inCluster a b || (a == b && (match body with | .futureReply .. => true | _ => false))

/-- Packets that take another way out of the schedule set DETMISS in the task that issued the operation (R153): a flow from
`src` to `dst` of the task of frame `fk` that the schedule does not list. -/
def State.noteFlow (s : State) (fk src dst : Nat) (tag : BitVec 10) : State :=
  if s.endDet src tag && !s.scheduled src dst then s.updFrame fk (fun f => f.setSticky bitDetmiss) else s

/-- Cycles from a packet's sending to its execution (R151, R152). On VC5 an access is performed in the last of the 8 cycles
of its execution, as a message is executed, and its response returns D later: 2 · D + 8 in all. Elsewhere an access may be
performed from D on, and its response comes at least D + 8 later. -/
def State.travel (s : State) (src dst vc : Nat) (body : Body) : Nat :=
  let access := match body with | .access _ => true | _ => false
  s.delay src dst + (if vc = 5 then (if bodyResponse body then 0 else 8) else if access then 0 else 8)

/-- A packet goes on its way, at the tail of its channel. -/
def State.dispatchPacket (s : State) (p : Packet) : State :=
  if 2 ^ 23 ≤ p.dst then s.toLink p
  else
    let time := s.travel p.src p.dst p.vc p.body
    let q := { p with after := [], notBefore := s.cycle + time }
    { s with net := s.net ++ [q] }.later time (packetStep q)

/-- Sends a packet for a thread, a Lamplighter or a port engine; `sender` is the frame of the task that issued the
operation. In deterministic mode it travels on VC5, unless its flow is not in the schedule: then on its own channel, and
DETMISS is set in the issuing task (R150, R153); a message to or from the Lamplighter of the same cluster is part of no
flow, nor is an answer that a core gives itself. A release is sent only when the accesses in `after` have been performed:
until then it waits in the list without a place in its channel (R144). -/
def State.send (s : State) (src dst vc : Nat) (tag : BitVec 10) (epoch : BitVec 6) (sender : Nat) (after : List Nat)
    (body : Body) : State :=
  let r := s.fresh
  let listed := s.scheduled src dst
  let det := s.endDet src tag
  let p : Packet := ⟨r.1, src, dst, if det && listed then 5 else vc, tag, epoch, sender, after, s.cycle, body⟩
  let here := (if bodyAnswers body then frameEnd sender == dst else frameEnd sender == src) && !noFlow src dst body
  let s1 := if det && !listed && here then r.2.updFrame sender (fun f => f.setSticky bitDetmiss) else r.2
  if after.isEmpty then s1.dispatchPacket p else { s1 with net := s1.net ++ [p] }

/-- The first packet that has waited for its release and may be sent now. -/
def State.firstReleased (s : State) : Option Packet :=
  s.net.find? (fun p => !p.after.isEmpty && p.after.all (fun a => !s.unperf.contains a))

/-- Sends the packets whose releases are complete, in the order of their issue; n bounds them. -/
def State.sendReleased (s : State) : Nat → State
  | 0 => s
  | n + 1 =>
    match s.firstReleased with
    | none => s
    | some p => ({ s with net := s.net.erase p }.dispatchPacket p).sendReleased n

/-- Sends for the thread of a frame. -/
def State.sendFrom (s : State) (fk dst vc : Nat) (after : List Nat) (body : Body) : State :=
  s.send (frameEnd fk) dst vc (s.frameTag fk) (s.frameEpoch fk) fk after body

/-- The packet with an identifier. -/
def State.packet (s : State) (id : Nat) : Option Packet := s.net.find? (fun p => p.id == id)

/-- Takes a packet out of the network. -/
def State.dropPacket (s : State) (id : Nat) : State := { s with net := s.net.filter (fun p => p.id != id) }

/-- An outstanding result of a thread is a relaxed access: one with RX, or an X access of a Geyser thread (R137, R146). -/
def State.isRelaxed (s : State) (fk out : Nat) : Bool :=
  (s.frame fk).outs.any (fun o => o.id == out && (o.kind == .rx || o.kind == .x))

/-- The place of an access at its target: the reduced offset of a core's pool, else the address itself. -/
def State.accPlace (s : State) (dst : Nat) (a : WordAcc) : Nat := if dst < 2 ^ 20 then s.reduce dst a.off else a.off

/-- Two accesses of one thread, one of them relaxed, that touch no common byte: nothing orders them, and the later one may
be sent first (R136, R137). -/
def State.unordered (s : State) (x p : Packet) : Bool :=
  match x.body, p.body with
  | .access a, .access b =>
    let i := s.accPlace p.dst a
    let j := s.accPlace p.dst b
    decide (p.src < 2 ^ 21) && x.sender == p.sender && (s.isRelaxed p.sender a.out || s.isRelaxed p.sender b.out) &&
      (decide (i + a.size ≤ j) || decide (j + b.size ≤ i))
  | _, _ => false

/-- An earlier packet keeps a later one behind it: it has been sent, on the same channel between the same ends, and is
ordered with it (R137, R147). On VC5 an answer waits for no message, since both keep their cycles (R150). -/
def State.before (s : State) (x p : Packet) : Bool :=
  x.after.isEmpty && x.src == p.src && x.dst == p.dst && x.vc == p.vc &&
    !(p.vc == 5 && bodyResponse x.body != bodyResponse p.body) && !s.unordered x p

/-- A packet may be executed now: it has been sent, its time has come, and no earlier packet of its source, destination and
channel that it is ordered with is in flight (R137, R147). -/
def State.canArrive (s : State) (p : Packet) : Bool :=
  decide (p.notBefore ≤ s.cycle) && p.after.isEmpty &&
    (s.net.takeWhile (fun x => x.id != p.id)).all (fun x => !s.before x p)

/-- Tries a pending activity again one turn later. -/
def State.again (s : State) (i : Instr) : State := s.later 8 i

/-- One performance of an access: its identifier leaves the list once. -/
def State.performed (s : State) (id : Nat) : State := { s with unperf := s.unperf.erase id }

/-- The performance of an operation that came from an endpoint: what another module has issued is counted there, when the
answer arrives. -/
def State.performedFor (s : State) (src id : Nat) : State := if src < 2 ^ 23 then s.performed id else s

/-- Identifiers of a thread's accesses that have not been performed (R138, R139). -/
def State.accIds (s : State) (fk : Nat) : List Nat :=
  (((s.frame fk).outs.map (·.id)) ++ ((s.delayed.filter (fun d => d.frame == fk)).map (·.id))).filter s.unperf.contains

/-! ## Results that return to a thread -/

/-- The wait 11 of a thread, for the end of a release, is over when its earlier accesses have been performed. -/
def State.releaseOver (s : State) (fk : Nat) : Bool := (s.frame fk).waits.contains 11 && (s.accIds fk).isEmpty

/-- A thread parked at a marker or in place re-enters the rotation when nothing holds it (R160, R51). -/
def State.resume (s : State) (fk : Nat) : State :=
  match s.slotOf fk with
  | none => s
  | some sk =>
    let f := s.frame fk
    match (s.slot sk).state with
    | .marker =>
      if f.outs.isEmpty then
        (s.updFrame fk (fun f => { f with pend := [], due := f.due ++ f.dueMark, dueMark := [] })).updSlot sk
          (fun r => { r with state := .run })
      else s
    | .inPlace =>
      let s1 := if s.releaseOver fk then s.updFrame fk (fun f => { f with waits := f.waits.erase 11 }) else s
      if (s1.frame fk).waits.isEmpty then s1.updSlot sk (fun r => { r with state := .run }) else s1
    | _ => s

/-- Writes the value of a finished result to its register (R160). -/
def Frame.deliver (f : Frame) (o : Outst) : Frame :=
  match o.dst with
  | none => f
  | some d => if d < 64 then f.wg d o.lo else f.wv (d - 64) (o.hi ++ o.lo)

/-- One word of an outstanding result returns (R25): data of its part, sticky bits; the last one completes it. -/
def State.returnWord (s : State) (fk out part : Nat) (data : Word) (oor xpart : Bool) (pd : Option Bool := none) :
    State :=
  let f := s.frame fk
  match f.outs.find? (fun o => o.id == out) with
  | none => s
  | some o =>
    let o1 := if part = 0 then { o with lo := data, need := o.need - 1 } else { o with hi := data, need := o.need - 1 }
    let f1 := if oor then f.setSticky bitOor else f
    let f2 := if xpart then f1.setSticky bitXpart else f1
    let f3 := match pd with | some b => if o.pd = 0 then f2 else f2.wp o.pd (boolP b) | none => f2
    let f4 :=
      if o1.need = 0 then { f3.deliver o1 with outs := f3.outs.filter (fun x => x.id != out) }
      else { f3 with outs := f3.outs.map (fun x => if x.id == out then o1 else x) }
    (s.setFrame fk f4).resume fk

/-- A wait of the current bundle is met: its value is held (R51). -/
def State.giveWait (s : State) (fk wait : Nat) (v : Word) : State :=
  (s.updFrame fk (fun f => { f with held := f.held.put wait v, waits := f.waits.erase wait })).resume fk

/-- The answer that a thread waits for in place or at its implicit marker arrives; after any but `parked` nothing is
awaited any more. -/
def State.giveReply (s : State) (fk : Nat) (r : Reply) : State :=
  (s.updFrame fk (fun f => { f with
    reply := some r, waits := f.waits.erase 6, asked := if r = .parked then f.asked else 0 })).resume fk

/-! ## The inbox of a pre-empted core (R386, R389) -/

/-- Entries that parked messages take in an inbox: a mailbox record continues in the next entry (R389). -/
def inboxCount (ps : List Packet) : Nat :=
  (ps.map (fun p => match p.body with | .send .. | .copyRecord .. => 2 | _ => 1)).sum

/-- MKIND of a parked message (R389). -/
def msgKind (p : Packet) : Nat :=
  match p.body with
  | .copyRecord .. => 0x01 | .send .. => 0x02 | .future .. => 0x22 | .wake .. => 0x23 | .join .. => 0x24
  | .access a => match a.op with | .lds | .ldsp | .sts | .fesetFull | .fesetEmpty => 0x21 | _ => 0x20
  | .grant .. => 0x21
  | _ => 0x20

/-- The sender is a Lamplighter or the hub. -/
def msgNoSource (p : Packet) : Bool := decide (2 ^ 21 ≤ p.src) && decide (p.src < 2 ^ 23)

/-- The first dword of a parked message: MKIND in [7:0], and SRCPOS, which is 0 for a Lamplighter or the hub. The place of the
slot beside the position in SRCPOS is not given: those bits are a free value (R389). -/
def msgHead (p : Packet) (free : Word) : Word :=
  if msgNoSource p then natWord (msgKind p) else (free &&& ~~~0xFF#64) ||| natWord (msgKind p)

/-- The dwords of a parked message's body where they are given: a mailbox record's first three, and the fourth at the start of
the entry in which it continues (R389). The layout of other operands is not given: a free value each. -/
def msgBody (p : Packet) : List (Option Word) :=
  match p.body with
  | .send _ ds _ | .copyRecord _ ds _ => [ds[0]?, ds[1]?, ds[2]?, ds[3]?, none, none, none]
  | _ => [none, none, none]

/-- The dwords of a parked message's entries, each from the free value of what is open in it. -/
def msgDwords (p : Packet) : List (Word → Word) := msgHead p :: (msgBody p).map (fun d free => d.getD free)

/-- Writes dwords to a core's pool from an offset, each over a free value for what is open in it. -/
def State.putDwords (s : State) (k off : Nat) : List (Word → Word) → State
  | [] => s
  | d :: ds =>
    let r := s.draw
    { r.2 with pool := r.2.pool.setDword (poolKey k off) (d r.1) }.putDwords k (off + 8) ds

/-- A pre-empted core parks an arriving message in its inbox, or behind it in the overflow area (R39, R386): once one message
stands there, every later one does, since both hold them in the order of arrival. -/
def State.parkMessage (s : State) (k : Nat) (p : Packet) : State :=
  let s1 := s.dropPacket p.id
  let c := s.core k
  if c.overflow.isEmpty ∧ inboxCount (c.inbox ++ [p]) ≤ 32 * pwI c.pword then
    (s1.updCore k (fun c => { c with inbox := c.inbox ++ [p] })).putDwords k (s.poolS k + 32 * inboxCount c.inbox) (msgDwords p)
  else s1.updCore k (fun c => { c with overflow := c.overflow ++ [p] })

/-! ## Uncorrectable reads (R56, R429, R376) -/

/-- The key of the metadata word that holds the state bits of a word's group of 64 (R56). -/
def metaKey (k off : Nat) : Nat := 2 ^ 29 + wordKey k off / 64

/-- The access reads the word's data. -/
def accReadsWord (op : AccOp) : Bool :=
  match op with | .load | .lds | .ldsp | .amo _ | .cas => true | .store | .sts | .fesetFull | .fesetEmpty => false

/-- The access reads the word's state bit. -/
def accReadsState (op : AccOp) : Bool := match op with | .lds | .ldsp | .sts => true | _ => false

/-- What a read of storage meets: no error, one that is corrected by its code or by the retry (false), or a lasting one. -/
def State.errorAt (s : State) (key : Nat) : Option Bool := (s.bad.get? key).map (· == .lasting)

/-- The error among storage words by their keys: the first lasting one, else the first transient one. -/
def State.firstError (s : State) (keys : List Nat) : Option (Nat × Bool) :=
  ((keys.find? (fun k => s.errorAt k == some true)).map (fun k => (k, true))).or
    ((keys.find? (fun k => s.errorAt k == some false)).map (fun k => (k, false)))

/-- The keys of what an access reads at a pool word: the word itself unless the access waits there, and its metadata if it
reads the state bit (R56, R376). -/
def accKeys (op : AccOp) (waits : Bool) (k off : Nat) : List Nat :=
  (if accReadsWord op && !waits then [wordKey k off] else []) ++ (if accReadsState op then [metaKey k off] else [])

/-- The error that an access at a pool word meets, with its key. -/
def State.accError (s : State) (op : AccOp) (k off : Nat) : Option (Nat × Bool) :=
  s.firstError (accKeys op (accWaits op (s.isFull k off)) k off)

/-- The key of a word of a Geyser thread's register frame, which lies outside its pool (R72). -/
def geyserFrameKey (fk d : Nat) : Nat := 2 ^ 28 + 2 ^ 24 + (fk - 2 ^ 20) * 256 + d

/-- The keys of a FIFO, of an entry of the future table, of a cluster's array and of an instruction store (R428): the error
of the storage that the next read there meets. -/
def fifoErrKey (n : Nat) : Nat := 2 ^ 28 + 2 ^ 25 + n
def futureErrKey (k : Nat) : Nat := 2 ^ 28 + 2 ^ 26 + k
def arrayErrKey (q : Nat) : Nat := 2 ^ 28 + 2 ^ 25 + 2 ^ 20 + q
def istoreErrKey (q : Nat) : Nat := 2 ^ 28 + 2 ^ 25 + 2 ^ 21 + q

/-- The key of a word of a Geyser pool. -/
def geyserKey (ch off : Nat) : Nat := 2 ^ 28 + ch * 2 ^ 13 + off % 2 ^ 16 / 8

/-- The physical pool offset of a word by its key. For a metadata word the spec names no offset (log entry 106): it is that of
the first of the 64 words it serves; an imprecise ECC of a remote access carries the offset of the access's own word. -/
def keyOffset (key : Nat) : Nat :=
  if 2 ^ 29 ≤ key then (key - 2 ^ 29) % 256 * 512
  else if 2 ^ 28 ≤ key then (key - 2 ^ 28) % 2 ^ 13 * 8
  else key % 2 ^ 14 * 8

/-- A counter of a die, which saturates. -/
def satOne (x : BitVec 32) : BitVec 32 := if x = -1 then x else x + 1

/-- Corrects an error that is not lasting: it is counted on its die as correctable or transient, and the storage is
rewritten (R428, R429). -/
def State.transient (s : State) (die key : Nat) : State :=
  let e := s.hub.errors.getD die {}
  let e1 := if s.bad.get? key = some .correctable then { e with corr := satOne e.corr } else { e with trans := satOne e.trans }
  ({ s with bad := s.bad.del key }).updHub (fun h => { h with errors := h.errors.put die e1 })

/-- A transient error that an access at an endpoint meets is corrected (R429). -/
def State.healAt (s : State) (e : Nat) (err : Option (Nat × Bool)) : State :=
  match err with
  | some (key, false) => s.transient (endPos e).1 key
  | _ => s

/-- Counts a lasting error and sends the kind-4 trap message (R429). -/
def State.lasting (s : State) (e : Nat) (tag : BitVec 10) (va : Nat) (page : Option Nat := none) (noPart : Bool := false) :
    State :=
  let die := (endPos e).1
  let x := s.hub.errors.getD die {}
  let x1 := { x with last := satOne x.last }
  let m : TrapMsg :=
    { kind := 4, part := tag, die := die, cause := 0x12, src := BitVec.ofNat 32 (s.position e), va := va, page,
      pool := if e < 2 ^ 20 ∧ page.isNone then some e else none, noPart }
  (s.updHub (fun h => { h with errors := h.errors.put die x1 })).trapMsg e m

/-- The storage of a key lies in a pool: a word, a metadata word or a word of a Geyser pool. -/
def keyInPool (key : Nat) : Bool := decide (key < 2 ^ 28 + 2 ^ 24) || (decide (2 ^ 29 ≤ key) && decide (key < 2 ^ 30))

/-- The endpoint whose storage a key names. -/
def keyEnd (key : Nat) : Nat :=
  if 2 ^ 29 ≤ key then (key - 2 ^ 29) / 256
  else if 2 ^ 28 + 2 ^ 26 ≤ key then lampEnd ((key - 2 ^ 28 - 2 ^ 26) / 4096)
  else if 2 ^ 28 + 2 ^ 25 + 2 ^ 21 ≤ key then
    let q := key - (2 ^ 28 + 2 ^ 25 + 2 ^ 21)
    if q < 1024 then lampEnd q else 2 ^ 20 + (q - 1024)
  else if 2 ^ 28 + 2 ^ 25 + 2 ^ 20 ≤ key then lampEnd (key - (2 ^ 28 + 2 ^ 25 + 2 ^ 20))
  else if 2 ^ 28 + 2 ^ 25 ≤ key then lampEnd ((key - 2 ^ 28 - 2 ^ 25) / 64)
  else if 2 ^ 28 + 2 ^ 24 ≤ key then 2 ^ 20 + (key - 2 ^ 28 - 2 ^ 24) / 1024
  else if 2 ^ 28 ≤ key then 2 ^ 20 + (key - 2 ^ 28) / 2 ^ 13
  else key / 2 ^ 14

/-- Pool words that a Lamplighter, a port engine or the context unit reads, by their keys: the state after the soft-error
rule, and false where a read fails again on its retry, at which that reader stops for good (R429). -/
def State.wordsSound (s : State) (tag : BitVec 10) : List Nat → State × Bool
  | [] => (s, true)
  | k :: ks =>
    match s.errorAt k with
    | some true => (s.lasting (keyEnd k) tag (keyOffset k), false)
    | some false => (s.transient (endPos (keyEnd k)).1 k).wordsSound tag ks
    | none => s.wordsSound tag ks

/-- The keys of n words of a core's pool from an offset, without those in the gap. -/
def State.wordKeys (s : State) (k off n : Nat) : List Nat :=
  (rangeFrom 0 n).filterMap (fun i =>
    let o := off + 8 * i
    if s.inGap k o then none else some (wordKey k (s.reduce k o)))

/-! ## Word wait queues (R52 to R55) -/

/-- Answers a remote access. -/
def State.respond (s : State) (me : Nat) (src sender : Nat) (tag : BitVec 10) (epoch : BitVec 6) (out part : Nat)
    (data : Word) (oor xpart retry parked ecc : Bool) (a : WordAcc) : State :=
  s.send me src 1 tag epoch sender [] (.response out part data oor xpart retry parked ecc a)

/-- A value for a wait of a thread whose core is pre-empted is parked in the core's inbox (R55). -/
def State.parkGrant (s : State) (k fk wait : Nat) (v : Word) : State :=
  let r := s.fresh
  let c := s.core k
  let p : Packet := ⟨r.1, k, k, 1, c.tag, c.epoch, fk, [], s.cycle, .grant fk wait v⟩
  r.2.parkMessage k p

/-- A served or performed full/empty operation answers: wait 0 of a local thread, or a response. -/
def State.answerWaiter (s : State) (k : Nat) (w : Waiter) (v : Word) : State :=
  match w.who with
  | .thread fk =>
    let s1 := s.performed w.id
    if (s1.core k).preempted then s1.parkGrant k fk 0 v else s1.giveWait fk 0 v
  | .remote src sender tag epoch out part =>
    (s.performedFor src w.id).respond k src sender tag epoch out part v false false false false false default

/-- The waiters that remain at a word; an empty queue is no entry. -/
def State.setWaiters (s : State) (key : Nat) (ws : List Waiter) : State :=
  { s with waitq := if ws.isEmpty then s.waitq.del key else s.waitq.put key ws }

/-- The head of a word's queue meets a lasting uncorrectable error when it is served: it is not performed. A remote operation
is answered so; a thread of the core gives its wait up and meets the error at its bundle's next turn (R376). -/
def State.failWaiter (s : State) (k off key : Nat) (w : Waiter) : State :=
  match w.who with
  | .thread fk => ((s.performed w.id).updFrame fk (fun f => { f with waits := f.waits.erase 0 })).resume fk
  | .remote src sender tag epoch out part =>
    ((s.lasting k tag (keyOffset key)).performedFor src w.id).respond k src sender tag epoch out part (natWord off)
      false false false false true default

/-- Serves a word's wait queue from its head (R52); n bounds the waiters served. -/
def State.feServe (s : State) (k off : Nat) : Nat → State
  | 0 => s
  | n + 1 =>
    let key := wordKey k off
    match s.waitq.getD key [] with
    | [] => s
    | w :: ws =>
      if accWaits w.op (s.isFull k off) then s
      else
        match s.accError w.op k off with
        | some (e, true) => ((s.setWaiters key ws).failWaiter k off e w).feServe k off n
        | e =>
          let r := (s.healAt k e).bankAccess k ⟨w.op, w.off, w.size, w.data, 0, 0, 0⟩
          ((r.1.setWaiters key ws).answerWaiter k w r.2).feServe k off n

/-- Serves a word's queue after its state changed. -/
def State.serve (s : State) (k off : Nat) : State :=
  s.feServe k off ((s.waitq.getD (wordKey k off) []).length)

/-- Serves the queue after an access that can change a word's state. -/
def State.bankServe (s : State) (k : Nat) (a : WordAcc) : State × Word :=
  let r := s.bankAccess k a
  match a.op with
  | .lds | .sts | .fesetFull | .fesetEmpty => (r.1.serve k (s.reduce k a.off), r.2)
  | _ => r

/-- Adds a waiter at the tail of its word's queue. -/
def State.enqueueWaiter (s : State) (k off : Nat) (w : Waiter) : State :=
  { s with waitq := s.waitq.put (wordKey k off) (s.waitq.getD (wordKey k off) [] ++ [w]) }

/-- A thread's operation waits at a word: there itself, or as a remote access of it. -/
def Who.isOf (w : Who) (fk : Nat) : Bool :=
  match w with
  | .thread f => f == fk
  | .remote src sender .. => sender == fk && src == frameEnd fk

/-- Removes a thread's waiters from every word's queue (R55). -/
def State.dropWaiters (s : State) (fk : Nat) : State :=
  let q := s.waitq.map (fun x => (x.1, x.2.filter (fun w => !w.who.isOf fk)))
  { s with waitq := q.filter (fun x => !x.2.isEmpty) }

/-- A remote full/empty operation of a thread that has not been performed: on its way, at its word's queue, or kept for
another try (R54). -/
def State.feWaits (s : State) (fk out : Nat) : Bool :=
  let mine (p : Packet) : Bool := p.sender == fk && p.src == frameEnd fk &&
    (match p.body with | .access a => a.out == out | _ => false)
  s.waitq.any (fun x => x.2.any (fun w => w.who.isOf fk && w.id == out)) || s.net.any mine ||
    s.cores.any (fun c => c.2.retryBuf.any mine)

/-- The remote full/empty operations of a thread that wait are withdrawn: they are not performed, and their results are
awaited no more (R55, R372). -/
def State.withdrawRemote (s : State) (fk : Nat) : State :=
  let ids := (((s.frame fk).outs.filter (fun o => o.fe && s.feWaits fk o.id)).map (·.id))
  let mine (p : Packet) : Bool := p.sender == fk && p.src == frameEnd fk &&
    (match p.body with | .access a => ids.contains a.out | _ => false)
  let q := s.waitq.map (fun x => (x.1, x.2.filter (fun w => !(w.who.isOf fk && ids.contains w.id))))
  let s1 := { s with
    waitq := q.filter (fun x => !x.2.isEmpty), net := s.net.filter (fun p => !mine p),
    cores := s.cores.mapVal (fun c => { c with retryBuf := c.retryBuf.filter (fun p => !mine p) }),
    unperf := s.unperf.filter (fun i => !ids.contains i) }
  s1.updFrame fk (fun f => { f with outs := f.outs.filter (fun o => !ids.contains o.id) })

/-- The deferred-operation table of a core holds 16 remote waiters (R54). -/
def State.deferredCount (s : State) (k : Nat) : Nat :=
  ((s.waitq.filter (fun x => decide (k * 2 ^ 14 ≤ x.1) && decide (x.1 < (k + 1) * 2 ^ 14))).map
    (fun x => (x.2.filter (fun w => match w.who with | .remote .. => true | .thread _ => false)).length)).sum

/-! ## FIFOs (R62 to R66) -/

/-- A waiting push enters a FIFO at its tail. -/
def fifoEnter (s : State) (n : Nat) (u : FifoWaiter) : State :=
  let f := s.fifo n
  let f1 := { f with items := f.items ++ [u.value.getD 0], waiting := f.waiting.erase u, pushedAt := some s.cycle }
  (s.updFifo n (fun _ => f1)).giveWait u.frame u.wait 0

/-- A waiting pop takes the head of a FIFO. -/
def fifoLeave (s : State) (n : Nat) (o : FifoWaiter) (x : Word) (xs : List Word) : State :=
  let f := s.fifo n
  let f1 := { f with items := xs, waiting := f.waiting.erase o, poppedAt := some s.cycle }
  (s.updFifo n (fun _ => f1)).giveWait o.frame o.wait x

/-- A waiting push is delivered to a waiting pop of an empty FIFO. -/
def fifoPass (s : State) (n : Nat) (u o : FifoWaiter) : State :=
  let f := s.fifo n
  let w := (f.waiting.erase u).erase o
  let f1 := { f with waiting := w, pushedAt := some s.cycle, poppedAt := some s.cycle }
  ((s.updFifo n (fun _ => f1)).giveWait o.frame o.wait (u.value.getD 0)).giveWait u.frame u.wait 0

/-- Performs the first push and the first pop of a FIFO's waiting operations that can be performed in this cycle
(R65): the push first when there is space; a pop from a full FIFO lets the oldest push enter in the same cycle; a push
to an empty FIFO goes to the oldest waiting pop. -/
def fifoStep (s : State) (n : Nat) : State :=
  let f := s.fifo n
  let canPush := f.pushedAt != some s.cycle
  let canPop := f.poppedAt != some s.cycle
  let push := if canPush then f.waiting.find? (fun w => w.value.isSome) else none
  let pop := if canPop then f.waiting.find? (fun w => w.value.isNone) else none
  match push, pop with
  | some u, some o =>
    match f.items with
    | [] => fifoPass s n u o
    | x :: xs => fifoEnter (fifoLeave s n o x xs) n u
  | some u, none => if f.items.length < 16 then fifoEnter s n u else s
  | none, some o =>
    match f.items with
    | [] => s
    | x :: xs => fifoLeave s n o x xs
  | none, none => s

/-- Adds a push or a pop at the tail of a FIFO's waiting operations and performs what can be performed now. -/
def State.fifoJoin (s : State) (n : Nat) (w : FifoWaiter) : State :=
  fifoStep (s.updFifo n (fun f => { f with waiting := f.waiting ++ [w] })) n

/-- Removes a thread's waiting operations from every FIFO. -/
def State.dropFifoWaits (s : State) (fk : Nat) : State :=
  let h (f : Fifo) : Fifo := { f with waiting := f.waiting.filter (fun w => w.frame != fk) }
  { s with fifos := s.fifos.mapVal h }

/-- Lets every FIFO with waiting operations act in a new cycle. -/
def State.fifosTick (s : State) : State :=
  ((s.fifos.filter (fun x => !x.2.waiting.isEmpty)).map (·.1)).foldl fifoStep s

/-! ## Mailbox and token pops (R310, R355) -/

/-- The mailbox of a frame's core or Geyser. -/
def State.mailOf (s : State) (fk : Nat) : List MailEntry :=
  if isGeyserFrame fk then (s.geyser (frameCore fk)).mail else (s.core (frameCore fk)).mail

def State.setMail (s : State) (fk : Nat) (m : List MailEntry) : State :=
  if isGeyserFrame fk then s.updGeyser (frameCore fk) (fun g => { g with mail := m })
  else s.updCore (frameCore fk) (fun c => { c with mail := m })

/-- Entries addressed to a frame. -/
def State.mailCount (s : State) (fk : Nat) : Nat := ((s.mailOf fk).filter (fun e => e.frame == fk)).length

/-- Pops the next dword of the oldest entry addressed to a frame; the entry is freed with dword 3 (R355). -/
def State.popMail (s : State) (fk : Nat) : Option (Word × State) :=
  match (s.mailOf fk).find? (fun e => e.frame == fk) with
  | none => none
  | some e =>
    let i := (s.frame fk).mpos
    let v := e.dwords.getD i 0
    if i < 3 then some (v, s.updFrame fk (fun f => { f with mpos := i + 1 }))
    else
      let s1 := s.setMail fk (removeFirst (fun e => e.frame == fk) (s.mailOf fk))
      some (v, s1.updFrame fk (fun f => { f with mpos := 0 }))

/-- The oldest placed token of a frame: first by placement order (R310). -/
def oldestToken (fk : Nat) (ts : List Token) : Option Token :=
  (ts.filter (fun t => t.frame == fk && t.placed)).foldl
    (fun b t => match b with | some u => if t.order < u.order then some t else b | none => some t) none

/-- Pops the oldest placed token of a frame. -/
def State.popToken (s : State) (fk : Nat) : Option (Word × State) :=
  match oldestToken fk (s.core (frameCore fk)).tokens with
  | none => none
  | some t => some (t.value, s.updCore (frameCore fk) (fun c => { c with tokens := c.tokens.erase t }))

/-- A waiting read of q0 takes a dword when one is present. -/
def State.wakeMail (s : State) (fk : Nat) : State :=
  match (s.frame fk).waitMail with
  | none => s
  | some w =>
    match s.popMail fk with
    | none => s
    | some (v, s1) => (s1.updFrame fk (fun f => { f with waitMail := none })).giveWait fk w v

/-- A waiting read of q1 takes a token when one is placed. -/
def State.wakeToken (s : State) (fk : Nat) : State :=
  match (s.frame fk).waitTok with
  | none => s
  | some w =>
    match s.popToken fk with
    | none => s
    | some (v, s1) => (s1.updFrame fk (fun f => { f with waitTok := none })).giveWait fk w v

end Sys2Proof.Machine
end

