-- ==== Sys2Proof/Machine/Ops.lean ====
section
/-! DEFINITION. Parking, futures at their entries, the end of a task, taking a trap and returning from one (R156,
R166 to R176, R240, R241, R327, R348). -/

namespace Sys2Proof.Machine

/-! ## Parking and control of the thread in issue -/

/-- The bundle in issue takes no effect and will issue again: its address is the thread's pc. -/
def State.retry (s : State) : State :=
  { s.upd (fun f => { f with pc := s.cur.bpc }) with cur := { s.cur with stopped := true } }

/-- The bundle waits in place for its queued waits (R51, R156). -/
def State.parkInPlace (s : State) : State := s.retry.updSlot s.cur.sk (fun r => { r with state := .inPlace })

/-- The bundle waits, as at a switch marker, for every pending result, and then issues again (R156, R160). -/
def State.parkMarker (s : State) : State :=
  (s.retry.upd (fun f => { f with markPc := s.cur.bpc })).updSlot s.cur.sk (fun r => { r with state := .marker })

/-- Adds a wait of the bundle. -/
def State.addWait (s : State) (w : Nat) : State := s.upd (fun f => { f with waits := w :: f.waits })

/-- A taken transfer (R159, R235). -/
def State.jump (s : State) (t : Word) : State := s.upd (fun f => { f with pc := t })

/-- A slot without a thread. -/
def Slot.cleared (r : Slot) : Slot := { r with state := .free, frame := none }

/-- Releases the slot of a frame (R156). -/
def State.releaseSlot (s : State) (fk : Nat) : State :=
  match s.slotOf fk with
  | none => s
  | some sk => s.updSlot sk Slot.cleared

/-- The order number of the next task of a cluster: the moment it joins (R361, R362). -/
def Cluster.nextOrder (c : Cluster) : Nat := (c.tasks.map (·.order)).foldl max 0 + 1

/-- A parked task becomes resumable: it is listed at its priority's tail at its own cluster (R362). -/
def State.makeResumable (s : State) (fk : Nat) : State :=
  let f := s.frame fk
  let r := s.fresh
  let q := frameCore fk / 16
  let t : Task := { id := r.1, entry := f.task, args := [], prio := f.prio, lseq := f.lseq,
                    tag := s.frameTag fk, lane := f.lane, order := (s.cluster q).nextOrder, resume := some fk }
  ((r.2.updFrame fk (fun f => { f with state := .resumable })).updCluster q
    (fun c => { c with tasks := c.tasks ++ [t] })).later 1 (.taskDispatch q)

/-! ## Handles and entries (R35, R167, R168, R330) -/

def handleModule (h : Word) : Nat := natBits h.toNat 54 10
def handleCluster (h : Word) : Nat := natBits h.toNat 44 10
def handleEntry (h : Word) : Nat := natBits h.toNat 32 12
def handleGen (h : Word) : Nat := natBits h.toNat 16 16

/-- The key of the entry a handle names. -/
def handleKey (h : Word) : Nat := handleCluster h * 4096 + handleEntry h

/-- A handle that names a future (R330). -/
def handleOk (h : Word) : Bool :=
  natBits h.toNat 0 16 == 0 && decide (16 ≤ handleGen h) && decide (handleModule h < 256)

/-- The handle of an entry of this module. -/
def State.mkHandle (s : State) (key gen : Nat) : Word :=
  natWord (s.module.toNat * 2 ^ 54 + key / 4096 * 2 ^ 44 + key % 4096 * 2 ^ 32 + gen * 2 ^ 16)

/-- The port engine of a handle's entry (R330). -/
def State.handleEnd (s : State) (h : Word) : Nat :=
  if handleModule h = s.module.toNat then handleCluster h * 16 + handleEntry h % 16 else moduleEnd (handleModule h)

/-- The distance of a handle from its entry (R168). -/
def handleDist (f : Future) (h : Word) : Nat := (f.gen + 65520 - handleGen h) % 65520

/-- The handle is current (R168). -/
def handleCurrent (f : Future) (h : Word) : Bool := handleDist f h == 0 && f.state != .free

/-- A PENDING future has no other state (R169). -/
def fstateCode : FState → Nat
  | .free => 0 | .pending => 1 | .resolved => 2 | .faulted => 3 | .cancelled => 4

/-- What a TOUCH of an entry that has left PENDING returns (R170, R341). -/
def touchReply (st : FState) (v : Word) : Reply :=
  match st with
  | .resolved => .value v true
  | .faulted => .trap 0x06 v
  | _ => .value 0 false

/-- A thread whose operation `out` has its answer: a task whose slot was released becomes resumable (R156, R346). The
answer to an operation that the thread no longer waits for is dropped. -/
def State.wakeThread (s : State) (fk out : Nat) (r : Reply) : State :=
  if (s.frame fk).asked ≠ out then s
  else if (s.frame fk).state == .touch then
    (s.updFrame fk (fun f => { f with reply := some r, asked := 0 })).makeResumable fk
  else s.giveReply fk r

/-- Wakes one waiter of an entry of a partition: in the entry's cluster at once, elsewhere by a message (R346). -/
def wakeOne (q : Nat) (tag : BitVec 10) (r : Reply) (s : State) (a : Asker) : State :=
  if decide (a.end_ < 2 ^ 20) && a.end_ / 16 == q then s.wakeThread a.frame a.out r
  else s.send (lampEnd q) a.end_ 2 tag (s.part tag.toNat).epoch a.frame [] (.wake a.frame a.out r)

/-- The future of a task has reached its final state before the task's own end could set it: its task, its frame, or its
retirement on the way takes note (R173). -/
def State.noteFinal (s : State) (p : Producer) (h : Word) (st : FState) : State :=
  let note (e : TaskEnd) : TaskEnd := if e.fut == h then { e with final := st } else e
  let s1 := s.updHub (fun x => { x with ends := x.ends.map note })
  match p with
  | .frame fk =>
    if (s.frame fk).fut == h && (s.frame fk).state != .free then s1.updFrame fk (fun f => { f with settled := some st })
    else s1
  | .queued id =>
    let mark (t : Task) : Task := if t.id == id && t.fut == h then { t with settled := some st } else t
    { s1 with clusters := s1.clusters.mapVal (fun c => { c with tasks := c.tasks.map mark }) }
  | .none => s1

/-- The entry leaves PENDING with a state and a value: it wakes every waiter in list order, and is freed if it is
dropped (R170). -/
def State.settle (s : State) (key : Nat) (st : FState) (v : Word) : State :=
  let f := s.future key
  let f1 := { f with state := if f.dropped then .free else st, value := v, waiters := [], age := s.cycle,
                     producer := .none }
  let s0 := (s.updFuture key (fun _ => f1)).noteFinal f.producer (s.mkHandle key f.gen) st
  let s1 := f.waiters.foldl (wakeOne (key / 4096) f.owner (touchReply st v)) s0
  if f.dropped then s1.later 1 (.taskDispatch (key / 4096)) else s1

/-- Frees an entry. -/
def State.freeFuture (s : State) (key : Nat) : State :=
  (s.updFuture key (fun f => { f with
    state := .free, waiters := [], dropped := false, value := 0, producer := .none })).later 1 (.taskDispatch (key / 4096))

/-- Retirement of the producer at its entry: a PENDING entry is settled, any other is unchanged (R170, R173). -/
def State.retireEntry (s : State) (h : Word) (st : FState) (v : Word) : State :=
  if handleCurrent (s.future (handleKey h)) h && (s.future (handleKey h)).state == .pending
  then s.settle (handleKey h) st v else s

/-! ## The end of a task -/

/-- State and status of an engine-ring entry (R309). -/
def ringSet (r : NMap (Word × Word)) (seq : BitVec 16) (st status : Nat) : NMap (Word × Word) :=
  let e := r.getD (seq.toNat % 64) (0, 0)
  let d := e.1.toNat
  let d1 := d % 2 ^ 23 + st * 2 ^ 23 + status * 2 ^ 26 + d / 2 ^ 34 * 2 ^ 34
  r.put (seq.toNat % 64) (natWord d1, e.2)

/-- The retirement's effect on the array: unstarted commands of the task are flushed without tokens, its lease ends
once its executing command has completed, its tokens are discarded (R327). -/
def State.endArray (s : State) (fk : Nat) : State :=
  let k := frameCore fk
  let q := k / 16
  let c := s.core k
  let runs (a : ACmd) : Bool := (s.cluster q).running == some a
  let mine (a : ACmd) : Bool := a.frame == fk && !a.orphan
  let running := ((s.cluster q).running.map mine).getD false
  let gone := c.acmds.filter (fun a => mine a && !runs a)
  let kept := c.acmds.filter (fun a => !mine a || runs a)
  let c1 := { c with acmds := kept.map (fun a => if mine a then { a with orphan := true } else a),
                     ring := gone.foldl (fun r a => ringSet r a.seq 6 5) c.ring,
                     tokens := c.tokens.filter (fun t => t.frame != fk) }
  let s1 := (s.setCore k c1).updCluster q (fun cl => { cl with
    running := cl.running.map (fun a => if mine a then { a with orphan := true } else a),
    lease := match cl.lease with
      | some l => if l.frame == fk then (if running then some { l with ending := true } else none) else some l
      | none => none })
  (({ s1 with leaseRecs := s1.leaseRecs.del fk }).later 1 (.leaseGrant q)).later 1 (.arrayCommandComplete q)

/-- The request of a parked ALEASE goes unperformed: its entry becomes that of a flushed command (R55). -/
def State.dropAlease (s : State) (fk : Nat) : State :=
  if isGeyserFrame fk || !(s.frame fk).waits.contains 5 then s
  else
    let isReq (a : ACmd) : Bool := a.frame == fk && (match a.op with | .alease _ => true | _ => false)
    s.updCore (frameCore fk) (fun c => { c with
      acmds := c.acmds.filter (fun a => !isReq a),
      ring := (c.acmds.filter isReq).foldl (fun r a => ringSet r a.seq 6 5) c.ring })

/-- The waits of a thread are withdrawn: words, FIFOs and futures (R55, R372). -/
def State.withdraw (s : State) (fk : Nat) : State :=
  let s1 := ((s.dropAlease fk).dropWaiters fk).dropFifoWaits fk
  let mine (a : Asker) : Bool := a.frame == fk && a.end_ == frameEnd fk
  let h (e : Future) : Future := { e with waiters := e.waiters.filter (fun a => !mine a) }
  let s2 := { s1 with futures := s1.futures.mapVal h }
  s2.updFrame fk (fun f => { f with
    waits := [], held := [], waitMail := none, waitTok := none, reply := none, asked := 0 })

/-- A task begins to carry the number of a launch (R358). -/
def State.countLive (s : State) (tag : BitVec 10) (lseq : Nat) : State :=
  let h (l : Launch) : Launch := if l.lseq == lseq then { l with live := l.live + 1 } else l
  s.updPart tag.toNat (fun p => { p with launches := p.launches.map h })

/-- Counts a task's end in its launch (R358). -/
def State.countEnd (s : State) (tag : BitVec 10) (lseq : Nat) (st : FState) : State :=
  let h (l : Launch) : Launch := { l with
    live := l.live - 1,
    faulted := if st == .faulted then l.faulted + 1 else l.faulted,
    cancelled := if st == .cancelled then l.cancelled + 1 else l.cancelled }
  (s.updPart tag.toNat (fun p => { p with launches := p.launches.map (fun l => if l.lseq == lseq then h l else l) })).later
    1 (.launchCompletion tag.toNat lseq)

/-- The decrement of a task that has ended, at its join record's port engine (R176, R348). -/
def State.sendJoin (s : State) (src : Nat) (tag : BitVec 10) (epoch : BitVec 6) (sender : Nat) (join : Word) (final : FState)
    (lane : Option Nat) : State :=
  if join = 0 then s
  else
    let m := natBits join.toNat 46 10
    let dst := if m = s.module.toNat then natBits join.toNat 36 10 * 16 + natBits join.toNat 32 4 else moduleEnd m
    if s.hasRoute m then s.send src dst 2 tag epoch sender [] (.join join (fstateCode final) lane) else s.refuse src tag

/-- The future of a retired task has been set at its entry: its decrement goes out, and its launch counts its end with the
future's final state (R173, R176, R358). -/
def State.endReached (s : State) (id : Nat) (st : Option FState) : State :=
  match s.hub.ends.find? (fun e => e.id == id) with
  | none => s
  | some e =>
    let final := st.getD e.final
    let s1 := (s.updHub (fun h => { h with ends := h.ends.filter (fun x => x.id != id) })).performed id
    (s1.sendJoin e.src e.tag e.epoch e.sender e.join final e.lane).countEnd e.tag e.lseq final

/-- The state a retirement leaves its future in: the state it sets a PENDING one to, the state of a current one, or the one
noted before it was freed (R170, R173). -/
def State.finalState (s : State) (fut : Word) (st : FState) (noted : Option FState) : FState :=
  let e := s.future (handleKey fut)
  if handleCurrent e fut then (if e.state == .pending then st else e.state) else noted.getD st

/-- Sets the future of a task that ends (R166, R170): at once when its entry lies in the task's own cluster, else by a
message to its port engine. The decrement and the launch's count follow the setting (R176, R348, R358). -/
def State.endFuture (s : State) (src : Nat) (q : Nat) (tag : BitVec 10) (epoch : BitVec 6) (sender : Nat) (fut join : Word)
    (lane : Option Nat) (lseq : Nat) (noted : Option FState) (st : FState) (v : Word) : State :=
  if handleModule fut == s.module.toNat && handleCluster fut == q then
    let final := s.finalState fut st noted
    ((s.retireEntry fut st v).sendJoin src tag epoch sender join final lane).countEnd tag lseq final
  else
    let op : FutOp := match st with
      | .resolved => .retire v
      | .faulted => .fault v
      | _ => .cancelled
    let r := s.fresh
    let e : TaskEnd := ⟨r.1, src, tag, epoch, sender, fut, join, lane, lseq, noted.getD st⟩
    let s1 := { r.2.updHub (fun h => { h with ends := h.ends ++ [e] }) with unperf := r.1 :: r.2.unperf }
    s1.send src (s.handleEnd fut) 2 tag epoch sender [] (.future op fut r.1)

/-- Ends the task of a frame (R166, R348): its future and join record, its lease and commands, its mailbox entries,
waits and copy records, its timer, its energy, its launch's count. `keep` leaves the frame bound for WAITW (R349). -/
def State.retireTask (s : State) (fk : Nat) (st : FState) (v : Word) (keep : Bool) : State :=
  let f := s.frame fk
  let k := frameCore fk
  let tag := s.frameTag fk
  let s1 := s.endFuture (frameEnd fk) (k / 16) tag (s.frameEpoch fk) fk f.fut f.join f.lane f.lseq f.settled st v
  let s2 := (s1.endArray fk).withdraw fk
  let s3 := s2.updCore k (fun c => { c with
    mail := c.mail.filter (fun e => e.frame != fk),
    timer := if c.timerOwner == some fk then 0 else c.timer,
    timerOwner := if c.timerOwner == some fk then none else c.timerOwner })
  let h (c : Copy) : Copy := if c.frame == fk then { c with retired := true } else c
  let s4 := { s3 with copies := s3.copies.mapVal h }
  let s5 := s4.updPart tag.toNat (fun p => { p with energyTotal := p.energyTotal + natWord (f.energyFw / 256) })
  let s6 := s5.releaseSlot fk
  let s7 := s6.updFrame fk (fun f => { f with
    state := if keep then .waitw else .free, due := [], dueMark := [], cancelReq := false, cancelDue := false,
    trapPend := none,
    flushing := false, pend := [], outs := [], mpos := 0, asked := 0, regions := [], fenceAll := [], fenceStore := [],
    fenceEngine := [], acquires := [],
    atMarker := false, energyFw := 0, settled := none, lane := if keep then f.lane else none })
  (s7.later 1 (.taskDispatch (k / 16))).later 1 (.tilePrefetchStart (k / 16))

/-- Stops a Geyser thread (R75): its slot leaves the rotation. -/
def State.stopGeyser (s : State) (fk : Nat) (st : BitVec 2) (cause : BitVec 8) : State :=
  let ch := frameCore fk
  let t := frameNum fk
  let s1 := (s.withdraw fk).updSlot (geyserSlot ch t) Slot.cleared
  let s2 := s1.updGeyser ch (fun g => { g with mail := g.mail.filter (fun e => e.frame != fk) })
  s2.updGeyser ch (fun g => g.updThread t (fun x => { x with state := st, cause := cause }))

/-! ## Taking a trap (R240) -/

/-- A trap that no handler takes: a compute task retires FAULTED with the cause record (R172); a Geyser thread halts,
and a kind-3 trap message is sent (R75, R379). A task with a standing cancel request ends FAULTED too, by R170 and R240,
although R173 names CANCELLED (DESIGN CHOICE, log entry 112); the record's DETAIL of an ECC is that of R374, although R172
gives 0 for it (DESIGN CHOICE, log entry 113). -/
def State.unhandled (s : State) (fk : Nat) (cause detail : BitVec 8) : State :=
  if isGeyserFrame fk then
    let e := frameEnd fk
    (s.stopGeyser fk 2 cause).trapMsg e
      { kind := 3, part := s.frameTag fk, die := (endPos e).1, cause := cause, src := BitVec.ofNat 32 (s.position e) }
  else s.retireTask fk .faulted (natWord (cause.toNat + detail.toNat * 256)) false

/-- The level and the vector of a trap's handler, or none (R240). -/
def State.trapVector (s : State) (fk : Nat) (cause : BitVec 8) : Option (Nat × Word) :=
  let f := s.frame fk
  let tvec := if isGeyserFrame fk then (s.geyser (frameCore fk)).tvec else (s.core (frameCore fk)).tvec
  let svec := if isGeyserFrame fk then (s.geyser (frameCore fk)).svec else (s.core (frameCore fk)).svec
  let toS := cause == 0x0D || cause == 0x12 || decide (1 ≤ f.priv)
  if !toS && tvec != 0 then some (0, tvec)
  else if svec != 0 then some (1, svec)
  else none

/-- c.status after a trap entry at a level (R240): PPRIV and PIE take PRIV and IE, IE is cleared, INTRAP set, PRIV is
the level, MIE stays. -/
def trapStatus (st : BitVec 8) (lvl : Nat) : BitVec 8 :=
  BitVec.ofNat 8 (lvl + st.toNat % 4 * 4 + natBits st.toNat 4 1 * 32 + 64 + natBits st.toNat 7 1 * 128)

/-- c.ecause of a trap (R238). -/
def trapCause (t : TrapRec) : BitVec 17 :=
  BitVec.ofNat 17 (t.cause.toNat + t.detail.toNat * 256 + t.imp.toNat * 65536)

/-- Trap entry of a thread with nothing pending (R240): c.epc, c.eval, c.ecause and c.status are written and the pc is
the handler's; with INTRAP set or without a vector the trap is unhandled. -/
def State.enterTrap (s : State) (fk : Nat) (t : TrapRec) : State :=
  let f := s.frame fk
  if f.intrap then s.unhandled fk t.cause t.detail
  else
    match s.trapVector fk t.cause with
    | none => s.unhandled fk t.cause t.detail
    | some (lvl, vec) =>
      s.setFrame fk { f with epc := t.epc, eval := t.eval, ecause := trapCause t, status := trapStatus f.status lvl,
                             pc := vec, atMarker := false }

/-- A trap of the thread in issue annuls its bundle: trap entry first waits for every pending result (R162, R240). -/
def State.trap (s : State) (t : TrapRec) : State :=
  let t1 := if t.imp then t else { t with epc := s.cur.bpc }
  let s0 := { s with cur := { s.cur with trapped := some t1 } }
  let s1 := s0.retry.withdraw s.cur.fk
  if (s1.cf).outs.isEmpty then (s1.upd (fun f => { f with pend := [] })).enterTrap s.cur.fk t1
  else (s1.upd (fun f => { f with trapPend := some t1 })).updSlot s.cur.sk (fun r => { r with state := .marker })

/-- An ILLEGAL of an operation's own check (R215). -/
def State.illegal (s : State) (eval : Word) : State := s.trap { cause := 0x01, eval := eval }

/-- A code address that a transfer may have as its target (R33). -/
def targetOk (t : Word) : Bool := natBits t.toNat 56 8 == 0 && !t.getLsbD 5

/-- c.status after ERET (R241): PRIV and IE take PPRIV and PIE, INTRAP is cleared. -/
def eretStatus (st : BitVec 8) : BitVec 8 :=
  BitVec.ofNat 8 (natBits st.toNat 2 2 + natBits st.toNat 2 2 * 4 + natBits st.toNat 5 1 * 16 +
    natBits st.toNat 5 1 * 32 + natBits st.toNat 7 1 * 128)

/-- The return from a handler (R241), with nothing pending. -/
def State.trapReturn (s : State) : State :=
  let f := s.cf
  s.upd (fun _ => { f with status := eretStatus f.status, pc := f.epc })

/-! ## Fences (R139) -/

/-- A FENCE holds the access at issue (R139). -/
def State.fenceHolds (s : State) (cls : AccClass) : Bool :=
  let f := s.cf
  (f.fenceAll ++ f.acquires).any s.unperf.contains ||
    ((cls == .store || cls == .atomic) && f.fenceStore.any s.unperf.contains)

/-! ## Acquisition of queue operands (R51, R63 to R66) -/

/-- FIFO number and bound bit of q2 to q7 (R63). -/
def qField (qbind : Word) (n : Nat) : Nat × Bool :=
  (natBits qbind.toNat (7 * (n - 2)) 6, natBits qbind.toNat (7 * (n - 2) + 6) 1 == 1)

/-- The trap of a pop or a push of a queue register: an unbound q2 to q7, or a push to q0 or q1 (R64; log entry 14). -/
def State.queueTrap (s : State) (push : Bool) (n : Nat) : Option TrapRec :=
  if n < 2 then (if push then some { cause := 0x01, eval := natWord n } else none)
  else if (qField s.cur.slot.qbind n).2 then none else some { cause := 0x01, eval := natWord n }

/-- A value for a wait of the bundle. -/
def State.hold (s : State) (wait : Nat) (v : Word) : State := s.upd (fun f => { f with held := f.held.put wait v })

/-- The value a wait of the bundle has received. -/
def State.heldValue (s : State) (wait : Nat) : Word := (s.cf).held.getD wait 0

/-- The wait has its value, or stands in a queue already. -/
def State.waitStands (s : State) (wait : Nat) : Bool := ((s.cf).held.get? wait).isSome || (s.cf).waits.contains wait

/-- The bundle has no wait left. -/
def State.acquired (s : State) : Bool := (s.cf).waits.isEmpty

/-- A release of the thread has still to wait for earlier accesses (R66, R140, R143). -/
def State.releaseStalls (s : State) : Bool := !(s.accIds s.cur.fk).isEmpty

/-- The thread waits in place for its earlier accesses to be performed. -/
def State.awaitRelease (s : State) : State := if (s.cf).waits.contains 11 then s else s.addWait 11

/-- A push or a pop at a cluster FIFO; a FIFO of another partition returns zero, discards, and sets XPART (R64). -/
def State.fifoOp (s : State) (wait n : Nat) (v : Option Word) : State :=
  let q := s.curCore / 16
  let key := q * 64 + (qField s.cur.slot.qbind n).1
  let tag := s.frameTag s.cur.fk
  if (s.fifo key).owner = some tag then (s.addWait wait).fifoJoin key ⟨s.cur.fk, wait, v⟩
  else ((s.sticky bitXpart).refuse (lampEnd q) tag).hold wait 0

/-- Begins a pop of a queue register. -/
def State.acquirePop (s : State) (wait n : Nat) : State :=
  if s.waitStands wait then s
  else if n = 0 then
    match s.popMail s.cur.fk with
    | some (v, s1) => s1.hold wait v
    | none => (s.addWait wait).upd (fun f => { f with waitMail := some wait })
  else if n = 1 then
    match s.popToken s.cur.fk with
    | some (v, s1) => s1.hold wait v
    | none => (s.addWait wait).upd (fun f => { f with waitTok := some wait })
  else s.fifoOp wait n none

/-- Begins a push of a value to a queue register: a release, it joins its FIFO once every earlier access of the thread has
been performed (R66, R142). -/
def State.acquirePush (s : State) (wait n : Nat) (v : Word) : State :=
  if s.waitStands wait then s
  else if s.releaseStalls then s.awaitRelease
  else s.fifoOp wait n (some v)

end Sys2Proof.Machine
end

