-- ==== Sys2Proof/Machine/Translate.lean ====
section
/-! DEFINITION. Channels, page tables, the GTLB, the cache directory, device memory at its home slice (R67 to R96). -/

namespace Sys2Proof.Machine

/-! ## Channels (R67 to R71) -/

/-- The channel of a physical address. -/
def paChannel (pa : Nat) : Nat := pa / 2 ^ 32 % 1024

/-- The address lies in a range its channel gives the partition (R71). -/
def State.insidePart (s : State) (tag pa : Nat) : Bool :=
  let u := pa / 2 ^ 16 % 2 ^ 16
  decide (pa < 2 ^ 42) && (s.hub.owners.getD (paChannel pa) []).any (fun o =>
    o.tag.toNat == tag && decide (o.base.toNat ≤ u) && decide (u ≤ o.limit.toNat))

/-! ## The cache directory (R77 to R80) -/

/-- Set and tag of an address under an owner's tenant number (R78). -/
def State.cacheIndex (s : State) (tag pa : Nat) : Nat × Nat :=
  let ch := paChannel pa
  let k := s.hub.channelK.getD ch 0
  let t := (((s.hub.owners.getD ch []).find? (fun o => o.tag.toNat == tag)).map (fun o => o.t.toNat)).getD 0
  (t % 2 ^ k * 2 ^ (8 - k) + natBits pa 6 (8 - k), natBits pa (14 - k) (18 + k))

/-- The way a tree pseudo-LRU of 16 ways points at: node n of 15, heap order from 1. -/
def plruVictim (bits node : Nat) : Nat → Nat
  | 0 => node - 16
  | n + 1 => plruVictim bits (2 * node + (if bits.testBit node then 1 else 0)) n

/-- The tree after an access to a way: every node on its path points away from it. -/
def plruTouch (bits way node : Nat) : Nat → Nat
  | 0 => bits
  | n + 1 =>
    let right := way.testBit n
    let b := if bits.testBit node == right then bits ^^^ 2 ^ node else bits
    plruTouch b way (2 * node + (if right then 1 else 0)) n

/-- The line of a set that a new line takes the place of: none while a way is invalid, else the victim of R77. -/
def Geyser.victim (g : Geyser) (set : Nat) : Option CLine :=
  if 16 ≤ (g.lines.filter (fun l => l.set == set)).length then
    g.lines.find? (fun l => l.set == set && l.way == plruVictim (g.plru.getD set 0) 1 4)
  else none

/-- The line of a partition's access in the slice. -/
def State.cached (s : State) (tag pa : Nat) : Option CLine :=
  let ix := s.cacheIndex tag pa
  (s.geyser (paChannel pa)).lines.find? (fun l => l.set == ix.1 && l.tag == ix.2)

/-- The address of a line of a channel's slice in units of 64 bytes. -/
def State.lineNumber (s : State) (ch : Nat) (l : CLine) : Nat :=
  let k := s.hub.channelK.getD ch 0
  (ch * 2 ^ 32 + l.tag * 2 ^ (14 - k)) / 64 + l.set % 2 ^ (8 - k)

/-- The key of a line of a cache slice (R428). -/
def sliceKey (line : Nat) : Nat := 2 ^ 40 + line

/-- A line leaves its slice: a dirty one that is uncorrectable is written back so that every later read of it is (R429). -/
def State.leaveSlice (s : State) (ch : Nat) (l : CLine) : State :=
  let n := s.lineNumber ch l
  let bad := s.bad.del (sliceKey n)
  { s with bad := if l.dirty && s.bad.get? (sliceKey n) == some .lasting then bad.put (2 ^ 30 + n) .lasting else bad }

/-- A cacheable miss evicts a line. -/
def State.evict (s : State) (tag pa : Nat) (cacheable : Bool) : State :=
  let ch := paChannel pa
  if s.bad.isEmpty || !cacheable || (s.cached tag pa).isSome then s
  else match (s.geyser ch).victim (s.cacheIndex tag pa).1 with | some l => s.leaveSlice ch l | none => s

/-- The directory after an access of a partition to a line of its home slice: a hit touches the line, a cacheable miss
allocates it, in the lowest-numbered invalid way if there is one (DESIGN CHOICE, log entry 85), else in the victim of R77. Values are those of memory in every case (R69, R79). -/
def State.cacheTouch (s0 : State) (tag pa : Nat) (cacheable write : Bool) : State :=
  let s := s0.evict tag pa cacheable
  let ch := paChannel pa
  let g := s.geyser ch
  let ix := s.cacheIndex tag pa
  let tree := g.plru.getD ix.1 0
  match g.lines.find? (fun l => l.set == ix.1 && l.tag == ix.2) with
  | some l =>
    let turns := write && cacheable && !l.dirty
    let l1 := { l with dirty := l.dirty || turns, old := if turns then s.dev.bytes (pa / 64 * 64) 64 else l.old }
    s.updGeyser ch (fun g => { g with lines := g.lines.map (fun x => if x == l then l1 else x),
                                      plru := g.plru.put ix.1 (plruTouch tree l.way 1 4) })
  | none =>
    if cacheable then
      -- DESIGN CHOICE (log entry 85): an invalid way is filled before the tree's victim
      let used := (g.lines.filter (fun l => l.set == ix.1)).map (·.way)
      let way := ((rangeFrom 0 16).find? (fun w => !used.contains w)).getD (plruVictim tree 1 4)
      let keep := g.lines.filter (fun l => l.set != ix.1 || l.way != way)
      let line : CLine := ⟨ix.1, way, ix.2, write, if write then s.dev.bytes (pa / 64 * 64) 64 else []⟩
      s.updGeyser ch (fun g => { g with lines := keep ++ [line],
                                        plru := g.plru.put ix.1 (plruTouch tree way 1 4) })
    else s

/-! ## The walk (R82 to R85) -/

/-- The end of a walk. -/
inductive WalkEnd where
  | ok (addr : Nat) (host c wr d block : Bool)
  | notPresent
  | notWritable
  | bad (code : Nat)
  /-- a table entry could not be read (R429): the walk never ends -/
  | ecc
  /-- every entry of the GTLB set is in use: the access waits for one (R86) -/
  | full
  deriving DecidableEq, Repr, Inhabited

/-- Bits of a page-table entry (R83). -/
def pteBit (p i : Nat) : Bool := p.testBit i
def pteFrame (p : Nat) : Nat := natBits p 16 36

/-- Index of a level. -/
def walkIndex (va level : Nat) : Nat :=
  if level = 0 then natBits va 42 14 else if level = 1 then natBits va 29 13 else natBits va 16 13

/-- A leaf reached at a level: A, and D for a write, are set in the entry at `ea` unless `quiet`. -/
def walkLeaf (s : State) (tag va : Nat) (write quiet : Bool) (level ea pte : Nat) : State × WalkEnd :=
  if level = 0 then (s, .bad 3)
  else if level = 1 ∧ pteFrame pte % 2 ^ 13 ≠ 0 then (s, .bad 3)
  else if write && !pteBit pte 1 then (s, .notWritable)
  else
    let want := pte ||| 32 ||| (if write then 64 else 0)
    let s1 := if want = pte ∨ quiet then s
      else
        let s0 := s.cacheTouch tag ea true true
        { s0 with dev := s0.dev.setDword ea (natWord want) }
    let base := pteFrame pte * 2 ^ 16
    let off := if level = 1 then va % 2 ^ 29 else va % 2 ^ 16
    let block := level == 1
    if pteBit pte 3 then (s1, .ok (base ||| off) true (pteBit pte 4) (pteBit pte 1) (pteBit want 6) block)
    else if 2 ^ 42 ≤ base then (s1, .bad 4)
    else if s.insidePart tag (base ||| off) then
      (s1, .ok (base ||| off) false (pteBit pte 4) (pteBit pte 1) (pteBit want 6) block)
    else (s1, .bad 5)

/-- The uncorrectable storage that a read of a line meets (R68, R80, R429): its own in HBM4E where the slice does not hold it; of a
line that the slice holds, the slice's, which is retried there if the line is dirty, and from HBM4E if it is clean. -/
def State.lineError (s : State) (tag l : Nat) : Option (Nat × Bool) :=
  if s.bad.isEmpty then none
  else
    match s.cached tag (64 * l) with
    | none => (s.errorAt (2 ^ 30 + l)).map (fun b => (2 ^ 30 + l, b))
    | some x =>
      match s.errorAt (sliceKey l) with
      | none => none
      | some b =>
        if x.dirty then some (sliceKey l, b)
        else if s.errorAt (2 ^ 30 + l) = some true then some (2 ^ 30 + l, true) else some (sliceKey l, false)

/-- The first lasting error among the lines of n bytes from an address, else the first transient one. -/
def State.deviceError (s : State) (tag pa n : Nat) : Option (Nat × Bool) :=
  let es := (rangeFrom (pa / 64) ((pa + n - 1) / 64 - pa / 64 + 1)).filterMap (s.lineError tag)
  (es.find? (·.2)).or es.head?

/-- A write of n bytes at a device address covers every byte of a line. -/
def wholeLine (pa n l : Nat) : Bool := decide (pa ≤ 64 * l) && decide (64 * l + 64 ≤ pa + n)

/-- The uncorrectable line that a cacheable write meets when it fills the lines it covers in part (R68, R79). -/
def State.fillError (s : State) (tag pa n : Nat) (c : Bool) : Option (Nat × Bool) :=
  if n = 0 ∨ !c then none
  else
    ((rangeFrom (pa / 64) ((pa + n - 1) / 64 - pa / 64 + 1)).filterMap (fun l =>
      if wholeLine pa n l then none else s.lineError tag l)).head?

/-- A read of n bytes at a device address under the soft-error rule: the state after it, and false where the read fails
again on its retry (R68, R80, R429); `va` is the address that a report names. -/
def State.deviceSound (s : State) (tag : BitVec 10) (pa n va : Nat) : State × Bool :=
  match s.deviceError tag.toNat pa n with
  | some (key, false) => (s.transient (paChannel pa / 128) key, true)
  | some (_, true) => (s.lasting (2 ^ 20 + paChannel pa) tag va (some (pa / 2 ^ 16)), false)
  | none => (s, true)

/-- geyser_walk (R84) from a table at a level; n counts the levels left. The walk is one step of the model, so its
compare-and-swap never fails (log entry 18). `quiet` walks set no A or D (R96, R266). -/
def walkFrom (s : State) (tag va : Nat) (write quiet : Bool) (table level : Nat) : Nat → State × WalkEnd
  | 0 => (s, .bad 3)
  | n + 1 =>
    let ea := table + 8 * walkIndex va level
    let x := if s.insidePart tag ea then s.deviceSound (BitVec.ofNat 10 tag) ea 8 va else (s, true)
    if !x.2 then (x.1, .ecc)
    else if s.insidePart tag ea then
      let pte := s.dev.readLE ea 8
      let s1 := x.1.cacheTouch tag ea true false
      if natBits pte 7 9 ≠ 0 ∨ natBits pte 52 12 ≠ 0 then (s1, .bad 3)
      else if !pteBit pte 0 then (s1, .notPresent)
      else if !pteBit pte 2 then
        if level = 2 then (s1, .bad 3) else walkFrom s1 tag va write quiet (pteFrame pte * 2 ^ 16) (level + 1) n
      else walkLeaf s1 tag va write quiet level ea pte
    else (s, .bad 5)

/-- The walk of a device address of a partition. -/
def State.walk (s : State) (tag va : Nat) (write quiet : Bool) : State × WalkEnd :=
  walkFrom s tag (va % 2 ^ 56) write quiet (s.part tag).root 0 3

/-- The final outcome code of a walk when no page request is made (R90, R91). -/
def WalkEnd.code : WalkEnd → Nat
  | .ok .. => 0
  | .notPresent => 1
  | .notWritable => 2
  | .bad c => c
  | .ecc | .full => 0

/-- Isolation refusals of a translation are reported by its agent (R71). -/
def State.reportIsol (s : State) (agent tag : Nat) (w : WalkEnd) : State :=
  if w == .bad 5 then s.refuse agent (BitVec.ofNat 10 tag) else s

/-! ## The GTLB (R86 to R88) -/

/-- An entry maps a device address of a partition. -/
def gtlbMatch (e : GEntry) (tag va : Nat) : Bool :=
  e.tag.toNat == tag && (if e.block then e.va / 2 ^ 29 == va / 2 ^ 29 else e.va / 2 ^ 16 == va / 2 ^ 16)

/-- The set of an address. -/
def gtlbSet (va : Nat) : Nat := natBits va 16 8

/-- The set of an entry's address has a way that is empty or that no access uses. A block stands in the set of its base
address, which is set 0 (DESIGN CHOICE, log entry 84: R86 names no set for a block). -/
def gtlbRoom (es : List GEntry) (va : Nat) : Bool :=
  let same := es.filter (fun x => gtlbSet x.va == gtlbSet va)
  decide (same.length < 8) || same.any (fun x => x.inUse == 0)

/-- Adds an entry to its set of 8 ways: a full set gives up its oldest entry that no access uses (DESIGN CHOICE, log entry
19: R86 names no victim). A block is entered in the set of its base address (DESIGN CHOICE, log entry 84). -/
def gtlbAdd (es : List GEntry) (e : GEntry) : List GEntry :=
  let same := es.filter (fun x => gtlbSet x.va == gtlbSet e.va)
  if same.length < 8 then es ++ [e]
  else removeFirst (fun x => gtlbSet x.va == gtlbSet e.va && x.inUse == 0) es ++ [e]

/-- Translation at a Geyser for an access (R84, R86): the GTLB, or a walk that fills it. The address is checked against the
partition's range in both cases (R71). A write walks again where the entry's D is 0, and also where its WR is 0 (DESIGN
CHOICE, log entry 108: R86 names only D). -/
def State.translate (s : State) (ch tag va : Nat) (write : Bool) : State × Except WalkEnd Trans :=
  match (s.geyser ch).gtlb.find? (fun e => gtlbMatch e tag va && !e.invalid && (!write || (e.wr && e.d))) with
  | some e =>
    let off := if e.block then va % 2 ^ 29 else va % 2 ^ 16
    if e.host || s.insidePart tag (e.frame + off) then (s, .ok ⟨e.frame + off, e.host, e.c, e.id⟩)
    else (s.reportIsol (2 ^ 20 + ch) tag (.bad 5), .error (.bad 5))
  | none =>
    let r := s.walk tag va write false
    match r.2 with
    | .ok addr host c wr d block =>
      let id := r.1.fresh
      let size := if block then 2 ^ 29 else 2 ^ 16
      let e : GEntry := ⟨id.1, BitVec.ofNat 10 tag, va % 2 ^ 56 / size * size, block, addr - va % size, wr, host, c, d,
        0, false⟩
      let keep := (r.1.geyser ch).gtlb.filter (fun x => !(gtlbMatch x tag va && x.inUse == 0))
      if gtlbRoom keep e.va then
        (id.2.updGeyser ch (fun g => { g with gtlb := gtlbAdd keep e }), .ok ⟨addr, host, c, id.1⟩)
      else (r.1, .error .full)
    | w => (r.1.reportIsol (2 ^ 20 + ch) tag w, .error w)

/-- Raises or lowers an entry's in-use count; an invalidating entry without users is freed (R87, R88). -/
def State.useEntry (s : State) (ch id : Nat) (up : Bool) : State :=
  let h (e : GEntry) : GEntry := if e.id == id then { e with inUse := if up then e.inUse + 1 else e.inUse - 1 } else e
  s.updGeyser ch (fun g => { g with gtlb := (g.gtlb.map h).filter (fun e => !(e.invalid && e.inUse == 0)) })

/-! ## Device and host bytes -/

/-- The key of a host byte of a partition: its virtual function and address. -/
def hostKey (tag va : Nat) : Nat := (tag + 1) * 2 ^ 56 + va % 2 ^ 56

/-- Reads n bytes of device memory at a physical address, with the directory's touch of each line. -/
def State.devRead (s : State) (tag pa n : Nat) (c : Bool) : State × List Byte :=
  let lines := rangeFrom (pa / 64) ((pa + n - 1) / 64 - pa / 64 + 1)
  (if n = 0 then s else lines.foldl (fun s l => s.cacheTouch tag (l * 64) c false) s, s.dev.bytes pa n)

/-- A write through a leaf that is not cacheable also reaches HBM4E below a dirty line (R79). -/
def State.writeThrough (s : State) (tag pa : Nat) (bs : List Byte) (l : Nat) : State :=
  match s.cached tag (64 * l) with
  | some x =>
    let new := (rangeFrom 0 64).map (fun i =>
      let a := 64 * l + i
      if pa ≤ a ∧ a < pa + bs.length then bs.getD (a - pa) 0 else x.old.getD i 0)
    if x.dirty then s.updGeyser (paChannel pa) (fun g => { g with
      lines := g.lines.map (fun y => if y == x then { x with old := new } else y) }) else s
  | none => s

/-- Writes bytes to device memory at a physical address. -/
def State.devWrite (s : State) (tag pa : Nat) (bs : List Byte) (c : Bool) : State :=
  let n := bs.length
  let lines := rangeFrom (pa / 64) ((pa + n - 1) / 64 - pa / 64 + 1)
  let s1 := if n = 0 then s else lines.foldl (fun s l => s.cacheTouch tag (l * 64) c true) s
  let s2 := if c || n == 0 then s1 else lines.foldl (fun s l => s.writeThrough tag pa bs l) s1
  { s2 with dev := s2.dev.setBytes pa bs }

/-- The key of a byte of a function's host memory; function 0 is the physical function. -/
def fnKey (vf va : Nat) : Nat := vf * 2 ^ 56 + va % 2 ^ 56

/-- Whether the hub can send a posted write for a function (R99). -/
def State.hostCanWrite (s : State) (tag : Nat) : Bool := s.hub.hostUp && (s.vf (tag + 1)).bme

/-- The cached translation of a host page for a partition's function under its PASID (R98). -/
def State.atsFind (s : State) (tag va : Nat) : Option AtsEntry :=
  s.hub.ats.find? (fun e => e.vf == tag + 1 && e.pasid == (s.part tag).pasid && e.page == va / 4096 && !e.invalid)

/-- The hub's translation of a host address for a function (R98): with ATS enabled a page that is not cached must be
requested first. -/
def State.hostReady (s : State) (tag va : Nat) : Bool := !(s.vf (tag + 1)).ats || (s.atsFind tag va).isSome

/-- The cached translation of a host page, 0 for none. -/
def State.atsEntry (s : State) (tag va : Nat) : Nat :=
  if (s.vf (tag + 1)).ats then ((s.atsFind tag va).map (·.id)).getD 0 else 0

/-- Sends an ATS translation request, for a copy, a Geyser thread, or the fill or spill of a number. A translation covers a
page of 4 KiB (DESIGN CHOICE, log entry 87: R98 names no size). -/
def State.askAts (s : State) (tag va : Nat) (write : Bool) (copy : Option Nat) (frame : Option Nat) (unit : Nat := 0) :
    State :=
  let r := s.fresh
  r.2.updHub (fun h => { h with hostReqs := h.hostReqs ++
    [{ id := r.1, vf := tag + 1, pasid := (s.part tag).pasid, va := va / 4096 * 4096, len := 4096,
       copy := copy.map (fun c => (c, 0)), frame, unit, entry := 0, ats := true, write }] })

/-- Sends a non-posted host read with the partition's PASID (R97). -/
def State.askHost (s : State) (id tag va len : Nat) (copy : Option (Nat × Nat)) (frame : Option Nat) (chan gent : Nat := 0)
    (eval : Word := 0) (unit : Nat := 0) : State :=
  let r : HostReq := { id, vf := tag + 1, pasid := (s.part tag).pasid, va, len, copy, frame, unit,
                       entry := s.atsEntry tag va, ats := false, chan, gent, eval }
  s.updHub (fun h => { h with hostReqs := h.hostReqs ++ [r] })

/-- Raises or lowers the in-use count of a cached translation (R99). -/
def State.useAts (s : State) (id : Nat) (up : Bool) : State :=
  let h (e : AtsEntry) : AtsEntry := if e.id == id then { e with inUse := if up then e.inUse + 1 else e.inUse - 1 } else e
  s.updHub (fun hb => { hb with ats := (hb.ats.map h).filter (fun e => !(e.invalid && e.inUse == 0)) })

/-- The executing Geyser of an external address of a partition (R76). -/
def State.steer (s : State) (tag va : Nat) : Nat := (s.part tag).steer.getD (natBits va 16 8) 0

end Sys2Proof.Machine
end

