-- ==== Sys2Proof/Machine/Alloc.lean ====
section
/-! DEFINITION. Allocation of future entries and queue slots, spilling, and the creation of tasks (R167, R171, R174,
R336 to R340, R347, R358 to R361, R369). -/

namespace Sys2Proof.Machine

/-! ## Counts and quotas (R174, R369) -/

/-- Keys of the entries of a slice that satisfy a condition. -/
def State.sliceKeys (s : State) (q : Nat) (p : Future → Bool) : List Nat :=
  (s.futures.filter (fun x => x.1 / 4096 == q && p x.2)).map (·.1)

/-- Entries a partition holds in a slice. -/
def State.heldEntries (s : State) (q tag : Nat) : Nat :=
  (s.sliceKeys q (fun f => f.owner.toNat == tag && (f.state != .free || f.spilling))).length

/-- Inserts a key by age, oldest first. -/
def insertAge (s : State) (k : Nat) : List Nat → List Nat
  | [] => [k]
  | x :: xs => if (s.future k).age < (s.future x).age then k :: x :: xs else x :: insertAge s k xs

/-- A partition's spillable entries of a slice, oldest first. -/
def State.spillable (s : State) (q tag : Nat) : List Nat :=
  if (s.part tag).spill = 0 then []
  else (s.sliceKeys q (fun f => f.owner.toNat == tag && !f.dropped && !f.spilling &&
    (f.state == .resolved || f.state == .faulted || f.state == .cancelled))).foldr (insertAge s) []

/-- The n lowest-numbered FREE entries of a slice from entry i, looking at `fuel` entries. -/
def lowestFree (s : State) (q : Nat) (n i : Nat) : Nat → List Nat
  | 0 => []
  | fuel + 1 =>
    if n = 0 then []
    else
      let f := s.future (q * 4096 + i)
      if f.state == .free && !f.spilling then (q * 4096 + i) :: lowestFree s q (n - 1) (i + 1) fuel
      else lowestFree s q n (i + 1) fuel

/-- The entries an allocation takes, each with whether it is spilled first; or the cause of the first refusal and its
index (R174). -/
def planEntries (quota : Nat) (held : Nat) (free spill : List Nat) (i : Nat) :
    Nat → Except (BitVec 8 × Nat) (List (Nat × Bool))
  | 0 => .ok []
  | n + 1 =>
    if quota ≤ held then
      match spill with
      | e :: es => (planEntries quota held free es (i + 1) n).map (fun l => (e, true) :: l)
      | [] => .error (0x09, i)
    else
      match free with
      | e :: es => (planEntries quota (held + 1) es spill (i + 1) n).map (fun l => (e, false) :: l)
      | [] =>
        match spill with
        | e :: es => (planEntries quota held [] es (i + 1) n).map (fun l => (e, true) :: l)
        | [] => .error (0x08, i)

/-- Priorities of the ready-queue slots that an allocation takes. -/
def AllocFor.prios : AllocFor → List (BitVec 2)
  | .spawn t .. => [t.prio]
  | .spawnNt .. => []
  | .spawnr ts .. => ts.map (·.prio)
  | .index t => [t.prio]
  | .joini _ prio .. => [prio]

/-- The slots of a cluster that allocations with spill writes on their way have reserved: partition and priority (R171,
R174). -/
def State.reservedSlots (s : State) (q : Nat) : List (BitVec 10 × BitVec 2) :=
  ((s.hub.spills.filter (fun x => x.cluster == q)).map (fun x =>
    ((x.work.map AllocFor.prios).getD []).map (fun p => (x.tag, p)))).flatten

/-- Tasks that occupy ready-queue slots of a cluster: all but resumable ones. -/
def Cluster.queued (c : Cluster) : List Task := c.tasks.filter (fun t => t.resume.isNone && !t.cancelled)

/-- The refusal of n queue slots at a priority, with the index of the first refused (R174, R361). -/
def State.slotRefusal (s : State) (q : Nat) (tag : BitVec 10) (prio : BitVec 2) (n : Nat) : Option (BitVec 8 × Nat) :=
  let taken := (s.cluster q).queued.map (fun t => (t.tag, t.prio)) ++ s.reservedSlots q
  let mine := (taken.filter (fun x => x.1 == tag)).length
  let inPrio := (taken.filter (fun x => x.2 == prio)).length
  let left := (s.part tag.toNat).quotaSlots - mine
  let room := 256 - inPrio
  if left < n ∧ left ≤ room then some (0x09, left)
  else if room < n then some (0x08, room)
  else none

/-- The plan of an allocation of n entries with n queue slots (slots false: none needed). -/
def State.plan (s : State) (q : Nat) (tag : BitVec 10) (prio : BitVec 2) (n : Nat) (slots spills : Bool) :
    Except (BitVec 8) (List (Nat × Bool)) :=
  let e := planEntries (s.part tag.toNat).quotaEntries (s.heldEntries q tag.toNat) (lowestFree s q n 0 4096)
    (if spills then s.spillable q tag.toNat else []) 0 n
  let sl := if slots then s.slotRefusal q tag prio n else none
  match e, sl with
  | .ok l, none => .ok l
  | .ok _, some x => .error x.1
  | .error x, none => .error x.1
  | .error x, some y => .error (if x.2 ≤ y.2 then x.1 else y.1)

/-- Allocation of an entry: the generation advances, the state is PENDING (R167, R170). -/
def State.allocEntry (s : State) (key : Nat) (tag : BitVec 10) (dropped : Bool) (p : Producer) : State :=
  s.updFuture key (fun f => { f with
    gen := if f.gen = 0xFFFF then 0x0010 else f.gen + 1, state := .pending, value := 0, dropped := dropped,
    owner := tag, waiters := [], producer := p, spilling := false })

/-- The handle of an entry as it stands. -/
def State.entryHandle (s : State) (key : Nat) : Word := s.mkHandle key (s.future key).gen

/-! ## Answers to spawners -/

/-- Answers an operation: a message to the endpoint of its thread (R330, R332). -/
def State.reply (s : State) (src : Nat) (tag : BitVec 10) (a : Asker) (r : Reply) (xpart oor : Bool) : State :=
  let epoch := if a.end_ < 2 ^ 23 then s.frameEpoch a.frame else (s.part tag.toNat).epoch
  s.send src a.end_ 1 tag epoch a.frame [] (.futureReply a.frame a.out r xpart oor)

/-- The asker of an operation of a thread of this module. -/
def localAsker (fk out : Nat) : Asker := ⟨frameEnd fk, fk, out⟩

/-- Answers an operation of a thread of this module. -/
def State.answer (s : State) (src fk out : Nat) (r : Reply) (xpart : Bool) : State :=
  s.reply src (s.frameTag fk) (localAsker fk out) r xpart false

/-- The state that a retirement's answer reports (R173). -/
def codeState : Reply → Option FState
  | .value v _ => if v = 2 then some .resolved else if v = 3 then some .faulted else if v = 4 then some .cancelled else none
  | _ => none

/-- Delivers an answer: to the thread's outstanding result, to the operation that its bundle waits for, or to the end of a
task whose future lies elsewhere. An answer that nothing awaits any more is dropped. -/
def State.deliverAnswer (s : State) (fk out : Nat) (r : Reply) (xpart oor : Bool) : State :=
  if (s.frame fk).outs.any (fun o => o.id == out) then
    match r with
    | .value v pd => s.returnWord fk out 0 v oor xpart (some pd)
    | _ => s.returnWord fk out 0 0 oor xpart (some false)
  else if (s.frame fk).asked = out ∧ out ≠ 0 then
    (if xpart then s.updFrame fk (fun f => f.setSticky bitXpart) else s).giveReply fk r
  else s.endReached out (codeState r)

/-! ## Creating tasks -/

/-- Adds a task to a cluster at its priority's tail and counts it in its launch; a reserved slot is no task yet (R358). -/
def State.enqueue (s : State) (q : Nat) (t : Task) : State :=
  let s1 := s.updCluster q (fun c => { c with tasks := c.tasks ++ [{ t with order := c.nextOrder }] })
  let s2 := if t.reservedOnly then s1 else s1.countLive t.tag t.lseq
  (s2.later 1 (.taskDispatch q)).later 1 (.tilePrefetchStart q)

/-- A queued task ends without having been dispatched (R126, R336): its future, its join record, its launch. -/
def State.endQueued (s : State) (q : Nat) (t : Task) (st : FState) (v : Word) : State :=
  let s0 := if t.reservedOnly then s.countLive t.tag t.lseq else s
  let s1 := s0.endFuture (lampEnd q) q t.tag (s.part t.tag.toNat).epoch 0 t.fut t.join t.lane t.lseq t.settled st v
  s1.updCluster q (fun c => { c with tasks := c.tasks.filter (fun x => x.id != t.id) })

/-- Creates a task whose entry has been chosen; a malformed one, or one whose entry R33 refuses, retires at once as
FAULTED with cause ILLEGAL (R336, R337). -/
def State.createTask (s : State) (q key : Nat) (t : Task) (dropped : Bool) : State :=
  let s1 := s.allocEntry key t.tag dropped (.queued t.id)
  let t1 := { t with fut := s1.entryHandle key }
  let s2 := s1.enqueue q t1
  if t.malformed || !targetOk t.entry then s2.endQueued q t1 .faulted 0x01 else s2

/-- The fixed part of a join record at its dispatch (R175, R176): the reserved slot becomes the continuation. -/
def Task.continuation (t : Task) (entry arg dw0 ptr : Word) (lane : Option Nat) (order : Nat) : Task :=
  { t with entry, args := [arg, dw0, ptr], prio := dw0.extractLsb' 32 2, reservedOnly := false, lane, order }

/-- A dword of a record in scratchpad; a byte in the gap or on a refused position reads as zero. -/
def recordDword (s : State) (tag : BitVec 10) (epoch : BitVec 6) (core : Nat) (ptr : Word) (o : Nat) : Word :=
  natWord (bytesNat (engineRead s core tag epoch ptr (scratchOff ptr + o) 8).1)

/-- The pool words of the 32 bytes of a record that a port engine reads; a word in the gap is none (R21, R40). -/
def recordKeys (s : State) (core : Nat) (ptr : Word) : List Nat :=
  (rangeFrom 0 4).filterMap (fun i =>
    (scratchByte s core ptr (scratchOff ptr + 8 * i)).bind (fun x =>
      if s.inGap x.1 x.2 then none else some (wordKey x.1 (s.reduce x.1 x.2))))

/-- Writes a dword of a record in scratchpad. -/
def setRecordDword (s : State) (tag : BitVec 10) (epoch : BitVec 6) (core : Nat) (ptr : Word) (o : Nat) (x : Word) :
    State :=
  (engineWrite s core tag epoch ptr (scratchOff ptr + o) (natBytes x.toNat 8)).1

/-- JOINI at the record's port engine (R347). The continuation of COUNT = 0, which no child's decrement enqueues, has no lane in
a deterministic launch (DESIGN CHOICE, log entry 110: R178 names the lane of a child only). -/
def joiniFinish (s : State) (q k : Nat) (tag : BitVec 10) (count : BitVec 32) (prio : BitVec 2) (lseq : Nat)
    (ptr : Word) (a : Asker) (core : Nat) : State :=
  let epoch := (s.core core).epoch
  let s1 := s.allocEntry k tag false .none
  let h := s1.entryHandle k
  let r := s1.fresh
  let t : Task := { id := r.1, entry := 0, args := [], prio, lseq, fut := h, tag, reservedOnly := true,
                    freeFormats := true }
  let s2 := (r.2.updFuture k (fun f => { f with producer := .queued r.1 })).enqueue q t
  let dw0 := natWord (count.toNat + prio.toNat * 2 ^ 32)
  let s3 := setRecordDword (setRecordDword s2 tag epoch core ptr 0 dw0) tag epoch core ptr 24 h
  let go (x : Task) : Task :=
    if x.id == r.1 then
      x.continuation (recordDword s3 tag epoch core ptr 8) (recordDword s3 tag epoch core ptr 16) dw0 ptr x.lane x.order
    else x
  let s4 := if count = 0 then (s3.updCluster q (fun c => { c with tasks := c.tasks.map go })).countLive tag lseq else s3
  let gap := (engineRead s4 core tag epoch ptr (scratchOff ptr) 32).2.1
  (s4.performedFor a.end_ a.out).reply core tag a (.value h true) false gap

/-- Carries out an allocation whose entries are ready. -/
def State.finishAlloc (s : State) (q : Nat) (tag : BitVec 10) (keys : List Nat) (w : AllocFor) : State :=
  match w, keys with
  | .spawn t a _, k :: _ =>
    let s1 := s.createTask q k t false
    s1.reply (lampEnd q) tag a (.value (s1.entryHandle k) true) false false
  | .spawnNt a _, k :: _ =>
    let s1 := s.allocEntry k tag false .none
    s1.reply (lampEnd q) tag a (.value (s1.entryHandle k) true) false false
  | .spawnr ts a _, ks =>
    let s1 := (ks.zip ts).foldl (fun s x => s.createTask q x.1 x.2 true) s
    s1.reply (lampEnd q) tag a (.value (natWord ts.length) true) false false
  | .index t, k :: _ => s.createTask q k t true
  | .joini count prio lseq ptr a core, k :: _ => joiniFinish s q k tag count prio lseq ptr a core
  | _, _ => s

/-- A refused allocation: the plain forms answer null, the trapping forms trap, their c.eval added at the thread
(R174, R336 to R339, R347); an index of a launch is held in place (R359). -/
def State.refuseAlloc (s : State) (q : Nat) (tag : BitVec 10) (cause : BitVec 8) (w : AllocFor) : State :=
  let ans (a : Asker) (trap : Bool) (eval : Word) : State :=
    s.reply (lampEnd q) tag a (if trap then .trap cause eval else .value 0 false) false false
  match w with
  | .spawn _ a trap => ans a trap 0
  | .spawnNt a trap => ans a trap 0
  | .spawnr ts a trap => ans a trap (natWord ts.length)
  | .index t => s.updCluster q (fun c => { c with ranges := c.ranges.map (fun r =>
      if r.lseq == t.lseq && r.tag == t.tag && r.next == t.index.toNat + 1 && decide (r.lo ≤ t.index.toNat) then
        { r with next := r.next - 1 } else r) })
  | .joini _ _ _ _ a core => (s.performedFor a.end_ a.out).reply core tag a (.value 0 false) false false

/-- Begins an allocation: at once, after the spill writes it needs (R171), or refused. -/
def State.allocate (s : State) (q : Nat) (tag : BitVec 10) (prio : BitVec 2) (n : Nat) (slots spills : Bool)
    (w : AllocFor) : State :=
  match s.plan q tag prio n slots spills with
  | .error c => s.refuseAlloc q tag c w
  | .ok l =>
    let keys := l.map (·.1)
    if l.any (·.2) then
      let r := s.fresh
      let sp : Spill := ⟨r.1, q, keys, some w, 0, false, localAsker 0 0, tag, keys.map (fun k => (s.future k).owner), false⟩
      let s1 := keys.foldl (fun s k => s.updFuture k (fun f => { f with
        spilling := true, owner := tag })) r.2
      (s1.updHub (fun h => { h with spills := h.spills ++ [sp] })).later 8 (.spillWriteCompletion r.1)
    else s.finishAlloc q tag keys w

/-! ## The spill area (R171, R458) -/

/-- The device address of an entry's record of a generation. -/
def State.spillAddr (s : State) (tag key gen : Nat) : Nat :=
  (s.part tag).spill + 2 ^ 20 * (key / 4096) + 16 * (key % 4096 + 4096 * (gen % 16))

/-- What an access to the spill area finds: its place, a failure with its outcome code (R90), a wait for a GTLB entry or for
the translation of a host page, or a read that never ends (R429). -/
inductive SpillPlace where
  | at_ (t : Trans)
  | fail (code : Nat)
  | busy
  | ask (va : Nat)
  | dead
  deriving DecidableEq, Repr, Inhabited

/-- The place of an entry's record of a generation. No access of the spill area makes a page request (R171). -/
def State.spillPlace (s : State) (tag key gen : Nat) (write : Bool) : State × SpillPlace :=
  let va := s.spillAddr tag key gen
  let r := s.translate (s.steer tag va) tag va write
  match r.2 with
  | .ok t =>
    if !t.host then (r.1, .at_ t)
    else if !r.1.hostCanWrite tag then (r.1, .fail 6)
    else if r.1.hostReady tag t.addr then (r.1, .at_ t)
    else (r.1, .ask t.addr)
  | .error .full => (r.1, .busy)
  | .error .ecc => (r.1, .dead)
  | .error w => (r.1, .fail w.code)

/-- The places of the records of entries that are not FREE; the first that has none decides. -/
def spillPlaces (tag : Nat) (s : State) : List Nat → State × Except SpillPlace (List (Nat × Trans))
  | [] => (s, .ok [])
  | k :: ks =>
    if (s.future k).state == .free then spillPlaces tag s ks
    else
      match s.spillPlace tag k (s.future k).gen true with
      | (s1, .at_ t) => let r := spillPlaces tag s1 ks; (r.1, r.2.map (fun l => (k, t) :: l))
      | (s1, e) => (s1, .error e)

/-- Writes the record of an entry at its place and frees the entry (R171). -/
def spillOne (tag : Nat) (s : State) (x : Nat × Trans) : State :=
  let f := s.future x.1
  let h := s.mkHandle x.1 f.gen + natWord (fstateCode f.state)
  let bs := natBytes h.toNat 8 ++ natBytes f.value.toNat 8
  let s1 := if x.2.host then { s with host := s.host.setBytes (fnKey (tag + 1) x.2.addr) bs }
    else s.devWrite tag x.2.addr bs x.2.c
  s1.updFuture x.1 (fun f => { f with state := .free, value := 0 })

/-- Entries that were reserved stand as they stood (R339). -/
def State.unreserve (s : State) (sp : Spill) : State :=
  (sp.entries.zip sp.owners).foldl (fun s x => s.updFuture x.1 (fun f => { f with owner := x.2 })) s

/-- The allocation of a spill goes on as though there were no spillable entry (R171). -/
def State.spillRefused (s : State) (sp : Spill) (w : AllocFor) : State :=
  (s.unreserve sp).allocate sp.cluster sp.tag ((w.prios.head?).getD 0) sp.entries.length (!w.prios.isEmpty) false w

/-- SPILL_WRITE_COMPLETION: the records are written and the entries allocated at once; when one of them cannot be written,
none is, and the allocation goes on as though there were no spillable entry (R171, R174, R339). -/
def execSpillWriteCompletion (id : Nat) (s : State) : Host.Outcome State Fault Refusal :=
  match s.hub.spills.find? (fun x => x.id == id), (s.hub.spills.find? (fun x => x.id == id)).bind (·.work) with
  | some sp, some w =>
    let done (s : State) : State :=
      sp.entries.foldl (fun s k => s.updFuture k (fun f => { f with spilling := false }))
        (s.updHub (fun h => { h with spills := h.spills.filter (fun x => x.id != id) }))
    if sp.failed then .next ((done s).spillRefused sp w)
    else
      match spillPlaces sp.tag.toNat s sp.entries with
      | (s1, .ok l) =>
        .next ((l.foldl (spillOne sp.tag.toNat) (done s1)).finishAlloc sp.cluster sp.tag sp.entries w)
      | (s1, .error .busy) => .next (s1.again (.spillWriteCompletion id))
      | (s1, .error (.ask va)) => .next (s1.askAts sp.tag.toNat va true none none id)
      | (s1, .error .dead) => .next s1
      | (s1, .error _) => .next ((done s1).spillRefused sp w)
  | _, _ => .next s

/-- What a TOUCH finds in a spill record: it acts on the recorded state and value as on a live entry (R171). -/
def spillReply (h : Word) (bs : List Byte) : Reply :=
  let d0 := bytesNat (bs.take 8)
  let v := natWord (bytesNat (bs.drop 8))
  if d0 / 16 * 16 = h.toNat then
    match d0 % 16 with
    | 2 => .value v true
    | 3 => .trap 0x06 v
    | _ => .value 0 false
  else .trap 0x07 h

/-- A spill read that does not end OK: the cause record has CAUSE PAGE and DETAIL the outcome (R171, R172). -/
def spillFailure (code : Nat) : Reply := .trap 0x06 (natWord (0x0C + code * 256))

/-- The read of a spill record ends: the toucher is woken with its answer (R171). -/
def State.spillAnswer (s : State) (sp : Spill) (r : Reply) : State :=
  let s1 := s.updHub (fun h => { h with spills := h.spills.filter (fun x => x.id != sp.id) })
  let a := sp.asker
  let epoch := if a.end_ < 2 ^ 23 then s.frameEpoch a.frame else (s.part sp.tag.toNat).epoch
  s1.send (handleKey sp.handle / 256 / 16 * 16) a.end_ 2 sp.tag epoch a.frame [] (.wake a.frame a.out r)

/-- SPILL_READ_COMPLETION: a TOUCH with a handle of distance 1 to 15 is answered from the record (R171); a record in host
memory is read by a request of the hub (R97, R99); a read that fails again on its retry never ends (R429). -/
def execSpillReadCompletion (id : Nat) (s : State) : Host.Outcome State Fault Refusal :=
  match s.hub.spills.find? (fun x => x.id == id) with
  | none => .next s
  | some sp =>
    let tag := sp.tag.toNat
    let va := s.spillAddr tag (handleKey sp.handle) (handleGen sp.handle)
    if sp.failed then .next (s.spillAnswer sp (spillFailure 1))
    else
      match s.spillPlace tag (handleKey sp.handle) (handleGen sp.handle) false with
      | (s1, .at_ t) =>
        if t.host then
          let ch := s1.steer tag va
          .next (((s1.useEntry ch t.entry true).useAts (s1.atsEntry tag t.addr) true).askHost id tag t.addr 16 none none ch
            t.entry 0 id)
        else
          let x := s1.deviceSound sp.tag t.addr 16 va
          if x.2 then
            let b := x.1.devRead tag t.addr 16 t.c
            .next (b.1.spillAnswer sp (spillReply sp.handle b.2))
          else .next x.1
      | (s1, .fail code) => .next (s1.spillAnswer sp (spillFailure code))
      | (s1, .busy) => .next (s1.again (.spillReadCompletion id))
      | (s1, .ask a) => .next (s1.askAts tag a false none none id)
      | (s1, .dead) => .next s1

end Sys2Proof.Machine
end

