-- ==== Sys2Proof/Machine/Operands.lean ====
section
/-! DEFINITION. Operand forms: G3 operands with queue flags, sign-extended immediates, code addresses (R206 to R209,
R225, R229, R230). -/

namespace Sys2Proof.Machine

/-- The outcome of every meaning. -/
abbrev Out := Host.Outcome State Fault Refusal

/-! ## Immediates and code addresses -/

/-- A signed field as a word. -/
def sx {n : Nat} (x : BitVec n) : Word := x.signExtend 64

/-- The code address `delta` lines from the bundle in issue, at a head index (R209, R230). -/
def State.relTarget {n : Nat} (s : State) (delta : BitVec n) (head : BitVec 5) : Word :=
  natWord ((((s.cur.bpc.toNat / 64 : Nat) + delta.toInt) % 2 ^ 50).toNat * 64 + head.toNat)

/-! ## G3 operands -/

/-- The trap of a G3 operation's queue operands, ra first, then rb, then rd (R64). -/
def g3Trap (s : State) (q : QFlags) (rd ra rb : BitVec 6) : Option TrapRec :=
  (if q.qa then s.queueTrap false (ra.toNat % 8) else none).or <|
  (if q.qb then s.queueTrap false (rb.toNat % 8) else none).or <|
  (if q.qd then s.queueTrap true (rd.toNat % 8) else none)

/-- Begins the pops of a G3 operation. -/
def g3Pops (s : State) (q : QFlags) (ra rb : BitVec 6) : State :=
  let s1 := if q.qa then s.acquirePop 1 (ra.toNat % 8) else s
  if q.qb then s1.acquirePop 2 (rb.toNat % 8) else s1

/-- The operands: popped values where flagged, registers as before the bundle otherwise (R157, R208). -/
def opA (s : State) (q : QFlags) (ra : BitVec 6) : Word := if q.qa then s.heldValue 1 else s.pg ra
def opB (s : State) (q : QFlags) (rb : BitVec 6) : Word := if q.qb then s.heldValue 2 else s.pg rb

/-- The pops have their values. -/
def g3Ready (s : State) (q : QFlags) : Bool :=
  (!q.qa || ((s.cf).held.get? 1).isSome) && (!q.qb || ((s.cf).held.get? 2).isSome)

/-- The pops, and the push once its value is known (R51, R65). -/
def g3Acquire (s : State) (q : QFlags) (rd ra rb : BitVec 6) (res : Word → Word → Word) : State :=
  let s1 := g3Pops s q ra rb
  if g3Ready s1 q && q.qd then s1.acquirePush 3 (rd.toNat % 8) (res (opA s1 q ra) (opB s1 q rb)) else s1

/-- A FENCE holds the bundle of an operation whose pops or push have not begun: they are accesses, loads and a store (R128,
R139, R163). -/
def queueHeld (s : State) (q : QFlags) : Bool :=
  (((q.qa && !s.waitStands 1) || (q.qb && !s.waitStands 2)) && s.fenceHolds .load) ||
    (q.qd && !s.waitStands 3 && s.fenceHolds .store)

/-- A G3 operation: queue traps, a FENCE's hold, queue waits, then its result with a latency in turns, and its other effects. -/
def g3 (s : State) (q : QFlags) (rd ra rb : BitVec 6) (lat : Nat) (res : Word → Word → Word)
    (eff : Word → Word → State → State) : Out :=
  match g3Trap s q rd ra rb with
  | some t => .next (s.trap t)
  | none =>
    if queueHeld s q then .next s.retry
    else
    let s1 := g3Acquire s q rd ra rb res
    if s1.acquired then
      let a := opA s1 q ra
      let b := opB s1 q rb
      .next (eff a b (if q.qd then s1 else s1.setG rd (res a b) lat))
    else .next s1.parkInPlace

/-- No effect beside the result. -/
def noEff : Word → Word → State → State := fun _ _ s => s

/-! ## Results of the integer group (R225 to R228, R232) -/

def resAdd (a b : Word) : Word := a + b
def resSub (a b : Word) : Word := a - b
def resMul (a b : Word) : Word := a * b
def resMulh (a b : Word) : Word := mulHS a b
def resMulhu (a b : Word) : Word := mulHU a b
def resAnd (a b : Word) : Word := a &&& b
def resOr (a b : Word) : Word := a ||| b
def resXor (a b : Word) : Word := a ^^^ b
def resShl (a b : Word) : Word := a <<< (b.toNat % 64)
def resShr (a b : Word) : Word := a >>> (b.toNat % 64)
def resSar (a b : Word) : Word := a.sshiftRight (b.toNat % 64)
def resRol (a b : Word) : Word := a.rotateLeft (b.toNat % 64)
def resAdc (cin : Bool) (a b : Word) : Word := (addCarry a b cin).1
def resSbc (cin : Bool) (a b : Word) : Word := (subBorrow a b cin).1
def resSel (guard : Bool) (a b : Word) : Word := if guard then a else b
def resCmp (c : Cond) (a b : Word) : Word := boolWord (condHolds c a b)
def resBfx (len : BitVec 6) (sgn : Bool) (a b : Word) : Word := bfx a (b.toNat % 64) (len.toNat + 1) sgn
def resBfi (len : BitVec 6) (old a b : Word) : Word := bfi old a (b.toNat % 64) (len.toNat + 1)

/-- The guard of SEL: p[ps].bit0 XOR invert. -/
def State.selGuard (s : State) (ps : BitVec 4) (inv : Bool) : Bool := (s.pp ps).getLsbD 0 != inv

end Sys2Proof.Machine
end

