-- ==== Sys2Proof/Machine/System.lean ====
section
/-! DEFINITION. Control registers and system operations (R236 to R248, R309, R378, R395, R425, R426). -/

namespace Sys2Proof.Machine

/-! ## The control-register map (R236) -/

inductive Acc where
  | no | ro | rw
  deriving DecidableEq, Repr, Inhabited

/-- Access at U and at S of a control register; none where the number names no register on this core. -/
def regAccess (gey : Bool) (n : Nat) : Option (Acc × Acc) :=
  match n with
  | 0x000 | 0x002 | 0x003 | 0x004 | 0x005 | 0x043 => some (.ro, .rw)
  | 0x001 | 0x007 | 0x030 | 0x031 | 0x032 | 0x033 | 0x034 | 0x035 | 0x036 | 0x051 => some (.rw, .rw)
  | 0x006 | 0x042 | 0x049 | 0x050 => some (.no, .rw)
  | 0x041 => some (.no, .ro)
  | 0x014 | 0x015 | 0x016 | 0x017 | 0x040 | 0x048 | 0x070 => some (.ro, .ro)
  | 0x010 | 0x011 | 0x013 | 0x018 | 0x061 => if gey then none else some (.ro, .ro)
  | 0x012 | 0x024 | 0x025 | 0x026 | 0x027 => if gey then none else some (.ro, .rw)
  | 0x020 | 0x021 | 0x022 | 0x023 | 0x058 | 0x060 => if gey then none else some (.rw, .rw)
  | _ => none

/-- The column of the current level: M takes the S column. -/
def levelAccess (f : Frame) (a : Acc × Acc) : Acc := if f.priv = 0 then a.1 else a.2

/-- The trap of a CRD (R239), if any. -/
def crdTrap (s : State) (num : BitVec 12) : Option TrapRec :=
  match regAccess s.onGeyser num.toNat with
  | none => some { cause := 0x01, eval := num.setWidth 64 }
  | some a => if levelAccess s.cur.pre a = .no then some { cause := 0x05, eval := num.setWidth 64 } else none

/-- The trap of a CWR by its register and level (R239), if any. -/
def cwrTrap (s : State) (num : BitVec 12) : Option TrapRec :=
  match regAccess s.onGeyser num.toNat with
  | none => some { cause := 0x01, eval := num.setWidth 64 }
  | some a =>
    if levelAccess s.cur.pre a = .rw then none
    else if levelAccess s.cur.pre a = .no ∨ a.2 = .rw then some { cause := 0x05, eval := num.setWidth 64 }
    else some { cause := 0x01, eval := num.setWidth 64 }

/-- The trap of the value written: reserved bits of c.status and c.qbind (their c.eval is not stated: a free value), a
PPRIV of 2 or 3 (R63, R237). -/
def cwrValueTrap (s : State) (num : BitVec 12) (x : Word) : Option TrapRec :=
  if num = 0x000 then
    if x >>> 8 ≠ 0 then some { cause := 0x01, eval := Config.freeWord s.free }
    else if 2 ≤ natBits x.toNat 2 2 then some { cause := 0x05, eval := 0 } else none
  else if num = 0x058 ∧ x >>> 42 ≠ 0 then some { cause := 0x01, eval := Config.freeWord s.free }
  else none

/-! ## Reading -/

/-- The core whose tables and core registers a frame's thread uses; a Geyser's decode tables are kept under keys from
2^15 (log entry 15). -/
def tabKey (fk : Nat) : Nat := if isGeyserFrame fk then 2 ^ 15 + frameCore fk else frameCore fk

/-- c.tvec, c.svec, c.timer, the weight table and its index, of a compute or a Geyser core. -/
def State.tvecOf (s : State) (fk : Nat) : Word :=
  if isGeyserFrame fk then (s.geyser (frameCore fk)).tvec else (s.core (frameCore fk)).tvec
def State.svecOf (s : State) (fk : Nat) : Word :=
  if isGeyserFrame fk then (s.geyser (frameCore fk)).svec else (s.core (frameCore fk)).svec
def State.timerOf (s : State) (fk : Nat) : Word :=
  if isGeyserFrame fk then (s.geyser (frameCore fk)).timer else (s.core (frameCore fk)).timer
def State.timerOwnerOf (s : State) (fk : Nat) : Option Nat :=
  if isGeyserFrame fk then (s.geyser (frameCore fk)).timerOwner else (s.core (frameCore fk)).timerOwner
def State.ewtOf (s : State) (fk : Nat) : NMap (BitVec 24) × BitVec 4 × Bool :=
  if isGeyserFrame fk then let g := s.geyser (frameCore fk); (g.ewt, g.ewtIdx, g.ewtSel)
  else let c := s.core (frameCore fk); (c.ewt, c.ewtIdx, c.ewtSel)

/-- What a CRD of c.ewt returns: the weight of the selected class, IDX and SEL (R426). -/
def ewtValue (e : NMap (BitVec 24) × BitVec 4 × Bool) : Word :=
  natWord (weightOf e.1 e.2.1.toNat + e.2.1.toNat * 2 ^ 48 + e.2.2.toNat * 2 ^ 52)

/-- c.part (R395); the partition word of a Geyser core is not stated: a free value. -/
def State.partReg (s : State) (fk : Nat) : Word :=
  let lo : Nat := if isGeyserFrame fk then (Config.freeWord s.free).toNat % 2 ^ 32 else (s.core (frameCore fk)).pword.toNat
  natWord (lo + (s.frameTag fk).toNat * 2 ^ 32 + (s.frameEpoch fk).toNat * 2 ^ 42 + (s.frameDet fk).toNat * 2 ^ 48)

/-- c.erdat: the selected dword of the engine ring (R309). -/
def Core.erdat (c : Core) : Word :=
  let e := c.ring.getD (c.ering.toNat % 64) (0, 0)
  if c.ering.toNat / 64 % 2 = 0 then e.1 else e.2

/-- The value a CRD of a register of the map returns. -/
def crdValue (s : State) (n : Nat) : Word :=
  let f := s.cur.pre
  let fk := s.cur.fk
  let c := s.core (frameCore fk)
  let r := s.cur.slot
  let open_ : Word → Word := fun x => if s.onGeyser then Config.freeWord s.free else x
  match n with
  | 0x000 => f.status.setWidth 64
  | 0x001 => f.epc
  | 0x002 => f.ecause.setWidth 64
  | 0x003 => f.eval
  | 0x004 => f.eseq.setWidth 64
  | 0x005 => s.tvecOf fk
  | 0x006 => s.svecOf fk
  | 0x007 => f.estat.setWidth 64
  | 0x010 => f.task
  | 0x011 => f.fut
  | 0x012 => f.join
  | 0x013 => f.prio.setWidth 64
  | 0x014 => open_ (natWord c.lcid)
  | 0x015 => open_ (s.pcid (frameCore fk))
  | 0x016 => open_ (natWord (slotNum s.cur.sk + frameNum fk * 256))
  | 0x017 => s.partReg fk
  | 0x018 => f.index.setWidth 64
  | 0x020 => f.fmta.setWidth 64
  | 0x021 => f.fmtb.setWidth 64
  | 0x022 => f.scale.setWidth 64
  | 0x023 => f.rowmask.setWidth 64
  | 0x024 => r.tile.getD 0 0
  | 0x025 => r.tile.getD 1 0
  | 0x026 => r.tile.getD 2 0
  | 0x027 => r.tile.getD 3 0
  | 0x030 => r.cpsrc
  | 0x031 => r.cpdst
  | 0x032 => r.cpshape
  | 0x033 => r.cpsstr
  | 0x034 => r.cpdstr
  | 0x035 => r.cpmask
  | 0x036 => r.cpflags
  | 0x040 => s.guestTime fk
  | 0x041 => (s.part (s.frameTag fk).toNat).toff
  | 0x042 => s.timerOf fk
  | 0x043 => f.wdogLimit ++ f.wdogCount
  | 0x048 => natWord (f.energy.toNat + f.energySat.toNat * 2 ^ 48)
  | 0x049 => ewtValue (s.ewtOf fk)
  | 0x050 => r.rkey
  | 0x051 => r.rctr
  | 0x058 => r.qbind
  | 0x060 => c.ering.setWidth 64
  | 0x061 => c.erdat
  | 0x070 => let p := s.part (s.frameTag fk).toNat; natWord (p.lim.toNat + p.pol.toNat * 2)
  | _ => 0

/-- Registers whose value on a Geyser core the spec does not give. -/
def crdFree (s : State) (n : Nat) : Bool := s.onGeyser && (n == 0x014 || n == 0x015 || n == 0x016 || n == 0x017)

def execCrd (rd : BitVec 6) (num : BitVec 12) (s : State) : Out :=
  match crdTrap s num with
  | some t => .next (s.trap t)
  | none =>
    let s1 := s.setG rd (crdValue s num.toNat)
    .next (if crdFree s num.toNat then s1.draw.2 else s1)

/-! ## Writing -/

/-- Updates the slot record of the thread in issue. -/
def State.updCurSlot (s : State) (h : Slot → Slot) : State := s.updSlot s.cur.sk h

/-- Sets c.tvec, c.svec, c.timer with its owner, or the weight table. -/
def State.setVec (s : State) (svec : Bool) (x : Word) : State :=
  let k := frameCore s.cur.fk
  if s.onGeyser then s.updGeyser k (fun g => if svec then { g with svec := x } else { g with tvec := x })
  else s.updCore k (fun c => if svec then { c with svec := x } else { c with tvec := x })

/-- A CWR of c.timer makes the writing task its owner (R244). -/
def State.setTimer (s : State) (x : Word) : State :=
  let k := frameCore s.cur.fk
  let o := some s.cur.fk
  if s.onGeyser then s.updGeyser k (fun g => { g with timer := x, timerOwner := o })
  else s.updCore k (fun c => { c with timer := x, timerOwner := o })

/-- A CWR of c.ewt selects IDX and sets SEL; with SEL = 0 it also writes the weight of that class (R426). -/
def State.setEwt (s : State) (x : Word) : State :=
  let k := frameCore s.cur.fk
  let idx : BitVec 4 := x.extractLsb' 48 4
  let w (m : NMap (BitVec 24)) : NMap (BitVec 24) := if x.getLsbD 52 then m else m.put idx.toNat (x.extractLsb' 0 24)
  let sel := x.getLsbD 52
  if s.onGeyser then s.updGeyser k (fun g => { g with ewtIdx := idx, ewtSel := sel, ewt := w g.ewt })
  else s.updCore k (fun c => { c with ewtIdx := idx, ewtSel := sel, ewt := w c.ewt })

/-- A slot with c.tile i written. -/
def Slot.setTile (r : Slot) (i : Nat) (x : Word) : Slot :=
  { r with tile := (rangeFrom 0 4).map (fun j => if j = i then x else r.tile.getD j 0) }

/-- What a CWR of a writable register does (R236). -/
def cwrEffect (s : State) (n : Nat) (x : Word) : State :=
  let setF := s.upd
  let setS := s.updCurSlot
  match n with
  | 0x000 => setF fun f => { f with status := BitVec.ofNat 8 (f.status.toNat % 4 + x.toNat % 256 / 4 * 4) }
  | 0x001 => setF fun f => { f with epc := x }
  | 0x002 => setF fun f => { f with ecause := x.setWidth 17 }
  | 0x003 => setF fun f => { f with eval := x }
  | 0x004 => setF fun f => { f with eseq := x.setWidth 17 }
  | 0x005 => s.setVec false x
  | 0x006 => s.setVec true x
  | 0x007 => setF fun f => { f with estat := f.estat &&& ~~~ (x.setWidth 32) }
  | 0x012 => setF fun f => { f with join := x }
  | 0x020 => setF fun f => { f with fmta := x.setWidth 21 }
  | 0x021 => setF fun f => { f with fmtb := x.setWidth 21 }
  | 0x022 => setF fun f => { f with scale := x.setWidth 21 }
  | 0x023 => setF fun f => { f with rowmask := x.setWidth 32 }
  | 0x024 => setS fun r => r.setTile 0 x
  | 0x025 => setS fun r => r.setTile 1 x
  | 0x026 => setS fun r => r.setTile 2 x
  | 0x027 => setS fun r => r.setTile 3 x
  | 0x030 => setS fun r => { r with cpsrc := x }
  | 0x031 => setS fun r => { r with cpdst := x }
  | 0x032 => setS fun r => { r with cpshape := x }
  | 0x033 => setS fun r => { r with cpsstr := x }
  | 0x034 => setS fun r => { r with cpdstr := x }
  | 0x035 => setS fun r => { r with cpmask := x }
  | 0x036 => setS fun r => { r with cpflags := x }
  | 0x042 => s.setTimer x
  | 0x043 => setF fun f => { f with wdogCount := x.setWidth 40, wdogLimit := x.extractLsb' 40 24 }
  | 0x049 => s.setEwt x
  | 0x050 => setS fun r => { r with rkey := x }
  | 0x051 => setS fun r => { r with rctr := x }
  | 0x058 => setS fun r => { r with qbind := x }
  | 0x060 => s.updCore (frameCore s.cur.fk) (fun c => { c with ering := x.setWidth 7 })
  | _ => s

def execCwr (ra : BitVec 6) (num : BitVec 12) (s : State) : Out :=
  match (cwrTrap s num).or (cwrValueTrap s num (s.pg ra)) with
  | some t => .next (s.draw.2.trap t)
  | none => .next (cwrEffect s num.toNat (s.pg ra))

/-! ## System operations -/

/-- PRIV of an operation that S may run (R7, R374). -/
def privTrap (s : State) : Option TrapRec := if s.cur.pre.priv = 0 then some { cause := 0x05, eval := 0 } else none

def execTrap (fn : BitVec 8) (s : State) : Out :=
  .next (s.trap { cause := 0x13, detail := fn, eval := s.cur.npc })

def execDbrk (s : State) : Out := .next (s.trap { cause := 0x11, eval := s.cur.npc })

/-- ERET (R241): outside a handler ILLEGAL; it waits for pending results; a c.epc that R33 refuses raises WINDOW. -/
def execEret (s : State) : Out :=
  if !s.cur.pre.intrap then .next (s.illegal 0)
  else if !(s.cf).outs.isEmpty then .next s.parkMarker
  else if targetOk (s.cf).epc then .next ((s.upd (fun f => { f with pend := [] })).trapReturn)
  else .next (s.trap { cause := 0x04, eval := (s.cf).epc })

def execTime (rd : BitVec 6) (s : State) : Out := .next (s.setG rd (s.guestTime s.cur.fk))

/-- The instruction store that a thread fetches through; a Geyser core's is that of log entry 16. -/
def istoreOf (fk : Nat) : Nat := if isGeyserFrame fk then 1024 + frameCore fk else frameCore fk / 16

/-- HALT: a Geyser thread becomes idle (R75); a compute-core thread at S leaves the rotation (R246). -/
def execHalt (s : State) : Out :=
  if s.onGeyser then .next (s.stopGeyser s.cur.fk 0 0)
  else
    match privTrap s with
    | some t => .next (s.trap t)
    | none => .next (s.updCurSlot (fun r => { r with state := .halted }))

/-- An asynchronous result of the thread in issue: the register is pending until the marker (R160). -/
def State.addOut (s : State) (o : Outst) : State :=
  s.upd (fun f => { (match o.dst with | some d => f.setPend d | none => f) with outs := f.outs ++ [o] })

/-- FLUSHI invalidates the partition's lines of the cluster's instruction store, or its line of one code address; its
completion is an asynchronous result (R245). -/
def execFlushi (line : Bool) (ra : BitVec 6) (s : State) : Out :=
  match privTrap s with
  | some t => .next (s.trap t)
  | none =>
    let va := natBits (s.pg ra).toNat 6 50 * 64
    let tag := s.frameTag s.cur.fk
    let r := s.fresh
    let s1 := (r.2.addOut { id := r.1, kind := .other, cls := .other }).updCluster (istoreOf s.cur.fk) (fun c => { c with
      icache := c.icache.filter (fun l => l.tag != tag || (line && l.va != va)) })
    .next (s1.sendFrom s.cur.fk (frameEnd s.cur.fk) 1 [] (.futureReply s.cur.fk r.1 (.value 0 true) false false))

/-- SCRUB (R247): the clearing runs until its end is reported to gd. -/
def execScrub (rd : BitVec 6) (fn : BitVec 3) (s : State) : Out :=
  match privTrap s with
  | some t => .next (s.trap t)
  | none =>
    let r := s.fresh
    let k := tabKey s.cur.fk
    let c : CoreScrub := ⟨r.1, k, s.cur.fk, r.1, fn, (s.core k).eseqNext, 0⟩
    let s1 := r.2.addOut { id := r.1, kind := .other, cls := .other, dst := some rd.toNat }
    .next ((s1.updHub (fun h => { h with coreScrubs := h.coreScrubs ++ [c] })).later 8 (.scrubClearingEnd r.1))

/-! ## Decode-table access (R186, R187, R248) -/

/-- Position p of the encode order holds p in the reset state. -/
def Core.orderAt (c : Core) (p : Nat) : Byte := c.order.getD p (BitVec.ofNat 8 p)

/-- An entry of the decode table: +0 in the reset state. -/
def Core.dtabAt (c : Core) (p : Nat) : BitVec 32 := c.dtab.getD p 0

/-- A table entry keeps bits [31:13] (R248). -/
def tabEntry (x : Word) : BitVec 32 := (x.setWidth 32) &&& 0xFFFFE000

/-- A TABW takes effect. -/
def applyTab (c : Core) (w : TabWrite) : Core :=
  let x := w.x.toNat
  match w.fn.toNat with
  | 0 => { c with dtab := c.dtab.put x (tabEntry w.data) }
  | 1 => { c with order := c.order.put x (w.data.setWidth 8) }
  | 2 => { c with order := (rangeFrom 0 8).foldl (fun o k => o.put (x + k) (w.data.extractLsb' (8 * k) 8)) c.order }
  | _ => { c with dtab := (c.dtab.put x (tabEntry w.data)).put (x + 1) (tabEntry (w.data >>> 32)) }

def execTabw (fn : BitVec 2) (x : BitVec 8) (ra : BitVec 6) (s : State) : Out :=
  .next { s with tabWrites := s.tabWrites ++ [⟨s.cycle + 8, tabKey s.cur.fk, fn, x, s.pg ra⟩] }

/-- What TABR returns: the state at its issue cycle. -/
def tabValue (c : Core) (fn : BitVec 2) (x : Nat) : Word :=
  match fn.toNat with
  | 0 => (c.dtabAt x).setWidth 64
  | 1 => (c.orderAt x).setWidth 64
  | 2 => natWord (bytesNat ((rangeFrom x 8).map c.orderAt))
  | _ => c.dtabAt (x + 1) ++ c.dtabAt x

def execTabr (fn : BitVec 2) (x : BitVec 8) (rd : BitVec 6) (s : State) : Out :=
  .next (s.setG rd (tabValue (s.core (tabKey s.cur.fk)) fn x.toNat))

end Sys2Proof.Machine
end

