-- ==== Sys2Proof/Machine/LoadStore.lean ====
section
/-! DEFINITION. Loads, stores, full/empty operations, atomics and FENCE (R15 to R27, R48 to R54, R133 to R141, R249 to
R257). -/

namespace Sys2Proof.Machine

/-- Bytes of an access size. -/
def szBytes (z : Size) : Nat := match z with | .b => 1 | .h => 2 | .w => 4 | .d => 8

/-- The 64-bit sum of base and displacement (R16). -/
def State.accSum {n : Nat} (s : State) (rb : BitVec 6) (off : BitVec n) : Word := s.pg rb + sx off

/-! ## Scope policy (R133, R378) -/

/-- Scopes 6 and 7 in a virtual function limited to partition scope. -/
def State.scopeLimited (s : State) (scope : Nat) : Bool :=
  decide (6 ≤ scope) && (s.part (s.frameTag s.cur.fk).toNat).lim

/-- Under STRICT the operation raises SCOPE with the scope code. -/
def scopeTrap (s : State) (scope : Nat) : Option TrapRec :=
  if s.scopeLimited scope && (s.part (s.frameTag s.cur.fk).toNat).pol then
    some { cause := 0x0A, eval := natWord scope } else none

/-- Under CLAMP the operation is performed at scope 5 and SCOPEDEM is set. -/
def State.clampScope (s : State) (scope : Nat) : State := s.stickyIf (s.scopeLimited scope) bitScopedem

/-- The scope that an operation with acq and rel bits orders at; 0 when it orders nothing. -/
def ordScope (o : Ord) : Nat := if o.acq || o.rel then o.scope.toNat else 0

/-! ## Where an access goes -/

/-- The endpoint and local offset of each word of an operand (R18 to R20). Words for another module carry their cluster
and core above the offset. -/
def State.wordPlaces (s : State) (d : Dec) (n : Nat) : List (Nat × Nat) :=
  let one (w : Nat) : Nat × Nat :=
    if d.view = 0 then (frameEnd s.cur.fk, (d.off + 8 * w) % 2 ^ 17)
    else
      let r := d.route w
      if d.module = s.module.toNat then (d.q * 16 + r.1, r.2)
      else (moduleEnd d.module, (d.q * 16 + r.1) * 2 ^ 17 + r.2)
  if n = 16 then [one 0, one 1] else [one 0]

/-- Byte ranges an access touches, for same-address coherence (R136): offsets are reduced by the modulus of the pool they
reach (R21), another module's by that of the issuing core, whose partition word its cores share (R357). -/
def State.placeBytes (s : State) (places : List (Nat × Nat)) (n : Nat) : List (Nat × Nat) :=
  places.map (fun p =>
    let off := if p.1 < 2 ^ 20 then s.reduce p.1 p.2
      else if p.1 < 2 ^ 21 then p.2 % 2 ^ 16
      else p.2 / 2 ^ 17 * 2 ^ 17 + s.reduce s.curCore (p.2 % 2 ^ 17)
    (p.1 * 2 ^ 40 + off, min n 8))

/-- Two lists of byte ranges have a common byte. -/
def overlap (a b : List (Nat × Nat)) : Bool :=
  a.any (fun x => b.any (fun y => decide (x.1 < y.1 + y.2) && decide (y.1 < x.1 + x.2)))

/-- An own-pool offset lies in the gap of the thread's pool (R21, R31). -/
def State.ownGap (s : State) (off : Nat) : Bool :=
  if s.onGeyser then decide (0xC000 ≤ off) && s.cur.pre.priv != 2 else s.inGap s.curCore off

/-! ## Stalls (R48, R136, R139, R163) -/

/-- Outstanding results of a kind. -/
def Frame.countKind (f : Frame) (k : OutKind) : Nat := (f.outs.filter (fun o => o.kind == k)).length

/-- A FENCE holds a CSUB or CUNSUB, which an acquire does not (R139, R261). -/
def State.subHeld (s : State) : Bool := ((s.cf).fenceAll ++ (s.cf).fenceStore).any s.unperf.contains

/-- Accesses that a FENCE orders before the thread's engine commands, and that are not performed. A FENCE at thread scope
orders nothing toward them: the thread's instance does not hold its copies and commands (R131, R139). -/
def State.engineAfter (s : State) : List Nat := (s.cf).fenceEngine.filter s.unperf.contains

/-- A FENCE holds an array command at issue (R139). -/
def State.engineHeld (s : State) : Bool := s.engineAfter.any (s.cf).fenceAll.contains

/-- An access of the thread in issue waits to be sent, for its release (R144). -/
def State.unsent (s : State) (out : Nat) : Bool :=
  s.net.any (fun p => p.sender == s.cur.fk && !p.after.isEmpty && packetAccess p == out)

/-- Issue stalls: a plain access while one is outstanding, a fifth RX access, a ninth XLD or XST, a third XPUSH, an
access held by a FENCE, and an access to a byte of an unperformed access that it could overtake. -/
def State.accStalls (s : State) (kind : OutKind) (cls : AccClass) (bytes : List (Nat × Nat)) (atIssue : Bool) : Bool :=
  let f := s.cf
  (match kind with
   | .plain => f.outs.any (fun o => o.kind == .plain)
   | .rx => decide (4 ≤ f.countKind .rx)
   | .x => decide (8 ≤ f.countKind .x)
   | .xpush => decide (2 ≤ f.countKind .xpush)
   | .other => false) ||
  s.fenceHolds cls ||
  f.outs.any (fun o => (o.fe || atIssue || s.unsent o.id) && s.unperf.contains o.id && overlap o.bytes bytes)

/-! ## Issue -/

/-- Charges an access: class 4 per 8 bytes of the own pool, class 5 per hop elsewhere (R426). -/
def State.chargeAcc (s : State) (own : Bool) (places : List (Nat × Nat)) : State :=
  if own then s.charge s.cur.fk 4 places.length
  else s.charge s.cur.fk 5 ((places.map (fun p => hops (frameEnd s.cur.fk) p.1)).sum)

/-- The word accesses of an access: op, places, size, data low and high, expected value, result number. -/
def wordAccs (op : AccOp) (places : List (Nat × Nat)) (n : Nat) (lo hi expect : Word) (out : Nat) : List WordAcc :=
  match places with
  | [p] => [⟨op, p.2, n, lo, expect, 0, out⟩]
  | [p, r] => [⟨op, p.2, 8, lo, expect, 0, out⟩, ⟨op, r.2, 8, hi, expect, 1, out⟩]
  | _ => []

/-- Issues a fixed-latency own-pool access: performed one turn later, its destination readable then (R250). OOR is set
at issue (R25). -/
def State.issueOwn (s : State) (op : AccOp) (d : Dec) (n : Nat) (lo hi : Word) (dst : Option Nat) : State :=
  let places := s.wordPlaces d n
  let gap := s.ownGap d.off
  let r := (((s.stickyIf d.misal bitMisal).stickyIf gap bitOor).chargeAcc true places).fresh
  let x : Delayed := ⟨s.cycle + 8, r.1, s.cur.fk, frameEnd s.cur.fk, wordAccs op places n lo hi 0 r.1, gap, dst⟩
  let s1 := { r.2 with delayed := r.2.delayed ++ [x], unperf := r.1 :: r.2.unperf }
  match dst with
  | some k => s1.upd (fun f => f.setReady k (s.cycle + 8))
  | none => s1

/-- Sends one word access, or refuses it at once when no route leads to its module (R26). -/
def sendWord (fk out : Nat) (after : List Nat) (s : State) (x : (Nat × Nat) × WordAcc) : State :=
  let e := x.1.1
  if 2 ^ 23 ≤ e && !s.hasRoute (e - 2 ^ 23) then
    ((s.refuse (frameEnd fk) (s.frameTag fk)).performed out).returnWord fk out x.2.part 0 false true
  else s.sendFrom fk e 0 after (.access x.2)

/-- Issues an asynchronous access: one message for each word to the port engine of its core (R17, R147). -/
def State.issueRemote (s : State) (op : AccOp) (kind : OutKind) (cls : AccClass) (d : Dec) (n : Nat)
    (lo hi expect : Word) (dst : Option Nat) (after : List Nat) (acquire fe : Bool) : State :=
  let places := s.wordPlaces d n
  let fk := s.cur.fk
  let r := ((s.stickyIf d.misal bitMisal).chargeAcc (d.view == 0) places).fresh
  let o : Outst := { id := r.1, kind, cls, dst, need := places.length, bytes := s.placeBytes places n, fe }
  let gap := d.view == 0 && s.onGeyser && s.ownGap d.off
  let accs := wordAccs op places n lo hi expect r.1
  let accs1 := if gap then accs.map (fun a => { a with size := 0 }) else accs
  let s1 := r.2.addOut o
  let s2 := { s1 with unperf := List.replicate places.length r.1 ++ s1.unperf }
  let s3 := if acquire then s2.upd (fun f => { f with acquires := r.1 :: f.acquires }) else s2
  (places.zip accs1).foldl (sendWord fk r.1 after) s3

/-- The access has the fixed own-pool latency (R17). -/
def State.isOwnPlain (s : State) (d : Dec) : Bool := d.view == 0 && !s.cur.rx

/-! ## Loads and stores (R251) -/

/-- The uncorrectable error that an own-pool access meets, by its key, and whether it is lasting (R56, R376, R429). -/
def State.ownError (s : State) (op : AccOp) (d : Dec) (n : Nat) : Option (Nat × Bool) :=
  if d.view ≠ 0 ∨ s.ownGap d.off then none
  else if s.onGeyser then
    if accReadsWord op then s.firstError ((s.wordPlaces d n).map (fun p => geyserKey s.curCore p.2)) else none
  else
    s.firstError ((s.wordPlaces d n).map (fun p =>
      let off := s.reduce p.1 p.2
      accKeys op (accWaits op (s.isFull p.1 off)) p.1 off)).flatten

/-- A lasting error at an own-pool access, a register read or a pop raises ECC precisely (R376). Storage outside the pools, a
FIFO or a register of a Geyser's file, has no pool offset: that value is free. -/
def State.eccTrap (s : State) (key : Nat) : State :=
  let at_ : Word × State := if keyInPool key then (natWord (keyOffset key), s) else s.draw
  (at_.2.lasting (keyEnd key) (s.frameTag s.cur.fk) (at_.1.toNat % 2 ^ 56)).trap { cause := 0x12, eval := at_.1 }

/-- A transient error is corrected (R429). -/
def State.heal (s : State) (e : Option (Nat × Bool)) : State :=
  match e with
  | some (key, false) => s.transient (endPos (frameEnd s.cur.fk)).1 key
  | _ => s

/-- A plain or relaxed access of the thread in issue. -/
def plainAccess (s : State) (op : AccOp) (cls : AccClass) (am : AMode) (sum : Word) (n : Nat) (lo hi : Word)
    (dst : Option Nat) : Out :=
  match s.decodeOperand am sum n with
  | .error t => .next (s.trap t)
  | .ok d =>
    let own := s.isOwnPlain d
    let kind : OutKind := if s.cur.rx then .rx else .plain
    if s.accStalls kind cls (s.placeBytes (s.wordPlaces d n) n) own then .next s.retry
    else
      match s.ownError op d n with
      | some (key, true) => .next (s.eccTrap key)
      | e =>
        if own then .next ((s.heal e).issueOwn op d n lo hi dst)
        else .next ((s.heal e).issueRemote op kind cls d n lo hi 0 dst [] false false)

def execLd (rt rb : BitVec 6) (am : AMode) (sz : Size) (off : BitVec 16) (s : State) : Out :=
  plainAccess s .load .load am (s.accSum rb off) (szBytes sz) 0 0 (some rt.toNat)

def execSt (rt rb : BitVec 6) (am : AMode) (sz : Size) (off : BitVec 16) (s : State) : Out :=
  plainAccess s .store .store am (s.accSum rb off) (szBytes sz) (s.pg rt) 0 none

def execVld (vt : BitVec 5) (rb : BitVec 6) (am : AMode) (off : BitVec 16) (s : State) : Out :=
  plainAccess s .load .load am (s.accSum rb off) 16 0 0 (some (64 + vt.toNat))

def execVst (vt : BitVec 5) (rb : BitVec 6) (am : AMode) (off : BitVec 16) (s : State) : Out :=
  plainAccess s .store .store am (s.accSum rb off) 16 ((s.pv vt).extractLsb' 0 64) ((s.pv vt).extractLsb' 64 64) none

/-! ## Full/empty operations (R49 to R54, R252) -/

/-- On a Geyser core full/empty operations raise ILLEGAL with c.eval 0. -/
def feTrap (s : State) (am : AMode) (sum : Word) (n : Nat) : Option TrapRec :=
  if s.onGeyser then some { cause := 0x01, eval := 0 }
  else match s.decodeOperand am sum n with | .error t => some t | .ok _ => none

/-- Class of a full/empty operation. -/
def feClass (op : AccOp) : AccClass := match op with | .sts => .store | _ => .load

/-- Issue of a full/empty operation stalls as a plain access does. -/
def feStalls (s : State) (op : AccOp) (d : Dec) (n : Nat) : Bool :=
  !s.waitStands 0 && s.accStalls .plain (feClass op) (s.placeBytes (s.wordPlaces d n) n) (d.view == 0)

/-- The scope at which a full/empty operation synchronises (R140): cluster, or the smallest of die, module and domain that
holds both the thread and the word's core. -/
def State.feScope (s : State) (d : Dec) : Nat :=
  if d.view = 0 then 2
  else if d.module ≠ s.module.toNat then 6
  else if d.q = s.curCore / 16 then 2
  else if d.q / 128 = s.curCore / 2048 then 3
  else 4

/-- Begins an own-pool LDS, LDSP or STS: it is performed at once, or joins its word's wait queue (R51, R52). A gap word
does not wait (R22). An STS is a release: it begins once every earlier access of the thread has been performed (R140). -/
def feAcquire (s : State) (op : AccOp) (d : Dec) (n : Nat) (data : Word) : State :=
  if s.waitStands 0 || d.view != 0 then s
  else if op == .sts && s.releaseStalls then s.awaitRelease
  else
    let k := s.curCore
    let s0 := ((s.heal (s.ownError op d n)).stickyIf d.misal bitMisal).chargeAcc true [(k, d.off)]
    if s.inGap k d.off then (s0.sticky bitOor).hold 0 0
    else
      let off := s.reduce k d.off
      if accWaits op (s.isFull k off) then
        let r := s0.fresh
        let w : Waiter := ⟨.thread s.cur.fk, op, d.off, n, data, r.1⟩
        ({ r.2 with unperf := r.1 :: r.2.unperf }.addWait 0).enqueueWaiter k off w
      else
        let r := s0.bankServe k ⟨op, d.off, n, data, 0, 0, 0⟩
        r.1.hold 0 r.2

/-- LDS, LDSP or STS. -/
def feAccess (s : State) (op : AccOp) (am : AMode) (sum : Word) (n : Nat) (data : Word) (dst : Option (BitVec 6)) :
    Out :=
  match feTrap s am sum n, s.decodeOperand am sum n with
  | some t, _ => .next (s.trap t)
  | none, .error t => .next (s.trap t)
  | none, .ok d =>
    match scopeTrap s (s.feScope d), (if s.waitStands 0 then none else s.ownError op d n) with
    | some t, _ => .next (s.trap t)
    | none, some (key, true) => .next (s.eccTrap key)
    | none, _ =>
    if feStalls s op d n then .next s.retry
    else if d.view = 0 then
      let s1 := feAcquire s op d n data
      if s1.acquired then .next (match dst with | some rt => s1.setG rt (s1.heldValue 0) | none => s1)
      else .next s1.parkInPlace
    else
      .next ((s.clampScope (s.feScope d)).issueRemote op .plain (feClass op) d n data 0 0 (dst.map (·.toNat))
        (if op == .sts then s.accIds s.cur.fk else []) (op != .sts) true)

def execLds (rt rb : BitVec 6) (am : AMode) (sz : Size) (off : BitVec 16) (s : State) : Out :=
  feAccess s .lds am (s.accSum rb off) (szBytes sz) 0 (some rt)

def execLdsp (rt rb : BitVec 6) (am : AMode) (sz : Size) (off : BitVec 16) (s : State) : Out :=
  feAccess s .ldsp am (s.accSum rb off) (szBytes sz) 0 (some rt)

def execSts (rt rb : BitVec 6) (am : AMode) (sz : Size) (off : BitVec 16) (s : State) : Out :=
  feAccess s .sts am (s.accSum rb off) (szBytes sz) (s.pg rt) none

/-- FESET: a plain access that sets the word's state. -/
def feset (s : State) (op : AccOp) (am : AMode) (sum : Word) (n : Nat) : Out :=
  match feTrap s am sum n with
  | some t => .next (s.trap t)
  | none => plainAccess s op .store am sum n 0 0 none

def execFesetFull (rb : BitVec 6) (am : AMode) (sz : Size) (off : BitVec 16) (s : State) : Out :=
  feset s .fesetFull am (s.accSum rb off) (szBytes sz)

def execFesetEmpty (rb : BitVec 6) (am : AMode) (sz : Size) (off : BitVec 16) (s : State) : Out :=
  feset s .fesetEmpty am (s.accSum rb off) (szBytes sz)

/-! ## Atomics and FENCE (R253 to R256) -/

/-- An AMO or CAS: executed by the port engine of the target core, its own pool's included. -/
def atomic (s : State) (op : AccOp) (am : AMode) (sum : Word) (n : Nat) (data expect : Word) (rt : BitVec 6)
    (o : Ord) : Out :=
  match scopeTrap s (ordScope o), s.decodeOperand am sum n with
  | some t, _ => .next (s.trap t)
  | none, .error t => .next (s.trap t)
  | none, .ok d =>
    let kind : OutKind := if s.cur.rx then .rx else .plain
    if s.accStalls kind .atomic (s.placeBytes (s.wordPlaces d n) n) false then .next s.retry
    else match s.ownError op d n with
    | some (key, true) => .next (s.eccTrap key)
    | e => .next (((s.heal e).clampScope (ordScope o)).issueRemote op kind .atomic d n data 0 expect (some rt.toNat)
      (if o.rel then s.accIds s.cur.fk else []) o.acq false)

def execAmo (rt rb rc : BitVec 6) (am : AMode) (dw : Bool) (op : AmoOp) (o : Ord) (off : BitVec 32) (s : State) : Out :=
  atomic s (.amo op) am (s.accSum rb off) (if dw then 8 else 4) (s.pg rc) 0 rt o

def execCas (rt rb rc : BitVec 6) (am : AMode) (dw : Bool) (o : Ord) (off : BitVec 32) (s : State) : Out :=
  atomic s .cas am (s.accSum rb off) (if dw then 8 else 4) (s.pg rc) (s.pg rt) rt o

/-- FENCE issues without waiting; it records which accesses later ones wait for (R139), and at core scope or wider also for
the thread's copies and array commands (R131). -/
def execFence (o : Ord) (s : State) : Out :=
  match scopeTrap s o.scope.toNat with
  | some t => .next (s.trap t)
  | none =>
    let all := s.accIds s.cur.fk
    let loads := (((s.cf).outs.filter (fun x => x.cls == .load || x.cls == .atomic)).map (·.id)).filter all.contains
    .next ((s.clampScope o.scope.toNat).upd (fun f =>
      let ids := if o.acq && !o.rel then loads else all
      let g := if o.scope.toNat = 0 then f else { f with fenceEngine := ids ++ f.fenceEngine }
      if o.rel && !o.acq then { g with fenceStore := ids ++ g.fenceStore } else { g with fenceAll := ids ++ g.fenceAll }))

/-! ## The performance of an own-pool access one turn after issue (R250) -/

/-- Performs one word of a delayed access. -/
def delayedWord (x : Delayed) (r : State × List Word) (a : WordAcc) : State × List Word :=
  if x.gap then (r.1, r.2 ++ [0])
  else
    let b := if 2 ^ 20 ≤ x.at_end then r.1.geyserBank (x.at_end - 2 ^ 20) a else r.1.bankServe x.at_end a
    (b.1, r.2 ++ [b.2])

/-- Performs a delayed access: its words at the bank, then its destination. -/
def State.performDelayed (s : State) (x : Delayed) : State :=
  let r := x.accs.foldl (delayedWord x) (s, [])
  let s1 := r.1.performed x.id
  match x.dst with
  | none => s1
  | some k =>
    s1.updFrame x.frame (fun f =>
      if k < 64 then f.wg k (r.2.getD 0 0) else f.wv (k - 64) (r.2.getD 1 0 ++ r.2.getD 0 0))

/-- Performs every delayed access whose cycle has come, in the order of issue. -/
def State.flushDelayed (s : State) : State :=
  let now := s.delayed.filter (fun x => decide (x.at_ ≤ s.cycle))
  let s1 := { s with delayed := s.delayed.filter (fun x => !decide (x.at_ ≤ s.cycle)) }
  now.foldl State.performDelayed s1

/-- The flags of results that are readable from a cycle on are set in c.estat (R271). -/
def Frame.takeFlags (f : Frame) (cyc : Nat) : Frame :=
  if f.flagsDue.isEmpty then f
  else { f with
    estat := (f.flagsDue.filter (fun x => decide (x.1 ≤ cyc))).foldl (fun m x => m ||| x.2) f.estat,
    flagsDue := f.flagsDue.filter (fun x => !decide (x.1 ≤ cyc)) }

/-- Sets the flags of every result that has become readable. -/
def State.flushFlags (s : State) : State := { s with frames := s.frames.mapVal (fun f => f.takeFlags s.cycle) }

/-- Lets reads see the TABW writes whose cycle has come (R187). -/
def State.flushTabs (s : State) : State :=
  let now := s.tabWrites.filter (fun x => decide (x.at_ ≤ s.cycle))
  let s1 := { s with tabWrites := s.tabWrites.filter (fun x => !decide (x.at_ ≤ s.cycle)) }
  now.foldl (fun s w => s.updCore w.core (fun c => applyTab c w)) s1

end Sys2Proof.Machine
end

