-- ==== Sys2Proof/Machine/Tasks.lean ====
section
/-! DEFINITION. Task, future and message instructions and the events they set in motion (R166 to R176, R329 to
R355). -/

namespace Sys2Proof.Machine

/-! ## Markers and asynchronous results -/

/-- The end of an implicit switch marker (R331, R160): nothing is pending any more. -/
def State.markerEnd (s : State) : State :=
  s.upd (fun f => { f with pend := [], due := f.due ++ f.dueMark, dueMark := [], reply := none, atMarker := true })

/-- An asynchronous result in a g register and a predicate; it is made when the answer arrives. -/
def State.expect (s : State) (rd : BitVec 6) (pd : BitVec 4) : Nat × State :=
  let r := s.fresh
  let s1 := r.2.addOut { id := r.1, kind := .other, cls := .other, dst := some rd.toNat, pd := pd.toNat }
  (r.1, s1.upd (fun f => f.setPend (128 + pd.toNat)))

/-- The formats of a frame packed for a spawn message. -/
def packFormats (f : Frame) : Word := f.scale.setWidth 64 <<< 42 ||| f.fmtb.setWidth 64 <<< 21 ||| f.fmta.setWidth 64

/-- A trapping form waits in place for the Lamplighter's answer and then completes or traps (R332). -/
def State.trappingForm (s : State) (rd : BitVec 6) (pd : BitVec 4) (eval : Word → Word) (ask : Nat → State → State)
    (fin : State → State) : State :=
  match (s.cf).reply with
  | some (.value v b) => fin (((s.upd (fun f => { f with reply := none })).setG rd v).setP pd (boolP b))
  | some (.trap c e) => (s.upd (fun f => { f with reply := none })).trap { cause := c, eval := eval e }
  | _ =>
    if (s.cf).waits.contains 6 then s.parkInPlace
    else
      let r := s.fresh
      ((ask r.1 (r.2.upd (fun f => { f with asked := r.1 }))).addWait 6).parkInPlace

/-- A FENCE that precedes it holds an operation that asks a Lamplighter and has not asked yet (R139). -/
def State.askHeld (s : State) : Bool :=
  !(s.cf).waits.contains 6 && (s.cf).reply.isNone && s.fenceHolds .atomic

/-- A form of the SPAWN family, held by a FENCE that precedes it (R139): the trapping form waits, the plain form's result is asynchronous (R332). -/
def spawnForm (s : State) (t : Bool) (rd : BitVec 6) (pd : BitVec 4) (eval : Word → Word) (ask : Nat → State → State)
    (fin : State → State) : Out :=
  if s.askHeld then .next s.retry
  else if t then .next (s.trappingForm rd pd eval ask fin)
  else
    let r := s.expect rd pd
    .next (fin (ask r.1 r.2))

/-! ## SPAWN (R334 to R336) -/

/-- The cluster a SPAWN names, with its module; the issuing cluster in deterministic mode (R336). -/
def State.spawnTarget (s : State) (b : Word) : Nat × Nat :=
  if b = 0 ∨ s.frameDet s.cur.fk then (s.module.toNat, s.curCore / 16)
  else (natBits b.toNat 46 10, natBits b.toNat 36 10)

/-- The trap of SPAWN's target operand. -/
def spawnTrap (b : Word) : Option TrapRec :=
  if b ≠ 0 ∧ natBits b.toNat 56 8 ≠ 0xF3 then some { cause := 0x04, eval := b } else none

/-- The named position takes a spawn: a module with a route; in this module a cluster with a core of the partition. -/
def State.spawnReach (s : State) (t : Nat × Nat) : Bool :=
  if t.1 = s.module.toNat then
    (rangeFrom (t.2 * 16) 16).any (fun k => s.coreOf k (s.frameTag s.cur.fk) (s.frameEpoch s.cur.fk))
  else s.hasRoute t.1

/-- What a task spawned by the thread in issue takes over from it (R178, R336, R358). -/
def State.heritage (s : State) : Heritage := ⟨packFormats s.cur.pre, (s.cf).lseq, (s.cf).lane⟩

/-- Sends a request to a Lamplighter after the release of the thread (R143). -/
def State.askLamp (s : State) (dst : Nat) (body : Body) : State := s.sendFrom s.cur.fk dst 2 (s.accIds s.cur.fk) body

/-- Sends the record's place and the spawner's formats to the target Lamplighter after the release. -/
def State.spawnSend (s : State) (t : Nat × Nat) (a : Word) (out : Nat) (trap : Bool) : State :=
  let dst := if t.1 = s.module.toNat then lampEnd t.2 else moduleEnd t.1
  let off := a.toNat % 2 ^ 17 / 8 * 8
  s.askLamp dst (.spawn (poolKey s.curCore off) t.2 s.heritage out trap)

/-- The answer null of an operation that creates nothing. -/
def State.nullAnswer (s : State) (out : Nat) (xpart : Bool) : State :=
  s.answer (lampEnd (s.curCore / 16)) s.cur.fk out (.value 0 false) xpart

def execSpawn (rd ra rb : BitVec 6) (pd : BitVec 4) (t : Bool) (s : State) : Out :=
  match spawnTrap (s.pg rb) with
  | some x => .next (s.trap x)
  | none =>
    let target := s.spawnTarget (s.pg rb)
    let ask (out : Nat) (s : State) : State :=
      if s.spawnReach target then s.spawnSend target (s.pg ra) out t
      else (s.refuse (frameEnd s.cur.fk) (s.frameTag s.cur.fk)).nullAnswer out true
    spawnForm s t rd pd (fun _ => s.pg rb) ask (fun s => s.stickyIf ((s.pg ra).toNat % 8 != 0) bitMisal)

/-- A dword of a spawn record at an own-pool offset; bytes in the gap read as zero (R21, R336). -/
def State.ownDword (s : State) (k off : Nat) : Word :=
  natWord (bytesNat ((rangeFrom off 8).map (fun o =>
    if s.inGap k o then 0 else s.pool.read (poolKey k (s.reduce k o)))))

/-- The global blocked pointer of a join record (R334). -/
def joinPtr (d : Word) : Word :=
  let x := d.toNat
  if natBits x 41 1 = 0 then 0
  else natWord (0xF3 * 2 ^ 56 + natBits x 31 10 * 2 ^ 46 + natBits x 28 3 * 2 ^ 43 + natBits x 21 7 * 2 ^ 36 +
    natBits x 17 4 * 2 ^ 32 + x % 2 ^ 17)

/-- The extent of a present descriptor in the pool: offset and length (R335). -/
def tileExtent (t : Word × Word) : Nat × Nat :=
  let d := t.2.toNat
  (natBits d 42 17, (natBits d 0 10 + 1) * (natBits d 10 12 * 8))

/-- The descriptor is present. -/
def tilePresent (t : Word × Word) : Bool := natBits t.2.toNat 10 12 != 0

/-- A descriptor that makes its record malformed (R336). -/
def tileBad (size : Nat) (t : Word × Word) : Bool :=
  natBits t.1.toNat 56 8 != 0 || natBits t.2.toNat 59 5 != 0 ||
    (tilePresent t && decide (size < (tileExtent t).1 + (tileExtent t).2))

/-- A field of a record's control or descriptors that must be zero is not (R336). -/
def reservedSet (ctl : Word) (tiles : List (Word × Word)) : Bool :=
  natBits ctl.toNat 48 16 != 0 ||
    tiles.any (fun t => natBits t.1.toNat 56 8 != 0 || natBits t.2.toNat 59 5 != 0)

/-- The task of a spawn record with dwords d, on cores whose scratchpad has a size (R334 to R336). -/
def recordTask (d : Nat → Word) (size : Nat) (tag : BitVec 10) (h : Heritage) : Task :=
  let c := (d 7).toNat
  let tiles := [(d 8, d 9), (d 10, d 11), (d 12, d 13), (d 14, d 15)]
  { id := 0, entry := d 6, args := [d 0, d 1, d 2, d 3, d 4, d 5], prio := BitVec.ofNat 2 (natBits c 42 2),
    sdom := natBits c 44 4, lseq := h.lseq, join := joinPtr (d 7), tag, tiles, fmta := h.formats.extractLsb' 0 21,
    fmtb := h.formats.extractLsb' 21 21, scale := h.formats.extractLsb' 42 21, lane := h.lane,
    malformed := reservedSet (d 7) tiles || tiles.any (tileBad size) }

/-- A fresh task identifier for a task. -/
def State.newTask (s : State) (t : Task) : State × Task := (s.fresh.2, { t with id := s.fresh.1 })

/-! ## SPAWNI, SPAWNR and GROW (R337 to R340) -/

def execSpawni (rd ra rb : BitVec 6) (pd : BitVec 4) (t : Bool) (prio : BitVec 2) (nt : Bool) (s : State) : Out :=
  let ask (out : Nat) (s : State) : State :=
    s.askLamp (lampEnd (s.curCore / 16)) (.spawni (s.pg ra) (s.pg rb) prio nt s.heritage out t)
  spawnForm s t rd pd (fun _ => 0) ask id

/-- The tasks of one tile record (R339): tiles j to j + n − 1. -/
def recordTiles (tmpl : Task) (grp start count flags wptr optr : Word) (j : Nat) : Nat → List Task
  | 0 => []
  | n + 1 =>
    let row := start.toNat + 32 * j
    let r := min 32 (count.toNat - 32 * j)
    let step (i : Nat) (t : Word × Word) : Word × Word :=
      if i = 0 ∧ tilePresent t then
        let va := (t.1.toNat + row * 8 * natBits t.2.toNat 22 20) % 2 ^ 56
        (natWord va, (t.2 &&& ~~~ (0x3FF : Word)) ||| natWord (r - 1))
      else if i = 1 ∧ tilePresent t then (wptr &&& maskW 56, t.2)
      else t
    let tiles := (tmpl.tiles.zip (rangeFrom 0 4)).map (fun x => step x.2 x.1)
    { tmpl with args := [grp, natWord row, natWord r, wptr, optr, flags], tiles,
                rowmask := BitVec.ofNat 32 (2 ^ r - 1) } ::
      recordTiles tmpl grp start count flags wptr optr (j + 1) n

/-- The tasks that n tile records from an offset ask for (R338, R339). -/
def State.tileTasks (s : State) (k off : Nat) (tmpl : Task) : Nat → List Task
  | 0 => []
  | n + 1 =>
    let d (i : Nat) : Word := s.ownDword k (off + 8 * i)
    let lo (x : Word) : Word := x &&& 0xFFFFFFFF
    let c := lo (d 1)
    recordTiles tmpl (lo (d 0)) (d 0 >>> 32) c (d 1 >>> 32) (d 2) (d 3) 0 ((c.toNat + 31) / 32) ++
      s.tileTasks k (off + 32) tmpl n

/-- Gives tasks their identifiers and checks each one's descriptors (R336). -/
def numberTasks (size : Nat) (s : State) : List Task → State × List Task
  | [] => (s, [])
  | t :: ts =>
    let r := s.newTask { t with malformed := t.malformed || t.tiles.any (tileBad size) }
    let rs := numberTasks size r.1 ts
    (rs.1, r.2 :: rs.2)

def execSpawnr (rd ra rb : BitVec 6) (pd : BitVec 4) (t : Bool) (s : State) : Out :=
  let a := (s.pg ra).toNat % 2 ^ 17
  let b := (s.pg rb).toNat % 2 ^ 17
  let ask (out : Nat) (s : State) : State :=
    s.askLamp (lampEnd (s.curCore / 16)) (.spawnr s.curCore (a / 8 * 8) (b / 8 * 8) s.heritage out t)
  spawnForm s t rd pd id ask (fun s => s.stickyIf (a % 8 != 0 || b % 8 != 0) bitMisal)

/-- The launch of a partition with a number. -/
def State.launch (s : State) (tag lseq : Nat) : Option Launch := (s.part tag).launches.find? (fun l => l.lseq == lseq)

/-- GROW at the root (R340, R359): the new count and whether it was raised. -/
def State.growLaunch (s : State) (tag lseq n : Nat) : State × Word × Bool :=
  match s.launch tag lseq with
  | none => (s, 0, false)
  | some l =>
    if 2 ^ 32 ≤ l.count + n ∨ (l.next = l.count ∧ l.live = 0) then (s, natWord l.count, false)
    else
      let h (x : Launch) : Launch := if x.lseq == lseq then { x with count := x.count + n, asking := [] } else x
      let s1 := s.updPart tag (fun p => { p with launches := p.launches.map h })
      let s2 := l.asking.foldl (fun s q => s.later 8 (.launchRangeRequest tag lseq q))
        ((s1.partClusters tag).foldl (fun s q => s.later 8 (.taskDispatch q)) s1)
      (s2, natWord (l.count + n), true)

/-- The root of a partition: the Lamplighter of the cluster that holds logical core 0, or the module that holds it (R356). -/
def State.rootEnd (s : State) (tag other : Nat) : Nat :=
  match (s.part tag).logical[0]? with
  | none => lampEnd other
  | some e =>
    let m := natBits e.toNat 14 10
    if m = s.module.toNat then lampEnd (e.toNat % 2 ^ 14 / 16) else moduleEnd m

def execGrow (rd ra : BitVec 6) (pd : BitVec 4) (s : State) : Out :=
  let a := s.pg ra
  if a >>> 32 ≠ 0 then .next (s.illegal a)
  else if s.askHeld then .next s.retry
  else
    let r := s.expect rd pd
    .next (r.2.askLamp (s.rootEnd (s.frameTag s.cur.fk).toNat (s.curCore / 16)) (.grow (s.cf).lseq a.toNat r.1))

/-! ## Requests at a Lamplighter (R336 to R340) -/

/-- A cluster has a core of a partition. -/
def State.clusterOf (s : State) (q : Nat) (tag : BitVec 10) (epoch : BitVec 6) : Bool :=
  (rangeFrom (q * 16) 16).any (fun k => s.coreOf k tag epoch)

/-- Dword i of the record of a SPAWN: in the spawner's pool, or, in another module's, a free value (log entry 21). -/
def State.spawnDword (s : State) (p : Packet) (rec i : Nat) : Word :=
  if p.src < 2 ^ 23 then s.ownDword (rec / 2 ^ 17) (rec % 2 ^ 17 + 8 * i)
  else natWord (bytesNat ((rangeFrom 0 8).map (fun j => Config.remoteByte (rec + 8 * i + j) s.cycle)))

/-- Scratchpad size of the cores of a partition in a cluster, which all hold one partition word (R357). -/
def State.tileSize (s : State) (q : Nat) (p : Packet) : Nat :=
  if p.src < 2 ^ 20 then s.poolS p.src
  else s.poolS (((rangeFrom (q * 16) 16).find? (fun k => s.coreOf k p.tag p.epoch)).getD (q * 16))

/-- The task that a SPAWNI creates (R337). -/
def spawniTask (entry arg : Word) (prio : BitVec 2) (tag : BitVec 10) (h : Heritage) : Task :=
  { id := 0, entry, args := [arg], prio, lseq := h.lseq, tag, fmta := h.formats.extractLsb' 0 21,
    fmtb := h.formats.extractLsb' 21 21, scale := h.formats.extractLsb' 42 21, lane := h.lane }

/-- A SPAWNR at its Lamplighter, which reads count, template and records (R338, R339). -/
def State.takeSpawnr (s : State) (p : Packet) (q k tmpl list : Nat) (h : Heritage) (a : Asker) (t : Bool) : State :=
  let n := s.ownDword k list
  if n = 0 ∨ (4096 : Word) < n then s.reply (lampEnd q) p.tag a (.value 0 false) false false
  else
    let x := s.wordsSound p.tag (s.wordKeys k tmpl 16 ++ s.wordKeys k list (1 + 4 * n.toNat))
    if !x.2 then x.1
    else
      let d (i : Nat) : Word := s.ownDword k (tmpl + 8 * i)
      let t0 := recordTask d (s.poolS k) p.tag h
      let base := { t0 with malformed := reservedSet (d 7) t0.tiles }
      let r := numberTasks (s.poolS k) x.1 (s.tileTasks k (list + 8) base n.toNat)
      r.1.allocate q p.tag base.prio r.2.length true true (.spawnr r.2 a t)

/-- A Lamplighter carries out a request (R336 to R340). -/
def State.takeSpawn (s : State) (p : Packet) : State :=
  let q := p.dst - 2 ^ 21
  match p.body with
  | .spawn rec _ h out trap =>
    let k := rec / 2 ^ 17
    let x := if p.src < 2 ^ 23 then s.wordsSound p.tag (s.wordKeys k (rec % 2 ^ 17) 16) else (s, true)
    if !x.2 then x.1
    else
      let r := x.1.newTask (recordTask (s.spawnDword p rec) (s.tileSize q p) p.tag h)
      r.1.allocate q p.tag r.2.prio 1 true true (.spawn r.2 ⟨p.src, p.sender, out⟩ trap)
  | .spawni entry arg prio nt h out trap =>
    if nt then s.allocate q p.tag prio 1 false true (.spawnNt ⟨p.src, p.sender, out⟩ trap)
    else
      let r := s.newTask (spawniTask entry arg prio p.tag h)
      r.1.allocate q p.tag prio 1 true true (.spawn r.2 ⟨p.src, p.sender, out⟩ trap)
  | .spawnr k tmpl list h out trap => s.takeSpawnr p q k tmpl list h ⟨p.src, p.sender, out⟩ trap
  | .grow lseq n out =>
    let g := s.growLaunch p.tag.toNat lseq n
    g.1.reply p.dst p.tag ⟨p.src, p.sender, out⟩ (.value g.2.1 g.2.2) false false
  | _ => s

/-- The refusal of a request by the cluster that it names (R26, R336). -/
def State.refuseSpawn (s : State) (p : Packet) : State :=
  match bodyAsks p.body with
  | some out => (s.refuse p.dst p.tag).reply p.dst p.tag ⟨p.src, p.sender, out⟩ (.value 0 false) true false
  | none => s

/-- SPAWN_RECORD_READ: a request of the SPAWN family reaches its Lamplighter after the release of its thread: the record is
read and the task created, or it is refused (R336 to R340). -/
def execSpawnRecordRead (pid : Nat) (s : State) : Out :=
  match s.packet pid with
  | none => .next s
  | some p =>
    if !s.canArrive p || (s.part p.tag.toNat).scrubbing then .next (s.again (.spawnRecordRead pid))
    else if s.clusterOf (p.dst - 2 ^ 21) p.tag p.epoch then .next ((s.dropPacket pid).takeSpawn p)
    else .next ((s.dropPacket pid).refuseSpawn p)

/-! ## TOUCH, TOUCHQ, RESOLVE, CANCEL and FDROP (R330, R331, R341 to R345) -/

/-- Parks the thread in issue with its slot released (R156); a cancel request that stands wakes it at once and is taken
as at a switch marker (R173), and so does a watchdog that has expired (R372). -/
def State.parkReleased (s : State) (st : TaskState) : State :=
  let fk := s.cur.fk
  let s1 := (s.retry.upd (fun f => { f with state := st, pend := [], reply := none })).releaseSlot fk
  if ((s.cf).cancelDue && !(s.cf).intrap) || (s.cf).due.any (fun d => d.cause == 0x0D) then
    ((s1.withdraw fk).updFrame fk (fun f => { f with atMarker := true })).makeResumable fk
  else s1

/-- Parks a toucher with its slot released, or in place on a Geyser core (R156, R331). -/
def State.parkTouch (s : State) : State :=
  if s.onGeyser then ((s.upd (fun f => { f with reply := none })).addWait 6).parkInPlace
  else s.parkReleased .touch

/-- An operation on a future: held by a FENCE that precedes it (R139), it sends its message and waits, as at a marker, for every pending result and its own
reply; then it completes, traps, or joins the waiters of the entry. -/
def futureOp (s : State) (op : FutOp) (h : Word) (release : Bool) (done : Word → Bool → State → State) : Out :=
  let refused := !s.hasRoute (handleModule h)
  if s.askHeld then .next s.retry
  else match (if refused then some (Reply.value 0 false) else (s.cf).reply) with
  | none =>
    if (s.cf).waits.contains 6 then .next s.parkInPlace
    else
      let after := if release then s.accIds s.cur.fk else []
      let r := s.fresh
      let s1 := r.2.upd (fun f => { f with asked := r.1 })
      .next (((s1.sendFrom s.cur.fk (s.handleEnd h) 2 after (.future op h r.1)).addWait 6).parkInPlace)
  | some r =>
    if !(s.cf).outs.isEmpty then .next s.parkMarker
    else
      match r with
      | .parked => .next s.parkTouch
      | .trap c e => .next (s.markerEnd.trap { cause := c, eval := e })
      | .value v b =>
        let s1 := if refused then (s.sticky bitXpart).refuse (frameEnd s.cur.fk) (s.frameTag s.cur.fk) else s
        .next (done v b s1.markerEnd)

/-- FUTSTALE of an operand that names no future. -/
def staleHandle (s : State) (h : Word) : Out := .next (s.trap { cause := 0x07, eval := h })

def execTouch (rd ra : BitVec 6) (pd : BitVec 4) (c : Bool) (s : State) : Out :=
  let h := s.pg ra
  if handleOk h then futureOp s (.touch c) h false (fun v b t => (t.setG rd v).setP pd (boolP b)) else staleHandle s h

/-- TOUCHQ never parks on the entry and never traps. -/
def execTouchq (rd ra : BitVec 6) (s : State) : Out :=
  let h := s.pg ra
  if handleOk h then futureOp s .touchq h false (fun v _ t => t.setG rd v)
  else if !(s.cf).outs.isEmpty then .next s.parkMarker
  else .next (s.markerEnd.setG rd 0)

def execResolve (ra rb : BitVec 6) (pd : BitVec 4) (s : State) : Out :=
  let h := s.pg ra
  if handleOk h then futureOp s (.resolve (s.pg rb)) h true (fun _ b t => t.setP pd (boolP b)) else staleHandle s h

def execCancel (rd ra : BitVec 6) (s : State) : Out :=
  let h := s.pg ra
  if handleOk h then futureOp s .cancel h false (fun v _ t => t.setG rd v) else staleHandle s h

def execFdrop (ra : BitVec 6) (pd : BitVec 4) (s : State) : Out :=
  let h := s.pg ra
  if handleOk h then futureOp s .fdrop h false (fun _ b t => t.setP pd (boolP b)) else staleHandle s h

/-! ## Events at the entry (R168 to R171, R330, R341 to R346) -/

/-- The cluster whose queue holds a task, with the task. -/
def State.findTask (s : State) (id : Nat) : Option (Nat × Task) :=
  (s.clusters.filterMap (fun c => (c.2.tasks.find? (fun t => t.id == id)).map (fun t => (c.1, t)))).head?

/-- Abandons the prefetch copies of a task (R126). -/
def State.abandonPrefetch (s : State) (task : Nat) : State :=
  let h (c : Copy) : Copy :=
    match c.purpose with
    | .prefetch _ t => if t == task then { c with cancelled := true } else c
    | _ => c
  { s with copies := s.copies.mapVal h }

/-- Removes a queued task that ends: its prefetch copies are abandoned, and the task keeps its reserved region until the
last of them has completed (R125, R126, R367). -/
def State.removeQueued (s : State) (q : Nat) (t : Task) (st : FState) (v : Word) : State :=
  let s1 := (s.endQueued q t st v).abandonPrefetch t.id
  if t.prefetching.isEmpty then s1
  else
    let t1 := { t with cancelled := true, lseq := 0 }
    t.prefetching.foldl (fun s c => s.later 1 (.burstAdmission c))
      (s1.updCluster q (fun c => { c with tasks := c.tasks ++ [t1] }))

/-- CANCEL of a PENDING future: a queued producer is removed, a dispatched one gets its request (R170, R173). The frame of a
task that has ended, and whose retirement is on its way, may hold another task: that one gets no request, and the CANCEL
returns 1 as for any dispatched task (DESIGN CHOICE, log entry 109). -/
def State.cancelEntry (s : State) (key : Nat) : State :=
  match (s.future key).producer with
  | .none => s.settle key .cancelled 0
  | .queued id =>
    match s.findTask id with
    | none => s.settle key .cancelled 0
    | some (q, t) => (s.settle key .cancelled 0).removeQueued q t .cancelled 0
  | .frame fk =>
    if (s.frame fk).fut != s.mkHandle key (s.future key).gen || (s.frame fk).state == .free || (s.frame fk).state == .waitw then s
    else
    let s1 := s.updFrame fk (fun f => { f with cancelReq := true, cancelDue := f.cancelDue || !f.cancelReq })
    match (s.frame fk).state with
    | .touch | .waitm => ((s1.withdraw fk).updFrame fk (fun f => { f with atMarker := true })).makeResumable fk
    | .resumable => s1.updFrame fk (fun f => { f with atMarker := true })
    | _ => s1

/-- An operation of a thread on a current entry: the entry's state after it, and the reply. -/
def State.currentOp (s : State) (key : Nat) (a : Asker) (op : FutOp) : State × Reply :=
  let f := s.future key
  let pending := f.state == .pending
  match op with
  | .touch c =>
    if pending then
      (s.updFuture key (fun f => { f with waiters := f.waiters ++ [a], dropped := f.dropped || c }), .parked)
    else (if c then s.freeFuture key else s, touchReply f.state f.value)
  | .touchq => (s, .value (natWord (fstateCode f.state)) true)
  | .resolve v => if pending then (s.settle key .resolved v, .value 0 true) else (s, .value 0 false)
  | .cancel => if pending then (s.cancelEntry key, .value 1 true) else (s, .value 0 false)
  | .fdrop =>
    if pending then (s.updFuture key (fun f => { f with dropped := true }), .value 0 (!f.dropped))
    else (s.freeFuture key, .value 0 true)
  | _ => (s, .value 0 false)

/-- An operation with a handle of distance 1 to 15: only TOUCH reads the spill area (R171, R342 to R345). -/
def State.spilledOp (s : State) (tag : BitVec 10) (a : Asker) (op : FutOp) (h : Word) : State × Reply :=
  match op with
  | .touch c =>
    if (s.part tag.toNat).spill = 0 then (s, .trap 0x07 h)
    else
      let r := s.fresh
      let sp : Spill := ⟨r.1, handleCluster h, [], none, h, c, a, tag, [], false⟩
      ((r.2.updHub (fun hb => { hb with spills := hb.spills ++ [sp] })).later 16 (.spillReadCompletion r.1), .parked)
  | .touchq => (s, .value 5 true)
  | _ => (s, .value 0 false)

/-- A stale handle raises FUTSTALE; TOUCHQ gives 0. -/
def staleReply (op : FutOp) (h : Word) : Reply := match op with | .touchq => .value 0 false | _ => .trap 0x07 h

/-- A message on a future comes from the entry's owner in its epoch (R330, R396). -/
def State.ownsEntry (s : State) (p : Packet) (h : Word) : Bool :=
  let f := s.future (handleKey h)
  f.gen != 0x000F && f.owner == p.tag && p.epoch == (s.part p.tag.toNat).epoch && p.epoch != 0

/-- An operation of a thread at its entry: refused for a foreign owner, then by the handle's distance (R168, R330). -/
def State.entryOp (s : State) (p : Packet) (op : FutOp) (h : Word) (out : Nat) : State :=
  let a : Asker := ⟨p.src, p.sender, out⟩
  let key := handleKey h
  let f := s.future key
  let owned := s.ownsEntry p h
  let d := handleDist f h
  let r : State × Reply :=
    if !owned then (s.refuse p.dst p.tag, .value 0 false)
    else if handleCurrent f h then s.currentOp key a op
    else if 1 ≤ d ∧ d ≤ 15 then s.spilledOp p.tag a op h
    else (s, staleReply op h)
  r.1.send p.dst p.src 1 p.tag p.epoch p.sender [] (.futureReply p.sender out r.2 (!owned) false)

/-- A producer's retirement at the entry of its future (R170, R173): the entry is set, and the retirement is complete with
the state that the future has then; a producer of another module is told it. One of another epoch is refused (R396). -/
def State.retireMessage (s : State) (p : Packet) (h : Word) (out : Nat) (st : FState) (v : Word) : State :=
  if !s.ownsEntry p h then (s.refuse p.dst p.tag).endReached out none
  else
  let e := s.future (handleKey h)
  let final : Option FState :=
    if handleCurrent e h then some (if e.state == .pending then st else e.state) else none
  let s1 := s.retireEntry h st v
  if p.src < 2 ^ 23 then s1.endReached out final
  else s1.reply p.dst p.tag ⟨p.src, p.sender, out⟩ (.value (natWord ((final.map fstateCode).getD 0)) true) false false

/-- The port engine executes a message on a future. -/
def State.takeFuture (s : State) (p : Packet) : State :=
  match p.body with
  | .future op h out =>
    let x := s.wordsSound p.tag [futureErrKey (handleKey h)]
    if !x.2 then x.1
    else
      match op with
      | .retire v => x.1.retireMessage p h out .resolved v
      | .fault v => x.1.retireMessage p h out .faulted v
      | .cancelled => x.1.retireMessage p h out .cancelled 0
      | _ => x.1.entryOp p op h out
  | _ => s

/-- The endpoint belongs to the partition in its epoch (R396); a Lamplighter serves the partitions with a core of its
cluster. -/
def State.endOf (s : State) (e : Nat) (tag : BitVec 10) (epoch : BitVec 6) : Bool :=
  if e < 2 ^ 20 then s.coreOf e tag epoch
  else if 2 ^ 21 ≤ e then decide (2 ^ 22 ≤ e) || s.clusterOf (e - 2 ^ 21) tag epoch
  else (s.geyser (e - 2 ^ 20)).tag == tag && (s.geyser (e - 2 ^ 20)).epoch == epoch && epoch != 0

/-- A network interface refuses what its partition and epoch do not match (R396). -/
def State.checked (take : State → Packet → State) (s : State) (p : Packet) : State :=
  if s.endOf p.dst p.tag p.epoch then take s p else s.refuse p.dst p.tag

/-- A message that arrives at a compute core's port engine: tried again until it may be executed, parked while the core
is pre-empted, executed otherwise. No agent of a partition executes while a scrub of it runs (R404). -/
def arrive (s : State) (pid : Nat) (again : Instr) (park take : State → Packet → State) : Out :=
  match s.packet pid with
  | none => .next s
  | some p =>
    if !s.canArrive p || (s.part p.tag.toNat).scrubbing then .next (s.again again)
    else if decide (p.dst < 2 ^ 20) && (s.core p.dst).preempted && (s.core p.dst).tag == p.tag then .next (park s p)
    else .next (take (s.dropPacket pid) p)

def execFutureEvent (pid : Nat) (s : State) : Out :=
  arrive s pid (.futureEvent pid) (fun s p => s.parkMessage p.dst p) State.takeFuture

/-- A reply or a wake reaches its thread (R346); an operation served by another module has been performed. -/
def State.takeWake (s : State) (p : Packet) : State :=
  match p.body with
  | .futureReply fk out r x oor =>
    (if 2 ^ 23 ≤ p.src then s.performed out else s).deliverAnswer fk out r x oor
  | .wake fk out r => s.wakeThread fk out r
  | _ => s

def execFutureWake (pid : Nat) (s : State) : Out :=
  let isReply := match (s.packet pid).map Packet.body with | some (.futureReply ..) => true | _ => false
  arrive s pid (.futureWake pid) (fun s p => if isReply then (s.dropPacket pid).takeWake p else s.parkMessage p.dst p)
    (State.checked State.takeWake)

/-! ## Join records (R175, R176, R347) -/

/-- JOINI: the record pointer is decoded as an am = 3 operand; the record's port engine does the rest. -/
def execJoini (rd ra rb : BitVec 6) (prio : BitVec 2) (s : State) : Out :=
  let a := s.pg ra
  let b := s.pg rb
  match coreDecode s s.curCore .gen a 8 with
  | .error t => .next (s.trap t)
  | .ok d =>
    if a.toNat % 8 ≠ 0 then .next (s.illegal a)
    else if b >>> 32 ≠ 0 then .next (s.illegal b)
    else if s.fenceHolds .atomic then .next s.retry
    else
      let place := ((s.wordPlaces d 8).head?).getD (0, 0)
      let r := s.expect rd 0
      let s1 := { r.2 with unperf := r.1 :: r.2.unperf }
      let ptr := if d.view = 0 then natWord ((s.pcid s.curCore).toNat + d.off)
        else natWord (0xF3 * 2 ^ 56 + d.module * 2 ^ 46 + d.q * 2 ^ 36 + d.off / 2 ^ 17 * 2 ^ 32 +
          (if d.view = 2 then 2 ^ 31 else 0) + d.off % 2 ^ 17)
      if 2 ^ 23 ≤ place.1 && !s.hasRoute (place.1 - 2 ^ 23) then
        .next (((s1.refuse (frameEnd s.cur.fk) (s.frameTag s.cur.fk)).performed r.1).returnWord s.cur.fk r.1 0 0 false true)
      else
        .next (s1.sendFrom s.cur.fk place.1 2 [] (.joini (b.setWidth 32) prio (s.cf).lseq ptr r.1))

/-- The cluster that dispatches a continuation: its record's, or in deterministic mode that of its lane's core (R178). -/
def State.laneCluster (s : State) (tag q : Nat) (lane : Option Nat) : Nat :=
  match lane with
  | none => q
  | some l => ((s.logicalCore tag (l / 8)).map (· / 16)).getD q

/-- The reserved slot of a continuation's future becomes the continuation, in the cluster of its lane. Where CFUT names no
reserved slot any more, cancelled or written over, nothing is enqueued (DESIGN CHOICE, log entry 111). -/
def State.releaseContinuation (s : State) (q : Nat) (cfut : Word) (go : Task → Nat → Task) (dst : Nat) : State :=
  match (s.cluster q).tasks.find? (fun t => t.reservedOnly && t.fut == cfut) with
  | none => s
  | some t =>
    let s1 := s.updCluster q (fun c => { c with tasks := c.tasks.filter (fun x => x.id != t.id) })
    ((s1.updCluster dst (fun c => { c with tasks := c.tasks ++ [go t c.nextOrder] })).countLive t.tag t.lseq).later 1
      (.taskDispatch dst)

/-- The launches of a partition may have ended. -/
def State.checkLaunches (s : State) (tag : Nat) : State :=
  (s.part tag).launches.foldl (fun s l => s.later 1 (.launchCompletion tag l.lseq)) s

/-- The effect of a child's decrement on its record (R176). -/
def State.decrement (s : State) (p : Packet) : State :=
  match p.body with
  | .join ptr final lane =>
    if !s.coreOf p.dst p.tag p.epoch then s.refuse p.dst p.tag
    else
      let rd (o : Nat) : Word := recordDword s p.tag p.epoch p.dst ptr o
      let gap := (engineRead s p.dst p.tag p.epoch ptr (scratchOff ptr) 8).2.1
      let d := (rd 0).toNat
      let mark := if final = 3 then 2 ^ 34 else if final = 4 then 2 ^ 35 else 0
      let d1 := natWord (Nat.lor d mark)
      let count := d % 2 ^ 32
      let d2 := if count = 0 then d1 ||| natWord (2 ^ 36) else d1 - 1
      if gap then s
      else
        let x := s.wordsSound p.tag (recordKeys s p.dst ptr)
        if !x.2 then x.1
        else
          let s1 := setRecordDword x.1 p.tag p.epoch p.dst ptr 0 d2
          if count ≠ 1 then s1
          else
            let q := p.dst / 16
            s1.releaseContinuation q (rd 24) (fun t o => t.continuation (rd 8) (rd 16) d2 ptr lane o)
              (s.laneCluster p.tag.toNat q lane)
  | _ => s

/-- A child's decrement at its record (R176); its launch may have ended with it (R358). -/
def State.takeJoin (s : State) (p : Packet) : State := (s.decrement p).checkLaunches p.tag.toNat

def execJoinDecrement (pid : Nat) (s : State) : Out :=
  arrive s pid (.joinDecrement pid) (fun s p => s.parkMessage p.dst p) State.takeJoin

/-! ## Ending and waiting (R348 to R351) -/

/-- The end of the task in issue, as RETIRE and WAITW make it: a cancel request makes it CANCELLED with value 0. -/
def State.endTask (s : State) (keep : Bool) : State :=
  let f := s.cf
  let s1 := if f.cancelReq then s.retireTask s.cur.fk .cancelled 0 keep
            else s.retireTask s.cur.fk .resolved (s.pg 1) keep
  { s1 with cur := { s1.cur with stopped := true } }

def execRetire (s : State) : Out := if (s.cf).outs.isEmpty then .next (s.endTask false) else .next s.parkMarker

/-- WAITW retires the task and keeps the frame bound; it goes on at the next bundle with a new task (R349). -/
def execWaitw (s : State) : Out := if (s.cf).outs.isEmpty then .next (s.endTask true) else .next s.parkMarker

/-- YIELD waits as a marker, releases the slot and queues the task again (R350). -/
def execYield (s : State) : Out :=
  if (s.cf).outs.isEmpty then
    let s1 := (s.markerEnd.releaseSlot s.cur.fk).makeResumable s.cur.fk
    .next { s1 with cur := { s1.cur with stopped := true } }
  else .next s.parkMarker

/-- WAITM answers with the number of entries, or releases the slot until one is there (R351). -/
def execWaitm (rd : BitVec 6) (s : State) : Out :=
  let n := s.mailCount s.cur.fk
  if !(s.cf).outs.isEmpty then .next s.parkMarker
  else if n ≠ 0 then .next (s.markerEnd.setG rd (natWord n))
  else if s.onGeyser then .next ((s.addWait 7).parkInPlace)
  else .next (s.parkReleased .waitm)

/-! ## Messages (R352 to R355) -/

/-- The frame key that a task address names: a compute core's frame or a Geyser thread (R352). -/
def taskAddress (a : Word) : Option Nat :=
  let x := a.toNat
  if natBits x 56 8 ≠ 0xF3 then none
  else if natBits x 31 1 = 1 then
    if natBits x 2 29 = 0 ∧ natBits x 0 2 ≠ 0 ∧ natBits x 32 4 = 0 then some (geyserFrame (natBits x 36 10) (natBits x 0 2))
    else none
  else if natBits x 6 25 = 0 then some ((natBits x 36 10 * 16 + natBits x 32 4) * 64 + natBits x 0 6)
  else none

/-- The header of a SEND message (R354). -/
def State.sendHeader (s : State) (tag : BitVec 8) : Word :=
  let fk := s.cur.fk
  let k := frameCore fk
  natWord (0x02 + tag.toNat * 2 ^ 8 + frameNum fk * 2 ^ 16 + s.module.toNat * 2 ^ 36 +
    (if isGeyserFrame fk then k % 128 * 2 ^ 26 + k / 128 * 2 ^ 33 + 2 ^ 46
     else k % 16 * 2 ^ 22 + k / 16 % 128 * 2 ^ 26 + k / 2048 * 2 ^ 33))

/-- WINDOW of a SEND's address. -/
def sendTrap (a : Word) : Option TrapRec :=
  if (taskAddress a).isNone then some { cause := 0x04, eval := a } else none

def execSend (ra rb : BitVec 6) (tag : BitVec 8) (sys : Bool) (s : State) : Out :=
  let a := s.pg ra
  match (if sys then scopeTrap s 7 else none), sendTrap a, taskAddress a with
  | some t, _, _ => .next (s.trap t)
  | none, some t, _ => .next (s.trap t)
  | none, none, none => .next s
  | none, none, some fk =>
    if s.fenceHolds .atomic then .next s.retry
    else
    let s0 := (if sys then s.clampScope 7 else s).charge s.cur.fk 11 1
    let r := s0.fresh
    let s1 := r.2.addOut { id := r.1, kind := .other, cls := .other }
    let m := natBits a.toNat 46 10
    let dst := if m = s.module.toNat then frameEnd fk else moduleEnd m
    if s.hasRoute m then
      .next (s1.sendFrom s.cur.fk dst 2 (s.accIds s.cur.fk)
        (.send fk [s.sendHeader tag, s.pg rb, s.pg (rb + 1), 0] r.1))
    else
      .next ((s1.refuse (frameEnd s.cur.fk) (s.frameTag s.cur.fk)).returnWord s.cur.fk r.1 0 0 false true)

/-- A task or Geyser thread is there to receive a message. -/
def State.canReceive (s : State) (fk : Nat) : Bool :=
  if isGeyserFrame fk then ((s.geyser (frameCore fk)).thread (frameNum fk)).state != 0
  else (s.frame fk).state != .free && (s.frame fk).state != .waitw

/-- Places an entry in a mailbox with its TIME and wakes its task (R351, R354, R355). -/
def State.placeMail (s : State) (fk : Nat) (dwords : List Word) : State :=
  let s1 := s.setMail fk (s.mailOf fk ++ [⟨fk, dwords.take 3 ++ [natWord s.time]⟩])
  let s2 := s1.wakeMail fk
  if (s2.frame fk).state == .waitm then s2.makeResumable fk
  else (s2.updFrame fk (fun f => { f with waits := f.waits.erase 7 })).resume fk

/-- The mailbox of a frame's core has no free entry; each Geyser thread has a mailbox of its own (R73, R354). -/
def State.mailFull (s : State) (fk : Nat) : Bool :=
  decide (32 ≤ (if isGeyserFrame fk then s.mailCount fk else (s.mailOf fk).length))

/-- The answer to a SEND: accepted, or refused. -/
def State.sendAnswer (s : State) (p : Packet) (out : Nat) (xpart : Bool) : State :=
  s.respond p.dst p.src p.sender p.tag p.epoch out 0 0 false xpart false false false default

/-- A full mailbox answers with retry: the sender keeps the message and sends it again; a sender of another module is told
so (R353). -/
def State.sendRetry (s : State) (p : Packet) (out : Nat) : State :=
  if p.src < 2 ^ 23 then
    (s.updCore (tabKey p.sender) (fun c => { c with retryBuf := c.retryBuf ++ [p] })).later (s.delay p.dst p.src + 72)
      (.sendRetryResend p.id)
  else s.respond p.dst p.src p.sender p.tag p.epoch out 0 0 false false true false false default

/-- A SEND message reaches its mailbox: placed, answered with retry, discarded, or refused (R353). -/
def State.takeSend (s : State) (p : Packet) : State :=
  match p.body with
  | .send fk dwords out =>
    if !s.endOf p.dst p.tag p.epoch then (s.refuse p.dst p.tag).sendAnswer p out true
    else if !s.canReceive fk then s.sendAnswer p out false
    else if s.mailFull fk then s.sendRetry p out
    else (s.placeMail fk dwords).sendAnswer p out false
  | _ => s

/-- A SEND parked at a pre-empted core counts as accepted for its sender (R386). -/
def State.parkSend (s : State) (p : Packet) : State :=
  match p.body with
  | .send _ _ out => (s.parkMessage p.dst p).sendAnswer p out false
  | _ => s.parkMessage p.dst p

def execSendMessageArrival (pid : Nat) (s : State) : Out :=
  arrive s pid (.sendMessageArrival pid) State.parkSend State.takeSend

/-- The core or Geyser whose retry buffer holds a message. -/
def State.retryHolder (s : State) (pid : Nat) : Option (Nat × Packet) :=
  (s.cores.filterMap (fun c => (c.2.retryBuf.find? (fun p => p.id == pid)).map (fun p => (c.1, p)))).head?

/-- SEND_RETRY_RESEND: the sender sends the message again, unless its core is pre-empted and keeps it. -/
def execSendRetryResend (pid : Nat) (s : State) : Out :=
  match s.retryHolder pid with
  | none => .next s
  | some (k, p) =>
    if (s.core k).preempted then .next s
    else if (s.part p.tag.toNat).scrubbing then .next (s.again (.sendRetryResend pid))
    else
      let s1 := s.updCore k (fun c => { c with retryBuf := c.retryBuf.filter (fun x => x.id != pid) })
      .next (s1.send p.src p.dst 2 p.tag p.epoch p.sender [] p.body)

end Sys2Proof.Machine
end

