-- ==== Sys2Proof/Machine/PortEngine.lean ====
section
/-! DEFINITION. Port engines: remote word accesses, deferred operations and their retries, responses (R25 to R27, R46 to
R56, R147, R376, R386, R429). -/

namespace Sys2Proof.Machine

/-- The answer to a remote access. -/
def State.accAnswer (s : State) (p : Packet) (a : WordAcc) (data : Word) (oor xpart retry parked ecc : Bool) : State :=
  s.respond p.dst p.src p.sender p.tag p.epoch a.out a.part data oor xpart retry parked ecc a

/-- A remote access at a Geyser pool: size 0 marks an access to the gap of that pool (R31). -/
def State.takeGeyserAccess (s : State) (p : Packet) (a : WordAcc) : State :=
  let go (s : State) : State :=
    let r := s.geyserBank (p.dst - 2 ^ 20) a
    (r.1.performedFor p.src a.out).accAnswer p a r.2 false false false false false
  if a.size = 0 then (s.performedFor p.src a.out).accAnswer p a 0 true false false false false
  else
    match (if accReadsWord a.op then s.firstError [geyserKey (p.dst - 2 ^ 20) a.off] else none) with
    | some (_, true) =>
      ((s.lasting p.dst p.tag a.off).performedFor p.src a.out).accAnswer p a (natWord a.off) false false false false true
    | e => go (s.healAt p.dst e)

/-- A remote access performed at the bank of a core, or made to wait there (R48, R50, R52, R54). -/
def State.takeBank (s : State) (p : Packet) (a : WordAcc) : State :=
  let k := p.dst
  let off := s.reduce k a.off
  if accWaits a.op (s.isFull k off) then
    if 16 ≤ s.deferredCount k then s.accAnswer p a 0 false false true false false
    else s.enqueueWaiter k off ⟨.remote p.src p.sender p.tag p.epoch a.out a.part, a.op, a.off, a.size, a.data, a.out⟩
  else
    let r := s.bankServe k a
    (r.1.performedFor p.src a.out).accAnswer p a r.2 false false false false false

/-- A remote access at a core of the partition: the gap, an uncorrectable word, or the bank (R21, R22, R429). -/
def State.takeCoreAccess (s : State) (p : Packet) (a : WordAcc) : State :=
  let k := p.dst
  let off := s.reduce k a.off
  if s.inGap k a.off then (s.performedFor p.src a.out).accAnswer p a 0 true false false false false
  else
    match s.accError a.op k off with
    | some (_, true) =>
      ((s.lasting k p.tag off).performedFor p.src a.out).accAnswer p a (natWord off) false false false false true
    | some (key, false) => (s.transient (k / 2048) key).takeBank p a
    | none => s.takeBank p a

/-- JOINI at the record's port engine: refused outside the partition, else an allocation with its slot (R347). -/
def State.takeJoini (s : State) (p : Packet) (count : BitVec 32) (prio : BitVec 2) (lseq : Nat) (ptr : Word)
    (out : Nat) : State :=
  let a : Asker := ⟨p.src, p.sender, out⟩
  if s.coreOf p.dst p.tag p.epoch then
    s.allocate (p.dst / 16) p.tag prio 1 true true (.joini count prio lseq ptr a p.dst)
  else ((s.refuse p.dst p.tag).performedFor p.src out).reply p.dst p.tag a (.value 0 false) true false

/-- The address of an external access of a thread, as it was issued. -/
def State.externalVa (s : State) (fk out : Nat) : Nat :=
  ((((s.frame fk).outs.find? (fun o => o.id == out)).bind (fun o => o.bytes.head?)).map (·.1)).getD 0 % 2 ^ 56

/-- An XLD or XST at its home slice (R69, R263): the use of a store's GTLB entry ends, and the issuing Geyser is answered; a
lasting uncorrectable line answers 0 with the VA (R376, R429). Part 3 marks a cacheable leaf. -/
def State.takeExternal (s : State) (p : Packet) (a : WordAcc) : State :=
  let tag := p.tag.toNat
  let s0 := if a.op == .load then s else s.useEntry (p.src - 2 ^ 20) a.expect.toNat false
  let s1 := s0.performed a.out
  if p.epoch != (s.part tag).epoch || p.epoch == 0 then
    (s1.refuse p.dst p.tag).respond p.dst p.src p.sender p.tag p.epoch a.out 0 0 false true false false false a
  else
  let ans (s : State) (v : Word) (ecc : Bool) : State :=
    s.respond p.dst p.src p.sender p.tag p.epoch a.out 0 v false false false false ecc a
  let va := s.externalVa p.sender a.out
  let go (s : State) : State :=
    if a.op == .load then
      let r := s.devRead tag a.off a.size (a.part == 3)
      (ans r.1 (natWord (bytesNat r.2)) false).charge p.sender 9 1
    else (ans (s.devWrite tag a.off (natBytes a.data.toNat a.size) (a.part == 3)) 0 false).charge p.sender 9 1
  match (if a.op == .load then s.deviceError tag a.off a.size else s.fillError tag a.off a.size (a.part == 3)) with
  | some (_, true) => ans (s1.lasting p.dst p.tag va (some (a.off / 2 ^ 16))) (natWord va) true
  | some (key, false) => go (s1.transient (paChannel a.off / 128) key)
  | none => go s1

/-- A port engine executes one message. -/
def State.takeAccess (s : State) (p : Packet) : State :=
  match p.body with
  | .access a =>
    if 2 ≤ a.part then s.takeExternal p a
    else if !s.endOf p.dst p.tag p.epoch then
      ((s.refuse p.dst p.tag).performedFor p.src a.out).accAnswer p a 0 false true false false false
    else if 2 ^ 20 ≤ p.dst then s.takeGeyserAccess p a
    else s.takeCoreAccess p a
  | .joini count prio lseq ptr out => s.takeJoini p count prio lseq ptr out
  | _ => s

/-- A remote access parked at a pre-empted core is answered at once with a parked reply (R386). -/
def State.parkAccess (s : State) (p : Packet) : State :=
  match p.body with
  | .access a => (s.parkMessage p.dst p).accAnswer p a 0 false false false true false
  | _ => s.parkMessage p.dst p

/-- PORT_ENGINE_MESSAGE. -/
def execPortEngineMessage (pid : Nat) (s : State) : Out :=
  arrive s pid (.portEngineMessage pid) State.parkAccess State.takeAccess

/-! ## Responses (R25, R54, R160, R376) -/

/-- A retry response: the issuing core keeps the operation and sends it again 64 cycles later (R54). -/
def State.keepRetry (s : State) (p : Packet) (a : WordAcc) : State :=
  let q : Packet := { p with src := p.dst, dst := p.src, vc := 0, after := [], body := .access a }
  (s.updCore (tabKey p.sender) (fun c => { c with retryBuf := c.retryBuf ++ [q] })).later 64 (.deferredRetryResend p.id)

/-- The return of an XLD's read ends the use of its GTLB entry (R87). -/
def State.endExternal (s : State) (p : Packet) : State :=
  match p.body with
  | .response _ _ _ _ _ _ _ _ a =>
    if 2 ≤ a.part ∧ a.op = .load then s.useEntry (p.dst - 2 ^ 20) a.expect.toNat false else s
  | _ => s

/-- A response reaches its thread; an access of another module's word has been performed there. A parked reply leaves the result pending; an ECC response returns 0 and makes ECC due
at the marker (R376, R386). -/
def State.takeResponse (s : State) (p : Packet) : State :=
  match p.body with
  | .response out part data oor xpart retry parked ecc a =>
    let s := if 2 ^ 23 ≤ p.src && !retry && !parked then s.performed out else s
    if retry then s.keepRetry p a
    else if parked then s
    else if ecc then
      (s.updFrame p.sender (fun f => { f with dueMark := f.dueMark ++ [⟨0x12, if 2 ≤ a.part then 2 else 1, data, f.eseq, true⟩] })).returnWord
        p.sender out part 0 oor xpart
    else s.returnWord p.sender out part data oor xpart
  | _ => s

/-- ACCESS_RESPONSE. Responses are no active messages: a pre-empted core takes them (R387). -/
def execAccessResponse (pid : Nat) (s : State) : Out :=
  let take (s : State) (p : Packet) : State := (s.endExternal p).checked State.takeResponse p
  arrive s pid (.accessResponse pid) (fun s p => take (s.dropPacket pid) p) take

/-- DEFERRED_RETRY_RESEND: the operation is sent again, unless its core is pre-empted and keeps it. -/
def execDeferredRetryResend (pid : Nat) (s : State) : Out :=
  match s.retryHolder pid with
  | none => .next s
  | some (k, p) =>
    if (s.core k).preempted then .next s
    else
      let s1 := s.updCore k (fun c => { c with retryBuf := c.retryBuf.filter (fun x => x.id != pid) })
      .next (s1.send p.src p.dst 0 p.tag p.epoch p.sender [] p.body)

end Sys2Proof.Machine
end

