-- ==== Sys2Proof/Machine/Rings.lean ====
section
/-! DEFINITION. Host memory writes, host rings, their notices, the cause table, trap messages at Beacons and at the hub's
door (R92, R99, R149, R379 to R382, R401, R402, R411 to R417). -/

namespace Sys2Proof.Machine

/-! ## Time -/

/-- Cycles that take at least n ns (R422: 700 MHz). -/
def nsCycles (n : Nat) : Nat := (n * 7 + 9) / 10

/-! ## Host writes and program rings (R99, R414, R415) -/

/-- The hub can send writes and reads for a function. -/
def State.fnUp (s : State) (vf : Nat) : Bool := s.hub.hostUp && (vf == 0 || (s.vf vf).bme)

/-- The registered rings of a partition whose PROD is at an address. -/
def State.ringsAt (s : State) (tag va : Nat) : List Nat :=
  ((s.part tag).rings.filter (fun r => r.2.en && r.2.rcb != 0 && r.2.rcb.toNat % 2 ^ 56 + 16 == va % 2 ^ 56)).map (·.1)

/-- A posted write of an agent of a partition to host memory; an aligned write of 8 bytes to a registered ring's PROD is
counted after it (R414). -/
def State.hostStore (s : State) (tag va : Nat) (bs : List Byte) : State :=
  let s1 := { s with host := s.host.setBytes (hostKey tag va) bs }
  if bs.length = 8 ∧ va % 8 = 0 then (s.ringsAt tag va).foldl (fun s i => s.later 1 (.ringUpdate tag i)) s1 else s1

/-- A saturating counter raised by one. -/
def satAdd (x : BitVec 32) (n : Nat) : BitVec 32 := if x.toNat + n < 2 ^ 32 then x + BitVec.ofNat 32 n else -1

/-- A dropped ring record is counted (R413, R417). -/
def State.ringDrop (s : State) : State := s.updHub (fun h => { h with rdrop := satAdd h.rdrop 1 })

/-! ## The cause table (R401, R402) -/

/-- Kinds that never merge and are never dropped. -/
def causeKept (kind : Nat) : Bool := kind == 1 || kind == 9 || kind == 10 || kind == 12

/-- The 32 bytes of a cause entry. -/
def causeBytes (e : CauseEntry) : List Byte :=
  natBytes (e.kind.toNat + e.vf.toNat * 2 ^ 8 + e.cause.toNat * 2 ^ 24 + e.count.toNat * 2 ^ 32) 8 ++
    natBytes e.detail.toNat 8 ++ natBytes 0 8 ++ natBytes e.time.toNat 8

/-- The unit that waits for a translation for a ring, named by the key of its control block. -/
def ringUnit (key : Nat) : Nat := 2 ^ 70 + key

/-- The function has ATS enabled and the hub holds no translation of a page (R98); the physical function translates
nothing. -/
def State.fnNeeds (s : State) (vf va : Nat) : Bool := vf != 0 && !s.hostReady (vf - 1) va

/-- The hub asks for the control block of a ring whose oldest record waits, or for the translation of its page, unless the
answer or a re-read is on its way (R98, R413). -/
def State.askRing (s : State) (vf rcb : Nat) : State :=
  let key := fnKey vf rcb
  let unit := ringUnit key
  let asked := s.hub.hostReqs.any (fun r => r.unit == unit || (r.vf == vf && r.va == rcb % 2 ^ 56 && r.copy.isNone &&
    r.frame.isNone && r.unit == 0 && !r.ats))
  let paged := (s.vf vf).reqs.any (fun r => r.units.contains unit && r.gen == (s.vf vf).gen)
  let timed := s.agenda.any (fun e => decide (e.act = Instr.ringConsReread key))
  if asked || paged || timed then s
  else if s.fnUp vf && s.fnNeeds vf rcb then s.askAts (vf - 1) rcb false none none unit
  else
    let r := s.fresh
    let entry := if vf = 0 then 0 else s.atsEntry (vf - 1) rcb
    let q : HostReq := { id := r.1, vf, pasid := (if vf = 0 then 0 else (s.part (vf - 1)).pasid), va := rcb % 2 ^ 56, len := 64,
                         copy := none, frame := none, entry, ats := false }
    (r.2.useAts entry true).updHub (fun h => { h with hostReqs := h.hostReqs ++ [q] })

/-- The hub serves the cause ring: nothing while CRCB is 0. -/
def State.serveCauses (s : State) : State :=
  if s.hub.crcb = 0 ∨ s.hub.causes.isEmpty then s else s.askRing 0 s.hub.crcb.toNat

/-- The hub holds its cause entries: CRCB is 0, or the ring was full when CONS was read last (R402, R417). -/
def State.causesHeld (s : State) : Bool :=
  let key := fnKey 0 s.hub.crcb.toNat
  s.hub.crcb == 0 || s.agenda.any (fun e => decide (e.act = Instr.ringConsReread key))

/-- The hub has a place for an entry of kind 1, 9, 10 or 12: while it has none, it stalls their sources (R402). -/
def State.causeRoom (s : State) : Bool := !s.causesHeld || decide (s.hub.causes.length < 256)

/-- The hub takes an event: it merges with a held entry of its function and kind while the ring is full, takes a place, or
is dropped and counted. The sources of kinds 1, 9, 10 and 12 wait for a place before they raise theirs (R402). -/
def State.raiseCause (s : State) (kind vf cause : Nat) (detail : Word) (count : Nat) : State :=
  let e : CauseEntry := ⟨BitVec.ofNat 8 kind, BitVec.ofNat 11 vf, BitVec.ofNat 8 cause, BitVec.ofNat 32 count, detail,
    natWord s.time⟩
  let same (x : CauseEntry) : Bool := x.vf == e.vf && x.kind == e.kind
  if s.causesHeld && !causeKept kind && s.hub.causes.any same then
    s.updHub (fun h => { h with
      causes := replaceFirst same (fun x => { x with count := x.count + e.count }) h.causes })
  else if s.causeRoom || causeKept kind then
    (s.updHub (fun h => { h with causes := h.causes ++ [e] })).serveCauses
  else s.updHub (fun h => { h with covf := satAdd h.covf 1 })

/-! ## Notices (R415, R417) -/

/-- The ring of an index of a partition's table; partition 1024 stands for CCOAL. -/
def State.ringOf (s : State) (tag i : Nat) : Ring := if tag = 1024 then s.hub.ccoal else (s.part tag).rings.getD i {}

def State.setRing (s : State) (tag i : Nat) (r : Ring) : State :=
  if tag = 1024 then s.updHub (fun h => { h with ccoal := r })
  else s.updPart tag (fun p => { p with rings := p.rings.put i r })

/-- A notice: a cause entry of kind 5, or MSI-X vector 0 for the cause ring. -/
def State.notice (s : State) (tag i : Nat) : State :=
  let r := s.ringOf tag i
  let s1 := s.setRing tag i { r with pending := 0 }
  if tag = 1024 then s1.updHub (fun h => { h with msix := h.msix ++ [0] }) else s1.raiseCause 5 (tag + 1) 0 0 r.pending

/-- An update is counted; a notice is due at CCOUNT updates. -/
def State.countUpdate (s : State) (tag i : Nat) : State :=
  let r := s.ringOf tag i
  let r1 := { r with pending := r.pending + 1, oldest := if r.pending = 0 then s.time else r.oldest }
  let s1 := s.setRing tag i r1
  if max r.ccount.toNat 1 ≤ r1.pending then s1.notice tag i
  else if r.pending = 0 ∧ r.ctime ≠ 0 then s1.later (nsCycles r.ctime.toNat) (.ringNoticeTimeout tag i)
  else s1

/-- A registration has been written while updates are pending: the notice that its new CCOUNT makes due is given, or CTIME
runs from the oldest of them (R415). -/
def State.rearmRing (s : State) (tag i : Nat) : State :=
  let r := s.ringOf tag i
  if !r.en || r.pending == 0 then s
  else if max r.ccount.toNat 1 ≤ r.pending then s.notice tag i
  else if r.ctime = 0 then s
  else s.later (nsCycles (r.oldest + r.ctime.toNat - s.time)) (.ringNoticeTimeout tag i)

/-- RING_UPDATE: an update of an enabled ring is counted after its write has been sent. -/
def execRingUpdate (tag i : Nat) (s : State) : Host.Outcome State Fault Refusal :=
  if (s.ringOf tag i).en then .next (s.countUpdate tag i) else .next s

/-- RING_NOTICE_TIMEOUT: CTIME ns have passed since the oldest pending update. -/
def execRingNoticeTimeout (tag i : Nat) (s : State) : Host.Outcome State Fault Refusal :=
  let r := s.ringOf tag i
  if r.pending = 0 ∨ r.ctime = 0 ∨ !r.en then .next s
  else if r.oldest + r.ctime.toNat ≤ s.time then .next (s.notice tag i)
  else .next (s.again (.ringNoticeTimeout tag i))

/-! ## Records of the hub's own rings (R412, R413) -/

/-- The dwords of a ring control block. -/
def State.rcbWord (s : State) (vf rcb i : Nat) : Word := s.host.dword (fnKey vf rcb + 8 * i)

/-- A control block that the hub accepts: 64-byte alignment of BASE is asked as its other fields are (DESIGN CHOICE, log entry 114:
R412 gives it, R413 does not name it). -/
def State.rcbOk (s : State) (vf rcb : Nat) : Bool :=
  let n := (s.rcbWord vf rcb 1).toNat
  decide (2 ≤ n) && decide (n ≤ 20) && natBits (s.rcbWord vf rcb 0).toNat 56 8 == 1 &&
    (s.rcbWord vf rcb 0).toNat % 64 == 0 && (rangeFrom 4 4).all (fun i => s.rcbWord vf rcb i == 0)

/-- The oldest record that waits for a ring: its bytes; a launch-completion record's TIME is that of its write (R358). -/
def State.ringHead (s : State) (vf rcb : Nat) : Option (List Byte) :=
  if vf = 0 then (s.hub.causes.head?).map causeBytes
  else ((s.part (vf - 1)).completions.find? (fun c => c.ring.toNat % 2 ^ 56 == rcb)).map (fun c =>
    ((c.dwords.take 3 ++ [natWord s.time]).map (fun d => natBytes d.toNat 8)).flatten)

/-- The control block is one that the hub still uses: the cause ring's is named by CRCB, and 0 stops it (R417). -/
def State.ringStands (s : State) (vf rcb : Nat) : Bool :=
  vf != 0 || (s.hub.crcb != 0 && s.hub.crcb.toNat % 2 ^ 56 == rcb)

/-- The oldest record of a ring leaves the hub. -/
def State.ringPop (s : State) (vf rcb : Nat) : State :=
  if vf = 0 then s.updHub (fun h => { h with causes := h.causes.drop 1 })
  else s.updPart (vf - 1) (fun p => { p with completions := removeFirst (fun c => c.ring.toNat % 2 ^ 56 == rcb) p.completions })

/-- The hub goes on with the next record of a ring. -/
def State.ringNext (s : State) (vf rcb : Nat) : State :=
  if vf = 0 then s.serveCauses else if (s.ringHead vf rcb).isSome then s.askRing vf rcb else s

/-- The address of the entry that a ring's next record takes. -/
def State.ringPlace (s : State) (vf rcb : Nat) : Nat :=
  (s.rcbWord vf rcb 0).toNat % 2 ^ 56 + 32 * ((s.rcbWord vf rcb 2).toNat % 2 ^ (s.rcbWord vf rcb 1).toNat)

/-- A record is written, then PROD + 1 (R149). -/
def State.ringWrite (s : State) (vf rcb : Nat) (bs : List Byte) : State :=
  let prod := s.rcbWord vf rcb 2
  let va := s.ringPlace vf rcb
  if vf = 0 then
    let s1 := { s with host := (s.host.setBytes (fnKey 0 va) bs).setDword (fnKey 0 (rcb + 16)) (prod + 1) }
    if s.hub.ccoal.en then s1.later 1 (.ringUpdate 1024 0) else s1
  else (s.hostStore (vf - 1) va bs).hostStore (vf - 1) (rcb + 16) (natBytes (prod + 1).toNat 8)

/-- Launch records held at the hub are routed to the root when nothing holds them any more: the partition runs, no scrub
runs, and fewer than 256 completions are held (R385, R404, R413). -/
def State.routeHeld (s : State) (tag : Nat) : State :=
  let p := s.part tag
  if p.held.isEmpty || p.state != 0 || p.scrubbing || decide (256 ≤ p.completions.length) then s
  else
    let s1 := s.updPart tag (fun p => { p with launches := p.launches ++ p.held, held := [] })
    p.held.foldl (fun s _ => s.later 16 (.launchCheck tag)) s1

/-- A launch-completion record comes with a cause entry of kind 6, written or dropped (R413). -/
def State.ringDone (s : State) (vf : Nat) : State :=
  if vf = 0 then s else (s.raiseCause 6 vf 0 0 1).routeHeld (vf - 1)

/-- The hub has a ring's control block, or the read ended with HOSTERR: the oldest record is written, dropped and counted,
or held while the ring is full; CONS is read again only when the ring appears full (R413). The page of the entry is
translated first, and the control block read again after that (R98). -/
def State.ringAnswer (s : State) (vf rcb : Nat) (error : Bool) : State :=
  if !s.ringStands vf rcb then s.serveCauses
  else
  match s.ringHead vf rcb with
  | none => s
  | some bs =>
    if error || !s.fnUp vf || !s.rcbOk vf rcb then (((s.ringPop vf rcb).ringDrop).ringDone vf).ringNext vf rcb
    else
      let key := fnKey vf rcb
      let size := 2 ^ (s.rcbWord vf rcb 1).toNat
      let prod := s.rcbWord vf rcb 2
      let full (c : Word) : Bool := decide ((prod - c).toNat = size)
      let s1 := if full (s.hub.cons.getD key 0) then
          s.updHub (fun h => { h with cons := h.cons.put key (s.rcbWord vf rcb 3) }) else s
      if full (s1.hub.cons.getD key 0) then s1.later (nsCycles 1000) (.ringConsReread key)
      else if s1.fnNeeds vf (s1.ringPlace vf rcb) then
        s1.askAts (vf - 1) (s1.ringPlace vf rcb) true none none (ringUnit key)
      else (((s1.ringWrite vf rcb bs).ringPop vf rcb).ringDone vf).ringNext vf rcb

/-- The translation that a ring waited for has come, or its page has none: the record is dropped as after HOSTERR (DESIGN
CHOICE, log entry 98: R413 names HOSTERR only). -/
def State.ringAts (s : State) (key code : Nat) : State :=
  if code = 0 then s.ringNext (key / 2 ^ 56) (key % 2 ^ 56) else s.ringAnswer (key / 2 ^ 56) (key % 2 ^ 56) true

/-- RING_CONS_REREAD: 1,000 ns have passed; the hub reads the control block of a full ring again. -/
def execRingConsReread (key : Nat) (s : State) : Host.Outcome State Fault Refusal :=
  let vf := key / 2 ^ 56
  let rcb := key % 2 ^ 56
  let s1 := { s with agenda := s.agenda.filter (fun e => decide (e.act ≠ Instr.ringConsReread key)) }
  if !s1.ringStands vf rcb then .next s1.serveCauses
  else if (s1.ringHead vf rcb).isSome then .next (s1.askRing vf rcb) else .next s1

/-! ## Trap messages at their Beacons (R381, R382) -/

/-- Two trap messages may merge: KIND 1 with the same partition, die, edge, access and page. -/
def msgMerges (a b : TrapMsg) : Bool :=
  a.kind == 1 && b.kind == 1 && a.part == b.part && a.die == b.die && a.edge == b.edge && a.acc == b.acc && a.va == b.va

/-- TRAP_MESSAGE: a message reaches its Beacon, where it merges or takes one of 64 places; a full Beacon holds VC3 back.
Messages of one source arrive in order. -/
def execTrapMessage (id : Nat) (s : State) : Host.Outcome State Fault Refusal :=
  match s.hub.beacons.find? (fun m => m.id == id) with
  | none => .next s
  | some m =>
    let earlier := (s.hub.beacons.takeWhile (fun x => x.id != id)).any (fun x => x.beacon == m.beacon && x.src == m.src)
    let mine := s.hub.queue.filter (fun x => x.beacon == m.beacon)
    let rest := s.hub.beacons.filter (fun x => x.id != id)
    let merge (x : TrapMsg) : TrapMsg :=
      { x with srcmap := x.srcmap ||| m.srcmap, copies := x.copies ++ m.copies, threads := x.threads ++ m.threads }
    if earlier then .next (s.again (.trapMessage id))
    else if mine.any (msgMerges m) then
      .next (s.updHub (fun h => { h with
        beacons := rest, queue := replaceFirst (fun x => x.beacon == m.beacon && msgMerges m x) merge h.queue }))
    else if 64 ≤ mine.length then .next (s.again (.trapMessage id))
    else
      .next ((s.updHub (fun h => { h with beacons := rest, queue := h.queue ++ [m] })).later 8 (.hubTrapMessage m.beacon))

end Sys2Proof.Machine
end

