-- ==== Sys2Proof/Machine/Copies.lean ====
section
/-! DEFINITION. Copies: CGO, commands at a Geyser, bursts, completion and its record (R68, R76, R80, R87 to R99, R101 to
R118, R123 to R127, R258). -/

namespace Sys2Proof.Machine

/-! ## Fields of the shadow set (R102, R103) -/

def shRows (x : Word) : Nat := natBits x.toNat 0 16
def shRowb (x : Word) : Nat := natBits x.toNat 16 16
def shType (x : Word) : Nat := natBits x.toNat 32 4
def shElem (x : Word) : Nat := natBits x.toNat 36 2
def flAcq (x : Word) : Bool := x.getLsbD 0
def flRel (x : Word) : Bool := x.getLsbD 1
def flScope (x : Word) : Nat := natBits x.toNat 2 3
def flTarget (x : Word) : Nat := natBits x.toNat 5 2
def flMtag (x : Word) : BitVec 16 := x.extractLsb' 8 16
def flComm (x : Word) : Nat := natBits x.toNat 24 12

def ptrTag (p : Word) : Nat := natBits p.toNat 56 8
def isExternal (p : Word) : Bool := ptrTag p == 0 || ptrTag p == 1
/-- A scratchpad pointer; a 0xF3 pointer with a bit of [30:17] set is malformed and names no window (R13, R239). -/
def isScratch (p : Word) : Bool :=
  decide (0xF0 ≤ ptrTag p) && decide (ptrTag p ≤ 0xF3) && (ptrTag p != 0xF3 || natBits p.toNat 17 14 == 0)

/-! ## The checks of CGO (R105, R106, R123, R124) -/

def illegalRec (x : Word) : TrapRec := { cause := 0x01, eval := x }
def windowRec (x : Word) : TrapRec := { cause := 0x04, eval := x }

/-- The reserved fields of c.cpshape and c.cpflags. -/
def cgoFields (r : Slot) : Option TrapRec :=
  let sh := r.cpshape
  let fl := r.cpflags
  if sh >>> 38 ≠ 0 ∨ 4 < shType sh then some (illegalRec sh)
  else if fl.getLsbD 7 ∨ fl >>> 36 ≠ 0 ∨ 1 < flTarget fl then some (illegalRec fl)
  else if shType sh ≠ 4 ∧ shElem sh ≠ 0 then some (illegalRec sh)
  else if shType sh = 4 ∧ 1 < shElem sh then some (illegalRec sh)
  else if shType sh ≠ 4 ∧ flComm fl ≠ 0 then some (illegalRec fl)
  else if shType sh ≠ 3 ∧ flMtag fl ≠ 0 then some (illegalRec fl)
  else none

/-- The mask pointer is accepted: scratchpad, and a global one in the issuing cluster only (R30). -/
def maskOk (s : State) (p : Word) : Bool :=
  isScratch p && (ptrTag p != 0xF3 ||
    (natBits p.toNat 46 10 == s.module.toNat && natBits p.toNat 36 10 == s.curCore / 16))

/-- check_windows (R105). -/
def cgoWindows (s : State) (r : Slot) : Option TrapRec :=
  let t := shType r.cpshape
  if t = 3 then
    if ptrTag r.cpsrc ≠ 0 then some (windowRec r.cpsrc)
    else if r.cpdst ≠ 0 then some (windowRec r.cpdst) else none
  else if t = 4 then
    if !isScratch r.cpsrc then some (windowRec r.cpsrc)
    else if !isScratch r.cpdst then some (windowRec r.cpdst) else none
  else if !(isExternal r.cpsrc || isScratch r.cpsrc) then some (windowRec r.cpsrc)
  else if !(isExternal r.cpdst || isScratch r.cpdst) then some (windowRec r.cpdst)
  else if t ≠ 0 ∧ !maskOk s r.cpmask then some (windowRec r.cpmask)
  else if isExternal r.cpsrc == isExternal r.cpdst then some (windowRec r.cpdst)
  else if t = 1 ∧ isScratch r.cpsrc then some (windowRec r.cpsrc)
  else if t = 2 ∧ isScratch r.cpdst then some (windowRec r.cpdst)
  else none

/-- A scratchpad side whose pointer, stride or row length is no multiple of 8. -/
def sideBad (r : Slot) (p stride : Word) : Option TrapRec :=
  if !isScratch p then none
  else if p.toNat % 8 ≠ 0 then some (illegalRec p)
  else if stride.toNat % 8 ≠ 0 then some (illegalRec stride)
  else if shRowb r.cpshape % 8 ≠ 0 then some (illegalRec r.cpshape)
  else none

/-- check_geometry (R106): source, destination, then the shape. The receivers' side of a type 3 copy is not checked for
alignment (DESIGN CHOICE, log entry 92: R106 does not say that it is a scratchpad side). -/
def cgoGeometry (r : Slot) : Option TrapRec :=
  let sh := r.cpshape
  let t := shType sh
  (sideBad r r.cpsrc r.cpsstr).or <|
  (sideBad r r.cpdst r.cpdstr).or <|
  if (t = 1 ∨ t = 2) ∧ 4096 < shRows sh then some (illegalRec sh)
  else if (t = 3 ∨ t = 4) ∧ 65536 < shRows sh * shRowb sh then some (illegalRec sh)
  else if t = 4 ∧ shRowb sh % (if shElem sh = 0 then 4 else 8) ≠ 0 then some (illegalRec sh)
  else none

/-- The trap of a CGO: the fields, the scope policy against c.cpflags.SCOPE (R378), the windows, the geometry. The place of
the scope check among the others is the model's (DESIGN CHOICE, log entry 91: R105 gives none). -/
def cgoTrap (s : State) : Option TrapRec :=
  let r := s.cur.slot
  if s.onGeyser then some (illegalRec 0)
  else (cgoFields r).or <| (scopeTrap s (flScope r.cpflags)).or <| (cgoWindows s r).or <| cgoGeometry r

/-! ## Starting a copy (R105, R107) -/

/-- The next transfer identifier from a counter that no listed identifier has; n bounds the search. Whether a value is still
outstanding is looked at when a copy takes it (DESIGN CHOICE, log entry 94: R107 skips it when the counter reaches it). -/
def nextTid (used : List (BitVec 16)) (c : BitVec 16) : Nat → BitVec 16
  | 0 => c
  | n + 1 => if used.contains c then nextTid used (if c = 0xFFFF then 1 else c + 1) n else c

/-- The counter after an identifier: the first copy of a core takes the value 1 (DESIGN CHOICE, log entry 93: R107 does not
say whether the counter advances before or after its value is taken). -/
def afterTid (c : BitVec 16) : BitVec 16 := if c = 0xFFFF then 1 else c + 1

/-- Identifiers of a core's outstanding copies. -/
def State.usedTids (s : State) (k : Nat) : List (BitVec 16) :=
  (s.copies.filter (fun x => x.2.core == k && x.2.purpose == .thread)).map (·.2.tid)

/-- Adds a copy under its identifier, with the step that takes it to its Geyser or to the collective unit. -/
def State.addCopy (s : State) (id : Nat) (c : Copy) (delay : Nat) : State :=
  { s with copies := s.copies.put id c }.later delay
    (if shType c.shape = 4 then .reduceContribution id else .copyCommand id)

/-- The external address of row r of a copy. -/
def rowExternal (base stride : Word) (r : Nat) : Nat := (base.toNat + r * stride.toNat) % 2 ^ 56

/-- The external pointer of a copy of types 0 to 3. -/
def Copy.external (c : Copy) : Word := if isExternal c.src then c.src else c.dst

/-- Accesses of the thread that the copy's first read waits for: all with REL, else those a FENCE ordered (R116,
R139). -/
def State.copyAfter (s : State) (rel : Bool) : List Nat :=
  if rel then s.accIds s.cur.fk else s.engineAfter

def execCgo (rd : BitVec 6) (s : State) : Out :=
  match cgoTrap s with
  | some t => .next (s.trap t)
  | none =>
    let fk := s.cur.fk
    let k := s.curCore
    let r := s.cur.slot
    let scope := flScope r.cpflags
    let flags := if s.scopeLimited scope then (r.cpflags &&& ~~~ (0x1C : Word)) ||| 0x14 else r.cpflags
    if 8 ≤ (s.cf).copies.length then
      let e := s.expect rd 0
      .next (e.2.answer (frameEnd fk) fk e.1 (.value 0 false) false)
    else
      let e := (s.clampScope scope).expect rd 0
      let tid := nextTid (s.usedTids k) (s.core k).copyNext 505
      let id := e.2.fresh
      let c : Copy := {
        tid, purpose := .thread, core := k, frame := fk, tag := s.frameTag fk, epoch := s.frameEpoch fk,
        src := r.cpsrc, dst := r.cpdst, shape := r.cpshape, sstr := r.cpsstr, dstr := r.cpdstr, mask := r.cpmask,
        flags, after := s.copyAfter (flRel flags), channel := 0 }
      let c1 := { c with channel := s.steer (s.frameTag fk).toNat (natBits c.external.toNat 0 56) }
      let s1 := (id.2.updCore k (fun x => { x with copyNext := afterTid tid })).updFrame fk
        (fun f => { f with copies := f.copies ++ [id.1] })
      .next ((s1.addCopy id.1 c1 (s.delay k (2 ^ 20 + c1.channel) + 8)).answer (frameEnd fk) fk e.1
        (.value (tid.setWidth 64) true) false)

/-! ## Rows (R108, R110) -/

/-- Rows r to r + n − 1 with their packed numbers from j, those whose mask bit is 1. -/
def maskRows (mask : Nat) (r j : Nat) : Nat → List (Nat × Nat)
  | 0 => []
  | n + 1 => if mask.testBit r then (r, j) :: maskRows mask (r + 1) (j + 1) n else maskRows mask (r + 1) j n

/-- The copy has a row mask. -/
def Copy.masked (c : Copy) : Bool := shType c.shape == 1 || shType c.shape == 2

/-- The row mask of a copy: its bytes, and whether one fell in a gap or on a refused position (R27, R110). -/
def copyMask (s : State) (c : Copy) : List Byte × Bool × Bool :=
  if c.masked then engineRead s c.core c.tag c.epoch c.mask (scratchOff c.mask) ((shRows c.shape + 7) / 8)
  else ([], false, false)

/-- The rows a copy moves: all of them, or those the mask selects, read once by the issuing core. -/
def copyRows (s : State) (c : Copy) : List (Nat × Nat) :=
  let n := shRows c.shape
  if c.masked then maskRows (bytesNat (copyMask s c).1) 0 0 n else (rangeFrom 0 n).map (fun r => (r, r))

/-- The copy of an identifier. -/
def State.copy? (s : State) (id : Nat) : Option Copy := s.copies.get? id

/-- Updates a copy. -/
def State.updCopy (s : State) (id : Nat) (h : Copy → Copy) : State :=
  match s.copies.get? id with
  | some c => { s with copies := s.copies.put id (h c) }
  | none => s

/-- The words of pools that n bytes at an offset of a window take, those of the reader's partition (R26, R40). -/
def windowWords (s : State) (k0 : Nat) (tag : BitVec 10) (epoch : BitVec 6) (ptr : Word) (off n : Nat) : List (Nat × Nat) :=
  (rangeFrom (off / 8) ((off + n + 7) / 8 - off / 8)).filterMap (fun w =>
    match scratchByte s k0 ptr (max off (8 * w)) with
    | some (k, l) => if s.coreOf k tag epoch && !s.inGap k l then some (k, s.reduce k l) else none
    | none => none)

/-- An uncorrectable pool word among the bytes an engine reads of a window: gaps and refused positions are not read. -/
def poolError (s : State) (k0 : Nat) (tag : BitVec 10) (epoch : BitVec 6) (ptr : Word) (off n : Nat) : Option (Nat × Bool) :=
  s.firstError ((windowWords s k0 tag epoch ptr off n).map (fun w => wordKey w.1 w.2))

/-- The copy is an XPUSH of a Geyser thread. -/
def Copy.isPush (c : Copy) : Bool := match c.purpose with | .xpush _ => true | _ => false

/-- The copy writes a certificate, whose bytes it holds (R408). -/
def Copy.isCert (c : Copy) : Bool := match c.purpose with | .cert _ => true | _ => false

/-- Bytes of a Geyser pool from an offset: those beyond a thread's reach read as zero (R31, R265). -/
def State.pushBytes (s : State) (ch reach off n : Nat) : List Byte :=
  (rangeFrom off n).map (fun o => if reach ≤ o % 2 ^ 16 then 0 else s.gpool.read (ch * 2 ^ 16 + o % 2 ^ 16))

/-- The pool words that a push reads. -/
def pushKeys (ch reach off n : Nat) : List Nat :=
  ((rangeFrom (off / 8) ((off + n + 7) / 8 - off / 8)).filter (fun w => decide (8 * w % 2 ^ 16 < reach))).map (fun w =>
    geyserKey ch (8 * w))

/-- Sends a host read of a copy's burst, or sets the end of a device read (R152: no time is promised). A burst between a Geyser
and the home slice at another one is part of a flow (R150, R153). -/
def State.sendBurst (s0 : State) (id : Nat) (c : Copy) (b : Burst) : State :=
  let home := paChannel b.addr
  let s := if b.host || home == c.channel then s0 else s0.noteFlow c.frame (2 ^ 20 + c.channel) (2 ^ 20 + home) c.tag
  if b.host then s.askHost b.id c.tag.toNat b.addr b.len (some (id, b.id)) none
  else s.later (s.delay (2 ^ 20 + c.channel) (2 ^ 20 + paChannel b.addr) + 8) (.burstComplete id b.id)

/-- An XPUSH begins its reads: a tile of the Geyser pool is read at once, one of device or host memory burst by burst
(R265). -/
def State.startPush (s : State) (id : Nat) (c : Copy) : State :=
  if isExternal c.src then c.bursts.foldl (fun s b => s.sendBurst id c b) s
  else
    let n := shRows c.shape * shRowb c.shape
    let off := c.src.toNat % 2 ^ 16
    let x := s.wordsSound c.tag (pushKeys c.channel c.reach off n)
    if x.2 then
      (x.1.updCopy id (fun c => { c with
        ended := true, status := some 0, data := s.pushBytes c.channel c.reach off n })).later 1 (.multicastPush id (2 ^ 20))
    else x.1

/-- COPY_COMMAND: the command reaches its Geyser after the release of its thread; its rows are known then. A mask that
cannot be read stops the copy for good (R429). -/
def execCopyCommand (id : Nat) (s : State) : Out :=
  match s.copy? id with
  | none => .next s
  | some c =>
    if c.after.any s.unperf.contains then .next (s.again (.copyCommand id))
    else if c.isPush then .next (s.startPush id c)
    else
      let n := (shRows c.shape + 7) / 8
      match (if c.masked then poolError s c.core c.tag c.epoch c.mask (scratchOff c.mask) n else none) with
      | some (key, true) => .next (s.lasting (keyEnd key) c.tag (keyOffset key))
      | e =>
        let s0 := match e with | some (key, _) => s.transient (endPos (keyEnd key)).1 key | none => s
        let rows := copyRows s0 c
        let m := copyMask s0 c
        let empty := shRowb c.shape == 0
        let full := if empty && c.masked then rows.length else 0
        let s1 := if c.masked then s0.refuseWords c.core c.tag c.epoch c.mask (scratchOff c.mask) n else s0
        .next ((s1.updCopy id (fun c => { c with
          rows := some (if empty then [] else rows), fullRows := full, gap := c.gap || m.2.1,
          refused := c.refused || m.2.2 })).later 1 (.burstAdmission id))

/-! ## Admission and translation of bursts (R80, R87, R90 to R92, R97 to R99) -/

/-- A copy loads scratchpad or a tile from its external side. -/
def Copy.isLoad (c : Copy) : Bool := isExternal c.src

/-- The next burst of a copy: external address and length (R87). -/
def Copy.nextBurst (c : Copy) (r j : Nat) : Nat × Nat :=
  let stride := if c.isLoad then c.sstr else c.dstr
  let va := (rowExternal c.external stride r + c.off) % 2 ^ 56
  let _ := j
  (va, min (shRowb c.shape - c.off) (4096 - va % 4096))

/-- A copy whose last burst has ended, and that admits no other, completes. -/
def State.copyDrained (s : State) (id : Nat) : State :=
  match s.copy? id with
  | none => s
  | some c =>
    let finished := c.cancelled || c.status.isSome || c.rows == some []
    if c.bursts.isEmpty && finished && !c.ended then
      let s1 := s.updCopy id (fun c => { c with
        ended := true, status := some (if c.cancelled then 7 else c.status.getD 0) })
      if shType c.shape = 3 ∧ !c.cancelled ∧ c.status.getD 0 = 0 ∧ !c.data.isEmpty then s1.later 1 (.multicastPush id (2 ^ 20))
      else s1.later 1 (.copyCompletion id)
    else s

/-- A partition's virtual function takes device page requests (R91, R92). -/
def State.canRequestPage (s : State) (tag : Nat) (host : Bool) : Bool :=
  let p := (s.vf (tag + 1)).prring.toNat
  (s.part tag).pageReq && (host || (natBits p 56 8 == 1 && p % 8192 == 0))

/-- Sends the page-request trap message of a Geyser for a copy or a thread (R91, R379, R380). -/
def State.pageFault (s : State) (ch tag va : Nat) (write : Bool) (copy thread : Option Nat) : State :=
  s.trapMsg (2 ^ 20 + ch) {
    kind := 1, part := BitVec.ofNat 10 tag, acc := if write then 2 else 1, die := ch / 128,
    edge := ch / 64 % 2 == 1, srcmap := natWord (2 ^ (ch % 64)), va := va / 2 ^ 16 * 2 ^ 16,
    copies := copy.toList, threads := thread.toList }

/-- A stream that a burst from va to va + len continues upward, or downward. -/
def PStream.goesUp (x : PStream) (tag : BitVec 10) (va : Nat) : Bool := x.tag == tag && x.hi == va
def PStream.goesDown (x : PStream) (tag : BitVec 10) (va len : Nat) : Bool := x.tag == tag && x.lo == va + len

/-- The prefetcher's streams after a translated burst (R96): it continues a stream upward or downward, or begins one. A
seventeenth stream replaces the oldest (DESIGN CHOICE, log entry 89: R96 names none). -/
def trackStream (ss : List PStream) (tag : BitVec 10) (va len : Nat) : List PStream :=
  if ss.any (·.goesUp tag va) then replaceFirst (·.goesUp tag va) (fun _ => ⟨tag, va, va + len, false, 0⟩) ss
  else if ss.any (·.goesDown tag va len) then replaceFirst (·.goesDown tag va len) (fun _ => ⟨tag, va, va + len, true, 0⟩) ss
  else (if ss.length < 16 then ss else ss.drop 1) ++ [⟨tag, va, va + len, false, 0⟩]

/-- A Geyser's prefetcher sees a translated burst of a device address, and reads ahead in its stream (R96). -/
def State.noteBurst (s : State) (ch : Nat) (tag : BitVec 10) (va len : Nat) : State :=
  let ss := trackStream (s.geyser ch).streams tag va len
  let i := (ss.findIdx? (fun x => x.tag == tag && x.lo == va && x.hi == va + len)).getD 0
  (s.updGeyser ch (fun g => { g with streams := ss })).later 8 (.geyserPrefetch ch i)

/-- Advances a copy past an admitted burst. -/
def Copy.advance (c : Copy) (b : Burst) : Copy :=
  let rows := c.rows.getD []
  if c.off + b.len < shRowb c.shape then { c with bursts := c.bursts ++ [b], off := c.off + b.len, charged := false }
  else { c with bursts := c.bursts ++ [b], off := 0, rows := some (rows.drop 1), charged := false }

/-- A final outcome other than OK stops a copy (R115). -/
def State.failCopy (s : State) (id : Nat) (code : Nat) : State :=
  (s.updCopy id (fun c => { c with status := some (c.status.getD (BitVec.ofNat 8 code)), stalled := none })).copyDrained
    id

/-- Admits a burst at a translated place. -/
def State.admitBurst (s : State) (id r j va len : Nat) (t : Trans) (c : Copy) : State :=
  let tag := c.tag.toNat
  let bid := s.fresh
  let b : Burst := { id := bid.1, row := r, j, off := c.off, len, host := t.host, addr := t.addr, channel := c.channel,
                     entry := t.entry, ats := if t.host then s.atsEntry tag t.addr else 0, c := t.c, va }
  let s1 := ((bid.2.updCopy id (fun c => c.advance b)).useEntry c.channel t.entry true).useAts b.ats true
  let s2 := if t.host then s1 else s1.noteBurst c.channel c.tag va len
  let s3 := if t.host && !c.isLoad then s2.later 8 (.burstComplete id bid.1) else s2.sendBurst id c b
  s3.later 1 (.burstAdmission id)

/-- A burst of host memory: it ends with HOSTERR while the host link is down or Bus Master Enable is 0, a read too (DESIGN
CHOICE, log entry 90: R99 says so of writes), and it waits for the translation of its page (R98). -/
def State.hostBurst (s : State) (id r j va len : Nat) (t : Trans) (c : Copy) : State :=
  let tag := c.tag.toNat
  if !s.hostCanWrite tag then s.failCopy id 6
  else if s.hostReady tag t.addr then s.admitBurst id r j va len t c
  else (s.askAts tag t.addr (!c.isLoad) (some id) none).updCopy id (fun c => { c with stalled := some 1 })

/-- The translation of a charged burst and its outcome (R90, R91). -/
def State.translateBurst (s : State) (id r j va len : Nat) (c : Copy) : State :=
  let tag := c.tag.toNat
  if ptrTag c.external = 1 then s.hostBurst id r j va len ⟨va, true, false, 0⟩ c
  else
    let x := s.translate c.channel tag va (!c.isLoad)
    match x.2 with
    | .ok t => if t.host then x.1.hostBurst id r j va len t c else x.1.admitBurst id r j va len t c
    | .error .full => x.1.again (.burstAdmission id)
    | .error .ecc => x.1
    | .error w =>
      let requests := (w == .notPresent || w == .notWritable) && s.canRequestPage tag false
      if requests then
        (x.1.pageFault c.channel tag va (!c.isLoad) (some id) none).updCopy id (fun c => { c with stalled := some w.code })
      else x.1.failCopy id w.code

/-- A partition has reached its Geyser-byte budget of the period at a channel (R370). -/
def State.overBytes (s : State) (ch tag : Nat) : Bool :=
  let budget := natBits (s.part tag).budget0.toNat 0 32
  budget != 0 && decide (budget ≤ (s.geyser ch).bytes.getD tag 0)

/-- Charges n bytes to the Geyser-byte budget of a partition at a channel (R370). -/
def State.chargeBytes (s : State) (ch tag n : Nat) : State :=
  s.updGeyser ch (fun g => { g with bytes := g.bytes.put tag (g.bytes.getD tag 0 + n) })

/-- BURST_ADMISSION: the next burst of a copy is admitted past the Geyser-byte budget, charged once, and translated; none while
a scrub of the partition runs (R404). -/
def execBurstAdmission (id : Nat) (s : State) : Out :=
  match s.copy? id with
  | none => .next s
  | some c =>
    match c.cancelled || c.status.isSome || c.stalled.isSome, c.rows with
    | false, some ((r, j) :: _) =>
      let tag := c.tag.toNat
      let b := c.nextBurst r j
      if (s.part tag).scrubbing then .next (s.again (.burstAdmission id))
      else if c.charged then .next (s.translateBurst id r j b.1 b.2 c)
      else if s.overBytes c.channel tag then .next (s.again (.burstAdmission id))
      else
        let s1 := (s.chargeBytes c.channel tag b.2).updCopy id (fun c => { c with charged := true })
        .next (s1.translateBurst id r j b.1 b.2 c)
    | _, _ =>
      let s1 := if c.cancelled then s.updCopy id (fun c => { c with stalled := none }) else s
      .next (s1.copyDrained id)

/-! ## The movement of a burst's bytes (R68, R69, R108, R109, R115, R126, R429) -/

/-- The window offset of packed row j on the scratchpad side, at an offset in the row (R108, R111, R112). -/
def Copy.scratchRow (c : Copy) (j off : Nat) : Word × Nat :=
  let ptr := if c.isLoad then c.dst else c.src
  let stride := if c.isLoad then c.dstr else c.sstr
  let head := if shType c.shape = 1 then 8 else 0
  let width := if ptrTag ptr = 0xF0 then 2 ^ 17 else 2 ^ 21
  (ptr, ((scratchOff ptr + head + j * stride.toNat) % width + off) % width)

/-- The energy of moving n bytes at a Geyser (R426); a certificate is written for no thread. -/
def State.chargeCopy (s : State) (c : Copy) (n : Nat) (device : Bool) : State :=
  if c.isCert then s
  else
    let s1 := s.charge c.frame 8 ((n + 63) / 64)
    if device then s1.charge c.frame 9 ((n + 63) / 64) else s1

/-! ## Writes on their way (R109, R113, R117, R129) -/

/-- The bank, or the home slice, that a write on its way reaches. -/
def State.lateBank (s : State) (l : Late) : Nat :=
  if l.device then 2 ^ 40 + paChannel l.off
  else match scratchByte s l.core l.ptr l.off with | some (k, o) => k * 16 + natBits (s.reduce k o) 3 4 | none => 2 ^ 41

/-- A write on its way waits behind the earlier ones of its owner at its bank or slice (R109); one that follows all others
waits for them. -/
def State.lateWaits (s : State) (l : Late) : Bool :=
  (s.late.takeWhile (fun x => x.id != l.id)).any (fun x => x.owner == l.owner && s.lateBank x == s.lateBank l) ||
    (l.last && s.late.any (fun x => x.id != l.id && x.owner == l.owner && x.core == l.core))

/-- A write of an owner has not been performed yet. -/
def State.lateOf (s : State) (owner : Nat) : Bool := s.late.any (fun x => x.owner == owner)

/-- Issues a write: it is performed by a step of its own. -/
def State.issueLate (s : State) (l : Late) : State :=
  let r := s.fresh
  let s1 := if l.device then r.2.useEntry l.channel l.entry true else r.2
  { s1 with late := s1.late ++ [{ l with id := r.1 }] }.later 0 (.burstComplete l.owner r.1)

/-- The word that holds a byte of a window is set full and its waiters are served (R50). -/
def State.fillWord (s : State) (l : Late) : State :=
  match scratchByte s l.core l.ptr l.off with
  | some (k, o) =>
    if s.coreOf k l.tag l.epoch && !s.inGap k o then (s.setFull k (s.reduce k o) true).serve k (s.reduce k o) else s
  | none => s

/-- A write is performed. What a cancelled prefetch has still on its way is discarded (R126). -/
def State.performLate (s0 : State) (l : Late) : State :=
  let s := { s0 with late := s0.late.filter (fun x => x.id != l.id) }
  let dead := ((s.copy? l.owner).map (·.cancelled)).getD false
  if l.device then (s.devWrite l.tag.toNat l.off l.data l.c).useEntry l.channel l.entry false
  else if dead then s
  else
    let w := (engineWrite s l.core l.tag l.epoch l.ptr l.off l.data).1
    if l.full then w.fillWord l else w

/-- The writes of a row of bytes at an offset of a window, one for each word. -/
def lateRow (l : Late) (off : Nat) (data : List Byte) : Nat → List Late
  | 0 => []
  | n + 1 =>
    if data.isEmpty then []
    else
      let m := 8 - off % 8
      { l with off, data := data.take m } :: lateRow l (off + m) (data.drop m) n

/-! ## The pieces of a burst (R129) -/

/-- The bytes of a burst that are moved next: within one word of scratchpad and one line of device memory. -/
def Copy.piece (c : Copy) (b : Burst) : Nat :=
  min (b.len - b.moved) (min (8 - ((c.scratchRow b.j b.off).2 + b.moved) % 8) (64 - (b.addr + b.moved) % 64))

/-- Updates the first burst of a copy. -/
def Copy.updBurst (c : Copy) (h : Burst → Burst) : Copy :=
  match c.bursts with | b :: bs => { c with bursts := h b :: bs } | [] => c

/-- The next bytes of a load's burst: read at its external side, and written to scratchpad by a step of their own, or added
to the tile of a push. A host read has them all at its completion. -/
def State.loadPiece (s : State) (id : Nat) (c : Copy) (b : Burst) (n : Nat) : State :=
  let row := c.scratchRow b.j b.off
  let r := if b.host then (s, ((b.got.getD []).drop b.moved).take n) else s.devRead c.tag.toNat (b.addr + b.moved) n b.c
  let s1 := r.1.updCopy id (fun c => c.updBurst (fun b => { b with moved := b.moved + n }))
  if shType c.shape = 3 then s1.updCopy id (fun c => { c with data := c.data ++ r.2 })
  else if c.cancelled then s1
  else
    let w := (engineWrite s1 c.core c.tag c.epoch row.1 (row.2 + b.moved) r.2).2
    let s2 := s1.updCopy id (fun c => { c with gap := c.gap || w.1, refused := c.refused || w.2 })
    s2.issueLate { owner := id, tag := c.tag, epoch := c.epoch, core := c.core, ptr := row.1, off := row.2 + b.moved, data := r.2 }

/-- The next bytes of a store's burst: read from scratchpad, or those of a certificate, and written to device memory by a step
of their own; a host write collects them and is sent whole. -/
def State.storePiece (s : State) (id : Nat) (c : Copy) (b : Burst) (n : Nat) : State :=
  let row := c.scratchRow b.j b.off
  let r := if c.isCert then ((c.data.drop (b.off + b.moved)).take n, false, false)
    else engineRead s c.core c.tag c.epoch row.1 (row.2 + b.moved) n
  let s1 := s.updCopy id (fun c => { c.updBurst (fun b => { b with moved := b.moved + n }) with
    gap := c.gap || r.2.1, refused := c.refused || r.2.2 })
  if b.host then
    let all := b.got.getD [] ++ r.1
    if b.len ≤ b.moved + n then s1.hostStore c.tag.toNat b.addr all
    else s1.updCopy id (fun c => c.updBurst (fun b => { b with got := some all }))
  else
    s1.issueLate { owner := id, tag := c.tag, epoch := c.epoch, off := b.addr + b.moved, data := r.1, device := true, c := b.c,
                   channel := c.channel, entry := b.entry }

/-- The scratchpad side of a copy lies in another module. -/
def Copy.abroad (s : State) (c : Copy) : Bool :=
  let ptr := if c.isLoad then c.dst else c.src
  !c.isCert && ptrTag ptr == 0xF3 && natBits ptr.toNat 46 10 != s.module.toNat

/-- The cores that hold a burst's scratchpad side. -/
def State.burstCores (s : State) (c : Copy) (b : Burst) : List Nat :=
  let row := c.scratchRow b.j b.off
  if c.isCert || shType c.shape == 3 then []
  else ((rangeFrom 0 ((b.len + 7) / 8)).filterMap (fun i => (scratchByte s c.core row.1 (row.2 + 8 * i)).map (·.1))).eraseDups

/-- A burst begins to move: the words that it cannot reach are counted, its flows are noted in deterministic mode, and what
crosses a link is charged: its data, or the request of a read (R26, R153, R370). -/
def State.beginBurst (s : State) (c : Copy) (b : Burst) : State :=
  let row := c.scratchRow b.j b.off
  let away := c.abroad s && s.reaches (natBits row.1.toNat 46 10)
  let s1 := if c.cancelled || c.isCert || shType c.shape == 3 then s
    else s.refuseWords c.core c.tag c.epoch row.1 row.2 b.len
  let s2 := (s.burstCores c b).foldl (fun s k => s.noteFlow c.frame (2 ^ 20 + c.channel) k c.tag) s1
  if away then
    let n := if c.isLoad then (b.len + 241) / 242 else 1
    (s2.chargeFabric c.tag.toNat n).charge c.frame 10 n
  else s2

/-- The first burst of a copy leaves it: its translation is no longer in use but by its writes (R87, R99). -/
def State.leaveBurst (s : State) (id : Nat) (c : Copy) (b : Burst) : State :=
  ((s.updCopy id (fun c => { c with bursts := c.bursts.drop 1 })).useEntry c.channel b.entry false).useAts b.ats false

/-- A host read of a copy that has returned moves when it is the first burst. -/
def State.nextReturned (s : State) (id : Nat) : State :=
  match (s.copy? id).bind (fun c => c.bursts.head?) with
  | some b => if b.host && (b.got.isSome || b.err) then s.later 0 (.burstComplete id b.id) else s
  | none => s

/-- The end of the first burst of a copy. -/
def State.endBurst (s : State) (id : Nat) (c : Copy) (b : Burst) : State :=
  let rowDone := decide (shRowb c.shape ≤ b.off + b.len) && !c.cancelled
  let s1 := s.updCopy id (fun c => { c with
    bytes := c.bytes + b.len, fullRows := if rowDone && c.masked then c.fullRows + 1 else c.fullRows })
  (((s1.leaveBurst id c b).chargeCopy c b.len (!b.host)).nextReturned id).copyDrained id

/-- The first burst of a copy ends with HOSTERR: it moves nothing, and later ones move nothing when they end. The status is
that of the first burst in order that fails (R99, R115). A push raises PAGE at the marker that waits for it (R263). -/
def State.hostErr (s : State) (id : Nat) (c : Copy) (b : Burst) : State :=
  let s1 := if c.isPush && !c.dead then
      s.updFrame c.frame (fun f =>
        let d : Due := ⟨0x0C, 6, natWord b.va, f.eseq, true⟩
        { f with dueMark := f.dueMark ++ [d] })
    else s
  let first (c : Copy) : Copy := { c with status := if c.dead then c.status else some 6, dead := true }
  ((((s1.leaveBurst id c b).updCopy id first).failCopy id 6).nextReturned id)

/-- The uncorrectable storage that a burst meets: of what it reads, or of a line of device memory that it fills in part
(R68, R79, R429). -/
def State.burstError (s : State) (c : Copy) (b : Burst) : Option (Nat × Bool) :=
  if c.isLoad then (if b.host then none else s.deviceError c.tag.toNat b.addr b.len)
  else
    let row := c.scratchRow b.j b.off
    (if c.isCert then none else poolError s c.core c.tag c.epoch row.1 row.2 b.len).or
      (if b.host then none else s.fillError c.tag.toNat b.addr b.len b.c)

/-- A burst meets an uncorrectable word or line: a transient error is corrected and the burst tried again; a lasting one stops
the copy for good and is reported with the address of R374. -/
def State.burstFails (s : State) (id : Nat) (c : Copy) (b : Burst) (e : Nat × Bool) : State :=
  if e.2 then
    if 2 ^ 30 ≤ e.1 then s.lasting (2 ^ 20 + paChannel b.addr) c.tag b.va (some (b.addr / 2 ^ 16))
    else s.lasting (keyEnd e.1) c.tag (keyOffset e.1)
  else
    let die := if 2 ^ 30 ≤ e.1 then paChannel b.addr / 128 else (endPos (keyEnd e.1)).1
    (s.transient die e.1).later 1 (.burstComplete id b.id)

/-- The next piece of the first burst of a copy; the burst ends with its last one. -/
def State.burstPiece (s0 : State) (id : Nat) (c : Copy) (b : Burst) : State :=
  let n := c.piece b
  let s := if b.moved = 0 then s0.beginBurst c b else s0
  let s1 := if c.isLoad then s.loadPiece id c b n else s.storePiece id c b n
  if b.len ≤ b.moved + n then s1.endBurst id c b else s1.later 0 (.burstComplete id b.id)

/-- A write on its way is performed in its turn. -/
def State.lateStep (s : State) (l : Late) : State :=
  if s.lateWaits l then s.later 1 (.burstComplete l.owner l.id) else s.performLate l

/-- A host read of a copy has not returned yet. -/
def Burst.awaited (c : Copy) (b : Burst) : Bool := b.host && c.isLoad && b.got.isNone && !b.err

/-- BURST_COMPLETE: bursts of a copy end in order, and move their bytes word by word; the number may also be that of a write on
its way. -/
def execBurstComplete (id bid : Nat) (s : State) : Out :=
  match s.late.find? (fun l => l.id == bid && l.owner == id), s.copy? id with
  | some l, _ => .next (s.lateStep l)
  | none, none => .next s
  | none, some c =>
    match c.bursts with
    | [] => .next s
    | b :: _ =>
      if b.id ≠ bid then
        (if c.bursts.any (fun x => x.id == bid && !x.awaited c) then .next (s.again (.burstComplete id bid)) else .next s)
      else if b.awaited c then .next s
      else if b.err || c.dead || (b.host && !c.isLoad && !s.hostCanWrite c.tag.toNat) then .next (s.hostErr id c b)
      else if c.abroad s && b.moved == 0 && s.fabricHolds c.tag.toNat then .next (s.again (.burstComplete id bid))
      else
        match s.burstError c b with
        | some e => .next (s.burstFails id c b e)
        | none => .next (s.burstPiece id c b)

/-! ## Completion (R111, R113 to R115, R127) -/

/-- The gather header: the packed count, set full; its word's waiters are served (R50, R111). -/
def State.gatherHeader (s : State) (id : Nat) (c : Copy) : State :=
  match scratchByte s c.core c.dst (scratchOff c.dst) with
  | none =>
    if s.reaches (natBits c.dst.toNat 46 10) then s
    else (s.refuse c.core c.tag).updCopy id (fun c => { c with refused := true })
  | some (k, l) =>
    if !s.coreOf k c.tag c.epoch then (s.refuse k c.tag).updCopy id (fun c => { c with refused := true })
    else if s.inGap k l then s.updCopy id (fun c => { c with gap := true })
    else
      let off := s.reduce k l
      ((s.poolWrite k off 8 (natWord c.fullRows)).setFull k off true).serve k off

/-- The completion record without its TIME (R114). -/
def Copy.record (c : Copy) : List Word :=
  let t := shType c.shape
  let count := if t = 1 ∨ t = 2 then c.fullRows else if t = 3 then c.count else 0
  [natWord (1 + t * 256 + c.tid.toNat * 2 ^ 16 + (c.status.getD 0).toNat * 2 ^ 32 + c.gap.toNat * 2 ^ 40 +
    c.refused.toNat * 2 ^ 41), natWord c.bytes, natWord count, 0]

/-- A failing status raises ENGINE on the issuing task (R115). -/
def State.copyEngine (s : State) (c : Copy) : State :=
  let st := c.status.getD 0
  if st = 0 ∨ st = 7 ∨ c.retired then s
  else s.updFrame c.frame (fun f => { f with due := f.due ++ [⟨0x0B, st, st.setWidth 64, 1#1 ++ c.tid, true⟩] })

/-- The copy is no longer outstanding. -/
def State.copyGone (s : State) (id : Nat) (c : Copy) : State :=
  let s1 := { s with copies := s.copies.del id }.updFrame c.frame (fun f => { f with copies := f.copies.erase id })
  ((s1.copyEngine c).later 1 (.taskDispatch (c.core / 16))).later 1 (.tilePrefetchStart (c.core / 16))

/-- The record is wanted: by CTGT and by a task that has not retired. -/
def Copy.wantsRecord (c : Copy) : Bool := !c.retired && (flTarget c.flags == 0 || c.status.getD 0 != 0)

/-- The record of a copy is kept in the inbox of its pre-empted core, and the copy stays outstanding (R113, R127, R387). -/
def State.parkRecord (s : State) (id : Nat) (c : Copy) : State :=
  let r := s.fresh
  let p : Packet := ⟨r.1, hubEnd, c.core, 2, c.tag, c.epoch, c.frame, [], s.cycle, .copyRecord c.frame c.record id⟩
  (r.2.parkMessage c.core p).updCopy id (fun c => { c with parked := true })

/-- A copy whose record cannot be placed yet waits for it at the network interface, behind the earlier ones (R113). -/
def State.holdRecord (s : State) (id : Nat) (c : Copy) : State :=
  (s.updCore c.core (fun x => { x with heldRecords := x.heldRecords ++ [id] })).later 8 (.mailboxRecordPlace c.core)

/-- The record of a copy is placed and the copy is no longer outstanding. -/
def State.placeRecord (s : State) (id : Nat) (c : Copy) : State :=
  ((s.placeMail c.frame c.record).charge c.frame 11 1).copyGone id c

/-- A record of the core is parked in its inbox. -/
def State.recordParked (s : State) (k : Nat) : Bool := s.copies.any (fun x => x.2.core == k && x.2.parked)

/-- The record of a thread's copy has arrived: it is placed, or held at the network interface behind earlier ones, or kept in
the inbox behind those that stand there (R113, R127). -/
def State.completeThreadCopy (s : State) (id : Nat) (c : Copy) : State :=
  if !c.wantsRecord then s.copyGone id c
  else if (s.core c.core).preempted && s.recordParked c.core then s.parkRecord id c
  else if s.mailFull c.frame || !(s.core c.core).heldRecords.isEmpty then s.holdRecord id c
  else s.placeRecord id c

/-- A record that was parked in the inbox of its core is taken up again (R390). -/
def State.replayRecord (s : State) (id : Nat) : State :=
  match s.copy? id with
  | none => s
  | some c => (s.updCopy id (fun c => { c with parked := false })).completeThreadCopy id c

/-- The completion of a thread's copy is posted: its record travels on VC2 from the Geyser, or from the collective unit, to the
core (R113, R147). -/
def State.postRecord (s : State) (id : Nat) (c : Copy) : State :=
  if !c.wantsRecord then s.copyGone id c
  else
    let src := if shType c.shape = 4 then hubEnd else 2 ^ 20 + c.channel
    let n := s.fresh
    let s1 := (n.2.updCopy id (fun c => { c with order := some n.1 })).noteFlow c.frame src c.core c.tag
    s1.send src c.core 2 c.tag c.epoch c.frame [] (.copyRecord c.frame c.record id)

/-- An earlier record of the same task is still on its way (R113). -/
def State.recordBehind (s : State) (c : Copy) : Bool :=
  s.copies.any (fun x => x.2.core == c.core && x.2.frame == c.frame && decide (x.2.order.getD 0 < c.order.getD 0) &&
    x.2.order.isSome && s.net.any (fun p => match p.body with | .copyRecord _ _ i => i == x.1 | _ => false))

/-- A record arrives at its core, in the order in which its task's copies completed. -/
def State.recordArrives (s : State) (p : Packet) (id : Nat) : State :=
  match s.copy? id with
  | none => s.dropPacket p.id
  | some c =>
    if !s.canArrive p || s.recordBehind c then s.again (.copyCompletion p.id)
    else (s.dropPacket p.id).completeThreadCopy id c

/-- The writes of a copy are all performed, or its completion need not wait for them: its own thread acquires them by the
record under ACQ, others by the header of a gather under ACQ at a scope that reaches them (R113, R117, R140). A reduce's result
has always been written (R124). -/
def State.writesDone (s : State) (id : Nat) (c : Copy) (others : Bool) : Bool :=
  !s.lateOf id || shType c.shape == 3 || (c.purpose == .thread && shType c.shape != 4 && !(flAcq c.flags && !(others && flScope c.flags == 0)))

/-- COPY_COMPLETION: a gather writes its header, then the completion is posted. The number may also be that of a record on its
way. -/
def execCopyCompletion (id : Nat) (s : State) : Out :=
  match s.copy? id, s.packet id with
  | none, some p => .next (match p.body with | .copyRecord _ _ i => s.recordArrives p i | _ => s)
  | none, none => .next s
  | some c, _ =>
    if !c.ended || c.order.isSome || c.parked then .next s
    else if shType c.shape = 1 ∧ !c.header then
      if s.writesDone id c true then
        .next (((s.updCopy id (fun c => { c with header := true })).gatherHeader id c).later 0 (.copyCompletion id))
      else .next (s.later 1 (.copyCompletion id))
    else if !s.writesDone id c false then .next (s.later 1 (.copyCompletion id))
    else
      match c.purpose with
      | .thread => .next (s.postRecord id c)
      | .prefetch .. => .next (s.later 1 (.prefetchCompletion id))
      | .cert _ => .next (s.later 1 (.certificateWriteDone c.tag.toNat))
      | .xpush out =>
        let s2 := { s with copies := s.copies.del id }.performed out
        .next (s2.returnWord c.frame out 0 (natWord c.count) false false)

/-- MAILBOX_RECORD_PLACE: the oldest record held for a core is placed when its mailbox has a free entry; a pre-empted core
whose mailbox is full keeps it in its inbox (R127). -/
def execMailboxRecordPlace (k : Nat) (s : State) : Out :=
  match (s.core k).heldRecords with
  | [] => .next s
  | id :: rest =>
    let s1 := s.updCore k (fun x => { x with heldRecords := rest })
    match s.copy? id with
    | none => .next (s1.later 1 (.mailboxRecordPlace k))
    | some c =>
      if !c.wantsRecord then .next ((s1.copyGone id c).later 1 (.mailboxRecordPlace k))
      else if s.mailFull c.frame then
        (if (s.core k).preempted then .next ((s1.parkRecord id c).later 1 (.mailboxRecordPlace k))
         else .next (s.again (.mailboxRecordPlace k)))
      else .next ((s1.placeRecord id c).later 1 (.mailboxRecordPlace k))

/-! ## The prefetcher (R96) -/

/-- A quiet translation: a matching entry or a walk that sets neither A nor D; its page-table reads allocate (R80). -/
def State.quietWalk (s : State) (ch tag va : Nat) : State × Option (Nat × Bool × Bool) :=
  match (s.geyser ch).gtlb.find? (fun e => gtlbMatch e tag va && !e.invalid) with
  | some e =>
    let addr := e.frame + (if e.block then va % 2 ^ 29 else va % 2 ^ 16)
    (s, if e.host || s.insidePart tag addr then some (addr, e.host, e.c) else none)
  | none =>
    let r := s.walk tag va false true
    match r.2 with
    | .ok addr host c _ _ _ => (r.1, some (addr, host, c))
    | _ => (r.1, none)

/-- Reads the line of an address ahead into its slice when its leaf allows it (R96, R266). -/
def State.readAhead (s : State) (ch tag va : Nat) : State :=
  match s.quietWalk ch tag va with
  | (s1, some (addr, host, c)) =>
    if !host && c && paChannel addr == ch then
      let x := s1.deviceSound (BitVec.ofNat 10 tag) (addr / 64 * 64) 64 va
      if x.2 then x.1.cacheTouch tag addr true false else x.1
    else s1
  | (s1, none) => s1

/-- GEYSER_PREFETCH: the next line of a stream is read ahead, at most 4 KiB. -/
def execGeyserPrefetch (ch i : Nat) (s : State) : Out :=
  match (s.geyser ch).streams[i]? with
  | none => .next s
  | some x =>
    if 4096 ≤ x.ahead then .next s
    else
      let va := if x.down then x.lo - x.ahead - 64 else x.hi + x.ahead
      let s1 := s.readAhead ch x.tag.toNat va
      .next (s1.updGeyser ch (fun g => { g with streams := g.streams.set i { x with ahead := x.ahead + 64 } }))

end Sys2Proof.Machine
end

