-- ==== Sys2Proof/Machine/Float.lean ====
section
/-! DEFINITION. Exact values, rounding, FP32, F19 and their conversions (R180 to R185, R280 to R284). A result is a
pair of its bits and a mask of the sticky bits of c.estat that it sets. -/

namespace Sys2Proof.Machine

/-- A result and the sticky bits it sets. -/
abbrev FRes := BitVec 32 × BitVec 32

/-- The mask of one sticky bit. -/
def stick (b : Nat) : BitVec 32 := (1 : BitVec 32) <<< b

/-- A mask when a condition holds. -/
def stickIf (c : Bool) (b : Nat) : BitVec 32 := if c then stick b else 0

/-! ## Fields of FP32 -/

def f32Exp (x : BitVec 32) : Nat := natBits x.toNat 23 8
def f32Frac (x : BitVec 32) : Nat := natBits x.toNat 0 23
def f32Neg (x : BitVec 32) : Bool := x.getLsbD 31
def f32NaN (x : BitVec 32) : Bool := f32Exp x == 255 && f32Frac x != 0
def f32SNaN (x : BitVec 32) : Bool := f32NaN x && !x.getLsbD 22
def f32Inf (x : BitVec 32) : Bool := f32Exp x == 255 && f32Frac x == 0
def f32Fin (x : BitVec 32) : Bool := f32Exp x != 255
def f32Zero (x : BitVec 32) : Bool := natBits x.toNat 0 31 == 0

/-- The canonical quiet NaN (R180). -/
def qNaN : BitVec 32 := 0x7FC00000

/-- An infinity or a zero of a sign. -/
def f32InfOf (neg : Bool) : BitVec 32 := if neg then 0xFF800000 else 0x7F800000
def f32ZeroOf (neg : Bool) : BitVec 32 := if neg then 0x80000000 else 0

/-- The magnitude of a finite value in units of 2^−149. -/
def f32Mag (x : BitVec 32) : Nat :=
  if f32Exp x = 0 then f32Frac x else (2 ^ 23 + f32Frac x) * 2 ^ (f32Exp x - 1)

/-- A finite value in units of 2^−149. -/
def f32Int (x : BitVec 32) : Int := if f32Neg x then -(f32Mag x : Int) else f32Mag x

/-- A lane as an operand of a float operation: F19 lanes read bits [31:13] (R184). -/
def fRead (f19 : Bool) (x : BitVec 32) : BitVec 32 := if f19 then x &&& 0xFFFFE000 else x

/-- An order key of values that are no NaN: −0 below +0 (R282). -/
def f32Key (x : BitVec 32) : Int := if f32Neg x then -(natBits x.toNat 0 31 : Int) - 1 else natBits x.toNat 0 31

/-- An order key in which the zeros are equal. -/
def f32Ord (x : BitVec 32) : Int := if f32Neg x then -(natBits x.toNat 0 31 : Int) else natBits x.toNat 0 31

/-! ## Rounding -/

/-- A positive rational num / den rounded to an integer: the integer and whether it is inexact. r is the 24-bit draw
of stochastic rounding (R181, R182). -/
def roundInt (m : Rnd) (neg : Bool) (num den r : Nat) : Nat × Bool :=
  let q := num / den
  let rem := num % den
  let up := match m with
    | .rne => decide (den < 2 * rem) || (2 * rem == den && q % 2 == 1)
    | .rz => false
    | .ru => rem != 0 && !neg
    | .rd => rem != 0 && neg
    | .rs => decide (r < 2 ^ 24 * rem / den)
  (if up then q + 1 else q, rem != 0)

/-- The same for num / den divided by 2^q. -/
def roundAt (m : Rnd) (neg : Bool) (num den : Nat) (q : Int) (r : Nat) : Nat × Bool :=
  if 0 ≤ q then roundInt m neg num (den * 2 ^ q.toNat) r else roundInt m neg (num * 2 ^ (-q).toNat) den r

/-- ⌊log2 (num / den)⌋ of a positive rational. -/
def ratLog (num den : Nat) : Int :=
  let l : Int := (num.log2 : Int) - (den.log2 : Int)
  let ge : Bool := if 0 ≤ l then decide (den * 2 ^ l.toNat ≤ num) else decide (den ≤ num * 2 ^ (-l).toNat)
  if ge then l else l - 1

/-- Significant bits and the exponent of the smallest subnormal of FP32 and F19 (R183). -/
def fPrec (f19 : Bool) : Nat := if f19 then 11 else 24
def fMinExp (f19 : Bool) : Int := if f19 then -136 else -149

/-- The FP32 bits of a magnitude in units of 2^−149 that a format holds. -/
def f32Bits (mag : Nat) : Nat :=
  if mag < 2 ^ 23 then mag
  else
    let e := mag.log2 - 22
    e * 2 ^ 23 + (mag / 2 ^ (e - 1) - 2 ^ 23)

/-- The largest finite value of a format. -/
def fMax (f19 neg : Bool) : BitVec 32 :=
  (if f19 then 0x7F7FE000 else 0x7F7FFFFF) ||| (if neg then 0x80000000 else 0)

/-- The result of an overflow (R181): under stochastic rounding, RNE's. -/
def fOverflow (f19 : Bool) (m : Rnd) (neg : Bool) : BitVec 32 :=
  match m with
  | .rne | .rs => f32InfOf neg
  | .rz => fMax f19 neg
  | .ru => if neg then fMax f19 true else f32InfOf false
  | .rd => if neg then f32InfOf true else fMax f19 false

/-- The magnitude exceeds the largest finite value of the format. -/
def aboveMax (f19 : Bool) (num den : Nat) : Bool :=
  decide (den * ((2 ^ fPrec f19 - 1) * 2 ^ (128 - fPrec f19)) < num)

/-- Rounds a non-zero value ± num / den to FP32 or F19 once (R180 to R183): tininess is detected after rounding. -/
def packF (f19 : Bool) (m : Rnd) (neg : Bool) (num den r : Nat) : FRes :=
  let p := fPrec f19
  let m := if m = .rs ∧ aboveMax f19 num den then .rne else m
  let l := ratLog num den
  let q0 : Int := l - p + 1
  let q := max q0 (fMinExp f19)
  let x := roundAt m neg num den q r
  let tiny := decide (l < -126) && (decide (l < -127) || decide ((roundAt m neg num den q0 r).1 < 2 ^ p))
  let top : Int := 128 - p
  if top < q ∨ (q = top ∧ 2 ^ p ≤ x.1) then (fOverflow f19 m neg, stick bitOf ||| stick bitNx)
  else
    (f32ZeroOf neg ||| BitVec.ofNat 32 (f32Bits (x.1 * 2 ^ (q + 149).toNat)),
      stickIf x.2 bitNx ||| stickIf (x.2 && tiny) bitUf)

/-- Rounds an exact value given in units of 2^−u; an exact zero takes the sign given. -/
def packUnits (f19 : Bool) (m : Rnd) (zeroNeg : Bool) (x : Int) (u r : Nat) : FRes :=
  if x = 0 then (f32ZeroOf zeroNeg, 0) else packF f19 m (decide (x < 0)) x.natAbs (2 ^ u) r

/-! ## Arithmetic (R280 to R282) -/

/-- A NaN result, with IV when an operand is a signalling NaN or the operation is invalid. -/
def nanRes (iv : Bool) : FRes := (qNaN, stickIf iv bitIv)

/-- The sign of an exact zero sum of two terms (IEEE 754; stochastic counts as RNE). -/
def zeroSum (m : Rnd) (na nb : Bool) : Bool := if na == nb then na else m == .rd

/-- a + b. -/
def fAdd (f19 : Bool) (m : Rnd) (a b : BitVec 32) (r : Nat) : FRes :=
  if f32NaN a || f32NaN b then nanRes (f32SNaN a || f32SNaN b)
  else if f32Inf a && f32Inf b && f32Neg a != f32Neg b then nanRes true
  else if f32Inf a then (a, 0)
  else if f32Inf b then (b, 0)
  else packUnits f19 m (zeroSum m (f32Neg a) (f32Neg b)) (f32Int a + f32Int b) 149 r

/-- The value with its sign flipped. -/
def fNeg (a : BitVec 32) : BitVec 32 := a ^^^ 0x80000000

/-- a · b. -/
def fMul (f19 : Bool) (m : Rnd) (a b : BitVec 32) (r : Nat) : FRes :=
  let neg := f32Neg a != f32Neg b
  if f32NaN a || f32NaN b then nanRes (f32SNaN a || f32SNaN b)
  else if (f32Inf a && f32Zero b) || (f32Zero a && f32Inf b) then nanRes true
  else if f32Inf a || f32Inf b then (f32InfOf neg, 0)
  else packUnits f19 m neg (f32Int a * f32Int b) 298 r

/-- (± a · b) ± c with one rounding. -/
def fMulAdd (f19 : Bool) (m : Rnd) (np nc : Bool) (a b c0 : BitVec 32) (r : Nat) : FRes :=
  let c := if nc then fNeg c0 else c0
  let neg := (f32Neg a != f32Neg b) != np
  let bad := (f32Inf a && f32Zero b) || (f32Zero a && f32Inf b)
  if f32NaN a || f32NaN b || f32NaN c then nanRes (f32SNaN a || f32SNaN b || f32SNaN c || bad)
  else if bad then nanRes true
  else if f32Inf a || f32Inf b then
    if f32Inf c && f32Neg c != neg then nanRes true else (f32InfOf neg, 0)
  else if f32Inf c then (c, 0)
  else
    let p := f32Int a * f32Int b
    packUnits f19 m (zeroSum m neg (f32Neg c)) ((if np then -p else p) + f32Int c * 2 ^ 149) 298 r

/-- VFMIN and VFMAX of one lane. -/
def fMinMax (isMax : Bool) (a b : BitVec 32) : FRes :=
  if f32NaN a || f32NaN b then nanRes (f32SNaN a || f32SNaN b)
  else if isMax then (if f32Key a < f32Key b then b else a, 0)
  else (if f32Key b < f32Key a then b else a, 0)

/-- VFCMP of one lane. -/
def fCompare (c : FCond) (a b : BitVec 32) : Bool × BitVec 32 :=
  let un := f32NaN a || f32NaN b
  let sn := f32SNaN a || f32SNaN b
  let x := f32Ord a
  let y := f32Ord b
  match c with
  | .eq => (!un && x == y, stickIf sn bitIv)
  | .ne => (un || x != y, stickIf sn bitIv)
  | .lt => (!un && decide (x < y), stickIf un bitIv)
  | .le => (!un && decide (x ≤ y), stickIf un bitIv)
  | .gt => (!un && decide (y < x), stickIf un bitIv)
  | .ge => (!un && decide (y ≤ x), stickIf un bitIv)
  | .un => (un, stickIf sn bitIv)
  | .ord => (!un, stickIf sn bitIv)

/-! ## Conversions (R185, R284) -/

/-- The range of an n-bit integer. -/
def intMin (n : Nat) (u : Bool) : Int := if u then 0 else -(2 ^ (n - 1) : Int)
def intMax (n : Nat) (u : Bool) : Int := if u then 2 ^ n - 1 else 2 ^ (n - 1) - 1

/-- A value clamped to a range. -/
def clampInt (lo hi x : Int) : Int := if x < lo then lo else if hi < x then hi else x

/-- Float to an n-bit integer. -/
def fToInt (m : Rnd) (n : Nat) (u : Bool) (x : BitVec 32) (r : Nat) : Int × BitVec 32 :=
  if f32NaN x then (0, stick bitIv)
  else if f32Inf x then (if f32Neg x then intMin n u else intMax n u, stick bitIv)
  else
    let y := roundInt m (f32Neg x) (f32Mag x) (2 ^ 149) r
    let v : Int := if f32Neg x then -(y.1 : Int) else y.1
    let w := clampInt (intMin n u) (intMax n u) v
    if w = v then (v, stickIf y.2 bitNx) else (w, stick bitIv)

/-- An integer to FP32 or F19. -/
def intToF (f19 : Bool) (m : Rnd) (x : Int) (r : Nat) : FRes := packUnits f19 m false x 0 r

/-- FP32 to F19, or F19 to FP32 (exact). -/
def fToF (f19 : Bool) (m : Rnd) (x : BitVec 32) (r : Nat) : FRes :=
  if f32NaN x then nanRes (f32SNaN x)
  else if f32Inf x then (x, 0)
  else packUnits f19 m (f32Neg x) (f32Int x) 149 r

/-- A value in units of 2^e rounded by RNE to FP32. -/
def scaleToF (x : Int) (e : Int) : FRes :=
  if 0 ≤ e then packUnits false .rne false (x * 2 ^ e.toNat) 0 0 else packUnits false .rne false x (-e).toNat 0

/-- round_rne of a finite value in units of 2^−149 divided by 2^e: the integer and whether it is inexact. -/
def rneAt (x : Int) (e : Int) : Int × Bool :=
  let y := roundAt .rne false x.natAbs (2 ^ 149) e 0
  (if x < 0 then -(y.1 : Int) else y.1, y.2)

/-! ## The random stream (R297, R298) -/

def rotl32 (x : BitVec 32) (n : Nat) : BitVec 32 := x.rotateLeft n

/-- One round of mix. -/
def mixRound (x : BitVec 32 × BitVec 32 × BitVec 32 × BitVec 32) : BitVec 32 × BitVec 32 × BitVec 32 × BitVec 32 :=
  let a0 := x.1 + x.2.1
  let a3 := rotl32 (x.2.2.2 ^^^ a0) 16
  let a2 := x.2.2.1 + a3
  let a1 := rotl32 (x.2.1 ^^^ a2) 12
  let b0 := a0 + a1
  let b3 := rotl32 (a3 ^^^ b0) 8
  let b2 := a2 + b3
  let b1 := rotl32 (a1 ^^^ b2) 7
  (b0, b1, b2, b3)

/-- The block of a key and a counter. -/
def mix (k c : Word) : VWord :=
  let x := mixRound (mixRound (mixRound (mixRound
    (c.extractLsb' 0 32, c.extractLsb' 32 32, k.extractLsb' 0 32, k.extractLsb' 32 32 ^^^ 0x6C616D70))))
  x.2.2.2 ++ x.2.2.1 ++ x.2.1 ++ x.1

/-- The 24-bit draw of slot k of a block (R182). -/
def drawAt (b : VWord) (k : Nat) : Nat := natBits b.toNat (32 * k) 24

end Sys2Proof.Machine
end

