-- ==== Sys2Proof/Machine/Codes.lean ====
section
/-! DEFINITION. Format descriptors, codes and plane records (R57 to R61, R186 to R195). -/

namespace Sys2Proof.Machine

/-! ## Format descriptors (R188) -/

/-- A valid format descriptor; w is the code width and n the number of window entries. -/
structure Desc where
  w : Nat
  sgn : Bool
  blk : Bool
  sat : Bool
  base : Nat
  nanc : Nat
  elo : Nat
  ehi : Nat
  n : Nat
  deriving DecidableEq, Repr, Inhabited

/-- The descriptor of two dwords, if it is valid. -/
def parseDesc (d0 d1 : Word) : Option Desc :=
  let x := d0.toNat
  let w := 2 ^ natBits x 0 2
  let sgn := d0.getLsbD 2
  let n := if sgn then 2 ^ (w - 1) else 2 ^ w
  let d : Desc := ⟨w, sgn, d0.getLsbD 3, d0.getLsbD 4, natBits x 8 8, natBits x 16 8, natBits x 24 8, natBits x 32 8, n⟩
  if natBits x 5 3 = 0 ∧ natBits x 40 24 = 0 ∧ d1 = 0 ∧ d.base + n ≤ 256 ∧ (sgn = true → 2 ≤ w) ∧ d.elo ≤ d.ehi ∧
      d.nanc < 2 ^ w then some d
  else none

/-! ## Decoding (R189) -/

/-- The value of a code under a block's scale byte. -/
def codeDecode (c : Core) (d : Desc) (code x : Nat) : FRes :=
  let k := code % 2 ^ d.w
  let m := if d.sgn then k % 2 ^ (d.w - 1) else k
  let neg := d.sgn && decide (2 ^ (d.w - 1) ≤ k)
  let v0 := fRead true (c.dtabAt (d.base + m))
  if f32NaN v0 then nanRes (f32SNaN v0)
  else
    let v := if neg then fNeg v0 else v0
    if !d.blk then (v, 0)
    else if x = 0xFF then (qNaN, 0)
    else if f32Inf v then (v, 0)
    else packUnits true .rne (f32Neg v) (f32Int v * 2 ^ x) (149 + 127) 0

/-! ## Encoding (R191, R192) -/

/-- The scale of the exact values that the search compares: units of 2^−277; an infinity stands at ± 2^1000. -/
def extInt (v : BitVec 32) : Option Int :=
  if f32NaN v then none
  else if f32Inf v then some (if f32Neg v then -(2 ^ 1000) else 2 ^ 1000)
  else some (f32Int v * 2 ^ 128)

/-- v(p), the value of an encode-order position. -/
def encVal (c : Core) (p : Nat) : Option Int := extInt (fRead true (c.dtabAt (c.orderAt p).toNat))

/-- Comparisons and distances of values, false for a NaN entry. -/
def vLe (a b : Option Int) : Bool := match a, b with | some x, some y => decide (x ≤ y) | _, _ => false
def vLt (a b : Option Int) : Bool := match a, b with | some x, some y => decide (x < y) | _, _ => false
def vEq (a b : Option Int) : Bool := match a, b with | some x, some y => x == y | _, _ => false
def vFin (a : Option Int) : Bool := match a with | some x => decide (x.natAbs < 2 ^ 1000) | none => false
def vSub (a b : Option Int) : Option Int :=
  match a, b with
  | some x, some y => some (if vFin a && vFin b then x - y else 2 ^ 1000)
  | _, _ => none

/-- The eight steps of the search: the largest p with v(p) ≤ x. -/
def searchGo (c : Core) (x : Option Int) : Nat → Nat → Nat → Nat
  | 0, lo, _ => lo
  | n + 1, lo, hi =>
    let mid := (lo + hi + 1) / 2
    if vLe (encVal c mid) x then searchGo c x n mid hi else searchGo c x n lo (mid - 1)

/-- index(p). -/
def encIndex (c : Core) (d : Desc) (p : Nat) : Nat := ((c.orderAt p).toNat + 256 - d.base) % d.n

/-- The position of a finite x that is not below v(ELO). -/
def codeSearch (c : Core) (d : Desc) (x : Option Int) : Nat :=
  let p := searchGo c x 8 d.elo d.ehi
  if vEq (encVal c p) x || p == d.ehi then p
  else
    let q := p + 1
    let a := vSub x (encVal c p)
    let b := vSub (encVal c q) x
    if vLt a b then p else if vLt b a then q else if encIndex c d p % 2 = 0 then p else q

/-- The positions of the searched range. -/
def Desc.positions (d : Desc) : List Nat := rangeFrom d.elo (d.ehi + 1 - d.elo)

/-- The highest position with the largest value under a key among those that meet a condition. -/
def bestPos (ps : List Nat) (ok : Nat → Bool) (key : Nat → Int) : Option Nat :=
  ps.foldl (fun b p => if ok p then (match b with | some q => if key q ≤ key p then some p else b | none => some p) else b)
    none

/-- What an encoding decides: a position, NANC, or a code that the rules leave open. -/
inductive EncRes where
  | pos (p : Nat) | nanc | open_
  deriving DecidableEq, Repr, Inhabited

/-- The largest finite entry of a sign (R192), left open where there is none. -/
def signMax (c : Core) (d : Desc) (neg : Bool) : EncRes :=
  let v (p : Nat) : Int := (encVal c p).getD 0
  let ok (p : Nat) : Bool := vFin (encVal c p) && f32Neg (c.dtabAt (c.orderAt p).toNat) == neg
  match bestPos d.positions ok (fun p => if neg then -v p else v p) with
  | some p => .pos p
  | none => .open_

/-- An infinity, searched as ± ∞. -/
def encInf (c : Core) (d : Desc) (neg : Bool) : EncRes × BitVec 32 :=
  if d.sat then (signMax c d neg, stick bitSatc)
  else
    let inf : Option Int := some (if neg then -(2 ^ 1000) else 2 ^ 1000)
    match bestPos d.positions (fun p => vEq (encVal c p) inf) (fun _ => 0) with
    | some p => (.pos p, 0)
    | none => (.nanc, stick bitOf)

/-- A finite value (R191, R192). Where the entry beside the extreme one, that the threshold of R192 needs, is missing or not
finite, SAT = 1 fixes the code and SAT = 0 leaves it open on which side of the threshold x lies: `near` decides (log entry 57). -/
def encFin (c : Core) (d : Desc) (near : Bool) (x : Int) : EncRes × BitVec 32 :=
  let v := encVal c
  let y := some x
  let nx (p : Nat) : BitVec 32 := stickIf (!vEq (v p) y) bitNx
  let far (p : Nat) (neg : Bool) : EncRes × BitVec 32 := if d.sat then (.pos p, stick bitSatc) else encInf c d neg
  -- the flag of "as for an infinity": OF also where the range holds the infinity
  let beyond (p : Nat) (neg : Bool) : EncRes × BitVec 32 :=
    let r := far p neg
    (r.1, if d.sat then stick bitSatc else stick bitOf)
  let alone (p : Nat) (neg : Bool) : EncRes × BitVec 32 := if !d.sat && near then (.pos p, nx p) else beyond p neg
  if vLt y (v d.elo) then
    if d.elo = d.ehi ∨ !vFin (v d.elo) then alone d.elo true
    else
      -- 2 x > 2 v(ELO) − (v(ELO + 1) − v(ELO))
      match v d.elo, vSub (v (d.elo + 1)) (v d.elo) with
      | some a, some b => if 2 * a - b < 2 * x then (.pos d.elo, nx d.elo) else beyond d.elo true
      | _, _ => alone d.elo true
  else
    match bestPos d.positions (fun p => vFin (v p)) (fun p => (v p).getD 0) with
    | none => (.pos (codeSearch c d y), nx (codeSearch c d y))
    | some f =>
      if vLt (v f) y then
        if f = d.elo then alone f false
        else
          match v f, vSub (v f) (v (f - 1)) with
          | some a, some b => if 2 * x < 2 * a + b then (.pos f, nx f) else beyond f false
          | _, _ => alone f false
      else
        let p := codeSearch c d y
        (.pos p, nx p)

/-- The code of a lane under a scale byte, with a free word for the codes the rules leave open. -/
def codeEncode (c : Core) (d : Desc) (lane : BitVec 32) (x : Nat) (free : Word) : Nat × BitVec 32 :=
  if d.blk && x == 0xFF then (d.nanc, stick bitIv)
  else
    let s := d.sgn && f32Neg lane
    let scaled : Int := f32Int lane * 2 ^ (if d.blk then 255 - x else 128)
    let r : EncRes × BitVec 32 :=
      if f32NaN lane then (.nanc, stick bitIv)
      else if f32Inf lane then encInf c d (f32Neg lane && !d.sgn)
      else encFin c d (free.getLsbD 63) (if s then -scaled else scaled)
    let sign := if s then 2 ^ (d.w - 1) else 0
    match r.1 with
    | .pos p => (encIndex c d p ||| sign, r.2)
    | .nanc => (d.nanc ||| sign, r.2)
    | .open_ => (free.toNat % 2 ^ d.w, r.2)

/-! ## Plane records (R57 to R61) -/

/-- Header fields. -/
def hE (h : Nat) : Nat := natBits h 0 8
def hW (h : Nat) : Nat := natBits h 8 8
def hNan (h : Nat) : Bool := natBits h 16 1 == 1
def hPinf (h : Nat) : Bool := natBits h 17 1 == 1
def hNinf (h : Nat) : Bool := natBits h 18 1 == 1
def hZero (h : Nat) : Bool := natBits h 19 1 == 1
def hSgn (h : Nat) : Bool := natBits h 20 1 == 1
def hCls (h : Nat) : Nat := natBits h 21 3
def hSpec (h : Nat) : Bool := natBits h 24 1 == 1

/-- The header part of R59. -/
def hdrOk (h : Nat) : Bool :=
  let fl := hNan h || hPinf h || hNinf h
  natBits h 25 39 == 0 && !(hZero h && fl) &&
  (match hCls h with
   | 0 => decide (1 ≤ hW h ∧ hW h ≤ 16) && hE h == 0 && !fl && !hSpec h
   | 1 => decide (4 ≤ hW h ∧ hW h ≤ 16) && hSgn h && hSpec h == (hPinf h || hNinf h)
   | 2 => hW h == 1 && hE h == 0 && !hSgn h && !fl && !hSpec h
   | _ => false)

/-- Bytes of a record's slot (R61). -/
def recSlot (cls w : Nat) : Nat := 8 + 8 * w + (if cls = 1 then 24 else 0)

/-- Bit i of a word as a number. -/
def bitN (x i : Nat) : Nat := x / 2 ^ i % 2

/-- The value of W plane bits, read as two's complement when signed. -/
def signedOf (sgn : Bool) (w x : Nat) : Int := if sgn && decide (2 ^ (w - 1) ≤ x) then (x : Int) - 2 ^ w else x

/-- s_i of a record's words. -/
def recElem (ws : List Nat) (w : Nat) (sgn : Bool) (i : Nat) : Int :=
  signedOf sgn w (((rangeFrom 0 w).map (fun j => bitN (ws.getD (1 + j) 0) i * 2 ^ j)).sum)

/-- The record of a list of words, if it is well-formed (R59). A finite element is negative when s < 0, an infinite
one when IS = 1 (R313). -/
def readRec (ws : List Nat) : Option PRec :=
  let h := ws.getD 0 0
  let w := hW h
  if !hdrOk h then none
  else
    let is := rangeFrom 0 48
    let s := is.map (recElem ws w (hSgn h))
    let sp := hSpec h
    let inf := is.map (fun i => sp && bitN (ws.getD (2 + w) 0) i == 1)
    let neg := is.map (fun i =>
      if sp && bitN (ws.getD (2 + w) 0) i == 1 then bitN (ws.getD (3 + w) 0) i == 1 else decide (s.getD i 0 < 0))
    let zero := is.map (fun i => if sp then bitN (ws.getD (1 + w) 0) i == 1 else s.getD i 0 == 0)
    if hZero h = (s.all (· == 0) && !(hNan h || hPinf h || hNinf h)) then
      some ⟨hE h, w, hCls h, hSgn h, hNan h, s, inf, neg, zero⟩
    else none

/-- A plane of Booleans as a word. -/
def planeOf (bs : List Bool) : Nat := bs.foldr (fun b x => b.toNat + 2 * x) 0

/-- Header of a record. -/
def PRec.header (r : PRec) : Nat :=
  let pinf := (r.inf.zip r.neg).any (fun x => x.1 && !x.2)
  let ninf := (r.inf.zip r.neg).any (fun x => x.1 && x.2)
  let zero := r.s.all (· == 0) && !(r.nan || pinf || ninf)
  r.e + r.w * 2 ^ 8 + r.nan.toNat * 2 ^ 16 + pinf.toNat * 2 ^ 17 + ninf.toNat * 2 ^ 18 + zero.toNat * 2 ^ 19 +
    r.sgn.toNat * 2 ^ 20 + r.cls * 2 ^ 21 + (r.cls == 1 && (pinf || ninf)).toNat * 2 ^ 24

/-- The words of a record's slot. A class-1 slot without special planes ends in zeros (DESIGN CHOICE, log entry 120: R61 says only
that readers ignore them). -/
def PRec.words (r : PRec) : List Nat :=
  let plane (j : Nat) : Nat := planeOf (r.s.map (fun v => bitN (v % 2 ^ r.w).toNat j == 1))
  let spec := r.inf.any id
  [r.header] ++ (rangeFrom 0 r.w).map plane ++
    (if r.cls = 1 then
      (if spec then [planeOf r.zero, planeOf r.inf, planeOf ((r.inf.zip r.neg).map (fun x => x.1 && x.2))] else [0, 0, 0])
     else [])

/-- The element exponent of R194. -/
def elemExp (x : BitVec 32) : Option Int :=
  if f32Fin x && !f32Zero x then some (((f32Mag x).log2 : Int) - 149) else none

/-- The range of a W-bit signed value holds s. -/
def inRange (w : Nat) (s : Int) : Bool := decide (-(2 ^ (w - 1) : Int) ≤ s) && decide (s ≤ 2 ^ (w - 1) - 1)

/-- One element of plane_align at exponent E. -/
def alignElem (w e : Nat) (x : BitVec 32) : Int × Bool :=
  if f32Fin x then rneAt (f32Int x) ((e : Int) - 127 - ((w : Int) - 2)) else (0, false)

/-- The exponent of plane_align, raised while some element lies outside the range. -/
def alignExp (w : Nat) (xs : List (BitVec 32)) : Nat → Nat → Nat
  | 0, e => e
  | n + 1, e => if xs.any (fun x => !inRange w (alignElem w e x).1) && decide (e < 255) then alignExp w xs n (e + 1) else e

/-- plane_align of 48 values (R194) with the sticky bits it sets. -/
def planeAlign (w : Nat) (xs : List (BitVec 32)) : PRec × BitVec 32 :=
  let exps := xs.filterMap elemExp
  let e0 : Int := match exps with | [] => 0 | a :: r => r.foldl max a + 127
  let e := alignExp w xs 256 (clampInt 0 255 e0).toNat
  let ys := xs.map (fun x => (x, alignElem w e x))
  let out (y : BitVec 32 × Int × Bool) : Bool := f32Fin y.1 && !inRange w y.2.1
  let inf := ys.map (fun y => f32Inf y.1 || out y)
  let s := ys.map (fun y => if out y then 0 else y.2.1)
  let neg := ys.map (fun y => f32Neg y.1)
  let zero := (s.zip ys).map (fun y => f32Fin y.2.1 && !out y.2 && y.1 == 0)
  let fl := ys.foldl (fun f y => f ||| stickIf y.2.2 bitNx ||| stickIf (out y) bitOf ||| stickIf (out y) bitNx |||
    stickIf (f32Fin y.1 && !f32Zero y.1 && y.2.1 == 0) bitUf ||| stickIf (f32SNaN y.1) bitIv) (0 : BitVec 32)
  (⟨e, w, 1, true, xs.any f32NaN, s, inf, (inf.zip neg).map (fun x => x.1 && x.2), zero⟩, fl)

end Sys2Proof.Machine
end

