-- ==== Sys2Proof/Machine/Semiring.lean ====
section
/-! DEFINITION. The operator table of the semiring array and the outputs it forms (R196, R312 to R314, R321). -/

namespace Sys2Proof.Machine

/-! ## The operator table (R312) -/

/-- Class of the A and B records of an entry. -/
def entCls (e : Nat) : Nat := if e = 1 ∨ e = 2 then 1 else if 7 ≤ e then 2 else 0

/-- SGN of the records of an entry; entry 0 takes either. -/
def entSgn (e : Nat) : Option Bool :=
  if e = 0 then none else if e = 1 ∨ e = 2 ∨ e = 4 then some true else some false

/-- The range of P and of B's W. -/
def entRange (e : Nat) : Nat × Nat :=
  if e = 1 ∨ e = 2 then (4, 16) else if e = 4 then (2, 16) else if 7 ≤ e then (1, 1) else (1, 16)

/-- The identity as an accumulator value. -/
def entIdent (e : Nat) : Nat :=
  if e = 2 then 0xFF800000 else if e = 3 ∨ e = 6 then 0xFFFFFFFF else if e = 4 then 0x80000000 else 0

/-- The accumulator of an entry is signed. -/
def accSigned (e : Nat) : Bool := e == 0 || e == 4

/-- An accumulator of an integer entry as a number. -/
def accVal (e x : Nat) : Int := if accSigned e && decide (2 ^ 31 ≤ x) then (x : Int) - 2 ^ 32 else x

/-- The identity of an integer entry as a number. -/
def identVal (e : Nat) : Int := accVal e (entIdent e)

/-- a ⊗ b of the integer entries; wa and wb are the widths of the records. -/
def combine (e wa wb : Nat) (a b : Int) : Int :=
  let top (w : Nat) : Int := 2 ^ w - 1
  let bot (w : Nat) : Int := -(2 ^ (w - 1))
  match e with
  | 0 => a * b
  | 3 => if a = top wa ∨ b = top wb then identVal 3 else a + b
  | 4 => if a = bot wa ∨ b = bot wb then identVal 4 else a + b
  | 5 => min a b
  | 6 => if a = top wa ∨ b = top wb then identVal 6 else max a b
  | _ => a * b

/-- The reduce operation of the integer entries. -/
def reduceOp (e : Nat) (x y : Int) : Int :=
  match e with
  | 3 | 6 => min x y
  | 4 | 5 => max x y
  | 7 => if x = 0 ∧ y = 0 then 0 else 1
  | 8 => if x = y then 0 else 1
  | _ => x + y

/-- The elements of a row of records: value, infinity, sign and zero mark of the first k (R301). -/
structure ARow where
  s : List Int
  inf : List Bool
  neg : List Bool
  zero : List Bool
  recs : List PRec
  deriving DecidableEq, Repr, Inhabited

def aRow (recs : List PRec) (k : Nat) : ARow :=
  ⟨(recs.flatMap PRec.s).take k, (recs.flatMap PRec.inf).take k, (recs.flatMap PRec.neg).take k,
    (recs.flatMap PRec.zero).take k, recs⟩

/-- int_output: the new accumulator and the sticky bits. -/
def intOutput (e : Nat) (sat : Bool) (wa wb : Nat) (a b : ARow) (acc : Nat) : Nat × BitVec 32 :=
  let t := (a.s.zip b.s).foldl (fun t x => reduceOp e t (combine e wa wb x.1 x.2)) (identVal e)
  let x := reduceOp e (accVal e acc) t
  let lo : Int := if accSigned e then -(2 ^ 31) else 0
  let hi : Int := if accSigned e then 2 ^ 31 - 1 else 2 ^ 32 - 1
  if (e = 0 ∨ e = 9) ∧ (x < lo ∨ hi < x) then
    ((((if sat then clampInt lo hi x else x) % 2 ^ 32).toNat), stick bitAov)
  else ((x % 2 ^ 32).toNat, 0)

/-! ## The float entries (R196, R313) -/

/-- E − 127 − (W − 2) of a record. -/
def recScale (r : PRec) : Int := (r.e : Int) - 127 - ((r.w : Int) - 2)

/-- Block b's elements of a list. -/
def blockOf {α : Type} (l : List α) (b : Nat) : List α := (l.drop (48 * b)).take 48

/-- The scale of block pair b. -/
def pairScale (a b : ARow) (i : Nat) : Int := recScale (a.recs.getD i default) + recScale (b.recs.getD i default)

/-- The partial of block pair i of entry 1, converted once to FP32; blocks beyond K are padded with +0. -/
def partial1 (a b : ARow) (i : Nat) : FRes :=
  let p := ((blockOf a.s i).zip (blockOf b.s i)).foldl (fun t x => t + x.1 * x.2) (0 : Int)
  if i < a.recs.length then scaleToF p (pairScale a b i) else (0, 0)

/-- The tile sum of entry 1: partials added in increasing order, each sum rounded. -/
def tileSum (a b : ARow) : FRes :=
  (rangeFrom 1 15).foldl (fun t i =>
    let p := partial1 a b i
    let x := fAdd false .rne t.1 p.1 0
    (x.1, t.2 ||| p.2 ||| x.2)) (partial1 a b 0)

/-- The maximum product of block pair i of entry 2 over pairs in which neither element is infinite. -/
def partial2 (a b : ARow) (i : Nat) : Option FRes :=
  let xs := ((blockOf a.s i).zip (blockOf b.s i)).zip ((blockOf a.inf i).zip (blockOf b.inf i))
  match (xs.filter (fun x => !x.2.1 && !x.2.2)).map (fun x => x.1.1 * x.1.2) with
  | [] => none
  | p :: ps => some (scaleToF (ps.foldl max p) (pairScale a b i))

/-- The maximum over blocks of entry 2, −∞ when no pair remained. -/
def tileMax (a b : ARow) : FRes :=
  (rangeFrom 0 a.recs.length).foldl (fun t i =>
    match partial2 a b i with
    | some p => ((fMinMax true t.1 p.1).1, t.2 ||| p.2)
    | none => t) (f32InfOf true, 0)

/-- What the special-value detector finds: NaN, +∞, −∞ and the sticky bits (R313). -/
structure Svd where
  nan : Bool
  pinf : Bool
  ninf : Bool
  fl : BitVec 32
  deriving DecidableEq, Repr, Inhabited

/-- One element pair of the detector: (inf, neg, zero) of a and of b. -/
def svdStep (e : Nat) (d : Svd) (x : (Bool × Bool × Bool) × (Bool × Bool × Bool)) : Svd :=
  let (ai, an, az) := x.1
  let (bi, bn, bz) := x.2
  if e = 2 ∧ ai ∧ an then d
  else if ai || bi then
    if (ai && bz) || (bi && az) then { d with nan := true, fl := d.fl ||| stick bitIv }
    else if an != bn then { d with ninf := true }
    else { d with pinf := true }
  else d

/-- The elements of a row for the detector. -/
def ARow.marks (a : ARow) : List (Bool × Bool × Bool) := a.inf.zip (a.neg.zip a.zero)

def svd (e : Nat) (a b : ARow) : Svd :=
  let d := (a.marks.zip b.marks).foldl (svdStep e) ⟨a.recs.any PRec.nan || b.recs.any PRec.nan, false, false, 0⟩
  if e = 1 ∧ d.pinf ∧ d.ninf then { d with nan := true, fl := d.fl ||| stick bitIv } else d

/-- float_output: the new accumulator and the sticky bits. -/
def floatOutput (e : Nat) (a b : ARow) (acc : Nat) : Nat × BitVec 32 :=
  let d := svd e a b
  let t0 := if e = 1 then tileSum a b else tileMax a b
  let t : BitVec 32 :=
    if d.nan then qNaN else if d.pinf then f32InfOf false else if d.ninf && e == 1 then f32InfOf true else t0.1
  let x : BitVec 32 := BitVec.ofNat 32 acc
  let y : FRes :=
    if e = 1 then fAdd false .rne x t 0
    else if f32NaN x || f32NaN t then (qNaN, stickIf (f32SNaN x) bitIv) else fMinMax true x t
  (y.1.toNat, t0.2 ||| d.fl ||| y.2)

/-- An A row whose every element equals the annihilator (R314). -/
def skips (e p : Nat) (a : ARow) : Bool :=
  if e = 2 then (a.inf.zip a.neg).all (fun x => x.1 && x.2)
  else
    let v : Int := if e = 3 ∨ e = 6 then 2 ^ p - 1 else if e = 4 then -(2 ^ (p - 1)) else 0
    a.s.all (· == v)

/-! ## Drain conversions (R321) -/

/-- The FP32 mode of one accumulator. -/
def drainF (e x : Nat) : FRes :=
  if e = 1 ∨ e = 2 then (BitVec.ofNat 32 x, 0)
  else if (e = 3 ∨ e = 6) ∧ x = 0xFFFFFFFF then (f32InfOf false, 0)
  else if e = 4 ∧ x = 0x80000000 then (f32InfOf true, 0)
  else intToF false .rne (accVal e x) 0

/-- The integer element of the PLANES mode. -/
def drainInt (e wd : Nat) (sat : Bool) (x : Nat) : Int × BitVec 32 :=
  let v := accVal e x
  let top : Int := 2 ^ wd - 1
  let lo : Int := -(2 ^ (wd - 1))
  let hi : Int := 2 ^ (wd - 1) - 1
  if e = 0 then
    if lo ≤ v ∧ v ≤ hi then (v, 0)
    else (if sat then clampInt lo hi v else signedOf true wd (v % 2 ^ wd).toNat, stick bitAov)
  else if e = 3 ∨ e = 6 then
    if x = 0xFFFFFFFF then (top, 0) else if top ≤ v then (top, stick bitSatmp) else (v, 0)
  else if e = 4 then
    if x = 0x80000000 then (lo, 0)
    else if lo + 1 ≤ v ∧ v ≤ hi then (v, 0) else (clampInt (lo + 1) hi v, stick bitSatmp)
  else if e = 5 ∨ e = 9 then (if top < v then (top, stick bitAov) else (v, 0))
  else (v % 2, 0)

/-- One record of the PLANES mode from at most 48 accumulators. -/
def drainRec (e wd : Nat) (sat : Bool) (xs : List Nat) : List Nat × BitVec 32 :=
  let pad := 48 - xs.length
  if e = 1 ∨ e = 2 then
    let r := planeAlign wd (xs.map (BitVec.ofNat 32) ++ List.replicate pad 0)
    (r.1.words, r.2)
  else
    let ys := xs.map (drainInt e wd sat)
    let fill : Int := if e = 3 ∨ e = 6 then 2 ^ wd - 1 else if e = 4 then -(2 ^ (wd - 1)) else 0
    let cls := if e = 7 ∨ e = 8 then 2 else 0
    let r : PRec := { w := wd, cls, sgn := accSigned e, s := ys.map (·.1) ++ List.replicate pad fill }
    (r.words, ys.foldl (fun f y => f ||| y.2) 0)

/-- A list cut into pieces of at most 48; n bounds their number. -/
def chunks48 {α : Type} (l : List α) : Nat → List (List α)
  | 0 => []
  | n + 1 => if l.isEmpty then [] else l.take 48 :: chunks48 (l.drop 48) n

/-- The bytes of one output row. -/
def drainRow (e : Nat) (mode : DrainMode) (wd : Nat) (sat : Bool) (xs : List Nat) : List Byte × BitVec 32 :=
  match mode with
  | .raw => (xs.flatMap (fun x => natBytes x 4), 0)
  | .fp32 =>
    let ys := xs.map (drainF e)
    (ys.flatMap (fun y => natBytes y.1.toNat 4), ys.foldl (fun f y => f ||| y.2) 0)
  | .planes =>
    let rs := (chunks48 xs 8).map (drainRec e wd sat)
    (rs.flatMap (fun r => r.1.flatMap (fun w => natBytes w 8)), rs.foldl (fun f r => f ||| r.2) 0)

/-- Widths that the PLANES mode of an entry accepts. -/
def wdOk (e wd : Nat) : Bool :=
  if e = 1 ∨ e = 2 then decide (4 ≤ wd) else if e = 7 ∨ e = 8 then wd == 1 else true

end Sys2Proof.Machine
end

