-- ==== Sys2Proof/Machine/Array.lean ====
section
/-! DEFINITION. The semiring array: issue, leases, tokens, commands and their completion (R300 to R311, R315 to R328). -/

namespace Sys2Proof.Machine

/-! ## Fields of commands -/

def isAlease : Instr → Bool | .alease _ => true | _ => false
def isArel : Instr → Bool | .arel => true | _ => false
def isAmark : Instr → Bool | .amark _ _ _ => true | _ => false

/-- A counted command (R306). -/
def isCounted : Instr → Bool
  | .aset .. | .aldb .. | .astr .. | .adrn .. | .azero .. => true
  | _ => false

/-- REL of a command. -/
def cmdRel : Instr → Bool
  | .aset o .. | .aldb o .. | .astr o .. | .adrn o .. | .azero o .. => o.rel
  | _ => false

/-- AMARK's immediate, 0 otherwise. -/
def cmdTag : Instr → Nat | .amark _ _ t => t.toNat | _ => 0

/-- Read or write rate of a view (R302). -/
def viewBeta (v : View) : Nat := match v with | .ilv => 2048 | _ => 128

/-- The pointer whose window is a view of the issuing core. -/
def viewPtr (v : View) : Word :=
  match v with
  | .own => natWord (0xF0 * 2 ^ 56)
  | .blk => natWord (0xF1 * 2 ^ 56)
  | .ilv => natWord (0xF2 * 2 ^ 56)

def ceilDiv (a b : Nat) : Nat := (a + b - 1) / b

/-! ## Issue (R304, R308 to R310, R315) -/

/-- All 16 cores of the cluster of the issuing core belong to its partition. -/
def State.wholeCluster (s : State) : Bool :=
  (rangeFrom (s.curCore / 16 * 16) 16).all (fun k => s.coreOf k (s.frameTag s.cur.fk) (s.frameEpoch s.cur.fk))

/-- STATE of the ring entry of a sequence number. -/
def ringState (c : Core) (seq : BitVec 16) : Nat := natBits (c.ring.getD (seq.toNat % 64) (0, 0)).1.toNat 23 3

/-- Issue of an E operation stalls (R139, R163). -/
def eStalls (s : State) (token : Bool) : Bool :=
  let c := s.core s.curCore
  let st := ringState c c.eseqNext
  s.engineHeld || (decide (1 ≤ st) && decide (st ≤ 3)) ||
    (token && (decide (8 ≤ (c.tokens.filter (fun t => t.frame == s.cur.fk)).length) || decide (64 ≤ c.tokens.length)))

/-- The token of a command: SEQ, STATUS, OP, TAG (R310). -/
def tokenWord (seq : BitVec 16) (op : Instr) (status : Nat) : Word :=
  natWord (seq.toNat + status * 2 ^ 16 + op.opcode * 2 ^ 24 + (cmdTag op) * 2 ^ 32)

/-- Places the token a command reserved. -/
def State.placeToken (s : State) (a : ACmd) (status : Nat) : State :=
  let r := s.fresh
  let isRes (t : Token) : Bool := t.frame == a.frame && !t.placed && t.value == tokenWord a.seq a.op 0
  if a.token && !a.orphan then
    (r.2.updCore a.core (fun c => { c with
      tokens := replaceFirst isRes (fun t => { t with placed := true, value := tokenWord a.seq a.op status, order := r.1 })
        c.tokens })).wakeToken a.frame
  else s

/-- A command ends: its ring entry, its place in the queue and its token. -/
def State.finishCmd (s : State) (a : ACmd) (st status : Nat) : State :=
  let s1 := s.updCore a.core (fun c => { c with ring := ringSet c.ring a.seq st status, acmds := c.acmds.erase a })
  s1.placeToken a status

/-- Ends the lease of a cluster. -/
def State.endLease (s : State) (q : Nat) : State := s.updCluster q (fun c => { c with lease := none })

/-- A pre-emption ends the lease of a cluster and keeps its record (R328). -/
def State.closeLease (s : State) (q : Nat) : State :=
  match (s.cluster q).lease with
  | none => s
  | some l =>
    { s with leaseRecs := s.leaseRecs.put l.frame ⟨l.frame, l.remaining, l.ldb, l.ldbConfig, l.config⟩ }.endLease q

/-- A lease that ends after its executing command: one that a pre-emption ends has a record, taken again as the lease
stands now, or dropped when its last counted command has completed. -/
def State.stopLease (s : State) (q fk : Nat) : State :=
  match (s.cluster q).lease, s.leaseRecs.get? fk with
  | some _, some _ => s.closeLease q
  | some _, none => s.endLease q
  | none, _ => { s with leaseRecs := s.leaseRecs.del fk }

/-- A frame holds the lease of a cluster. -/
def State.holdsLease (s : State) (q fk : Nat) : Bool :=
  match (s.cluster q).lease with | some l => l.frame == fk && !l.ending | none => false

/-- A counted command of the holder has completed: the L-th ends the lease (R306). -/
def State.countCmd (s : State) (q : Nat) (a : ACmd) : State :=
  match (s.cluster q).lease with
  | none => s
  | some l =>
    if l.frame == a.frame && (isCounted a.op) then
      if l.remaining ≤ 1 then s.endLease q
      else s.updCluster q (fun c => { c with lease := some { l with remaining := l.remaining - 1 } })
    else s

/-- A command of a flushing task: FLUSHED, with its token (R326). -/
def State.flushCmd (s : State) (a : ACmd) : State := (s.finishCmd a 6 5).countCmd (a.core / 16) a

/-- Takes a sequence number, a ring entry and a token entry, and enters the core's queue (R308 to R310); a task that is
being flushed has the command flushed at once. -/
def State.eIssue (s : State) (i : Instr) (ga gb : Word) (token : Bool) : State :=
  let k := s.curCore
  let fk := s.cur.fk
  let c := s.core k
  let seq := c.eseqNext
  let d0 := seq.toNat + i.opcode * 2 ^ 16 + slotNum s.cur.sk * 2 ^ 20 + 2 * 2 ^ 23 + ga.toNat % 2 ^ 21 * 2 ^ 34
  let a : ACmd := ⟨seq, k, fk, i, ga, gb, token, s.cur.pre.rowmask, s.copyAfter false, s.accIds fk, false⟩
  let t : List Token := if token then [⟨fk, false, tokenWord seq i 0, 0⟩] else []
  let s1 := s.setCore k { c with
    eseqNext := seq + 1, ring := c.ring.put (seq.toNat % 64) (natWord d0, i.tail),
    acmds := c.acmds ++ [a], tokens := c.tokens ++ t }
  if (s.cf).flushing && !(isAlease i) && !(isArel i) then s1.flushCmd a
  else s1.later 0 (.arrayCommandComplete (k / 16))

/-- An E operation but QPUSH and ALEASE. -/
def eOp (s : State) (i : Instr) (ga gb : Word) (scope : Nat) (token : Bool) : Out :=
  if !s.wholeCluster then .next (s.illegal 0)
  else
    match scopeTrap s scope with
    | some t => .next (s.trap t)
    | none => if eStalls s token then .next s.retry else .next ((s.clampScope scope).eIssue i ga gb token)

/-- ALEASE enters its request and waits until it is granted. -/
def aleaseAcquire (s : State) (i : Instr) : State := if s.waitStands 5 then s else (s.addWait 5).eIssue i 0 0 false

def execAlease (l : BitVec 6) (s : State) : Out :=
  if !s.wholeCluster then .next (s.illegal 0)
  else if !s.waitStands 5 && eStalls s false then .next s.retry
  else
    let s1 := aleaseAcquire s (.alease l)
    if s1.acquired then .next s1 else .next s1.parkInPlace

def execArel (s : State) : Out := eOp s .arel 0 0 0 false

def execAset (o : Ord) (t : Bool) (entry : BitVec 4) (p : BitVec 5) (sat skip rm : Bool) (s : State) : Out :=
  eOp s (.aset o t entry p sat skip rm) 0 0 o.scope.toNat t

def execAldb (o : Ord) (t : Bool) (view : View) (ga gb : BitVec 6) (rstr : BitVec 11) (n : BitVec 8) (k : BitVec 10)
    (s : State) : Out :=
  eOp s (.aldb o t view ga gb rstr n k) (s.pg ga) (s.pg gb) o.scope.toNat t

def execAstr (o : Ord) (t : Bool) (view : View) (ga : BitVec 6) (aoff : BitVec 14) (rstr m : BitVec 11) (s : State) :
    Out :=
  eOp s (.astr o t view ga aoff rstr m) (s.pg ga) 0 o.scope.toNat t

def execAdrn (o : Ord) (t : Bool) (view : View) (ga : BitVec 6) (aoff : BitVec 14) (n m : BitVec 8) (wd : BitVec 4)
    (clr tr : Bool) (mode : DrainMode) (s : State) : Out :=
  eOp s (.adrn o t view ga aoff n m wd clr tr mode) (s.pg ga) 0 o.scope.toNat t

def execAzero (o : Ord) (t : Bool) (aoff : BitVec 14) (n m : BitVec 8) (s : State) : Out :=
  eOp s (.azero o t aoff n m) 0 0 o.scope.toNat t

def execAmark (acq : Bool) (scope : BitVec 3) (tag : BitVec 32) (s : State) : Out :=
  eOp s (.amark acq scope tag) 0 0 scope.toNat true

/-- QPUSH (R323): a push as a write of the queue register would make; a FENCE before it holds it (R139). -/
def execQpush (n : BitVec 3) (ga : BitVec 6) (s : State) : Out :=
  match s.queueTrap true n.toNat with
  | some t => .next (s.trap t)
  | none =>
    if !s.waitStands 4 && s.fenceHolds .store then .next s.retry
    else
    let s1 := s.acquirePush 4 n.toNat (s.pg ga)
    if s1.acquired then .next s1 else .next s1.parkInPlace

/-! ## Accumulators and records (R301 to R303) -/

/-- The pool and offset of accumulator (m, n) of a region. -/
def State.accAt (s : State) (q aoff nc m n : Nat) : Nat :=
  let k := q * 16 + n % 16
  poolKey k (s.accBase k + 8 * aoff + 4 * (m * nc + n / 16))

def State.accRead (s : State) (q aoff nc m n : Nat) : Nat := s.pool.readLE (s.accAt q aoff nc m n) 4

def State.accWrite (s : State) (q aoff nc m n x : Nat) : State :=
  { s with pool := s.pool.writeLE (s.accAt q aoff nc m n) 4 x }

/-- A region of m rows fits in every core of the cluster. -/
def State.accFits (s : State) (q aoff m nc : Nat) : Bool :=
  (rangeFrom (q * 16) 16).all (fun k => decide (8 * aoff + 4 * m * nc ≤ 1024 * pwA (s.core k).pword))

/-- Little-endian dwords of bytes, at most n. -/
def dwordsOf (bs : List Byte) : Nat → List Nat
  | 0 => []
  | n + 1 => bytesNat (bs.take 8) :: dwordsOf (bs.drop 8) n

/-- Bytes of a view of the issuing core; gap and refused bytes read as zero. -/
def State.viewBytes (s : State) (a : ACmd) (v : View) (off n : Nat) : List Byte :=
  (engineRead s a.core (s.core a.core).tag (s.core a.core).epoch (viewPtr v) off n).1

/-- The records of one row, those that are not well-formed absent. -/
def State.rowRecs (s : State) (a : ACmd) (v : View) (off nrec slot : Nat) : List (Option PRec) :=
  (rangeFrom 0 nrec).map (fun b => readRec (dwordsOf (s.viewBytes a v (off + b * slot) slot) (slot / 8)))

/-- A record has the class, SGN and width that a configuration asks for. -/
def recOk (e w : Nat) (r : PRec) : Bool :=
  r.cls == entCls e && r.w == w && (match entSgn e with | some g => r.sgn == g | none => true)

/-- The records of a row when every one is well-formed and accepted (R308). -/
def goodRow (e w : Nat) (rs : List (Option PRec)) : Option (List PRec) :=
  let ok := rs.filterMap (fun r => match r with | some x => if recOk e w x then some x else none | none => none)
  if ok.length = rs.length then some ok else none

/-! ## What a command does (R312 to R321, R325) -/

/-- The outcome of a command: the state, its status, its cycles, the sticky bits, and the units of energy classes 6 and
7 (R426). -/
structure ARes where
  st : State
  status : Nat
  cycles : Nat
  fl : BitVec 32
  planes : Nat
  accs : Nat
  deriving DecidableEq, Repr, Inhabited

/-- A command that ends without work. -/
def aEnd (s : State) (status cycles : Nat) : ARes := ⟨s, status, cycles, 0, 0, 0⟩

/-- Entry, P, SAT, SKIP and RM of a configuration. -/
def cfgOf (a : ACmd) : Nat × Nat × Bool × Bool × Bool :=
  match a.op with
  | .aset _ _ e p sat skip rm => (e.toNat, p.toNat, sat, skip, rm)
  | _ => (0, 0, false, false, false)

/-- Updates the lease of a cluster. -/
def State.updLease (s : State) (q : Nat) (h : Lease → Lease) : State :=
  s.updCluster q (fun c => { c with lease := c.lease.map h })

/-- ALDB (R318): the B tile, or the status of its failure. -/
def aldbTile (s : State) (a : ACmd) (e : Nat) (v : View) (gb : BitVec 6) (rstr n k : Nat) : Except Nat BTile × Nat :=
  let nrec := ceilDiv k 48
  let base := a.ga.toNat % 2 ^ 21
  let w := natBits (bytesNat (s.viewBytes a v base 8)) 8 8
  let rng := entRange e
  let slot := recSlot (entCls e) (if w ≤ 16 then w else 0)
  let cyc := 32 + ceilDiv (n * nrec * slot + (if gb = 0 then 0 else 32)) (viewBeta v)
  if w < rng.1 ∨ rng.2 < w then (.error 2, cyc)
  else if rstr ≠ 0 ∧ 8 * rstr < nrec * slot then (.error 4, cyc)
  else
    let rows := (rangeFrom 0 n).map (fun r => goodRow e w (s.rowRecs a v (base + r * 8 * rstr) nrec slot))
    if rows.all Option.isSome then
      let mask := bytesNat (s.viewBytes a v (a.gb.toNat % 2 ^ 21) 32)
      let en := (rangeFrom 0 n).map (fun c => gb == 0 || mask.testBit c)
      (.ok ⟨k, n, en, rows.map (fun r => r.getD [])⟩, cyc)
    else (.error 2, cyc)

/-- One enabled row of ASTR: the accumulators of its enabled columns. -/
def astrRow (q e : Nat) (sat : Bool) (p : Nat) (t : BTile) (aoff nc m : Nat) (row : ARow) (r : State × BitVec 32) (n : Nat) :
    State × BitVec 32 :=
  if t.enabled.getD n false then
    let b := t.cols.getD n []
    let old := r.1.accRead q aoff nc m n
    let y :=
      if entCls e = 1 then floatOutput e row (aRow b t.k) old
      else intOutput e sat p (b.headD default).w row (aRow b t.k) old
    (r.1.accWrite q aoff nc m n y.1, r.2 ||| y.2)
  else r

/-- Rows m to m + cnt − 1 of ASTR in increasing order, over the words that the command has read. -/
def astrRows (vs : State) (q : Nat) (a : ACmd) (v : View) (cfg : Nat × Nat × Bool × Bool × Bool) (t : BTile) (rstr aoff : Nat) :
    Nat → Nat → ARes → ARes
  | 0, _, r => r
  | cnt + 1, m, r =>
    let (e, p, sat, skip, rm) := cfg
    let nrec := ceilDiv t.k 48
    let slot := recSlot (entCls e) p
    let nc := ceilDiv t.n 16
    let cost := ceilDiv (nrec * slot) (viewBeta v)
    let peff := if 7 ≤ e then 1 else p
    if rm && !(decide (m < 32) && a.rowmask.getLsbD m) then
      astrRows vs q a v cfg t rstr aoff cnt (m + 1) { r with cycles := r.cycles + 1 }
    else
      match goodRow e p (vs.rowRecs a v (a.ga.toNat % 2 ^ 21 + m * 8 * rstr) nrec slot) with
      | none => { r with status := 2, cycles := r.cycles + Nat.max 1 cost }
      | some recs =>
        let row := aRow recs t.k
        let sk := skip && skips e p row
        let y := (rangeFrom 0 t.n).foldl (astrRow q e sat p t aoff nc m row) (r.st, r.fl)
        let r1 : ARes :=
          ⟨y.1, 0, r.cycles + (if sk then Nat.max 1 cost else Nat.max peff cost), y.2,
            r.planes + (if sk then 0 else peff), r.accs + 2 * (t.enabled.filter id).length⟩
        astrRows vs q a v cfg t rstr aoff cnt (m + 1) r1

/-- Sets or reads every accumulator of a region of m rows and n columns. -/
def regionFold {α : Type} (m n : Nat) (f : α → Nat → Nat → α) (x : α) : α :=
  (rangeFrom 0 m).foldl (fun x i => (rangeFrom 0 n).foldl (fun x j => f x i j) x) x

/-- The output row j of ADRN. -/
def drainVals (s : State) (q aoff nc m n : Nat) (tr : Bool) (j : Nat) : List Nat :=
  if tr then (rangeFrom 0 m).map (fun i => s.accRead q aoff nc i j)
  else (rangeFrom 0 n).map (fun i => s.accRead q aoff nc j i)

/-- Performs a command under a lease (R307, R317 to R321): NOCFG without an ASET, and of an ASTR without a B tile. -/
def aPerform (s vs : State) (q : Nat) (l : Lease) (a : ACmd) : ARes :=
  match a.op, l.config with
  | .aset _ _ _ _ _ _ _, _ => aEnd (s.updLease q (fun l => { l with config := some a })) 0 4
  | .aldb _ _ v _ gb rstr n k, some cfg =>
    let r := aldbTile vs a (cfgOf cfg).1 v gb rstr.toNat (n.toNat + 1) (k.toNat + 1)
    match r.1 with
    | .ok t => aEnd (s.updLease q (fun l => { l with tile := some t, ldb := some a, ldbConfig := l.config })) 0 r.2
    | .error st => aEnd (s.updLease q (fun l => { l with tile := none })) st r.2
  | .aldb .., none => aEnd (s.updLease q (fun l => { l with tile := none })) 1 1
  | .astr _ _ v _ aoff rstr m, some cfg =>
    match l.tile with
    | none => aEnd s 1 1
    | some t =>
      let c := cfgOf cfg
      let e := c.1
      let slot := recSlot (entCls e) c.2.1
      let nrec := ceilDiv t.k 48
      let bw := ((t.cols.headD []).headD default).w
      let f := if l.lastAstr then 0 else 200
      if !(t.cols.all (fun col => col.all (recOk e bw))) || decide (bw < (entRange e).1) || decide ((entRange e).2 < bw) then
        aEnd s 2 f
      else if rstr.toNat ≠ 0 ∧ 8 * rstr.toNat < nrec * slot then aEnd s 4 f
      else if s.accFits q aoff.toNat (m.toNat + 1) (ceilDiv t.n 16) then
        astrRows vs q a v c t rstr.toNat aoff.toNat (m.toNat + 1) 0 (aEnd s 0 f)
      else aEnd s 3 f
  | .azero _ _ aoff n m, some cfg =>
    let e := (cfgOf cfg).1
    let nn := n.toNat + 1
    let mm := m.toNat + 1
    let nc := ceilDiv nn 16
    let cyc := 16 + ceilDiv (64 * mm * nc) 2048
    if s.accFits q aoff.toNat mm nc then
      ⟨regionFold mm nn (fun s i j => s.accWrite q aoff.toNat nc i j (entIdent e)) s, 0, cyc, 0, 0, mm * nn⟩
    else aEnd s 3 cyc
  | .adrn _ _ v _ aoff n m wd clr tr mode, some cfg =>
    let c := cfgOf cfg
    let e := c.1
    let nn := n.toNat + 1
    let mm := m.toNat + 1
    let nc := ceilDiv nn 16
    if mode = .planes ∧ !wdOk e (wd.toNat + 1) then aEnd s 4 16
    else if s.accFits q aoff.toNat mm nc then
      let rows := (rangeFrom 0 (if tr then nn else mm)).map (fun j =>
        drainRow e mode (wd.toNat + 1) c.2.2.1 (drainVals s q aoff.toNat nc mm nn tr j))
      let bytes := rows.flatMap (·.1)
      let s1 := if clr then regionFold mm nn (fun s i j => s.accWrite q aoff.toNat nc i j (entIdent e)) s else s
      let k := s.core a.core
      let l : Late := { owner := (s.cluster q).run.id, tag := k.tag, epoch := k.epoch, core := a.core, ptr := viewPtr v, off := 0, data := [] }
      let s2 := (lateRow l (a.ga.toNat % 2 ^ 21) bytes bytes.length).foldl State.issueLate s1
      ⟨s2, 0, 16 + Nat.max (ceilDiv (64 * mm * nc) 2048) (ceilDiv bytes.length (viewBeta v)),
        rows.foldl (fun f r => f ||| r.2) 0, 0, mm * nn * (if clr then 2 else 1)⟩
    else aEnd s 3 16
  | _, _ => aEnd s 1 1

/-! ## The array's steps (R305 to R308, R326) -/

/-- A SCRUB that clears the accumulator area of the command's core was issued before it, and has not ended (R247). -/
def State.behindScrub (s : State) (a : ACmd) : Bool :=
  s.hub.coreScrubs.any (fun c => c.core == a.core && c.fn.getLsbD 1 && decide ((a.seq - c.seq).toNat < 2 ^ 15))

/-- A command that stands for the lease it needs: the head of its core's queue; none of a pre-empted core (R385), and none
that waits for a SCRUB. -/
def State.headCmd (s : State) (k : Nat) : Option ACmd :=
  if (s.core k).preempted then none
  else match (s.core k).acmds.head? with
    | some a => if s.behindScrub a then none else some a
    | none => none

/-- AREL and AMARK at the head of a core's queue complete at once; an ALEASE of the holder first ends its lease; n
bounds their number. -/
def arrayHeads (q : Nat) (s : State) (k : Nat) : Nat → State
  | 0 => s
  | n + 1 =>
    match s.headCmd k with
    | none => s
    | some a =>
      if (isArel a.op) then
        arrayHeads q ((if s.holdsLease q a.frame then s.endLease q else s).finishCmd a 4 0) k n
      else if (isAmark a.op) then arrayHeads q (s.finishCmd a 4 0) k n
      else if (isAlease a.op) && s.holdsLease q a.frame then s.endLease q
      else s

/-- A command whose bit REL, or whose lease's ASET, makes its first read wait for the thread's earlier accesses, or that
a FENCE orders (R145, R315). -/
def State.cmdWaits (s : State) (l : Lease) (a : ACmd) : Bool :=
  a.after.any s.unperf.contains ||
    (((cmdRel a.op) || (match l.config with | some c => (cmdRel c.op) | none => false)) && a.before.any s.unperf.contains)

/-- Requests a grant when some core's head needs one (R305). -/
def State.askGrant (s : State) (q : Nat) : State :=
  if ((rangeFrom (q * 16) 16).filterMap s.headCmd).isEmpty then s else s.later 1 (.leaseGrant q)

/-- The heads of the cores that do not run show in their ring entries whether they wait for a grant, or are queued (R309). -/
def State.markHeads (s : State) (q : Nat) : State :=
  let st (a : ACmd) : Nat := if s.holdsLease q a.frame then 2 else 1
  let h (s : State) (a : ACmd) : State := s.updCore a.core (fun c => { c with ring := ringSet c.ring a.seq (st a) 0 })
  (((rangeFrom (q * 16) 16).filterMap s.headCmd).filter (fun a => (s.cluster q).running != some a)).foldl h s

/-- Offset and length of the operands that a command reads in its view: the header of the first record, the records of its rows,
the column mask (R302, R318, R319). -/
def State.cmdReads (s : State) (a : ACmd) (l : Lease) : List (Nat × Nat) :=
  let base := a.ga.toNat % 2 ^ 21
  let cfg := (l.config.map cfgOf).getD (0, 0, false, false, false)
  match a.op with
  | .aldb _ _ v _ gb rstr n k =>
    let w := natBits (bytesNat (s.viewBytes a v base 8)) 8 8
    let len := ceilDiv (k.toNat + 1) 48 * recSlot (entCls cfg.1) (if w ≤ 16 then w else 0)
    (base, 8) :: (rangeFrom 0 (n.toNat + 1)).map (fun r => (base + r * 8 * rstr.toNat, len)) ++
      (if gb = 0 then [] else [(a.gb.toNat % 2 ^ 21, 32)])
  | .astr _ _ _ _ _ rstr m =>
    let len := ceilDiv ((l.tile.map (·.k)).getD 0) 48 * recSlot (entCls cfg.1) cfg.2.1
    ((rangeFrom 0 (m.toNat + 1)).filter (fun i => !cfg.2.2.2.2 || (decide (i < 32) && a.rowmask.getLsbD i))).map (fun i =>
      (base + i * 8 * rstr.toNat, len))
  | _ => []

/-- The view of a command that reads scratchpad. -/
def cmdView : Instr → View
  | .aldb _ _ v .. | .astr _ _ v .. => v
  | _ => .own

/-- The words of pools that a command reads. -/
def State.cmdWords (s : State) (a : ACmd) (l : Lease) : List (Nat × Nat) :=
  let c := s.core a.core
  ((s.cmdReads a l).map (fun x => windowWords s a.core c.tag c.epoch (viewPtr (cmdView a.op)) x.1 x.2)).flatten

/-- The state as the command has read it. -/
def State.asRead (s : State) (r : ARun) : State :=
  { s with pool := r.read.foldl (fun m x => m.setBytes x.1 x.2) s.pool }

/-- Starts the holder's next command when none runs: it is at the head of its core's queue, and the lease has not
expired. -/
def State.arrayStart (s : State) (q : Nat) : State :=
  match (s.cluster q).running, (s.cluster q).lease with
  | some _, _ => s
  | none, none => s.askGrant q
  | none, some l =>
    if l.granted + 8192 ≤ s.cycle then (s.endLease q).askGrant q
    else
      match s.headCmd l.core with
      | none => s
      | some a =>
        if a.frame != l.frame || !(isCounted a.op) then s
        else if s.cmdWaits l a then s.later 8 (.arrayCommandComplete q)
        else
          let cyc := (aPerform s s q l a).cycles
          let r := s.fresh
          let s1 := r.2.updCluster q (fun c => { c with
            running := some a, runningUntil := s.cycle + cyc, run := { todo := s.cmdWords a l, id := r.1 } })
          (s1.updCore a.core (fun c => { c with ring := ringSet c.ring a.seq 3 0 })).later (if (s.cmdWords a l).isEmpty then cyc else 1) (.arrayCommandComplete q)

/-- The queues of a cluster act: heads that need no array, then the next command. -/
def State.arrayTick (s : State) (q : Nat) : State :=
  let busy (k : Nat) : Bool := match (s.cluster q).running with | some a => a.core == k | none => false
  let cores := (rangeFrom (q * 16) 16).filter (fun k => !busy k)
  ((cores.foldl (fun s k => arrayHeads q s k (s.core k).acmds.length) s).markHeads q).arrayStart q

/-- Every queued counted command and AMARK of a task is flushed (R326). -/
def State.flushTask (s : State) (k fk : Nat) : State :=
  ((s.core k).acmds.filter (fun a => a.frame == fk && !a.orphan && !(isAlease a.op) && !(isArel a.op))).foldl
    State.flushCmd s

/-- A command of a live task has failed: ENGINE is due, and the task is flushed until its entry (R326). -/
def State.failCmd (s : State) (a : ACmd) (status : Nat) : State :=
  let d : Due := ⟨0x0B, BitVec.ofNat 8 status, natWord status, a.seq.setWidth 17, true⟩
  (s.updFrame a.frame (fun f => { f with due := f.due ++ [d], flushing := true })).flushTask a.core a.frame

/-- The storage of the cluster's array, and the word that its command reads, under the soft-error rule: the state after, and
false where the command stops there for good (R428, R429). -/
def State.arraySound (s : State) (q : Nat) (a : ACmd) (keys : List Nat) : State × Bool :=
  if s.bad.isEmpty then (s, true) else s.wordsSound (s.core a.core).tag (arrayErrKey q :: keys)

/-- The command in execution has all its words and no write on its way: it completes, and the next starts. -/
def State.arrayEnd (s : State) (q : Nat) (l : Lease) (a : ACmd) (r : Nat × BitVec 32 × Nat × Nat) : State :=
  let s1 := s.updLease q (fun l => { l with lastAstr := (match a.op with | .astr .. => true | _ => false) })
  let s2 := s1.updCluster q (fun c => { c with running := none, run := {} })
  let s3 :=
    if a.orphan then s2
    else
      ((s2.updFrame a.frame (fun f => { f with estat := f.estat ||| r.2.1 })).charge a.frame 6 (48 * r.2.2.1)).charge
        a.frame 7 r.2.2.2
  let s4 := (s3.finishCmd a (if r.1 = 0 then 4 else 5) r.1).countCmd q a
  let s5 := if r.1 ≠ 0 ∧ !a.orphan then s4.failCmd a r.1 else s4
  (if l.ending then s5.stopLease q l.frame else s5).arrayTick q

/-- ARRAY_COMMAND_COMPLETE: the command in execution reads its next word, takes effect at the end of its cycles over the words it
has read, and completes when its writes have been performed; then the next starts (R129). -/
def execArrayCommandComplete (q : Nat) (s : State) : Out :=
  let c := s.cluster q
  match c.running, c.lease with
  | some a, some l =>
    match c.run.todo, c.run.done with
    | (k, off) :: ws, _ =>
      let x := s.arraySound q a [wordKey k off]
      let bs := x.1.pool.bytes (poolKey k (off / 8 * 8)) 8
      let s1 := x.1.updCluster q (fun c => { c with
        run := { c.run with todo := ws, read := c.run.read ++ [(poolKey k (off / 8 * 8), bs)] } })
      .next (if x.2 then s1.later 0 (.arrayCommandComplete q) else x.1)
    | [], some r => .next (if s.lateOf c.run.id then s.later 1 (.arrayCommandComplete q) else s.arrayEnd q l a r)
    | [], none =>
      if s.cycle < c.runningUntil then .next ((s.arrayTick q).later (c.runningUntil - s.cycle) (.arrayCommandComplete q))
      else
        let x := s.arraySound q a []
        let r := aPerform x.1 (x.1.asRead c.run) q l a
        let out := (r.status, r.fl, r.planes, r.accs)
        if !x.2 then .next x.1
        else if r.st.lateOf c.run.id then
          .next ((r.st.updCluster q (fun c => { c with run := { c.run with done := some out } })).later 1 (.arrayCommandComplete q))
        else .next (r.st.arrayEnd q l a out)
  | some a, none =>
    .next (((s.updCluster q (fun c => { c with running := none, run := {} })).finishCmd a 6 5).arrayTick q)
  | none, _ => .next (s.arrayTick q)

/-- LEASE_EXPIRY: 8,192 cycles after the grant; the command in execution completes (R306). -/
def execLeaseExpiry (q : Nat) (s : State) : Out :=
  match (s.cluster q).lease with
  | none => .next s
  | some l =>
    if s.cycle < l.granted + 8192 then .next s
    else if (s.cluster q).running.isSome then .next (s.updLease q (fun l => { l with ending := true }))
    else .next ((s.endLease q).arrayTick q)

/-! ## Grants (R305, R306, R328) -/

/-- The partition of a request is below its array-lease budget; in deterministic mode the budget is not applied. -/
def State.leaseBudget (s : State) (q : Nat) (a : ACmd) : Bool :=
  let t := (s.core a.core).tag.toNat
  let b := natBits (s.part t).budget0.toNat 32 32
  b == 0 || (s.core a.core).det || decide ((s.cluster q).leaseCycles.getD t 0 < b)

/-- Distance of a core's logical number after the last holder's, wrapping. -/
def State.grantDist (s : State) (q : Nat) (a : ACmd) : Nat :=
  let last := match (s.cluster q).lastHolder with | some n => n | none => 65535
  ((s.core a.core).lcid + 65536 * 2 - last - 1) % 65536

/-- The request that is granted next. -/
def State.nextGrant (s : State) (q : Nat) : Option ACmd :=
  ((rangeFrom (q * 16) 16).filterMap s.headCmd).foldl (fun b a =>
    if !s.leaseBudget q a || (isArel a.op) || (isAmark a.op) then b
    else match b with
      | none => some a
      | some x => if s.grantDist q a < s.grantDist q x then some a else some x) none

/-- Re-executes the recorded ASETs and ALDB of a lease that a pre-emption ended (R328): no sequence numbers, no tokens,
no traps; a failed ALDB leaves no B tile. -/
def State.replayLease (s : State) (q : Nat) (r : LeaseRec) : State :=
  let step (s : State) (a : Option ACmd) : State :=
    match a, (s.cluster q).lease with
    | some a, some l => (aPerform s s q l a).st
    | _, _ => s
  let s1 := step (step (step s r.ldbConfig) r.ldb) (if r.config = r.ldbConfig then none else r.config)
  s1.updLease q (fun l => { l with remaining := r.remaining })

/-- LEASE_GRANT: when no lease stands, the next requester is granted one; its configuration and B tile are invalid
(R307). -/
def execLeaseGrant (q : Nat) (s : State) : Out :=
  match (s.cluster q).lease, (s.cluster q).running, s.nextGrant q with
  | none, none, some a =>
    let len := match a.op with | .alease l => l.toNat + 1 | _ => 64
    let l : Lease := { core := a.core, frame := a.frame, remaining := len, granted := s.cycle }
    let s1 := s.updCluster q (fun c => { c with lease := some l, lastHolder := some (s.core a.core).lcid })
    let s2 := s1.later 8192 (.leaseExpiry q)
    let rec? := s2.leaseRecs.get? a.frame
    let s3 := { s2 with leaseRecs := s2.leaseRecs.del a.frame }
    if (isAlease a.op) then .next (((s3.finishCmd a 4 0).giveWait a.frame 5 0).arrayTick q)
    else
      let s4 := match rec? with | some r => s3.replayLease q r | none => s3
      .next (s4.arrayTick q)
  | none, none, none =>
    if ((rangeFrom (q * 16) 16).filterMap s.headCmd).isEmpty then .next s else .next (s.later 64 (.arrayCommandComplete q))
  | _, _, _ => .next s

end Sys2Proof.Machine
end

