-- ==== Sys2Proof/Machine/Interrupts.lean ====
section
/-! DEFINITION. Imprecise traps and interrupts, the watchdog, the clearing of SCRUB (R115, R173, R240, R244, R247, R372,
R377). -/

namespace Sys2Proof.Machine

/-- An imprecise trap or an interrupt enters at a bundle boundary: c.epc is the next bundle; entry waits for every
pending result (R162, R240). -/
def State.enterAtBoundary (s : State) (sk fk : Nat) (t : TrapRec) : State :=
  let t1 := { t with epc := (s.frame fk).pc }
  let s1 := s.updFrame fk (fun f => { f with reply := none })
  if (s.frame fk).outs.isEmpty then (s1.updFrame fk (fun f => { f with pend := [] })).enterTrap fk t1
  else (s1.updFrame fk (fun f => { f with trapPend := some t1 })).updSlot sk (fun r => { r with state := .marker })

/-- The first of the events of the lowest cause code (R240). -/
def lowestDue : List Due → Option Due
  | [] => none
  | d :: ds =>
    match lowestDue ds with
    | none => some d
    | some e => if e.cause < d.cause then some e else some d

/-- The events of a frame that can be taken now: ENGINE only outside a handler. -/
def Frame.takeable (f : Frame) : List Due := f.due.filter (fun d => d.cause != 0x0B || !f.intrap)

/-- ENGINE_TRAP_ENTRY: the due event of lowest cause code, oldest first, is entered; ENGINE sets c.eseq (R115, R326). -/
def execEngineTrapEntry (sk : Nat) (s : State) : Out :=
  match (s.slot sk).frame with
  | none => .next s
  | some fk =>
    match lowestDue (s.frame fk).takeable with
    | none => .next s
    | some d =>
      let s1 := s.updFrame fk (fun f => { f with
        due := f.due.erase d, eseq := if d.cause = 0x0B then d.eseq else f.eseq,
        flushing := if d.cause = 0x0B ∧ !d.eseq.getLsbD 16 then false else f.flushing })
      .next (s1.enterAtBoundary sk fk { cause := d.cause, detail := d.detail, eval := d.eval, imp := d.imp })

/-- Guest time has reached the deadline of a core (R244). -/
def State.timerDue (s : State) (fk : Nat) : Bool :=
  s.timerOwnerOf fk == some fk && s.timerOf fk != 0 && decide ((s.timerOf fk).toNat ≤ (s.guestTime fk).toNat)

/-- The owner of the c.timer of a core, or of a Geyser by its endpoint. -/
def State.timerFrame (s : State) (e : Nat) : Option Nat :=
  if e < 2 ^ 20 then (s.core e).timerOwner else (s.geyser (e - 2 ^ 20)).timerOwner

/-- TIMER_EXPIRY: TIMER is taken by the owner at a boundary with IE = 1 and INTRAP = 0. -/
def execTimerExpiry (core : Nat) (s : State) : Out :=
  match s.timerFrame core with
  | none => .next s
  | some fk =>
    match s.slotOf fk with
    | none => .next s
    | some sk =>
      if s.timerDue fk && (s.frame fk).ie && !(s.frame fk).intrap then
        .next (s.enterAtBoundary sk fk { cause := 0x0E, eval := s.timerOf fk })
      else .next s

/-- MAIL is due on a thread (R237). -/
def State.mailDue (s : State) (fk : Nat) : Bool :=
  (s.frame fk).ie && (s.frame fk).mie && !(s.frame fk).intrap && s.mailCount fk != 0

/-- MAIL_INTERRUPT: c.eval is the number of entries addressed to the task (R374). -/
def execMailInterrupt (sk : Nat) (s : State) : Out :=
  match (s.slot sk).frame with
  | none => .next s
  | some fk =>
    if s.mailDue fk then .next (s.enterAtBoundary sk fk { cause := 0x10, eval := natWord (s.mailCount fk) })
    else .next s

/-- CANCEL is due on a thread: its request has not been taken and it stands at a marker (R173). -/
def Frame.cancelReady (f : Frame) : Bool := f.cancelDue && f.atMarker && !f.intrap

/-- CANCEL_INTERRUPT: without a vector the task retires at once; else its handler is entered (R173). -/
def execCancelInterrupt (sk : Nat) (s : State) : Out :=
  match (s.slot sk).frame with
  | none => .next s
  | some fk =>
    if (s.frame fk).cancelReady then
      let s1 := s.updFrame fk (fun f => { f with cancelDue := false })
      match s.trapVector fk 0x14 with
      | none => .next (s1.retireTask fk .cancelled 0 false)
      | some _ => .next (s1.enterAtBoundary sk fk { cause := 0x14 })
    else .next s

/-- A thread is parked at a marker for a remote full/empty operation that waits at its word. -/
def State.markerWaits (s : State) (fk : Nat) : Bool := (s.frame fk).outs.any (fun o => o.fe && s.feWaits fk o.id)

/-- The wait of a task that keeps its slot is withdrawn (R55, R372): its remote full/empty operations, and what it waits for
in place, but an answer that is on its way to it is awaited. After a marker it goes on at the bundle that parked it. -/
def State.withdrawParked (s : State) (sk fk : Nat) : State :=
  match (s.slot sk).state with
  | .inPlace =>
    if (s.frame fk).waits.contains 6 then (s.withdrawRemote fk).resume fk
    else ((s.withdrawRemote fk).withdraw fk).resume fk
  | .marker =>
    if s.markerWaits fk then
      let s1 := s.withdrawRemote fk
      let s2 := if (s.frame fk).trapPend.isSome then s1 else s1.updFrame fk (fun f => { f with pc := f.markPc })
      s2.resume fk
    else s
  | _ => s

/-- WATCHDOG_EXPIRY (R372): LIMIT becomes 0 and WDOG is due; a parked task's wait is withdrawn. -/
def execWatchdogExpiry (fk : Nat) (s : State) : Out :=
  let f := s.frame fk
  if f.wdogLimit = 0 ∨ f.wdogCount.toNat < 1024 * f.wdogLimit.toNat then .next s
  else
    let d : Due := ⟨0x0D, 0, f.wdogCount.setWidth 64, f.eseq, true⟩
    let s1 := s.updFrame fk (fun f => { f with wdogLimit := 0, due := f.due ++ [d] })
    match f.state with
    | .touch | .waitm => .next ((s1.withdraw fk).makeResumable fk)
    | .running => .next (match s.slotOf fk with | some sk => s1.withdrawParked sk fk | none => s1)
    | _ => .next s1

/-! ## SCRUB's clearing (R247) -/

/-- Scratchpad words of a core; on a Geyser, whose key is 2^15 + channel, of its pool's. -/
def State.scrubCount (s : State) (k : Nat) : Nat := if 2 ^ 15 ≤ k then 0x1800 else s.poolS k / 8

/-- Clears one scratchpad word, sets it empty and serves its queue. -/
def State.scrubWord (s : State) (k i : Nat) : State :=
  if 2 ^ 15 ≤ k then { s with gpool := s.gpool.writeLE ((k - 2 ^ 15) * 2 ^ 16 + 8 * i) 8 0 }
  else ((s.poolWrite k (8 * i) 8 0).setFull k (8 * i) false).serve k (8 * i)

/-- Clears the accumulator area of a core. -/
def State.scrubAcc (s : State) (k : Nat) : State :=
  { s with pool := s.pool.clear (poolKey k (s.accBase k)) (1024 * pwA (s.core k).pword) }

/-- Decode table and encode order at their reset state (R186). -/
def State.scrubTables (s : State) (k : Nat) : State := s.updCore k (fun c => { c with dtab := [], order := [] })

/-- Array commands of a core issued before a SCRUB that have not completed. -/
def State.scrubWaits (s : State) (c : CoreScrub) : Bool :=
  c.fn.getLsbD 1 && (s.core c.core).acmds.any (fun a => decide ((c.seq - a.seq).toNat < 2 ^ 15) && a.seq != c.seq)

/-- The next word of a SCRUB's clearing is that many words on. -/
def State.scrubNext (s : State) (id : Nat) : State :=
  s.updHub (fun h => { h with coreScrubs := h.coreScrubs.map (fun c => if c.id == id then { c with next := c.next + 1 } else c) })

/-- The clearing has ended: the accumulator area and the tables follow, 0 returns to gd, and the array goes on. -/
def State.scrubEnd (s : State) (c : CoreScrub) : State :=
  let s1 := if c.fn.getLsbD 1 then s.scrubAcc c.core else s
  let s2 := if c.fn.getLsbD 2 then s1.scrubTables c.core else s1
  let s3 := s2.updHub (fun h => { h with coreScrubs := h.coreScrubs.filter (fun x => x.id != c.id) })
  let s4 := s3.returnWord c.frame c.out 0 0 false false
  if c.fn.getLsbD 1 then s4.later 1 (.arrayCommandComplete (c.core / 16)) else s4

/-- SCRUB_CLEARING_END: the scratchpad is cleared word by word, so that other agents' accesses interleave; then the clearing
ends, once the array's earlier commands have completed. -/
def execScrubClearingEnd (id : Nat) (s : State) : Out :=
  match s.hub.coreScrubs.find? (fun c => c.id == id) with
  | none => .next s
  | some c =>
    if c.fn.getLsbD 0 && decide (c.next < s.scrubCount c.core) then
      .next (((s.scrubWord c.core c.next).scrubNext id).later 1 (.scrubClearingEnd id))
    else if s.scrubWaits c then .next (s.again (.scrubClearingEnd id))
    else .next (s.scrubEnd c)

end Sys2Proof.Machine
end

