-- ==== Sys2Proof/Machine/Images.lean ====
section
/-! DEFINITION. The bytes of register frames and of the system area, as a pool holds them (R39, R41, R42, R44). -/

namespace Sys2Proof.Machine

/-! ## Register frames (R39, R41, R42) -/

/-- The pool offset of a register frame of a core (R39, R41). -/
def State.frameBase (s : State) (k f : Nat) : Nat := s.accBase k + 1024 * pwA (s.core k).pword + 1152 * f

/-- Dwords 0 to 143 of a register frame (R41). -/
def frameDword (f : Frame) (i : Nat) : Word :=
  if i < 64 then f.rg i
  else if i < 128 then (f.rv ((i - 64) / 2)).extractLsb' (64 * (i % 2)) 64
  else if i < 132 then
    let p (j : Nat) : Nat := (f.rp (4 * (i - 128) + j)).toNat
    natWord (p 0 + p 1 * 2 ^ 16 + p 2 * 2 ^ 32 + p 3 * 2 ^ 48)
  else
    match i with
    | 132 => f.pc | 133 => f.epc | 134 => f.eval | 135 => f.fut | 136 => f.join | 137 => f.task
    | 138 => f.wdogLimit ++ f.wdogCount
    | 139 => natWord (f.energy.toNat + f.energySat.toNat * 2 ^ 48 + f.energyFrac.toNat * 2 ^ 56)
    | 140 => natWord (f.status.toNat + f.ecause.toNat * 2 ^ 8 + f.eseq.toNat * 2 ^ 25)
    | 141 => f.rowmask ++ f.estat
    | 142 => natWord (f.fmta.toNat + f.fmtb.toNat * 2 ^ 21 + f.scale.toNat * 2 ^ 42)
    | _ => natWord (f.index.toNat + f.prio.toNat * 2 ^ 32)

/-- Dword i of a frame's bytes in the pool. The bytes of g0 and p0 are never written: they stay what the pool held there
(R41; log entry 95). -/
def State.frameImage (s : State) (k f i : Nat) : Word :=
  let old := s.pool.dword (poolKey k (s.frameBase k f + 8 * i))
  let new := frameDword (s.frame (k * 64 + f)) i
  if i = 0 then old else if i = 128 then natWord (new.toNat / 2 ^ 16 * 2 ^ 16 + old.toNat % 2 ^ 16) else new

/-- Registers lo to lo + n − 1 with values that are not zero. -/
def listed {w : Nat} (val : Nat → BitVec w) (lo n : Nat) : NMap (BitVec w) :=
  (rangeFrom lo n).filterMap (fun i => if val i = 0 then none else some (i, val i))

/-- The registers of a frame from its 144 dwords. -/
def frameOfDwords (f : Frame) (d : Nat → Word) : Frame :=
  { f with
    g := listed d 1 63, v := listed (fun i => d (65 + 2 * i) ++ d (64 + 2 * i)) 0 32,
    p := listed (fun i => (d (128 + i / 4)).extractLsb' (16 * (i % 4)) 16) 1 15,
    pc := d 132, epc := d 133, eval := d 134, fut := d 135, join := d 136, task := d 137,
    wdogCount := (d 138).setWidth 40, wdogLimit := (d 138).extractLsb' 40 24,
    energy := (d 139).setWidth 48, energySat := (d 139).getLsbD 48, energyFrac := (d 139).extractLsb' 56 8,
    status := (d 140).setWidth 8, ecause := (d 140).extractLsb' 8 17, eseq := (d 140).extractLsb' 25 17,
    estat := (d 141).setWidth 32, rowmask := (d 141).extractLsb' 32 32,
    fmta := (d 142).setWidth 21, fmtb := (d 142).extractLsb' 21 21, scale := (d 142).extractLsb' 42 21,
    index := (d 143).setWidth 32, prio := (d 143).extractLsb' 32 2 }

/-- The bytes of a frame enter the pool. -/
def State.storeFrame (s : State) (k f : Nat) : State :=
  { s with pool := (rangeFrom 0 144).foldl (fun m i => m.setDword (poolKey k (s.frameBase k f + 8 * i)) (s.frameImage k f i)) s.pool }

/-- A frame takes the registers that the pool holds at its place. -/
def State.loadFrame (s : State) (k f : Nat) : State :=
  s.updFrame (k * 64 + f) (fun x => frameOfDwords x (fun i => s.pool.dword (poolKey k (s.frameBase k f + 8 * i))))

/-- A core takes a partition word (R357): the areas of its pool move (R39), and the frames of the new layout hold the bytes
that stood at their places, which may have been another area's (R42). -/
def State.relayout (s : State) (k : Nat) (w : BitVec 32) : State :=
  let old := (s.core k).pword
  if old = w then s
  else
    let s1 := (rangeFrom 0 (pwF old)).foldl (fun s f => s.storeFrame k f) s
    let s2 := { s1 with frames := s1.frames.filter (fun x => x.1 / 64 != k || decide (x.1 % 64 < pwF w)) }
    (rangeFrom 0 (pwF w)).foldl (fun s f => s.loadFrame k f) (s2.updCore k (fun c => { c with pword := w }))

/-! ## The system area (R44, R354, R310) -/

/-- Dword i of a slot's copy shadow set, 0 to 6, and of its record, 8 to 14 (R44). -/
def slotDword (r : Slot) (i : Nat) : Option Word :=
  [some r.cpsrc, some r.cpdst, some r.cpshape, some r.cpsstr, some r.cpdstr, some r.cpmask, some r.cpflags, none,
    some (r.tile.getD 0 0), some (r.tile.getD 1 0), some (r.tile.getD 2 0), some (r.tile.getD 3 0), some r.rkey,
    some r.rctr, some r.qbind].getD i none

/-- A slot's registers from the dwords of its shadow set and record. -/
def slotOfDwords (r : Slot) (d : Nat → Word) : Slot :=
  { r with
    cpsrc := d 0, cpdst := d 1, cpshape := d 2, cpsstr := d 3, cpdstr := d 4, cpmask := d 5, cpflags := d 6,
    tile := [d 8, d 9, d 10, d 11], rkey := d 12, rctr := d 13, qbind := d 14 }

/-- Dword i of a core's system area; none where the spec gives its bytes no place or no layout. The mailbox's entries and
the tokens stand in the order the core holds them in, from the first place on (log entry 65). -/
def State.systemDword (s : State) (k i : Nat) : Option Word :=
  let c := s.core k
  if i < 128 then (c.mail[i / 4]?).map (fun e => e.dwords.getD (i % 4) 0)
  else if i < 256 then
    let e := c.ring.getD ((i - 128) / 2) (0, 0)
    some (if i % 2 = 0 then e.1 else e.2)
  else if i < 320 then slotDword (s.slot (k * 8 + (i - 256) / 8)) (i % 8)
  else if i < 384 then slotDword (s.slot (k * 8 + (i - 320) / 8)) (8 + i % 8)
  else if i < 448 then (c.tokens[i - 384]?).map (·.value)
  else if i < 480 then none
  else some 0

/-- The engine ring, the mailbox entries and the token values of a core from the dwords of its system area. -/
def coreOfDwords (c : Core) (d : Nat → Word) : Core :=
  { c with
    ring := (rangeFrom 0 64).foldl (fun m e => m.put e (d (128 + 2 * e), d (129 + 2 * e))) c.ring,
    mail := (c.mail.zip (rangeFrom 0 c.mail.length)).map (fun x => { x.1 with dwords := (rangeFrom (4 * x.2) 4).map d }),
    tokens := (c.tokens.zip (rangeFrom 0 c.tokens.length)).map (fun x => { x.1 with value := d (384 + x.2) }) }

/-- A core's own state takes what the dwords of its system area hold. -/
def State.loadSystem (s : State) (k : Nat) (d : Nat → Word) : State :=
  let s1 := (rangeFrom 0 8).foldl (fun s n => s.updSlot (k * 8 + n) (fun r => slotOfDwords r (fun i =>
    if i < 8 then d (256 + 8 * n + i) else d (320 + 8 * n + (i - 8))))) s
  s1.updCore k (fun c => coreOfDwords c d)

/-- Dword i of a core's pool: frames and system area, and elsewhere the pool's bytes (R39). -/
def State.poolDword (s : State) (k i : Nat) : Option Word :=
  let base := s.frameBase k 0
  let o := 8 * i
  if 0x1F000 ≤ o then s.systemDword k (i - 0x3E00)
  else if base ≤ o then some (s.frameImage k ((o - base) / 1152) ((o - base) % 1152 / 8))
  else some (s.pool.dword (poolKey k o))

end Sys2Proof.Machine
end

