-- ==== Sys2Proof/Machine/XGroup.lean ====
section
/-! DEFINITION. The X group of Geyser cores: XLD, XST, XPUSH, XPREF, XTLBI, and the invalidations of the GTLBs (R88,
R89, R262 to R267). -/

namespace Sys2Proof.Machine

/-! ## Operands (R30, R262) -/

/-- WINDOW of an external operand: only am = 3 with tag 0x00 or 0x01 is accepted. -/
def xWindow (am : AMode) (sum : Word) : Option TrapRec :=
  if am = .gen ∧ isExternal sum then none else some { cause := 0x04, eval := sum }

/-- PAGE raised precisely with an outcome code; c.eval is the VA, without the tag (R13, R263, R374). -/
def pageRec (va : Word) (code : Nat) : TrapRec := { cause := 0x0C, detail := BitVec.ofNat 8 code, eval := natWord (va.toNat % 2 ^ 56) }

/-- The channel of the thread in issue. -/
def State.curChannel (s : State) : Nat := frameCore s.cur.fk

/-- The partition of the thread in issue, as a number. -/
def State.curTag (s : State) : Nat := (s.frameTag s.cur.fk).toNat

/-- The failure that a page response left with the access of the bundle in issue, as held value 9: the outcome code,
whether the page is a host page, and its number in units of 4 KiB (R92, R95). -/
def pageFailure (code : Nat) (host : Bool) (va : Nat) : Word := natWord (code + host.toNat * 2 ^ 8 + va / 4096 * 2 ^ 9)

/-- The outcome code of the failed page that an address lies in: 4 KiB pages of host memory, 64 KiB pages otherwise. -/
def State.pageFailed (s : State) (host : Bool) (va : Nat) : Option Nat :=
  match (s.cf).held.get? 9 with
  | none => none
  | some w =>
    let x := w.toNat
    let page := natBits x 9 52
    if (natBits x 8 1 == 1) == host && (if host then page == va / 4096 else page / 16 == va / 65536) then
      some (x % 2 ^ 8) else none

/-- What the translation of one external address gives at issue: a place, a precise trap, or a wait in place for a page
or for the hub, with the request sent. -/
inductive XAddr where
  | at_ (t : Trans)
  | trap (code : Nat)
  | hostErr
  | wait (s : State)
  deriving Inhabited

/-- The thread waits in place for a page or for the hub; held value 8 is the outcome that a failure will have. -/
def State.xWait (s : State) (code : Nat) : XAddr := .wait (((s.hold 8 (natWord code)).addWait 8).parkInPlace)

/-- A host address: the thread waits until the hub can take the access (R98, R263). -/
def State.xHost (s : State) (t : Trans) (write : Bool) : XAddr :=
  match s.pageFailed true t.addr with
  | some code => if code = 6 then .hostErr else .trap code
  | none =>
    if !s.hostCanWrite s.curTag then .hostErr
    else if s.hostReady s.curTag t.addr then .at_ t
    else (s.askAts s.curTag t.addr write none (some s.cur.fk)).xWait 1

/-- A single-access burst passes its Geyser-byte budget and is charged once, at its first admission: held value 10 counts the
bursts of the bundle in issue that have been charged (R87, R370). A thread without budget waits in place for the next
period. -/
def State.xCharge (s : State) (i n : Nat) : State × Bool :=
  let done := (s.heldValue 10).toNat
  if i < done then (s, true)
  else if s.overBytes s.curChannel s.curTag then (s.addWait 12, false)
  else ((s.chargeBytes s.curChannel s.curTag n).hold 10 (natWord (i + 1)), true)

/-- Translation of a device or host address in the issue turn (R263). -/
def State.xTranslate (s : State) (va : Word) (write : Bool) : State × XAddr :=
  let a := va.toNat % 2 ^ 56
  if ptrTag va = 1 then (s, s.xHost ⟨a, true, false, 0⟩ write)
  else
    match s.pageFailed false a with
    | some code => (s, .trap code)
    | none =>
      let r := s.translate s.curChannel s.curTag a write
      match r.2 with
      | .ok t => (r.1, if t.host then r.1.xHost t write else .at_ t)
      | .error .full => (r.1, .wait r.1.retry)
      | .error .ecc => (r.1, r.1.xWait 1)
      | .error w =>
        if (w == .notPresent || w == .notWritable) && r.1.canRequestPage s.curTag false then
          (r.1, (r.1.pageFault s.curChannel s.curTag a write none (some s.cur.fk)).xWait w.code)
        else (r.1, .trap w.code)

/-! ## XLD and XST (R263, R264) -/

/-- The bytes of an external access, for same-address coherence (R136): device and host addresses apart. -/
def xBytes (va : Word) (n : Nat) : List (Nat × Nat) := [(2 ^ 60 + va.toNat % 2 ^ 60, n)]

/-- An access sent to the home slice through the mesh; word part 2, or 3 where the leaf is cacheable (R69, R79). -/
def State.xSend (s : State) (op : AccOp) (cls : AccClass) (va : Word) (t : Trans) (n : Nat) (data : Word)
    (dst : Option Nat) (o : Ord) : State :=
  let fk := s.cur.fk
  let after := if o.rel then s.accIds fk else []
  let r := s.fresh
  let home := paChannel t.addr
  let acc : WordAcc := ⟨op, t.addr, n, if op == .load then va else data, natWord t.entry, if t.c then 3 else 2, r.1⟩
  let s1 := (r.2.useEntry s.curChannel t.entry true).addOut { id := r.1, kind := .x, cls, dst, bytes := xBytes va n }
  let s2 := { s1 with unperf := r.1 :: s1.unperf }
  let s3 := if o.acq then s2.upd (fun f => { f with acquires := r.1 :: f.acquires }) else s2
  (s3.noteBurst s.curChannel (s.frameTag fk) (va.toNat % 2 ^ 56) n).sendFrom fk (2 ^ 20 + home) 0 after (.access acc)

/-- The access ends with HOSTERR: PAGE is due, imprecise, at the marker that waits for it, and a load gives 0 (R263). -/
def State.xHostErr (s : State) (cls : AccClass) (kind : OutKind) (va : Word) (dst : Option Nat) : State :=
  let r := s.fresh
  let d : Due := ⟨0x0C, 6, natWord (va.toNat % 2 ^ 56), (s.cf).eseq, true⟩
  ((r.2.addOut { id := r.1, kind, cls, dst }).upd (fun f => { f with dueMark := f.dueMark ++ [d] })).returnWord s.cur.fk
    r.1 0 0 false false

/-- An access of host memory that the hub has accepted. A load is a non-posted request; a store is posted, and is
performed when the hub sends it (R99, R149). -/
def State.xHostAccess (s : State) (op : AccOp) (cls : AccClass) (va : Word) (t : Trans) (n : Nat) (data : Word)
    (dst : Option Nat) (o : Ord) : State :=
  let fk := s.cur.fk
  let tag := s.curTag
  let r := s.fresh
  let s1 := r.2.addOut { id := r.1, kind := .x, cls, dst, bytes := xBytes va n }
  if op == .load then
    let s2 := { s1 with unperf := r.1 :: s1.unperf }
    let s3 := if o.acq then s2.upd (fun f => { f with acquires := r.1 :: f.acquires }) else s2
    ((s3.useEntry s.curChannel t.entry true).useAts (s.atsEntry tag t.addr) true).askHost r.1 tag t.addr n none (some fk)
      s.curChannel t.entry va
  else (s1.hostStore tag t.addr (natBytes data.toNat n)).returnWord fk r.1 0 0 false false

/-- The bundle's waits for pages and their outcome are done with. -/
def State.xDone (s : State) : State := s.upd (fun f => { f with held := ((f.held.del 8).del 9).del 10 })

/-- XLD or XST at an aligned address. -/
def xAccess (s : State) (op : AccOp) (am : AMode) (sum : Word) (n : Nat) (data : Word) (dst : Option Nat) (o : Ord) :
    Out :=
  let cls : AccClass := if op == .load then .load else .store
  let va := natWord (sum.toNat - sum.toNat % n)
  match (scopeTrap s (ordScope o)).or (xWindow am sum) with
  | some t => .next (s.trap t)
  | none =>
    if s.accStalls .x cls (xBytes va n) true then .next s.retry
    else if !(s.xCharge 0 n).2 then .next (s.xCharge 0 n).1.parkInPlace
    else
      match (s.xCharge 0 n).1.xTranslate va (op == .store) with
      | (s1, .trap code) => .next (s1.trap (pageRec va code))
      | (_, .wait s2) => .next s2
      | (s1, .hostErr) =>
        .next ((((s1.xDone).stickyIf (sum.toNat % n != 0) bitMisal).clampScope (ordScope o)).xHostErr cls .x va dst)
      | (s1, .at_ t) =>
        let s2 := ((s1.xDone).stickyIf (sum.toNat % n != 0) bitMisal).clampScope (ordScope o)
        let s3 := s2.charge s.cur.fk 5 (if t.host then 0 else hops (2 ^ 20 + s.curChannel) (2 ^ 20 + paChannel t.addr))
        if t.host then
          if o.rel && s.releaseStalls then .next s1.awaitRelease.parkInPlace
          else .next (s3.xHostAccess op cls va t n data dst o)
        else .next (s3.xSend op cls va t n data dst o)

def execXld (rt rb : BitVec 6) (am : AMode) (sz : Size) (o : Ord) (off : BitVec 32) (s : State) : Out :=
  xAccess s .load am (s.accSum rb off) (szBytes sz) 0 (some rt.toNat) o

def execXst (rt rb : BitVec 6) (am : AMode) (sz : Size) (o : Ord) (off : BitVec 32) (s : State) : Out :=
  xAccess s .store am (s.accSum rb off) (szBytes sz) (s.pg rt) none o

/-! ## XPUSH (R265) -/

def puMtag (x : Word) : BitVec 16 := x.extractLsb' 0 16
def puRows (x : Word) : Nat := natBits x.toNat 16 16
def puRowb (x : Word) : Nat := natBits x.toNat 32 16
def puDstr (x : Word) : Nat := natBits x.toNat 48 16

/-- The tile names the Geyser pool. -/
def pushPool (am : AMode) (sum : Word) : Bool := am == .own || (am == .gen && ptrTag sum == 0xF0)

/-- The trap of an XPUSH by its operand and its tile. -/
def xpushTrap (am : AMode) (sum tile : Word) : Option TrapRec :=
  if !(pushPool am sum || (am == .gen && ptrTag sum == 0)) then some { cause := 0x04, eval := sum }
  else if 65536 < puRows tile * puRowb tile ∨ puRowb tile % 8 ≠ 0 ∨ puDstr tile % 8 ≠ 0 then
    some { cause := 0x01, eval := tile }
  else none

/-- Bytes of its Geyser's pool that the thread in issue reaches (R31). -/
def State.poolReach (s : State) : Nat := if s.cur.pre.priv = 2 then 2 ^ 16 else 0xC000

/-- The pieces of a row of a tile at an external address: offset and length, each within 4 KiB of addresses (R87). -/
def rowPieces (va off rowb : Nat) : Nat → List (Nat × Nat)
  | 0 => []
  | n + 1 =>
    if rowb ≤ off then []
    else
      let len := min (rowb - off) (4096 - (va + off) % 4096)
      (off, len) :: rowPieces va (off + len) rowb n

/-- The pieces of every row of a tile: row, offset and length. -/
def tilePieces (va rowb : Nat) (rows : Nat) : List (Nat × Nat × Nat) :=
  ((rangeFrom 0 rows).map (fun r => (rowPieces (va + r * rowb) 0 rowb 18).map (fun p => (r, p.1, p.2)))).flatten

/-- The address n bytes after an external one: in its window, modulo 2^56 (R28). -/
def rowAddress (va : Word) (n : Nat) : Word := natWord (ptrTag va * 2 ^ 56 + (va.toNat + n) % 2 ^ 56)

/-- The charge and translation of the pieces of a device tile from piece i on, in order; the first that has no place
decides. -/
def pushTranslate (s : State) (va : Word) (rowb i : Nat) : List (Nat × Nat × Nat) → State × Except XAddr (List Burst)
  | [] => (s, .ok [])
  | (r, off, len) :: ps =>
    let a := rowAddress va (r * rowb + off)
    let ch := s.xCharge i len
    if !ch.2 then (ch.1, .error (.wait ch.1.parkInPlace))
    else
      match ch.1.xTranslate a false with
      | (s1, .at_ t) =>
        let id := s1.fresh
        let b : Burst := { id := id.1, row := r, j := r, off, len, host := t.host, addr := t.addr, channel := s.curChannel,
                           entry := t.entry, ats := if t.host then s.atsEntry s.curTag t.addr else 0, c := t.c,
                           va := a.toNat % 2 ^ 56 }
        let x := pushTranslate id.2 va rowb (i + 1) ps
        (x.1, x.2.map (fun bs => b :: bs))
      | (s1, .trap code) => (s1.trap (pageRec a code), .error (.trap code))
      | (s1, .hostErr) => (s1.xHostErr .load .xpush a none, .error .hostErr)
      | (s1, .wait w) => (s1, .error (.wait w))

/-- The bytes of a tile in the Geyser pool, for same-address coherence (R136). -/
def State.pushPlaces (s : State) (sum : Word) (n : Nat) : List (Nat × Nat) :=
  ((rangeFrom 0 ((n + 7) / 8)).map (fun i =>
    s.placeBytes [(frameEnd s.cur.fk, (sum.toNat + 8 * i) % 2 ^ 16)] (min 8 (n - 8 * i)))).flatten

/-- Holds the translation of a burst of a tile (R87, R99). -/
def holdBurst (s : State) (b : Burst) : State :=
  let s1 := (s.useEntry b.channel b.entry true).useAts b.ats true
  if b.host then s1 else s1.noteBurst b.channel (s.frameTag s.cur.fk) b.va b.len

/-- Starts the push of a tile of the Geyser pool, or of one whose bursts are known: its reads follow the accesses that come
before it (R265). -/
def State.startXpush (s : State) (rt : BitVec 6) (sum tile : Word) (pool : Bool) (o : Ord) (bytes : List (Nat × Nat)) (bs : List Burst) : State :=
  let fk := s.cur.fk
  let after := if o.rel then s.accIds fk else ((s.cf).fenceAll ++ (s.cf).fenceStore ++ (s.cf).acquires).filter s.unperf.contains
  let r := ((s.xDone).clampScope (ordScope o)).fresh
  let s1 := r.2.addOut { id := r.1, kind := .xpush, cls := .load, dst := some rt.toNat, bytes }
  let s2 := { s1 with unperf := r.1 :: s1.unperf }.upd (fun f => if o.acq then { f with acquires := r.1 :: f.acquires } else f)
  let id := s2.fresh
  let shape := natWord (puRows tile + puRowb tile * 2 ^ 16 + 3 * 2 ^ 32)
  let flags := natWord (o.acq.toNat + o.rel.toNat * 2 + o.scope.toNat * 4 + (puMtag tile).toNat * 2 ^ 8)
  let c : Copy := {
    tid := 0, purpose := .xpush r.1, core := 2 ^ 20 + s.curChannel, frame := fk, tag := s.frameTag fk,
    epoch := s.frameEpoch fk, src := if pool then natWord (0xF0 * 2 ^ 56 + sum.toNat % 2 ^ 16) else sum, dst := 0, shape,
    sstr := natWord (puRowb tile), dstr := natWord (puDstr tile), mask := 0, flags, after, channel := s.curChannel,
    rows := some [], bursts := bs, reach := s.poolReach }
  let s3 := { id.2 with copies := id.2.copies.put id.1 c }.later 8 (.copyCommand id.1)
  bs.foldl holdBurst s3

def execXpush (rt rb rc : BitVec 6) (am : AMode) (o : Ord) (off : BitVec 32) (s : State) : Out :=
  let sum := s.accSum rb off
  let tile := s.pg rc
  match (scopeTrap s (ordScope o)).or (xpushTrap am sum tile) with
  | some t => .next (s.trap t)
  | none =>
    let n := puRows tile * puRowb tile
    let bytes := if pushPool am sum then s.pushPlaces sum n else xBytes sum n
    if s.accStalls .xpush .load bytes true then .next s.retry
    else
      if n = 0 then
        let e := (s.clampScope (ordScope o)).expect rt 0
        .next (e.2.answer (frameEnd s.cur.fk) s.cur.fk e.1 (.value 0 false) false)
      else if pushPool am sum then
        let base := sum.toNat % 2 ^ 16
        let s1 := s.stickyIf ((rangeFrom base n).any (fun x => s.ownGap (x % 2 ^ 16))) bitOor
        .next (s1.startXpush rt sum tile true o bytes [])
      else
        match pushTranslate s sum (puRowb tile) 0 (tilePieces (sum.toNat % 2 ^ 56) (puRowb tile) (puRows tile)) with
        | (s1, .ok bs) => .next (s1.startXpush rt sum tile false o bytes bs)
        | (_, .error (.wait w)) => .next w
        | (s1, .error .hostErr) =>
          let e := ((s1.xDone).clampScope (ordScope o)).expect rt 0
          .next (e.2.answer (frameEnd s.cur.fk) s.cur.fk e.1 (.value 0 false) false)
        | (s1, .error _) => .next s1

/-! ## XPREF (R266) -/

/-- XPREF changes no register; every failure is dropped. -/
def execXpref (rb : BitVec 6) (am : AMode) (off : BitVec 32) (s : State) : Out :=
  let sum := s.accSum rb off
  match xWindow am sum with
  | some t => .next (s.trap t)
  | none => .next (if ptrTag sum = 0 then s.readAhead s.curChannel s.curTag (sum.toNat % 2 ^ 56) else s)

/-! ## Invalidations (R88, R99, R267) -/

/-- Marks a cached host translation as invalidating where it falls in a range. -/
def atsMatch (vf va len : Nat) (whole : Bool) (e : AtsEntry) : Bool :=
  e.vf == vf && (whole || (decide (va < (e.page + 1) * 4096) && decide (e.page * 4096 < va + len)))

/-- Invalidates the hub's cached translations of a function in a range (R99). -/
def State.atsInvalidate (s : State) (vf va len : Nat) (whole : Bool) : State :=
  let h (e : AtsEntry) : AtsEntry := if atsMatch vf va len whole e then { e with invalid := true } else e
  s.updHub (fun x => { x with ats := (x.ats.map h).filter (fun e => !(e.invalid && e.inUse == 0)) })

/-- Begins an invalidation: at every Geyser of the partition's channels (R88). -/
def State.startInval (s : State) (tag : BitVec 10) (va len : Nat) (whole : Bool) (device : Bool) (frame : Option Nat)
    (out : Nat) (ats : Option Nat) : State :=
  let chs := if device then s.partChannels tag.toNat else []
  let r := s.fresh
  let i : Inval := ⟨r.1, tag, va, len, whole, chs, frame, out, ats, []⟩
  let s1 := r.2.updHub (fun h => { h with invals := h.invals ++ [i] })
  if chs.isEmpty then s1.later 8 (.tlbInvalidation r.1 0)
  else chs.foldl (fun s ch => s.later (s.delay hubEnd (2 ^ 20 + ch) + 8) (.tlbInvalidation r.1 ch)) s1

/-- A GTLB entry maps a byte of an invalidation's range. -/
def Inval.covers (i : Inval) (e : GEntry) : Bool :=
  let size := if e.block then 2 ^ 29 else 2 ^ 16
  e.tag == i.tag && (i.whole || (decide (i.va < e.va + size) && decide (e.va < i.va + i.len)))

/-- An access that the issuing thread sent before its XTLBI has not been performed (R267). -/
def State.invalWaits (s : State) (i : Inval) : Bool :=
  match i.frame with
  | some fk => (s.frame fk).outs.any (fun o => decide (o.id < i.id) && o.kind == .x && s.unperf.contains o.id)
  | none => false

/-- The hub reports the completion of an invalidation to the thread that waits for it. -/
def State.endInval (s : State) (i : Inval) : State :=
  let s1 := s.updHub (fun h => { h with invals := h.invals.filter (fun x => x.id != i.id) })
  match i.frame with
  | some fk => s1.returnWord fk i.out 0 0 false false
  | none => s1

/-- A function still uses a cached host translation of an invalidation's range. -/
def State.atsBusy (s : State) (i : Inval) : Bool :=
  match i.ats with
  | some vf => s.hub.ats.any (fun e => e.invalid && atsMatch vf i.va i.len i.whole e)
  | none => false

/-- Step 1 and 2 of an invalidation at a Geyser (R88): the matching entries are marked, those without users freed; the others
are what it waits for. -/
def State.markInval (s : State) (i : Inval) (ch : Nat) : State × Inval :=
  let hit (e : GEntry) : Bool := i.covers e
  let s1 := s.updGeyser ch (fun g => { g with
    gtlb := (g.gtlb.map (fun e => if hit e then { e with invalid := true } else e)).filter (fun e =>
      !(e.invalid && e.inUse == 0)) })
  (s1, { i with found := i.found.put ch (((s1.geyser ch).gtlb.filter hit).map (·.id)) })

/-- TLB_INVALIDATION: at one Geyser matching entries are marked once, at its beginning; it completes there when none of them
remains, and altogether when every Geyser has completed it (R88, R89). -/
def execTlbInvalidation (id ch : Nat) (s : State) : Out :=
  match s.hub.invals.find? (fun i => i.id == id) with
  | none => .next s
  | some i =>
    let x := if i.channels.contains ch && (i.found.get? ch).isNone then s.markInval i ch else (s, i)
    let s1 := x.1
    let left := x.2.found.getD ch []
    let busy := i.channels.contains ch && (s1.geyser ch).gtlb.any (fun e => left.contains e.id)
    let i1 := { x.2 with channels := if busy then i.channels else i.channels.filter (· != ch) }
    let s2 := s1.updHub (fun x => { x with invals := x.invals.map (fun y => if y.id == id then i1 else y) })
    if busy then .next (s2.again (.tlbInvalidation id ch))
    else if i1.channels.isEmpty then
      if s2.invalWaits i1 || s2.atsBusy i1 then .next (s2.again (.tlbInvalidation id ch)) else .next (s2.endInval i1)
    else .next s2

/-- XTLBI's check: S or M, and an external operand. -/
def xtlbiTrap (s : State) (am : AMode) (sum : Word) : Option TrapRec := (privTrap s).or (xWindow am sum)

def execXtlbi (rt rb rc : BitVec 6) (am : AMode) (off : BitVec 32) (s : State) : Out :=
  let sum := s.accSum rb off
  match xtlbiTrap s am sum with
  | some t => .next (s.trap t)
  | none =>
    let tag := s.frameTag s.cur.fk
    let va := sum.toNat % 2 ^ 56
    let len := max (s.pg rc).toNat 1
    let e := s.expect rt 0
    if ptrTag sum = 0 then .next (e.2.startInval tag va len false true (some s.cur.fk) e.1 none)
    else
      let vf := tag.toNat + 1
      .next ((e.2.atsInvalidate vf va len false).startInval tag va len false false (some s.cur.fk) e.1 (some vf))

/-- XTLBI.ALL: the whole partition, its host translations too (R267). The field am of its tail is zero and is not used. -/
def execXtlbiAll (rt : BitVec 6) (_am : AMode) (s : State) : Out :=
  match privTrap s with
  | some t => .next (s.trap t)
  | none =>
    let tag := s.frameTag s.cur.fk
    let vf := tag.toNat + 1
    let e := s.expect rt 0
    .next ((e.2.atsInvalidate vf 0 0 true).startInval tag 0 0 true true (some s.cur.fk) e.1 (some vf))

end Sys2Proof.Machine
end

