-- ==== Sys2Proof/Machine/Pages.lean ====
section
/-! DEFINITION. The hub: trap messages, page requests and their responses, host completions, address translation by the
host (R91 to R99, R379 to R383, R400, R416, R429). -/

namespace Sys2Proof.Machine

/-! ## Page requests (R91, R92, R98) -/

/-- The page request with a number. -/
def State.pageReq? (s : State) (id : Nat) : Option (Nat × PageReq) :=
  (s.vfs.filterMap (fun v => (v.2.reqs.find? (fun r => r.id == id)).map (fun r => (v.1, r)))).head?

/-- Removes a page request from its function. -/
def State.dropReq (s : State) (vf id : Nat) : State :=
  s.updVf vf (fun v => { v with reqs := v.reqs.filter (fun r => r.id != id) })

/-- A Geyser thread parked on a page goes on. -/
def State.pageResume (s : State) (fk : Nat) : State :=
  (s.updFrame fk (fun f => { f with waits := f.waits.erase 8 })).resume fk

/-- The context unit of a partition fails with an outcome code: ERR, and the containment reset (R388, R392). -/
def State.contextFails (s : State) (tag n : Nat) : State :=
  (s.updPart tag (fun p => { p with err := BitVec.ofNat 8 n })).later 1 (.containmentReset tag 0x0C)

/-- The end of a host request of the context unit: its translation, or the bytes of a block of the images at an offset
(R98, R99). -/
def State.contextHost (s : State) (tag code : Nat) (block : Option (Nat × List Byte)) : State :=
  let s1 := s.updPart tag (fun p => { p with ctxReq := 0 })
  if code ≠ 0 then s1.contextFails tag code
  else
    match block with
    | none => s1.later 1 (if (s.part tag).state = 2 then .contextSaveDone tag else .restoreDone tag)
    | some (off, bs) =>
      (s1.updPart tag (fun p => { p with ctxNext := p.ctxNext + 1, readback := p.readback.setBytes off bs })).later 1
        (.restoreDone tag)

/-- The partition whose context unit waits for a request. -/
def State.contextOf (s : State) (unit : Nat) : Option Nat :=
  (s.parts.find? (fun p => p.2.ctxReq == unit && p.2.ctxReq != 0)).map (·.1)

/-- A failure: a stalled burst ends with the outcome its walk had, a parked thread's access raises PAGE (R92, R95). -/
def State.waitersFail (s : State) (host : Bool) (va : Nat) (copies threads : List Nat) : State :=
  let one (s : State) (id : Nat) : State :=
    match s.copy? id with
    | some c => if c.stalled.isSome then s.failCopy id (c.stalled.getD 1) else s
    | none => s
  let thread (s : State) (fk : Nat) : State :=
    (s.updFrame fk (fun f => { f with
      held := f.held.put 9 (pageFailure ((f.held.getD 8 1).toNat % 2 ^ 8) host va) })).pageResume fk
  threads.foldl thread (copies.foldl one s)

/-- A unit of the hub that waited for a host page goes on, or fails with an outcome code: a ring, a page-request record, a fill
or a spill (R34, R171), a context unit (R98). A record whose ring has no translation fails its request, as after HOSTERR
(DESIGN CHOICE, log entry 98). -/
def State.unitPage (s : State) (unit code : Nat) : State :=
  if 2 ^ 70 ≤ unit then s.ringAts (unit - 2 ^ 70) code
  else if s.hub.fills.any (fun x => x.id == unit) then
    (s.updHub (fun h => { h with fills := h.fills.map (fun x =>
      if x.id == unit && code != 0 then { x with done := some ([], code) } else x) })).later 1 (.istoreFill unit)
  else
    match s.hub.spills.find? (fun x => x.id == unit), s.contextOf unit, s.pageReq? unit with
    | some sp, _, _ =>
      if code ≠ 0 ∧ sp.work.isNone then s.spillAnswer sp (spillFailure code)
      else
        (s.updHub (fun h => { h with spills := h.spills.map (fun x =>
          if x.id == unit then { x with failed := code != 0 } else x) })).later 1
          (if sp.work.isSome then .spillWriteCompletion unit else .spillReadCompletion unit)
    | none, some tag, _ => s.contextHost tag code none
    | none, none, some (vf, r) =>
      if code = 0 then s.later 1 (.pageRequestRecord unit)
      else (s.dropReq vf unit).waitersFail r.host r.va r.copies r.threads
    | none, none, none => s

/-- Success: a stalled burst walks again, a parked thread issues its bundle again (R92), a unit of the hub goes on. -/
def State.pageRetry (s : State) (copies threads : List Nat) (units : List Nat := []) : State :=
  let one (s : State) (id : Nat) : State := (s.updCopy id (fun c => { c with stalled := none })).later 1 (.burstAdmission id)
  units.foldl (fun s u => s.unitPage u 0) (threads.foldl State.pageResume (copies.foldl one s))

/-- A failure of a page: what waited for it fails (R92, R95, R98). -/
def State.pageFail (s : State) (host : Bool) (va : Nat) (copies threads : List Nat) (units : List Nat := []) : State :=
  units.foldl (fun s u => s.unitPage u 1) (s.waitersFail host va copies threads)

/-- Ends every request of a function with a failure (R92). -/
def State.failAll (s : State) (vf : Nat) : State :=
  let rs := (s.vf vf).reqs
  rs.foldl (fun s r => s.pageFail r.host r.va r.copies r.threads r.units) (s.updVf vf (fun v => { v with reqs := [] }))

/-- The outstanding request of the current generation for a page and an access. -/
def Vf.sameReq (v : Vf) (host : Bool) (va : Nat) (write : Bool) (r : PageReq) : Bool :=
  r.host == host && r.va == va && r.write == write && r.gen == v.gen

/-- A fault joins the outstanding request of its page and access, or makes a new one (R91, R416). -/
def State.requestPage (s : State) (vf : Nat) (host : Bool) (va : Nat) (write : Bool) (copies threads : List Nat)
    (units : List Nat := []) : State :=
  let v := s.vf vf
  if v.reqs.any (v.sameReq host va write) then
    let add (r : PageReq) : PageReq := { r with
      copies := r.copies ++ copies, threads := r.threads ++ threads, units := r.units ++ units }
    s.updVf vf (fun v => { v with reqs := replaceFirst (v.sameReq host va write) add v.reqs })
  else
    let id := s.fresh
    let used := (v.reqs.filter (fun r => r.host)).map (·.rid)
    let rid := if host then ((rangeFrom 0 512).find? (fun i => !used.contains i)).getD 0 else v.nextRid
    let r : PageReq := ⟨id.1, va, write, host, rid, v.gen, false, copies, threads, units⟩
    let s1 := id.2.updVf vf (fun v => { v with reqs := v.reqs ++ [r], nextRid := if host then v.nextRid else v.nextRid + 1 })
    s1.later 8 (if host then .priPageRequest ⟨id.1, false⟩ else .pageRequestRecord id.1)

/-- The hub acts on a KIND 1 message. -/
def State.hubPageFault (s : State) (m : TrapMsg) : State :=
  if s.canRequestPage m.part.toNat false then
    s.requestPage (m.part.toNat + 1) false m.va (m.acc == 2) m.copies m.threads
  else s.pageFail false m.va m.copies m.threads

/-- A lasting fault: a core is removed (a Geyser's pool has no core to remove: log entry 104), or a page enters the retired-page list of 256; the reset of its partition follows
after 10,000 ns (R376, R399, R429). -/
def State.hubLasting (s : State) (m : TrapMsg) : State :=
  let s1 :=
    match m.page with
    | some p => s.updHub (fun h => { h with
        retired := if h.retired.contains p || decide (256 ≤ h.retired.length) then h.retired else h.retired ++ [p] })
    | none => match m.pool with | some k => s.updCore k (fun c => { c with failed := true }) | none => s
  if !m.noPart then s1.later (nsCycles 10000) (.containmentDelayExpiry m.part.toNat) else s1

/-- The hub takes a trap message: the cause table, and what its kind asks for. -/
def State.hubMessage (s : State) (m : TrapMsg) : State :=
  let vf := if m.noPart then 0 else m.part.toNat + 1
  let detail := m.src.setWidth 64
  if m.kind = 1 then s.hubPageFault m
  else if m.kind = 2 then s.raiseCause 2 vf 0 detail m.srcmap.toNat
  else if m.kind = 3 then s.raiseCause 3 vf m.cause.toNat detail 1
  else (s.raiseCause 4 vf m.cause.toNat detail 1).hubLasting m

/-- HUB_TRAP_MESSAGE: the oldest message of a Beacon. -/
def execHubTrapMessage (beacon : Nat) (s : State) : Out :=
  match s.hub.queue.find? (fun m => m.beacon == beacon) with
  | none => .next s
  | some m => .next ((s.updHub (fun h => { h with queue := removeFirst (fun x => x.beacon == beacon) h.queue })).hubMessage m)

/-- The 32 bytes of a page-request record. -/
def pageRecord (r : PageReq) (tag : Nat) : List Byte :=
  natBytes (r.va % 2 ^ 56 + (if r.write then 2 else 1) * 2 ^ 56) 8 ++ natBytes r.rid 8 ++
    natBytes (r.gen.toNat + tag * 2 ^ 16) 8 ++ natBytes 0 8

/-- The slot of a record still holds an outstanding request of the function. -/
def Vf.slotBusy (v : Vf) (r : PageReq) : Bool :=
  v.reqs.any (fun x => x.sent && !x.host && x.gen == v.gen && x.id != r.id && x.rid % 256 == r.rid % 256)

/-- PAGE_REQUEST_RECORD: the record is written when its slot is free and the cause table has a place, after the translation
of the ring's page, with a cause entry of kind 1; a write that cannot be sent fails the request (R92, R98, R402). -/
def execPageRequestRecord (id : Nat) (s : State) : Out :=
  match s.pageReq? id with
  | none => .next s
  | some (vf, r) =>
    let v := s.vf vf
    let tag := vf - 1
    let va := v.prring.toNat % 2 ^ 56 + 32 * (r.rid % 256)
    if r.sent then .next s
    else if !s.hostCanWrite tag || !s.canRequestPage tag false then
      .next ((s.dropReq vf id).pageFail false r.va r.copies r.threads r.units)
    else if v.slotBusy r || !s.causeRoom then .next (s.again (.pageRequestRecord id))
    else if !s.hostReady tag va then .next (s.askAts tag va true none none id)
    else
      let s1 := s.hostStore tag va (pageRecord r tag)
      let s2 := s1.updVf vf (fun v => { v with
        reqs := v.reqs.map (fun x => if x.id == id then { x with sent := true } else x) })
      .next (s2.raiseCause 1 vf 0 (natWord r.rid) 1)

/-- A response is dropped and counted (R93). SAT is set by the response that finds STALE at 0xFFFF_FFFF already (DESIGN CHOICE,
log entry 88: R93 does not name the moment). -/
def State.staleResponse (s : State) (vf : Nat) : State :=
  s.updVf vf (fun v => { v with stale := satAdd v.stale 1, staleSat := v.staleSat || decide (v.stale.toNat + 1 = 2 ^ 32) })

/-- A response of the current generation to an outstanding request. -/
def State.answerReq (s : State) (vf : Nat) (r : PageReq) (code : BitVec 2) : State :=
  let s1 := s.dropReq vf r.id
  if code = 0 then s1.pageRetry r.copies r.threads r.units
  else
    let s2 := s1.pageFail r.host r.va r.copies r.threads r.units
    if code = 1 then s2 else (s2.updPart (vf - 1) (fun p => { p with pageReq := false })).failAll vf

/-- A response to a request by its identifier and generation; code 3, an old generation and an unknown request are counted
as stale. -/
def State.respondPage (s : State) (vf : Nat) (host : Bool) (rid : Nat) (gen : BitVec 16) (code : BitVec 2) : State :=
  let v := s.vf vf
  match v.reqs.find? (fun r => r.sent && r.host == host && r.rid == rid && r.gen == gen) with
  | some r => if code = 3 ∨ gen ≠ v.gen then s.staleResponse vf else s.answerReq vf r code
  | none => s.staleResponse vf

/-- PAGE_RESPONSE: a write of PGRESP (R400). -/
def execPageResponse (vf : Nat) (rid : Word) (gen : BitVec 16) (code : BitVec 2) (s : State) : Out :=
  let s1 := s.updVf vf (fun v => { v with pgresp0 := rid, pgresp1 := natWord (gen.toNat + code.toNat * 2 ^ 16) })
  .next (s1.respondPage vf false rid.toNat gen code)

/-- PAGE_STALE_CLEAR: STALE and SAT are write-one-to-clear. -/
def execPageStaleClear (vf : Nat) (bits : Word) (s : State) : Out :=
  .next (s.updVf vf (fun v => { v with
    stale := v.stale &&& ~~~ (bits.setWidth 32), staleSat := v.staleSat && !bits.getLsbD 32 }))

/-- A register write of a virtual function is held while a scrub of its partition runs (R400). -/
def heldWrite (s : State) (vf : Nat) (i : Instr) (go : State → State) : Out :=
  if (s.part (vf - 1)).scrubbing then .next (s.updVf vf (fun v => { v with heldWrites := v.heldWrites ++ [⟨i⟩] }))
  else .next (go s)

/-- PRRING: the pointer of the page-request ring. -/
def execPrring (vf : Nat) (ptr : Word) (s : State) : Out :=
  heldWrite s vf (.prring vf ptr) (fun s => s.updVf vf (fun v => { v with prring := ptr }))

/-! ## Host pages (R98) -/

/-- A unit for which the hub requests no page: an instruction fetch (R34, R95), a spill access (R171). -/
def State.unitFinal (s : State) (unit : Nat) : Bool :=
  s.hub.fills.any (fun x => x.id == unit) || s.hub.spills.any (fun x => x.id == unit)

/-- The outcome that a stalled burst or thread has if the host refuses the page: PROT where the host lets it only be read. -/
def State.pageOutcome (s : State) (copies threads : List Nat) (code : Nat) : State :=
  threads.foldl (fun s fk => s.updFrame fk (fun f => { f with held := f.held.put 8 (natWord code) }))
    (copies.foldl (fun s id => s.updCopy id (fun c => { c with stalled := some code })) s)

/-- PRI_PAGE_REQUEST: an address that the host could not translate for the access is requested, within the allocation of the
function. The number is that of the translation request the host could not serve, or of a page request that waits; `readable`
says that the host translates the page for reading only (R90, R98, R263). No page is requested for a fetch or a spill (R34, R171). -/
def execPriPageRequest (req : PriAsk) (s : State) : Out :=
  let id := req.id
  match s.hub.hostReqs.find? (fun r => r.id == id && r.ats), s.pageReq? id with
  | some q, _ =>
    let code := if req.readable && q.write then 2 else 1
    let copies := (q.copy.map (·.1)).toList
    let threads := q.frame.toList
    let units := if q.unit = 0 then [] else [q.unit]
    let s1 := (s.updHub (fun h => { h with hostReqs := h.hostReqs.filter (fun r => r.id != id) })).pageOutcome copies threads code
    let page := q.va / 4096 * 4096
    if q.unit ≠ 0 ∧ s.unitFinal q.unit then .next (s1.unitPage q.unit code)
    else if s.canRequestPage (q.vf - 1) true then .next (s1.requestPage q.vf true page q.write copies threads units)
    else .next (units.foldl (fun s u => s.unitPage u code) (s1.pageFail true page copies threads))
  | none, some (vf, r) =>
    if r.sent || !r.host then .next s
    else if (s.vf vf).alloc ≤ ((s.vf vf).reqs.filter (fun x => x.host && x.sent)).length then
      .next (s.again (.priPageRequest ⟨id, false⟩))
    else
      .next (s.updVf vf (fun v => { v with
        reqs := v.reqs.map (fun x => if x.id == id then { x with sent := true } else x) }))
  | none, none => .next s

/-- PRG_RESPONSE: the host's answer to a page request group. -/
def execPrgResponse (vf index : Nat) (gen : BitVec 16) (code : BitVec 2) (s : State) : Out :=
  .next (s.respondPage vf true index gen code)

/-! ## Completions of non-posted requests (R98, R99) -/

/-- A translation returned by the host enters the cache of 8,192 entries under its function and PASID; a full cache gives
up its oldest entry that no request uses (DESIGN CHOICE, log entry 86: R98 names none). -/
def State.cacheAts (s : State) (vf : Nat) (pasid : BitVec 20) (page : Nat) : State :=
  let id := s.fresh
  let e : AtsEntry := ⟨id.1, vf, pasid, page, 0, false⟩
  let room (es : List AtsEntry) : List AtsEntry := if es.length < 8192 then es else removeFirst (fun e => e.inUse == 0) es
  id.2.updHub (fun h => { h with ats := room h.ats ++ [e] })

/-- The end of an ATS translation request. -/
def State.endAts (s : State) (q : HostReq) (error : Bool) : State :=
  if q.unit ≠ 0 then (if error then s else s.cacheAts q.vf q.pasid (q.va / 4096)).unitPage q.unit (if error then 6 else 0)
  else
  let copies := (q.copy.map (·.1)).toList
  if error then
    let s1 := copies.foldl (fun s id => s.failCopy id 6) s
    q.frame.toList.foldl (fun s fk =>
      (s.updFrame fk (fun f => { f with held := f.held.put 9 (pageFailure 6 true q.va) })).pageResume fk) s1
  else (s.cacheAts q.vf q.pasid (q.va / 4096)).pageRetry copies q.frame.toList

/-- The end of a host read of a Geyser thread. -/
def State.endHostLoad (s : State) (q : HostReq) (fk : Nat) (error : Bool) : State :=
  let s1 := ((s.useEntry q.chan q.gent false).useAts q.entry false).performed q.id
  if error then
    (s1.updFrame fk (fun f =>
      let d : Due := ⟨0x0C, 6, natWord (q.eval.toNat % 2 ^ 56), f.eseq, true⟩
      { f with dueMark := f.dueMark ++ [d] })).returnWord fk q.id 0 0 false false
  else s1.returnWord fk q.id 0 (natWord (s.host.readLE (fnKey q.vf q.va) q.len)) false false

/-- The end of a host read of a copy's burst: the burst has its bytes or its error, and the first bursts of the copy that
have theirs move in order (R87, R99, R115). -/
def State.endHostBurst (s : State) (q : HostReq) (id bid : Nat) (error : Bool) : State :=
  match s.copy? id with
  | none => s
  | some _ =>
    let bs := s.host.bytes (fnKey q.vf q.va) q.len
    let note (b : Burst) : Burst :=
      if b.id == bid then (if error then { b with err := true } else { b with got := some bs }) else b
    (s.updCopy id (fun c => { c with bursts := c.bursts.map note })).nextReturned id

/-- The end of a host read of a fill, a spill record or a block of the saved images (R34, R171, R390). -/
def State.endUnitRead (s : State) (q : HostReq) (error : Bool) : State :=
  let bs := s.host.bytes (fnKey q.vf q.va) q.len
  let code := if error then 6 else 0
  let s1 := (s.useEntry q.chan q.gent false).useAts q.entry false
  match s.hub.spills.find? (fun x => x.id == q.unit), s.contextOf q.unit with
  | some sp, _ => s1.spillAnswer sp (if error then spillFailure 6 else spillReply sp.handle bs)
  | none, some tag => s1.contextHost tag code (some (q.eval.toNat, bs))
  | none, none =>
    (s1.updHub (fun h => { h with fills := h.fills.map (fun x =>
      if x.id == q.unit then { x with done := some (bs, code) } else x) })).later 1 (.istoreFill q.unit)

/-- The end of a non-posted request of the hub. -/
def State.hostEnd (s : State) (id : Nat) (error : Bool) : State :=
  match s.hub.hostReqs.find? (fun r => r.id == id) with
  | none => s
  | some q =>
    let s1 := s.updHub (fun h => { h with hostReqs := h.hostReqs.filter (fun r => r.id != id) })
    if q.ats then s1.endAts q error
    else if q.unit ≠ 0 then s1.endUnitRead q error
    else
      match q.copy, q.frame with
      | some (c, b), _ => s1.endHostBurst q c b error
      | none, some fk => s1.endHostLoad q fk error
      | none, none => (s1.useAts q.entry false).ringAnswer q.vf q.va error

/-- HOST_COMPLETION: Unsupported Request, Completer Abort or poison is an error. -/
def execHostCompletion (id : Nat) (error : Bool) (s : State) : Out := .next (s.hostEnd id error)

/-- HOST_COMPLETION_TIMEOUT ends the request with HOSTERR. -/
def execHostCompletionTimeout (id : Nat) (s : State) : Out := .next (s.hostEnd id true)

/-- ATS_INVALIDATE_REQUEST: the host invalidates a range of a function's translations. -/
def execAtsInvalidateRequest (vf va len : Nat) (s : State) : Out :=
  let r := s.fresh
  let i : Inval := ⟨r.1, BitVec.ofNat 10 (vf - 1), va, len, false, [], none, 0, some vf, []⟩
  let s1 := (r.2.atsInvalidate vf va len false).updHub (fun h => { h with invals := h.invals ++ [i] })
  .next (s1.later 8 (.atsInvalidateCompletion r.1))

/-- ATS_INVALIDATE_COMPLETION is sent once no translated request uses an entry of the range. -/
def execAtsInvalidateCompletion (id : Nat) (s : State) : Out :=
  match s.hub.invals.find? (fun i => i.id == id) with
  | none => .next s
  | some i => if s.atsBusy i then .next (s.again (.atsInvalidateCompletion id)) else .next (s.endInval i)

end Sys2Proof.Machine
end

