-- ==== Sys2Proof/Machine/Lamplighter.lean ====
section
/-! DEFINITION. Launches and the Lamplighter: records, ranges, dispatch, tile prefetch, stealing, budgets (R125, R126,
R164, R165, R178, R349, R356 to R373). -/

namespace Sys2Proof.Machine

/-! ## Fields of a launch record (R356) -/

def Launch.dw (l : Launch) (i : Nat) : Nat := (l.dwords.getD i 0).toNat
def Launch.entry (l : Launch) : Nat := natBits (l.dw 0) 0 56
def Launch.det (l : Launch) : Bool := natBits (l.dw 0) 56 1 == 1
def Launch.cert (l : Launch) : Bool := natBits (l.dw 0) 57 1 == 1
def Launch.prio (l : Launch) : BitVec 2 := BitVec.ofNat 2 (natBits (l.dw 0) 58 2)
def Launch.sdom (l : Launch) : Nat := natBits (l.dw 0) 60 4
def Launch.ring (l : Launch) : Word := natWord (l.dw 6)
def Launch.pword (l : Launch) : BitVec 32 := BitVec.ofNat 32 (natBits (l.dw 7) 32 18)
/-- The stack slice in bytes. -/
def Launch.ss (l : Launch) : Nat := 16 * natBits (l.dw 7) 50 11

/-- The launch runs: it has been checked and accepted. -/
def Launch.running (l : Launch) : Bool := l.checked && l.status.isNone

/-- The agents of a partition are stopped, by pre-emption or by a scrub (R385, R404). -/
def State.partStopped (s : State) (tag : Nat) : Bool := (s.part tag).state != 0 || (s.part tag).scrubbing

/-- A partition is assigned to a function that can launch: its table holds at least one core (R356). -/
def State.canLaunch (s : State) (tag : Nat) : Bool := (s.part tag).assigned && !(s.part tag).logical.isEmpty

/-- Updates the launches of a partition with a number. -/
def State.updLaunch (s : State) (tag lseq : Nat) (h : Launch → Launch) : State :=
  s.updPart tag (fun p => { p with launches := p.launches.map (fun l => if l.lseq == lseq then h l else l) })

/-- Failed cores leave the table before the next launch of a partition without a running one is accepted (R399). -/
def State.dropFailed (s : State) (tag : Nat) : State :=
  if (s.part tag).launches.any Launch.running then s else s.removeFailed tag

/-- LAUNCH_RECORD: a write of the launch port is accepted and numbered, or dropped and counted (R356). -/
def execLaunchRecord (vf : Nat) (whole : Bool) (dwords : List Word) (s : State) : Out :=
  let tag := vf - 1
  let s := s.dropFailed tag
  if !whole || !s.canLaunch tag then .next (s.updVf vf (fun v => { v with badl := satAdd v.badl 1 }))
  else
    let n := (s.vf vf).nextLseq
    let l : Launch := { vf, lseq := n.toNat, dwords, count := natBits ((dwords.getD 7 0).toNat) 0 32 }
    let s1 := (s.updVf vf (fun v => { v with nextLseq := n + 1 })).updPart tag (fun p => { p with held := p.held ++ [l] })
    .next (s1.routeHeld tag)

/-! ## The end of a launch (R358) -/

/-- The completion record without its TIME. -/
def Launch.record (l : Launch) (status : Nat) : List Word :=
  [natWord (0x10 + status * 2 ^ 8 + l.lseq % 2 ^ 32 * 2 ^ 32), natWord (l.count + l.faulted % 2 ^ 32 * 2 ^ 32),
    natWord (l.cancelled % 2 ^ 32), 0]

/-- Sets the deterministic mark of a partition's cores and Geysers (R395). -/
def State.setDet (s : State) (tag : Nat) (det : Bool) : State :=
  let s1 := (s.partCores tag).foldl (fun s k => s.updCore k (fun c => { c with det })) s
  (s1.partChannels tag).foldl (fun s ch => s.updGeyser ch (fun g => if g.tag.toNat == tag then { g with det } else g)) s1

/-- A launch leaves its partition with a status, and its record is handed to the hub when RING is not 0. -/
def State.completeLaunch (s : State) (tag : Nat) (l : Launch) (status : Nat) : State :=
  let s1 := s.updPart tag (fun p => { p with launches := p.launches.filter (fun x => x.lseq != l.lseq) })
  let gone (r : Range) : Bool := r.tag.toNat == tag && r.lseq == l.lseq
  let h (c : Cluster) : Cluster := { c with ranges := c.ranges.filter (fun r => !gone r) }
  let s2 := { s1 with clusters := s1.clusters.mapVal h }
  let s3 := if l.det && l.checked && status == 0 then s2.setDet tag false else s2
  if l.ring = 0 then s3
  else
    (s3.updPart tag (fun p => { p with completions := p.completions ++ [⟨l.ring, l.record status⟩] })).askRing (tag + 1)
      l.ring.toNat

/-- A cluster still holds indices of a launch, or an index waits for a spill. -/
def State.indicesLeft (s : State) (tag : Nat) (l : Launch) : Bool :=
  s.clusters.any (fun c => c.2.ranges.any (fun r => r.tag.toNat == tag && r.lseq == l.lseq &&
    decide (r.next < if l.det then l.count else r.limit))) ||
  s.hub.spills.any (fun x => match x.work with
    | some (.index t) => t.lseq == l.lseq && x.tag.toNat == tag | _ => false)

/-- A decrement of a retired task of the partition has not been executed: its continuation may still be enqueued. -/
def State.decrementOut (s : State) (tag : BitVec 10) : Bool :=
  let is (p : Packet) : Bool := p.tag == tag && (match p.body with | .join .. => true | _ => false)
  s.net.any is || s.cores.any (fun c => (c.2.inbox ++ c.2.overflow).any is)

/-- Every index has been dispensed and every task of the launch has retired; a reserved slot whose continuation is never
enqueued does not hold it (R358; log entry 37). -/
def State.launchOver (s : State) (tag : Nat) (l : Launch) : Bool :=
  l.running && !l.certWait && (l.det || decide (l.count ≤ l.next)) && l.live == 0 && !s.indicesLeft tag l &&
    !s.decrementOut (BitVec.ofNat 10 tag)

/-- The hub can hold the completion record of a launch: it holds at most 256 of a function (R413). -/
def State.recordRoom (s : State) (tag : Nat) (l : Launch) : Bool :=
  l.ring == 0 || decide ((s.part tag).completions.length < 256)

/-- LAUNCH_COMPLETION: a record for which the hub has no room waits. -/
def execLaunchCompletion (tag lseq : Nat) (s : State) : Out :=
  match s.launch tag lseq with
  | none => .next s
  | some l =>
    if !s.launchOver tag l then .next s
    else if s.recordRoom tag l then .next (s.completeLaunch tag l 0)
    else .next (s.again (.launchCompletion tag lseq))

/-! ## The check at the root (R357, R359) -/

/-- The status that refuses a launch beside the running ones. -/
def launchStatus (l : Launch) (running : List Launch) : Option Nat :=
  if !pwOk l.pword || decide (pwS l.pword < pwF l.pword * l.ss) then some 1
  else if l.entry.testBit 5 || natBits (l.dw 7) 61 3 != 0 then some 2
  else if running.any (fun x => x.pword != l.pword) then some 3
  else if (l.det && !running.isEmpty) || running.any (·.det) then some 4
  else none

/-- Gives a range to a cluster. -/
def State.giveRange (s : State) (tag lseq q lo hi : Nat) : State :=
  let r : Range := ⟨BitVec.ofNat 10 tag, lseq, lo, hi, lo⟩
  (s.updCluster q (fun c => { c with ranges := c.ranges ++ [r] })).later 8 (.taskDispatch q)

/-- The root dispenses the next range of a launch to a cluster, or notes its request (R359). -/
def State.dispense (tag lseq : Nat) (s : State) (q : Nat) : State :=
  match s.launch tag lseq with
  | none => s
  | some l =>
    let n := min 64 (l.count - l.next)
    if n = 0 then s.updLaunch tag lseq (fun l => { l with asking := if l.asking.contains q then l.asking else l.asking ++ [q] })
    else (s.updLaunch tag lseq (fun l => { l with next := l.next + n })).giveRange tag lseq q l.next (l.next + n)

/-- The tasks of an accepted launch are dispensed: ranges in cluster order, or every cluster's lanes (R359, R373). -/
def State.dispenseAll (s : State) (tag : Nat) (l : Launch) : State :=
  let qs := s.partClusters tag
  let s1 := if l.det then qs.foldl (fun s q => s.giveRange tag l.lseq q 0 l.count) s
    else qs.foldl (State.dispense tag l.lseq) s
  s1.later 1 (.launchCompletion tag l.lseq)

/-- Sets the partition word of every core of a partition (R357). -/
def State.setPword (s : State) (tag : Nat) (w : BitVec 32) : State :=
  (s.partCores tag).foldl (fun s k => s.relayout k w) s

/-- The key of a slot's random stream at a launch: the partition seed above 8 * lcid + slot (R297). -/
def launchKey (seed : Word) (lcid n : Nat) : Word := natWord (seed.toNat / 2 ^ 25 * 2 ^ 25 + (8 * lcid + n) % 2 ^ 25)

/-- The slots of a partition's cores take the keys of their random streams. -/
def State.setKeys (s : State) (tag : Nat) : State :=
  let seed := (s.part tag).seed
  (s.partCores tag).foldl (fun s k => (rangeFrom 0 8).foldl (fun s n =>
    s.updSlot (k * 8 + n) (fun r => { r with rkey := launchKey seed (s.core k).lcid n, rctr := 0 })) s) s

/-- An accepted launch runs, and its slots take their keys (R297); with CERT its tasks wait for the certificate (R408); one
without indices ends at once (R357). -/
def State.acceptLaunch (s : State) (tag : Nat) (l : Launch) (first : Bool) : State :=
  let s1 := s.updLaunch tag l.lseq (fun l => { l with checked := true, certWait := l.cert })
  let s2 := (if first then (s1.setPword tag l.pword).setDet tag l.det else s1).setKeys tag
  if l.count = 0 then s2.completeLaunch tag { l with checked := true } 0
  else if l.cert then s2.later 16 (.certificateSigned tag)
  else s2.dispenseAll tag l

/-- LAUNCH_CHECK: the root checks its oldest unchecked record, once the partition is not stopped (R385, R404). -/
def execLaunchCheck (tag : Nat) (s : State) : Out :=
  if s.partStopped tag then .next (s.again (.launchCheck tag))
  else
  let s := s.dropFailed tag
  match (s.part tag).launches.find? (fun l => !l.checked) with
  | none => .next s
  | some l =>
    let running := (s.part tag).launches.filter Launch.running
    if !s.recordRoom tag l then .next (s.again (.launchCheck tag))
    else match launchStatus l running with
    | some st => .next (s.completeLaunch tag l st)
    | none => .next (s.acceptLaunch tag l running.isEmpty)

/-- LAUNCH_RANGE_REQUEST: the root serves a cluster's request. -/
def execLaunchRangeRequest (tag lseq q : Nat) (s : State) : Out :=
  if s.partStopped tag then .next (s.again (.launchRangeRequest tag lseq q)) else .next (State.dispense tag lseq s q)

/-! ## Indices become tasks (R359, R373) -/

/-- Number of lanes of a partition. -/
def State.lanes (s : State) (tag : Nat) : Nat := 8 * (s.part tag).logical.length

/-- The core of a lane; none where another module holds it. -/
def State.laneCore (s : State) (tag lane : Nat) : Option Nat := s.logicalCore tag (lane / 8)

/-- The task of an index. -/
def Launch.indexTask (l : Launch) (tag i : Nat) (lane : Option Nat) : Task :=
  { id := 0, entry := natWord l.entry, args := [natWord (l.dw 1), natWord (l.dw 2), natWord (l.dw 3)],
    index := BitVec.ofNat 32 i, g7 := natWord i, prio := l.prio, sdom := l.sdom, lseq := l.lseq,
    tag := BitVec.ofNat 10 tag, lane, launched := true, freeFormats := true }

/-- The range of a launch at a cluster that still has indices. -/
def Cluster.openRange (c : Cluster) (tag lseq : Nat) (count : Option Nat) : Option Range :=
  c.ranges.find? (fun r => r.tag.toNat == tag && r.lseq == lseq && decide (r.next < count.getD r.limit))

/-- Advances a range past its next index. -/
def State.stepRange (s : State) (q : Nat) (r : Range) : State :=
  s.updCluster q (fun c => { c with
    ranges := replaceFirst (fun x => x == r) (fun x => { x with next := x.next + 1 }) c.ranges })

/-- Turns the indices of a launch that a cluster holds into tasks, in ascending order, until one is refused or waits for
a spill; n bounds the work. -/
def fillRange (q tag lseq : Nat) (s : State) : Nat → State
  | 0 => s
  | n + 1 =>
    match s.launch tag lseq with
    | none => s
    | some l =>
      let count := if l.det then some l.count else none
      let spilling := s.hub.spills.any (fun x => x.cluster == q && match x.work with
        | some (.index t) => t.lseq == lseq && t.tag.toNat == tag | _ => false)
      match (if spilling then none else (s.cluster q).openRange tag lseq count) with
      | none => s
      | some r =>
        let lane := if l.det then some (r.next % max (s.lanes tag) 1) else none
        let mine := match lane with | some x => (s.laneCore tag x).map (· / 16) == some q | none => true
        let s1 := s.stepRange q r
        if !mine then fillRange q tag lseq s1 n
        else
          let t := s1.newTask (l.indexTask tag r.next lane)
          let s2 := t.1.allocate q r.tag l.prio 1 true true (.index t.2)
          if (s2.cluster q).ranges.contains r then s2 else fillRange q tag lseq s2 n

/-- Undispatched indices of a launch at a cluster: of its ranges, of its tasks, and those that wait for a spill write. -/
def State.undispatched (s : State) (q tag lseq : Nat) : Nat :=
  let c := s.cluster q
  let waits (x : Spill) : Bool := x.cluster == q && x.tag.toNat == tag &&
    (match x.work with | some (.index t) => t.lseq == lseq | _ => false)
  (s.hub.spills.filter waits).length + ((c.ranges.filter (fun r => r.tag.toNat == tag && r.lseq == lseq)).map (fun r => r.limit - r.next)).sum +
    (c.tasks.filter (fun t => t.tag.toNat == tag && t.lseq == lseq && t.launched && t.resume.isNone)).length

/-- Requests a range for every launch of which a cluster holds fewer than 16 undispatched indices. -/
def State.askRange (s : State) (q tag : Nat) (l : Launch) : State :=
  let sent := s.agenda.any (fun e => decide (e.act = Instr.launchRangeRequest tag l.lseq q))
  if l.running && !l.certWait && !l.det && !sent && !l.asking.contains q &&
      decide (s.undispatched q tag l.lseq < 16) then
    s.later 16 (.launchRangeRequest tag l.lseq q)
  else s

/-- Partitions with a core in a cluster. -/
def State.clusterParts (s : State) (q : Nat) : List Nat :=
  (s.parts.filter (fun p => (s.partClusters p.1).contains q)).map (·.1)

/-- A cluster turns the indices of a launch into tasks and asks for more. A launch whose last indices belong to other
clusters may end here; where indices that a turn did not reach are left, the cluster goes on. -/
def State.fillLaunch (q tag : Nat) (s : State) (l : Launch) : State :=
  let s1 := (fillRange q tag l.lseq s 1024).askRange q tag l
  let s2 := if l.det && s1.launchOver tag ((s1.launch tag l.lseq).getD l) then s1.later 1 (.launchCompletion tag l.lseq) else s1
  let moved := (s1.cluster q).ranges != (s.cluster q).ranges
  if moved && ((s1.cluster q).openRange tag l.lseq (if l.det then some l.count else none)).isSome then s2.later 1 (.taskDispatch q)
  else s2

/-- A cluster turns its indices into tasks and asks for more. -/
def State.fillCluster (s : State) (q : Nat) : State :=
  let one (s : State) (tag : Nat) : State :=
    if s.partStopped tag then s else (s.part tag).launches.foldl (State.fillLaunch q tag) s
  (s.clusterParts q).foldl one s

/-! ## Cores, frames and slots that can take a task (R42, R365) -/

/-- Cores of a cluster that serve a partition, in logical order. -/
def State.clusterCores (s : State) (q tag : Nat) : List Nat :=
  (s.partCores tag).filter (fun k => k / 16 == q && !(s.core k).failed &&
    s.coreOf k (BitVec.ofNat 10 tag) (s.part tag).epoch)

/-- The lowest free slot of a core. -/
def State.freeSlot (s : State) (k : Nat) : Option Nat := (rangeFrom (k * 8) 8).find? (fun sk => (s.slot sk).state == .free)

/-- A frame is free: no task holds it, no copy of its last task runs (R115), and no prefetch has reserved it. -/
def State.frameFree (s : State) (fk : Nat) : Bool :=
  let f := s.frame fk
  f.state == .free && f.copies.isEmpty && !(s.cluster (frameCore fk / 16)).tasks.any (fun t => t.target == some fk)

/-- The free frames of a core, ascending. -/
def State.freeFrames (s : State) (k : Nat) : List Nat := (rangeFrom (k * 64) (pwF (s.core k).pword)).filter s.frameFree

/-- Slots of a core that hold a thread. -/
def State.occupied (s : State) (k : Nat) : Nat := ((rangeFrom (k * 8) 8).filter (fun sk => (s.slot sk).state != .free)).length

/-- The core of a list with the least measure; the first of equals. -/
def leastCore (m : Nat → Nat) : List Nat → Option Nat
  | [] => none
  | k :: ks =>
    match leastCore m ks with
    | none => some k
    | some j => if m j < m k then some j else some k

/-- Tiles of a task that are present. -/
def Task.present (t : Task) : List (Word × Word) := t.tiles.filter tilePresent

/-! ## The choice (R363 to R365, R370, R373) -/

/-- How a task is placed: a slot, a frame, and whether the frame is new, a WAITW frame, or its own. -/
structure Place where
  slot : Nat
  frame : Nat
  kind : Nat
  deriving DecidableEq, Repr, Inhabited

/-- The dispatch budget of a partition is not used up at a cluster; it is not applied in deterministic mode. -/
def State.dispatchOpen (s : State) (q tag : Nat) (det : Bool) : Bool :=
  let b := natBits (s.part tag).budget1.toNat 32 16
  det || b == 0 || decide ((s.cluster q).dispatched.getD tag 0 < b)

/-- A WAITW frame of the cluster that waits for a task's entry. -/
def State.waitwFrame (s : State) (q : Nat) (t : Task) (cores : List Nat) : Option Nat :=
  let ok (fk : Nat) : Bool :=
    let f := s.frame fk
    f.state == .waitw && f.task == t.entry && f.copies.isEmpty
  let only (k : Nat) : Bool := match t.target with | some fk => frameCore fk == k | none => t.present.isEmpty
  ((rangeFrom (q * 16) 16).filter (fun k => cores.contains k && only k && (s.freeSlot k).isSome)).findSome? (fun k =>
    (rangeFrom (k * 64) 64).find? ok)

/-- A task's place on given cores, one with tiles once its prefetch has completed (R367): a WAITW frame, its prefetched frame, or the least occupied core's lowest free frame. -/
def State.newPlace (s : State) (q : Nat) (t : Task) (cores : List Nat) (lane : Option Nat) : Option Place :=
  let slotAt (k : Nat) : Option Nat := match lane with
    | some l => if (s.slot (k * 8 + l % 8)).state == .free then some (k * 8 + l % 8) else none
    | none => s.freeSlot k
  if !t.present.isEmpty && (t.target.isNone || !t.prefetching.isEmpty) then none
  else match s.waitwFrame q t cores with
  | some fk => (slotAt (frameCore fk)).map (fun sk => ⟨sk, fk, 1⟩)
  | none =>
    if t.present.isEmpty then
      let able := cores.filter (fun k => (slotAt k).isSome && !(s.freeFrames k).isEmpty)
      match leastCore s.occupied able with
      | none => none
      | some k =>
        match slotAt k, (s.freeFrames k).head? with
        | some sk, some fk => some ⟨sk, fk, 0⟩
        | _, _ => none
    else
      match t.target with
      | some fk => if cores.contains (frameCore fk) then (slotAt (frameCore fk)).map (fun sk => ⟨sk, fk, 0⟩) else none
      | none => none

/-- The task stands at the head of its lane (R373). -/
def State.laneHead (s : State) (q : Nat) (t : Task) : Bool :=
  !(s.cluster q).tasks.any (fun x => x.tag == t.tag && x.lane == t.lane && !x.cancelled && !x.reservedOnly &&
    decide (x.order < t.order))

/-- Where a task can be placed now. -/
def State.placeOf (s : State) (q : Nat) (t : Task) : Option Place :=
  let tag := t.tag.toNat
  let det := t.lane.isSome
  if t.cancelled || t.reservedOnly || s.partStopped tag || !s.dispatchOpen q tag det || (det && !s.laneHead q t) then none
  else
    match t.resume, t.lane with
    | some fk, none => (s.freeSlot (frameCore fk)).map (fun sk => ⟨sk, fk, 2⟩)
    | some fk, some l =>
      let sk := frameCore fk * 8 + l % 8
      if (s.slot sk).state == .free then some ⟨sk, fk, 2⟩ else none
    | none, none => s.newPlace q t (s.clusterCores q tag) none
    | none, some l =>
      match s.laneCore tag l with
      | some k => s.newPlace q t ((s.clusterCores q tag).filter (· == k)) (some l)
      | none => none

/-- The oldest of a list of placeable tasks. -/
def oldest : List (Task × Place) → Option (Task × Place)
  | [] => none
  | x :: xs =>
    match oldest xs with
    | none => some x
    | some y => if y.1.order < x.1.order then some y else some x

/-- The oldest placeable task of a priority. -/
def ofPrio (cs : List (Task × Place)) (p : Nat) : Option (Task × Place) := oldest (cs.filter (fun c => c.1.prio.toNat == p))

/-- The highest priority below p, n of them, that holds a placeable task. -/
def below (cs : List (Task × Place)) : Nat → Option (Task × Place)
  | 0 => none
  | p + 1 => match ofPrio cs p with | some c => some c | none => below cs p

/-- The dispatch order with the pass-over rule: the choice and the new count (R364). -/
def choose (cs : List (Task × Place)) (passed : Nat) : Option ((Task × Place) × Nat) :=
  match below cs 4 with
  | none => none
  | some c =>
    match below cs c.1.prio.toNat with
    | none => some (c, 0)
    | some d => if passed = 32 then some (d, 0) else some (c, passed + 1)

/-! ## Placement (R165, R349, R366) -/

/-- The values of R165 in a frame; a WAITW frame keeps its pc and g62. -/
def dispatchFrame (f : Frame) (t : Task) (st : State) (fk : Nat) (ss : Nat) (kind : Nat) : Frame :=
  let k := frameCore fk
  let arg (i : Nat) : Word := t.args.getD i 0
  let off (i : Nat) : Word :=
    match t.tiles[i]? with
    | some d => if tilePresent d then natWord (tileExtent d).1 else 0
    | none => 0
  let g := (rangeFrom 1 11).foldl (fun (m : NMap Word) i =>
    m.put i (if i ≤ 6 then arg (i - 1) else if i = 7 then t.g7 else off (i - 8))) f.g
  let sp := if ss = 0 then 0 else natWord (st.poolS k - frameNum fk * ss)
  { f with
    g := if kind = 1 then g else g.put 62 sp, pc := if kind = 1 then f.pc else t.entry, status := 0, ecause := 0,
    estat := 0, flagsDue := [], settled := t.settled,
    fut := t.fut, join := t.join, prio := t.prio, index := t.index, fmta := t.fmta, fmtb := t.fmtb, scale := t.scale,
    rowmask := t.rowmask, task := t.entry, wdogCount := 0, wdogLimit := (st.part t.tag.toNat).wdog, energy := 0,
    energySat := false, energyFrac := 0, state := .running, lseq := t.lseq, lane := t.lane, ready := [], pend := [],
    tiles := (rangeFrom 0 4).map off, regions := t.present.map tileExtent, cancelReq := false, cancelDue := false }

/-- Points a slot at a frame: the shadow set and c.qbind are zero, c.tile0 to c.tile3 are the task's (R45). -/
def bindSlot (r : Slot) (fk : Nat) (tiles : List Word) : Slot :=
  { r with
    state := .run, frame := some fk, cpsrc := 0, cpdst := 0, cpshape := 0, cpsstr := 0, cpdstr := 0, cpmask := 0,
    cpflags := 0, qbind := 0, tile := tiles }

/-- The formats that a launch or a continuation leaves open are free values. -/
def State.drawFormats (s : State) (t : Task) : State × Task :=
  if t.freeFormats then
    let a := s.draw
    let b := a.2.draw
    let c := b.2.draw
    let d := c.2.draw
    (d.2, { t with fmta := a.1.setWidth 21, fmtb := b.1.setWidth 21, scale := c.1.setWidth 21, rowmask := d.1.setWidth 32 })
  else (s, t)

/-- The producer of a task's future is its frame from dispatch on (R173). -/
def State.bindProducer (s : State) (t : Task) (fk : Nat) : State :=
  if handleCurrent (s.future (handleKey t.fut)) t.fut && (s.future (handleKey t.fut)).state == .pending then
    s.updFuture (handleKey t.fut) (fun f => { f with producer := .frame fk })
  else s

/-- Places a task. -/
def State.place (s : State) (q : Nat) (t : Task) (p : Place) : State :=
  let tag := t.tag.toNat
  let s1 := s.updCluster q (fun c => { c with
    tasks := c.tasks.filter (fun x => x.id != t.id), placedAt := some s.cycle,
    dispatched := c.dispatched.put tag (c.dispatched.getD tag 0 + 1) })
  let s2 :=
    if p.kind = 2 then
      let s2 := s1.updFrame p.frame (fun f => { f with state := .running })
      s2.updSlot p.slot (fun r => bindSlot r p.frame (s2.frame p.frame).tiles)
    else
      let d := s1.drawFormats t
      let ss := ((s1.launch tag t.lseq).map Launch.ss).getD 0
      let f := dispatchFrame (d.1.frame p.frame) d.2 d.1 p.frame ss p.kind
      let s2 := (d.1.setFrame p.frame f).bindProducer t p.frame
      s2.updSlot p.slot (fun r => bindSlot r p.frame f.tiles)
  s2.charge p.frame 12 1

/-- The cluster is idle for a partition: a core has a free slot and a free frame (R368). -/
def State.idleFor (s : State) (q tag : Nat) : Bool :=
  (s.clusterCores q tag).any (fun k => (s.freeSlot k).isSome && !(s.freeFrames k).isEmpty)

/-- The steal domains of a partition whose list names a cluster. -/
def State.stealDomains (s : State) (q tag : Nat) : List (Nat × List Nat) :=
  ((s.part tag).steal.filter (fun d => d.1 != 0 && d.2.contains q))

/-- A cluster may steal for some partition. -/
def State.mayStealAny (s : State) (q : Nat) : Bool :=
  (s.clusterParts q).any (fun tag => !(s.stealDomains q tag).isEmpty && s.idleFor q tag)

/-- TASK_DISPATCH: a Lamplighter enqueues its indices and places at most one task in a cycle. -/
def execTaskDispatch (q : Nat) (s : State) : Out :=
  let s1 := s.fillCluster q
  if (s1.cluster q).placedAt = some s1.cycle then .next (s1.later 1 (.taskDispatch q))
  else
    let cs := (s1.cluster q).tasks.filterMap (fun t => (s1.placeOf q t).map (fun p => (t, p)))
    match oldest (cs.filter (fun c => c.1.lane.isSome)) with
    | some (t, p) => .next (((s1.place q t p).later 1 (.taskDispatch q)).later 1 (.tilePrefetchStart q))
    | none =>
      match choose cs (s1.cluster q).passed with
      | some ((t, p), n) =>
        let s2 := (s1.place q t p).updCluster q (fun c => { c with passed := n })
        .next ((s2.later 1 (.taskDispatch q)).later 1 (.tilePrefetchStart q))
      | none =>
        let asked := s1.agenda.any (fun e => decide (e.act = Instr.stealRequest q))
        .next (if s1.mayStealAny q && !asked then s1.later 8 (.stealRequest q) else s1)

/-! ## Tile prefetch (R125, R126, R367) -/

/-- Regions reserved on a core: by prefetches, by dispatched tasks, and by cancelled tasks whose copies still run. -/
def State.regionsOf (s : State) (k : Nat) : List (Nat × Nat) :=
  (((s.cluster (k / 16)).tasks.filter (fun t => t.target.map frameCore == some k)).map (·.regions)).flatten ++
    ((rangeFrom (k * 64) 64).map (fun fk => (s.frame fk).regions)).flatten

/-- A task's region is free of the reserved ones of a core. -/
def State.regionFree (s : State) (t : Task) (k : Nat) : Bool := !overlap (t.present.map tileExtent) (s.regionsOf k)

/-- The frame on which a task can start its prefetch. -/
def State.prefetchFrame (s : State) (q : Nat) (t : Task) : Option Nat :=
  let tag := t.tag.toNat
  let cores := match t.lane with
    | some l => (s.clusterCores q tag).filter (fun k => s.laneCore tag l == some k)
    | none => s.clusterCores q tag
  let able := cores.filter (fun k => !(s.freeFrames k).isEmpty && s.regionFree t k)
  let used (k : Nat) : Nat := 64 - (s.freeFrames k).length
  (leastCore used able).bind (fun k => (s.freeFrames k).head?)

/-- A task with tiles has not begun its prefetch. -/
def Task.unprefetched (t : Task) : Bool :=
  !t.present.isEmpty && t.target.isNone && t.resume.isNone && !t.cancelled && !t.reservedOnly

/-- Tasks without a lane that have not begun their prefetch, in dispatch order within a priority. -/
def Cluster.unprefetched (c : Cluster) (p : Nat) : List Task :=
  c.tasks.filter (fun t => t.prio.toNat == p && t.lane.isNone && t.unprefetched)

/-- The first tasks of the lanes that have not begun their prefetch: lane order holds, whatever the priorities (R373). -/
def Cluster.laneUnprefetched (c : Cluster) : List Task :=
  c.tasks.filter (fun t => t.lane.isSome && t.unprefetched &&
    !c.tasks.any (fun x => x.tag == t.tag && x.lane == t.lane && x.unprefetched && decide (x.order < t.order)))

/-- The copy of a tile descriptor. -/
def tileCopy (s : State) (q : Nat) (t : Task) (fk : Nat) (d : Word × Word) (tid : BitVec 16) : Copy :=
  let x := d.2.toNat
  let rowb := natBits x 10 12 * 8
  let va := natBits d.1.toNat 0 56
  { tid, purpose := .prefetch q t.id, core := frameCore fk, frame := fk, tag := t.tag,
    epoch := (s.part t.tag.toNat).epoch, src := natWord va, dst := natWord (0xF0 * 2 ^ 56 + natBits x 42 17),
    shape := natWord (natBits x 0 10 + 1 + rowb * 2 ^ 16), sstr := natWord (natBits x 22 20 * 8), dstr := natWord rowb,
    mask := 0, flags := natWord (1 + 2 * 4), after := [], channel := s.steer t.tag.toNat va }

/-- Identifiers of a cluster's outstanding prefetch copies (R107). -/
def State.prefetchTids (s : State) (q : Nat) : List (BitVec 16) :=
  (s.copies.filter (fun x => match x.2.purpose with | .prefetch c _ => c == q | _ => false)).map (·.2.tid)

/-- Issues the prefetch copies of a task on its reserved frame. -/
def issueTiles (q : Nat) (t : Task) (fk : Nat) (s : State) : List (Word × Word) → State × List Nat
  | [] => (s, [])
  | d :: ds =>
    let r := s.fresh
    let tid := nextTid (s.prefetchTids q) (s.cluster q).prefetchNext 257
    let c := tileCopy r.2 q t fk d tid
    let s1 := r.2.updCluster q (fun x => { x with prefetches := x.prefetches + 1, prefetchNext := afterTid tid })
    let rest := issueTiles q t fk (s1.addCopy r.1 c (s.delay (lampEnd q) (2 ^ 20 + c.channel) + 8)) ds
    (rest.1, r.1 :: rest.2)

/-- Begins the prefetch of a task. -/
def State.startPrefetch (s : State) (q : Nat) (t : Task) (fk : Nat) : State :=
  let r := issueTiles q t fk s t.present
  let t1 := { t with target := some fk, regions := t.present.map tileExtent, prefetching := r.2 }
  r.1.updCluster q (fun c => { c with tasks := c.tasks.map (fun x => if x.id == t.id then t1 else x) })

/-- The first task of the lanes, then of the priorities, highest first, that can start its prefetch, with its frame. -/
def State.nextPrefetch (s : State) (q : Nat) : Option (Task × Nat) :=
  let c := s.cluster q
  let able (t : Task) : Option (Task × Nat) :=
    if s.partStopped t.tag.toNat then none else (s.prefetchFrame q t).map (fun fk => (t, fk))
  (c.laneUnprefetched ++ [3, 2, 1, 0].flatMap c.unprefetched).findSome? able

/-- TILE_PREFETCH_START: at most 64 tasks of a cluster prefetch or await a slot, with at most 256 copies. -/
def execTilePrefetchStart (q : Nat) (s : State) : Out :=
  let c := s.cluster q
  if 64 ≤ (c.tasks.filter (fun t => t.target.isSome && !t.cancelled)).length then .next s
  else
    match s.nextPrefetch q with
    | none => .next s
    | some (t, fk) =>
      if 256 < c.prefetches + t.present.length then .next s
      else .next ((s.startPrefetch q t fk).later 1 (.tilePrefetchStart q))

/-- A cancelled task whose last prefetch copy has completed releases its region. -/
def State.dropCancelled (s : State) (q : Nat) (t : Task) : State :=
  if t.prefetching.isEmpty then s.updCluster q (fun c => { c with tasks := c.tasks.filter (fun x => x.id != t.id) })
  else s.updCluster q (fun c => { c with tasks := c.tasks.map (fun x => if x.id == t.id then t else x) })

/-- PREFETCH_COMPLETION: the task becomes ready with its last copy; a failed copy retires it as FAULTED with cause
ENGINE. -/
def execPrefetchCompletion (id : Nat) (s : State) : Out :=
  match s.copy? id with
  | none => .next s
  | some c =>
    match c.purpose with
    | .prefetch q task =>
      if !c.ended then .next s
      else
        let s1 := { s with copies := s.copies.del id }.updCluster q (fun x => { x with prefetches := x.prefetches - 1 })
        let s2 := (s1.later 1 (.taskDispatch q)).later 1 (.tilePrefetchStart q)
        match (s2.cluster q).tasks.find? (fun t => t.id == task) with
        | none => .next s2
        | some t =>
          let t1 := { t with prefetching := t.prefetching.erase id }
          let st := (c.status.getD 0).toNat
          if t.cancelled then .next (s2.dropCancelled q t1)
          else if st = 0 then
            .next (s2.updCluster q (fun c => { c with tasks := c.tasks.map (fun x => if x.id == task then t1 else x) }))
          else .next (s2.removeQueued q t1 .faulted (natWord (0x0B + st * 2 ^ 8)))
    | _ => .next s

/-! ## Stealing (R368) -/

/-- The clusters of a list after one of them, in order. -/
def rotateAfter (q : Nat) (l : List Nat) : List Nat :=
  let a := l.takeWhile (· != q)
  ((l.drop a.length).drop 1) ++ a

/-- A task that may be stolen for a partition and a domain. -/
def Task.stealable (t : Task) (tag dom : Nat) : Bool :=
  t.tag.toNat == tag && t.sdom == dom && t.resume.isNone && t.target.isNone && !t.cancelled && !t.reservedOnly

/-- The oldest stealable task of a victim's highest priority. -/
def State.victimTask (s : State) (v tag dom : Nat) : Option Task :=
  let ts := ((s.cluster v).tasks.filter (fun t => t.stealable tag dom)).map (fun t => (t, (default : Place)))
  (below ts 4).map (·.1)

/-- Moves a stolen task. -/
def State.steal (s : State) (q v : Nat) (t : Task) : State :=
  let s1 := s.updCluster v (fun c => { c with tasks := c.tasks.filter (fun x => x.id != t.id) })
  ((s1.updCluster q (fun c => { c with tasks := c.tasks ++ [{ t with order := c.nextOrder }] })).later 1
    (.taskDispatch q)).later 1 (.tilePrefetchStart q)

/-- The theft of an idle cluster for its partitions and domains: the first that succeeds. -/
def State.findTheft (s : State) (q : Nat) : Option (Nat × Task) :=
  (s.clusterParts q).findSome? (fun tag =>
    if s.partStopped tag || !s.idleFor q tag || (s.clusterCores q tag).any (fun k => (s.core k).det) then none
    else (s.stealDomains q tag).findSome? (fun d =>
      (rotateAfter q d.2).findSome? (fun v => (s.victimTask v tag d.1).map (fun t => (v, t)))))

/-- STEAL_REQUEST: an idle Lamplighter takes one task; while it stays idle it asks again. -/
def execStealRequest (q : Nat) (s : State) : Out :=
  let placeable := (s.cluster q).tasks.any (fun t => (s.placeOf q t).isSome)
  if placeable then .next (s.later 1 (.taskDispatch q))
  else
    match s.findTheft q with
    | some (v, t) => .next (s.steal q v t)
    | none => .next (if s.mayStealAny q then s.later 64 (.stealRequest q) else s)

/-! ## Budget periods (R370, R383) -/

/-- Reports the refusals counted in the period that ends: at most one message of an agent for a partition (R383). -/
def reportRefusals (s : State) (x : Nat × (Nat × Bool)) : State :=
  let agent := x.1 / 1024
  let tag := BitVec.ofNat 10 (x.1 % 1024)
  if x.2.1 = 0 then s.updHub (fun h => { h with refusals := h.refusals.del x.1 })
  else
    (s.updHub (fun h => { h with refusals := h.refusals.put x.1 (0, true) })).trapMsg agent
      { kind := 2, part := tag, die := (endPos agent).1, src := BitVec.ofNat 32 (s.position agent),
        srcmap := natWord x.2.1 }

/-- Sends the packets that a partition's fabric budget held. -/
def releasePackets (s : State) (tag : Nat) : State :=
  let ps := (s.part tag).heldPackets
  ps.foldl State.toLink (s.updPart tag (fun p => { p with heldPackets := [] }))

/-- A Geyser thread that its byte budget held goes on (R370). -/
def State.endCharge (s : State) (fk : Nat) : State :=
  if (s.frame fk).waits.contains 12 then (s.updFrame fk (fun f => { f with waits := f.waits.erase 12 })).resume fk else s

/-- A budget period begins: every counter restarts at 0, before any request of the new period, and a new throttle factor takes
effect (R370, R424). -/
def State.startPeriod (s : State) : State :=
  { s with
    geysers := s.geysers.mapVal (fun g => { g with bytes := [] }),
    clusters := s.clusters.mapVal (fun c => { c with dispatched := [], leaseCycles := [] }),
    parts := s.parts.mapVal (fun p => { p with fabric := 0, k := p.kNext }) }

/-- BUDGET_PERIOD: at the beginning of a period what the last one held goes on, and the refusals it counted are reported
(R370, R383). -/
def execBudgetPeriod (s : State) : Out :=
  let s2 := s.hub.refusals.foldl reportRefusals s
  let s3 := (s2.parts.keys).foldl releasePackets s2
  let s4 := (s3.frames.keys).foldl State.endCharge s3
  .next ((s4.clusters.keys).foldl (fun s q => (s.later 1 (.taskDispatch q)).later 1 (.leaseGrant q)) s4)

end Sys2Proof.Machine
end

