-- ==== Sys2Proof/Machine/Multicast.lean ====
section
/-! DEFINITION. Multicast groups, pushes and their delivery, integer reduces (R119 to R124, R259 to R261, R421). A router
is a cluster index, 1024 the hub's. Ports: 0 to 15 local cores, 16 west, 17 east, 18 north, 19 south, 20 the hub; at the
hub a port is a die. -/

namespace Sys2Proof.Machine

/-! ## The tree (R119, R120; the mesh route is the model's choice, log entry 20) -/

/-- Root router of a tag. -/
def groupRoot (mtag : BitVec 16) : Nat := natBits mtag.toNat 0 10

/-- The hub-port router of a die. -/
def portRouter (die : Nat) : Nat := die * 128 + (if die < 4 then 7 else 0) * 16 + 8

/-- The next router from one cluster's router toward another of its die, x first, and the port it arrives at. -/
def meshNext (r goal : Nat) : Nat × Nat :=
  let x := r % 16
  let gx := goal % 16
  if x < gx then (r + 1, 16)
  else if gx < x then (r - 1, 17)
  else if r < goal then (r + 16, 18)
  else (r - 16, 19)

/-- The next router toward a root, and the port it arrives at. -/
def nextRouter (r root : Nat) : Nat × Nat :=
  if r = 1024 then (portRouter (root / 128), 20)
  else if r / 128 = root / 128 then meshNext r root
  else if r = portRouter (r / 128) then (1024, r / 128)
  else meshNext r (portRouter (r / 128))

/-- The router behind a port. -/
def portNext (r port : Nat) : Nat :=
  if r = 1024 then portRouter port
  else if port = 16 then r - 1 else if port = 17 then r + 1 else if port = 18 then r - 16
  else if port = 19 then r + 16 else 1024

/-- The entry of a group at a router. -/
def State.groupEntry (s : State) (r : Nat) (tag : BitVec 10) (mtag : BitVec 16) : Option GroupEntry :=
  (s.router r).groups.find? (fun e => e.tag == tag && e.mtag == mtag)

/-- Sets a port bit of a group. -/
def State.setPort (s : State) (r : Nat) (tag : BitVec 10) (mtag : BitVec 16) (port : Nat) : State :=
  let is (e : GroupEntry) : Bool := e.tag == tag && e.mtag == mtag
  s.updRouter r (fun x =>
    if x.groups.any is then
      ⟨x.groups.map (fun e => if is e && !e.ports.contains port then { e with ports := port :: e.ports } else e)⟩
    else ⟨x.groups ++ [⟨tag, mtag, [port]⟩]⟩)

/-- Clears a port bit; an entry without bits is freed. -/
def State.clearPort (s : State) (r : Nat) (tag : BitVec 10) (mtag : BitVec 16) (port : Nat) : State :=
  let h (e : GroupEntry) : GroupEntry :=
    if e.tag == tag && e.mtag == mtag then { e with ports := e.ports.filter (· != port) } else e
  s.updRouter r (fun x => ⟨(x.groups.map h).filter (fun e => !e.ports.isEmpty)⟩)

/-! ## Subscriptions (R120, R122, R259, R260) -/

/-- ILLEGAL of a tag operand (R259). -/
def tagTrap (s : State) (a : Word) : Option TrapRec :=
  if s.onGeyser then some (illegalRec 0) else if a >>> 16 ≠ 0 then some (illegalRec a) else none

/-- An asynchronous result that a FENCE sees as an access until its operation has been performed (R139, R261). -/
def State.expectAcc (s : State) (rd : BitVec 6) : Nat × State :=
  let r := s.expect rd 0
  (r.1, { r.2 with unperf := r.1 :: r.2.unperf })

/-- The end of a CSUB or CUNSUB: its value returns to its thread. -/
def State.subDone (v : Word) (s : State) (x : Nat × Nat) : State :=
  (s.performed x.2).answer (frameEnd x.1) x.1 x.2 (.value v (v != 0)) false

/-- The entry of a group in a core's match table. -/
def MatchEntry.is (g : MatchEntry) (tag : BitVec 10) (mtag : BitVec 16) : Bool := g.tag == tag && g.mtag == mtag

/-- Replaces the offset of a held tag; it returns 1, once the join of the entry has ended; where that join is withdrawn, it
returns 0 with it (DESIGN CHOICE, log entry 105: R120 returns 1 and R121 promises that pushes then arrive). -/
def State.replaceSub (s : State) (k fk out : Nat) (tag : BitVec 10) (mtag : BitVec 16) (off : Nat) : State :=
  let h (g : MatchEntry) : MatchEntry := if g.is tag mtag then { g with off } else g
  let s1 := s.updCore k (fun c => { c with groups := c.groups.map h })
  let entry := (s.core k).groups.find? (fun g => g.is tag mtag)
  let mine (j : JoinReq) : Bool := entry.any (fun g => g.join == j.id)
  if s1.hub.joins.any mine then
    s1.updHub (fun x => { x with joins := x.joins.map (fun j => if mine j then { j with also := j.also ++ [(fk, out)] } else j) })
  else s1.subDone 1 (fk, out)

/-- The trap of a CSUB. -/
def csubTrap (s : State) (a b : Word) : Option TrapRec :=
  (tagTrap s a).or (if b.toNat % 8 ≠ 0 then some (illegalRec b) else none)

def execCsub (rd ra rb : BitVec 6) (s : State) : Out :=
  let a := s.pg ra
  let b := s.pg rb
  match csubTrap s a b with
  | some t => .next (s.trap t)
  | none =>
    let k := s.curCore
    let fk := s.cur.fk
    let mtag : BitVec 16 := a.setWidth 16
    let tag := s.frameTag fk
    let off := b.toNat % 2 ^ 17
    let gs := (s.core k).groups
    if s.subHeld then .next s.retry
    else
      let e := s.expectAcc rd
      if gs.any (fun g => g.is tag mtag) then .next (e.2.replaceSub k fk e.1 tag mtag off)
      else if 16 ≤ gs.length then .next (e.2.subDone 0 (fk, e.1))
      else
        let r := e.2.fresh
        let j : JoinReq := { id := r.1, core := k, frame := fk, tag, mtag, out := e.1, at_ := k / 16, port := k % 16, path := [] }
        let s1 := r.2.updCore k (fun c => { c with groups := c.groups ++ [⟨tag, mtag, off, false, r.1⟩] })
        .next ((s1.updHub (fun h => { h with joins := h.joins ++ [j] })).later 2 (.multicastJoin r.1))

def execCunsub (rd ra : BitVec 6) (s : State) : Out :=
  let a := s.pg ra
  match tagTrap s a with
  | some t => .next (s.trap t)
  | none =>
    let k := s.curCore
    let fk := s.cur.fk
    let mtag : BitVec 16 := a.setWidth 16
    let tag := s.frameTag fk
    if s.subHeld then .next s.retry
    else
      let e := s.expectAcc rd
      if !(s.core k).groups.any (fun g => g.is tag mtag) then .next (e.2.subDone 0 (fk, e.1))
      else
        let r := e.2.fresh
        let begun := (s.hub.tiles.filter (fun t => t.tag == tag && t.mtag == mtag && t.cores.any (fun c => c.1 == k))).map (·.id)
        let l : LeaveReq := ⟨r.1, k, fk, if begun.isEmpty then 0 else e.1, begun, tag, mtag, k / 16, k % 16⟩
        let s1 := r.2.updCore k (fun c => { c with groups := c.groups.filter (fun g => !g.is tag mtag) })
        let s2 := (s1.updHub (fun h => { h with leaves := h.leaves ++ [l] })).later 2 (.multicastLeave r.1)
        .next (if begun.isEmpty then s2.subDone 1 (fk, e.1) else s2)

/-- Replaces or removes a join. -/
def State.setJoin (s : State) (id : Nat) (j : Option JoinReq) : State :=
  s.updHub (fun h => { h with joins := h.joins.filterMap (fun x => if x.id == id then j else some x) })

/-- An earlier leave of the group stands before a join on its link (R147). -/
def State.joinBehind (s : State) (j : JoinReq) : Bool :=
  s.hub.leaves.any (fun l => l.tag == j.tag && l.mtag == j.mtag && l.at_ == j.at_ && l.port == j.port && decide (l.id < j.id))

/-- The join goes on to the next router toward the root. -/
def State.joinOn (s : State) (j : JoinReq) : State :=
  let n := nextRouter j.at_ (groupRoot j.mtag)
  (s.setJoin j.id (some { j with at_ := n.1, port := n.2, path := j.path ++ [(j.at_, j.port)] })).later 2 (.multicastJoin j.id)

/-- A join is withdrawn along its path: the match entry that it was sent for is removed and CSUB returns 0. -/
def State.joinFails (s : State) (j : JoinReq) : State :=
  let s1 := j.path.foldl (fun s x => s.clearPort x.1 j.tag j.mtag x.2) (s.setJoin j.id none)
  let s2 := s1.updCore j.core (fun c => { c with groups := c.groups.filter (fun g => g.join != j.id) })
  ((j.frame, j.out) :: j.also).foldl (State.subDone 0) s2

/-- MULTICAST_JOIN: the join at one router, behind what went before it on its link. -/
def execMulticastJoin (id : Nat) (s : State) : Out :=
  match s.hub.joins.find? (fun j => j.id == id) with
  | none => .next s
  | some j =>
    let known := (s.groupEntry j.at_ j.tag j.mtag).isSome
    if s.joinBehind j then .next (s.later 2 (.multicastJoin id))
    else if !known && decide (64 ≤ (s.router j.at_).groups.length) then .next (s.joinFails j)
    else
      let s1 := s.setPort j.at_ j.tag j.mtag j.port
      if known || j.at_ == groupRoot j.mtag then .next (s1.later 2 (.multicastJoinAck id)) else .next (s1.joinOn j)

/-- Another join of the group that has set its bit at a router is still on its way to the root. -/
def State.graftOpen (s : State) (j : JoinReq) : Bool :=
  s.hub.joins.any (fun x => x.id != j.id && x.tag == j.tag && x.mtag == j.mtag && x.path.any (fun y => y.1 == j.at_))

/-- The router at which a join has stopped is the root, or the next one toward it has its bit. -/
def State.grafted (s : State) (j : JoinReq) : Bool :=
  let n := nextRouter j.at_ (groupRoot j.mtag)
  j.at_ == groupRoot j.mtag || ((s.groupEntry n.1 j.tag j.mtag).map (fun e => e.ports.contains n.2)).getD false

/-- MULTICAST_JOIN_ACK: CSUB returns 1, so that every push which enters the root from now on is delivered (R121): a graft
router answers once the join that set its own bit has reached the root; where that join was withdrawn, this one goes on. -/
def execMulticastJoinAck (id : Nat) (s : State) : Out :=
  match s.hub.joins.find? (fun j => j.id == id) with
  | none => .next s
  | some j =>
    if s.graftOpen j then .next (s.later 2 (.multicastJoinAck id))
    else if s.grafted j then
      let h (g : MatchEntry) : MatchEntry := if g.join = j.id then { g with confirmed := true } else g
      let s1 := (s.setJoin id none).updCore j.core (fun c => { c with groups := c.groups.map h })
      .next (((j.frame, j.out) :: j.also).foldl (State.subDone 1) s1)
    else .next (s.joinOn j)

/-- Replaces or removes a leave. -/
def State.setLeave (s : State) (id : Nat) (l : Option LeaveReq) : State :=
  s.updHub (fun h => { h with leaves := h.leaves.filterMap (fun x => if x.id == id then l else some x) })

/-- MULTICAST_LEAVE: the leave at one router, behind the core's own join; position 2048 marks one that has left the
network. -/
def execMulticastLeave (id : Nat) (s : State) : Out :=
  match s.hub.leaves.find? (fun l => l.id == id) with
  | none => .next s
  | some l =>
    let s1 := s.clearPort l.at_ l.tag l.mtag l.port
    if s.hub.joins.any (fun j => j.core == l.core && j.tag == l.tag && j.mtag == l.mtag && decide (j.id < l.id)) then
      .next (s.later 2 (.multicastLeave id))
    else if (s1.groupEntry l.at_ l.tag l.mtag).isSome || l.at_ == groupRoot l.mtag || l.at_ == 2048 then
      .next (s1.setLeave id (if l.begun.isEmpty then none else some { l with at_ := 2048 }))
    else
      let n := nextRouter l.at_ (groupRoot l.mtag)
      .next ((s1.setLeave id (some { l with at_ := n.1, port := n.2 })).later 2 (.multicastLeave id))

/-! ## Pushes (R121, R123, R265) -/

/-- An earlier tile of the group has still to pass a router. -/
def State.tileWaits (s : State) (t : Tile) : Bool :=
  (s.hub.tiles.takeWhile (fun x => x.id != t.id)).any (fun x =>
    x.tag == t.tag && x.mtag == t.mtag && !x.routers.isEmpty)

/-- Replaces a tile; one without routers and cores to reach is gone. -/
def State.setTile (s : State) (t : Tile) : State :=
  s.updHub (fun h => { h with tiles := h.tiles.filterMap (fun x =>
    if x.id == t.id then (if t.routers.isEmpty && t.cores.isEmpty then none else some t) else some x) })

/-- Replicates a tile at a router to every port whose bit is set: the number of ports. -/
def State.replicate (s : State) (t : Tile) (r : Nat) : State × Nat :=
  let ports := match s.groupEntry r t.tag t.mtag with | some e => e.ports | none => []
  let locals := (ports.filter (fun p => decide (p < 16) && r != 1024)).filterMap (fun p =>
    ((s.core (r * 16 + p)).groups.find? (fun g => g.is t.tag t.mtag)).map (fun g => (r * 16 + p, g.off)))
  let onward := (ports.filter (fun p => decide (16 ≤ p) || r == 1024)).map (portNext r)
  let t1 := { t with routers := t.routers.erase r ++ onward, cores := t.cores ++ locals }
  let s1 := onward.foldl (fun s n => s.later 2 (.multicastPush t.id n)) (s.setTile t1)
  (locals.foldl (fun s c => s.later 2 (.multicastDelivery t.id c.1)) s1, ports.length)

/-- An earlier push of the same thread has not entered its root yet. -/
def State.pushWaits (s : State) (id : Nat) (c : Copy) : Bool :=
  s.copies.any (fun x => decide (x.1 < id) && x.2.core == c.core && x.2.frame == c.frame && shType x.2.shape == 3 &&
    !x.2.entered && x.2.status.getD 0 == 0)

/-- MULTICAST_PUSH: the whole tile of a push enters its root (router 2^20 stands for the way to it), or passes a router
of its tree. -/
def execMulticastPush (id r : Nat) (s : State) : Out :=
  if r = 2 ^ 20 then
    match s.copy? id with
    | none => .next s
    | some c =>
      if c.entered then .next s
      else if s.pushWaits id c then .next (s.again (.multicastPush id r))
      else
        let root := groupRoot (flMtag c.flags)
        let t : Tile := {
          id, tag := c.tag, epoch := c.epoch, mtag := flMtag c.flags, rows := shRows c.shape, rowb := shRowb c.shape,
          dstr := c.dstr.toNat, data := c.data, routers := [root], cores := [],
          rel := flAcq c.flags && flScope c.flags != 0 }
        let s1 := s.updHub (fun h => { h with tiles := h.tiles ++ [t] })
        let x := s1.replicate t root
        .next ((x.1.updCopy id (fun c => { c with entered := true, count := x.2 })).later 1 (.copyCompletion id))
  else
    match s.hub.tiles.find? (fun t => t.id == id) with
    | none => .next s
    | some t =>
      if !t.routers.contains r then .next s
      else if s.tileWaits t then .next (s.again (.multicastPush id r))
      else .next (s.replicate t r).1

/-- The own window of a core, in which a tile is delivered. -/
def ownWindow : Word := natWord (0xF0 * 2 ^ 56)

/-- The place of a byte of a tile matched at an offset. -/
def Tile.place (t : Tile) (off pos : Nat) : Nat := off + pos / t.rowb * t.dstr + pos % t.rowb

/-- The bytes of a tile that a core takes next: those of one word of one row. -/
def Tile.piece (t : Tile) (off pos : Nat) : Nat := min (t.rowb - pos % t.rowb) (8 - t.place off pos % 8)

/-- Counts the words of a tile that a core cannot take (R27, R121). -/
def State.refuseTile (s : State) (t : Tile) (k off : Nat) : State :=
  (rangeFrom 0 t.rows).foldl (fun s r => s.refuseWords k t.tag t.epoch ownWindow (off + r * t.dstr) t.rowb) s

/-- The next word of a tile is issued to its core. The last word of the last row is set full; it is written after the others
of the tile under the push's ACQ at a scope wider than the thread (R121, R140). -/
def State.deliverPiece (s : State) (t : Tile) (k off pos : Nat) : State :=
  let n := t.piece off pos
  let done := decide (t.data.length ≤ pos + n)
  let s1 := if pos = 0 then s.refuseTile t k off else s
  ((s1.setTile { t with next := t.next.put k (pos + n) }).issueLate {
    owner := t.id, tag := t.tag, epoch := t.epoch, core := k, ptr := ownWindow, off := t.place off pos,
    data := (t.data.drop pos).take n, full := done, last := done && t.rel }).later 0 (.multicastDelivery t.id k)

/-- A leave whose begun tiles have all been delivered answers its CUNSUB with 1. -/
def leaveDone (id k : Nat) (s : State) (l : LeaveReq) : State :=
  if l.core = k ∧ l.begun.contains id then
    let rest := l.begun.erase id
    let s1 := s.setLeave l.id (if rest.isEmpty && l.at_ == 2048 then none else some { l with begun := rest })
    if rest.isEmpty then s1.subDone 1 (l.frame, l.out) else s1
  else s

/-- MULTICAST_DELIVERY: a core takes the tile word by word at the offset matched at its first packet, after the earlier tiles of
the group. Across groups the pushes of a source enter their roots in the order of their issue and are delivered in any order
(DESIGN CHOICE, log entry 115: R121 does not say whether its order of a source holds across groups). -/
def execMulticastDelivery (id k : Nat) (s : State) : Out :=
  match s.hub.tiles.find? (fun t => t.id == id) with
  | none => .next s
  | some t =>
    match t.cores.find? (fun c => c.1 == k) with
    | none => .next s
    | some (_, off) =>
      let earlier := (s.hub.tiles.takeWhile (fun x => x.id != id)).any (fun x =>
        x.tag == t.tag && x.mtag == t.mtag && x.cores.any (fun c => c.1 == k))
      let pos := t.next.getD k 0
      if earlier then .next (s.again (.multicastDelivery id k))
      else if pos < t.data.length then .next (s.deliverPiece t k off pos)
      else if s.late.any (fun x => x.owner == id && x.core == k) then .next (s.later 1 (.multicastDelivery id k))
      else
        let s2 := s.setTile { t with cores := t.cores.filter (fun c => c.1 != k) }
        .next (s.hub.leaves.foldl (leaveDone id k) s2)

/-! ## Integer reduces (R124, R148, R421) -/

/-- One element of the result of a round. -/
def reduceElem (op : BitVec 2) (bytes a b : Nat) : Nat :=
  let m := 2 ^ (8 * bytes)
  if op = 0 then (a + b) % m
  else if op = 1 then max a b
  else
    let sg (x : Nat) : Int := if 2 * x < m then x else (x : Int) - m
    if sg a < sg b then b else a

/-- Elementwise combination of two contributions. -/
def reduceBytes (op : BitVec 2) (bytes : Nat) (a b : List Byte) : Nat → List Byte
  | 0 => []
  | n + 1 =>
    natBytes (reduceElem op bytes (bytesNat (a.take bytes)) (bytesNat (b.take bytes))) bytes ++
      reduceBytes op bytes (a.drop bytes) (b.drop bytes) n

/-- The place of a byte of a reduce's rows on a scratchpad side. -/
def rowPlace (c : Copy) (ptr stride : Word) (pos : Nat) : Nat :=
  scratchOff ptr + pos / shRowb c.shape * stride.toNat + pos % shRowb c.shape

/-- The bytes from one that lie in the same word and row. -/
def rowPiece (c : Copy) (ptr stride : Word) (pos : Nat) : Nat :=
  min (shRowb c.shape - pos % shRowb c.shape) (8 - rowPlace c ptr stride pos % 8)

/-- Counts the words of a reduce's rows that cannot be reached (R26, R27). -/
def State.refuseRows (s : State) (c : Copy) (ptr stride : Word) : State :=
  (rangeFrom 0 (shRows c.shape)).foldl (fun s r => s.refuseWords c.core c.tag c.epoch ptr
    (scratchOff ptr + r * stride.toNat) (shRowb c.shape)) s

/-- A reduce's side in another module crosses a link: it is charged (R370). -/
def State.chargeSide (s : State) (c : Copy) (ptr : Word) (n : Nat) : State :=
  if ptrTag ptr = 0xF3 ∧ natBits ptr.toNat 46 10 ≠ s.module.toNat then
    (s.chargeFabric c.tag.toNat ((n + 241) / 242)).charge c.frame 10 ((n + 241) / 242)
  else s

/-- The gap and refusal marks of writing rows r to r + n − 1, whose writes are issued (R124, R129). -/
def writeRows (id : Nat) (c : Copy) (data : List Byte) (s : State) (r : Nat) : Nat → State × Bool × Bool
  | 0 => (s, false, false)
  | n + 1 =>
    let w := shRowb c.shape
    let off := scratchOff c.dst + r * c.dstr.toNat
    let a := (engineWrite s c.core c.tag c.epoch c.dst off (data.take w)).2
    let l : Late := { owner := id, tag := c.tag, epoch := c.epoch, core := c.core, ptr := c.dst, off, data := [] }
    let b := writeRows id c (data.drop w) ((lateRow l off (data.take w) w).foldl State.issueLate s) (r + 1) n
    (b.1, a.1 || b.2.1, a.2 || b.2.2)

/-- A reduce ends with a status. -/
def State.endReduce (s : State) (id : Nat) (status : BitVec 8) : State :=
  (s.updCopy id (fun c => { c with ended := true, status := some status })).later 1 (.copyCompletion id)

/-- The round is closed for a communicator. -/
def State.dropRound (s : State) (num : Nat) (round : List Nat) : State :=
  let h (c : Comm) : Comm := { c with
    rounds := c.rounds.erase round, remote := c.remote.filter (fun x => !round.contains x.1) }
  s.updHub (fun x => { x with comms := x.comms.put num (h (x.comms.getD num {})) })

/-- Shape and bytes of a contribution: of a member's copy, or of a member in another module. -/
def State.contributed (s : State) (cm : Comm) (id : Nat) : Option (Word × List Byte) :=
  match s.copy? id with
  | some c => some (c.shape, c.data)
  | none => (cm.remote.get? id).map (fun r => (r.shape, r.data))

/-- The combination of the contributions of a round of one shape. -/
def roundSum (op : BitVec 2) (shape : Word) : List (List Byte) → List Byte
  | [] => []
  | d :: ds =>
    let bytes := if shElem shape = 0 then 4 else 8
    ds.foldl (fun acc x => reduceBytes op bytes acc x (shRows shape * shRowb shape / bytes)) d

/-- A round completes (R124): the combined rows are written at every member of this module, or SHAPE when the shapes
differ. -/
def State.endRound (s : State) (num : Nat) (cm : Comm) (round : List Nat) : State :=
  let cs := round.filterMap (fun id => (s.copy? id).map (fun c => (id, c)))
  let xs := round.filterMap (s.contributed cm)
  let s1 := s.dropRound num round
  match xs with
  | [] => s1
  | (shape, _) :: rest =>
    if rest.any (fun x => x.1 != shape) then cs.foldl (fun s x => s.endReduce x.1 8) s1
    else
      let sum := roundSum cm.op shape (xs.map (·.2))
      let one (s : State) (x : Nat × Copy) : State :=
        let w := writeRows x.1 x.2 sum ((s.refuseRows x.2 x.2.dst x.2.dstr).chargeSide x.2 x.2.dst sum.length) 0 (shRows x.2.shape)
        (w.1.updCopy x.1 (fun c => { c with
          bytes := sum.length, gap := c.gap || w.2.1, refused := c.refused || w.2.2 })).endReduce x.1 0
      cs.foldl one s1

/-- The member that a contribution comes from, by its logical number. -/
def State.contributor (s : State) (cm : Comm) (id : Nat) : Option Nat :=
  match s.copy? id with
  | some c => some (s.core c.core).lcid
  | none => (cm.remote.get? id).map (·.member)

/-- The open round a member's contribution joins: the first it is not in, a new one, or none while two are open. -/
def joinRound (s : State) (cm : Comm) (member id : Nat) : Option (List (List Nat) × List Nat) :=
  let has (r : List Nat) : Bool := r.any (fun i => s.contributor cm i == some member)
  match cm.rounds.find? (fun r => !has r) with
  | some r => some (replaceFirst (fun x => x == r) (fun x => x ++ [id]) cm.rounds, r ++ [id])
  | none => if cm.rounds.length < 2 then some (cm.rounds ++ [[id]], [id]) else none

/-- A contribution has joined a round of its communicator; the last one completes the round. -/
def State.contribute (s : State) (num : Nat) (cm : Comm) (round : List Nat) : State :=
  let s1 := s.updHub (fun h => { h with comms := h.comms.put num cm })
  if round.length = cm.members.length then s1.endRound num cm round else s1

/-- The other modules that hold a member of a communicator. -/
def State.commModules (s : State) (cm : Comm) : List Nat :=
  ((cm.members.filterMap (fun m => ((s.part cm.part.toNat).logical[m]?).map (fun e => natBits e.toNat 14 10))).filter
    (fun m => m != s.module.toNat)).eraseDups

/-- An earlier reduce of the core for the same communicator has not joined a round: a member's k-th reduce joins its k-th round
(R421). -/
def State.reduceBehind (s : State) (cm : Comm) (id : Nat) (c : Copy) : Bool :=
  s.copies.any (fun x => decide (x.1 < id) && x.2.core == c.core && shType x.2.shape == 4 && flComm x.2.flags == flComm c.flags &&
    !x.2.ended && !cm.rounds.any (fun r => r.contains x.1))

/-- The next word of a contribution is read (R129); one that cannot be read stops the reduce for good (R429). -/
def State.readPiece (s : State) (id : Nat) (c : Copy) : State :=
  let pos := c.data.length
  let place := rowPlace c c.src c.sstr pos
  let n := rowPiece c c.src c.sstr pos
  match poolError s c.core c.tag c.epoch c.src place n with
  | some (key, true) => s.lasting (keyEnd key) c.tag (keyOffset key)
  | e =>
    let s0 := match e with | some (key, _) => s.transient (endPos (keyEnd key)).1 key | none => s
    let s1 := if pos = 0 then (s0.refuseRows c c.src c.sstr).chargeSide c c.src 1 else s0
    let d := engineRead s1 c.core c.tag c.epoch c.src place n
    (s1.updCopy id (fun c => { c with
      data := c.data ++ d.1, gap := c.gap || d.2.1, refused := c.refused || d.2.2 })).later 0 (.reduceContribution id)

/-- A member's contribution of this module is read word by word after its release and joins its round; the hub sends it to
every other module of the communicator (R421; log entry 102). -/
def State.copyContribution (s : State) (id : Nat) (c : Copy) : State :=
  let num := flComm c.flags
  let cm := s.hub.comms.getD num {}
  let member := (s.core c.core).lcid
  if cm.state != 1 || cm.part != c.tag || !cm.members.contains member then s.endReduce id 5
  else if s.reduceBehind cm id c then s.again (.reduceContribution id)
  else
    match joinRound s cm member id with
    | none => s.again (.reduceContribution id)
    | some (rounds, round) =>
      if c.data.length < shRows c.shape * shRowb c.shape then s.readPiece id c
      else
        let s2 := (s.commModules cm).foldl (fun s m =>
          s.send hubEnd (moduleEnd m) 0 c.tag c.epoch c.frame [] (.contribution num member c.shape c.data)) s
        s2.contribute num { cm with rounds } round

/-- The contribution of a member in another module joins its round; one that the communicator does not take is refused. -/
def State.remoteContribution (s : State) (p : Packet) : State :=
  match p.body with
  | .contribution num member shape data =>
    let cm := s.hub.comms.getD num {}
    if cm.state != 1 || cm.part != p.tag || !cm.members.contains member then (s.dropPacket p.id).refuse hubEnd p.tag
    else
      match joinRound s cm member p.id with
      | none => s.again (.reduceContribution p.id)
      | some (rounds, round) =>
        (s.dropPacket p.id).contribute num { cm with rounds, remote := cm.remote.put p.id ⟨member, shape, data⟩ } round
  | _ => s

/-- REDUCE_CONTRIBUTION: the contribution of a copy, or one that a packet brings from another module. -/
def execReduceContribution (id : Nat) (s : State) : Out :=
  match s.copy? id, s.packet id with
  | some c, _ =>
    if c.ended then .next s
    else if c.after.any s.unperf.contains then .next (s.again (.reduceContribution id))
    else .next (s.copyContribution id c)
  | none, some p =>
    if s.canArrive p then .next (s.remoteContribution p) else .next (s.again (.reduceContribution id))
  | none, none => .next s

end Sys2Proof.Machine
end

