-- ==== Sys2Proof/Machine/Preempt.lean ====
section
/-! DEFINITION. Pre-emption: the slice, draining, the images of a saved context, resume (R127, R328, R371, R384 to
R391). -/

namespace Sys2Proof.Machine

/-! ## The slice and the drain (R384 to R387) -/

/-- A partition is the one owner of a channel, whose Geyser carries its tag (R75, R395). -/
def State.ownsChannel (s : State) (tag ch : Nat) : Bool :=
  (s.hub.owners.getD ch []).map (·.tag.toNat) == [tag] && (s.geyser ch).tag.toNat == tag

/-- Threads 1 to 3 of the partition's channels, as channel and thread. -/
def State.partThreads (s : State) (tag : Nat) : List (Nat × Nat) :=
  (((s.partChannels tag).filter (s.ownsChannel tag)).map (fun ch => [(ch, 1), (ch, 2), (ch, 3)])).flatten

/-- A running Geyser thread begins to stop (R75). -/
def State.stopThread (s : State) (x : Nat × Nat) : State :=
  if ((s.geyser x.1).thread x.2).state = 1 then
    (s.updGeyser x.1 (fun g => g.updThread x.2 (fun t => { t with state := 3 }))).later 1
      (.geyserThreadStop (geyserSlot x.1 x.2))
  else s

/-- Withdraws the pending activities of a kind. -/
def State.cancelActs (s : State) (p : Instr → Bool) : State :=
  { s with agenda := s.agenda.filter (fun e => !p e.act) }

/-- PREEMPT_SLICE: the timestamp reaches SLICE (R385). -/
def execPreemptSlice (tag : Nat) (s : State) : Out :=
  let p := s.part tag
  if p.slice = 0 then .next s
  else if s.time < p.slice ∨ p.state ≠ 0 then .next (s.again (.preemptSlice tag))
  else
    let s1 := (s.cancelActs (fun i => decide (i = .preemptSlice tag))).updPart tag (fun p => { p with state := 1 })
    let s2 := (s.partCores tag).foldl (fun s k => s.later 1 (.preempt k)) s1
    .next (((s.partThreads tag).foldl State.stopThread s2).later 8 (.contextSave tag))

/-- PREEMPT: the core's slots stop at their bundle boundary, its port engine parks what arrives, and its array lease ends
after its executing command (R328, R385, R386). -/
def execPreempt (k : Nat) (s : State) : Out :=
  let q := k / 16
  let s1 := s.updCore k (fun c => { c with preempted := true })
  match (s.cluster q).lease with
  | none => .next s1
  | some l =>
    if l.core ≠ k then .next s1
    else if (s.cluster q).running.isNone then .next (s1.closeLease q)
    else if l.ending then .next s1
    else .next ((s1.closeLease q).updCluster q (fun c => { c with lease := some { l with ending := true } }))

/-- A trap entry of a slot's thread has its results and has still to complete: PREEMPT does not hold it (R377). -/
def State.entering (s : State) (sk : Nat) : Bool :=
  (s.slot sk).state == .run && (((s.slot sk).frame.map (fun fk => (s.frame fk).trapPend.isSome)).getD false)

/-- A frame belongs to an agent of the partition. -/
def State.frameOf (s : State) (tag : Nat) (fk : Nat) : Bool := (s.frameTag fk).toNat == tag && s.frameEpoch fk != 0

/-- The partition is quiescent (R388): its cores have taken PREEMPT and drained, its copies, prefetches, pushes and reduces
have completed or wait with a parked record, its messages have been executed, parked or kept, its Geyser threads have
stopped; what its instructions write later than they issue has been written (R187, R271). -/
def State.quiescent (s : State) (tag : Nat) : Bool :=
  let ks := s.partCores tag
  let t : BitVec 10 := BitVec.ofNat 10 tag
  let h := s.hub
  ks.all (fun k => (s.core k).preempted && (s.core k).heldRecords.isEmpty && (rangeFrom (8 * k) 8).all (fun sk => !s.entering sk)) &&
  (ks.map (· / 16)).all (fun q => match (s.cluster q).running with | some a => !ks.contains a.core | none => true) &&
  s.net.all (fun p => p.tag != t) && s.late.all (fun l => l.tag != t) && s.copies.all (fun c => c.2.tag != t || c.2.parked) && (s.part tag).heldPackets.isEmpty &&
  h.links.all (fun l => l.2.unanswered.all (fun p => p.tag != t)) &&
  h.tiles.all (fun x => x.tag != t) && h.joins.all (fun x => x.tag != t) && h.leaves.all (fun x => x.tag != t) &&
  h.spills.all (fun x => x.tag != t) && h.fills.all (fun x => x.tag != t) && h.invals.all (fun x => x.tag != t) &&
  h.coreScrubs.all (fun x => !s.frameOf tag x.frame) && s.delayed.all (fun x => !s.frameOf tag x.frame) &&
  s.frames.all (fun x => x.2.flagsDue.isEmpty || !s.frameOf tag x.1) && s.tabWrites.all (fun x => !ks.contains x.core) &&
  h.ends.all (fun x => x.tag != t) &&
  h.hostReqs.all (fun r => r.vf != tag + 1 || (r.copy.isNone && r.frame.isNone && r.unit == 0)) &&
  (s.partThreads tag).all (fun x => !([1, 3] : List (BitVec 2)).contains ((s.geyser x.1).thread x.2).state)

/-! ## What the images hold (R388) -/

/-- The entries of a map whose keys a partition's agents have. -/
def pick {α : Type} (m : NMap α) (mine : Nat → Bool) : NMap α := m.filter (fun x => mine x.1)

/-- A map with the entries of its owner replaced by saved ones. -/
def putBack {α : Type} (m saved : NMap α) (mine : Nat → Bool) : NMap α :=
  saved.foldl (fun m x => m.put x.1 x.2) (m.filter (fun x => !mine x.1))

/-- A slot of a partition's agents: of its cores, or of threads 1 to 3 of its Geysers. -/
def State.mySlot (s : State) (tag sk : Nat) : Bool :=
  if isGeyserSlot sk then (s.partThreads tag).any (fun x => geyserSlot x.1 x.2 == sk) else (s.partCores tag).contains (sk / 8)

/-- A frame of a partition's agents. -/
def State.myFrame (s : State) (tag fk : Nat) : Bool :=
  if isGeyserFrame fk then (s.partThreads tag).any (fun x => geyserFrame x.1 x.2 == fk)
  else (s.partCores tag).contains (frameCore fk)

/-- A word of a partition's pools. -/
def State.myWord (s : State) (tag w : Nat) : Bool := (s.partCores tag).contains (w / 2 ^ 14)

/-- The Geysers of a partition's channels that carry its tag. -/
def State.myGeysers (s : State) (tag : Nat) : List Nat := (s.partChannels tag).filter (s.ownsChannel tag)

/-- A byte of a Geyser pool below 0xC000 of a partition's channel. -/
def State.myGeyserByte (s : State) (tag a : Nat) : Bool :=
  (s.myGeysers tag).contains (a / 2 ^ 16) && decide (a % 2 ^ 16 < 0xC000)

/-- The images of a quiescent partition: in memory they take dwords that the spec lays out only in part; the model keeps all
that they hold beside them (DESIGN CHOICE, log entry 65). -/
def State.takeImage (s : State) (tag : Nat) : Image :=
  let t : BitVec 10 := BitVec.ofNat 10 tag
  { time := s.time
    cores := pick s.cores ((s.partCores tag).contains ·)
    slots := pick s.slots (s.mySlot tag)
    frames := pick s.frames (s.myFrame tag)
    waitq := pick s.waitq (s.myWord tag)
    leaseRecs := pick s.leaseRecs (s.myFrame tag)
    queues := (s.partClusters tag).map (fun q =>
      (q, (s.cluster q).tasks.filter (fun x => x.tag == t), (s.cluster q).passed))
    futures := s.futures.filter (fun x => x.2.owner == t)
    fifos := s.fifos.filter (fun x => x.2.owner == some t)
    threads := (s.partThreads tag).map (fun x => (4 * x.1 + x.2, (s.geyser x.1).thread x.2))
    mails := (s.myGeysers tag).map (fun ch => (ch, (s.geyser ch).mail))
    gpool := s.gpool.filter (fun c => s.myGeyserByte tag c.1) }

/-- A core takes back its saved registers. What no image holds stays as it is: its place in the tables, its mode and its
weights; messages that have been parked after the save come after those saved. -/
def restoredCore (now saved : Core) (tag : BitVec 10) : Core :=
  let later := (now.inbox ++ now.overflow).filter (fun p => p.tag == tag && !(saved.inbox ++ saved.overflow).contains p)
  { saved with
    tag := now.tag, epoch := now.epoch, det := now.det, failed := now.failed, lcid := now.lcid, ewt := now.ewt,
    ewtIdx := now.ewtIdx, ewtSel := now.ewtSel, overflow := saved.overflow ++ later }

/-- The images are written back onto the positions they came from (R390). -/
def State.putImage (s : State) (tag : Nat) (im : Image) : State :=
  let t : BitVec 10 := BitVec.ofNat 10 tag
  let s1 := { s with
    slots := putBack s.slots im.slots (s.mySlot tag), frames := putBack s.frames im.frames (s.myFrame tag),
    waitq := putBack s.waitq im.waitq (s.myWord tag), leaseRecs := putBack s.leaseRecs im.leaseRecs (s.myFrame tag),
    futures := im.futures.foldl (fun m x => m.put x.1 x.2) s.futures,
    fifos := im.fifos.foldl (fun m x => m.put x.1 x.2) s.fifos,
    gpool := im.gpool.foldl (fun m c => m.write c.1 c.2)
      ((s.myGeysers tag).foldl (fun m ch => m.clear (ch * 2 ^ 16) 0xC000) s.gpool) }
  let s2 := im.cores.foldl (fun s x => s.updCore x.1 (fun c => restoredCore c x.2 t)) s1
  let s3 := im.queues.foldl (fun s x => s.updCluster x.1 (fun c =>
    { c with tasks := c.tasks.filter (fun y => y.tag != t) ++ x.2.1, passed := x.2.2 })) s2
  let s4 := im.threads.foldl (fun s x => s.updGeyser (x.1 / 4) (fun g => g.updThread (x.1 % 4) (fun y =>
    { x.2 with entry := y.entry, arg := y.arg }))) s3
  im.mails.foldl (fun s x => s.updGeyser x.1 (fun g => { g with mail := x.2 })) s4

/-! ## The dwords of the images (R388, R389) -/

/-- Dword i of a list of parked messages, over a free value for what is open in it (R389). -/
def inboxDword (ps : List Packet) (i : Nat) (free : Word) : Word :=
  ((((ps.map msgDwords).flatten)[i]?).getD id) free

/-- The full/empty bits of words 64 i to 64 i + 63 of a core. -/
def State.fullDword (s : State) (k i : Nat) : Word :=
  natWord (((rangeFrom 0 64).map (fun b => (s.isFull k (8 * (64 * i + b))).toNat * 2 ^ b)).sum)

/-- Dword i of the image of a core saved at a time (R388), over a free value for what the spec gives no layout. -/
def State.imageDword (s : State) (time k i : Nat) (free : Word) : Word :=
  let c := s.core k
  if i < 6 then
    [0x0F, s.pcid k, c.pword.setWidth 64, natWord time, natWord (inboxCount c.inbox),
      natWord (inboxCount c.overflow)].getD i 0
  else if i < 512 then free
  else if i < 768 then s.fullDword k (i - 512)
  else if i < 896 then c.dtabAt (2 * (i - 768) + 1) ++ c.dtabAt (2 * (i - 768))
  else if i < 928 then natWord (bytesNat ((rangeFrom (8 * (i - 896)) 8).map c.orderAt))
  else if i < 1024 then free
  else if i < 17408 then (s.poolDword k (i - 1024)).getD free
  else inboxDword c.overflow (i - 17408) free

/-! ## The context area (R384, R388) -/

/-- The clusters that hold a core of a partition in any module of the domain, in order of their lowest logical core (R359). -/
def State.allClusters (s : State) (tag : Nat) : List Nat := ((s.part tag).logical.map (fun e => e.toNat % 2 ^ 24 / 16)).eraseDups

/-- The number of 64 KiB pages before the image of cluster j, and of Geyser k. -/
def State.clusterPage (s : State) (tag j : Nat) : Nat := 4 * (s.part tag).logical.length + 8 * j
def State.geyserPage (s : State) (tag k : Nat) : Nat := s.clusterPage tag (s.allClusters tag).length + k

/-- The 64 KiB pages of a partition's context area that this module holds, with their numbers: core images, each at its
logical number, cluster images, Geyser images; a page's dwords are given over the free values of what is open in them. The
layout of the last two kinds is not given. -/
def State.contextPages (s : State) (tag : Nat) : List (Nat × (Nat → Word → Word)) :=
  let time := ((s.part tag).image.map (·.time)).getD 0
  let core (x : Nat × Nat) : List (Nat × (Nat → Word → Word)) :=
    (rangeFrom 0 4).map (fun j => (4 * x.1 + j, fun i => s.imageDword time x.2 (8192 * j + i)))
  let here := ((s.allClusters tag).zip (rangeFrom 0 (s.allClusters tag).length)).filter (fun x =>
    x.1 / 1024 == s.module.toNat)
  ((s.partLogical tag).map core).flatten ++
    (here.map (fun x => (rangeFrom (s.clusterPage tag x.2) 8).map (fun j => (j, fun _ free => free)))).flatten ++
    (rangeFrom (s.geyserPage tag 0) (s.partChannels tag).length).map (fun j => (j, fun _ free => free))

/-- What the context unit meets at a block of 4 KiB: a place, an outcome code, a translation that the host has been asked
for, or an uncorrectable read, at which it stops for good (R429). -/
inductive CtxEnd where
  | at_ (addr : Nat) (host c : Bool)
  | code (n : Nat)
  | asked
  | dead

/-- The context unit asks the host for a translation of a page (R98). -/
def State.askContext (s : State) (tag va : Nat) (write : Bool) : State :=
  let r := s.fresh
  (r.2.updPart tag (fun p => { p with ctxReq := r.1 })).askAts tag va write none none r.1

/-- The place of a block of the context area: its address, in host memory or not, with its leaf's C. -/
def State.contextBlock (s : State) (tag off : Nat) (write : Bool) : State × CtxEnd :=
  let r := s.walk tag ((s.part tag).ctx + off) write false
  match r.2 with
  | .ok addr host c _ _ _ =>
    if !host then (r.1, .at_ addr false c)
    else if !r.1.hostCanWrite tag then (r.1, .code 6)
    else if r.1.hostReady tag addr then (r.1, .at_ addr true c)
    else (r.1.askContext tag addr write, .asked)
  | .ecc => (r.1, .dead)
  | w => (r.1.reportIsol hubEnd tag w, .code w.code)

/-- The next block that the context unit moves: the offset in the context area, and its dwords. -/
def State.nextBlock (s : State) (tag : Nat) : Option (Nat × (Nat → Word → Word)) :=
  let n := (s.part tag).ctxNext
  ((s.contextPages tag)[n / 16]?).map (fun x => (x.1 * 2 ^ 16 + n % 16 * 4096, fun i => x.2 (n % 16 * 512 + i)))

/-- The block has been moved. -/
def Part.blockDone (p : Part) : Part := { p with ctxNext := p.ctxNext + 1 }

/-! ## The save (R388) -/

/-- The bytes of a block of an image; what the spec gives no layout is a free value for each dword. -/
def State.blockBytes (s : State) (d : Nat → Word → Word) : List Byte :=
  ((rangeFrom 0 512).map (fun i => natBytes (d i (Config.freeWord (s.free + i))).toNat 8)).flatten

/-- The storage of a key is part of a partition's images. -/
def State.myStorage (s : State) (tag key : Nat) : Bool :=
  let e := keyEnd key
  if 2 ^ 28 + 2 ^ 26 ≤ key ∧ key < 2 ^ 29 then (s.future (key - 2 ^ 28 - 2 ^ 26)).owner.toNat == tag
  else if 2 ^ 28 + 2 ^ 25 ≤ key ∧ key < 2 ^ 28 + 2 ^ 25 + 2 ^ 20 then
    ((s.fifo (key - 2 ^ 28 - 2 ^ 25)).owner.map (·.toNat)) == some tag
  else (s.partCores tag).contains e || (s.myGeysers tag).contains (e - 2 ^ 20)

/-- The storage words with an error that a save reads, pools with their metadata among them. -/
def State.badPoolWords (s : State) (tag : Nat) : List Nat := s.bad.keys.filter (fun key => decide (key < 2 ^ 30) && s.myStorage tag key)

/-- CONTEXT_SAVE: the quiescent partition is saved: STATE 2, and its images are written block by block. -/
def execContextSave (tag : Nat) (s : State) : Out :=
  if (s.part tag).state ≠ 1 then .next s
  else if !s.quiescent tag then .next (s.again (.contextSave tag))
  else
    let x := s.wordsSound (BitVec.ofNat 10 tag) (s.badPoolWords tag)
    let s1 := x.1.updPart tag (fun p => { p with state := 2, err := 0, ctxNext := 0, image := some (x.1.takeImage tag) })
    .next (if x.2 then s1.later 8 (.contextSaveDone tag) else s1)

/-- The saved partition: STATE 3, the saved guest time of R410, a cause entry of kind 7 with PREEMPT's code (R375). -/
def State.saved (s : State) (tag : Nat) : State :=
  let gs := (natWord s.time + (s.part tag).toff).toNat
  (s.updPart tag (fun p => { p with state := 3, saved := some gs })).raiseCause 7 (tag + 1) 0x0F 0 1

/-- CONTEXT_SAVE_DONE: the next block is written; after the last the partition is saved. A failed save is followed by the
containment reset. -/
def execContextSaveDone (tag : Nat) (s : State) : Out :=
  if (s.part tag).state ≠ 2 ∨ (s.part tag).err ≠ 0 then .next s
  else
    match s.nextBlock tag with
    | none => .next (s.saved tag)
    | some (off, d) =>
      match s.contextBlock tag off true with
      | (s1, .code n) => .next (s1.contextFails tag n)
      | (s1, .dead) | (s1, .asked) => .next s1
      | (s1, .at_ addr host c) =>
        let bs := s1.blockBytes d
        let s2 := if host then s1.hostStore tag addr bs else s1.devWrite tag addr bs c
        .next (({ s2 with free := s2.free + 512 }.updPart tag Part.blockDone).later 1 (.contextSaveDone tag))

/-! ## Resume (R390) -/

/-- RESUME: a write of 1 while STATE is 3 starts the restore. The bit reads as it was written (R384). -/
def execResume (tag : Nat) (s : State) : Out :=
  let p := s.part tag
  let s1 := s.updPart tag (fun p => { p with resume := true })
  if p.state = 3 ∧ !p.restoring then
    .next ((s1.updPart tag (fun p => { p with restoring := true, err := 0, ctxNext := 0, readback := [] })).later 8 (.restoreDone tag))
  else .next s1

/-- The pool bytes of an area from a core image. -/
def restoreArea (k lo : Nat) (d : Nat → Word) (m : Mem) : Nat → Mem
  | 0 => m
  | n + 1 => restoreArea k (lo + 8) d (m.setDword (poolKey k lo) (d (1024 + lo / 8))) n

/-- The full/empty bits of words w to w + n − 1 of a core from its image. -/
def restoreFull (k w : Nat) (d : Nat → Word) (m : NMap Unit) : Nat → NMap Unit
  | 0 => m
  | n + 1 =>
    let key := k * 2 ^ 14 + w
    restoreFull k (w + 1) d (if (d (512 + w / 64)).getLsbD (w % 64) then m.put key () else m.del key) n

/-- Writes back what a core image holds in a layout that the spec gives: the whole pool with its frames, mailbox, engine
ring, shadow sets, slot records and tokens, full/empty bits, decode table and encode order. -/
def State.restoreCore (s : State) (k : Nat) (d : Nat → Word) : State :=
  let c := s.core k
  let s1 := { s with pool := restoreArea k 0 d s.pool 16384, full := restoreFull k 0 d s.full (s.poolS k / 8) }
  let s2 := (rangeFrom 0 (pwF c.pword)).foldl (fun s f => s.loadFrame k f) s1
  let s3 := s2.loadSystem k (fun i => d (1024 + 0x3E00 + i))
  let dtab := (rangeFrom 0 256).foldl (fun m e => m.put e ((d (768 + e / 2)).extractLsb' (32 * (e % 2)) 32)) c.dtab
  let order := (rangeFrom 0 256).foldl (fun m e => m.put e ((d (896 + e / 8)).extractLsb' (8 * (e % 8)) 8)) c.order
  s3.updCore k (fun c => { c with dtab, order })

/-- Every image of a partition is written back onto its position: first all that was saved, then what the bytes that have
been read back say. -/
def State.restoreImages (s : State) (tag : Nat) : State :=
  let p := s.part tag
  let s1 := match p.image with | some im => s.putImage tag im | none => s
  let s2 := (s1.partLogical tag).foldl (fun s x => s.restoreCore x.2 (fun i => p.readback.dword (2 ^ 18 * x.1 + 8 * i))) s1
  s2.updPart tag (fun p => { p with image := none, readback := [], ctxNext := 0 })

/-- A parked message is executed (R390). -/
def replayMessage (s : State) (p : Packet) : State :=
  match p.body with
  | .access _ | .joini .. => s.takeAccess p
  | .send .. => s.takeSend p
  | .copyRecord _ _ id => s.replayRecord id
  | .future .. => s.takeFuture p
  | .wake .. => s.takeWake p
  | .grant fk wait v => s.giveWait fk wait v
  | .join .. => s.takeJoin p
  | .spawn .. | .spawni .. | .spawnr .. | .grow .. => s.takeSpawn p
  | .response .. | .futureReply .. | .contribution .. => s

/-- The step that sends a kept message again. -/
def resendStep (p : Packet) : Instr :=
  match p.body with | .access _ => .deferredRetryResend p.id | _ => .sendRetryResend p.id

/-- A core goes on: its inbox and its overflow are replayed in order, its kept messages are sent again. -/
def State.replayCore (s : State) (k : Nat) : State :=
  let c := s.core k
  let s1 := s.updCore k (fun c => { c with inbox := [], overflow := [] })
  let s2 := (c.inbox ++ c.overflow).foldl replayMessage s1
  let s3 := c.retryBuf.foldl (fun s p => s.later 8 (resendStep p)) s2
  if c.heldRecords.isEmpty then s3 else s3.later 8 (.mailboxRecordPlace k)

/-- A Geyser thread that pre-emption stopped goes on. -/
def State.restoreThread (s : State) (x : Nat × Nat) : State :=
  let sk := geyserSlot x.1 x.2
  if (s.slot sk).state = .stopped then
    let f := s.frame (geyserFrame x.1 x.2)
    (s.updSlot sk (fun r => { r with state := if f.waits.isEmpty then .run else .inPlace })).updGeyser x.1
      (fun g => g.updThread x.2 (fun t => { t with state := 1 }))
  else s

/-- The agents of a partition act again. -/
def State.wakePart (s : State) (tag : Nat) : State :=
  let go (s : State) (q : Nat) : State :=
    ((s.later 1 (.taskDispatch q)).later 1 (.tilePrefetchStart q)).later 1 (.arrayCommandComplete q)
  ((s.partClusters tag).foldl go s).routeHeld tag

/-- The restored partition runs: its messages are replayed, its threads go on, STATE and RESTORING are 0. -/
def State.restart (s : State) (tag : Nat) : State :=
  let ks := s.partCores tag
  let s1 := ks.foldl (fun s k => s.updCore k (fun c => { c with preempted := false })) s
  let s2 := ks.foldl State.replayCore s1
  let s3 := (s.partThreads tag).foldl State.restoreThread s2
  let s4 := s3.updPart tag (fun p => { p with state := 0, restoring := false, err := 0 })
  (s4.wakePart tag).raiseCause 8 (tag + 1) 0 0 1

/-- A block of the context area that lies in device memory is read under the soft-error rule; in host memory the hub reads it
by a request of its own (R97 to R99). -/
def State.readBlock (s : State) (tag off addr : Nat) (host c : Bool) : State :=
  if host then
    let r := s.fresh
    let q := r.2.fresh
    let s1 := (q.2.updPart tag (fun p => { p with ctxReq := r.1 })).useAts (s.atsEntry tag addr) true
    s1.askHost q.1 tag addr 4096 none none (eval := natWord off) (unit := r.1)
  else
    let x := s.deviceSound (BitVec.ofNat 10 tag) addr 4096 ((s.part tag).ctx + off)
    if !x.2 then x.1
    else
      let r := x.1.devRead tag addr 4096 c
      (r.1.updPart tag (fun p => { p.blockDone with readback := p.readback.setBytes off r.2 })).later 1 (.restoreDone tag)

/-- RESTORE_DONE: the next block of the images is read; after the last they are written back and the partition runs. A failed
restore is followed by the containment reset, and so is one that met an uncorrectable line, by the way of its trap message
(R392, R429). -/
def execRestoreDone (tag : Nat) (s : State) : Out :=
  if !(s.part tag).restoring || (s.part tag).err != 0 then .next s
  else
    match s.nextBlock tag with
    | none => .next ((s.restoreImages tag).restart tag)
    | some (off, _) =>
      match s.contextBlock tag off false with
      | (s1, .code n) => .next (s1.contextFails tag n)
      | (s1, .dead) | (s1, .asked) => .next s1
      | (s1, .at_ addr host c) => .next (s1.readBlock tag off addr host c)

end Sys2Proof.Machine
end

