-- ==== Sys2Proof/Machine/Containment.lean ====
section
/-! DEFINITION. Epochs, generations, the membership of cores, and the containment reset (R93, R94, R120, R392 to R399). -/

namespace Sys2Proof.Machine

/-! ## Epochs and membership (R395 to R399) -/

/-- The epoch after an advance: 63 is followed by 1. -/
def nextEpoch (e : BitVec 6) : BitVec 6 := if e = 63 then 1 else e + 1

/-- Compute cores that hold a partition's tag, in its table or left from it. -/
def State.allCores (s : State) (tag : Nat) : List Nat := (s.partCores tag ++ (s.part tag).left).eraseDups

/-- Geysers that serve a partition. -/
def State.partGeysers (s : State) (tag : Nat) : List Nat := s.myGeysers tag

/-- Every agent of a partition takes an epoch. -/
def State.setEpoch (s : State) (tag : Nat) (e : BitVec 6) : State :=
  let s1 := s.updPart tag (fun p => { p with epoch := e })
  let s2 := (s.allCores tag).foldl (fun s k => s.updCore k (fun c =>
    if c.tag.toNat == tag && (c.epoch != 0 || (s.partCores tag).contains k) then { c with epoch := e } else c)) s1
  (s.partGeysers tag).foldl (fun s ch => s.updGeyser ch (fun g => { g with epoch := e })) s2

/-- A virtual function's generation rises by one; its request identifiers start at 0, and what waited for its outstanding
requests no longer does; a unit of the hub that waited for a page asks for it anew (R93, R94, R416). -/
def State.raiseGen (s : State) (vf : Nat) : State :=
  let units := ((s.vf vf).reqs.map (·.units)).flatten
  units.foldl (fun s u => s.unitPage u 0) (s.updVf vf (fun v => { v with
    gen := v.gen + 1, nextRid := 0, reqs := v.reqs.map (fun r => { r with copies := [], threads := [], units := [] }) }))

/-! ## The containment reset (R393) -/

/-- A frame whose task has ended without a future transition; its registers keep their values. -/
def Frame.freed (f : Frame) : Frame :=
  { f with
    ready := [], pend := [], outs := [], fenceAll := [], fenceStore := [], fenceEngine := [], acquires := [], held := [], waits := [], reply := none,
    due := [], dueMark := [], waitMail := none, waitTok := none, cancelReq := false, cancelDue := false,
    flushing := false, trapPend := none, atMarker := false, state := .free, lane := none, regions := [], copies := [],
    mpos := 0, energyFw := 0, asked := 0, settled := none, flagsDue := [] }

/-- Frames of the partition's agents that the state lists. -/
def State.partFrames (s : State) (tag : Nat) : List Nat :=
  let ks := s.allCores tag
  let gs := s.partGeysers tag
  s.frames.keys.filter (fun fk => if isGeyserFrame fk then gs.contains (frameCore fk) && frameNum fk != 0
    else ks.contains (frameCore fk))

/-- Identifiers of accesses that the partition's agents have issued. -/
def State.partIds (s : State) (tag : Nat) : List Nat :=
  let fs := s.partFrames tag
  let ks := s.allCores tag
  ((fs.map (fun fk => (s.frame fk).outs.map (·.id))).flatten) ++
    ((s.delayed.filter (fun d => fs.contains d.frame)).map (·.id)) ++
    ((s.waitq.filter (fun x => ks.contains (x.1 / 2 ^ 14))).map (fun x => x.2.map (·.id))).flatten

/-- The partition's rounds close without results (R421): a member whose task is gone ends with no record. -/
def State.closeRounds (s : State) (tag : Nat) : State :=
  let mine := s.hub.comms.filter (fun c => c.2.part.toNat == tag)
  let ids := (mine.map (fun c => c.2.rounds.flatten)).flatten
  let close (c : Comm) : Comm := if c.part.toNat == tag then { c with rounds := [], remote := [] } else c
  ids.foldl (fun s id => s.endReduce id 5) (s.updHub (fun h => { h with comms := h.comms.mapVal close }))

/-- Frees the frames of the partition's agents; what a task has used is added to the partition's total (R425). -/
def State.freeFrames' (s : State) (tag : Nat) : State :=
  let one (s : State) (fk : Nat) : State :=
    let f := s.frame fk
    (s.setFrame fk f.freed).updPart tag (fun p => { p with
      energyTotal := p.energyTotal + natWord (if isGeyserFrame fk || f.state == .free then 0 else f.energyFw / 256) })
  (s.partFrames tag).foldl one s

/-- Empties the slots, queues, mailboxes and buffers of a compute core. -/
def State.stopCore (s : State) (k : Nat) : State :=
  let s1 := (rangeFrom (k * 8) 8).foldl (fun s sk => s.updSlot sk Slot.cleared) s
  s1.updCore k (fun c => { c with
    mail := [], acmds := [], tokens := [], groups := [], inbox := [], overflow := [], retryBuf := [], heldRecords := [],
    timer := if c.timerOwner.isSome then 0 else c.timer, timerOwner := none, preempted := false })

/-- Threads 1 to 3 of a channel's Geyser become idle. -/
def State.idleThreads (s : State) (ch : Nat) : State :=
  let s1 := (rangeFrom 1 3).foldl (fun s t =>
    (s.updSlot (geyserSlot ch t) Slot.cleared).updGeyser ch (fun g => g.updThread t (fun x => { x with
      state := 0, held := false }))) s
  s1.updGeyser ch (fun g => { g with mail := [], timer := if g.timerOwner.isSome then 0 else g.timer, timerOwner := none })

/-- A copy is abandoned: its bursts no longer use their translations. -/
def State.abandonCopy (s : State) (x : Nat × Copy) : State :=
  let c := x.2
  let s1 := c.bursts.foldl (fun s b => (s.useEntry c.channel b.entry false).useAts b.ats false) s
  let s2 := { s1 with copies := s1.copies.del x.1 }
  match c.purpose with
  | .prefetch q _ => s2.updCluster q (fun y => { y with prefetches := y.prefetches - 1 })
  | _ => s2

/-- A write on its way is abandoned. -/
def State.abandonLate (s : State) (l : Late) : State := if l.device then s.useEntry l.channel l.entry false else s

/-- A join on its way is withdrawn: the bits that it has set on its path are cleared (R120). -/
def State.abandonJoin (s : State) (j : JoinReq) : State := j.path.foldl (fun s x => s.clearPort x.1 j.tag j.mtag x.2) s

/-- A host access of a thread, a fill or a spill is abandoned. -/
def State.abandonHost (s : State) (r : HostReq) : State := (s.useEntry r.chan r.gent false).useAts r.entry false

/-- Every copy, prefetch, push, reduce, write and subscription on its way and host access of the partition is abandoned. -/
def State.abandonAll (s : State) (tag : Nat) : State :=
  let t : BitVec 10 := BitVec.ofNat 10 tag
  let isMine (r : HostReq) : Bool := r.vf == tag + 1 && (r.copy.isSome || r.frame.isSome || r.unit != 0)
  let s0 := (s.late.filter (fun l => l.tag == t)).foldl State.abandonLate { s with late := s.late.filter (fun l => l.tag != t) }
  let s1 := (s0.copies.filter (fun c => c.2.tag == t)).foldl State.abandonCopy s0
  let s2 := (s1.hub.hostReqs.filter (fun r => isMine r && r.copy.isNone)).foldl State.abandonHost s1
  let close (c : Comm) : Comm := if c.part == t then { c with rounds := [], remote := [] } else c
  ((s2.hub.joins.filter (fun j => j.tag == t)).foldl State.abandonJoin s2).updHub (fun h => { h with
    hostReqs := h.hostReqs.filter (fun r => !isMine r), tiles := h.tiles.filter (fun x => x.tag != t),
    joins := h.joins.filter (fun x => x.tag != t), leaves := h.leaves.filter (fun x => x.tag != t),
    spills := h.spills.filter (fun x => x.tag != t), ends := h.ends.filter (fun x => x.tag != t), fills := h.fills.filter (fun x => x.tag != t),
    coreScrubs := h.coreScrubs.filter (fun x => !(s.partFrames tag).contains x.frame), comms := h.comms.mapVal close })

/-- The partition's ready queues, ranges, leases and future entries become free, its FIFOs empty. -/
def State.freeQueues (s : State) (tag : Nat) : State :=
  let t : BitVec 10 := BitVec.ofNat 10 tag
  let ks := s.allCores tag
  let cluster (c : Cluster) : Cluster := { c with
    tasks := c.tasks.filter (fun x => x.tag != t), ranges := c.ranges.filter (fun r => r.tag != t),
    lease := match c.lease with | some l => if ks.contains l.core then none else some l | none => none,
    running := match c.running with | some a => if ks.contains a.core then none else some a | none => none }
  let entry (f : Future) : Future :=
    if f.owner == t then { f with state := .free, value := 0, dropped := false, waiters := [], producer := .none, spilling := false }
    else f
  let fifo (f : Fifo) : Fifo := if f.owner == some t then { f with items := [], waiting := [] } else f
  { s with
    clusters := s.clusters.mapVal cluster, futures := s.futures.mapVal entry, fifos := s.fifos.mapVal fifo,
    leaseRecs := s.leaseRecs.filter (fun x => !ks.contains (frameCore x.1)) }

/-- Waits of words, own-pool accesses and releases of the partition's agents are forgotten. -/
def State.dropWaits (s : State) (tag : Nat) : State :=
  let ids := s.partIds tag
  let fs := s.partFrames tag
  let ks := s.allCores tag
  let t : BitVec 10 := BitVec.ofNat 10 tag
  { s with
    unperf := s.unperf.filter (fun i => !ids.contains i),
    delayed := s.delayed.filter (fun d => !fs.contains d.frame),
    waitq := s.waitq.filter (fun x => !ks.contains (x.1 / 2 ^ 14)),
    net := s.net.map (fun p => if p.tag == t then { p with after := [] } else p) }

/-- A line of the partition's sets leaves the slice: a dirty one whose ECC is correct is written back, and memory holds its bytes
already; one that is uncorrectable is not, and HBM4E keeps the bytes that it held (R81, R393). -/
def State.dropLine (ch : Nat) (s : State) (l : CLine) : State :=
  let n := s.lineNumber ch l
  let lost := l.dirty && s.bad.get? (sliceKey n) == some .lasting
  { s with bad := s.bad.del (sliceKey n), dev := if lost then s.dev.setBytes (64 * n) l.old else s.dev }

/-- The partition's sets are written back and invalidated (R69, R81, R393). -/
def State.dropLines (s : State) (tag : Nat) : State :=
  let one (s : State) (ch : Nat) : State :=
    let k := s.hub.channelK.getD ch 0
    let t := (((s.hub.owners.getD ch []).find? (fun o => o.tag.toNat == tag)).map (fun o => o.t.toNat)).getD 0
    let mine (l : CLine) : Bool := l.set / 2 ^ (8 - k) == t % 2 ^ k
    (((s.geyser ch).lines.filter mine).foldl (State.dropLine ch) s).updGeyser ch (fun g => { g with
      lines := g.lines.filter (fun l => !mine l) })
  (s.partChannels tag).foldl one s

/-- Launches in progress are gone; records that have not been checked are held at the hub again (R404). -/
def State.dropLaunches (s : State) (tag : Nat) : State :=
  s.updPart tag (fun p => { p with
    launches := [], held := p.launches.filter (fun l => !l.checked) ++ p.held, heldPackets := [] })

/-- The reset of a partition in isolation, without its cause entry. -/
def State.containReset (s : State) (tag : Nat) : State :=
  let s1 := (((s.dropWaits tag).abandonAll tag).freeQueues tag).freeFrames' tag
  let s2 := (s.allCores tag).foldl State.stopCore s1
  let s3 := (s.partGeysers tag).foldl State.idleThreads s2
  let s4 := ((s3.dropLines tag).dropLaunches tag).setDet tag false
  let s5 := (s4.setEpoch tag (nextEpoch (s.part tag).epoch)).raiseGen (tag + 1)
  (s5.removeFailed tag).updPart tag (fun p => { p with state := 0, slice := 0, restoring := false, image := none, readback := [], ctxNext := 0, ctxReq := 0 })

/-- The reset, its cause entry, and what the hub holds for the partition. -/
def State.resetPart (s : State) (tag : Nat) (cause : BitVec 8) : State :=
  ((s.containReset tag).raiseCause 12 (tag + 1) cause.toNat 0 1).wakePart tag

/-- A reset that waits while the hub has no place for its cause entry (R402). -/
def State.resetOrWait (s : State) (tag : Nat) (cause : BitVec 8) (i : Instr) : State :=
  if s.causeRoom then s.resetPart tag cause else s.again i

/-- CONTAINMENT_RESET. -/
def execContainmentReset (tag : Nat) (cause : BitVec 8) (s : State) : Out :=
  .next (s.resetOrWait tag cause (.containmentReset tag cause))

/-- CONTAINMENT_DELAY_EXPIRY: 10,000 ns after a lasting fault reached the hub. -/
def execContainmentDelayExpiry (tag : Nat) (s : State) : Out :=
  .next (s.resetOrWait tag 0x12 (.containmentReset tag 0x12))

/-- PARTITION_RESET_REQUEST of the physical function; the cause code of its entry is not given: a free value. -/
def execPartitionResetRequest (tag : Nat) (s : State) : Out :=
  let c : BitVec 8 := s.draw.1.setWidth 8
  .next (s.draw.2.resetOrWait tag c (.containmentReset tag c))

end Sys2Proof.Machine
end

