-- ==== Sys2Proof/Machine/Sha256.lean ====
section
/-! DEFINITION. SHA-256 over a list of bytes, as the certificate's DIGEST asks for it (R406): FIPS 180-4, written as two
recurrences, with its constants computed from the roots of the primes that they are defined by. -/

namespace Sys2Proof.Machine

/-! ## Constants: the first 32 fraction bits of roots of primes -/

/-- The largest r with r ^ e at most x, below 2 ^ n: bits of r from the top. -/
def rootBelow (e x : Nat) : Nat → Nat → Nat
  | r, 0 => r
  | r, n + 1 => let r1 := r + 2 ^ n; rootBelow e x (if r1 ^ e ≤ x then r1 else r) n

/-- The first 32 bits of the fraction of the e-th root of p. -/
def rootFraction (e p : Nat) : Nat := rootBelow e (p * 2 ^ (32 * e)) 0 40 % 2 ^ 32

/-- The primes below 312, of which there are 64. -/
def shaPrimes : List Nat := (List.range 312).filter (fun n => decide (2 ≤ n) && (List.range n).all (fun d => decide (d < 2) || n % d != 0))

/-! ## One block: the sequences A and E -/

/-- Three rotations of a word to the right, combined. -/
def mixRot (x : BitVec 32) (i j k : Nat) : BitVec 32 := x.rotateRight i ^^^ (x.rotateRight j ^^^ x.rotateRight k)

/-- Two rotations and a shift of a word to the right, combined. -/
def mixShift (x : BitVec 32) (i j k : Nat) : BitVec 32 := x.rotateRight i ^^^ (x.rotateRight j ^^^ x.ushiftRight k)

/-- Bits of y where x has ones, of z elsewhere. -/
def choose3 (x y z : BitVec 32) : BitVec 32 := z ^^^ (x &&& (y ^^^ z))

/-- The bits that two of three words have. -/
def most3 (x y z : BitVec 32) : BitVec 32 := (x &&& (y ||| z)) ||| (y &&& z)

/-- The message words with the latest first, extended to n more. -/
def shaExtend : Nat → List (BitVec 32) → List (BitVec 32)
  | 0, ws => ws
  | n + 1, ws =>
    let at_ (back : Nat) : BitVec 32 := ws.getD (back - 1) 0
    shaExtend n ((mixShift (at_ 2) 17 19 10 + at_ 7 + mixShift (at_ 15) 7 18 3 + at_ 16) :: ws)

/-- The four latest members of A and of E, the latest first. -/
abbrev ShaVars := List (BitVec 32) × List (BitVec 32)

/-- The next members of A and E from a message word with its constant. -/
def shaNext (v : ShaVars) (m : BitVec 32) : ShaVars :=
  let a (i : Nat) : BitVec 32 := v.1.getD i 0
  let e (i : Nat) : BitVec 32 := v.2.getD i 0
  let x := m + e 3 + choose3 (e 0) (e 1) (e 2) + mixRot (e 0) 6 11 25
  ((x + mixRot (a 0) 2 13 22 + most3 (a 0) (a 1) (a 2)) :: v.1.take 3, (a 3 + x) :: v.2.take 3)

/-- The chaining value after a block of 16 message words. -/
def shaCompress (v : ShaVars) (ws : List (BitVec 32)) : ShaVars :=
  let ks := shaPrimes.map (fun p => BitVec.ofNat 32 (rootFraction 3 p))
  let u := (((shaExtend 48 ws.reverse).reverse.zip ks).map (fun x => x.1 + x.2)).foldl shaNext v
  ((u.1.zip v.1).map (fun x => x.1 + x.2), (u.2.zip v.2).map (fun x => x.1 + x.2))

/-! ## The message -/

/-- The chaining value before the first block. -/
def shaStart : ShaVars :=
  let h (p : Nat) : BitVec 32 := BitVec.ofNat 32 (rootFraction 2 p)
  ((shaPrimes.take 4).map h, ((shaPrimes.drop 4).take 4).map h)

/-- The n most significant base-2 ^ k digits of x among n, the highest first. -/
def digitsHigh (k x : Nat) : Nat → List Nat
  | 0 => []
  | n + 1 => x / 2 ^ (k * n) % 2 ^ k :: digitsHigh k x n

/-- A number whose bytes are a list, the first the highest. -/
def bytesHigh (bs : List Byte) : Nat := bs.foldl (fun x b => 256 * x + b.toNat) 0

/-- The padded message as one number and its count of 512-bit blocks: a one bit, zeros, and the length in 64 bits. -/
def shaPadded (bs : List Byte) : Nat × Nat :=
  let bits := 8 * bs.length
  let blocks := (bits + 65 + 511) / 512
  ((2 * bytesHigh bs + 1) * 2 ^ (512 * blocks - bits - 1) + bits % 2 ^ 64, blocks)

/-- SHA-256 of a list of bytes. -/
def sha256 (bs : List Byte) : List Byte :=
  let m := shaPadded bs
  let v := (digitsHigh 512 m.1 m.2).foldl (fun v b => shaCompress v ((digitsHigh 32 b 16).map (BitVec.ofNat 32))) shaStart
  ((v.1 ++ v.2).map (fun x => (digitsHigh 8 x.toNat 4).map (BitVec.ofNat 8))).flatten

end Sys2Proof.Machine
end

