-- ==== Sys2Proof/Machine/Caldera.lean ====
section
/-! DEFINITION. The Caldera scrub, its certificate and the held launch (R81, R93, R297, R400, R403 to R408). -/

namespace Sys2Proof.Machine

/-! ## What the clearing agents clear (R403) -/

/-- Bit 0 at a core: pool, frames, slots, system area, full/empty bits and the core registers of R388, the match table, the
deferred operations and the kept messages among them (R120). -/
def State.scrubPool (s : State) (k : Nat) : State :=
  let c := s.core k
  let s1 := { s with
    pool := s.pool.clear (poolKey k 0) (2 ^ 17), full := s.full.filter (fun x => x.1 / 2 ^ 14 != k),
    frames := s.frames.filter (fun x => isGeyserFrame x.1 || x.1 / 64 != k),
    slots := s.slots.filter (fun x => isGeyserSlot x.1 || x.1 / 8 != k),
    leaseRecs := s.leaseRecs.filter (fun x => frameCore x.1 != k), waitq := s.waitq.filter (fun x => x.1 / 2 ^ 14 != k) }
  s1.setCore k { c with
    tvec := 0, svec := 0, timer := 0, timerOwner := none, ering := 0, eseqNext := 1, copyNext := 1, mail := [],
    ring := [], acmds := [], tokens := [], groups := [], inbox := [], overflow := [], heldRecords := [], retryBuf := [] }

/-- Bit 0: every pool of the partition, its energy total, the anti-starvation counts, the partition seed; cores that have left the table
become free (R405). -/
def State.scrubPools (s : State) (tag : Nat) (seed : Word) : State :=
  let s1 := (s.allCores tag).foldl State.scrubPool s
  let s2 := (s.partClusters tag).foldl (fun s q => s.updCluster q (fun c => { c with passed := 0 })) s1
  let s3 := (s.part tag).left.foldl (fun s k => s.updCore k (fun c => { c with epoch := 0 })) s2
  s3.updPart tag (fun p => { p with left := [], seed, energyTotal := 0 })

/-- Clusters whose 16 cores all belong to the partition. -/
def State.ownClusters (s : State) (tag : Nat) : List Nat :=
  (s.partClusters tag).filter (fun q => (rangeFrom (q * 16) 16).all (fun k => (s.partCores tag).contains k))

/-- Bit 1: array cell storage. -/
def State.scrubArray (s : State) (tag : Nat) : State :=
  (s.ownClusters tag).foldl (fun s q => s.updCluster q (fun c => { c with
    lease := c.lease.map (fun l => { l with tile := none }) })) s

/-- Bit 2: queues and future entries; the next allocation of an entry takes generation 0x0010. In a cluster whose cores all
belong to the partition every free entry is the partition's. -/
def State.scrubQueues (s : State) (tag : Nat) : State :=
  let t : BitVec 10 := BitVec.ofNat 10 tag
  let whole := s.ownClusters tag
  let mine (x : Nat × Future) : Bool := x.2.owner == t || (x.2.state == .free && whole.contains (x.1 / 4096))
  { s with
    clusters := s.clusters.mapVal (fun c => { c with
      tasks := c.tasks.filter (fun x => x.tag != t), ranges := c.ranges.filter (fun r => r.tag != t) }),
    futures := s.futures.filter (fun x => !mine x) }

/-- Bit 3: lines of the partition in the instruction stores it fetches through. -/
def State.scrubLines (s : State) (tag : Nat) : State :=
  let stores := ((s.allCores tag).map (· / 16)) ++ (s.partGeysers tag).map (· + 1024)
  stores.foldl (fun s q => s.updCluster q (fun c => { c with icache := c.icache.filter (fun l => l.tag.toNat != tag) })) s

/-- Bit 4: the partition's FIFOs. -/
def State.scrubFifos (s : State) (tag : Nat) : State :=
  let h (f : Fifo) : Fifo := if f.owner == some (BitVec.ofNat 10 tag) then { f with items := [], waiting := [] } else f
  { s with fifos := s.fifos.mapVal h }

/-- Bit 5: Geyser pools; threads 1 to 3 are idle. -/
def State.scrubGeysers (s : State) (tag : Nat) : State :=
  let one (s : State) (ch : Nat) : State := { s with gpool := s.gpool.clear (ch * 2 ^ 16) 0xC000 }.idleThreads ch
  let s1 := (s.partChannels tag).foldl one s
  { s1 with frames := s1.frames.filter (fun x => !(isGeyserFrame x.1 && (s.partGeysers tag).contains (frameCore x.1) && frameNum x.1 != 0)) }

/-- Bit 6 as the scrub begins: the cached translations of the partition are invalidated, and those that no access uses freed
(R88). -/
def State.markTlb (s : State) (tag : Nat) : State :=
  let mark (e : GEntry) : GEntry := if e.tag.toNat == tag then { e with invalid := true } else e
  { s with geysers := s.geysers.mapVal (fun g => { g with
      gtlb := (g.gtlb.map mark).filter (fun e => !(e.invalid && e.inUse == 0)) }) }.atsInvalidate (tag + 1) 0 0 true

/-- An access still uses a translation of the partition: the scrub waits for it (R88, R89). -/
def State.tlbBusy (s : State) (tag : Nat) : Bool :=
  s.geysers.any (fun g => g.2.gtlb.any (fun e => e.tag.toNat == tag && e.inUse != 0)) ||
    s.hub.ats.any (fun e => e.vf == tag + 1 && e.inUse != 0)

/-- Bit 6: cached translations of the partition. -/
def State.scrubTlb (s : State) (tag : Nat) : State :=
  { s with geysers := s.geysers.mapVal (fun g => { g with gtlb := g.gtlb.filter (fun e => e.tag.toNat != tag) }) }.updHub
    (fun h => { h with ats := h.ats.filter (fun e => e.vf != tag + 1) })

/-- Bit 8: prefetch streams of the partition. -/
def State.scrubStreams (s : State) (tag : Nat) : State :=
  { s with geysers := s.geysers.mapVal (fun g => { g with streams := g.streams.filter (fun x => x.tag.toNat != tag) }) }

/-- Bit 9: decode tables and encode orders. -/
def State.scrubDecode (s : State) (tag : Nat) : State :=
  ((s.allCores tag) ++ (s.partGeysers tag).map (· + 2 ^ 15)).foldl State.scrubTables s

/-- Bit 10: match tables, group entries, deferred operations and kept messages, of cores and of Geysers. -/
def State.scrubGroups (s : State) (tag : Nat) : State :=
  let t : BitVec 10 := BitVec.ofNat 10 tag
  let ks := s.allCores tag
  let s1 := { s with
    routers := s.routers.mapVal (fun r => ⟨r.groups.filter (fun g => g.tag != t)⟩),
    waitq := s.waitq.filter (fun x => !ks.contains (x.1 / 2 ^ 14)) }
  (ks ++ (s.partGeysers tag).map (· + 2 ^ 15)).foldl (fun s k => s.updCore k (fun c => { c with groups := [], retryBuf := [] })) s1

/-- Bit 11: the partition's owned ranges of device memory. -/
def State.scrubDevice (s : State) (tag : Nat) : State :=
  let ranges := (s.hub.owners.map (fun x => (x.2.filter (fun o => o.tag.toNat == tag)).map (fun o =>
    (x.1 * 2 ^ 32 + o.base.toNat * 2 ^ 16, (o.limit.toNat + 1 - o.base.toNat) * 2 ^ 16)))).flatten
  ranges.foldl (fun s r => { s with dev := s.dev.clear r.1 r.2 }) s

/-- Every selected scope of a scrub (R404, step 2): the cache sets first, then device memory. -/
def State.scrubScopes (s : State) (tag : Nat) (scope : BitVec 32) (seed : Word) : State :=
  let on (b : Nat) (h : State → State) (s : State) : State := if scope.getLsbD b then h s else s
  on 0 (fun s => s.scrubPools tag seed) <| on 1 (fun s => s.scrubArray tag) <| on 2 (fun s => s.scrubQueues tag) <|
    on 3 (fun s => s.scrubLines tag) <| on 4 (fun s => s.scrubFifos tag) <| on 5 (fun s => s.scrubGeysers tag) <|
    on 6 (fun s => s.scrubTlb tag) <| on 8 (fun s => s.scrubStreams tag) <| on 9 (fun s => s.scrubDecode tag) <|
    on 10 (fun s => s.scrubGroups tag) <| on 11 (fun s => s.scrubDevice tag) <| on 7 (fun s => s.dropLines tag) s

/-! ## The order of a scrub (R403, R404) -/

/-- The hub accepts a scrub command. -/
def scrubOk (scope : BitVec 32) (assign : Bool) : Bool := scope >>> 12 == 0 && (!assign || scope == 0xFFF)

/-- The copies that write certificates of a partition. -/
def State.certCopies (s : State) (tag : Nat) : NMap Copy := s.copies.filter (fun x => x.2.isCert && x.2.tag.toNat == tag)

/-- A launch that waits for its certificate is discarded without a completion record, and the write of its certificate is
abandoned (R408). -/
def State.discardCert (s : State) (tag : Nat) : State :=
  let s1 := if (s.part tag).launches.any (fun l => l.certWait && l.det) then s.setDet tag false else s
  let own (l : Late) : Bool := (s.certCopies tag).any (fun x => x.1 == l.owner)
  let s2 := (s1.late.filter own).foldl State.abandonLate { s1 with late := s1.late.filter (fun l => !own l) }
  ((s.certCopies tag).foldl State.abandonCopy s2).updPart tag (fun p => { p with
    launches := p.launches.filter (fun l => !l.certWait), signing := none })

/-- A scrub finds a launch running or STATE not 0. -/
def State.scrubBusy (s : State) (tag : Nat) : Bool :=
  (s.part tag).launches.any (fun l => l.running && !l.certWait) || (s.part tag).state != 0

/-- A scrub begins: a held CERT launch is discarded, the containment reset is performed where a launch runs or STATE is not
0, the partition's rounds close, its agents stop, and its cached translations are invalidated under bit 6. -/
def State.startScrub (s : State) (c : Scrub) : State :=
  let s1 := s.discardCert c.tag
  let s2 := if s.scrubBusy c.tag then (s1.draw.2.containReset c.tag).raiseCause 12 (c.tag + 1) (s1.draw.1.toNat % 2 ^ 8) 0 1
    else (s1.dropLaunches c.tag).closeRounds c.tag
  let s3 := (s2.updPart c.tag (fun p => { p with scrubbing := true })).updHub (fun h => { h with
    running := h.running.put c.tag { c with start := s.time } })
  (if c.scope.getLsbD 6 then s3.markTlb c.tag else s3).later 8 (.scrubComplete c.tag)

/-- SCRUB_COMMAND: refused, started, or made to wait behind the scrub of the same partition that runs; one that resets the
partition waits for a place for its cause entry (R402). -/
def execScrubCommand (tag : Nat) (scope : BitVec 32) (assign : Bool) (seed : Word) (s : State) : Out :=
  let c : Scrub := ⟨tag, scope, assign, seed, s.time⟩
  if !scrubOk scope assign then .next s
  else if (s.part tag).scrubbing then .next (s.updHub (fun h => { h with scrubs := h.scrubs ++ [c] }))
  else if s.scrubBusy tag && !s.causeRoom then .next (s.again (.scrubCommand tag scope assign seed))
  else .next (s.startScrub c)

/-- The seed after a scrub under bit 0: the supplied one, or one that the root of trust draws. -/
def State.scrubSeed (s : State) (c : Scrub) : Word := if c.seed = 0 then Config.drawnSeed s.free else c.seed

/-- Steps 3 to 5 of a scrub: epoch, generation, sequence number, certificate body, cause entry. -/
def State.endScrub (s : State) (c : Scrub) : State :=
  let tag := c.tag
  let old := (s.vf (tag + 1)).gen.toNat
  let s1 := (s.setEpoch tag (nextEpoch (s.part tag).epoch)).raiseGen (tag + 1)
  let n := s1.hub.scrubSeq + 1
  let cert : Cert := ⟨c.scope, n, tag, old, (s1.vf (tag + 1)).gen.toNat, c.start, s1.time⟩
  let s2 := s1.updPart tag (fun p => { p with
    cert := some cert, scrubbing := false, assigned := p.assigned || c.assign,
    toff := if c.assign then 0 else p.toff, saved := if c.assign then none else p.saved })
  let s3 := s2.updHub (fun h => { h with scrubSeq := n, running := h.running.del tag })
  s3.raiseCause 9 (tag + 1) 0 (natWord n) 1

/-- What waited for a scrub: held register writes, the next scrub, held launch records. -/
def State.afterScrub (s : State) (tag : Nat) : State :=
  let ws := (s.vf (tag + 1)).heldWrites
  let s1 := ws.foldl (fun s w => s.later 1 w.act) (s.updVf (tag + 1) (fun v => { v with heldWrites := [] }))
  match s1.hub.scrubs.find? (fun c => c.tag == tag) with
  | some c => (s1.updHub (fun h => { h with scrubs := removeFirst (fun x => x.tag == tag) h.scrubs })).startScrub c
  | none => s1.wakePart tag

/-- SCRUB_COMPLETE: all clearing agents have reported, under bit 6 once no access uses a translation, and the hub has a place
for the cause entry (R402). -/
def execScrubComplete (tag : Nat) (s : State) : Out :=
  match s.hub.running.get? tag with
  | none => .next s
  | some c =>
    if (c.scope.getLsbD 6 && s.tlbBusy tag) || !s.causeRoom then .next (s.again (.scrubComplete tag))
    else .next ((((s.scrubScopes tag c.scope (s.scrubSeed c)).endScrub c).draw.2).afterScrub tag)

/-! ## Certificates (R406 to R408) -/

/-- The bytes 0x00 to 0x5F of a certificate; before any scrub of the partition they are free values. -/
def certBody (c : Option Cert) (nonce0 nonce1 : Word) (free : Nat) : List Byte :=
  match c with
  | some c => natBytes 1 4 ++ natBytes c.scope.toNat 4 ++ natBytes c.seq 8 ++ natBytes Config.serial.toNat 16 ++
      natBytes c.tag 8 ++ natBytes c.oldGen 8 ++ natBytes c.newGen 8 ++ natBytes c.start 8 ++ natBytes c.end_ 8 ++
      natBytes nonce0.toNat 8 ++ natBytes nonce1.toNat 8 ++ natBytes 0 8
  | none => ((rangeFrom 0 12).map (fun i => natBytes (Config.freeWord (free + i)).toNat 8)).flatten

/-! ### RSASSA-PSS (R407): the encoding of PKCS #1, over a salt and a key that the spec leaves open -/

/-- The number as n bytes, the highest first. -/
def bytesOfHigh (x n : Nat) : List Byte := (natBytes x n).reverse

/-- MGF1 with SHA-256: the blocks from counter c on, n of them. -/
def mgf1 (seed : List Byte) (c : Nat) : Nat → List Byte
  | 0 => []
  | n + 1 => sha256 (seed ++ bytesOfHigh c 4) ++ mgf1 seed (c + 1) n

/-- The encoded message of 384 bytes for a modulus of 3,072 bits: the hash and the salt are hashed behind 8 zero bytes; the padded
salt is masked, and its highest bit cleared. -/
def emsaPss (hash salt : List Byte) : List Byte :=
  let h := sha256 (List.replicate 8 0 ++ hash ++ salt)
  let db := List.replicate 318 0 ++ [1] ++ salt
  let masked := (db.zip (mgf1 h 0 11)).map (fun x => x.1 ^^^ x.2)
  ((masked.take 1).map (· &&& 0x7F)) ++ masked.drop 1 ++ h ++ [0xBC]

/-- b to the power e modulo m; n bounds the bits of e. -/
def modPow (m : Nat) : Nat → Nat → Nat → Nat
  | 0, _, _ => 1 % m
  | n + 1, b, e =>
    let t := modPow m n (b * b % m) (e / 2)
    if e % 2 = 1 then b * t % m else t

/-- The salt of a signature: 32 free bytes. -/
def signSalt (n : Nat) : List Byte := ((rangeFrom n 4).map (fun i => natBytes (Config.freeWord i).toNat 8)).flatten

/-- The signature of a message by the module attestation key: 384 bytes, big-endian. -/
def rsaSign (msg : List Byte) (n : Nat) : List Byte :=
  bytesOfHigh (modPow Config.rsaModulus 3072 (bytesHigh (emsaPss (sha256 msg) (signSalt n))) Config.rsaExponent) 384

/-- A whole certificate; n numbers the first of the free words of its salt. -/
def certBytes (body : List Byte) (n : Nat) : List Byte :=
  let signed := body ++ sha256 body
  signed ++ rsaSign signed n

/-! ### The write of a certificate (R408) -/

/-- The launch of a partition that waits for its certificate. -/
def State.certLaunch (s : State) (tag : Nat) : Option Launch := (s.part tag).launches.find? (fun l => l.certWait)

/-- The sequence number of a partition's latest scrub. -/
def Part.certSeq (p : Part) : Nat := (p.cert.map (·.seq)).getD 0

/-- What names a certificate: the scrub's sequence number and the launch's nonce. -/
def State.certName (s : State) (tag : Nat) (l : Launch) : Nat × Word × Word :=
  ((s.part tag).certSeq, natWord (l.dw 4), natWord (l.dw 5))

/-- CERTIFICATE_SIGNED: the body with the launch's nonce is signed; the last certificate written is reused where it has the same
SEQ and NONCE. -/
def execCertificateSigned (tag : Nat) (s : State) : Out :=
  match s.certLaunch tag with
  | none => .next s
  | some l =>
    let p := s.part tag
    let name := s.certName tag l
    let fresh := certBytes (certBody p.cert name.2.1 name.2.2 s.free) (s.free + 12)
    let x : List Byte × State :=
      match p.lastCert with
      | some (old, bs) => if old = name then (bs, s) else (fresh, { s with free := s.free + 16 })
      | none => (fresh, { s with free := s.free + 16 })
    .next ((x.2.updPart tag (fun p => { p with signing := some (l.lseq, x.1) })).later 8 (.certificateWriteDone tag))

/-- TOKEN names a place: a pointer of R400 that is not 0. -/
def tokenOk (t : Word) : Bool := t != 0 && t.toNat % 512 == 0 && decide (ptrTag t ≤ 1)

/-- The hub begins to write a certificate at TOKEN: a copy of one row with ACQ = 1 at system scope through the Geyser that serves
the address. -/
def State.startCert (s : State) (tag : Nat) (l : Launch) (bs : List Byte) : State :=
  let t := (s.vf (tag + 1)).token
  let r := s.fresh
  let c : Copy := {
    tid := 0, purpose := .cert l.lseq, core := 0, frame := 0, tag := BitVec.ofNat 10 tag, epoch := (s.part tag).epoch,
    src := ownWindow, dst := t, shape := natWord (1 + 512 * 2 ^ 16), sstr := 0, dstr := 0, mask := 0,
    flags := natWord (1 + 6 * 4), after := [], channel := s.steer tag (natBits t.toNat 0 56), rows := some [(0, 0)], data := bs }
  { r.2 with copies := r.2.copies.put r.1 c }.later 8 (.burstAdmission r.1)

/-- A failed write of a certificate: a cause entry of kind 11 (R408). -/
def State.certFails (s : State) (tag code : Nat) : State :=
  s.draw.2.raiseCause 11 (tag + 1) code (natWord (s.part tag).certSeq) 1

/-- The certificate has been written: CERTSEQ, a cause entry of kind 10, and the launch is dispensed. -/
def State.certWritten (s : State) (tag : Nat) (l : Launch) (bs : List Byte) : State :=
  let seq := (s.part tag).certSeq
  let s1 := s.updVf (tag + 1) (fun v => { v with certseq := natWord seq })
  let s2 := s1.updPart tag (fun p => { p with
    lastCert := some (s.certName tag l, bs), signing := none,
    launches := p.launches.map (fun x => if x.lseq == l.lseq then { x with certWait := false } else x) })
  (s2.raiseCause 10 (tag + 1) 0 (natWord seq) 1).dispenseAll tag l

/-- The copy that writes a certificate has ended: a failed write holds the launch, and is tried again at once where TOKEN has been
written meanwhile. -/
def State.certEnd (s : State) (tag id : Nat) (c : Copy) (l : Launch) (bs : List Byte) : State :=
  let st := (c.status.getD 0).toNat
  let s1 := { s with copies := s.copies.del id }
  if st = 0 then s1.certWritten tag l bs
  else
    let s2 := s1.certFails tag st
    if (s.vf (tag + 1)).token = c.dst then s2 else s2.later 8 (.certificateWriteDone tag)

/-- CERTIFICATE_WRITE_DONE: the signed certificate of the launch that waits is written at TOKEN, or its write has ended. No place
at TOKEN is a failed write. It waits while the partition is stopped, since it dispenses (R385), and for a place for its cause
entry (R402). -/
def execCertificateWriteDone (tag : Nat) (s : State) : Out :=
  match s.certLaunch tag, (s.part tag).signing with
  | some l, some (n, bs) =>
    if n ≠ l.lseq then .next s
    else if s.partStopped tag || !s.causeRoom then .next (s.again (.certificateWriteDone tag))
    else
      match s.certCopies tag with
      | (id, c) :: _ => .next (if c.ended && !s.lateOf id then s.certEnd tag id c l bs else s)
      | [] =>
        if tokenOk (s.vf (tag + 1)).token then .next (s.startCert tag l bs)
        else .next (s.certFails tag ((Config.freeWord s.free).toNat % 2 ^ 8))
  | _, _ => .next s

/-- TOKEN: the pointer at which certificates are written; a held certificate is tried again (R408). -/
def execToken (vf : Nat) (ptr : Word) (s : State) : Out :=
  let tag := vf - 1
  heldWrite s vf (.token vf ptr) (fun s =>
    let s1 := s.updVf vf (fun v => { v with token := ptr })
    if (s1.certLaunch tag).isSome && (s1.part tag).signing.isSome then s1.later 8 (.certificateWriteDone tag) else s1)

end Sys2Proof.Machine
end

