-- ==== Sys2Proof/Machine/Control.lean ====
section
/-! DEFINITION. Control flow (R235). The pc already holds the next bundle's address: an operation that is not a taken
transfer leaves it. -/

namespace Sys2Proof.Machine

/-- A transfer to a checked target: WINDOW with c.eval = the target when R33 refuses it, before any effect. -/
def transfer (s : State) (t : Word) (link : State → State) : Out :=
  if targetOk t then .next ((link s).jump t) else .next (s.trap { cause := 0x04, eval := t })

/-- A conditional transfer. -/
def branch (s : State) (taken : Bool) (t : Word) : Out := if taken then transfer s t id else .next s

def execBr (p : BitVec 4) (inv : Bool) (delta : BitVec 22) (head : BitVec 5) (s : State) : Out :=
  branch s ((s.pp p).getLsbD 0 != inv) (s.relTarget delta head)

/-- BRC tests all 16 bits. -/
def execBrc (p : BitVec 4) (inv : Bool) (delta : BitVec 22) (head : BitVec 5) (s : State) : Out :=
  branch s (((s.pp p) != 0) != inv) (s.relTarget delta head)

def execJmp (delta : BitVec 22) (head : BitVec 5) (s : State) : Out := transfer s (s.relTarget delta head) id

/-- JAL links the next bundle's address in g63. -/
def execJal (delta : BitVec 22) (head : BitVec 5) (s : State) : Out :=
  transfer s (s.relTarget delta head) (fun t => t.setG 63 s.cur.npc)

def execJr (ra : BitVec 6) (s : State) : Out := transfer s (s.pg ra) id

def execJalr (rd ra : BitVec 6) (s : State) : Out := transfer s (s.pg ra) (fun t => t.setG rd s.cur.npc)

/-- LOOP writes g[ra] − 1 to g[rd] and is taken when that is not zero. -/
def execLoop (rd ra : BitVec 6) (delta : BitVec 15) (head : BitVec 5) (s : State) : Out :=
  let n := s.pg ra - 1
  if n = 0 then .next (s.setG rd n) else transfer s (s.relTarget delta head) (fun t => t.setG rd n)

def execNop (s : State) : Out := .next s

end Sys2Proof.Machine
end

