-- ==== Sys2Proof/Machine/Scalar.lean ====
section
/-! DEFINITION. The integer, immediate, unary, predicate, bit-field, long-immediate and window groups (R224 to
R234). -/

namespace Sys2Proof.Machine

/-! ## Integer group (R225 to R228) -/

def execAdd (q : QFlags) (rd ra rb : BitVec 6) (s : State) : Out := g3 s q rd ra rb 1 resAdd noEff
def execSub (q : QFlags) (rd ra rb : BitVec 6) (s : State) : Out := g3 s q rd ra rb 1 resSub noEff
def execMul (q : QFlags) (rd ra rb : BitVec 6) (s : State) : Out := g3 s q rd ra rb 1 resMul noEff
def execMulh (q : QFlags) (rd ra rb : BitVec 6) (s : State) : Out := g3 s q rd ra rb 1 resMulh noEff
def execMulhu (q : QFlags) (rd ra rb : BitVec 6) (s : State) : Out := g3 s q rd ra rb 1 resMulhu noEff

/-- IDZ is set when the divisor is zero (R226). -/
def idz (_ b : Word) (s : State) : State := s.stickyIf (b == 0) bitIdz

def execDiv (q : QFlags) (rd ra rb : BitVec 6) (s : State) : Out := g3 s q rd ra rb 3 divS idz
def execDivu (q : QFlags) (rd ra rb : BitVec 6) (s : State) : Out := g3 s q rd ra rb 3 divU idz
def execRem (q : QFlags) (rd ra rb : BitVec 6) (s : State) : Out := g3 s q rd ra rb 3 remS idz
def execRemu (q : QFlags) (rd ra rb : BitVec 6) (s : State) : Out := g3 s q rd ra rb 3 remU idz
def execAnd (q : QFlags) (rd ra rb : BitVec 6) (s : State) : Out := g3 s q rd ra rb 1 resAnd noEff
def execOr (q : QFlags) (rd ra rb : BitVec 6) (s : State) : Out := g3 s q rd ra rb 1 resOr noEff
def execXor (q : QFlags) (rd ra rb : BitVec 6) (s : State) : Out := g3 s q rd ra rb 1 resXor noEff
def execShl (q : QFlags) (rd ra rb : BitVec 6) (s : State) : Out := g3 s q rd ra rb 1 resShl noEff
def execShr (q : QFlags) (rd ra rb : BitVec 6) (s : State) : Out := g3 s q rd ra rb 1 resShr noEff
def execSar (q : QFlags) (rd ra rb : BitVec 6) (s : State) : Out := g3 s q rd ra rb 1 resSar noEff
def execRol (q : QFlags) (rd ra rb : BitVec 6) (s : State) : Out := g3 s q rd ra rb 1 resRol noEff
def execMin (q : QFlags) (rd ra rb : BitVec 6) (s : State) : Out := g3 s q rd ra rb 1 minS noEff
def execMax (q : QFlags) (rd ra rb : BitVec 6) (s : State) : Out := g3 s q rd ra rb 1 maxS noEff
def execMinu (q : QFlags) (rd ra rb : BitVec 6) (s : State) : Out := g3 s q rd ra rb 1 minU noEff
def execMaxu (q : QFlags) (rd ra rb : BitVec 6) (s : State) : Out := g3 s q rd ra rb 1 maxU noEff

/-- ADC: pd takes the carry out, pd = 0 discards it (R227). -/
def execAdc (q : QFlags) (rd ra rb : BitVec 6) (pc pd : BitVec 4) (s : State) : Out :=
  g3 s q rd ra rb 1 (resAdc (s.carryIn pc)) fun a b t => t.setP pd (boolP (addCarry a b (s.carryIn pc)).2)

/-- SBC: pd takes the borrow out (R227). -/
def execSbc (q : QFlags) (rd ra rb : BitVec 6) (pc pd : BitVec 4) (s : State) : Out :=
  g3 s q rd ra rb 1 (resSbc (s.carryIn pc)) fun a b t => t.setP pd (boolP (subBorrow a b (s.carryIn pc)).2)

def execSel (q : QFlags) (rd ra rb : BitVec 6) (ps : BitVec 4) (inv : Bool) (s : State) : Out :=
  g3 s q rd ra rb 1 (resSel (s.selGuard ps inv)) noEff

/-- CMP writes gd and pd (R228). -/
def execCmp (q : QFlags) (rd ra rb : BitVec 6) (pd : BitVec 4) (c : Cond) (s : State) : Out :=
  g3 s q rd ra rb 1 (resCmp c) fun a b t => t.setP pd (boolP (condHolds c a b))

/-! ## Immediate group (R229, R230) -/

def execAddi (rd ra : BitVec 6) (imm : BitVec 20) (s : State) : Out := .next (s.setG rd (s.pg ra + sx imm))
def execAndi (rd ra : BitVec 6) (imm : BitVec 20) (s : State) : Out := .next (s.setG rd (s.pg ra &&& sx imm))
def execOri (rd ra : BitVec 6) (imm : BitVec 20) (s : State) : Out := .next (s.setG rd (s.pg ra ||| sx imm))
def execXori (rd ra : BitVec 6) (imm : BitVec 20) (s : State) : Out := .next (s.setG rd (s.pg ra ^^^ sx imm))
def execShli (rd ra : BitVec 6) (sh : BitVec 6) (s : State) : Out := .next (s.setG rd (s.pg ra <<< sh.toNat))
def execShri (rd ra : BitVec 6) (sh : BitVec 6) (s : State) : Out := .next (s.setG rd (s.pg ra >>> sh.toNat))
def execSari (rd ra : BitVec 6) (sh : BitVec 6) (s : State) : Out :=
  .next (s.setG rd ((s.pg ra).sshiftRight sh.toNat))

def execCmpi (rd ra : BitVec 6) (c : Cond) (pd : BitVec 4) (imm : BitVec 12) (s : State) : Out :=
  let b := condHolds c (s.pg ra) (sx imm)
  .next ((s.setG rd (boolWord b)).setP pd (boolP b))

/-- LEA forms a code address relative to its bundle; it is not checked (R230). -/
def execLea (rd : BitVec 6) (delta : BitVec 15) (head : BitVec 5) (s : State) : Out :=
  .next (s.setG rd (s.relTarget delta head))

/-! ## Unary and predicate group (R231) -/

def execClz (rd ra : BitVec 6) (s : State) : Out := .next (s.setG rd (natWord (clz64 (s.pg ra))))
def execCtz (rd ra : BitVec 6) (s : State) : Out := .next (s.setG rd (natWord (ctzN (s.pg ra) 64)))
def execPopc (rd ra : BitVec 6) (s : State) : Out := .next (s.setG rd (natWord (popN (s.pg ra) 64)))
def execMovpPredFromG (pd : BitVec 4) (ra : BitVec 6) (s : State) : Out := .next (s.setP pd ((s.pg ra).setWidth 16))
def execMovpGFromPred (rd : BitVec 6) (pa : BitVec 4) (s : State) : Out := .next (s.setG rd ((s.pp pa).setWidth 64))
def execMovpPredFromPred (pd pa : BitVec 4) (s : State) : Out := .next (s.setP pd (s.pp pa))
def execPand (pd pa pb : BitVec 4) (s : State) : Out := .next (s.setP pd (s.pp pa &&& s.pp pb))
def execPor (pd pa pb : BitVec 4) (s : State) : Out := .next (s.setP pd (s.pp pa ||| s.pp pb))
def execPxor (pd pa pb : BitVec 4) (s : State) : Out := .next (s.setP pd (s.pp pa ^^^ s.pp pb))
def execPnot (pd pa : BitVec 4) (s : State) : Out := .next (s.setP pd (~~~ s.pp pa))

/-! ## Bit fields and long immediates (R232, R233) -/

def execBfx (q : QFlags) (rd ra rb : BitVec 6) (len : BitVec 6) (sgn : Bool) (s : State) : Out :=
  g3 s q rd ra rb 1 (resBfx len sgn) noEff

/-- BFI reads gd as its old value; with QD set it raises ILLEGAL with c.eval 0. -/
def execBfi (q : QFlags) (rd ra rb : BitVec 6) (len : BitVec 6) (s : State) : Out :=
  if q.qd then .next (s.illegal 0) else g3 s q rd ra rb 1 (resBfi len (s.pg rd)) noEff

def execLi (rd : BitVec 6) (zx : Bool) (imm : BitVec 48) (s : State) : Out :=
  .next (s.setG rd (if zx then imm.setWidth 64 else sx imm))

def execLih (rd : BitVec 6) (imm : BitVec 16) (s : State) : Out :=
  .next (s.setG rd (imm ++ (s.pg rd).extractLsb' 0 48))

/-! ## Window group (R234) -/

/-- c.pcid of the issuing core. -/
def State.ownPcid (s : State) : Word := s.pcid s.curCore

/-- A view offset as a global pointer of the issuing cluster. -/
def State.viewPtr (s : State) (o : Word) : Word :=
  (s.ownPcid &&& ~~~ (0xF00000000 : Word)) ||| (((o >>> 17) &&& 0xF) <<< 32) ||| (o &&& 0x1FFFF)

/-- On a Geyser core the window operations raise ILLEGAL with c.eval 0. -/
def windowOp (s : State) (rd : BitVec 6) (x : Word) : Out :=
  if s.onGeyser then .next (s.illegal 0) else .next (s.setG rd x)

def execGptrOwn (rd ra : BitVec 6) (s : State) : Out := windowOp s rd (s.ownPcid ||| (s.pg ra &&& 0x1FFFF))
def execGptrBlk (rd ra : BitVec 6) (s : State) : Out := windowOp s rd (s.viewPtr (s.pg ra))
def execGptrIlv (rd ra : BitVec 6) (s : State) : Out := windowOp s rd (s.viewPtr (s.pg ra) ||| 0x80000000)

/-- Window code of a generic pointer. -/
def windowClass (a : Word) : Nat :=
  match natBits a.toNat 56 8 with
  | 0x00 => 0 | 0x01 => 1 | 0xF0 => 2 | 0xF1 => 3 | 0xF2 => 4
  | 0xF3 => if natBits a.toNat 17 14 ≠ 0 then 7 else if natBits a.toNat 31 1 = 0 then 5 else 6
  | _ => 7

def execGwinCls (rd ra : BitVec 6) (s : State) : Out := windowOp s rd (natWord (windowClass (s.pg ra)))

/-- The local pointer equivalent to a global pointer into the issuing core's cluster (R234). -/
def State.localPtr (s : State) (a : Word) : Word :=
  let x := a.toNat
  let own := s.ownPcid.toNat
  let o := natBits x 32 4 * 2 ^ 17 + x % 2 ^ 17
  if windowClass a < 5 ∨ windowClass a = 7 ∨ natBits x 36 20 ≠ natBits own 36 20 then a
  else if natBits x 31 1 = 1 then natWord (0xF2 * 2 ^ 56 + o)
  else if natBits x 32 4 = natBits own 32 4 then natWord (0xF0 * 2 ^ 56 + x % 2 ^ 17)
  else natWord (0xF1 * 2 ^ 56 + o)

def execGwinLoc (rd ra : BitVec 6) (s : State) : Out := windowOp s rd (s.localPtr (s.pg ra))

end Sys2Proof.Machine
end

