-- ==== Sys2Proof/Machine/Vector.lean ====
section
/-! DEFINITION. Lanes, guards and the integer operations of the vector unit (R268 to R279). -/

namespace Sys2Proof.Machine

/-! ## Lanes and guards (R268, R269) -/

/-- Lane k of a register. -/
def lane (bits : Nat) (v : VWord) (k : Nat) : Nat := natBits v.toNat (bits * k) bits

/-- The lane numbers of a width. -/
def laneIdx (bits : Nat) : List Nat := rangeFrom 0 (128 / bits)

/-- A register from its lanes, lowest first. -/
def ofLanes (bits : Nat) (l : List Nat) : VWord :=
  BitVec.ofNat 128 (l.foldr (fun x a => x % 2 ^ bits + 2 ^ bits * a) 0)

/-- A 32-bit lane. -/
def lane32 (v : VWord) (k : Nat) : BitVec 32 := v.extractLsb' (32 * k) 32

/-- A lane as a signed number. -/
def sInt (bits x : Nat) : Int := if 2 ^ (bits - 1) ≤ x then (x : Int) - 2 ^ bits else x

/-- A number modulo 2^bits. -/
def wrapInt (bits : Nat) (x : Int) : Nat := (x % 2 ^ bits).toNat

/-- The predicate bit of lane k: that of its lowest byte. -/
def pbit (bits : Nat) (p : PWord) (k : Nat) : Bool := p.getLsbD (bits * k / 8)

/-- The bits of the active lanes. -/
def guardMask (bits : Nat) (p : PWord) : VWord :=
  ofLanes bits ((laneIdx bits).map (fun k => if pbit bits p k then 2 ^ bits - 1 else 0))

/-- The new bits under a mask, the old ones elsewhere. -/
def blend (mask old new : VWord) : VWord := (old &&& ~~~mask) ||| (new &&& mask)

/-- The bits of a predicate that belong to lane k's bytes. -/
def lanePMask (bits k : Nat) : PWord := BitVec.ofNat 16 ((2 ^ (bits / 8) - 1) * 2 ^ (bits * k / 8))

/-- pset on every active lane: a lane's result bit in every bit of its bytes. -/
def psetLanes (bits : Nat) (gp old : PWord) (res : Nat → Bool) : PWord :=
  (laneIdx bits).foldl (fun p k =>
    if pbit bits gp k then (if res k then p ||| lanePMask bits k else p &&& ~~~lanePMask bits k) else p) old

/-- Writes the active lanes of a vector destination. -/
def State.vOut (s : State) (bits : Nat) (vd : BitVec 5) (gp : BitVec 4) (res : VWord) (lat : Nat := 1) : State :=
  s.setV vd (blend (guardMask bits (s.pp gp)) (s.pv vd) res) lat

/-- Writes the active lanes' bits of a predicate destination. -/
def State.pOut (s : State) (bits : Nat) (pd gp : BitVec 4) (res : Nat → Bool) (lat : Nat := 1) : State :=
  s.setP pd (psetLanes bits (s.pp gp) (s.pp pd) res) lat

/-- Sets a mask of sticky bits in c.estat together with a result of a latency in turns (R271): for a latency of one turn,
which no CRD of the bundle itself sees, now; for a longer one, in the result's ready cycle. -/
def State.flags (s : State) (m : BitVec 32) (lat : Nat := 1) : State :=
  if lat = 1 then s.upd (fun f => { f with estat := f.estat ||| m })
  else s.upd (fun f => { f with flagsDue := f.flagsDue ++ [(s.cycle + 8 * lat, m)] })

/-- The flags of the active lanes. -/
def activeFlags (bits : Nat) (gp : PWord) (fl : Nat → BitVec 32) : BitVec 32 :=
  (laneIdx bits).foldl (fun a k => if pbit bits gp k then a ||| fl k else a) 0

/-! ## Drawing (R182, R298, R299) -/

/-- The block the thread draws next. -/
def State.block (s : State) : VWord := mix s.cur.slot.rkey s.cur.slot.rctr

/-- The bundle holds a CWR of c.rctr, whose value stands (R299). -/
def State.writesRctr (s : State) : Bool := s.cur.ops.any (fun i => match i with | .cwr _ n => n == 0x051 | _ => false)

/-- The counter advances by one; RWRAP is set on the advance from all ones, with the result of the operation that draws (R271,
R299). -/
def State.advance (s : State) (lat : Nat := 1) : State :=
  if s.writesRctr then s
  else
    (if s.cur.slot.rctr = -1 then s.flags (stick bitRwrap) lat else s).updSlot s.cur.sk (fun r => { r with
      rctr := s.cur.slot.rctr + 1 })

/-- A stochastic operation draws one block. -/
def State.drawIf (s : State) (m : Rnd) (lat : Nat := 1) : State := if m = .rs then s.advance lat else s

/-! ## Lane-wise integer operations (R272) -/

/-- An operation on two lanes. -/
def map2 (bits : Nat) (f : Nat → Nat → Nat) (a b : VWord) : VWord :=
  ofLanes bits ((laneIdx bits).map (fun k => f (lane bits a k) (lane bits b k)))

/-- A sum or difference under a saturation. -/
def satLane (bits : Nat) (sat : Sat) (op : Int → Int → Int) (a b : Nat) : Nat :=
  match sat with
  | .wrap => wrapInt bits (op a b)
  | .signed => wrapInt bits (clampInt (intMin bits false) (intMax bits false) (op (sInt bits a) (sInt bits b)))
  | .unsigned => wrapInt bits (clampInt 0 (intMax bits true) (op a b))

/-- The value of a lane, signed or unsigned. -/
def laneVal (bits : Nat) (u : Bool) (x : Nat) : Int := if u then x else sInt bits x

/-- A V3 operation of two vector sources. -/
def v3 (s : State) (bits : Nat) (vd va vb : BitVec 5) (gp : BitVec 4) (f : Nat → Nat → Nat) : Out :=
  .next (s.vOut bits vd gp (map2 bits f (s.pv va) (s.pv vb)))

def execVadd (lt : LaneType) (sat : Sat) (vd va vb : BitVec 5) (gp : BitVec 4) (s : State) : Out :=
  v3 s lt.bits vd va vb gp (satLane lt.bits sat (· + ·))

def execVsub (lt : LaneType) (sat : Sat) (vd va vb : BitVec 5) (gp : BitVec 4) (s : State) : Out :=
  v3 s lt.bits vd va vb gp (satLane lt.bits sat (· - ·))

def execVmul (lt : LaneType) (vd va vb : BitVec 5) (gp : BitVec 4) (s : State) : Out :=
  v3 s lt.bits vd va vb gp (fun a b => a * b % 2 ^ lt.bits)

def execVmulh (lt : LaneType) (u : Bool) (vd va vb : BitVec 5) (gp : BitVec 4) (s : State) : Out :=
  v3 s lt.bits vd va vb gp (fun a b => wrapInt lt.bits (laneVal lt.bits u a * laneVal lt.bits u b / 2 ^ lt.bits))

def execVmin (lt : LaneType) (u : Bool) (vd va vb : BitVec 5) (gp : BitVec 4) (s : State) : Out :=
  v3 s lt.bits vd va vb gp (fun a b => if laneVal lt.bits u b < laneVal lt.bits u a then b else a)

def execVmax (lt : LaneType) (u : Bool) (vd va vb : BitVec 5) (gp : BitVec 4) (s : State) : Out :=
  v3 s lt.bits vd va vb gp (fun a b => if laneVal lt.bits u a < laneVal lt.bits u b then b else a)

def execVabs (lt : LaneType) (vd va : BitVec 5) (gp : BitVec 4) (s : State) : Out :=
  v3 s lt.bits vd va va gp (fun a _ => (sInt lt.bits a).natAbs)

/-- VAND, and VOR, VXOR, VMOV and VSEL likewise, acts on all bits of a lane, of an f19 lane too (DESIGN CHOICE, log entry 119: R272
and R276 give the plain lane, R184 lets an f19 operation ignore [12:0]). -/
def execVand (lt : LaneType) (vd va vb : BitVec 5) (gp : BitVec 4) (s : State) : Out :=
  .next (s.vOut lt.bits vd gp (s.pv va &&& s.pv vb))

def execVor (lt : LaneType) (vd va vb : BitVec 5) (gp : BitVec 4) (s : State) : Out :=
  .next (s.vOut lt.bits vd gp (s.pv va ||| s.pv vb))

def execVxor (lt : LaneType) (vd va vb : BitVec 5) (gp : BitVec 4) (s : State) : Out :=
  .next (s.vOut lt.bits vd gp (s.pv va ^^^ s.pv vb))

def execVshl (lt : LaneType) (vd va vb : BitVec 5) (gp : BitVec 4) (s : State) : Out :=
  v3 s lt.bits vd va vb gp (fun a b => a * 2 ^ (b % lt.bits) % 2 ^ lt.bits)

def execVshr (lt : LaneType) (vd va vb : BitVec 5) (gp : BitVec 4) (s : State) : Out :=
  v3 s lt.bits vd va vb gp (fun a b => a / 2 ^ (b % lt.bits))

def execVsar (lt : LaneType) (vd va vb : BitVec 5) (gp : BitVec 4) (s : State) : Out :=
  v3 s lt.bits vd va vb gp (fun a b => wrapInt lt.bits (sInt lt.bits a / 2 ^ (b % lt.bits)))

/-- VMOV moves all bits of a lane, of an f19 lane too (DESIGN CHOICE, log entry 119). -/
def execVmov (lt : LaneType) (vd va : BitVec 5) (gp : BitVec 4) (s : State) : Out :=
  .next (s.vOut lt.bits vd gp (s.pv va))

/-! ## Carries and multi-word products (R273, R274) -/

/-- Carry in of a lane: field 0 gives 0. -/
def State.laneCarry (s : State) (bits : Nat) (ps : BitVec 4) (k : Nat) : Nat :=
  if ps = 0 then 0 else (pbit bits (s.pp ps) k).toNat

/-- VADC and VSBC of one lane: the result and the carry or borrow out. -/
def adcLane (bits : Nat) (sub : Bool) (a b c : Nat) : Nat × Bool :=
  if sub then (wrapInt bits ((a : Int) - b - c), decide (a < b + c))
  else ((a + b + c) % 2 ^ bits, decide (2 ^ bits ≤ a + b + c))

/-- A lane-wise operation with a result and a predicate bit. -/
def vCarry (s : State) (bits : Nat) (vd : BitVec 5) (pd gp : BitVec 4) (f : Nat → Nat × Bool) (lat : Nat) : Out :=
  .next ((s.vOut bits vd gp (ofLanes bits ((laneIdx bits).map (fun k => (f k).1))) lat).pOut bits pd gp
    (fun k => (f k).2) lat)

def execVadc (lt : LaneType) (vd va vb : BitVec 5) (ps pd gp : BitVec 4) (s : State) : Out :=
  vCarry s lt.bits vd pd gp
    (fun k => adcLane lt.bits false (lane lt.bits (s.pv va) k) (lane lt.bits (s.pv vb) k) (s.laneCarry lt.bits ps k)) 1

def execVsbc (lt : LaneType) (vd va vb : BitVec 5) (ps pd gp : BitVec 4) (s : State) : Out :=
  vCarry s lt.bits vd pd gp
    (fun k => adcLane lt.bits true (lane lt.bits (s.pv va) k) (lane lt.bits (s.pv vb) k) (s.laneCarry lt.bits ps k)) 1

/-- VMADW of one lane. -/
def madwLane (bits : Nat) (hi : Bool) (a b c cin : Nat) : Nat × Bool :=
  let h := if hi then a * b / 2 ^ bits else a * b % 2 ^ bits
  let t := h + c + cin
  (t % 2 ^ bits, decide (2 ^ bits ≤ t))

def execVmadw (lt : LaneType) (hi : Bool) (vd va vb vc : BitVec 5) (ps pd gp : BitVec 4) (s : State) : Out :=
  vCarry s lt.bits vd pd gp
    (fun k => madwLane lt.bits hi (lane lt.bits (s.pv va) k) (lane lt.bits (s.pv vb) k) (lane lt.bits (s.pv vc) k)
      (s.laneCarry lt.bits ps k)) 2

/-! ## Comparison, selection, permutation, g registers (R275 to R278) -/

/-- Writes the mask of a comparison to vd, unless NV, and its bits to pd. -/
def vCmpOut (s : State) (bits : Nat) (nv : Bool) (vd : BitVec 5) (pd gp : BitVec 4) (res : Nat → Bool) : State :=
  let s1 :=
    if nv then s
    else s.vOut bits vd gp (ofLanes bits ((laneIdx bits).map (fun k => if res k then 2 ^ bits - 1 else 0)))
  s1.pOut bits pd gp res

def execVcmp (lt : LaneType) (c : Cond) (nv : Bool) (vd va vb : BitVec 5) (pd gp : BitVec 4) (s : State) : Out :=
  let n := lt.bits
  .next (vCmpOut s n nv vd pd gp
    (fun k => condHolds c (BitVec.ofNat n (lane n (s.pv va) k)) (BitVec.ofNat n (lane n (s.pv vb) k))))

def execVsel (lt : LaneType) (vd va vb : BitVec 5) (ps gp : BitVec 4) (s : State) : Out :=
  .next (s.vOut lt.bits vd gp (blend (guardMask lt.bits (s.pp ps)) (s.pv vb) (s.pv va)))

/-- One byte of VPERM. -/
def permByte (a : VWord) (x : Nat) : Nat := if 128 ≤ x then 0 else lane 8 a (x % 16)

def execVperm (vd va vb : BitVec 5) (gp : BitVec 4) (s : State) : Out :=
  .next (s.vOut 8 vd gp (ofLanes 8 ((laneIdx 8).map (fun k => permByte (s.pv va) (lane 8 (s.pv vb) k)))))

def execVsplat (lt : LaneType) (vd : BitVec 5) (g : BitVec 6) (gp : BitVec 4) (s : State) : Out :=
  .next (s.vOut lt.bits vd gp (ofLanes lt.bits ((laneIdx lt.bits).map (fun _ => (s.pg g).toNat))))

def execVextr (lt : LaneType) (sgn : Bool) (g : BitVec 6) (va : BitVec 5) (idx : BitVec 4) (s : State) : Out :=
  let x := natWord (lane lt.bits (s.pv va) idx.toNat)
  .next (s.setG g (if sgn then sextFrom x lt.bits else x))

def execVins (lt : LaneType) (vd : BitVec 5) (g : BitVec 6) (idx : BitVec 4) (gp : BitVec 4) (s : State) : Out :=
  let n := lt.bits
  let res := ofLanes n ((laneIdx n).map (fun k => if k = idx.toNat then (s.pg g).toNat else lane n (s.pv vd) k))
  .next (s.vOut n vd gp res)

/-! ## Reduction (R279) -/

/-- The identity that stands in for an inactive lane. -/
def redIdentity (op : RedOp) (n : Nat) : Nat :=
  match op with
  | .add | .maxu | .or | .xor => 0
  | .min => 2 ^ (n - 1) - 1
  | .max => 2 ^ (n - 1)
  | .minu | .and => 2 ^ n - 1
  | .fadd => 0x80000000
  | .fmin => 0x7F800000
  | .fmax => 0xFF800000

/-- One step of an integer reduction. -/
def redStep (op : RedOp) (n a b : Nat) : Nat :=
  match op with
  | .add => (a + b) % 2 ^ n
  | .min => if sInt n b < sInt n a then b else a
  | .max => if sInt n a < sInt n b then b else a
  | .minu => Nat.min a b
  | .maxu => Nat.max a b
  | .and => a &&& b
  | .or => a ||| b
  | .xor => a ^^^ b
  | _ => a

/-- One step of a float reduction, with slot k of the block. -/
def redStepF (op : RedOp) (f19 : Bool) (m : Rnd) (blk : VWord) (k : Nat) (a b : BitVec 32) : FRes :=
  match op with
  | .fadd => fAdd f19 m a b (drawAt blk k)
  | .fmin => fMinMax false a b
  | _ => fMinMax true a b

/-- The tree (l0 ⊕ l1) ⊕ (l2 ⊕ l3). -/
def redTree (op : RedOp) (f19 : Bool) (m : Rnd) (blk : VWord) (l : Nat → BitVec 32) : FRes :=
  let x := redStepF op f19 m blk 0 (l 0) (l 1)
  let y := redStepF op f19 m blk 1 (l 2) (l 3)
  let z := redStepF op f19 m blk 2 x.1 y.1
  (z.1, x.2 ||| y.2 ||| z.2)

def execVred (lt : LaneType) (op : RedOp) (m : Rnd) (vd va : BitVec 5) (gp : BitVec 4) (s : State) : Out :=
  let n := lt.bits
  let id := redIdentity op n
  let src (k : Nat) : Nat := if pbit n (s.pp gp) k then lane n (s.pv va) k else id
  if lt.isFloat then
    let f19 := lt == .f19
    let r := redTree op f19 m s.block (fun k => fRead f19 (BitVec.ofNat 32 (src k)))
    .next (((s.setV vd (r.1.setWidth 128) 2).flags r.2 2).drawIf m 2)
  else
    let r := ((laneIdx n).map src).foldl (redStep op n) id
    .next ((s.setV vd (BitVec.ofNat 128 r) 2))

end Sys2Proof.Machine
end

