-- ==== Sys2Proof/Machine/VectorConvert.lean ====
section
/-! DEFINITION. Conversions, codes, plane records, deterministic sums and random numbers of the vector unit (R284 to
R299). -/

namespace Sys2Proof.Machine

/-! ## VCVT (R284) -/

/-- One element from a source type to a destination type: its bits and the sticky bits it sets. -/
def convElem (dst src : LaneType) (m : Rnd) (su du sat : Bool) (x r : Nat) : Nat × BitVec 32 :=
  if src.isInt then
    let v := laneVal src.bits su x
    if dst.isInt then
      if sat then
        let c := clampInt (intMin dst.bits du) (intMax dst.bits du) v
        (wrapInt dst.bits c, stickIf (c != v) bitSatc)
      else (wrapInt dst.bits v, 0)
    else
      let y := intToF (dst == .f19) m v r
      (y.1.toNat, y.2)
  else
    let a := fRead (src == .f19) (BitVec.ofNat 32 x)
    if dst.isInt then
      let y := fToInt m dst.bits du a r
      (wrapInt dst.bits y.1, y.2)
    else
      let y := fToF (dst == .f19) m a r
      (y.1.toNat, y.2)

def execVcvt (dst src : LaneType) (m : Rnd) (su du sat : Bool) (part : BitVec 2) (vd va : BitVec 5) (gp : BitVec 4)
    (s : State) : Out :=
  let dn := dst.bits
  let sn := src.bits
  let cnt := Nat.min dst.lanes src.lanes
  let base := part.toNat * cnt
  let srcLane (j : Nat) : Nat := if sn < dn then base + j else j
  let dstLane (j : Nat) : Nat := if dn < sn then base + j else j
  -- the element of a destination lane, if one is written there
  let elem (k : Nat) : Option Nat := (rangeFrom 0 cnt).find? (fun j => dstLane j == k)
  let y (k : Nat) : Nat × BitVec 32 :=
    match elem k with
    | some j => convElem dst src m su du sat (lane sn (s.pv va) (srcLane j)) (drawAt s.block j)
    | none => (lane dn (s.pv vd) k, 0)
  .next (((s.vOut dn vd gp (ofLanes dn ((laneIdx dn).map (fun k => (y k).1)))).flags
    (activeFlags dn (s.pp gp) (fun k => (y k).2))).drawIf m)

/-! ## VDEC and VENC (R285 to R287) -/

/-- The descriptor that c.fmta or c.fmtb names in the own pool, or c.eval of the ILLEGAL: the register as it stands, bits above an
own-pool offset included (DESIGN CHOICE, log entry 118) (R188, R285). -/
def descOf (s : State) (b : Bool) : Except Word Desc :=
  let off := (if b then s.cur.pre.fmtb else s.cur.pre.fmta).toNat
  let k := s.curCore
  let w (i : Nat) : Nat := (off + i) % 2 ^ 17
  if off % 8 ≠ 0 ∨ s.inGap k (w 0) ∨ s.inGap k (w 8) then .error (natWord off)
  else
    match parseDesc (s.poolRead k (s.reduce k (w 0)) 8) (s.poolRead k (s.reduce k (w 8)) 8) with
    | some d => .ok d
    | none => .error (natWord off)

/-- The checks that VDEC and VENC share: on a Geyser core, the descriptor, then the group (R271, R285, R286). -/
def codeDesc (s : State) (i : Instr) (b : Bool) (g : BitVec 5) : Except Word Desc :=
  if s.onGeyser then .error i.tail
  else
    match descOf s b with
    | .error e => .error e
    | .ok d => if 4 * g.toNat + 3 < 128 / d.w then .ok d else .error i.tail

def execVdec (b : Bool) (g : BitVec 5) (x : BitVec 4) (vd va vc : BitVec 5) (gp : BitVec 4) (s : State) : Out :=
  match codeDesc s (.vdec b g x vd va vc gp) b g with
  | .error e => .next (s.illegal e)
  | .ok d =>
    let c := s.core s.curCore
    let r (j : Nat) : FRes := codeDecode c d (lane d.w (s.pv va) (4 * g.toNat + j)) (lane 8 (s.pv vc) x.toNat)
    .next ((s.vOut 32 vd gp (ofLanes 32 ((laneIdx 32).map (fun k => (r k).1.toNat)))).flags
      (activeFlags 32 (s.pp gp) (fun k => (r k).2)))

def execVenc (f19 : Bool) (b : Bool) (g : BitVec 5) (x : BitVec 4) (vd va vb vc : BitVec 5) (s : State) : Out :=
  match codeDesc s (.venc f19 b g x vd va vb vc) b g with
  | .error e => .next (s.illegal e)
  | .ok d =>
    let c := s.core s.curCore
    let free := s.draw
    let r (j : Nat) : Nat × BitVec 32 :=
      codeEncode c d (fRead f19 (lane32 (s.pv va) j)) (lane 8 (s.pv vc) x.toNat) free.1
    let res := (laneIdx d.w).map (fun p =>
      if 4 * g.toNat ≤ p ∧ p < 4 * g.toNat + 4 then (r (p - 4 * g.toNat)).1 else lane d.w (s.pv vb) p)
    .next ((free.2.setV vd (ofLanes d.w res) 2).flags ((r 0).2 ||| (r 1).2 ||| (r 2).2 ||| (r 3).2) 2)

/-! ## VPLANE (R288 to R292) -/

/-- Scan state: largest and smallest finite element, flags. -/
def scanLane (st : BitVec 32 × BitVec 32 × BitVec 32) (x : BitVec 32) : BitVec 32 × BitVec 32 × BitVec 32 :=
  if f32NaN x then (st.1, st.2.1, st.2.2 ||| 1)
  else if f32Inf x then (st.1, st.2.1, st.2.2 ||| (if f32Neg x then 4 else 2))
  else (if f32Ord st.1 < f32Ord x then x else st.1, if f32Ord x < f32Ord st.2.1 then x else st.2.1, st.2.2)

def execVplaneScan (f19 : Bool) (_m : Rnd) (vd va vc : BitVec 5) (s : State) : Out :=
  let xs := (rangeFrom 0 4).map (s.pv va |> fun v => fun k => fRead f19 (lane32 v k))
  let st := xs.foldl scanLane (lane32 (s.pv vc) 0, lane32 (s.pv vc) 1, lane32 (s.pv vc) 2)
  .next ((s.setV vd ((0 : BitVec 32) ++ st.2.2 ++ st.2.1 ++ st.1) 2).flags (stickIf (xs.any f32SNaN) bitIv) 2)

/-- The exponent of vplane_fix, raised while an extreme lies outside the range. -/
def fixExp (w : Nat) (hi lo : BitVec 32) : Nat → Nat → Nat
  | 0, e => e
  | n + 1, e =>
    let k : Int := (e : Int) - 127 - ((w : Int) - 2)
    if (decide ((2 ^ (w - 1) : Int) - 1 < (rneAt (f32Int hi) k).1) ||
        decide ((rneAt (f32Int lo) k).1 < -(2 ^ (w - 1) : Int))) && decide (e < 255) then fixExp w hi lo n (e + 1)
    else e

/-- vplane_fix: the header of a class-1 record from the scan state. -/
def planeFix (v : VWord) (w : Nat) : Nat :=
  let hi := lane32 v 0
  let lo := lane32 v 1
  let f := lane32 v 2
  let mx := Nat.max (f32Mag hi) (f32Mag lo)
  let e0 : Int := if mx = 0 then 0 else (mx.log2 : Int) - 149 + 127
  let e := fixExp w hi lo 256 (clampInt 0 255 e0).toNat
  let k : Int := (e : Int) - 127 - ((w : Int) - 2)
  let sh := (rneAt (f32Int hi) k).1
  let sl := (rneAt (f32Int lo) k).1
  let pinf := f.getLsbD 1 || decide ((2 ^ (w - 1) : Int) - 1 < sh)
  let ninf := f.getLsbD 2 || decide (sl < -(2 ^ (w - 1) : Int))
  let nan := f.getLsbD 0
  let zero := sh == 0 && sl == 0 && !(nan || pinf || ninf)
  e + w * 2 ^ 8 + nan.toNat * 2 ^ 16 + pinf.toNat * 2 ^ 17 + ninf.toNat * 2 ^ 18 + zero.toNat * 2 ^ 19 + 2 ^ 20 +
    2 ^ 21 + (pinf || ninf).toNat * 2 ^ 24

def execVplaneFix (_m : Rnd) (w : BitVec 5) (vd va : BitVec 5) (s : State) : Out :=
  .next (s.setV vd (BitVec.ofNat 128 (planeFix (s.pv va) w.toNat)) 2)

/-- vplane_align of one lane: its byte and the sticky bits it sets. -/
def alignLane (h : Nat) (kind : ByteKind) (x : BitVec 32) : Nat × BitVec 32 :=
  let y := alignElem (hW h) (hE h) x
  let out := f32Fin x && !inRange (hW h) y.1
  let sv : Int := if out then 0 else y.1
  let inf := f32Inf x || out
  let z := f32Fin x && sv == 0 && !inf
  let b := wrapInt 16 sv
  (match kind with
   | .lo => b % 256
   | .hi => b / 256
   | .spec => z.toNat + 2 * inf.toNat + 4 * (inf && f32Neg x).toNat,
   stickIf (y.2 || out) bitNx ||| stickIf out bitOf ||| stickIf (f32Fin x && !f32Zero x && y.1 == 0) bitUf |||
    stickIf (f32SNaN x) bitIv)

def execVplaneAlign (f19 : Bool) (_m : Rnd) (q : BitVec 2) (kind : ByteKind) (vd va vb vc : BitVec 5) (s : State) :
    Out :=
  let h := lane 64 (s.pv vc) 0
  if hdrOk h && hCls h == 1 then
    let r (j : Nat) := alignLane h kind (fRead f19 (lane32 (s.pv va) j))
    let res := (laneIdx 8).map (fun p => if p / 4 = q.toNat then (r (p % 4)).1 else lane 8 (s.pv vb) p)
    .next ((s.setV vd (ofLanes 8 res) 2).flags ((r 0).2 ||| (r 1).2 ||| (r 2).2 ||| (r 3).2) 2)
  else .next (s.illegal (natWord h))

def execVplaneTr (_m : Rnd) (q : BitVec 2) (vd va vb vc : BitVec 5) (s : State) : Out :=
  let bytes := [s.pv va, s.pv vb, s.pv vc].flatMap (fun v => (laneIdx 8).map (lane 8 v))
  let plane (b : Nat) : Nat := planeOf (bytes.map (fun x => bitN x b == 1))
  .next (s.setV vd (BitVec.ofNat 128 (plane (2 * q.toNat) + plane (2 * q.toNat + 1) * 2 ^ 64)) 2)

/-! ## VUNPL (R293 to R295) -/

/-- A lane with the bits of a plane pair replaced. -/
def gatherLane (va : VWord) (e lo x : Nat) : Nat :=
  x - bitN x lo * 2 ^ lo - bitN x (lo + 1) * 2 ^ (lo + 1) +
    (va.getLsbD e).toNat * 2 ^ lo + (va.getLsbD (64 + e)).toNat * 2 ^ (lo + 1)

def execVunplGather (i16 : Bool) (g : BitVec 3) (r : BitVec 2) (h : Bool) (vd va vb : BitVec 5) (s : State) : Out :=
  let n := if i16 then 16 else 8
  let lo := 8 * h.toNat + 2 * r.toNat
  let res := (laneIdx n).map (fun k => gatherLane (s.pv va) ((128 / n) * g.toNat + k) lo (lane n (s.pv vb) k))
  .next (s.setV vd (ofLanes n res) 2)

/-- vunpl_val of one lane. -/
def unplLane (h : Nat) (x sp : Nat) : FRes :=
  let v := signedOf (hSgn h) (hW h) (x % 2 ^ hW h)
  if hCls h = 2 then (if x % 2 = 1 then 0x3F800000 else 0, 0)
  else if hCls h = 0 then intToF false .rne v 0
  else if hSpec h && bitN sp 1 == 1 then (f32InfOf (bitN sp 2 == 1), 0)
  else if hSpec h && v == 0 && bitN sp 0 == 0 then (qNaN, 0)
  else scaleToF v ((hE h : Int) - 127 - ((hW h : Int) - 2))

def execVunplVal (i16 : Bool) (q : BitVec 2) (vd va vb vc : BitVec 5) (s : State) : Out :=
  let n := if i16 then 16 else 8
  let h := lane 64 (s.pv vc) 0
  if hdrOk h then
    let r (j : Nat) := unplLane h (lane n (s.pv va) (4 * q.toNat + j)) (lane n (s.pv vb) (4 * q.toNat + j))
    .next ((s.setV vd (ofLanes 32 ((laneIdx 32).map (fun k => (r k).1.toNat))) 2).flags
      ((r 0).2 ||| (r 1).2 ||| (r 2).2 ||| (r 3).2 ||| stickIf (hNan h) bitIv) 2)
  else .next (s.illegal (natWord h))

/-! ## VQUANT (R198, R296) -/

/-- The forward direction of one element. -/
def quantElem (h emax : Nat) (x : BitVec 32) : Int × BitVec 32 :=
  if f32Fin x then
    let y := (rneAt (f32Int x) ((emax : Int) - 127 - 62 + (h : Int))).1
    let c := clampInt (-(2 ^ 63 - 1)) (2 ^ 63 - 1) y
    (c, stickIf (c != y) bitSatc)
  else (0, stick bitIv)

def execVquant (half : Bool) (h : BitVec 5) (vd va vc : BitVec 5) (gp : BitVec 4) (s : State) : Out :=
  let emax := lane 8 (s.pv vc) 0
  let r (j : Nat) := quantElem h.toNat emax (lane32 (s.pv va) (2 * half.toNat + j))
  .next ((s.vOut 64 vd gp (ofLanes 64 ((laneIdx 64).map (fun j => wrapInt 64 (r j).1)))).flags
    (activeFlags 64 (s.pp gp) (fun j => (r j).2)))

/-- Lane k is one of the two lanes that the inverse direction writes. -/
def quantLane (half : Bool) (k : Nat) : Bool := k / 2 == half.toNat

def execVquantInv (half : Bool) (h : BitVec 5) (vd va vb vc : BitVec 5) (gp : BitVec 4) (s : State) : Out :=
  let emax := lane 8 (s.pv vc) 0
  let r (k : Nat) : FRes :=
    if quantLane half k then
      scaleToF (sInt 64 (lane 64 (s.pv va) (k % 2))) ((emax : Int) - 127 - 62 + (h.toNat : Int))
    else (lane32 (s.pv vb) k, 0)
  -- the guard acts on the lanes written
  let act := guardMask 32 (s.pp gp) ||| ofLanes 32 ((laneIdx 32).map (fun k =>
    if quantLane half k then 0 else 2 ^ 32 - 1))
  let res := ofLanes 32 ((laneIdx 32).map (fun k => (r k).1.toNat))
  .next ((s.setV vd (blend act (s.pv vd) res)).flags (activeFlags 32 (s.pp gp) (fun k => (r k).2)))

/-! ## VRAND (R298) -/

def execVrand (lt : LaneType) (vd : BitVec 5) (gp : BitVec 4) (s : State) : Out :=
  .next ((s.vOut lt.bits vd gp s.block).advance)

end Sys2Proof.Machine
end

