-- ==== Sys2Proof/Machine/Sfu.lean ====
section
/-! DEFINITION. The functions of VSFU (R283), correctly rounded: roots are exact; the transcendental functions are
enclosed in an interval of 512 fraction bits, whose two ends round alike (log entry 12). -/

namespace Sys2Proof.Machine

/-- Fraction bits of the intervals. -/
def sfuP : Nat := 512

/-- The integer square root of x below 4^n, bit by bit. -/
def isqrtGo (x : Nat) : Nat → Nat → Nat
  | 0, s => s
  | n + 1, s => isqrtGo x n (if (s + 2 ^ n) * (s + 2 ^ n) ≤ x then s + 2 ^ n else s)

/-- The integer square root. -/
def isqrt (x : Nat) : Nat := isqrtGo x (x.log2 / 2 + 1) 0

/-- Rounds the square root of x / 4^200: no rounding boundary lies strictly between two integers over 2^200. -/
def rootF (f19 : Bool) (m : Rnd) (x r : Nat) : FRes :=
  let s := isqrt x
  if s * s = x then packF f19 m false s (2 ^ 200) r else packF f19 m false (2 * s + 1) (2 ^ 201) r

/-- Σ 2^p / (k 2^k), k from 1: ln 2 from below, with an error below n + 2 units. -/
def ln2Lo : Nat := ((rangeFrom 1 sfuP).map (fun k => 2 ^ sfuP / (k * 2 ^ k))).sum

/-- An enclosure of ln 2. -/
def ln2 : Nat × Nat := (ln2Lo, ln2Lo + sfuP + 2)

/-- 2^p · atan(1/x) within 256 units. -/
def atanInv (x : Nat) : Int :=
  ((rangeFrom 0 120).map (fun j =>
    let t : Int := (2 ^ sfuP / ((2 * j + 1) * x ^ (2 * j + 1)) : Nat)
    if j % 2 = 0 then t else -t)).sum

/-- 2^p · π within 2^16 units (Machin's formula). -/
def piFix : Int := 16 * atanInv 5 - 4 * atanInv 239

/-- Terms of the exponential series of y / 2^p from below. -/
def expGo (y : Nat) : Nat → Nat → Nat → Nat
  | 0, _, _ => 0
  | n + 1, k, t => t + expGo y n (k + 1) (t * y / (2 ^ sfuP * k))

/-- An enclosure of 2^p · exp(y / 2^p) for an enclosure of y, y below 2^p. -/
def expFix (lo hi : Nat) : Nat × Nat := (expGo lo 120 1 (2 ^ sfuP), expGo hi 120 1 (2 ^ sfuP) + 2 ^ 16)

/-- Squares an enclosure n times. -/
def squareGo : Nat → Nat × Nat → Nat × Nat
  | 0, x => x
  | n + 1, x => squareGo n (x.1 * x.1 / 2 ^ sfuP, x.2 * x.2 / 2 ^ sfuP + 1)

/-- Terms of the series of ln((1 + z) / (1 − z)) / 2 with z = num / den, from below. -/
def atanhLo (num den : Nat) : Nat :=
  ((rangeFrom 0 180).map (fun j => num ^ (2 * j + 1) * 2 ^ sfuP / (den ^ (2 * j + 1) * (2 * j + 1)))).sum

/-- Terms of the sine series of y / 2^p. -/
def sinGo (y : Int) : Nat → Nat → Int → Int
  | 0, _, _ => 0
  | n + 1, k, t => t + sinGo y n (k + 2) (-(t * y / 2 ^ sfuP * y / 2 ^ sfuP) / ((k + 1) * (k + 2) : Nat))

/-- An enclosure of 2^p · sin(π x / 2^p) for 0 ≤ x ≤ 2^(p − 1). -/
def sinPiFix (x : Nat) : Nat × Nat :=
  let s := (sinGo (piFix * x / 2 ^ sfuP) 80 1 (piFix * x / 2 ^ sfuP)).toNat
  (s - 2 ^ 24, s + 2 ^ 24)

/-- Rounds an enclosed value ± [lo, hi] / den. Rounding is monotonic, so the result is that of one of the two ends: where
they differ, the exact function's (log entry 12). -/
def packInterval (f19 : Bool) (m : Rnd) (fn x : Nat) (neg : Bool) (b : Nat × Nat) (den r : Nat) : FRes :=
  let l := packF f19 m neg b.1 den r
  let h := packF f19 m neg b.2 den r
  if l = h then l else if Config.sfuTie fn x then h else l

/-- 2^x of a finite value. -/
def sfuExp2 (f19 : Bool) (m : Rnd) (x : BitVec 32) (r : Nat) : FRes :=
  let v := f32Int x
  let n := v / 2 ^ 149
  let f := (v % 2 ^ 149).toNat
  if n < -300 then packF f19 m false 1 (2 ^ 300) r
  else if 300 < n then packF f19 m false (2 ^ 300) 1 r
  else
    let up := n.toNat
    let down := (-n).toNat
    if f = 0 then packF f19 m false (2 ^ up) (2 ^ down) r
    else
      let e := expFix (f * ln2.1 / 2 ^ 149) (f * ln2.2 / 2 ^ 149 + 1)
      packInterval f19 m 3 x.toNat false (e.1 * 2 ^ up, e.2 * 2 ^ up) (2 ^ (sfuP + down)) r

/-- log2 of a positive finite value. -/
def sfuLog2 (f19 : Bool) (m : Rnd) (x : BitVec 32) (r : Nat) : FRes :=
  let mag := f32Mag x
  let l := mag.log2
  let k : Int := (l : Int) - 149
  if mag = 2 ^ l then packUnits f19 m false k 0 r
  else
    -- a value has at most 24 significant bits
    let c := 2 ^ (l - 23)
    let a := atanhLo ((mag - 2 ^ l) / c) ((mag + 2 ^ l) / c)
    let lo : Int := 2 * a * 2 ^ sfuP / ln2.2
    let hi : Int := (2 * (a + 1024)) * 2 ^ sfuP / ln2.1 + 1
    let x0 := k * 2 ^ sfuP + lo
    let x1 := k * 2 ^ sfuP + hi
    if 0 ≤ k then packInterval f19 m 4 x.toNat false (x0.toNat, x1.toNat) (2 ^ sfuP) r
    else packInterval f19 m 4 x.toNat true ((-x1).toNat, (-x0).toNat) (2 ^ sfuP) r

/-- sin(π x) of a finite value. -/
def sfuSinPi (f19 : Bool) (m : Rnd) (x : BitVec 32) (r : Nat) : FRes :=
  let a := f32Mag x % 2 ^ 150
  let half := decide (2 ^ 149 ≤ a)
  let neg := f32Neg x != half
  let b := if half then a - 2 ^ 149 else a
  let c := if 2 ^ 148 < b then 2 ^ 149 - b else b
  if c = 0 then (f32ZeroOf (f32Neg x), 0)
  else if c = 2 ^ 148 then packF f19 m neg 1 1 r
  else packInterval f19 m 5 x.toNat neg (sinPiFix (c * 2 ^ (sfuP - 149))) (2 ^ sfuP) r

/-- cos(π x) of a finite value. -/
def sfuCosPi (f19 : Bool) (m : Rnd) (x : BitVec 32) (r : Nat) : FRes :=
  let a := f32Mag x % 2 ^ 150
  let b := if 2 ^ 149 < a then 2 ^ 150 - a else a
  let neg := decide (2 ^ 148 < b)
  let c := if neg then 2 ^ 149 - b else b
  if c = 2 ^ 148 then (0, 0)
  else if c = 0 then packF f19 m neg 1 1 r
  else packInterval f19 m 6 x.toNat neg (sinPiFix ((2 ^ 148 - c) * 2 ^ (sfuP - 149))) (2 ^ sfuP) r

/-- tanh of a finite non-zero value. For tiny x the value lies next below x, for large x next below 1, with no
rounding boundary between. -/
def sfuTanh (f19 : Bool) (m : Rnd) (x : BitVec 32) (r : Nat) : FRes :=
  let mag := f32Mag x
  let neg := f32Neg x
  if mag < 2 ^ 109 then packF f19 m neg (mag * (2 ^ 80 - 1)) (2 ^ 229) r
  else if 2 ^ 155 ≤ mag then packF f19 m neg (2 ^ 100 - 1) (2 ^ 100) r
  else
    let y := mag * 2 ^ (sfuP - 149) / 128
    let e := squareGo 8 (expFix y (y + 1))
    let one := 2 ^ sfuP
    let lo := (e.1 - one) * one / (e.1 + one)
    let hi := (e.2 - one) * one / (e.2 + one) + 1
    packInterval f19 m 7 x.toNat neg (lo, hi) one r

/-- A function of VSFU (R283). -/
def sfu (f19 : Bool) (m : Rnd) (fn : SfuFn) (x : BitVec 32) (r : Nat) : FRes :=
  let neg := f32Neg x
  let mag := f32Mag x
  if f32NaN x then nanRes (f32SNaN x)
  else
    match fn with
    | .rcp =>
      if f32Zero x then (f32InfOf neg, stick bitDz)
      else if f32Inf x then (f32ZeroOf neg, 0)
      else packF f19 m neg (2 ^ 149) mag r
    | .rsq =>
      if f32Zero x then (f32InfOf neg, stick bitDz)
      else if neg then nanRes true
      else if f32Inf x then (0, 0)
      else
        -- y = 2^149 / mag; where the division is inexact, so is the root
        let n := 2 ^ 549 / mag
        if 2 ^ 549 % mag = 0 then rootF f19 m n r
        else packF f19 m false (2 * isqrt n + 1) (2 ^ 201) r
    | .sqrt =>
      if f32Zero x then (x, 0)
      else if neg then nanRes true
      else if f32Inf x then (x, 0)
      else rootF f19 m (mag * 2 ^ 251) r
    | .exp2 => if f32Inf x then (if neg then 0 else x, 0) else sfuExp2 f19 m x r
    | .log2 =>
      if f32Zero x then (f32InfOf true, stick bitDz)
      else if neg then nanRes true
      else if f32Inf x then (x, 0)
      else sfuLog2 f19 m x r
    | .sinpi => if f32Inf x then nanRes true else sfuSinPi f19 m x r
    | .cospi => if f32Inf x then nanRes true else sfuCosPi f19 m x r
    | .tanh =>
      if f32Inf x then (if neg then 0xBF800000 else 0x3F800000, 0)
      else if f32Zero x then (x, 0)
      else sfuTanh f19 m x r

end Sys2Proof.Machine
end

