-- ==== Sys2Proof/Machine/VectorFloat.lean ====
section
/-! DEFINITION. The float operations of the vector unit (R280 to R283). -/

namespace Sys2Proof.Machine

/-- A float operation on the four lanes: results, flags of the active lanes, and the draw. -/
def vFloat (s : State) (m : Rnd) (vd : BitVec 5) (gp : BitVec 4) (f : Nat → FRes) (lat : Nat := 1) : Out :=
  let res := ofLanes 32 ((laneIdx 32).map (fun k => (f k).1.toNat))
  .next (((s.vOut 32 vd gp res lat).flags (activeFlags 32 (s.pp gp) (fun k => (f k).2)) lat).drawIf m lat)

/-- Lane k of a source of a float operation. -/
def State.fLane (s : State) (f19 : Bool) (r : BitVec 5) (k : Nat) : BitVec 32 := fRead f19 (lane32 (s.pv r) k)

def execVfadd (f19 : Bool) (m : Rnd) (vd va vb : BitVec 5) (gp : BitVec 4) (s : State) : Out :=
  vFloat s m vd gp (fun k => fAdd f19 m (s.fLane f19 va k) (s.fLane f19 vb k) (drawAt s.block k))

def execVfsub (f19 : Bool) (m : Rnd) (vd va vb : BitVec 5) (gp : BitVec 4) (s : State) : Out :=
  vFloat s m vd gp (fun k => fAdd f19 m (s.fLane f19 va k) (fNeg (s.fLane f19 vb k)) (drawAt s.block k))

def execVfmul (f19 : Bool) (m : Rnd) (vd va vb : BitVec 5) (gp : BitVec 4) (s : State) : Out :=
  vFloat s m vd gp (fun k => fMul f19 m (s.fLane f19 va k) (s.fLane f19 vb k) (drawAt s.block k))

def execVfma (f19 : Bool) (m : Rnd) (np nc : Bool) (vd va vb vc : BitVec 5) (gp : BitVec 4) (s : State) : Out :=
  vFloat s m vd gp
    (fun k => fMulAdd f19 m np nc (s.fLane f19 va k) (s.fLane f19 vb k) (s.fLane f19 vc k) (drawAt s.block k))

def execVfmin (f19 : Bool) (vd va vb : BitVec 5) (gp : BitVec 4) (s : State) : Out :=
  vFloat s .rne vd gp (fun k => fMinMax false (s.fLane f19 va k) (s.fLane f19 vb k))

def execVfmax (f19 : Bool) (vd va vb : BitVec 5) (gp : BitVec 4) (s : State) : Out :=
  vFloat s .rne vd gp (fun k => fMinMax true (s.fLane f19 va k) (s.fLane f19 vb k))

def execVfcmp (f19 : Bool) (c : FCond) (nv : Bool) (vd va vb : BitVec 5) (pd gp : BitVec 4) (s : State) : Out :=
  let r (k : Nat) := fCompare c (s.fLane f19 va k) (s.fLane f19 vb k)
  .next ((vCmpOut s 32 nv vd pd gp (fun k => (r k).1)).flags (activeFlags 32 (s.pp gp) (fun k => (r k).2)))

def execVsfu (f19 : Bool) (m : Rnd) (fn : SfuFn) (vd va : BitVec 5) (gp : BitVec 4) (s : State) : Out :=
  vFloat s m vd gp (fun k => sfu f19 m fn (s.fLane f19 va k) (drawAt s.block k)) 2

end Sys2Proof.Machine
end

