-- ==== Sys2Proof/Machine/Checks.lean ====
section
/-! DEFINITION. What a bundle is checked for before it takes effect: hazards, traps in their order, stalls, and the waits
that it begins (R51, R156 to R163). -/

namespace Sys2Proof.Machine

/-! ## Hazards (R159, R161) -/

/-- The latency in turns of an operation's results (R159); an asynchronous result is readable at the earliest one turn
later. -/
def opTurns (i : Instr) : Nat :=
  match i with
  | .div .. | .divu .. | .rem .. | .remu .. => 3
  | .vsfu .. | .vmadw .. | .vplaneScan .. | .vplaneFix .. | .vplaneAlign .. | .vplaneTr .. | .vunplGather ..
  | .vunplVal .. | .venc .. | .vred .. => 2
  | _ => 1

/-- A register is pending, or its ready cycle lies after a cycle. -/
def Frame.busy (f : Frame) (cyc key : Nat) : Bool := f.pend.contains key || decide (cyc < f.ready.getD key 0)

/-- HAZARD on a register: its number and file are its key (R161). -/
def hazardRec (key : Nat) (write : Bool) : TrapRec := { cause := 0x02, eval := natWord (key + write.toNat * 256) }

/-- The first hazard of an operation: a register it reads, then one it writes. -/
def State.hazardOf (s : State) (i : Instr) : Option TrapRec :=
  match i.reads.find? (s.cur.pre.busy s.cycle) with
  | some k => some (hazardRec k false)
  | none => (i.writes.find? (s.cur.pre.busy (s.cycle + 8 * opTurns i))).map (hazardRec · true)

/-! ## Trial of one operation -/

/-- The operation by itself, for those that can trap, stall or wait; the others go on. Only its fate is used. -/
def tryOp (i : Instr) (s : State) : Out :=
  match i with
  | .add q d a b => execAdd q d a b s
  | .sub q d a b => execSub q d a b s
  | .mul q d a b => execMul q d a b s
  | .mulh q d a b => execMulh q d a b s
  | .mulhu q d a b => execMulhu q d a b s
  | .div q d a b => execDiv q d a b s
  | .divu q d a b => execDivu q d a b s
  | .rem q d a b => execRem q d a b s
  | .remu q d a b => execRemu q d a b s
  | .and q d a b => execAnd q d a b s
  | .or q d a b => execOr q d a b s
  | .xor q d a b => execXor q d a b s
  | .shl q d a b => execShl q d a b s
  | .shr q d a b => execShr q d a b s
  | .sar q d a b => execSar q d a b s
  | .rol q d a b => execRol q d a b s
  | .min q d a b => execMin q d a b s
  | .max q d a b => execMax q d a b s
  | .minu q d a b => execMinu q d a b s
  | .maxu q d a b => execMaxu q d a b s
  | .adc q d a b pc pd => execAdc q d a b pc pd s
  | .sbc q d a b pc pd => execSbc q d a b pc pd s
  | .sel q d a b ps v => execSel q d a b ps v s
  | .cmp q d a b pd c => execCmp q d a b pd c s
  | .bfx q d a b l g => execBfx q d a b l g s
  | .bfi q d a b l => execBfi q d a b l s
  | .gptrOwn d a => execGptrOwn d a s
  | .gptrBlk d a => execGptrBlk d a s
  | .gptrIlv d a => execGptrIlv d a s
  | .gwinCls d a => execGwinCls d a s
  | .gwinLoc d a => execGwinLoc d a s
  | .br p v d h => execBr p v d h s
  | .brc p v d h => execBrc p v d h s
  | .jmp d h => execJmp d h s
  | .jal d h => execJal d h s
  | .jr a => execJr a s
  | .jalr d a => execJalr d a s
  | .loop d a e h => execLoop d a e h s
  | .ld t b m z o => execLd t b m z o s
  | .st t b m z o => execSt t b m z o s
  | .vld t b m o => execVld t b m o s
  | .vst t b m o => execVst t b m o s
  | .lds t b m z o => execLds t b m z o s
  | .ldsp t b m z o => execLdsp t b m z o s
  | .sts t b m z o => execSts t b m z o s
  | .fesetFull b m z o => execFesetFull b m z o s
  | .fesetEmpty b m z o => execFesetEmpty b m z o s
  | .amo t b c m w op o off => execAmo t b c m w op o off s
  | .cas t b c m w o off => execCas t b c m w o off s
  | .fence o => execFence o s
  | .cgo d => execCgo d s
  | .csub d a b => execCsub d a b s
  | .cunsub d a => execCunsub d a s
  | .xld t b m z o off => execXld t b m z o off s
  | .xst t b m z o off => execXst t b m z o off s
  | .xpush t b c m o off => execXpush t b c m o off s
  | .xpref b m off => execXpref b m off s
  | .xtlbi t b c m off => execXtlbi t b c m off s
  | .xtlbiAll t am => execXtlbiAll t am s
  | .spawn d a b pd t => execSpawn d a b pd t s
  | .spawnr d a b pd t => execSpawnr d a b pd t s
  | .spawni d a b pd t p n => execSpawni d a b pd t p n s
  | .grow d a pd => execGrow d a pd s
  | .touch d a pd c => execTouch d a pd c s
  | .touchq d a => execTouchq d a s
  | .resolve a b pd => execResolve a b pd s
  | .cancel d a => execCancel d a s
  | .fdrop a pd => execFdrop a pd s
  | .joini d a b p => execJoini d a b p s
  | .retire => execRetire s
  | .waitw => execWaitw s
  | .waitm d => execWaitm d s
  | .yield => execYield s
  | .send a b t y => execSend a b t y s
  | .trap fn => execTrap fn s
  | .eret => execEret s
  | .crd d n => execCrd d n s
  | .cwr a n => execCwr a n s
  | .flushi l a => execFlushi l a s
  | .dbrk => execDbrk s
  | .halt => execHalt s
  | .scrub d fn => execScrub d fn s
  | .vcvt d e r su du sat p vd va g => execVcvt d e r su du sat p vd va g s
  | .vdec b g x vd va vc gp => execVdec b g x vd va vc gp s
  | .venc f b g x vd va vb vc => execVenc f b g x vd va vb vc s
  | .vquant h e vd va vc gp => execVquant h e vd va vc gp s
  | .vquantInv h e vd va vb vc gp => execVquantInv h e vd va vb vc gp s
  | .vplaneAlign g r q k vd va vb vc => execVplaneAlign g r q k vd va vb vc s
  | .vunplVal x q vd va vb vc => execVunplVal x q vd va vb vc s
  | .alease l => execAlease l s
  | .arel => execArel s
  | .aset o t e p sat sk rm => execAset o t e p sat sk rm s
  | .aldb o t v ga gb r n k => execAldb o t v ga gb r n k s
  | .astr o t v ga ao r m => execAstr o t v ga ao r m s
  | .adrn o t v ga ao n m wd c tr md => execAdrn o t v ga ao n m wd c tr md s
  | .azero o t ao n m => execAzero o t ao n m s
  | .amark a sc tg => execAmark a sc tg s
  | .qpush n ga => execQpush n ga s
  | _ => .next s

/-- The state that a trial gives. -/
def trial (s : State) (i : Instr) : State := match tryOp i s with | .next t => t | _ => s

/-- What becomes of an operation that issues now. -/
inductive Fate where
  | go | trap | stall | wait
  deriving DecidableEq, Repr

/-- The fate that a trial shows. A retirement or a YIELD that goes through has released the slot. -/
def fateOf (i : Instr) (r : State) : Fate :=
  if !r.cur.stopped then .go
  else if r.cur.trapped.isSome then .trap
  else
    match (r.slot r.cur.sk).state with
    | .run => .stall
    | .free => (match i with | .touch .. | .waitm .. => .wait | _ => .go)
    | _ => .wait

/-- An ILLEGAL or PRIV of the operation depends on a register's value: it is not found while that register is not
readable, which raises HAZARD. -/
def illegalByValue (s : State) (i : Instr) : Bool :=
  match i with
  | .grow .. | .joini .. | .xpush .. => true
  | .csub .. | .cunsub .. => !s.onGeyser
  | .cwr _ n => (cwrTrap s n).isNone
  | _ => false

/-! ## Traps of a bundle (R157, R158) -/

/-- The place of a cause in R158's order; the causes of one operation come in slot order. -/
def causeRank (c : BitVec 8) : Nat := if c = 0x01 then 0 else if c = 0x05 then 1 else if c = 0x02 then 2 else if c = 0x0A then 3 else 4

/-- A candidate: its rank and the state in which its trap has annulled the bundle. -/
def trialTrap (s : State) (i : Instr) (hazard : Bool) : List (Nat × State) :=
  let r := trial s i
  match fateOf i r, r.cur.trapped with
  | .trap, some t =>
    if hazard && illegalByValue s i && decide (causeRank t.cause < 2) then [] else [(causeRank t.cause, r)]
  | _, _ => []

/-- ILLEGAL of an operation's own decode check; an unstated c.eval is a free value. -/
def State.ownIllegal (s : State) (e : Option Word) : State :=
  match e with
  | some x => s.illegal x
  | none => s.draw.2.illegal s.draw.1

/-- The guard of an operation: whether its predicate can be read, and whether it holds (R205). -/
def State.guardHolds (s : State) (g : Option Guard) : Bool :=
  match g with
  | none => true
  | some (p, inv) => (s.pp p).getLsbD 0 != inv

/-- The hazard of a guard's read. -/
def State.guardHazard (s : State) (g : Option Guard) : Option TrapRec :=
  match g with
  | none => none
  | some (p, _) => if s.cur.pre.busy s.cycle (pKey p) then some (hazardRec (pKey p) false) else none

/-- The storage words that hold a register of the thread in issue: of its frame in the pool, or on a Geyser in the register
file (R41, R72). -/
def State.regKeys (s : State) (k : Nat) : List Nat :=
  let word (d : Nat) : Nat :=
    if s.onGeyser then geyserFrameKey s.cur.fk d
    else wordKey s.curCore (s.frameBase s.curCore (frameNum s.cur.fk) + 8 * d)
  if k = 0 ∨ k = 128 then []
  else if k < 64 then [word k]
  else if k < 128 then [word (64 + 2 * (k - 64)), word (65 + 2 * (k - 64))]
  else [word (128 + (k - 128) / 4)]

/-- The key of dword i of the system area of the thread's core (R44); a Geyser has none. -/
def State.sysKey (s : State) (i : Nat) : List Nat := if s.onGeyser then [] else [wordKey s.curCore (0x1F000 + 8 * i)]

/-- The key of dword d of the thread's register frame. -/
def State.frameKey (s : State) (d : Nat) : List Nat :=
  [if s.onGeyser then geyserFrameKey s.cur.fk d else wordKey s.curCore (s.frameBase s.curCore (frameNum s.cur.fk) + 8 * d)]

/-- The storage that a pop reads: the dword of its mailbox entry, its token, or the head of its FIFO (R44, R428). -/
def State.popKeys (s : State) (n : Nat) : List Nat :=
  let fk := s.cur.fk
  if n = 0 then
    ((s.mailOf fk).findIdx? (fun e => e.frame == fk)).toList.flatMap (fun i => s.sysKey (4 * i + (s.frame fk).mpos))
  else if n = 1 then
    let ts := (s.core (frameCore fk)).tokens
    ((oldestToken fk ts).bind (fun t => ts.idxOf? t)).toList.flatMap (fun i => s.sysKey (384 + i))
  else
    let key := s.curCore / 16 * 64 + (qField s.cur.slot.qbind n).1
    if (s.fifo key).items.isEmpty then [] else [fifoErrKey key]

/-- The storage that a CRD reads: a dword of the frame or of the system area (R41, R44, R236). -/
def State.controlKeys (s : State) (n : Nat) : List Nat :=
  let slot := 8 * slotNum s.cur.sk
  match n with
  | 0x000 | 0x002 | 0x004 => s.frameKey 140
  | 0x001 => s.frameKey 133
  | 0x003 => s.frameKey 134
  | 0x007 | 0x023 => s.frameKey 141
  | 0x010 => s.frameKey 137
  | 0x011 => s.frameKey 135
  | 0x012 => s.frameKey 136
  | 0x013 | 0x018 => s.frameKey 143
  | 0x020 | 0x021 | 0x022 => s.frameKey 142
  | 0x043 => s.frameKey 138
  | 0x048 => s.frameKey 139
  | 0x024 | 0x025 | 0x026 | 0x027 => s.sysKey (320 + slot + (n - 0x024))
  | 0x030 | 0x031 | 0x032 | 0x033 | 0x034 | 0x035 | 0x036 => s.sysKey (256 + slot + (n - 0x030))
  | 0x050 => s.sysKey (320 + slot + 4)
  | 0x051 => s.sysKey (320 + slot + 5)
  | 0x058 => s.sysKey (320 + slot + 6)
  | 0x061 =>
    let e := (s.core s.curCore).ering.toNat
    s.sysKey (128 + 2 * (e % 64) + e / 64 % 2)
  | _ => []

/-- The storage words that an operation reads beside its memory operands: its registers, the queues it pops, the control
register of a CRD, the shadow set of a CGO. A pop that has its value reads no more. -/
def State.regWords (s : State) (i : Instr) : List Nat :=
  if s.bad.isEmpty then []
  else
    (i.reads.map s.regKeys).flatten ++
    (if (s.cf).held.isEmpty then (i.pops.map s.popKeys).flatten else []) ++
    (match i with
     | .crd _ n => s.controlKeys n.toNat
     | .cgo _ => (rangeFrom 0 7).flatMap (fun j => s.sysKey (256 + 8 * slotNum s.cur.sk + j))
     | _ => [])

/-- The storage word of a guard's predicate. -/
def State.guardWords (s : State) (g : Option Guard) : List Nat :=
  match g with
  | none => []
  | some (p, _) => if s.bad.isEmpty then [] else s.regKeys (pKey p)

/-- ECC of a register read that fails again on its retry (R376). -/
def regEcc (s : State) (keys : List Nat) : List (Nat × State) :=
  match s.firstError keys with
  | some (key, true) => [(4, s.eccTrap key)]
  | _ => []

/-- The traps that one operation of the bundle would raise. -/
def opTraps (s : State) (b : BundleOp) : List (Nat × State) :=
  match s.guardHazard b.guard, regEcc s (s.guardWords b.guard) with
  | some t, _ => [(2, s.trap t)]
  | none, x :: xs => x :: xs
  | none, [] =>
    if !s.guardHolds b.guard then []
    else
      match b.dec with
      | .zero => []
      | .own e => [(0, s.ownIllegal e)]
      | .op i =>
        match s.hazardOf i with
        | some t => (2, s.trap t) :: trialTrap s i true
        | none => regEcc s (s.regWords i) ++ trialTrap s i false

/-- The first of the candidates with the lowest rank. -/
def firstTrap : List (Nat × State) → Option (Nat × State)
  | [] => none
  | x :: xs =>
    match firstTrap xs with
    | none => some x
    | some y => if y.1 < x.1 then some y else some x

/-- The operations of the bundle that are not annulled, in the order S, V, E. -/
def State.liveOps (s : State) (bs : List BundleOp) : List Instr :=
  bs.filterMap (fun b => if s.guardHolds b.guard then (match b.dec with | .op i => some i | _ => none) else none)

/-! ## Waits of a bundle (R51) -/

/-- Begins what an operation waits for among words, FIFOs and the array, and takes what is there. -/
def acquireOp (i : Instr) (s : State) : State :=
  match i with
  | .add q d a b => g3Acquire s q d a b resAdd
  | .sub q d a b => g3Acquire s q d a b resSub
  | .mul q d a b => g3Acquire s q d a b resMul
  | .mulh q d a b => g3Acquire s q d a b resMulh
  | .mulhu q d a b => g3Acquire s q d a b resMulhu
  | .div q d a b => g3Acquire s q d a b divS
  | .divu q d a b => g3Acquire s q d a b divU
  | .rem q d a b => g3Acquire s q d a b remS
  | .remu q d a b => g3Acquire s q d a b remU
  | .and q d a b => g3Acquire s q d a b resAnd
  | .or q d a b => g3Acquire s q d a b resOr
  | .xor q d a b => g3Acquire s q d a b resXor
  | .shl q d a b => g3Acquire s q d a b resShl
  | .shr q d a b => g3Acquire s q d a b resShr
  | .sar q d a b => g3Acquire s q d a b resSar
  | .rol q d a b => g3Acquire s q d a b resRol
  | .min q d a b => g3Acquire s q d a b minS
  | .max q d a b => g3Acquire s q d a b maxS
  | .minu q d a b => g3Acquire s q d a b minU
  | .maxu q d a b => g3Acquire s q d a b maxU
  | .adc q d a b pc _ => g3Acquire s q d a b (resAdc (s.carryIn pc))
  | .sbc q d a b pc _ => g3Acquire s q d a b (resSbc (s.carryIn pc))
  | .sel q d a b ps v => g3Acquire s q d a b (resSel (s.selGuard ps v))
  | .cmp q d a b _ c => g3Acquire s q d a b (resCmp c)
  | .bfx q d a b l g => g3Acquire s q d a b (resBfx l g)
  | .bfi q d a b l => g3Acquire s q d a b (resBfi l (s.pg d))
  | .lds _ b m z o => acquireWord s .lds m (s.accSum b o) (szBytes z) 0
  | .ldsp _ b m z o => acquireWord s .ldsp m (s.accSum b o) (szBytes z) 0
  | .sts t b m z o => acquireWord s .sts m (s.accSum b o) (szBytes z) (s.pg t)
  | .alease l => aleaseAcquire s (.alease l)
  | .qpush n ga => s.acquirePush 4 n.toNat (s.pg ga)
  | _ => s
where
  /-- an own-pool full/empty operation -/
  acquireWord (s : State) (op : AccOp) (m : AMode) (sum : Word) (n : Nat) (data : Word) : State :=
    match s.decodeOperand m sum n with
    | .ok d => feAcquire s op d n data
    | .error _ => s

/-- Operations whose waits acquireOp begins. -/
def acquires (i : Instr) : Bool :=
  !i.pops.isEmpty || !i.pushes.isEmpty ||
    (match i with | .lds .. | .ldsp .. | .sts .. | .alease .. => true | _ => false)

/-- Begins every wait of the bundle. An operation that waits for a message or a marker has begun in its trial; since its
answer may be a trap, which annuls the bundle, the other waits begin only after it (R157). -/
def beginWaits (s : State) (is : List Instr) : State :=
  match is.find? (fun i => !acquires i && fateOf i (trial s i) == .wait) with
  | some i => trial s i
  | none =>
    let s1 := (is.filter acquires).foldl (fun t j => acquireOp j t) s
    if s1.acquired then s1 else s1.parkInPlace

/-! ## The order of effects -/

/-- Operations that end or leave the task act after the others of their bundle. -/
def leaves (i : Instr) : Bool := match i with | .retire | .waitw | .yield => true | _ => false

/-- Operations with an implicit switch marker. -/
def impliesMarker (i : Instr) : Bool :=
  match i with
  | .touch .. | .touchq .. | .resolve .. | .cancel .. | .fdrop .. | .waitm .. => true
  | _ => false

/-- The energy class of an operation: S 0, V integer 1, V float 2, V format 3 (R426). -/
def energyClass (i : Instr) : Option Nat :=
  match i.parts with
  | some (0, _, _) => some 0
  | some (1, op, _) => some (if op < 0x40 then 1 else if op < 0x60 then 2 else 3)
  | _ => none

end Sys2Proof.Machine
end

