-- ==== Sys2Proof/Machine/Fetch.lean ====
section
/-! DEFINITION. Fetching a line, checking a bundle, and the start of its issue (R32 to R34, R51, R155 to R163, R204,
R214, R215). -/

namespace Sys2Proof.Machine

/-! ## The instruction store (R34) -/

/-- The line address of a code address. -/
def codeLine (pc : Word) : Nat := natBits pc.toNat 6 50 * 64

/-- The head index of a code address. -/
def codeHead (pc : Word) : Nat := pc.toNat % 32

/-- A line that a fetch of a frame's thread hits: its tag and epoch are the thread's. -/
def State.storedLine (s : State) (fk va : Nat) : Option Line :=
  (((s.cluster (istoreOf fk)).icache.find? (fun l =>
    l.va == va && l.tag == s.frameTag fk && l.epoch == s.frameEpoch fk))).map (·.data)

/-- A store of 128 KiB holds 2,048 lines; a full one gives up its oldest. -/
def addLine (ls : List ILine) (l : ILine) : List ILine := (if ls.length < 2048 then ls else ls.drop 1) ++ [l]

/-- The thread in issue: its frame and slot as they stand, no operation yet. -/
def State.begin (s : State) (sk fk : Nat) : State :=
  let f := s.frame fk
  { s with cur := { sk, fk, bpc := f.pc, npc := f.pc, pre := f, slot := s.slot sk } }

/-- A miss: the thread waits for its line, which the hub translates and the home channel's Geyser reads. -/
def State.missLine (s : State) (sk fk va : Nat) : State :=
  let r := s.fresh
  let x : Fill := ⟨r.1, istoreOf fk, va, s.frameTag fk, s.frameEpoch fk, sk, none⟩
  let s1 := (r.2.updHub (fun h => { h with fills := h.fills ++ [x] })).updSlot sk (fun r => { r with state := .line })
  { s1 with cur := { s1.cur with stopped := true } }.later (2 * s.delay (frameEnd fk) hubEnd + 8) (.istoreFill r.1)

/-- The outcome of a fill's reads: the line's bytes, the trap of the fetch, or a wait for the host or for ever. -/
inductive FillEnd where
  | line (bs : List Byte)
  | trap (t : TrapRec)
  | wait
  deriving DecidableEq, Repr, Inhabited

/-- PAGE at a fetch with an outcome code (R34). -/
def fetchPage (va code : Nat) : TrapRec := { cause := 0x0C, detail := BitVec.ofNat 8 code, eval := natWord va }

/-- A line in host memory is read by a request of the hub, after the translation of its page (R97 to R99). -/
def State.hostLine (s : State) (x : Fill) (addr : Nat) : State × FillEnd :=
  let tag := x.tag.toNat
  if !s.hostCanWrite tag then (s, .trap (fetchPage x.va 6))
  else if s.hostReady tag addr then
    let r := s.fresh
    ((r.2.useAts (s.atsEntry tag addr) true).askHost r.1 tag addr 64 none none 0 0 0 x.id, .wait)
  else (s.askAts tag addr false none none x.id, .wait)

/-- The bytes of a line that a walk finds, or the trap of the fetch: PAGE with an outcome code, or ECC at a device line that
cannot be read, at the VA of that line (R34, R374, R376). A walk whose table cannot be read never ends (log entry 100). -/
def State.lineBytes (s : State) (x : Fill) : State × FillEnd :=
  let tag := x.tag.toNat
  match x.done with
  | some (bs, code) => (s, if code = 0 then .line bs else .trap (fetchPage x.va code))
  | none =>
    let r := s.walk tag x.va false false
    match r.2 with
    | .ok addr host c _ _ _ =>
      if host then r.1.hostLine x addr
      else
        let y := r.1.deviceSound x.tag addr 64 x.va
        if y.2 then let d := y.1.devRead tag addr 64 c; (d.1, .line d.2)
        else (y.1, .trap { cause := 0x12, detail := 2, eval := natWord x.va })
    | .ecc => (r.1, .wait)
    | w => (r.1.reportIsol hubEnd tag w, .trap (fetchPage x.va w.code))

/-- ISTORE_FILL: the line enters the store and the waiting thread fetches again, or the fetch traps. -/
def execIstoreFill (id : Nat) (s : State) : Out :=
  match s.hub.fills.find? (fun x => x.id == id) with
  | none => .next s
  | some x =>
    let done (s : State) : State := s.updHub (fun h => { h with fills := h.fills.filter (fun y => y.id != id) })
    let run (s : State) : State := s.updSlot x.slot (fun r => { r with state := .run })
    match (s.slot x.slot).state, (s.slot x.slot).frame with
    | .line, some fk =>
      match s.lineBytes x with
      | (s1, .line bs) =>
        let l : ILine := ⟨x.va, x.tag, x.epoch, BitVec.ofNat 512 (bytesNat bs)⟩
        .next ((run (done s1)).updCluster x.cluster (fun c => { c with icache := addLine c.icache l }))
      | (s1, .trap t) => .next (((run (done s1)).begin x.slot fk).trap t)
      | (s1, .wait) => .next s1
    | _, _ => .next (done s)

/-! ## Issue of a bundle -/

/-- The address of the bundle that follows one of n heads at a head of a line of h heads (R204). -/
def nextBundle (pc : Word) (h n : Nat) : Word :=
  let head := codeHead pc + n
  if head < h then natWord (codeLine pc + head) else natWord ((codeLine pc + 64) % 2 ^ 56)

/-- Charges the operations of a bundle (R426). -/
def State.chargeOps (s : State) (is : List Instr) : State :=
  is.foldl (fun s i => match energyClass i with | some c => s.charge s.cur.fk c 1 | none => s) s

/-- Nothing traps or stalls and no wait is left: the operations take effect after this, from the next bundle's
address. -/
def State.startOps (s : State) (is : List Instr) : State :=
  let ops := is.filter (fun i => !leaves i) ++ is.filter leaves
  let s0 := is.foldl (fun s i => s.heal (s.firstError (s.regWords i))) s
  let s1 := (s0.chargeOps is).upd (fun f => { f with pc := s.cur.npc })
  { s1 with cur := { s1.cur with ops } }

/-- A bundle without reasons of R214: its traps by R158, its stalls by R163, its waits by R51. -/
def State.issueBundle (s : State) (b : Bundle) : State :=
  match firstTrap (b.ops.map (opTraps s)).flatten with
  | some t => t.2
  | none =>
    let is := s.liveOps b.ops
    if is.any (fun i => fateOf i (trial s i) == .stall) then s.retry
    else
      let s1 := beginWaits s is
      if s1.cur.stopped then s1 else s1.startOps is

/-- A lasting error of the instruction store at a fetch: ECC with the line's VA, as for a line in device memory (R376, R428). -/
def State.lineEcc (s : State) : State :=
  let va := codeLine s.cur.bpc
  let fk := s.cur.fk
  (s.lasting (keyEnd (istoreErrKey (istoreOf fk))) (s.frameTag fk) va).trap { cause := 0x12, detail := 2, eval := natWord va }

/-- The bundle at the pc in a line of the store is checked and issued. -/
def State.issueLine (s : State) (fk : Nat) (l : Line) : State :=
  let pc := s.cur.bpc
  match fetchBundle l (codeHead pc) (isGeyserFrame fk) with
  | .error e => s.illegal (illegalEval e.2 e.1)
  | .ok b =>
    { s with cur := { s.cur with npc := nextBundle pc l.heads b.len, rx := b.ops.any (·.rx), sw := b.sw } }.issueBundle b

/-- BUNDLE_FETCH: the thread of a slot fetches the bundle at its pc and issues it; the operations to execute are left in
the bundle in issue. -/
def execBundleFetch (sk : Nat) (s : State) : Out :=
  match (s.slot sk).frame with
  | none => .next s
  | some fk =>
    let s1 := s.begin sk fk
    let va := codeLine s1.cur.bpc
    match s1.storedLine fk va, s1.errorAt (istoreErrKey (istoreOf fk)) with
    | none, _ => .next (s1.missLine sk fk va)
    | some _, some true => .next s1.lineEcc
    | some l, e =>
      let key := istoreErrKey (istoreOf fk)
      .next ((s1.healAt (keyEnd key) (e.map (fun b => (key, b)))).issueLine fk l)

end Sys2Proof.Machine
end

