-- ==== Sys2Proof/Machine/Tables.lean ====
section
/-! DEFINITION. The hub's tables and registers, Geyser threads (R14, R62, R70, R73 to R76, R82, R153, R246, R384, R394 to
R400, R410, R414, R417, R420, R421, R429, R458). -/

namespace Sys2Proof.Machine

/-- No launch of a partition runs. -/
def State.noLaunch (s : State) (tag : Nat) : Bool := !(s.part tag).launches.any Launch.running

/-! ## Geyser threads (R75) -/

/-- A Geyser thread starts at ENTRY with g1 = ARG. -/
def State.startThread (s : State) (ch t : Nat) : State :=
  let x := (s.geyser ch).thread t
  let fk := geyserFrame ch t
  let f := (s.frame fk).freed
  let f1 := { f with
    g := if x.arg = 0 then [] else [(1, x.arg)], v := [], p := [], pc := x.entry, estat := 0,
    status := if x.priv then 1 else 0, state := .running }
  let s1 := (s.setFrame fk f1).updSlot (geyserSlot ch t) (fun r => { r with state := .run, frame := some fk })
  s1.updGeyser ch (fun g => g.updThread t (fun x => { x with state := 1, cause := 0, held := false }))

/-- A write of RUN with its PRIV bit. -/
def State.writeRun (s : State) (tag ch t : Nat) (run priv : Bool) : State :=
  let st := ((s.geyser ch).thread t).state
  let set (s : State) : State := s.updGeyser ch (fun g => g.updThread t (fun x => { x with priv }))
  if run then
    if (s.hub.owners.getD ch []).length ≠ 1 then s.refuse (2 ^ 20 + ch) (BitVec.ofNat 10 tag)
    else if st = 0 ∨ st = 2 then (set s).startThread ch t
    else if st = 3 then (set s).updGeyser ch (fun g => g.updThread t (fun x => { x with held := true }))
    else set s
  else if st = 1 then (set s).stopThread (ch, t)
  else (set s).updGeyser ch (fun g => g.updThread t (fun x => { x with held := false }))

/-- RUN: a write of one of the three words of a Geyser thread; it waits while a scrub of the partition runs, and while the
partition is being saved or restored. -/
def execRun (vf k t word : Nat) (v : Word) (s : State) : Out :=
  let tag := vf - 1
  match (s.partChannels tag)[k]? with
  | none => .next s
  | some ch =>
    if (s.part tag).state ≠ 0 then .next (s.again (.run vf k t word v))
    else
      heldWrite s vf (.run vf k t word v) (fun s =>
        if word = 0 then s.updGeyser ch (fun g => g.updThread t (fun x => { x with entry := v }))
        else if word = 1 then s.updGeyser ch (fun g => g.updThread t (fun x => { x with arg := v }))
        else s.writeRun tag ch t (v.getLsbD 0) (v.getLsbD 1))

/-- GEYSER_THREAD_STOP: a stopping thread whose results have returned becomes idle, or is kept for the save of its
partition; a held RUN then acts as one written to an idle thread. -/
def execGeyserThreadStop (sk : Nat) (s : State) : Out :=
  let ch := slotCore sk
  let t := slotNum sk
  let fk := geyserFrame ch t
  let x := (s.geyser ch).thread t
  if x.state ≠ 3 then .next s
  else if !(s.frame fk).outs.isEmpty || s.delayed.any (fun d => d.frame == fk) then .next (s.again (.geyserThreadStop sk))
  else if (s.part (s.frameTag fk).toNat).state ≠ 0 then
    .next ((s.updSlot sk (fun r => { r with state := .stopped })).updGeyser ch (fun g =>
      g.updThread t (fun x => { x with state := 0 })))
  else
    let s1 := ((s.updFrame fk Frame.freed).stopGeyser fk 0 x.cause).updGeyser ch (fun g =>
      g.updThread t (fun x => { x with held := false }))
    .next (if x.held then s1.writeRun (s.geyser ch).tag.toNat ch t true x.priv else s1)

/-! ## Channels and steering (R70, R75, R76) -/

/-- Two owners of a channel whose ranges are disjoint and whose tenant numbers differ where they must. -/
def ownersApart (k : Nat) (a b : Owner) : Bool :=
  (decide (a.limit.toNat < b.base.toNat) || decide (b.limit.toNat < a.base.toNat)) && (k == 0 || a.t != b.t)

/-- The hub accepts an entry of the channel table. -/
def channelOk (k : Nat) (os : List Owner) : Bool :=
  decide (k ≤ 4) && os.all (fun o => decide (o.base.toNat ≤ o.limit.toNat)) &&
    (if k = 0 then os.length == 1 else decide (os.length ≤ 2 ^ k)) &&
    (rangeFrom 0 os.length).all (fun i => (os.drop (i + 1)).all (fun b => ownersApart k (os.getD i default) b))

/-- A channel with one owner is served by a Geyser that carries the owner's tag and epoch. -/
def State.setGeyserTag (s : State) (ch : Nat) : State :=
  match s.hub.owners.getD ch [] with
  | [o] => s.updGeyser ch (fun g => { g with tag := o.tag, epoch := (s.part o.tag.toNat).epoch })
  | _ => s.updGeyser ch (fun g => { g with tag := 0, epoch := 0 })

/-- CHANNEL_TABLE_WRITE: a change of the owners stops threads 1 to 3 as a RUN of 0 does, and so takes back a held RUN. A
change of only base, limit or tenant number of the same owners counts as none (DESIGN CHOICE, log entry 107: R75 does not
say whether it does). -/
def execChannelTableWrite (ch k : Nat) (os : List Owner) (s : State) : Out :=
  if !channelOk k os then .next s
  else
    let tags (l : List Owner) : List (BitVec 10) := l.map (·.tag)
    let changed := tags (s.hub.owners.getD ch []) != tags os
    let drop (s : State) (t : Nat) : State := s.updGeyser ch (fun g => g.updThread t (fun x => { x with held := false }))
    let s1 := if changed then (rangeFrom 1 3).foldl (fun s t => drop (s.stopThread (ch, t)) t) s else s
    let s2 := s1.updHub (fun h => { h with owners := h.owners.put ch os, channelK := h.channelK.put ch k })
    .next (if changed then s2.setGeyserTag ch else s2)

/-- STEERING_TABLE_WRITE: 256 channels that the partition owns. -/
def execSteeringTableWrite (tag : Nat) (es : List Nat) (s : State) : Out :=
  if es.all (fun c => (s.partChannels tag).contains c) then .next (s.updPart tag (fun p => { p with steer := es }))
  else .next s

/-! ## Logical tables (R397, R398) -/

/-- The position of a table entry exists. -/
def State.positionOk (s : State) (e : BitVec 32) : Bool := s.hasRoute (tableModule e)

/-- A core of this module can enter a partition's table. -/
def State.coreFits (s : State) (tag : Nat) (e : BitVec 32) : Bool :=
  let c := s.core (tableCore e)
  tableModule e != s.module.toNat || (!c.failed && (c.epoch == 0 || c.tag.toNat == tag))

/-- No position stands twice in a table. -/
def distinctPositions (es : List (BitVec 32)) : Bool :=
  decide ((es.map (fun e => e.toNat % 2 ^ 24)).eraseDups.length = es.length)

/-- The hub accepts a table. -/
def State.tableOk (s : State) (tag : Nat) (es : List (BitVec 32)) : Bool :=
  s.noLaunch tag && (s.part tag).state == 0 && distinctPositions es && es.all s.positionOk && es.all (s.coreFits tag)

/-- LOGICAL_TABLE_WRITE: cores that leave keep tag and epoch until a scrub. -/
def execLogicalTableWrite (tag : Nat) (es : List (BitVec 32)) (s : State) : Out :=
  if !s.tableOk tag es then .next s
  else
    let old := s.partCores tag
    let s1 := s.setTable tag es
    let now := s1.partCores tag
    .next (s1.updPart tag (fun p => { p with
      left := (p.left ++ old).eraseDups.filter (fun k => !now.contains k) }))

/-! ## Routes and communicators (R153, R420, R421) -/

/-- A partition has cores in two modules. -/
def Part.spans (p : Part) (a b : Nat) : Bool :=
  p.logical.any (fun e => tableModule e == a) && p.logical.any (fun e => tableModule e == b)

/-- Every partition that spans two modules is saved or has no launch running. -/
def State.routeFree (s : State) (m : Nat) : Bool :=
  s.parts.all (fun p => !p.2.spans s.module.toNat m || p.2.state == 3 || s.noLaunch p.1)

/-- The schedule grants no slot of a link twice. -/
def scheduleOk (l : List (Nat × Nat × Nat)) : Bool :=
  l.all (fun x => decide (x.1 < 1024)) && decide ((l.map (fun x => (x.1, x.2.1))).eraseDups.length = l.length)

/-- ROUTE_TABLE_WRITE: an entry, with the schedule where one is written. -/
def execRouteTableWrite (m : Nat) (entry : BitVec 32) (sched : Option (List (Nat × Nat × Nat))) (s : State) : Out :=
  let ok := s.routeFree m && (match sched with | some l => scheduleOk l | none => true)
  if ok then
    .next (s.updHub (fun h => { h with
      routes := h.routes.put m (entry &&& 0x03FFFFFF),
      schedule := match sched with | some l => l | none => h.schedule }))
  else .next s

/-- COMMUNICATOR_WRITE: the entry becomes ready and its generation advances; OP 3 is refused, and so is an entry or a number
that the table cannot hold: NMEM is 1 to 65,536 and there are 4,096 communicators. -/
def execCommunicatorWrite (num : Nat) (part : BitVec 10) (op : BitVec 2) (members : List Nat) (s : State) : Out :=
  if op = 3 ∨ members = [] ∨ 65536 < members.length ∨ 4096 ≤ num then .next s
  else
    let h (c : Comm) : Comm := { c with part, op, members, state := 1, gen := c.gen + 1 }
    .next (s.updHub (fun x => { x with comms := x.comms.put num (h (x.comms.getD num {})) }))

/-! ## Guest time (R410) -/

/-- GUEST_TIME_OFFSET_WRITE: discarded while the partition runs and while RESTORING is 1 (R390), refused where guest time would fall below the saved one. -/
def execGuestTimeOffsetWrite (tag : Nat) (x : Word) (s : State) : Out :=
  let p := s.part tag
  let open_ := !p.restoring && (p.state == 3 || s.noLaunch tag)
  let back := match p.saved with | some gs => decide ((natWord s.time + x).toNat < gs) | none => false
  if open_ && !back then .next (s.updPart tag (fun p => { p with toff := x })) else .next s

/-! ## Every other table and register (R394) -/

/-- The two words of a ring's registration (R414); disabling a ring discards its pending count. -/
def Ring.write (r : Ring) (word : Nat) (v : Word) : Ring :=
  if word = 0 then { r with rcb := v }
  else
    let en := v.getLsbD 48
    { r with
      ccount := v.setWidth 16, ctime := v.extractLsb' 16 32, en,
      pending := if en then r.pending else 0 }

/-- The pre-emption block (R384). -/
def State.armSlice (s : State) (tag : Nat) (v : Word) : State :=
  let s1 := (s.cancelActs (fun i => decide (i = .preemptSlice tag))).updPart tag (fun p => { p with slice := v.toNat })
  if v = 0 then s1 else s1.later (nsCycles (v.toNat - s.time)) (.preemptSlice tag)

/-- Clears a die's counter bits that a write names (R429). -/
def Errors.clear (e : Errors) (kind : Nat) (bits : BitVec 32) : Errors :=
  if kind = 0 then { e with corr := e.corr &&& ~~~ bits }
  else if kind = 1 then { e with trans := e.trans &&& ~~~ bits }
  else { e with last := e.last &&& ~~~ bits }

/-- A debug unit returns a halted thread to the rotation (R246); one halted at a switch marker waits for its results. -/
def State.debugResume (s : State) (sk : Nat) : State :=
  let r := s.slot sk
  match r.frame with
  | none => s
  | some fk =>
    if r.state != .halted then s
    else if (s.frame fk).atMarker then (s.setSlot sk { r with state := .marker }).resume fk
    else s.setSlot sk { r with state := .run }

/-- The writable bits of a word of a partition's budgets: bits [63:48] of word 1 are read-only (R370). -/
def budgetWrite (word : Nat) (old v : Word) : Word := if word = 0 then v else natWord (old.toNat / 2 ^ 48 * 2 ^ 48 + v.toNat % 2 ^ 48)

/-- The effect of a write of a hub table or register. The fused minimum version only rises, in 64 steps (R430). A root that is not 128 KiB aligned is refused (R82, R84). -/
def State.hubWrite (s : State) (w : HubWrite) : State :=
  match w with
  | .root tag pa => if pa.toNat % 2 ^ 17 = 0 then s.updPart tag (fun p => { p with root := pa.toNat }) else s
  | .spillBase tag va =>
    if s.noLaunch tag && va.toNat % 2 ^ 30 == 0 then s.updPart tag (fun p => { p with spill := va.toNat }) else s
  | .pageRequestEnable tag en => s.updPart tag (fun p => { p with pageReq := en })
  | .quota tag entries slots => s.updPart tag (fun p => { p with quotaEntries := entries, quotaSlots := slots })
  | .budget tag word v => s.updPart tag (fun p =>
      if word = 0 then { p with budget0 := budgetWrite 0 p.budget0 v } else { p with budget1 := budgetWrite 1 p.budget1 v })
  | .stealList tag dom cs => s.updPart tag (fun p => { p with steal := p.steal.put dom cs })
  | .watchdogDefault tag limit => s.updPart tag (fun p => { p with wdog := limit })
  | .policy tag lim pol => s.updPart tag (fun p => { p with lim, pol })
  | .fifoOwner q n tag => s.updFifo (q * 64 + n % 64) (fun f => { f with owner := tag.map (BitVec.ofNat 10) })
  | .pasid tag v => s.updPart tag (fun p => { p with pasid := v })
  | .slice tag v => s.armSlice tag v
  | .context tag va => s.updPart tag (fun p => { p with ctx := natBits va.toNat 0 56 })
  | .ring tag i word v => if i < 64 then (s.setRing tag i ((s.ringOf tag i).write word v)).rearmRing tag i else s
  | .causeRing rcb => (s.updHub (fun h => { h with crcb := rcb })).serveCauses
  | .coalesce v => (s.setRing 1024 0 ((s.ringOf 1024 0).write 1 v)).rearmRing 1024 0
  | .clearCovf bits => s.updHub (fun h => { h with covf := h.covf &&& ~~~ bits })
  | .clearRdrop bits => s.updHub (fun h => { h with rdrop := h.rdrop &&& ~~~ bits })
  | .clearLdown bits => s.updHub (fun h => { h with ldown := h.ldown &&& ~~~ bits })
  | .powerLimit n => if 1000 ≤ n ∧ n ≤ 3600 then s.updHub (fun h => { h with powerLimit := n }) else s
  | .clearErrors die kind bits => s.updHub (fun h => { h with
      errors := h.errors.put die ((h.errors.getD die {}).clear kind bits) })
  | .badlClear vf bits => s.updVf vf (fun v => { v with badl := v.badl &&& ~~~ bits })
  | .busMaster vf en => s.updVf vf (fun v => { v with bme := en })
  | .ats vf en => s.updVf vf (fun v => { v with ats := en })
  | .pageRequestAllocation vf n => s.updVf vf (fun v => { v with alloc := n })
  | .hostStore vf va bytes => { s with host := s.host.setBytes (fnKey vf va) bytes }
  | .invalidate tag va len whole => s.startInval (BitVec.ofNat 10 tag) va len whole true none 0 none
  | .debugResume sk => s.debugResume sk
  | .moduleNumber n => { s with module := n }
  | .timestampReference n => s.updHub (fun h => { h with tsRef := n })
  | .resumeClear tag => s.updPart tag (fun p => { p with resume := false })
  | .raiseMinimum => s.updHub (fun h => { h with minVersion := min 64 (h.minVersion + 1) })

/-- HUB_TABLE_WRITE. -/
def execHubTableWrite (w : HubWrite) (s : State) : Out := .next (s.hubWrite w)

end Sys2Proof.Machine
end

