-- ==== Sys2Proof/Machine/Module.lean ====
section
/-! DEFINITION. Lanrid links, the timestamp, power, health, resets of the module, of a function and of the host link
(R26, R56, R93, R99, R356, R416 to R430). -/

namespace Sys2Proof.Machine

/-! ## Links (R418, R419, R421) -/

/-- An answer that arrives ends a request that the hub forwarded; a parked reply is none yet (R386). -/
def answers (p q : Packet) : Bool :=
  match p.body, q.body with
  | .response out part _ _ _ _ parked _ _, .access a => a.out == out && a.part == part && !parked
  | .response out _ _ _ _ _ _ _ _, .send _ _ o => out == o
  | .futureReply fk out _ _ _, b => q.sender == fk && bodyAsks b == some out
  | _, _ => false

/-- The SEND that a retry response of another module answers: its sender keeps it (R353). -/
def retriedSend (unanswered : List Packet) (p : Packet) : Option Packet :=
  match p.body with
  | .response _ _ _ _ _ true _ _ _ =>
    (unanswered.find? (answers p)).bind (fun q => match q.body with | .send .. => some q | _ => none)
  | _ => none

/-- What the header of a flit does at a link (R418): packets that the neighbour has received leave the replay buffer, channels
gain credits, and what waits is sent. -/
def Link.head (k : Link) (h : FlitHead) : Link :=
  let k1 := { k with
    replay := k.replay.filter (fun x => decide (h.ack < x.1 + packetFlits x.2))
    credits := h.credits.foldl (fun (m : NMap Nat) (x : Nat × Nat) => m.put x.1 (m.getD x.1 (Config.linkCredits x.1) + x.2)) k.credits }
  k1.pump k1.waiting.length

/-- Packets of deterministic mode that are sent again can miss their slots: each sets DETMISS in its task or not, by a free value
(R418, R153). -/
def State.noteRetry (s : State) (ps : List Packet) : State :=
  (ps.filter (fun p => p.vc == 5 && decide (p.src < 2 ^ 20) && !bodyAnswers p.body)).foldl (fun s p =>
    let r := s.draw
    if r.1.getLsbD 0 then r.2.updFrame p.sender (fun f => f.setSticky bitDetmiss) else r.2) s

/-- A packet that a link has brought goes on: to a module further on, over the link toward it (R420), or into this module's
network. The way from the hub to the target adds 2 h(t) cycles, and a message's execution 8 (R151, R152). -/
def State.flitPacket (s : State) (k : Link) (p : Packet) : State :=
  if 2 ^ 23 ≤ p.dst then s.toLink p
  else
    let r := s.fresh
    let rest := 2 * hubHops (endPos p.dst) + (match p.body with | .access _ => 0 | _ => 8)
    let p1 := { p with id := r.1, after := [], notBefore := s.cycle + rest }
    match retriedSend k.unanswered p with
    | some q =>
      (r.2.updCore (tabKey q.sender) (fun c => { c with retryBuf := c.retryBuf ++ [q] })).later (rest + 64) (.sendRetryResend q.id)
    | none => { r.2 with net := r.2.net ++ [p1] }.later rest (packetStep p1)

/-- FLIT_RECEIVE: a flit from the neighbour. One that fails its CRC is dropped, and the neighbour sends it again. Its header acts;
its packet is taken once, when its sequence number is the one expected, so that each comes exactly once and in order. A
neighbour that asks for what it has not received is sent it again from the replay buffer, which changes no more than times. -/
def execFlitReceive (l : Nat) (crcOk : Bool) (f : Flit) (s : State) : Out :=
  let k := s.hub.links.getD l {}
  let h := f.head
  if !crcOk || !k.up then .next s
  else
    let k1 := k.head h
    let s1 := s.updHub (fun x => { x with links := x.links.put l k1 })
    let s2 := if h.again then s1.noteRetry (k1.replay.map (·.2)) else s1
    match f.packet with
    | none => .next s2
    | some p =>
      if h.seq ≠ k1.received % 1024 then .next s2
      else
        let k2 := { k1 with unanswered := removeFirst (answers p) k1.unanswered, received := k1.received + packetFlits p }
        .next ((s2.updHub (fun x => { x with links := x.links.put l k2 })).flitPacket k p)

/-- A communicator whose tree uses a link: a member's module is reached over it. -/
def State.commUses (s : State) (c : Comm) (l : Nat) : Bool :=
  c.members.any (fun m =>
    match (s.part c.part.toNat).logical[m]? with
    | some e => tableModule e != s.module.toNat && (s.route (tableModule e)).toNat % 32 == l
    | none => false)

/-- A communicator breaks: every open round ends with ISOL at each member (R421). -/
def State.breakComm (s : State) (num : Nat) : State :=
  let c := s.hub.comms.getD num {}
  let s1 := (c.rounds.flatten).foldl (fun s id => s.endReduce id 5) s
  s1.updHub (fun h => { h with comms := h.comms.put num { c with state := 2, rounds := [], remote := [] } })

/-- LINK_DOWN: the replay buffer is discarded, every unanswered request is refused, communicators on the link break, LDOWN
is set and MSI-X vector 1 raised. -/
def execLinkDown (l : Nat) (s : State) : Out :=
  let k := s.hub.links.getD l {}
  if !k.up then .next s
  else
    let bit : BitVec 18 := 1 <<< l
    let s1 := s.updHub (fun h => { h with
      links := h.links.put l {}, lup := h.lup &&& ~~~ bit,
      ldown := h.ldown ||| bit, msix := h.msix ++ [1] })
    let broken := (s.hub.comms.filter (fun c => c.2.state == 1 && s.commUses c.2 l)).map (·.1)
    .next (broken.foldl State.breakComm (k.unanswered.foldl State.refusePacket s1))

/-- LINK_RETRAIN: the link is up; one that was down begins with empty buffers, sequence numbers from 0 and its first credits. -/
def execLinkRetrain (l : Nat) (s : State) : Out :=
  let k := s.hub.links.getD l {}
  .next (s.updHub (fun h => { h with links := h.links.put l { k with up := true }, lup := h.lup ||| 1 <<< l }))

/-! ## Time (R422) and power (R424) -/

/-- TIMESTAMP_SYNC: the count slews by at most 200 ppm. -/
def execTimestampSync (ppm : Int) (s : State) : Out :=
  .next { s with slew := if ppm < -200 then -200 else if 200 < ppm then 200 else ppm }

/-- A measurement is over its limit: reading 0 is the input power against the power limit; reading d + 1 is the temperature
of die d, whose limit is not given (log entry 7). -/
def State.overLimit (s : State) (r : Nat × Nat) : Bool :=
  if r.1 = 0 then decide (s.hub.powerLimit < r.2) else Config.throttle r.1 r.2 % 2 == 1

/-- The factor k that a measurement over a limit gives: 8 to 16 (log entry 7). -/
def throttleK (limit : Nat) (rs : List (Nat × Nat)) : Nat :=
  8 + Config.throttle limit ((rs.map (fun r => r.1 * 2 ^ 20 + r.2)).sum) % 9

/-- A partition has a core on a die that cannot hold its clock (R427). -/
def State.onSlowDie (s : State) (tag : Nat) : Bool := (s.partCores tag).any (fun k => s.hub.slowDies.contains (k / 2048))

/-- The lowest factor that another module of a partition gives it (R424). -/
def State.otherK (s : State) (tag : Nat) (others : List (Nat × Nat)) : Nat :=
  ((others.filter (fun x => x.1 != s.module.toNat && (s.part tag).logical.any (fun e => tableModule e == x.1))).map
    (·.2)).foldl min 16

/-- POWER_SAMPLE: each partition takes its new factor at the next budget period, the lowest of its modules. -/
def execPowerSample (x : PowerReadings) (s : State) : Out :=
  let rs := x.own
  let mine (tag : Nat) : Nat := if rs.any s.overLimit || s.onSlowDie tag then throttleK s.hub.powerLimit rs else 16
  .next { s with parts := s.parts.map (fun p => (p.1, { p.2 with kNext := min (mine p.1) (s.otherK p.1 x.others) })) }

/-! ## Health (R427 to R429) -/

/-- AGEING_MONITOR_READ: the die's supply is planned within 320 to 420 mV; a die that cannot hold its clock at 420 mV is reported on
MSI-X vector 1, and its clock follows R424. -/
def execAgeingMonitorRead (die mv : Nat) (holds : Bool) (s : State) : Out :=
  let v := max 320 (min 420 mv)
  let slow := v == 420 && !holds
  .next (s.updHub (fun h => { h with
    supply := h.supply.put die v, msix := if slow then h.msix ++ [1] else h.msix,
    slowDies := (h.slowDies.filter (· != die)) ++ (if slow then [die] else []) }))

/-- The core and offset of a patrolled pool word, or of the first of the 64 words whose state bits a metadata word holds:
addresses from 2^31 on name metadata words (R56), from 2^32 on words of the Geyser pools. -/
def patrolWord (addr : Nat) : Nat × Nat :=
  if addr < 2 ^ 31 then (addr / 2 ^ 17, addr % 2 ^ 17)
  else if addr < 2 ^ 32 then ((addr - 2 ^ 31) / 256, (addr - 2 ^ 31) % 256 * 512)
  else (2 ^ 20 + (addr - 2 ^ 32) / 2 ^ 16, addr % 2 ^ 16)

/-- The key of a patrolled word or line, and the endpoint of its storage: a line of HBM4E, or from 2^42 on of a cache slice; a word
of a pool, of metadata or of a Geyser pool; from 2^33 on other storage by its own key (R428). -/
def patrolPlace (device : Bool) (addr : Nat) : Nat × Nat :=
  if device then
    (if addr < 2 ^ 42 then 2 ^ 30 + addr / 64 else sliceKey ((addr - 2 ^ 42) / 64), 2 ^ 20 + paChannel addr)
  else if 2 ^ 33 ≤ addr then (addr - 2 ^ 33, keyEnd (addr - 2 ^ 33))
  else
    let w := patrolWord addr
    (if addr < 2 ^ 31 then wordKey w.1 w.2 else if addr < 2 ^ 32 then metaKey w.1 w.2 else geyserKey (w.1 - 2 ^ 20) w.2, w.1)

/-- The partition of a compute core or of a channel's Geyser; none while it has none. -/
def State.ownerOf (s : State) (e : Nat) : Option (BitVec 10) :=
  if e < 2 ^ 20 then (if (s.core e).epoch = 0 then none else some (s.core e).tag)
  else if (s.hub.owners.getD (e - 2 ^ 20) []).length = 1 then some (s.geyser (e - 2 ^ 20)).tag
  else none

/-- The partition whose storage a word or line is; none where it is no partition's (R401). -/
def State.patrolTag (s : State) (device : Bool) (addr : Nat) : Option (BitVec 10) :=
  let key := (patrolPlace device addr).1
  if device then
    let u := addr / 2 ^ 16 % 2 ^ 16
    ((s.hub.owners.getD (paChannel addr) []).find? (fun o => decide (o.base.toNat ≤ u) && decide (u ≤ o.limit.toNat))).map (·.tag)
  else if 2 ^ 28 + 2 ^ 26 ≤ key ∧ key < 2 ^ 29 then
    let f := s.future (key - 2 ^ 28 - 2 ^ 26)
    if f.state = .free then none else some f.owner
  else if 2 ^ 28 + 2 ^ 25 ≤ key ∧ key < 2 ^ 28 + 2 ^ 25 + 2 ^ 20 then (s.fifo (key - 2 ^ 28 - 2 ^ 25)).owner
  else if 2 ^ 28 + 2 ^ 25 + 2 ^ 20 ≤ key ∧ key < 2 ^ 28 + 2 ^ 25 + 2 ^ 21 then
    ((s.cluster (key - (2 ^ 28 + 2 ^ 25 + 2 ^ 20))).lease).map (fun l => (s.core l.core).tag)
  else if 2 ^ 28 + 2 ^ 25 + 2 ^ 21 ≤ key ∧ key < 2 ^ 28 + 2 ^ 26 then none
  else s.ownerOf (patrolPlace device addr).2

/-- The address that a report of a patrolled place carries. -/
def patrolVa (device : Bool) (addr : Nat) : Nat :=
  if device then addr % 2 ^ 42 else if 2 ^ 33 ≤ addr then 0 else (patrolWord addr).2

/-- PATROL_SCRUB of a pool word (addr = core * 2^17 + offset), a metadata word (addr = 2^31 + core * 256 + group), a word of a
Geyser pool (addr = 2^32 + channel * 2^16 + offset), other storage (addr = 2^33 + key), a line of HBM4E or a cache line (from
2^42): nothing found (0), a correctable error corrected and counted (1), an uncorrectable one that proves transient (2) or
lasting (3); 4, 5 and 6 mark storage that has gone bad and that no read has met yet: transient, lasting or correctable. -/
def execPatrolScrub (device : Bool) (addr outcome : Nat) (s : State) : Out :=
  let x := patrolPlace device addr
  let die := (endPos x.2).1
  let e := s.hub.errors.getD die {}
  match outcome with
  | 1 => .next (s.updHub (fun h => { h with errors := h.errors.put die { e with corr := satAdd e.corr 1 } }))
  | 2 => .next ({ s with bad := s.bad.put x.1 .transient }.transient die x.1)
  | 3 =>
    let s1 := { s with bad := s.bad.put x.1 .lasting }
    let t := s.patrolTag device addr
    .next (s1.lasting x.2 (t.getD 0) (patrolVa device addr) (if device then some (addr % 2 ^ 42 / 2 ^ 16) else none) t.isNone)
  | 4 => .next { s with bad := s.bad.put x.1 .transient }
  | 5 => .next { s with bad := s.bad.put x.1 .lasting }
  | 6 => .next { s with bad := s.bad.put x.1 .correctable }
  | _ => .next s

/-! ## Resets, attestation and the host link (R93, R99, R356, R430, R431) -/

/-- The attestation certificate is issued again, with the digest of a boot log. -/
def Attest.reissue (a : Attest) (log : List (BitVec 256)) : Attest := { issue := a.issue + 1, log }

/-- Byte i of the chain that the physical function reads from the hub: the attestation certificate and the certificate of
the module identity key (R431; log entry 97). -/
def State.attestChain (s : State) (i : Nat) : Byte := Config.attestChain s.hub.attest.issue s.hub.attest.log i

/-- Steps 2 and 3 of a module reset: the image is signed by the key whose digest is fused, and its version is at least the fused
minimum (R430). -/
def imageVerifies (i : BootImage) (minimum : Nat) : Bool :=
  i.signed && i.keyDigest == Config.fusedKeyDigest && decide (minimum ≤ i.version)

/-- MODULE_RESET: an image that verifies boots, with every partition unassigned and all state as after a full scrub; one
that does not leaves the module in recovery. Host memory, the scrub sequence number, the fused minimum version, the boot log and
the attestation certificate stay; an image other than the last one is a firmware update, and re-issues the certificate
(R431). -/
def execModuleReset (image : BootImage) (digest : BitVec 256) (s : State) : Out :=
  let r := State.reset
  let ok := imageVerifies image s.hub.minVersion
  let log := if ok then s.hub.bootLog ++ [digest] else s.hub.bootLog
  let h : Hub := { r.hub with
    scrubSeq := s.hub.scrubSeq, recovery := !ok, hostUp := s.hub.hostUp, bootLog := log, minVersion := s.hub.minVersion,
    attest := if ok && s.hub.bootLog.getLast? != some digest then s.hub.attest.reissue log else s.hub.attest }
  .next { r with hub := h, host := s.host, tape := s.tape, nextId := s.nextId, free := s.free }

/-- HOST_LINK_CHANGE: the host link goes down or trains; non-posted requests under way end by their own steps. -/
def execHostLinkChange (up : Bool) (s : State) : Out := .next (s.updHub (fun h => { h with hostUp := up }))

/-- VIRTUAL_FUNCTION_RESET: the generation rises, request identifiers restart at 0 and launch sequence numbers at 1. -/
def execVirtualFunctionReset (vf : Nat) (s : State) : Out := .next ((s.raiseGen vf).updVf vf (fun v => { v with nextLseq := 1 }))

end Sys2Proof.Machine
end

