-- ==== Sys2Proof/Machine/Dispatch.lean ====
section
/-! DEFINITION. The one match from instructions to their meanings. -/

namespace Sys2Proof.Machine

def exec (i : Instr) (s : State) : Host.Outcome State Fault Refusal :=
  match i with
  | .add q rd ra rb => Sys2Proof.Machine.execAdd q rd ra rb s
  | .sub q rd ra rb => Sys2Proof.Machine.execSub q rd ra rb s
  | .mul q rd ra rb => Sys2Proof.Machine.execMul q rd ra rb s
  | .mulh q rd ra rb => Sys2Proof.Machine.execMulh q rd ra rb s
  | .mulhu q rd ra rb => Sys2Proof.Machine.execMulhu q rd ra rb s
  | .div q rd ra rb => Sys2Proof.Machine.execDiv q rd ra rb s
  | .divu q rd ra rb => Sys2Proof.Machine.execDivu q rd ra rb s
  | .rem q rd ra rb => Sys2Proof.Machine.execRem q rd ra rb s
  | .remu q rd ra rb => Sys2Proof.Machine.execRemu q rd ra rb s
  | .and q rd ra rb => Sys2Proof.Machine.execAnd q rd ra rb s
  | .or q rd ra rb => Sys2Proof.Machine.execOr q rd ra rb s
  | .xor q rd ra rb => Sys2Proof.Machine.execXor q rd ra rb s
  | .shl q rd ra rb => Sys2Proof.Machine.execShl q rd ra rb s
  | .shr q rd ra rb => Sys2Proof.Machine.execShr q rd ra rb s
  | .sar q rd ra rb => Sys2Proof.Machine.execSar q rd ra rb s
  | .rol q rd ra rb => Sys2Proof.Machine.execRol q rd ra rb s
  | .min q rd ra rb => Sys2Proof.Machine.execMin q rd ra rb s
  | .max q rd ra rb => Sys2Proof.Machine.execMax q rd ra rb s
  | .minu q rd ra rb => Sys2Proof.Machine.execMinu q rd ra rb s
  | .maxu q rd ra rb => Sys2Proof.Machine.execMaxu q rd ra rb s
  | .adc q rd ra rb pc pd => Sys2Proof.Machine.execAdc q rd ra rb pc pd s
  | .sbc q rd ra rb pc pd => Sys2Proof.Machine.execSbc q rd ra rb pc pd s
  | .sel q rd ra rb ps inv => Sys2Proof.Machine.execSel q rd ra rb ps inv s
  | .cmp q rd ra rb pd c => Sys2Proof.Machine.execCmp q rd ra rb pd c s
  | .addi rd ra imm => Sys2Proof.Machine.execAddi rd ra imm s
  | .andi rd ra imm => Sys2Proof.Machine.execAndi rd ra imm s
  | .ori rd ra imm => Sys2Proof.Machine.execOri rd ra imm s
  | .xori rd ra imm => Sys2Proof.Machine.execXori rd ra imm s
  | .shli rd ra sh => Sys2Proof.Machine.execShli rd ra sh s
  | .shri rd ra sh => Sys2Proof.Machine.execShri rd ra sh s
  | .sari rd ra sh => Sys2Proof.Machine.execSari rd ra sh s
  | .cmpi rd ra c pd imm => Sys2Proof.Machine.execCmpi rd ra c pd imm s
  | .lea rd delta head => Sys2Proof.Machine.execLea rd delta head s
  | .clz rd ra => Sys2Proof.Machine.execClz rd ra s
  | .ctz rd ra => Sys2Proof.Machine.execCtz rd ra s
  | .popc rd ra => Sys2Proof.Machine.execPopc rd ra s
  | .movpPredFromG pd ra => Sys2Proof.Machine.execMovpPredFromG pd ra s
  | .movpGFromPred rd pa => Sys2Proof.Machine.execMovpGFromPred rd pa s
  | .movpPredFromPred pd pa => Sys2Proof.Machine.execMovpPredFromPred pd pa s
  | .pand pd pa pb => Sys2Proof.Machine.execPand pd pa pb s
  | .por pd pa pb => Sys2Proof.Machine.execPor pd pa pb s
  | .pxor pd pa pb => Sys2Proof.Machine.execPxor pd pa pb s
  | .pnot pd pa => Sys2Proof.Machine.execPnot pd pa s
  | .bfx q rd ra rb len sgn => Sys2Proof.Machine.execBfx q rd ra rb len sgn s
  | .bfi q rd ra rb len => Sys2Proof.Machine.execBfi q rd ra rb len s
  | .li rd zx imm => Sys2Proof.Machine.execLi rd zx imm s
  | .lih rd imm => Sys2Proof.Machine.execLih rd imm s
  | .gptrOwn rd ra => Sys2Proof.Machine.execGptrOwn rd ra s
  | .gptrBlk rd ra => Sys2Proof.Machine.execGptrBlk rd ra s
  | .gptrIlv rd ra => Sys2Proof.Machine.execGptrIlv rd ra s
  | .gwinCls rd ra => Sys2Proof.Machine.execGwinCls rd ra s
  | .gwinLoc rd ra => Sys2Proof.Machine.execGwinLoc rd ra s
  | .br p inv delta head => Sys2Proof.Machine.execBr p inv delta head s
  | .brc p inv delta head => Sys2Proof.Machine.execBrc p inv delta head s
  | .jmp delta head => Sys2Proof.Machine.execJmp delta head s
  | .jal delta head => Sys2Proof.Machine.execJal delta head s
  | .jr ra => Sys2Proof.Machine.execJr ra s
  | .jalr rd ra => Sys2Proof.Machine.execJalr rd ra s
  | .loop rd ra delta head => Sys2Proof.Machine.execLoop rd ra delta head s
  | .nop => Sys2Proof.Machine.execNop s
  | .ld rt rb am sz off => Sys2Proof.Machine.execLd rt rb am sz off s
  | .st rt rb am sz off => Sys2Proof.Machine.execSt rt rb am sz off s
  | .vld vt rb am off => Sys2Proof.Machine.execVld vt rb am off s
  | .vst vt rb am off => Sys2Proof.Machine.execVst vt rb am off s
  | .lds rt rb am sz off => Sys2Proof.Machine.execLds rt rb am sz off s
  | .ldsp rt rb am sz off => Sys2Proof.Machine.execLdsp rt rb am sz off s
  | .sts rt rb am sz off => Sys2Proof.Machine.execSts rt rb am sz off s
  | .fesetFull rb am sz off => Sys2Proof.Machine.execFesetFull rb am sz off s
  | .fesetEmpty rb am sz off => Sys2Proof.Machine.execFesetEmpty rb am sz off s
  | .amo rt rb rc am dw op o off => Sys2Proof.Machine.execAmo rt rb rc am dw op o off s
  | .cas rt rb rc am dw o off => Sys2Proof.Machine.execCas rt rb rc am dw o off s
  | .fence o => Sys2Proof.Machine.execFence o s
  | .cgo rd => Sys2Proof.Machine.execCgo rd s
  | .csub rd ra rb => Sys2Proof.Machine.execCsub rd ra rb s
  | .cunsub rd ra => Sys2Proof.Machine.execCunsub rd ra s
  | .xld rt rb am sz o off => Sys2Proof.Machine.execXld rt rb am sz o off s
  | .xst rt rb am sz o off => Sys2Proof.Machine.execXst rt rb am sz o off s
  | .xpush rt rb rc am o off => Sys2Proof.Machine.execXpush rt rb rc am o off s
  | .xpref rb am off => Sys2Proof.Machine.execXpref rb am off s
  | .xtlbi rt rb rc am off => Sys2Proof.Machine.execXtlbi rt rb rc am off s
  | .xtlbiAll rt am => Sys2Proof.Machine.execXtlbiAll rt am s
  | .spawn rd ra rb pd t => Sys2Proof.Machine.execSpawn rd ra rb pd t s
  | .spawnr rd ra rb pd t => Sys2Proof.Machine.execSpawnr rd ra rb pd t s
  | .spawni rd ra rb pd t prio nt => Sys2Proof.Machine.execSpawni rd ra rb pd t prio nt s
  | .grow rd ra pd => Sys2Proof.Machine.execGrow rd ra pd s
  | .touch rd ra pd c => Sys2Proof.Machine.execTouch rd ra pd c s
  | .touchq rd ra => Sys2Proof.Machine.execTouchq rd ra s
  | .resolve ra rb pd => Sys2Proof.Machine.execResolve ra rb pd s
  | .cancel rd ra => Sys2Proof.Machine.execCancel rd ra s
  | .fdrop ra pd => Sys2Proof.Machine.execFdrop ra pd s
  | .joini rd ra rb prio => Sys2Proof.Machine.execJoini rd ra rb prio s
  | .retire => Sys2Proof.Machine.execRetire s
  | .waitw => Sys2Proof.Machine.execWaitw s
  | .waitm rd => Sys2Proof.Machine.execWaitm rd s
  | .yield => Sys2Proof.Machine.execYield s
  | .send ra rb tag sys => Sys2Proof.Machine.execSend ra rb tag sys s
  | .trap fn => Sys2Proof.Machine.execTrap fn s
  | .eret => Sys2Proof.Machine.execEret s
  | .crd rd num => Sys2Proof.Machine.execCrd rd num s
  | .cwr ra num => Sys2Proof.Machine.execCwr ra num s
  | .time rd => Sys2Proof.Machine.execTime rd s
  | .flushi line ra => Sys2Proof.Machine.execFlushi line ra s
  | .dbrk => Sys2Proof.Machine.execDbrk s
  | .halt => Sys2Proof.Machine.execHalt s
  | .scrub rd fn => Sys2Proof.Machine.execScrub rd fn s
  | .tabw fn x ra => Sys2Proof.Machine.execTabw fn x ra s
  | .tabr fn x rd => Sys2Proof.Machine.execTabr fn x rd s
  | .vadd lt sat vd va vb gp => Sys2Proof.Machine.execVadd lt sat vd va vb gp s
  | .vsub lt sat vd va vb gp => Sys2Proof.Machine.execVsub lt sat vd va vb gp s
  | .vadc lt vd va vb ps pd gp => Sys2Proof.Machine.execVadc lt vd va vb ps pd gp s
  | .vsbc lt vd va vb ps pd gp => Sys2Proof.Machine.execVsbc lt vd va vb ps pd gp s
  | .vmul lt vd va vb gp => Sys2Proof.Machine.execVmul lt vd va vb gp s
  | .vmulh lt u vd va vb gp => Sys2Proof.Machine.execVmulh lt u vd va vb gp s
  | .vmadw lt hi vd va vb vc ps pd gp => Sys2Proof.Machine.execVmadw lt hi vd va vb vc ps pd gp s
  | .vmin lt u vd va vb gp => Sys2Proof.Machine.execVmin lt u vd va vb gp s
  | .vmax lt u vd va vb gp => Sys2Proof.Machine.execVmax lt u vd va vb gp s
  | .vabs lt vd va gp => Sys2Proof.Machine.execVabs lt vd va gp s
  | .vand lt vd va vb gp => Sys2Proof.Machine.execVand lt vd va vb gp s
  | .vor lt vd va vb gp => Sys2Proof.Machine.execVor lt vd va vb gp s
  | .vxor lt vd va vb gp => Sys2Proof.Machine.execVxor lt vd va vb gp s
  | .vshl lt vd va vb gp => Sys2Proof.Machine.execVshl lt vd va vb gp s
  | .vshr lt vd va vb gp => Sys2Proof.Machine.execVshr lt vd va vb gp s
  | .vsar lt vd va vb gp => Sys2Proof.Machine.execVsar lt vd va vb gp s
  | .vcmp lt c nv vd va vb pd gp => Sys2Proof.Machine.execVcmp lt c nv vd va vb pd gp s
  | .vsel lt vd va vb ps gp => Sys2Proof.Machine.execVsel lt vd va vb ps gp s
  | .vperm vd va vb gp => Sys2Proof.Machine.execVperm vd va vb gp s
  | .vsplat lt vd g gp => Sys2Proof.Machine.execVsplat lt vd g gp s
  | .vextr lt sx g va idx => Sys2Proof.Machine.execVextr lt sx g va idx s
  | .vins lt vd g idx gp => Sys2Proof.Machine.execVins lt vd g idx gp s
  | .vred lt op r vd va gp => Sys2Proof.Machine.execVred lt op r vd va gp s
  | .vmov lt vd va gp => Sys2Proof.Machine.execVmov lt vd va gp s
  | .vfadd f19 r vd va vb gp => Sys2Proof.Machine.execVfadd f19 r vd va vb gp s
  | .vfsub f19 r vd va vb gp => Sys2Proof.Machine.execVfsub f19 r vd va vb gp s
  | .vfmul f19 r vd va vb gp => Sys2Proof.Machine.execVfmul f19 r vd va vb gp s
  | .vfma f19 r np nc vd va vb vc gp => Sys2Proof.Machine.execVfma f19 r np nc vd va vb vc gp s
  | .vfmin f19 vd va vb gp => Sys2Proof.Machine.execVfmin f19 vd va vb gp s
  | .vfmax f19 vd va vb gp => Sys2Proof.Machine.execVfmax f19 vd va vb gp s
  | .vfcmp f19 c nv vd va vb pd gp => Sys2Proof.Machine.execVfcmp f19 c nv vd va vb pd gp s
  | .vsfu f19 r fn vd va gp => Sys2Proof.Machine.execVsfu f19 r fn vd va gp s
  | .vcvt dst src r su du sat part vd va gp => Sys2Proof.Machine.execVcvt dst src r su du sat part vd va gp s
  | .vdec b g x vd va vc gp => Sys2Proof.Machine.execVdec b g x vd va vc gp s
  | .venc f19 b g x vd va vb vc => Sys2Proof.Machine.execVenc f19 b g x vd va vb vc s
  | .vplaneScan f19 r vd va vc => Sys2Proof.Machine.execVplaneScan f19 r vd va vc s
  | .vplaneFix r w vd va => Sys2Proof.Machine.execVplaneFix r w vd va s
  | .vplaneAlign f19 r q kind vd va vb vc => Sys2Proof.Machine.execVplaneAlign f19 r q kind vd va vb vc s
  | .vplaneTr r pair vd va vb vc => Sys2Proof.Machine.execVplaneTr r pair vd va vb vc s
  | .vunplGather i16 g r h vd va vb => Sys2Proof.Machine.execVunplGather i16 g r h vd va vb s
  | .vunplVal i16 q vd va vb vc => Sys2Proof.Machine.execVunplVal i16 q vd va vb vc s
  | .vquant half h vd va vc gp => Sys2Proof.Machine.execVquant half h vd va vc gp s
  | .vquantInv half h vd va vb vc gp => Sys2Proof.Machine.execVquantInv half h vd va vb vc gp s
  | .vrand lt vd gp => Sys2Proof.Machine.execVrand lt vd gp s
  | .alease l => Sys2Proof.Machine.execAlease l s
  | .arel => Sys2Proof.Machine.execArel s
  | .aset o t entry p sat skip rm => Sys2Proof.Machine.execAset o t entry p sat skip rm s
  | .aldb o t view ga gb rstr n k => Sys2Proof.Machine.execAldb o t view ga gb rstr n k s
  | .astr o t view ga aoff rstr m => Sys2Proof.Machine.execAstr o t view ga aoff rstr m s
  | .adrn o t view ga aoff n m wd clr tr mode => Sys2Proof.Machine.execAdrn o t view ga aoff n m wd clr tr mode s
  | .azero o t aoff n m => Sys2Proof.Machine.execAzero o t aoff n m s
  | .amark acq scope tag => Sys2Proof.Machine.execAmark acq scope tag s
  | .qpush n ga => Sys2Proof.Machine.execQpush n ga s
  | .bundleFetch slot => Sys2Proof.Machine.execBundleFetch slot s
  | .istoreFill fill => Sys2Proof.Machine.execIstoreFill fill s
  | .portEngineMessage packet => Sys2Proof.Machine.execPortEngineMessage packet s
  | .deferredRetryResend packet => Sys2Proof.Machine.execDeferredRetryResend packet s
  | .accessResponse packet => Sys2Proof.Machine.execAccessResponse packet s
  | .scrubClearingEnd scrub => Sys2Proof.Machine.execScrubClearingEnd scrub s
  | .copyCommand copy => Sys2Proof.Machine.execCopyCommand copy s
  | .burstAdmission copy => Sys2Proof.Machine.execBurstAdmission copy s
  | .burstComplete copy burst => Sys2Proof.Machine.execBurstComplete copy burst s
  | .copyCompletion copy => Sys2Proof.Machine.execCopyCompletion copy s
  | .mailboxRecordPlace mailbox => Sys2Proof.Machine.execMailboxRecordPlace mailbox s
  | .tlbInvalidation inv channel => Sys2Proof.Machine.execTlbInvalidation inv channel s
  | .geyserPrefetch channel stream => Sys2Proof.Machine.execGeyserPrefetch channel stream s
  | .trapMessage msg => Sys2Proof.Machine.execTrapMessage msg s
  | .hubTrapMessage beacon => Sys2Proof.Machine.execHubTrapMessage beacon s
  | .pageRequestRecord req => Sys2Proof.Machine.execPageRequestRecord req s
  | .pageResponse vf rid gen code => Sys2Proof.Machine.execPageResponse vf rid gen code s
  | .priPageRequest req => Sys2Proof.Machine.execPriPageRequest req s
  | .prgResponse vf index gen code => Sys2Proof.Machine.execPrgResponse vf index gen code s
  | .hostCompletion req error => Sys2Proof.Machine.execHostCompletion req error s
  | .hostCompletionTimeout req => Sys2Proof.Machine.execHostCompletionTimeout req s
  | .atsInvalidateRequest vf va len => Sys2Proof.Machine.execAtsInvalidateRequest vf va len s
  | .atsInvalidateCompletion inv => Sys2Proof.Machine.execAtsInvalidateCompletion inv s
  | .multicastJoin join => Sys2Proof.Machine.execMulticastJoin join s
  | .multicastJoinAck join => Sys2Proof.Machine.execMulticastJoinAck join s
  | .multicastLeave leave => Sys2Proof.Machine.execMulticastLeave leave s
  | .multicastPush tile router => Sys2Proof.Machine.execMulticastPush tile router s
  | .multicastDelivery tile core => Sys2Proof.Machine.execMulticastDelivery tile core s
  | .reduceContribution copy => Sys2Proof.Machine.execReduceContribution copy s
  | .spawnRecordRead packet => Sys2Proof.Machine.execSpawnRecordRead packet s
  | .futureEvent packet => Sys2Proof.Machine.execFutureEvent packet s
  | .futureWake packet => Sys2Proof.Machine.execFutureWake packet s
  | .spillWriteCompletion spill => Sys2Proof.Machine.execSpillWriteCompletion spill s
  | .spillReadCompletion spill => Sys2Proof.Machine.execSpillReadCompletion spill s
  | .joinDecrement packet => Sys2Proof.Machine.execJoinDecrement packet s
  | .sendMessageArrival packet => Sys2Proof.Machine.execSendMessageArrival packet s
  | .sendRetryResend packet => Sys2Proof.Machine.execSendRetryResend packet s
  | .launchRecord vf whole dwords => Sys2Proof.Machine.execLaunchRecord vf whole dwords s
  | .launchCheck tag => Sys2Proof.Machine.execLaunchCheck tag s
  | .launchRangeRequest tag lseq cluster => Sys2Proof.Machine.execLaunchRangeRequest tag lseq cluster s
  | .launchCompletion tag lseq => Sys2Proof.Machine.execLaunchCompletion tag lseq s
  | .taskDispatch cluster => Sys2Proof.Machine.execTaskDispatch cluster s
  | .tilePrefetchStart cluster => Sys2Proof.Machine.execTilePrefetchStart cluster s
  | .prefetchCompletion copy => Sys2Proof.Machine.execPrefetchCompletion copy s
  | .stealRequest cluster => Sys2Proof.Machine.execStealRequest cluster s
  | .budgetPeriod => Sys2Proof.Machine.execBudgetPeriod s
  | .watchdogExpiry frame => Sys2Proof.Machine.execWatchdogExpiry frame s
  | .timerExpiry core => Sys2Proof.Machine.execTimerExpiry core s
  | .mailInterrupt slot => Sys2Proof.Machine.execMailInterrupt slot s
  | .engineTrapEntry slot => Sys2Proof.Machine.execEngineTrapEntry slot s
  | .cancelInterrupt slot => Sys2Proof.Machine.execCancelInterrupt slot s
  | .leaseGrant cluster => Sys2Proof.Machine.execLeaseGrant cluster s
  | .leaseExpiry cluster => Sys2Proof.Machine.execLeaseExpiry cluster s
  | .arrayCommandComplete cluster => Sys2Proof.Machine.execArrayCommandComplete cluster s
  | .preemptSlice tag => Sys2Proof.Machine.execPreemptSlice tag s
  | .preempt core => Sys2Proof.Machine.execPreempt core s
  | .contextSave tag => Sys2Proof.Machine.execContextSave tag s
  | .contextSaveDone tag => Sys2Proof.Machine.execContextSaveDone tag s
  | .resume tag => Sys2Proof.Machine.execResume tag s
  | .restoreDone tag => Sys2Proof.Machine.execRestoreDone tag s
  | .containmentDelayExpiry tag => Sys2Proof.Machine.execContainmentDelayExpiry tag s
  | .containmentReset tag cause => Sys2Proof.Machine.execContainmentReset tag cause s
  | .partitionResetRequest tag => Sys2Proof.Machine.execPartitionResetRequest tag s
  | .scrubCommand tag scope assign seed => Sys2Proof.Machine.execScrubCommand tag scope assign seed s
  | .scrubComplete tag => Sys2Proof.Machine.execScrubComplete tag s
  | .certificateSigned tag => Sys2Proof.Machine.execCertificateSigned tag s
  | .certificateWriteDone tag => Sys2Proof.Machine.execCertificateWriteDone tag s
  | .token vf ptr => Sys2Proof.Machine.execToken vf ptr s
  | .prring vf ptr => Sys2Proof.Machine.execPrring vf ptr s
  | .run vf k t word v => Sys2Proof.Machine.execRun vf k t word v s
  | .geyserThreadStop slot => Sys2Proof.Machine.execGeyserThreadStop slot s
  | .channelTableWrite channel k owners => Sys2Proof.Machine.execChannelTableWrite channel k owners s
  | .steeringTableWrite tag entries => Sys2Proof.Machine.execSteeringTableWrite tag entries s
  | .logicalTableWrite tag entries => Sys2Proof.Machine.execLogicalTableWrite tag entries s
  | .routeTableWrite module entry schedule => Sys2Proof.Machine.execRouteTableWrite module entry schedule s
  | .communicatorWrite num part op members => Sys2Proof.Machine.execCommunicatorWrite num part op members s
  | .guestTimeOffsetWrite tag x => Sys2Proof.Machine.execGuestTimeOffsetWrite tag x s
  | .hubTableWrite w => Sys2Proof.Machine.execHubTableWrite w s
  | .pageStaleClear vf bits => Sys2Proof.Machine.execPageStaleClear vf bits s
  | .ringUpdate tag ring => Sys2Proof.Machine.execRingUpdate tag ring s
  | .ringNoticeTimeout tag ring => Sys2Proof.Machine.execRingNoticeTimeout tag ring s
  | .ringConsReread rcb => Sys2Proof.Machine.execRingConsReread rcb s
  | .flitReceive link crcOk flit => Sys2Proof.Machine.execFlitReceive link crcOk flit s
  | .linkDown link => Sys2Proof.Machine.execLinkDown link s
  | .linkRetrain link => Sys2Proof.Machine.execLinkRetrain link s
  | .timestampSync ppm => Sys2Proof.Machine.execTimestampSync ppm s
  | .powerSample readings => Sys2Proof.Machine.execPowerSample readings s
  | .ageingMonitorRead die millivolts holds => Sys2Proof.Machine.execAgeingMonitorRead die millivolts holds s
  | .patrolScrub device addr outcome => Sys2Proof.Machine.execPatrolScrub device addr outcome s
  | .moduleReset image digest => Sys2Proof.Machine.execModuleReset image digest s
  | .hostLinkChange up => Sys2Proof.Machine.execHostLinkChange up s
  | .virtualFunctionReset vf => Sys2Proof.Machine.execVirtualFunctionReset vf s

end Sys2Proof.Machine
end

