-- ==== Sys2Proof/Machine/Issue.lean ====
section
/-! DEFINITION. What surrounds the steps: the advance of the cycle, the rotation, the boundary before a bundle and the end
of one, and the choice of the next step (R154 to R156, R160, R240, R371, R377, R422, R426). -/

namespace Sys2Proof.Machine

/-! ## The rotation (R72, R75, R154, R155, R386) -/

/-- A slot's thread is in the rotation. -/
def State.inRotation (s : State) (sk : Nat) : Bool :=
  let r := s.slot sk
  r.state == .run && r.frame.isSome &&
    (if isGeyserSlot sk then
      ((s.geyser (slotCore sk)).thread (slotNum sk)).state == 1 && !s.partStopped (s.geyser (slotCore sk)).tag.toNat
     else !(s.core (slotCore sk)).preempted)

/-- Slots that have their issue opportunity in this cycle, ascending: a thread that comes back before it issues (R152). -/
def State.opportunities (s : State) : List Nat :=
  (s.slots.filter (fun x => slotPhase x.1 == s.cycle % 8 && x.2.frame.isSome)).map (·.1)

/-! ## The advance of a cycle -/

/-- The timestamp after a cycle of 10/7 ns with its slew (R154, R422). -/
def State.tickTime (s : State) : State :=
  let f := s.frac + 10 * (1000000 + s.slew)
  { s with time := s.time + (f / 7000000).toNat, frac := f % 7000000 }

/-- The watchdog of a task counts timestamp ticks, but not while its core is pre-empted or its thread is halted (R371). -/
def State.wdogRuns (s : State) (fk : Nat) : Bool :=
  let halted := match s.slotOf fk with | some sk => (s.slot sk).state == .halted | none => false
  !isGeyserFrame fk && !(s.core (frameCore fk)).preempted && !halted &&
    (match (s.frame fk).state with | .free | .queued | .waitw => false | _ => true)

/-- The count after n ticks; it saturates. -/
def addTicks (c : BitVec 40) (n : Nat) : BitVec 40 := if c.toNat + n < 2 ^ 40 then BitVec.ofNat 40 (c.toNat + n) else -1

/-- One frame's watchdog after n ticks, with its expiry when it is due. -/
def wdogTick (n : Nat) (s : State) (fk : Nat) : State :=
  if !s.wdogRuns fk then s
  else
    let s1 := s.updFrame fk (fun f => { f with wdogCount := addTicks f.wdogCount n })
    let f := s1.frame fk
    let due := f.wdogLimit != 0 && decide (1024 * f.wdogLimit.toNat ≤ f.wdogCount.toNat)
    if due && !s1.agenda.any (fun e => decide (e.act = Instr.watchdogExpiry fk)) then s1.later 0 (.watchdogExpiry fk)
    else s1

/-- Static charges: class 13 to the task of each slot whose turn this is, class 14 to the holder of each lease, which
counts the cycle for its partition's budget (R370, R426). -/
def State.staticCharges (s : State) : State :=
  let turn := (s.slots.filter (fun x => slotPhase x.1 == s.cycle % 8)).filterMap (fun x => x.2.frame)
  let s1 := turn.foldl (fun s fk => s.charge fk 13 1) s
  let holders := s1.clusters.filterMap (fun c => c.2.lease.map (fun l => (c.1, l.frame)))
  holders.foldl (fun s h =>
    let tag := (s.frameTag h.2).toNat
    (s.charge h.2 14 1).updCluster h.1 (fun c => { c with
      leaseCycles := c.leaseCycles.put tag (c.leaseCycles.getD tag 0 + 1) })) s1

/-- The cycle ends with its static charges and the sending of what a release held; the next begins: own-pool accesses, table writes and flags whose cycle has come,
FIFO operations, time, the budget period, watchdogs, and the slots whose turn it is. -/
def State.tick (s : State) : State :=
  let s0 := s.staticCharges.sendReleased s.net.length
  let s1 := ((({ s0 with cycle := s0.cycle + 1 }.flushDelayed).flushTabs).flushFlags).fifosTick
  let s2 := s1.tickTime
  let s3 := if s.time / 1000 = s2.time / 1000 then s2 else s2.startPeriod.later 0 .budgetPeriod
  let s4 := (s3.frames.keys).foldl (wdogTick (s2.time - s.time)) s3
  { s4 with thisCycle := s4.opportunities }

/-! ## The boundary before a bundle (R162, R240, R377) -/

/-- The interrupts and imprecise causes that can be taken at a thread's boundary, each with its step. -/
def State.dueSteps (s : State) (sk fk : Nat) : List (Nat × Instr) :=
  let f := s.frame fk
  (match lowestDue f.takeable with | some d => [(d.cause.toNat, Instr.engineTrapEntry sk)] | none => []) ++
  (if s.timerDue fk && f.ie && !f.intrap then [(0x0E, Instr.timerExpiry (frameEnd fk))] else []) ++
  (if s.mailDue fk then [(0x10, Instr.mailInterrupt sk)] else []) ++
  (if f.cancelReady then [(0x14, Instr.cancelInterrupt sk)] else [])

/-- The step of the lowest cause code. -/
def lowestStep : List (Nat × Instr) → Option (Nat × Instr)
  | [] => none
  | x :: xs =>
    match lowestStep xs with
    | none => some x
    | some y => if y.1 < x.1 then some y else some x

/-- A bundle whose waits have been performed, or whose answer has come, completes before any cause is taken (R51). -/
def Frame.midBundle (f : Frame) : Bool := !f.held.isEmpty || f.reply.isSome

/-- What a slot does at its issue opportunity. -/
inductive Turn where
  | quiet (s : State)
  | take (i : Instr) (fk : Nat) (s : State)
  | bundle (s : State)

/-- The slot's thread is in the rotation with a frame. -/
def State.issues (s : State) (sk fk : Nat) : Bool := s.inRotation sk && (s.slot sk).frame == some fk

/-- The boundary: a trap whose results have returned is entered, and its handler's first bundle issues; else a due
cause is taken, and the handler's first bundle issues; else the bundle issues. -/
def State.boundary (s : State) (sk : Nat) : Turn :=
  if !(s.inRotation sk || s.entering sk) then .quiet s
  else
    match (s.slot sk).frame with
    | none => .quiet s
    | some fk =>
      let f := s.frame fk
      match f.trapPend with
      | some t =>
        let s1 := (s.updFrame fk (fun f => { f with trapPend := none, pend := [] })).enterTrap fk t
        if s1.issues sk fk then .bundle s1 else .quiet s1
      | none =>
        match (if f.midBundle then none else lowestStep (s.dueSteps sk fk)) with
        | some x => .take x.2 fk s
        | none => .bundle s

/-! ## The end of a bundle (R156, R160) -/

/-- The switch marker of a bundle: the thread leaves the rotation until every pending result has returned; with none
pending it costs no turn. -/
def State.atSwitch (s : State) (sk fk : Nat) (bpc : Word) : State :=
  if (s.frame fk).outs.isEmpty then
    s.updFrame fk (fun f => { f with pend := [], due := f.due ++ f.dueMark, dueMark := [] })
  else (s.updFrame fk (fun f => { f with markPc := bpc })).updSlot sk (fun r => { r with state := .marker })

/-- After the last operation of a bundle: its held values are done with, and its marker acts. -/
def State.finishBundle (s : State) : State :=
  let sk := s.cur.sk
  let fk := s.cur.fk
  let s1 := { s with cur := {} }
  if s.cur.stopped then
    if s.cur.trapped.isNone && s.cur.ops.any leaves then s1.updFrame fk (fun f => { f with held := [] }) else s1
  else
    let marked := s.cur.sw || s.cur.ops.any impliesMarker
    let s2 := s1.updFrame fk (fun f => { f with held := [], atMarker := marked })
    if s.cur.sw && (s2.slot sk).state == .run && (s2.slot sk).frame == some fk then s2.atSwitch sk fk s.cur.bpc else s2

/-! ## The choice of the next step -/

/-- Steps that the outside world makes: the host, the physical function, firmware, the links. -/
def isInput (i : Instr) : Bool :=
  match i with
  | .pageResponse .. | .prgResponse .. | .hostCompletion .. | .hostCompletionTimeout .. | .atsInvalidateRequest ..
  | .launchRecord .. | .resume .. | .partitionResetRequest .. | .scrubCommand .. | .token ..
  | .prring .. | .run .. | .channelTableWrite .. | .steeringTableWrite .. | .logicalTableWrite ..
  | .routeTableWrite .. | .communicatorWrite .. | .guestTimeOffsetWrite .. | .hubTableWrite .. | .pageStaleClear ..
  | .flitReceive .. | .linkDown .. | .linkRetrain ..
  | .timestampSync .. | .powerSample .. | .ageingMonitorRead .. | .patrolScrub .. | .moduleReset ..
  | .hostLinkChange .. | .virtualFunctionReset .. => true
  | _ => false

/-- A module reset. -/
def isReset (i : Instr) : Bool := match i with | .moduleReset .. => true | _ => false

/-- The next step. -/
inductive Plan where
  | stuck
  | run (i : Instr) (s : State)
  | issue (sk : Nat) (s : State)
  | idle (s : State)

/-- The packet that a pending activity executes. -/
def packetOf : Instr → Option Nat
  | .portEngineMessage p | .accessResponse p | .sendMessageArrival p | .futureEvent p | .futureWake p | .joinDecrement p
  | .spawnRecordRead p => some p
  | _ => none

/-- The core whose bank ports an activity uses, with its agent among those of R46: port engine 0, copies and XPUSH 1, multicast
deliveries 2, tile prefetch 3. -/
def State.bankAgent (s : State) (i : Instr) : Option (Nat × Nat) :=
  match i with
  | .burstComplete id _ =>
    match s.copy? id with
    | some c => (match c.purpose with | .thread => some (c.core, 1) | .prefetch _ _ => some (c.core, 3) | .xpush _ | .cert _ => none)
    | none => none
  | .multicastDelivery _ k => some (k, 2)
  | _ => ((packetOf i).bind s.packet).bind (fun p => if p.dst < 2 ^ 20 then some (p.dst, 0) else none)

/-- An activity that is due comes before another at the bank ports of a core in deterministic mode (R46). -/
def State.bankBefore (s : State) (k : Nat) (best : Nat × Nat) (j : Nat) : Nat × Nat :=
  match s.agenda[j]? with
  | none => best
  | some e =>
    match s.bankAgent e.act with
    | none => best
    | some (k1, a) =>
      let r := Config.bankRank (s.cycle % 8) a
      if k1 = k ∧ e.notBefore ≤ s.cycle ∧ r < best.2 then (j, r) else best

/-- The activity taken for the k-th of the agenda: at a core in deterministic mode the one that the fixed rotation puts first
among those that are due at its bank ports, the k-th itself elsewhere (R46). -/
def State.bankFirst (s : State) (k : Nat) : Nat :=
  match (s.agenda[k]?).bind (fun e => s.bankAgent e.act) with
  | some (core, a) =>
    if (s.core core).det then
      ((rangeFrom 0 s.agenda.length).foldl (s.bankBefore core) (k, Config.bankRank (s.cycle % 8) a)).1
    else k
  | none => k

/-- The k-th pending activity, taken out of the agenda, when its time has come. -/
def State.takeEvent (s : State) (k : Nat) : Plan :=
  match s.agenda[k]? with
  | some e => if e.notBefore ≤ s.cycle then .run e.act { s with agenda := s.agenda.eraseIdx k } else .idle s
  | none => .idle s

/-- A due activity that executes a packet of the schedule, an answer or another one: its cycle is fixed (R150, R152). -/
def State.detDue (s : State) (answer : Bool) : Option Nat :=
  s.agenda.findIdx? (fun e => decide (e.notBefore ≤ s.cycle) &&
    (((packetOf e.act).bind s.packet).map (fun p =>
      p.vc == 5 && bodyResponse p.body == answer && s.canArrive p)).getD false)

/-- The answers that the schedule returns in this cycle come first, so that their threads issue in it (R152); then the next
issue opportunity; then what else the schedule executes in the cycle; then the next cycle. -/
def State.takeIssue (s : State) : Plan :=
  match s.detDue true with
  | some k => s.takeEvent k
  | none =>
    match s.thisCycle with
    | sk :: sks => .issue sk { s with thisCycle := sks }
    | [] => match s.detDue false with | some k => s.takeEvent k | none => .idle s.tick

/-- The index of the first pending activity whose time has come. -/
def State.firstDue (s : State) : Option Nat := s.agenda.findIdx? (fun e => decide (e.notBefore ≤ s.cycle))

/-- The choice: the tape names outside steps and orders. Within a cycle the register ports come first (R47): the bundles of
the rotation issue, then pending activities that are due, where the tape is empty the oldest one. A module in recovery
takes nothing but a module reset (R430). -/
def State.nextPlan (s : State) : Plan :=
  match s.tape with
  | .input i :: ms =>
    if s.hub.recovery && !isReset i then .stuck
    else if isInput i then .run i { s with tape := ms }
    else .idle { s with tape := ms }
  | .pending k :: ms =>
    if s.hub.recovery then .stuck
    else if s.thisCycle.isEmpty then State.takeEvent { s with tape := ms } (s.bankFirst k) else s.takeIssue
  | .issue :: ms => if s.hub.recovery then .stuck else State.takeIssue { s with tape := ms }
  | [] =>
    if s.hub.recovery then .stuck
    else match s.thisCycle, s.firstDue with | [], some k => s.takeEvent (s.bankFirst k) | _, _ => s.takeIssue

/-! ## Placing one operation before the rotation -/

/-- The thread that runs one line: slot 0 of core 0 with frame 0, or thread 1 of the Geyser of channel 0. -/
def placeLine (s : State) (l : Line) (geyser : Bool) : State :=
  let line : ILine := ⟨0, 0, 1, l⟩
  if geyser then
    let s1 := s.updGeyser 0 (fun g => { (g.updThread 1 (fun x => { x with state := 1 })) with tag := 0, epoch := 1 })
    let s2 := s1.setFrame (geyserFrame 0 1) { s1.frame (geyserFrame 0 1) with pc := 0, state := .running }
    let s3 := s2.setSlot (geyserSlot 0 1) { s2.slot (geyserSlot 0 1) with state := .run, frame := some (geyserFrame 0 1) }
    { s3.updCluster 1024 (fun c => { c with icache := [line] }) with thisCycle := [geyserSlot 0 1], tape := [.issue] }
  else
    let s1 := s.updCore 0 (fun c => { c with tag := 0, epoch := 1, pword := 0x8418 })
    let s2 := s1.setFrame 0 { s1.frame 0 with pc := 0, state := .running }
    let s3 := s2.setSlot 0 { s2.slot 0 with state := .run, frame := some 0 }
    { s3.updCluster 0 (fun c => { c with icache := [line] }) with thisCycle := [0], tape := [.issue] }

end Sys2Proof.Machine
end

