-- ==== Sys2Proof/Machine/Step.lean ====
section
/-! DEFINITION. One step of the machine: what Issue.lean plans is executed by Dispatch.lean. -/

namespace Sys2Proof.Machine

/-- Executes the operations of a bundle one after another; it ends where one stops the bundle. -/
def runOps : List Instr → State → Host.Outcome State Fault Refusal
  | [], s => .next s
  | i :: is, s =>
    match exec i s with
    | .next t => if t.cur.stopped then .next t else runOps is t
    | o => o

/-- Issues the bundle of a slot: fetch and checks, its operations, its end. -/
def issueBundle (sk : Nat) (s : State) : Host.Outcome State Fault Refusal :=
  match exec (.bundleFetch sk) s with
  | .next t =>
    if t.cur.stopped then .next t.finishBundle
    else
      match runOps t.cur.ops t with
      | .next u => .next u.finishBundle
      | o => o
  | o => o

/-- One issue opportunity of a slot: exactly one bundle, its handler's first where a cause is taken (R155). -/
def issueTurn (sk : Nat) (s : State) : Host.Outcome State Fault Refusal :=
  match s.boundary sk with
  | .quiet t => .next t
  | .take i fk t =>
    match exec i t with
    | .next u => if u.issues sk fk then issueBundle sk u else .next u
    | o => o
  | .bundle t => issueBundle sk t

/-- One step. -/
def step (s : State) : Host.Outcome State Fault Refusal :=
  match s.nextPlan with
  | .stuck => .fault .recovery
  | .run i t => exec i t
  | .issue sk t => issueTurn sk t
  | .idle t => .next t

/-- The state with the instruction of a table word as the next bundle: on a compute core, or on a Geyser when only a
Geyser decodes it. -/
def State.withFetchWord (s : State) (nbits w : Nat) : State :=
  placeLine s (tableLine nbits w) (soleOp (fetchBundle (tableLine nbits w) 0 false)).isNone

end Sys2Proof.Machine
end

