-- ==== Sys2Proof/Safety.lean ====
section
/-! DEFINITION. Properties of states that runs keep, and the tables and relations in which the statements speak. -/

namespace Sys2Proof.Machine

/-- Every byte memory is in its canonical form. -/
def State.memWf (s : State) : Bool := s.pool.wf && s.gpool.wf && s.dev.wf && s.host.wf

/-! ## Relations between a state and the next one -/

/-- No byte of any memory and no full/empty bit differs. -/
def SameMemory (s t : State) : Prop :=
  (∀ a, t.pool.read a = s.pool.read a) ∧ (∀ a, t.gpool.read a = s.gpool.read a) ∧
  (∀ a, t.dev.read a = s.dev.read a) ∧ (∀ a, t.host.read a = s.host.read a) ∧ t.full = s.full

/-- Every register frame but that of the thread in issue, every slot, core, cluster, Geyser, future and FIFO, every
partition, function, router and the hub are as before. -/
def SameUnits (s t : State) : Prop :=
  (∀ k, k ≠ s.cur.fk → t.frame k = s.frame k) ∧ t.slots = s.slots ∧ t.cores = s.cores ∧ t.clusters = s.clusters ∧
  t.geysers = s.geysers ∧ t.futures = s.futures ∧ t.fifos = s.fifos ∧ t.parts = s.parts ∧ t.vfs = s.vfs ∧
  t.routers = s.routers ∧ t.hub = s.hub

/-- The registers of a frame that its task's control registers show, but the pc, c.estat and c.energy. -/
def SameControl (f g : Frame) : Prop :=
  g.epc = f.epc ∧ g.eval = f.eval ∧ g.ecause = f.ecause ∧ g.eseq = f.eseq ∧ g.status = f.status ∧ g.fut = f.fut ∧
  g.join = f.join ∧ g.task = f.task ∧ g.prio = f.prio ∧ g.index = f.index ∧ g.fmta = f.fmta ∧ g.fmtb = f.fmtb ∧
  g.scale = f.scale ∧ g.rowmask = f.rowmask ∧ g.wdogCount = f.wdogCount ∧ g.wdogLimit = f.wdogLimit

/-- The g, v and p registers that are not among a list of register keys are as before. -/
def SameRegsBut (keys : List Nat) (f g : Frame) : Prop :=
  (∀ n, n < 64 → n ∉ keys → g.rg n = f.rg n) ∧ (∀ n, n < 32 → 64 + n ∉ keys → g.rv n = f.rv n) ∧
  (∀ n, n < 16 → 128 + n ∉ keys → g.rp n = f.rp n)

/-! ## The integer group (R225, R226) -/

/-- A three-register operation with its queue flags. -/
abbrev G3Op := QFlags → BitVec 6 → BitVec 6 → BitVec 6 → Instr

/-- The operations of the integer group that wrap or select, with their results. -/
def intOps : List (G3Op × (Word → Word → Word)) :=
  [(.add, fun a b => a + b), (.sub, fun a b => a - b), (.mul, fun a b => a * b),
   (.mulh, fun a b => BitVec.ofInt 64 (a.toInt * b.toInt / 2 ^ 64)),
   (.mulhu, fun a b => BitVec.ofNat 64 (a.toNat * b.toNat / 2 ^ 64)),
   (.and, fun a b => a &&& b), (.or, fun a b => a ||| b), (.xor, fun a b => a ^^^ b),
   (.shl, fun a b => a <<< (b.toNat % 64)), (.shr, fun a b => a >>> (b.toNat % 64)),
   (.sar, fun a b => a.sshiftRight (b.toNat % 64)), (.rol, fun a b => a.rotateLeft (b.toNat % 64)),
   (.min, fun a b => if b.slt a then b else a), (.max, fun a b => if a.slt b then b else a),
   (.minu, fun a b => if b.ult a then b else a), (.maxu, fun a b => if a.ult b then b else a)]

/-- The four divisions, with their results; the quotient truncates toward zero. -/
def divOps : List (G3Op × (Word → Word → Word)) :=
  [(.div, fun a b => if b = 0 then -1 else BitVec.ofInt 64 (a.toInt.tdiv b.toInt)),
   (.divu, fun a b => if b = 0 then -1 else a / b),
   (.rem, fun a b => if b = 0 then a else BitVec.ofInt 64 (a.toInt.tmod b.toInt)),
   (.remu, fun a b => if b = 0 then a else a % b)]

/-! ## Own-pool accesses (R20, R21, R250) -/

/-- The memory that holds a frame's own pool, and the key of the byte at an own-pool offset. -/
def ownMem (s : State) (fk : Nat) : Mem := if isGeyserFrame fk then s.gpool else s.pool
def ownKey (s : State) (fk off : Nat) : Nat :=
  if isGeyserFrame fk then frameCore fk * 2 ^ 16 + off else poolKey (frameCore fk) (s.reduce (frameCore fk) off)

/-- Every memory but the one that holds the own pool of a frame is as before, and so are the full/empty bits. -/
def SameOthers (fk : Nat) (s t : State) : Prop :=
  t.dev = s.dev ∧ t.host = s.host ∧ t.full = s.full ∧
  (if isGeyserFrame fk then t.pool = s.pool else t.gpool = s.gpool)

/-- The issue of an own-pool access that is performed one turn later: nothing but the sticky bits MISAL and OOR, the
energy count and the list of accesses to perform changes. -/
def IssuesOwn (s t : State) (x : Delayed) (d : Dec) : Prop :=
  t.delayed = s.delayed ++ [x] ∧ x.at_ = s.cycle + 8 ∧ x.frame = s.cur.fk ∧ SameMemory s t ∧ SameUnits s t ∧
  SameRegsBut [] s.cf t.cf ∧ SameControl s.cf t.cf ∧ t.cf.pc = s.cf.pc ∧
  t.cf.estat = s.cf.estat ||| (if d.misal then 2 else 0) ||| (if s.ownGap d.off then 1 else 0)

/-- When its turn comes, an access stores the n low bytes of a number at an own-pool offset and nothing else, unless the
offset lies in the gap. -/
def StoresAt (s : State) (x : Delayed) (off n v : Nat) : Prop :=
  ∀ u : State, u.memWf = true →
    if s.ownGap off then SameMemory u (u.performDelayed x)
    else
      (ownMem (u.performDelayed x) s.cur.fk).readLE (ownKey u s.cur.fk off) n = v % 2 ^ (8 * n) ∧
      (∀ a, a < ownKey u s.cur.fk off ∨ ownKey u s.cur.fk off + n ≤ a →
        (ownMem (u.performDelayed x) s.cur.fk).read a = (ownMem u s.cur.fk).read a) ∧
      SameOthers s.cur.fk u (u.performDelayed x)

/-- When its turn comes, an access writes a g register with the n bytes at an own-pool offset, or zero in the gap, and
changes no memory and no other register. -/
def LoadsG (s : State) (x : Delayed) (off n : Nat) (r : BitVec 6) : Prop :=
  ∀ u : State,
    SameMemory u (u.performDelayed x) ∧
    SameRegsBut [r.toNat] (u.frame s.cur.fk) ((u.performDelayed x).frame s.cur.fk) ∧
    ((u.performDelayed x).frame s.cur.fk).rg r.toNat =
      (if r = 0 ∨ s.ownGap off then 0 else natWord ((ownMem u s.cur.fk).readLE (ownKey u s.cur.fk off) n))

/-- The same for a v register and the two words at an offset. -/
def LoadsV (s : State) (x : Delayed) (off : Nat) (r : BitVec 5) : Prop :=
  ∀ u : State,
    SameMemory u (u.performDelayed x) ∧
    SameRegsBut [64 + r.toNat] (u.frame s.cur.fk) ((u.performDelayed x).frame s.cur.fk) ∧
    ((u.performDelayed x).frame s.cur.fk).rv r.toNat =
      (if s.ownGap off then 0
       else natWord ((ownMem u s.cur.fk).readLE (ownKey u s.cur.fk ((off + 8) % 2 ^ 17)) 8) ++
         natWord ((ownMem u s.cur.fk).readLE (ownKey u s.cur.fk off) 8))

/-! ## Asynchronous accesses (R17, R147, R160) -/

/-- The issue of an asynchronous access: one message with the effect for each word to the port engine of the word's core,
and one outstanding result that names the destination and counts the words; no memory and no register changes. -/
def SendsAccess (s t : State) (op : AccOp) (d : Dec) (n : Nat) (lo hi expect : Word) (dst : Option Nat) : Prop :=
  ∃ id ps o,
    t.net = s.net ++ ps ∧
    ps.map (fun p => (p.src, p.dst, p.body)) =
      ((s.wordPlaces d n).zip (wordAccs op (s.wordPlaces d n) n lo hi expect id)).map
        (fun x => (frameEnd s.cur.fk, x.1.1,
          Body.access (if d.view = 0 ∧ s.onGeyser = true ∧ s.ownGap d.off = true then { x.2 with size := 0 } else x.2))) ∧
    t.cf.outs = s.cf.outs ++ [o] ∧ o.id = id ∧ o.dst = dst ∧ o.need = (s.wordPlaces d n).length ∧
    (∀ k, dst = some k → k ≠ 0 → k ∈ t.cf.pend) ∧
    SameMemory s t ∧ SameRegsBut [] s.cf t.cf ∧ SameControl s.cf t.cf ∧ t.cf.pc = s.cf.pc

/-! ## Wait queues of words (R52) -/

/-- What FE_SERVE does with a word of core k whose bytes and state are given: from the head of its queue it performs what the
state allows and stops at the first operation that it does not. LDSP of a full word leaves it full, LDS empties it, STS of an
empty word stores and fills it. The operations performed with the values they return, the rest, the bytes and the state. -/
def serveWalk (s : State) (k : Nat) (m : Mem) (full : Bool) :
    List Waiter → List (Waiter × Word) × List Waiter × Mem × Bool
  | [] => ([], [], m, full)
  | w :: ws =>
    let key := poolKey k (s.reduce k w.off)
    let old : Word := natWord (m.readLE key w.size)
    match w.op, full with
    | .ldsp, true => let r := serveWalk s k m true ws; ((w, old) :: r.1, r.2)
    | .lds, true => let r := serveWalk s k m false ws; ((w, old) :: r.1, r.2)
    | .sts, false => let r := serveWalk s k (m.writeLE key w.size w.data.toNat) true ws; ((w, 0) :: r.1, r.2)
    | _, _ => ([], w :: ws, m, full)

/-- The waiters of a word are remote LDS, LDSP and STS operations at that word. -/
def RemoteWaiters (s : State) (k off : Nat) (ws : List Waiter) : Prop :=
  ∀ w ∈ ws, (w.op = .lds ∨ w.op = .ldsp ∨ w.op = .sts) ∧ wordKey k (s.reduce k w.off) = wordKey k off ∧
    ∃ src sender tag epoch out part, w.who = .remote src sender tag epoch out part ∧ src < 2 ^ 23

/-- From s to u, the queue of a word was served: the word, its state and its queue are as the walk leaves them, and every
operation performed is answered in order with its value. -/
def Serves (s u : State) (k off : Nat) : Prop :=
  let r := serveWalk s k s.pool (s.isFull k off) (s.waitq.getD (wordKey k off) [])
  u.pool = r.2.2.1 ∧ u.isFull k off = r.2.2.2 ∧ u.waitq.getD (wordKey k off) [] = r.2.1 ∧
  (∀ j, j ≠ wordKey k off → u.waitq.getD j [] = s.waitq.getD j []) ∧
  ∃ ps, u.net = s.net ++ ps ∧ ps.length = r.1.length ∧
    ∀ i, i < ps.length → ∀ src sender tag epoch out part,
      (r.1.getD i default).1.who = .remote src sender tag epoch out part →
      (ps.getD i default).dst = src ∧
        (ps.getD i default).body =
          .response out part (r.1.getD i default).2 false false false false false default

/-! ## Vector results (R268, R269) -/

/-- An operation writes one v register, readable some turns later: an active lane k gets f k modulo the lane width, an
inactive one keeps its value; `post` adds the operation's flags and its draw. -/
def VRes (s : State) (i : Instr) (bits : Nat) (vd : BitVec 5) (gp : BitVec 4) (lat : Nat) (post : State → State)
    (f : Nat → Int) : Prop :=
  ∃ v, exec i s = .next (post (s.setV vd v lat)) ∧
    ∀ k, k < 128 / bits →
      (lane bits v k : Int) = if pbit bits (s.pp gp) k then f k % 2 ^ bits else lane bits (s.pv vd) k

/-- Bits of a predicate register: the result of a byte's lane where it is active, else the old bit. -/
def PRes (s : State) (bits : Nat) (gp pd : BitVec 4) (p : PWord) (f : Nat → Bool) : Prop :=
  ∀ j, j < 16 → p.getLsbD j =
    if pbit bits (s.pp gp) (8 * j / bits) then f (8 * j / bits) else (s.pp pd).getLsbD j

/-- An operation writes a v register and a predicate register. -/
def VPRes (s : State) (i : Instr) (bits : Nat) (vd : BitVec 5) (gp pd : BitVec 4) (lat : Nat) (f : Nat → Int)
    (g : Nat → Bool) : Prop :=
  ∃ v p, exec i s = .next ((s.setV vd v lat).setP pd p lat) ∧ PRes s bits gp pd p g ∧
    ∀ k, k < 128 / bits →
      (lane bits v k : Int) = if pbit bits (s.pp gp) k then f k % 2 ^ bits else lane bits (s.pv vd) k

/-- A float operation on four lanes: results, the flags of the active lanes, and one draw under stochastic rounding. -/
def FRes4 (s : State) (i : Instr) (vd : BitVec 5) (gp : BitVec 4) (m : Rnd) (lat : Nat) (r : Nat → FRes) : Prop :=
  VRes s i 32 vd gp lat (fun t => (t.flags (activeFlags 32 (s.pp gp) (fun k => (r k).2)) lat).drawIf m lat)
    (fun k => ((r k).1.toNat : Int))

/-- An operation without a guard that writes a whole v register and sets sticky bits. -/
def VWhole (s : State) (i : Instr) (bits : Nat) (vd : BitVec 5) (fl : BitVec 32) (f : Nat → Int) : Prop :=
  ∃ v, exec i s = .next ((s.setV vd v 2).flags fl 2) ∧ ∀ k, k < 128 / bits → (lane bits v k : Int) = f k % 2 ^ bits

/-! ## Rounded values (R180 to R183) -/

/-- ± num / den, with num and den positive, rounded once to FP32 or F19: with 2^l its leading power of two, it becomes the
integer that the mode gives in units of 2^q, where q leaves 24 or 11 significant bits or is the exponent of the smallest
subnormal; past the largest exponent it overflows. OF and NX, NX, or UF and NX: UF where the value is inexact and, rounded to
that many bits with no smallest exponent, below 2^−126. -/
def Rounded (f19 : Bool) (m : Rnd) (neg : Bool) (num den r : Nat) (y : FRes) : Prop :=
  ∀ a b : Nat, 2 ^ a * den ≤ num * 2 ^ b → num * 2 ^ b < 2 ^ (a + 1) * den →
    let p : Nat := if f19 then 11 else 24
    let l : Int := (a : Int) - b
    let q : Int := max (l - p + 1) (if f19 then -136 else -149)
    let m1 := if m = .rs ∧ den * ((2 ^ p - 1) * 2 ^ (128 - p)) < num then .rne else m
    let rnd (q : Int) : Nat × Bool :=
      if 0 ≤ q then roundInt m1 neg num (den * 2 ^ q.toNat) r else roundInt m1 neg (num * 2 ^ (-q).toNat) den r
    let mag := (rnd q).1 * 2 ^ (q + 149).toNat
    let tiny : Prop := l < -127 ∨ (l = -127 ∧ (rnd (l - p + 1)).1 < 2 ^ p)
    let max : BitVec 32 := (if f19 then 0x7F7FE000 else 0x7F7FFFFF) ||| (if neg then 0x80000000 else 0)
    let inf : BitVec 32 := if neg then 0xFF800000 else 0x7F800000
    (2 ^ 277 ≤ mag →
      y = (if m1 = .rz ∨ (m1 = .ru ∧ neg = true) ∨ (m1 = .rd ∧ neg = false) then max else inf, 0x280)) ∧
    (mag < 2 ^ 277 →
      f32Fin y.1 = true ∧ f32Neg y.1 = neg ∧ f32Mag y.1 = mag ∧ (f19 = true → y.1.toNat % 2 ^ 13 = 0) ∧
      ((rnd q).2 = false → y.2 = 0) ∧ ((rnd q).2 = true → tiny → y.2 = 0x300) ∧ ((rnd q).2 = true → ¬tiny → y.2 = 0x200))

/-- The same for an exact value in units of 2^−u, with the sign that an exact zero takes. -/
def RoundedInt (f19 : Bool) (m : Rnd) (zeroNeg : Bool) (x : Int) (u r : Nat) (y : FRes) : Prop :=
  (x = 0 → y = (if zeroNeg then 0x80000000 else 0, 0)) ∧
  (x ≠ 0 → Rounded f19 m (decide (x < 0)) x.natAbs (2 ^ u) r y)

/-! ## Tasks, futures and messages -/

/-- No memory byte, no register of the g, v and p files and no control register of the thread in issue but the pc,
c.estat and c.energy differs. -/
def SameThread (s t : State) : Prop := SameMemory s t ∧ SameRegsBut [] s.cf t.cf ∧ SameControl s.cf t.cf

/-- An operation completes with its result in rd and its predicate in pd, and no other register. -/
def Answers (s : State) (i : Instr) (rd : BitVec 6) (pd : BitVec 4) (v : Word) (b : Bool) : Prop :=
  ∃ t, exec i s = .next t ∧ t.cf.rg rd.toNat = (if rd = 0 then 0 else v) ∧ t.cf.rp pd.toNat = (if pd = 0 then 0xFFFF else boolP b) ∧
    SameRegsBut [rd.toNat, 128 + pd.toNat] s.cf t.cf ∧ SameMemory s t

/-- An answer to an operation of a thread is on its way. -/
def Answered (t : State) (a : Asker) (r : Reply) (xpart : Bool) (oor : Bool := false) : Prop :=
  ∃ p ∈ t.net, p.dst = a.end_ ∧ p.body = .futureReply a.frame a.out r xpart oor

/-- An operation waits in place for the answer to a request. -/
def Parks (s t : State) : Prop :=
  (t.slot s.cur.sk).state = .inPlace ∧ t.cf.pc = s.cur.bpc ∧ 6 ∈ t.cf.waits ∧ SameThread s t

/-- An operation issues with an outstanding result for rd and pd. -/
def Expects (s t : State) (rd : BitVec 6) (pd : BitVec 4) (out : Nat) : Prop :=
  ∃ o, t.cf.outs = s.cf.outs ++ [o] ∧ o.id = out ∧ o.dst = some rd.toNat ∧ o.pd = pd.toNat ∧ SameThread s t

/-- The handle that the next allocation of an entry gives (R167). -/
def nextGen (f : Future) : Nat := if f.gen = 0xFFFF then 0x10 else f.gen + 1

/-- An entry just allocated for a partition. -/
def Allocated (s t : State) (key : Nat) (tag : BitVec 10) : Prop :=
  (t.future key).state = .pending ∧ (t.future key).gen = nextGen (s.future key) ∧ (t.future key).owner = tag ∧
  (t.future key).waiters = []

/-- The 32-bit word i of the count that a tile record of SPAWNR asks for, in tasks (R339). -/
def recordCount (s : State) (k off i : Nat) : Nat := ((s.ownDword k (off + 8 + 32 * i + 8)).toNat % 2 ^ 32 + 31) / 32

/-! ## Copies (R102 to R107, R123, R124) -/

/-- What CGO checks of the shadow registers, in its order: whether the check fails, its cause and its c.eval. -/
def copyChecks (s : State) : List (Bool × BitVec 8 × Word) :=
  let r := s.cur.slot
  let sh := r.cpshape.toNat
  let fl := r.cpflags.toNat
  let src := r.cpsrc.toNat
  let dst := r.cpdst.toNat
  let mask := r.cpmask.toNat
  let ty := sh / 2 ^ 32 % 16
  let rows := sh % 2 ^ 16
  let rowb := sh / 2 ^ 16 % 2 ^ 16
  let ext (p : Nat) : Bool := decide (p / 2 ^ 56 < 2)
  let pad (p : Nat) : Bool := decide (0xF0 ≤ p / 2 ^ 56 ∧ p / 2 ^ 56 ≤ 0xF3 ∧ (p / 2 ^ 56 = 0xF3 → p / 2 ^ 17 % 2 ^ 14 = 0))
  let near (p : Nat) : Bool := decide (p / 2 ^ 56 = 0xF3 → p / 2 ^ 46 % 2 ^ 10 = s.module.toNat ∧
    p / 2 ^ 36 % 2 ^ 10 = s.curCore / 16)
  let plain := decide (ty < 3)
  let ill (b : Prop) [Decidable b] (e : Word) : Bool × BitVec 8 × Word := (decide b, 0x01, e)
  let win (b : Bool) (e : Word) : Bool × BitVec 8 × Word := (b, 0x04, e)
  let side (p st : Word) : List (Bool × BitVec 8 × Word) :=
    [ill (pad p.toNat ∧ p.toNat % 8 ≠ 0) p, ill (pad p.toNat ∧ st.toNat % 8 ≠ 0) st,
     ill (pad p.toNat ∧ rowb % 8 ≠ 0) r.cpshape]
  [ill (2 ^ 38 ≤ sh ∨ 4 < ty) r.cpshape,
   ill (fl.testBit 7 = true ∨ 2 ^ 36 ≤ fl ∨ 1 < fl / 2 ^ 5 % 4) r.cpflags,
   ill (sh / 2 ^ 36 % 4 ≠ 0 ∧ (ty ≠ 4 ∨ 1 < sh / 2 ^ 36 % 4)) r.cpshape,
   ill ((ty ≠ 4 ∧ fl / 2 ^ 24 % 2 ^ 12 ≠ 0) ∨ (ty ≠ 3 ∧ fl / 2 ^ 8 % 2 ^ 16 ≠ 0)) r.cpflags,
   win (decide (ty = 3 ∧ src / 2 ^ 56 ≠ 0)) r.cpsrc, win (decide (ty = 3 ∧ dst ≠ 0)) r.cpdst,
   win (decide (ty = 4) && !pad src) r.cpsrc, win (decide (ty = 4) && !pad dst) r.cpdst,
   win (plain && !(ext src || pad src)) r.cpsrc, win (plain && !(ext dst || pad dst)) r.cpdst,
   win (plain && decide (ty ≠ 0) && !(pad mask && near mask)) r.cpmask,
   win (plain && (ext src == ext dst)) r.cpdst,
   win (decide (ty = 1) && pad src) r.cpsrc, win (decide (ty = 2) && pad dst) r.cpdst] ++
  side r.cpsrc r.cpsstr ++ side r.cpdst r.cpdstr ++
  [ill ((ty = 1 ∨ ty = 2) ∧ 4096 < rows) r.cpshape, ill ((ty = 3 ∨ ty = 4) ∧ 65536 < rows * rowb) r.cpshape,
   ill (ty = 4 ∧ rowb % (if sh / 2 ^ 36 % 4 = 0 then 4 else 8) ≠ 0) r.cpshape]

/-- v is the combination of the contributions ds by elements of es bytes: their sum, their largest unsigned or their largest
signed value (R124). -/
def Reduced (op : BitVec 2) (es : Nat) (ds : List (List Byte)) (v : List Byte) : Prop :=
  let m := 2 ^ (8 * es)
  let signed (x : Nat) : Int := if 2 * x < m then x else (x : Int) - m
  ∀ e : Nat, e * es + es ≤ v.length →
    let elem (d : List Byte) : Nat := bytesNat ((d.drop (e * es)).take es)
    (op = 0 → elem v = (ds.map elem).sum % m) ∧
    (op = 1 → (∃ d ∈ ds, elem v = elem d) ∧ ∀ d ∈ ds, elem d ≤ elem v) ∧
    (op = 2 → (∃ d ∈ ds, elem v = elem d) ∧ ∀ d ∈ ds, signed (elem d) ≤ signed (elem v))

/-- The writes of the rows of a reduce's result at one member: each byte is written once, at its place (R108, R124). -/
def RowWrites (c : Copy) (id : Nat) (v : List Byte) (ls : List Late) : Prop :=
  let place (pos : Nat) : Nat := scratchOff c.dst + pos / shRowb c.shape * c.dstr.toNat + pos % shRowb c.shape
  (∀ l ∈ ls, l.owner = id ∧ l.core = c.core ∧ l.tag = c.tag ∧ l.epoch = c.epoch ∧ l.ptr = c.dst ∧ l.device = false ∧
    l.full = false ∧ l.off % 8 + l.data.length ≤ 8) ∧
  (ls.flatMap (fun l => (List.range l.data.length).map (fun i => (l.off + i, l.data.getD i 0)))) =
    (List.range v.length).map (fun pos => (place pos, v.getD pos 0))

/-! ## Interrupts -/

/-- The entry of an imprecise trap or an interrupt at the handler of a compute core's task: the registers that it writes,
and nothing else of the frame's g, v and p registers or of memory (R240). -/
def Enters (s t : State) (fk : Nat) (x : TrapRec) : Prop :=
  let f := s.frame fk
  let g := t.frame fk
  let c := s.core (fk / 64)
  let toS := decide (x.cause = 0x0D ∨ x.cause = 0x12 ∨ f.status.toNat % 4 ≠ 0 ∨ c.tvec = 0)
  g.epc = f.pc ∧ g.eval = x.eval ∧ g.ecause.toNat = x.cause.toNat + x.detail.toNat * 2 ^ 8 + x.imp.toNat * 2 ^ 16 ∧
  g.pc = (if toS then c.svec else c.tvec) ∧
  g.status.toNat = (if toS then 1 else 0) + f.status.toNat % 4 * 4 + f.status.toNat / 16 % 2 * 32 + 64 +
    f.status.toNat / 128 * 128 ∧
  SameRegsBut [] f g ∧ g.estat = f.estat ∧ SameMemory s t

/-! ## The array (R312) -/

/-- The integer entries: number, signed accumulators, identity, a ⊗ b by the widths of A and B, and the reduction. -/
def arrayEntries : List (Nat × Bool × Int × (Nat → Nat → Int → Int → Int) × (Int → Int → Int)) :=
  [(0, true, 0, fun _ _ a b => a * b, fun x y => x + y),
   (3, false, 2 ^ 32 - 1, fun m n a b => if a = 2 ^ m - 1 ∨ b = 2 ^ n - 1 then 2 ^ 32 - 1 else a + b, min),
   (4, true, -2 ^ 31, fun m n a b => if a = -2 ^ (m - 1) ∨ b = -2 ^ (n - 1) then -2 ^ 31 else a + b, max),
   (5, false, 0, fun _ _ a b => min a b, max),
   (6, false, 2 ^ 32 - 1, fun m n a b => if a = 2 ^ m - 1 ∨ b = 2 ^ n - 1 then 2 ^ 32 - 1 else max a b, min),
   (7, false, 0, fun _ _ a b => a * b, fun x y => if x = 0 ∧ y = 0 then 0 else 1),
   (8, false, 0, fun _ _ a b => a * b, fun x y => if x = y then 0 else 1),
   (9, false, 0, fun _ _ a b => a * b, fun x y => x + y)]

/-- The accumulator that an enabled row of records and an enabled column of them give in the float entries 1 and 2, over their
first k elements (R196, R312, R313): what the special-value detector decides, else the partials of blocks of 48 added in order
and rounded each time, or the largest product of pairs without an infinity. -/
def FloatEntry (e k : Nat) (ra rb : List PRec) (old new : BitVec 32) : Prop :=
  let int (l : List PRec) (i : Nat) : Int := ((l.flatMap PRec.s).take k).getD i 0
  let mark (l : List PRec) (f : PRec → List Bool) (i : Nat) : Bool := ((l.flatMap f).take k).getD i false
  let inf (i : Nat) : Prop := mark ra PRec.inf i = true ∨ mark rb PRec.inf i = true
  let counts (i : Nat) : Prop := inf i ∧ ¬ (e = 2 ∧ mark ra PRec.inf i = true ∧ mark ra PRec.neg i = true)
  let bad (i : Nat) : Prop := (mark ra PRec.inf i = true ∧ mark rb PRec.zero i = true) ∨
    (mark rb PRec.inf i = true ∧ mark ra PRec.zero i = true)
  let pos : Prop := ∃ i, i < k ∧ counts i ∧ ¬ bad i ∧ mark ra PRec.neg i = mark rb PRec.neg i
  let neg : Prop := ∃ i, i < k ∧ counts i ∧ ¬ bad i ∧ mark ra PRec.neg i ≠ mark rb PRec.neg i
  let nan : Prop := (∃ r ∈ ra ++ rb, r.nan = true) ∨ (∃ i, i < k ∧ counts i ∧ bad i) ∨ (e = 1 ∧ pos ∧ neg)
  let scale (b : Nat) : Int := recScale (ra.getD b default) + recScale (rb.getD b default)
  let dot (b : Nat) : Int := ((List.range 48).map (fun j => int ra (48 * b + j) * int rb (48 * b + j))).sum
  let part (b : Nat) : BitVec 32 := if b < ra.length then (scaleToF (dot b) (scale b)).1 else 0
  let sum := (List.range 15).foldl (fun t b => (fAdd false .rne t (part (b + 1)) 0).1) (part 0)
  let prods (b : Nat) : List Int := ((List.range 48).filter (fun j => decide (48 * b + j < k) &&
    !(mark ra PRec.inf (48 * b + j) || mark rb PRec.inf (48 * b + j)))).map (fun j => int ra (48 * b + j) * int rb (48 * b + j))
  let top := (List.range ra.length).foldl (fun t b =>
    match (prods b).max? with | some p => (fMinMax true t (scaleToF p (scale b)).1).1 | none => t) 0xFF800000
  ∀ t : BitVec 32, (nan → t = 0x7FC00000) → (¬ nan → pos → t = 0x7F800000) → (¬ nan → ¬ pos → neg → e = 1 → t = 0xFF800000) →
    (¬ nan → ¬ pos → ¬ neg ∨ e = 2 → t = if e = 1 then sum else top) →
    new = if e = 1 then (fAdd false .rne old t 0).1
      else if f32NaN old || f32NaN t then 0x7FC00000 else (fMinMax true old t).1

/-- Bits above a drained integer's width: the value that PLANES writes for an accumulator of an integer entry, and whether it
sets AOV or SATMP (R321). -/
def DrainElem (e wd : Nat) (sat : Bool) (x : Nat) (v : Int) (sticky : Bool) : Prop :=
  let n : Int := if (e = 0 ∨ e = 4) ∧ 2 ^ 31 ≤ x then (x : Int) - 2 ^ 32 else x
  let lo : Int := -(2 ^ (wd - 1))
  let hi : Int := 2 ^ (wd - 1) - 1
  let top : Int := 2 ^ wd - 1
  (e = 0 → sticky = !(decide (lo ≤ n) && decide (n ≤ hi)) ∧ (sat = true → v = max lo (min hi n)) ∧
    (sat = false → (2 ^ wd : Int) ∣ v - n ∧ lo ≤ v ∧ v ≤ hi)) ∧
  (e = 3 ∨ e = 6 → v = min top n ∧ sticky = (decide (top ≤ n) && x != 0xFFFFFFFF)) ∧
  (e = 4 → v = (if x = 0x80000000 then lo else max (lo + 1) (min hi n)) ∧
    sticky = (x != 0x80000000 && !(decide (lo + 1 ≤ n) && decide (n ≤ hi)))) ∧
  (e = 5 ∨ e = 9 → v = min top n ∧ sticky = decide (top < n)) ∧
  (e = 7 ∨ e = 8 → v = n % 2 ∧ sticky = false)

/-- The class-1 record of at most 48 FP32 values: each finite one at the record's scale, the smallest at which all are in range,
an infinity or a value out of range marked (R194, R321). -/
def DrainFloats (wd : Nat) (xs : List (BitVec 32)) (r : PRec) : Prop :=
  let at_ (e : Nat) (x : BitVec 32) : Int := (rneAt (f32Int x) ((e : Int) - 127 - ((wd : Int) - 2))).1
  let out (e : Nat) (x : BitVec 32) : Prop := f32Fin x = true ∧ (at_ e x < -2 ^ (wd - 1) ∨ 2 ^ (wd - 1) - 1 < at_ e x)
  r.cls = 1 ∧ r.w = wd ∧ r.nan = xs.any f32NaN ∧
  ((∀ x ∈ xs, f32Fin x = true → f32Mag x = 0) → r.e = 0) ∧ (∀ x ∈ xs, out r.e x → r.e = 255) ∧
  (∀ n : Nat, (∃ x ∈ xs, f32Fin x = true ∧ 2 ^ n ≤ f32Mag x) → (∀ x ∈ xs, f32Fin x = true → f32Mag x < 2 ^ (n + 1)) →
    n - 22 ≤ r.e ∧ ∀ k : Nat, n - 22 ≤ k → k < r.e → ∃ x ∈ xs, out k x) ∧
  (∀ i : Nat, i < 48 → ∀ x : BitVec 32, x = xs.getD i 0 →
    (f32Fin x = true → ¬ out r.e x → r.s.getD i 0 = at_ r.e x ∧ r.inf.getD i false = false) ∧
    (f32Inf x = true ∨ out r.e x → r.s.getD i 0 = 0 ∧ r.inf.getD i false = true ∧ r.neg.getD i false = x.getLsbD 31) ∧
    (f32NaN x = true → r.s.getD i 0 = 0 ∧ r.inf.getD i false = false))

/-- The fields of a core's engine ring entry: sequence number, opcode, state and status (R309). -/
def RingEntry (c : Core) (seq : BitVec 16) (op st status : Nat) : Prop :=
  let d := (c.ring.getD (seq.toNat % 64) (0, 0)).1.toNat
  d % 2 ^ 16 = seq.toNat ∧ d / 2 ^ 16 % 2 ^ 4 = op ∧ d / 2 ^ 23 % 2 ^ 3 = st ∧ d / 2 ^ 26 % 2 ^ 8 = status

/-! ## Control registers (R236) -/

/-- Numbers of the registers with their access: 0 none, 1 read, 2 read and write, at U and at S; and whether the number
names no register on a Geyser thread. -/
def regMap : List (Nat × Nat × Nat × Bool) :=
  [(0x000, 1, 2, false), (0x001, 2, 2, false), (0x002, 1, 2, false), (0x003, 1, 2, false), (0x004, 1, 2, false),
   (0x005, 1, 2, false), (0x006, 0, 2, false), (0x007, 2, 2, false), (0x010, 1, 1, true), (0x011, 1, 1, true),
   (0x012, 1, 2, true), (0x013, 1, 1, true), (0x014, 1, 1, false), (0x015, 1, 1, false), (0x016, 1, 1, false),
   (0x017, 1, 1, false), (0x018, 1, 1, true), (0x020, 2, 2, true), (0x021, 2, 2, true), (0x022, 2, 2, true),
   (0x023, 2, 2, true), (0x024, 1, 2, true), (0x025, 1, 2, true), (0x026, 1, 2, true), (0x027, 1, 2, true),
   (0x030, 2, 2, false), (0x031, 2, 2, false), (0x032, 2, 2, false), (0x033, 2, 2, false), (0x034, 2, 2, false),
   (0x035, 2, 2, false), (0x036, 2, 2, false), (0x040, 1, 1, false), (0x041, 0, 1, false), (0x042, 0, 2, false),
   (0x043, 1, 2, false), (0x048, 1, 1, false), (0x049, 0, 2, false), (0x050, 0, 2, false), (0x051, 2, 2, false),
   (0x058, 2, 2, true), (0x060, 2, 2, true), (0x061, 1, 1, true), (0x070, 1, 1, false)]

/-- A message may be executed now at an endpoint that takes messages. -/
def Arrives (s : State) (p : Packet) : Prop :=
  s.packet p.id = some p ∧ s.canArrive p = true ∧ (s.part p.tag.toNat).scrubbing = false ∧
  (p.dst < 2 ^ 20 → (s.core p.dst).preempted = false)

end Sys2Proof.Machine
end

