-- ==== Sys2Proof/Certificates/Slice0/Obligations.lean ====
section
/-! DEFINITION. The statements about the model. -/

open Sys2Proof Sys2Proof.Machine

/-! ## Scalar operations -/

/-- R224: g0 reads as zero and a write to it is discarded, p0 reads as ones; every other register reads as the last
value written. A write of a register changes that register and its ready cycle and nothing else. -/
def Obligations.RegisterWrites : Prop :=
  ∀ (s : State) (lat : Nat),
    (∀ (r : BitVec 6) (x : Word) (n : Nat),
      (s.setG r x lat).cf.rg n = (if n = 0 then 0 else if n = r.toNat then x else s.cf.rg n) ∧
      SameRegsBut [r.toNat] s.cf (s.setG r x lat).cf ∧ SameControl s.cf (s.setG r x lat).cf ∧
      (s.setG r x lat).cf.pc = s.cf.pc ∧ (s.setG r x lat).cf.estat = s.cf.estat ∧
      SameMemory s (s.setG r x lat) ∧ SameUnits s (s.setG r x lat)) ∧
    (∀ (r : BitVec 5) (x : VWord) (n : Nat),
      (s.setV r x lat).cf.rv n = (if n = r.toNat then x else s.cf.rv n) ∧
      SameRegsBut [64 + r.toNat] s.cf (s.setV r x lat).cf ∧ SameControl s.cf (s.setV r x lat).cf ∧
      (s.setV r x lat).cf.pc = s.cf.pc ∧ (s.setV r x lat).cf.estat = s.cf.estat ∧
      SameMemory s (s.setV r x lat) ∧ SameUnits s (s.setV r x lat)) ∧
    (∀ (r : BitVec 4) (x : PWord) (n : Nat),
      (s.setP r x lat).cf.rp n = (if n = 0 then 0xFFFF else if n = r.toNat then x else s.cf.rp n) ∧
      SameRegsBut [128 + r.toNat] s.cf (s.setP r x lat).cf ∧ SameControl s.cf (s.setP r x lat).cf ∧
      (s.setP r x lat).cf.pc = s.cf.pc ∧ (s.setP r x lat).cf.estat = s.cf.estat ∧
      SameMemory s (s.setP r x lat) ∧ SameUnits s (s.setP r x lat))

/-- R225, R226: the operations of the integer group without queue operands write their result to gd, readable one turn
later, or three turns later for a division, which sets IDZ when its divisor is zero. R64, R208, R225, R226: with queue
operands the values popped stand for g[ra] and g[rb], and a flagged rd takes a push in place of the register write. R139: a FENCE holds a bundle whose pops or push have not
begun. R64, R65, R310, R355: what a flagged ra does to the queue it pops: a mailbox read takes the next dword of the oldest entry addressed to the thread, which leaves with its fourth; a token read takes the oldest placed token; a FIFO
read takes the head, and lets the oldest waiting push in. Where there is nothing to take, the thread waits in place at the
queue with its bundle undone. R64, R66, R142: a flagged rd is a release: it joins its FIFO when the thread's earlier accesses
have been performed, for which it waits in place (log entry 17); it enters at the tail while there is space, waits in place at
a full FIFO, and goes to a pop that waits. A FIFO of another partition gives zero, takes nothing, and sets XPART. -/
def Obligations.IntegerResults : Prop :=
  ((∀ (s : State) (rd ra rb : BitVec 6), s.acquired = true →
     (∀ x ∈ intOps,
       exec (x.1 ⟨false, false, false⟩ rd ra rb) s = .next (s.setG rd (x.2 (s.pg ra) (s.pg rb)) 1)) ∧
     (∀ x ∈ divOps,
       exec (x.1 ⟨false, false, false⟩ rd ra rb) s =
         .next ((s.setG rd (x.2 (s.pg ra) (s.pg rb)) 3).stickyIf (s.pg rb == 0) bitIdz))) ∧
   (∀ (s : State) (q : QFlags) (rd ra rb : BitVec 6), g3Trap s q rd ra rb = none →
     (queueHeld s q = true → ∀ x ∈ intOps, exec (x.1 q rd ra rb) s = .next s.retry) ∧
     (queueHeld s q = false → ∀ x ∈ intOps, ∀ t : State, t = g3Acquire s q rd ra rb x.2 → t.acquired = true →
       exec (x.1 q rd ra rb) s = .next (if q.qd then t else t.setG rd (x.2 (opA t q ra) (opB t q rb)) 1)) ∧
     (queueHeld s q = false → ∀ x ∈ divOps, ∀ t : State, t = g3Acquire s q rd ra rb x.2 → t.acquired = true →
       exec (x.1 q rd ra rb) s =
         .next ((if q.qd then t else t.setG rd (x.2 (opA t q ra) (opB t q rb)) 3).stickyIf (opB t q rb == 0) bitIdz)))) ∧
  (∀ (s : State) (rd ra rb : BitVec 6), s.acquired = true →
     let fk := s.cur.fk
     let n := ra.toNat % 8
     let fifoKey (n : Nat) : Nat := s.curCore / 16 * 64 + (qField s.cur.slot.qbind n).1
     let mine (k : Nat) : Prop := (s.fifo k).owner = some (s.frameTag fk)
     let pops (v : Word) (P : State → Prop) : Prop := ∀ x ∈ intOps,
       ∃ t : State, exec (x.1 ⟨false, true, false⟩ rd ra rb) s = .next t ∧
         (rd ≠ 0 → t.cf.rg rd.toNat = x.2 v (s.pg rb)) ∧ SameRegsBut [rd.toNat] s.cf t.cf ∧ SameMemory s t ∧ P t
     let waits (i : Instr) (w : Nat) (P : State → Prop) : Prop :=
       ∃ t : State, exec i s = .next t ∧ w ∈ t.cf.waits ∧ t.cf.pc = s.cur.bpc ∧ (t.slot s.cur.sk).state = .inPlace ∧
         SameRegsBut [] s.cf t.cf ∧ SameMemory s t ∧ P t
     (s.waitStands 1 = false → s.fenceHolds .load = false → s.queueTrap false n = none →
       (∀ (e : MailEntry) (pre post : List MailEntry), n = 0 → s.mailOf fk = pre ++ e :: post → e.frame = fk →
         (∀ x ∈ pre, x.frame ≠ fk) →
         pops (e.dwords.getD s.cf.mpos 0) (fun t =>
           t.cf.mpos = (if s.cf.mpos < 3 then s.cf.mpos + 1 else 0) ∧
           t.mailOf fk = if s.cf.mpos < 3 then s.mailOf fk else pre ++ post)) ∧
       (∀ (u : Token) (pre post : List Token), n = 1 → (s.core (frameCore fk)).tokens = pre ++ u :: post →
         u.frame = fk → u.placed = true →
         (∀ x ∈ pre ++ post, x.frame = fk → x.placed = true → u.order < x.order) →
         pops u.value (fun t => (t.core (frameCore fk)).tokens = pre ++ post)) ∧
       (∀ (y : Word) (ys : List Word), 2 ≤ n → mine (fifoKey n) → (s.fifo (fifoKey n)).items = y :: ys →
         (s.fifo (fifoKey n)).poppedAt ≠ some s.cycle →
         ((s.fifo (fifoKey n)).waiting = [] →
           pops y (fun t => (t.fifo (fifoKey n)).items = ys ∧ (t.fifo (fifoKey n)).waiting = [])) ∧
         (∀ (g w : Nat) (z : Word), g ≠ fk → (s.fifo (fifoKey n)).waiting = [⟨g, w, some z⟩] →
           (s.fifo (fifoKey n)).pushedAt ≠ some s.cycle →
           pops y (fun t => (t.fifo (fifoKey n)).items = ys ++ [z] ∧ (t.fifo (fifoKey n)).waiting = [] ∧
             ((t.frame g).held.get? w).isSome = true))) ∧
       (2 ≤ n → ¬mine (fifoKey n) → pops 0 (fun t => t.fifos = s.fifos ∧ t.cf.estat = s.cf.estat ||| 4)) ∧
       (∀ x ∈ intOps, let i : Instr := x.1 ⟨false, true, false⟩ rd ra rb
         (n = 0 → (∀ e ∈ s.mailOf fk, e.frame ≠ fk) → waits i 1 (fun t => t.cf.waitMail = some 1)) ∧
         (n = 1 → (∀ u ∈ (s.core (frameCore fk)).tokens, u.frame = fk → u.placed = false) →
           waits i 1 (fun t => t.cf.waitTok = some 1)) ∧
         (2 ≤ n → mine (fifoKey n) → (s.fifo (fifoKey n)).items = [] → (s.fifo (fifoKey n)).waiting = [] →
           waits i 1 (fun t => (t.fifo (fifoKey n)).waiting = [⟨fk, 1, none⟩])))) ∧
     (s.waitStands 3 = false → s.fenceHolds .store = false → s.queueTrap true (rd.toNat % 8) = none →
       ∀ x ∈ intOps,
         let i : Instr := x.1 ⟨true, false, false⟩ rd ra rb
         let v := x.2 (s.pg ra) (s.pg rb)
         let k := fifoKey (rd.toNat % 8)
         let f := s.fifo k
         (s.accIds fk ≠ [] → waits i 11 (fun t => t.fifos = s.fifos)) ∧
         (s.accIds fk = [] → mine k → f.pushedAt ≠ some s.cycle →
           (f.waiting = [] → f.items.length < 16 →
             ∃ t : State, exec i s = .next t ∧ (t.fifo k).items = f.items ++ [v] ∧ (t.fifo k).waiting = [] ∧
               SameRegsBut [] s.cf t.cf ∧ SameMemory s t) ∧
           (f.waiting = [] → 16 ≤ f.items.length →
             waits i 3 (fun t => (t.fifo k).items = f.items ∧ (t.fifo k).waiting = [⟨fk, 3, some v⟩])) ∧
           (∀ g w : Nat, g ≠ fk → f.items = [] → f.waiting = [⟨g, w, none⟩] → f.poppedAt ≠ some s.cycle →
             ∃ t : State, exec i s = .next t ∧ (t.fifo k).items = [] ∧ (t.fifo k).waiting = [] ∧
               (t.frame g).held.get? w = some v ∧ SameRegsBut [] s.cf t.cf ∧ SameMemory s t)) ∧
         (s.accIds fk = [] → ¬mine k →
           ∃ t : State, exec i s = .next t ∧ t.fifos = s.fifos ∧ t.cf.estat = s.cf.estat ||| 4 ∧
             SameRegsBut [] s.cf t.cf ∧ SameMemory s t)))

/-- R227, R228, SEL of R225: the 65-bit sum and difference with a carry from a predicate (field 0 gives 0), the
selection by a guard, and the comparison, whose predicate results set all 16 bits. R228: what each condition tests. -/
def Obligations.CarrySelectCompare : Prop :=
  (∀ (s : State) (rd ra rb : BitVec 6) (pc pd : BitVec 4) (inv : Bool) (c : Cond), s.acquired = true →
    let q : QFlags := ⟨false, false, false⟩
    let a := s.pg ra
    let b := s.pg rb
    let cin : Nat := if pc = 0 then 0 else ((s.pp pc).getLsbD 0).toNat
    exec (.adc q rd ra rb pc pd) s =
      .next ((s.setG rd (natWord (a.toNat + b.toNat + cin))).setP pd (boolP (decide (2 ^ 64 ≤ a.toNat + b.toNat + cin)))) ∧
    exec (.sbc q rd ra rb pc pd) s =
      .next ((s.setG rd (a - b - natWord cin)).setP pd (boolP (decide (a.toNat < b.toNat + cin)))) ∧
    exec (.sel q rd ra rb pc inv) s = .next (s.setG rd (if (s.pp pc).getLsbD 0 != inv then a else b)) ∧
    exec (.cmp q rd ra rb pd c) s =
      .next ((s.setG rd (if condHolds c a b then 1 else 0)).setP pd (if condHolds c a b then 0xFFFF else 0))) ∧
  (∀ (a b : Word),
    condHolds .eq a b = decide (a = b) ∧ condHolds .ne a b = decide (a ≠ b) ∧
    condHolds .lt a b = decide (a.toInt < b.toInt) ∧ condHolds .ge a b = decide (b.toInt ≤ a.toInt) ∧
    condHolds .ltu a b = decide (a.toNat < b.toNat) ∧ condHolds .geu a b = decide (b.toNat ≤ a.toNat) ∧
    condHolds .le a b = decide (a.toInt ≤ b.toInt) ∧ condHolds .gt a b = decide (b.toInt < a.toInt) ∧
    condHolds .leu a b = decide (a.toNat ≤ b.toNat) ∧ condHolds .gtu a b = decide (b.toNat < a.toNat) ∧
    condHolds .tst a b = decide (a &&& b ≠ 0) ∧ condHolds .ntst a b = decide (a &&& b = 0))

/-- R229, R230, R233: the immediate group and the long immediates. R234: GPTR and GWIN on a compute core; on a Geyser
core they raise ILLEGAL with c.eval 0. -/
def Obligations.Immediates : Prop :=
  (∀ (s : State) (rd ra : BitVec 6) (imm : BitVec 20) (sh : BitVec 6) (c : Cond) (pd : BitVec 4) (i12 : BitVec 12)
    (delta : BitVec 15) (head : BitVec 5) (i48 : BitVec 48) (i16 : BitVec 16),
    let a := s.pg ra
    let x := imm.signExtend 64
    let holds := condHolds c a (i12.signExtend 64)
    exec (.addi rd ra imm) s = .next (s.setG rd (a + x)) ∧
    exec (.andi rd ra imm) s = .next (s.setG rd (a &&& x)) ∧
    exec (.ori rd ra imm) s = .next (s.setG rd (a ||| x)) ∧
    exec (.xori rd ra imm) s = .next (s.setG rd (a ^^^ x)) ∧
    exec (.shli rd ra sh) s = .next (s.setG rd (a <<< sh.toNat)) ∧
    exec (.shri rd ra sh) s = .next (s.setG rd (a >>> sh.toNat)) ∧
    exec (.sari rd ra sh) s = .next (s.setG rd (a.sshiftRight sh.toNat)) ∧
    exec (.cmpi rd ra c pd i12) s =
      .next ((s.setG rd (if holds then 1 else 0)).setP pd (if holds then 0xFFFF else 0)) ∧
    exec (.lea rd delta head) s =
      .next (s.setG rd (natWord
        ((((s.cur.bpc.toNat / 64 : Nat) + delta.toInt) % 2 ^ 50).toNat * 64 + head.toNat))) ∧
    exec (.li rd false i48) s = .next (s.setG rd (i48.signExtend 64)) ∧
    exec (.li rd true i48) s = .next (s.setG rd (i48.setWidth 64)) ∧
    exec (.lih rd i16) s = .next (s.setG rd (i16 ++ (s.pg rd).extractLsb' 0 48))) ∧
  (∀ (s : State) (rd ra : BitVec 6),
    let x := (s.pg ra).toNat
    let base := s.pcid s.curCore
    let moved := (base &&& ~~~ (0xF00000000 : Word)) ||| (((s.pg ra >>> 17) &&& 0xF) <<< 32) ||| (s.pg ra &&& 0x1FFFF)
    let cls : Nat :=
      if x / 2 ^ 56 = 0 then 0 else if x / 2 ^ 56 = 1 then 1 else if x / 2 ^ 56 = 0xF0 then 2
      else if x / 2 ^ 56 = 0xF1 then 3 else if x / 2 ^ 56 = 0xF2 then 4
      else if x / 2 ^ 56 = 0xF3 ∧ x / 2 ^ 17 % 2 ^ 14 = 0 then (if x / 2 ^ 31 % 2 = 0 then 5 else 6) else 7
    (s.onGeyser = false →
      exec (.gptrOwn rd ra) s = .next (s.setG rd (base ||| (s.pg ra &&& 0x1FFFF))) ∧
      exec (.gptrBlk rd ra) s = .next (s.setG rd moved) ∧
      exec (.gptrIlv rd ra) s = .next (s.setG rd (moved ||| 0x80000000)) ∧
      exec (.gwinCls rd ra) s = .next (s.setG rd (natWord cls)) ∧
      (cls ≠ 5 → cls ≠ 6 → exec (.gwinLoc rd ra) s = .next (s.setG rd (s.pg ra))) ∧
      (cls = 5 ∨ cls = 6 → x / 2 ^ 36 % 2 ^ 20 ≠ base.toNat / 2 ^ 36 % 2 ^ 20 →
        exec (.gwinLoc rd ra) s = .next (s.setG rd (s.pg ra))) ∧
      (cls = 6 → x / 2 ^ 36 % 2 ^ 20 = base.toNat / 2 ^ 36 % 2 ^ 20 →
        exec (.gwinLoc rd ra) s =
          .next (s.setG rd (natWord (0xF2 * 2 ^ 56 + (x / 2 ^ 32 % 16 * 2 ^ 17 + x % 2 ^ 17))))) ∧
      (cls = 5 → x / 2 ^ 36 % 2 ^ 20 = base.toNat / 2 ^ 36 % 2 ^ 20 → x / 2 ^ 32 % 16 = base.toNat / 2 ^ 32 % 16 →
        exec (.gwinLoc rd ra) s = .next (s.setG rd (natWord (0xF0 * 2 ^ 56 + x % 2 ^ 17)))) ∧
      (cls = 5 → x / 2 ^ 36 % 2 ^ 20 = base.toNat / 2 ^ 36 % 2 ^ 20 → x / 2 ^ 32 % 16 ≠ base.toNat / 2 ^ 32 % 16 →
        exec (.gwinLoc rd ra) s =
          .next (s.setG rd (natWord (0xF1 * 2 ^ 56 + (x / 2 ^ 32 % 16 * 2 ^ 17 + x % 2 ^ 17)))))) ∧
    (s.onGeyser = true →
      ∀ i ∈ [Instr.gptrOwn rd ra, .gptrBlk rd ra, .gptrIlv rd ra, .gwinCls rd ra, .gwinLoc rd ra],
        exec i s = .next (s.trap { cause := 0x01, eval := 0 })))

/-- R231: counts and whole-mask predicate operations. R232: bit i of a bit field that BFX extracts and of a register
that BFI writes; bits beyond 63 read as zero and are not written. -/
def Obligations.UnaryPredicate : Prop :=
  (∀ (s : State) (rd ra : BitVec 6) (pd pa pb : BitVec 4),
    exec (.movpPredFromG pd ra) s = .next (s.setP pd ((s.pg ra).setWidth 16)) ∧
    exec (.movpGFromPred rd pa) s = .next (s.setG rd ((s.pp pa).setWidth 64)) ∧
    exec (.movpPredFromPred pd pa) s = .next (s.setP pd (s.pp pa)) ∧
    exec (.pand pd pa pb) s = .next (s.setP pd (s.pp pa &&& s.pp pb)) ∧
    exec (.por pd pa pb) s = .next (s.setP pd (s.pp pa ||| s.pp pb)) ∧
    exec (.pxor pd pa pb) s = .next (s.setP pd (s.pp pa ^^^ s.pp pb)) ∧
    exec (.pnot pd pa) s = .next (s.setP pd (~~~ s.pp pa)) ∧
    (∃ n : Nat, exec (.clz rd ra) s = .next (s.setG rd (natWord n)) ∧ n ≤ 64 ∧
      (∀ i : Nat, i < n → (s.pg ra).getLsbD (63 - i) = false) ∧ (n < 64 → (s.pg ra).getLsbD (63 - n) = true)) ∧
    (∃ n : Nat, exec (.ctz rd ra) s = .next (s.setG rd (natWord n)) ∧ n ≤ 64 ∧
      (∀ i : Nat, i < n → (s.pg ra).getLsbD i = false) ∧ (n < 64 → (s.pg ra).getLsbD n = true)) ∧
    exec (.popc rd ra) s =
      .next (s.setG rd (natWord ((List.range 64).filter (fun i => (s.pg ra).getLsbD i)).length))) ∧
  (∀ (s : State) (rd ra rb : BitVec 6) (len : BitVec 6), s.acquired = true →
    let q : QFlags := ⟨false, false, false⟩
    let pos := (s.pg rb).toNat % 64
    let n := Nat.min (len.toNat + 1) (64 - pos)
    (∃ x : Word, exec (.bfx q rd ra rb len false) s = .next (s.setG rd x) ∧
      ∀ i : Nat, x.getLsbD i = (decide (i < n) && (s.pg ra).getLsbD (pos + i))) ∧
    (∃ x : Word, exec (.bfx q rd ra rb len true) s = .next (s.setG rd x) ∧
      ∀ i : Nat, i < 64 → x.getLsbD i = (s.pg ra).getLsbD (pos + Nat.min i (n - 1))) ∧
    (∃ x : Word, exec (.bfi q rd ra rb len) s = .next (s.setG rd x) ∧
      ∀ i : Nat, i < 64 → x.getLsbD i =
        if pos ≤ i ∧ i < pos + (len.toNat + 1) then (s.pg ra).getLsbD (i - pos) else (s.pg rd).getLsbD i))

/-- R235: a transfer that is not taken leaves the pc; a taken one to a valid target sets it, with its link or count
register; NOP does nothing. R33, R235: a taken transfer to a target whose tag is not zero or whose bit 5 is set raises
WINDOW with c.eval the target, and writes no link register. -/
def Obligations.Transfers : Prop :=
  (∀ (s : State) (p : BitVec 4) (inv : Bool) (d : BitVec 22) (d15 : BitVec 15) (h : BitVec 5) (rd ra : BitVec 6),
    let rel (n : Int) : Word := natWord ((((s.cur.bpc.toNat / 64 : Nat) + n) % 2 ^ 50).toNat * 64 + h.toNat)
    let ok (t : Word) : Prop := t.toNat / 2 ^ 56 = 0 ∧ t.getLsbD 5 = false
    let n := s.pg ra - 1
    exec .nop s = .next s ∧
    (((s.pp p).getLsbD 0 == inv) = true → exec (.br p inv d h) s = .next s) ∧
    (((s.pp p != 0) == inv) = true → exec (.brc p inv d h) s = .next s) ∧
    (((s.pp p).getLsbD 0 != inv) = true → ok (rel d.toInt) → exec (.br p inv d h) s = .next (s.jump (rel d.toInt))) ∧
    (((s.pp p != 0) != inv) = true → ok (rel d.toInt) → exec (.brc p inv d h) s = .next (s.jump (rel d.toInt))) ∧
    (ok (rel d.toInt) → exec (.jmp d h) s = .next (s.jump (rel d.toInt)) ∧
      exec (.jal d h) s = .next ((s.setG 63 s.cur.npc).jump (rel d.toInt))) ∧
    (ok (s.pg ra) → exec (.jr ra) s = .next (s.jump (s.pg ra)) ∧
      exec (.jalr rd ra) s = .next ((s.setG rd s.cur.npc).jump (s.pg ra))) ∧
    (n = 0 → exec (.loop rd ra d15 h) s = .next (s.setG rd 0)) ∧
    (n ≠ 0 → ok (rel d15.toInt) → exec (.loop rd ra d15 h) s = .next ((s.setG rd n).jump (rel d15.toInt)))) ∧
  (∀ (s : State) (p : BitVec 4) (inv : Bool) (d : BitVec 22) (d15 : BitVec 15) (h : BitVec 5) (rd ra : BitVec 6),
    let bad (t : Word) : Prop := t.toNat / 2 ^ 56 ≠ 0 ∨ t.getLsbD 5 = true
    let traps (i : Instr) (t : Word) : Prop := exec i s = .next (s.trap { cause := 0x04, eval := t })
    (bad (s.pg ra) → traps (.jr ra) (s.pg ra) ∧ traps (.jalr rd ra) (s.pg ra)) ∧
    (bad (s.relTarget d h) → traps (.jmp d h) (s.relTarget d h) ∧ traps (.jal d h) (s.relTarget d h) ∧
      (((s.pp p).getLsbD 0 != inv) = true → traps (.br p inv d h) (s.relTarget d h)) ∧
      (((s.pp p != 0) != inv) = true → traps (.brc p inv d h) (s.relTarget d h))) ∧
    (bad (s.relTarget d15 h) → s.pg ra ≠ 1 → traps (.loop rd ra d15 h) (s.relTarget d15 h)))

/-! ## Memory operations -/

/-- A write of n bytes reads back as its n low bytes, leaves every byte outside them, and keeps the canonical form.
Two memories in canonical form that read alike are the same list. R50, R253, R254: what one word access does at its
bank: the value it returns, the bytes it stores, the state it leaves. R253: the new value of each AMO operation, on
4-byte and on 8-byte values. -/
def Obligations.MemoryReadsBack : Prop :=
  (∀ (m : Mem) (a n x : Nat), m.wf = true →
    (m.writeLE a n x).readLE a n = x % 2 ^ (8 * n) ∧ (m.writeLE a n x).wf = true ∧
    (∀ b : Nat, b < a ∨ a + n ≤ b → (m.writeLE a n x).read b = m.read b)) ∧
  (∀ (m k : Mem), m.wf = true → k.wf = true → (∀ a : Nat, m.read a = k.read a) → m = k) ∧
  (∀ (s : State) (k : Nat) (a : WordAcc), s.pool.wf = true →
    let off := s.reduce k a.off
    let key := poolKey k off
    let old := s.pool.readLE key a.size
    let r := s.bankAccess k a
    let stores (x : Nat) : Prop := r.1.pool.readLE key a.size = x % 2 ^ (8 * a.size) ∧
      (∀ b : Nat, b < key ∨ key + a.size ≤ b → r.1.pool.read b = s.pool.read b)
    (a.op = .load → r = (s, natWord old)) ∧
    (a.op = .store → stores a.data.toNat ∧ r.1.full = s.full) ∧
    (a.op = .lds → r.2 = natWord old ∧ r.1.pool = s.pool ∧ r.1.isFull k off = false) ∧
    (a.op = .ldsp → r = (s, natWord old)) ∧
    (a.op = .sts → stores a.data.toNat ∧ r.1.isFull k off = true) ∧
    (a.op = .fesetFull → r.1.pool = s.pool ∧ r.1.isFull k off = true) ∧
    (a.op = .fesetEmpty → r.1.pool = s.pool ∧ r.1.isFull k off = false) ∧
    (∀ op : AmoOp, a.op = .amo op → r.2 = natWord old ∧ r.1.full = s.full ∧
      stores (amoCombine op a.size (natWord old) (lowBytes a.size a.data)).toNat) ∧
    (a.op = .cas → r.2 = natWord old ∧ r.1.full = s.full ∧
      (a.size ≤ 8 → a.expect.toNat % 2 ^ (8 * a.size) = old → stores a.data.toNat) ∧
      (a.size ≤ 8 → a.expect.toNat % 2 ^ (8 * a.size) ≠ old → r.1.pool = s.pool))) ∧
  (∀ (old b : Word),
    (∀ x ∈ [(AmoOp.swap, b), (.add, old + b), (.and, old &&& b), (.or, old ||| b), (.xor, old ^^^ b),
        (.min, if b.toInt < old.toInt then b else old), (.max, if old.toInt < b.toInt then b else old),
        (.minu, if b.toNat < old.toNat then b else old), (.maxu, if old.toNat < b.toNat then b else old)],
      amoCombine x.1 8 old b = x.2) ∧
    (∀ (o c : BitVec 32),
      ∀ x ∈ [(AmoOp.swap, c), (.add, o + c), (.and, o &&& c), (.or, o ||| c), (.xor, o ^^^ c),
          (.min, if c.toInt < o.toInt then c else o), (.max, if o.toInt < c.toInt then c else o),
          (.minu, if c.toNat < o.toNat then c else o), (.maxu, if o.toNat < c.toNat then c else o)],
        amoCombine x.1 4 (o.setWidth 64) (c.setWidth 64) = x.2.setWidth 64))

/-- R16, R23, R29: on a compute core the address mode selects the window of the 64-bit sum, or its tag does; the
offset is aligned down to the size; a generic pointer to device or host memory raises NOLOAD and any other unassigned
tag WINDOW, with c.eval the sum. R28, R249: a failed operand check is the precise trap of the access, whichever
operation of the group makes it. -/
def Obligations.AddressDecode : Prop :=
  (∀ (s : State) (sum : Word) (n : Nat), s.onGeyser = false →
    let x := sum.toNat
    let tag := x / 2 ^ 56
    let own : Except TrapRec Dec := .ok ⟨0, s.module.toNat, s.curCore / 16, x % 2 ^ 17 / n * n, decide (x % 2 ^ 17 % n ≠ 0)⟩
    let view (v : Nat) : Except TrapRec Dec :=
      .ok ⟨v, s.module.toNat, s.curCore / 16, x % 2 ^ 21 / n * n, decide (x % 2 ^ 21 % n ≠ 0)⟩
    s.decodeOperand .own sum n = own ∧ s.decodeOperand .blk sum n = view 1 ∧ s.decodeOperand .ilv sum n = view 2 ∧
    (tag = 0xF0 → s.decodeOperand .gen sum n = own) ∧ (tag = 0xF1 → s.decodeOperand .gen sum n = view 1) ∧
    (tag = 0xF2 → s.decodeOperand .gen sum n = view 2) ∧
    (tag = 0 ∨ tag = 1 → s.decodeOperand .gen sum n = .error { cause := 0x03, eval := sum }) ∧
    (tag = 0xF3 → x / 2 ^ 17 % 2 ^ 14 ≠ 0 → s.decodeOperand .gen sum n = .error { cause := 0x04, eval := sum }) ∧
    (tag ∉ [0, 1, 0xF0, 0xF1, 0xF2, 0xF3] → s.decodeOperand .gen sum n = .error { cause := 0x04, eval := sum }) ∧
    (tag = 0xF3 → x / 2 ^ 17 % 2 ^ 14 = 0 →
      ∃ d : Dec, s.decodeOperand .gen sum n = .ok d ∧ d.view = (if x / 2 ^ 31 % 2 = 1 then 2 else 1) ∧
        d.module = x / 2 ^ 46 % 2 ^ 10 ∧ d.q = x / 2 ^ 36 % 2 ^ 10 ∧
        d.off = (x / 2 ^ 32 % 2 ^ 4 * 2 ^ 17 + x % 2 ^ 17) / n * n)) ∧
  (∀ (s : State) (rt rb rc : BitVec 6) (vt : BitVec 5) (am : AMode) (sz : Size) (off : BitVec 16) (x : TrapRec),
    let sum := s.pg rb + off.signExtend 64
    (s.decodeOperand am sum (szBytes sz) = .error x →
      exec (.ld rt rb am sz off) s = .next (s.trap x) ∧ exec (.st rt rb am sz off) s = .next (s.trap x) ∧
      (s.onGeyser = false →
        exec (.lds rt rb am sz off) s = .next (s.trap x) ∧ exec (.ldsp rt rb am sz off) s = .next (s.trap x) ∧
        exec (.sts rt rb am sz off) s = .next (s.trap x) ∧ exec (.fesetFull rb am sz off) s = .next (s.trap x) ∧
        exec (.fesetEmpty rb am sz off) s = .next (s.trap x))) ∧
    (s.decodeOperand am sum 16 = .error x →
      exec (.vld vt rb am off) s = .next (s.trap x) ∧ exec (.vst vt rb am off) s = .next (s.trap x)) ∧
    (∀ (dw : Bool) (op : AmoOp) (o : Ord) (off : BitVec 32),
      scopeTrap s (ordScope o) = none →
      s.decodeOperand am (s.pg rb + off.signExtend 64) (if dw then 8 else 4) = .error x →
      exec (.amo rt rb rc am dw op o off) s = .next (s.trap x) ∧ exec (.cas rt rb rc am dw o off) s = .next (s.trap x)))

/-- R250, R251: a plain store to the own pool. It issues without touching memory; one turn later it stores the low
bytes of the register at the aligned offset reduced by the core's modulus, and no other byte changes; in the gap
nothing does. R250, R251: VST stores the low and the high dword of the register at two words. R250, R251: plain loads
from the own pool read the zero-extended bytes, one turn later. R376, R429: a load of a word that fails again on its
retry raises ECC precisely with c.eval the word's offset in the pool, and the fault is reported. -/
def Obligations.StoresOwnPool : Prop :=
  (∀ (s : State) (rt rb : BitVec 6) (am : AMode) (sz : Size) (off : BitVec 16) (d : Dec),
    s.decodeOperand am (s.pg rb + off.signExtend 64) (szBytes sz) = .ok d → d.view = 0 → s.cur.rx = false →
    s.accStalls .plain .store (s.placeBytes (s.wordPlaces d (szBytes sz)) (szBytes sz)) true = false →
    ∃ (t : State) (x : Delayed), exec (.st rt rb am sz off) s = .next t ∧ IssuesOwn s t x d ∧
      StoresAt s x d.off (szBytes sz) (s.pg rt).toNat) ∧
  (∀ (s : State) (vt : BitVec 5) (rb : BitVec 6) (am : AMode) (off : BitVec 16) (d : Dec),
    s.decodeOperand am (s.pg rb + off.signExtend 64) 16 = .ok d → d.view = 0 → s.cur.rx = false →
    s.accStalls .plain .store (s.placeBytes (s.wordPlaces d 16) 16) true = false →
    ∃ (t : State) (x : Delayed), exec (.vst vt rb am off) s = .next t ∧ IssuesOwn s t x d ∧
      ∀ u : State, u.memWf = true →
        if s.ownGap d.off then SameMemory u (u.performDelayed x)
        else
          let lo := ownKey u s.cur.fk d.off
          let hi := ownKey u s.cur.fk ((d.off + 8) % 2 ^ 17)
          (ownMem (u.performDelayed x) s.cur.fk).readLE lo 8 = (s.pv vt).toNat % 2 ^ 64 ∧
          (ownMem (u.performDelayed x) s.cur.fk).readLE hi 8 = (s.pv vt).toNat / 2 ^ 64 ∧
          (∀ a : Nat, (a < lo ∨ lo + 8 ≤ a) → (a < hi ∨ hi + 8 ≤ a) →
            (ownMem (u.performDelayed x) s.cur.fk).read a = (ownMem u s.cur.fk).read a) ∧
          SameOthers s.cur.fk u (u.performDelayed x)) ∧
  (∀ (s : State) (rt rb : BitVec 6) (vt : BitVec 5) (am : AMode) (sz : Size) (off : BitVec 16) (d : Dec),
    s.cur.rx = false → d.view = 0 →
    (s.decodeOperand am (s.pg rb + off.signExtend 64) (szBytes sz) = .ok d →
      s.accStalls .plain .load (s.placeBytes (s.wordPlaces d (szBytes sz)) (szBytes sz)) true = false →
      (s.ownGap d.off = true ∨ s.ownError .load d (szBytes sz) = none) →
      ∃ (t : State) (x : Delayed), exec (.ld rt rb am sz off) s = .next t ∧ IssuesOwn s t x d ∧ LoadsG s x d.off (szBytes sz) rt ∧
        (rt ≠ 0 → t.cf.ready.getD rt.toNat 0 = s.cycle + 8)) ∧
    (s.decodeOperand am (s.pg rb + off.signExtend 64) 16 = .ok d →
      s.accStalls .plain .load (s.placeBytes (s.wordPlaces d 16) 16) true = false →
      (s.ownGap d.off = true ∨ s.ownError .load d 16 = none) →
      ∃ (t : State) (x : Delayed), exec (.vld vt rb am off) s = .next t ∧ IssuesOwn s t x d ∧ LoadsV s x d.off vt ∧
        t.cf.ready.getD (64 + vt.toNat) 0 = s.cycle + 8) ∧
    (∀ key : Nat, s.decodeOperand am (s.pg rb + off.signExtend 64) (szBytes sz) = .ok d →
      s.accStalls .plain .load (s.placeBytes (s.wordPlaces d (szBytes sz)) (szBytes sz)) true = false →
      s.ownError .load d (szBytes sz) = some (key, true) →
      keyInPool key = true →
      exec (.ld rt rb am sz off) s =
        .next ((s.lasting (keyEnd key) (s.frameTag s.cur.fk) (keyOffset key)).trap
          { cause := 0x12, eval := natWord (keyOffset key) })))

/-- R50, R252: what LDS, LDSP and STS do at an own-pool word whose state lets them go on and for which nobody waits:
they are performed at once; LDS empties the word, LDSP leaves it full, STS fills it and stores. R51, R52: where the
word's state does not allow it, LDS and LDSP of an empty word and STS to a full one stand at the tail of the word's
queue, and the thread waits in place with its bundle undone. The model's choice (log entry 17), which R66 and R140 leave open: an STS to a word of
its own pool waits in place before that while an earlier access of the thread has not been performed. R56, R376: a lasting
error of the word, or of the metadata that holds its state bit, is the precise trap ECC of LDS, LDSP and STS; an error that is
not lasting is corrected. A word with waiters is served as O12 says. R250, R252: FESET at an own-pool word issues as a plain
access; one turn later it sets the word's state and changes no byte. On a Geyser core LDS, LDSP, STS and FESET raise
ILLEGAL with c.eval 0. -/
def Obligations.FullEmptyOwnPool : Prop :=
  (∀ (s : State) (rt rb : BitVec 6) (am : AMode) (sz : Size) (off : BitVec 16) (d : Dec),
    s.onGeyser = false → s.decodeOperand am (s.pg rb + off.signExtend 64) (szBytes sz) = .ok d → d.view = 0 →
    s.acquired = true → s.waitStands 0 = false → s.inGap s.curCore d.off = false → s.pool.wf = true →
    s.waitq.getD (wordKey s.curCore (s.reduce s.curCore d.off)) [] = [] →
    let r := s.reduce s.curCore d.off
    let key := poolKey s.curCore r
    let n := szBytes sz
    (s.isFull s.curCore r = true →
      (feStalls s .lds d n = false → s.ownError .lds d n = none →
        ∃ t : State, exec (.lds rt rb am sz off) s = .next t ∧ t.isFull s.curCore r = false ∧ t.pool = s.pool ∧
          (rt ≠ 0 → t.cf.rg rt.toNat = natWord (s.pool.readLE key n)) ∧ SameRegsBut [rt.toNat] s.cf t.cf) ∧
      (feStalls s .ldsp d n = false → s.ownError .ldsp d n = none →
        ∃ t : State, exec (.ldsp rt rb am sz off) s = .next t ∧ t.full = s.full ∧ t.pool = s.pool ∧
          (rt ≠ 0 → t.cf.rg rt.toNat = natWord (s.pool.readLE key n)) ∧ SameRegsBut [rt.toNat] s.cf t.cf)) ∧
    (s.isFull s.curCore r = false → feStalls s .sts d n = false → s.ownError .sts d n = none → s.accIds s.cur.fk = [] →
      ∃ t : State, exec (.sts rt rb am sz off) s = .next t ∧ t.isFull s.curCore r = true ∧
        t.pool.readLE key n = (s.pg rt).toNat % 2 ^ (8 * n) ∧
        (∀ a : Nat, a < key ∨ key + n ≤ a → t.pool.read a = s.pool.read a) ∧ SameRegsBut [] s.cf t.cf) ∧
    (feStalls s .sts d n = false → s.ownError .sts d n = none → s.accIds s.cur.fk ≠ [] →
      ∃ t : State, exec (.sts rt rb am sz off) s = .next t ∧ 11 ∈ t.cf.waits ∧ t.cf.pc = s.cur.bpc ∧
        (t.slot s.cur.sk).state = .inPlace ∧ SameMemory s t ∧ SameRegsBut [] s.cf t.cf) ∧
    (∀ key : Nat, s.ownError .lds d n = some (key, true) → exec (.lds rt rb am sz off) s = .next (s.eccTrap key)) ∧
    (∀ key : Nat, s.ownError .ldsp d n = some (key, true) → exec (.ldsp rt rb am sz off) s = .next (s.eccTrap key)) ∧
    (∀ key : Nat, s.ownError .sts d n = some (key, true) → exec (.sts rt rb am sz off) s = .next (s.eccTrap key))) ∧
  (∀ (s : State) (rt rb : BitVec 6) (am : AMode) (sz : Size) (off : BitVec 16) (d : Dec),
    s.onGeyser = false → s.decodeOperand am (s.pg rb + off.signExtend 64) (szBytes sz) = .ok d → d.view = 0 →
    s.waitStands 0 = false → s.inGap s.curCore d.off = false →
    let r := s.reduce s.curCore d.off
    let waits (i : Instr) (op : AccOp) : Prop :=
      feStalls s op d (szBytes sz) = false → s.ownError op d (szBytes sz) = none → ∃ (t : State) (w : Waiter), exec i s = .next t ∧
        t.waitq.getD (wordKey s.curCore r) [] = s.waitq.getD (wordKey s.curCore r) [] ++ [w] ∧
        w.who = .thread s.cur.fk ∧ w.op = op ∧ SameMemory s t ∧
        t.cf.pc = s.cur.bpc ∧ (t.slot s.cur.sk).state = .inPlace ∧ SameRegsBut [] s.cf t.cf
    (s.isFull s.curCore r = false → waits (.lds rt rb am sz off) .lds ∧ waits (.ldsp rt rb am sz off) .ldsp) ∧
    (s.isFull s.curCore r = true → s.accIds s.cur.fk = [] → waits (.sts rt rb am sz off) .sts)) ∧
  (∀ (s : State) (rt rb : BitVec 6) (am : AMode) (sz : Size) (off : BitVec 16) (d : Dec),
    (s.onGeyser = false → s.decodeOperand am (s.pg rb + off.signExtend 64) (szBytes sz) = .ok d → d.view = 0 →
      s.cur.rx = false →
      s.accStalls .plain .store (s.placeBytes (s.wordPlaces d (szBytes sz)) (szBytes sz)) true = false →
      let sets (i : Instr) (b : Bool) : Prop :=
        ∃ (t : State) (x : Delayed), exec i s = .next t ∧ IssuesOwn s t x d ∧
          ∀ u : State, s.ownGap d.off = false →
            u.waitq.getD (wordKey s.curCore (u.reduce s.curCore d.off)) [] = [] →
            (u.performDelayed x).isFull s.curCore (u.reduce s.curCore d.off) = b ∧
            (u.performDelayed x).pool = u.pool ∧ (u.performDelayed x).gpool = u.gpool
      sets (.fesetFull rb am sz off) true ∧ sets (.fesetEmpty rb am sz off) false) ∧
    (s.onGeyser = true → ∀ i ∈ [Instr.lds rt rb am sz off, .ldsp rt rb am sz off, .sts rt rb am sz off,
        .fesetFull rb am sz off, .fesetEmpty rb am sz off],
      exec i s = .next (s.trap { cause := 0x01, eval := 0 })))

/-- R17, R250, R253, R254, R257: an access outside the own pool, with RX, or by AMO or CAS is asynchronous: a message
to the port engine of each word's core carries what it does there. R139, R256: FENCE never waits: it records the
accesses that later ones wait for, by its acq and rel bits, at core scope or wider also for copies and array commands
(R131), and changes no register and no memory. -/
def Obligations.RemoteAccesses : Prop :=
  (∀ (s : State) (rt rb rc : BitVec 6) (vt : BitVec 5) (am : AMode) (sz : Size) (off : BitVec 16) (d : Dec),
    s.cur.fk < 2 ^ 20 + 4096 → (d.view = 0 ∨ d.module = s.module.toNat) → (d.view ≠ 0 → d.q < 1024) →
    let kind : OutKind := if s.cur.rx then .rx else .plain
    let free (k : OutKind) (c : AccClass) (n : Nat) : Prop :=
      s.accStalls k c (s.placeBytes (s.wordPlaces d n) n) false = false
    let sum := s.pg rb + off.signExtend 64
    (s.decodeOperand am sum (szBytes sz) = .ok d → (d.view ≠ 0 ∨ s.cur.rx = true) → s.ownError .load d (szBytes sz) = none →
      (free kind .load (szBytes sz) →
        ∃ t : State, exec (.ld rt rb am sz off) s = .next t ∧ SendsAccess s t .load d (szBytes sz) 0 0 0 (some rt.toNat)) ∧
      (free kind .store (szBytes sz) →
        ∃ t : State, exec (.st rt rb am sz off) s = .next t ∧ SendsAccess s t .store d (szBytes sz) (s.pg rt) 0 0 none)) ∧
    (s.decodeOperand am sum 16 = .ok d → (d.view ≠ 0 ∨ s.cur.rx = true) → s.ownError .load d 16 = none →
      (free kind .load 16 →
        ∃ t : State, exec (.vld vt rb am off) s = .next t ∧ SendsAccess s t .load d 16 0 0 0 (some (64 + vt.toNat))) ∧
      (free kind .store 16 →
        ∃ t : State, exec (.vst vt rb am off) s = .next t ∧
          SendsAccess s t .store d 16 ((s.pv vt).extractLsb' 0 64) ((s.pv vt).extractLsb' 64 64) 0 none)) ∧
    (s.onGeyser = false → s.decodeOperand am sum (szBytes sz) = .ok d → d.view ≠ 0 →
      scopeTrap s (s.feScope d) = none →
      (feStalls s .lds d (szBytes sz) = false →
        ∃ t : State, exec (.lds rt rb am sz off) s = .next t ∧ SendsAccess s t .lds d (szBytes sz) 0 0 0 (some rt.toNat)) ∧
      (feStalls s .ldsp d (szBytes sz) = false →
        ∃ t : State, exec (.ldsp rt rb am sz off) s = .next t ∧ SendsAccess s t .ldsp d (szBytes sz) 0 0 0 (some rt.toNat)) ∧
      (feStalls s .sts d (szBytes sz) = false →
        ∃ t : State, exec (.sts rt rb am sz off) s = .next t ∧ SendsAccess s t .sts d (szBytes sz) (s.pg rt) 0 0 none) ∧
      (free kind .store (szBytes sz) →
        (∃ t : State, exec (.fesetFull rb am sz off) s = .next t ∧ SendsAccess s t .fesetFull d (szBytes sz) 0 0 0 none) ∧
        (∃ t : State, exec (.fesetEmpty rb am sz off) s = .next t ∧ SendsAccess s t .fesetEmpty d (szBytes sz) 0 0 0 none))) ∧
    (∀ (dw : Bool) (op : AmoOp) (o : Ord) (off : BitVec 32), scopeTrap s (ordScope o) = none →
      let n := if dw then 8 else 4
      s.decodeOperand am (s.pg rb + off.signExtend 64) n = .ok d → free kind .atomic n →
      s.ownError (.amo op) d n = none → s.ownError .cas d n = none →
      (∃ t : State, exec (.amo rt rb rc am dw op o off) s = .next t ∧
        SendsAccess s t (.amo op) d n (s.pg rc) 0 0 (some rt.toNat)) ∧
      (∃ t : State, exec (.cas rt rb rc am dw o off) s = .next t ∧
        SendsAccess s t .cas d n (s.pg rc) 0 (s.pg rt) (some rt.toNat)))) ∧
  (∀ (s : State) (o : Ord), scopeTrap s o.scope.toNat = none →
    ∃ t : State, exec (.fence o) s = .next t ∧ SameMemory s t ∧ SameUnits s t ∧ SameRegsBut [] s.cf t.cf ∧
      SameControl s.cf t.cf ∧ t.cf.pc = s.cf.pc ∧
      (o.acq = o.rel → ∀ a ∈ s.accIds s.cur.fk, a ∈ t.cf.fenceAll) ∧
      (o.acq = false → o.rel = true → ∀ a ∈ s.accIds s.cur.fk, a ∈ t.cf.fenceStore) ∧
      (o.acq = true → o.rel = false →
        ∀ x ∈ s.cf.outs, (x.cls = .load ∨ x.cls = .atomic) → x.id ∈ s.accIds s.cur.fk → x.id ∈ t.cf.fenceAll) ∧
      (o.scope = 0 → t.engineAfter = s.engineAfter) ∧
      (o.scope ≠ 0 → (o.rel = true ∨ o.acq = false) → ∀ a ∈ s.accIds s.cur.fk, a ∈ t.engineAfter))

/-- R25, R50, R135, R147: a word access that arrives at a core of its partition, where the word is readable and its
state lets the access go on, is performed at the bank, and its result is sent back. R54: one that cannot go on joins the
word's queue, or is answered with a retry when sixteen remote operations wait at the core. R376, R429: one that meets a
lasting error is answered with the word's offset and an error. R26, R383: one at an endpoint that is not its partition's in
its epoch is refused: it touches no memory, its answer has zero and XPART, and the refusal is counted; the first of a period
is reported by a trap message of kind 2.
R52: the queue of a word is served from its head, in order, after every LDS, STS and FESET that is performed at the word:
each operation that the state allows is performed and answered, LDSP leaving a full word full, LDS emptying it, STS filling an
empty one, until the head may not go on or the queue is empty. It is so for an operation of another core, for one of the own
core, and for FESET when its turn comes; a thread that waits in place receives its value and re-enters the rotation. -/
def Obligations.PortEngineAccess : Prop :=
  ((∀ (s : State) (p : Packet) (a : WordAcc), Arrives s p → p.body = .access a → a.part < 2 → p.dst < 2 ^ 14 →
     p.src < 2 ^ 21 → s.coreOf p.dst p.tag p.epoch = true →
     let off := s.reduce p.dst a.off
     s.waitq.getD (wordKey p.dst off) [] = [] →
     ∃ t : State, exec (.portEngineMessage p.id) s = .next t ∧
       (s.inGap p.dst a.off = true → t.pool = s.pool ∧ t.full = s.full ∧
         ∃ r : Packet, t.net = s.net.filter (fun x => x.id != p.id) ++ [r] ∧ r.dst = p.src ∧
           r.body = .response a.out a.part 0 true false false false false a) ∧
       (s.inGap p.dst a.off = false → s.accError a.op p.dst off = none →
         accWaits a.op (s.isFull p.dst off) = false →
         t.pool = (s.bankAccess p.dst a).1.pool ∧ t.full = (s.bankAccess p.dst a).1.full ∧
         ∃ r : Packet, t.net = s.net.filter (fun x => x.id != p.id) ++ [r] ∧ r.dst = p.src ∧
           r.body = .response a.out a.part (s.bankAccess p.dst a).2 false false false false false a) ∧
       (s.inGap p.dst a.off = false → s.accError a.op p.dst off = none →
         accWaits a.op (s.isFull p.dst off) = true → t.pool = s.pool ∧ t.full = s.full ∧
         (s.deferredCount p.dst < 16 → ∃ w : Waiter, t.waitq.getD (wordKey p.dst off) [] = [w] ∧ w.op = a.op ∧
           w.data = a.data ∧ w.who = .remote p.src p.sender p.tag p.epoch a.out a.part) ∧
         (16 ≤ s.deferredCount p.dst → t.waitq = s.waitq ∧
           ∃ r : Packet, t.net = s.net.filter (fun x => x.id != p.id) ++ [r] ∧ r.dst = p.src ∧
             r.body = .response a.out a.part 0 false false true false false a)) ∧
       (∀ key : Nat, s.inGap p.dst a.off = false → s.accError a.op p.dst off = some (key, true) →
         t.pool = s.pool ∧ t.full = s.full ∧
         ∃ r : Packet, t.net = s.net.filter (fun x => x.id != p.id) ++ [r] ∧ r.dst = p.src ∧
           r.body = .response a.out a.part (natWord off) false false false false true a)) ∧
   (∀ (s : State) (p : Packet) (a : WordAcc), Arrives s p → p.body = .access a → a.part < 2 → p.src < 2 ^ 23 →
     s.endOf p.dst p.tag p.epoch = false →
     let key := p.dst * 1024 + p.tag.toNat
     let c := s.hub.refusals.getD key (0, false)
     ∃ (t : State) (r : Packet), exec (.portEngineMessage p.id) s = .next t ∧ SameMemory s t ∧ t.waitq = s.waitq ∧
       t.net = s.net.filter (fun x => x.id != p.id) ++ [r] ∧ r.dst = p.src ∧
       r.body = .response a.out a.part 0 false true false false false a ∧
       t.hub.refusals.getD key (0, false) = (if c.2 then c.1 + 1 else c.1, true) ∧
       (c.2 = true → t.hub.beacons = s.hub.beacons) ∧
       (c.2 = false → ∃ m : TrapMsg, t.hub.beacons = s.hub.beacons ++ [m] ∧ m.kind = 2 ∧ m.part = p.tag))) ∧
  ((∀ (s : State) (k off : Nat), s.bad = [] → RemoteWaiters s k off (s.waitq.getD (wordKey k off) []) →
     Serves s (s.serve k off) k off) ∧
   (∀ (s : State) (p : Packet) (a : WordAcc), Arrives s p → p.body = .access a → a.part < 2 → p.dst < 2 ^ 14 →
     p.src < 2 ^ 21 → s.coreOf p.dst p.tag p.epoch = true → s.inGap p.dst a.off = false → s.bad = [] →
     (a.op = .lds ∨ a.op = .sts ∨ a.op = .fesetFull ∨ a.op = .fesetEmpty) →
     let k := p.dst
     let off := s.reduce k a.off
     accWaits a.op (s.isFull k off) = false → RemoteWaiters s k off (s.waitq.getD (wordKey k off) []) →
     let b := (s.dropPacket p.id).bankAccess k a
     ∃ (t u : State) (r : Packet), exec (.portEngineMessage p.id) s = .next t ∧ Serves b.1 u k off ∧
       t.pool = u.pool ∧ t.full = u.full ∧ t.waitq = u.waitq ∧ t.net = u.net ++ [r] ∧ r.dst = p.src ∧
       r.body = .response a.out a.part b.2 false false false false false a) ∧
   (∀ (s : State) (rt rb : BitVec 6) (am : AMode) (sz : Size) (off : BitVec 16) (d : Dec),
     s.onGeyser = false → s.decodeOperand am (s.pg rb + off.signExtend 64) (szBytes sz) = .ok d → d.view = 0 →
     s.acquired = true → s.waitStands 0 = false → s.inGap s.curCore d.off = false → s.bad = [] →
     let k := s.curCore
     let r := s.reduce k d.off
     let n := szBytes sz
     RemoteWaiters s k r (s.waitq.getD (wordKey k r) []) →
     (feStalls s .lds d n = false → s.isFull k r = true →
       ∃ (t u : State), exec (.lds rt rb am sz off) s = .next t ∧
         Serves (s.bankAccess k ⟨.lds, d.off, n, 0, 0, 0, 0⟩).1 u k r ∧
         t.pool = u.pool ∧ t.full = u.full ∧ t.waitq = u.waitq ∧ t.net = u.net) ∧
     (feStalls s .sts d n = false → s.isFull k r = false → s.accIds s.cur.fk = [] →
       ∃ (t u : State), exec (.sts rt rb am sz off) s = .next t ∧
         Serves (s.bankAccess k ⟨.sts, d.off, n, s.pg rt, 0, 0, 0⟩).1 u k r ∧
         t.pool = u.pool ∧ t.full = u.full ∧ t.waitq = u.waitq ∧ t.net = u.net)) ∧
   (∀ (s : State) (x : Delayed) (a : WordAcc), x.accs = [a] → x.gap = false → x.dst = none → x.at_end < 2 ^ 14 →
     (a.op = .fesetFull ∨ a.op = .fesetEmpty) → s.bad = [] →
     let off := s.reduce x.at_end a.off
     RemoteWaiters s x.at_end off (s.waitq.getD (wordKey x.at_end off) []) →
     ∃ u : State, Serves (s.bankAccess x.at_end a).1 u x.at_end off ∧ (s.performDelayed x).pool = u.pool ∧
       (s.performDelayed x).full = u.full ∧ (s.performDelayed x).waitq = u.waitq ∧ (s.performDelayed x).net = u.net) ∧
   (∀ (s : State) (k off : Nat) (w : Waiter) (fk sk : Nat), s.bad = [] → s.waitq.getD (wordKey k off) [] = [w] →
     w.who = .thread fk → wordKey k (s.reduce k w.off) = wordKey k off → accWaits w.op (s.isFull k off) = false →
     (s.core k).preempted = false → s.slotOf fk = some sk → (s.slot sk).state = .inPlace → (s.frame fk).waits = [0] →
     let t := s.serve k off
     (t.frame fk).held.get? 0 = some (s.bankAccess k ⟨w.op, w.off, w.size, w.data, 0, 0, 0⟩).2 ∧
       (t.frame fk).waits = [] ∧ (t.slot sk).state = .run ∧ t.waitq.getD (wordKey k off) [] = []))

/-- R25, R160: a response returns its word to the thread that waits for it: the last word completes the result in its
register, with OOR and XPART set as the response says. R54: an operation whose target had no room for a waiter is kept
by its core and sent again to the same port engine.
R160: the switch marker at the end of a bundle takes its thread out of the rotation while a result is outstanding, and costs
nothing where none is; a thread at a marker does not issue at its opportunities; the return of a result that is not the last
leaves it there, and the last one puts it back into the rotation. No register, memory or pc changes by the marker itself. -/
def Obligations.AccessResponse : Prop :=
  ((∀ (s : State) (p : Packet) (out : Nat) (data : Word) (oor xpart : Bool) (a : WordAcc) (o : Outst) (k : BitVec 6),
     Arrives s p → p.body = .response out 0 data oor xpart false false false a → s.endOf p.dst p.tag p.epoch = true →
     (s.frame p.sender).outs.find? (fun x => x.id == out) = some o → o.need = 1 → o.dst = some k.toNat → k ≠ 0 →
     ∃ t : State, exec (.accessResponse p.id) s = .next t ∧ (t.frame p.sender).rg k.toNat = data ∧
       SameRegsBut [k.toNat] (s.frame p.sender) (t.frame p.sender) ∧
       (t.frame p.sender).estat = (s.frame p.sender).estat ||| (if oor then 1 else 0) ||| (if xpart then 4 else 0) ∧
       SameMemory s t ∧ (∀ x ∈ (t.frame p.sender).outs, x.id ≠ out) ∧ ∀ j : Nat, j ≠ p.sender → t.frame j = s.frame j) ∧
   (∀ (s : State) (p : Packet) (k : Nat), s.retryHolder p.id = some (k, p) → (s.core k).preempted = false →
     p.dst < 2 ^ 23 →
     (∃ (t : State) (q : Packet), exec (.deferredRetryResend p.id) s = .next t ∧ t.net = s.net ++ [q] ∧ q.src = p.src ∧ q.dst = p.dst ∧
       q.body = p.body ∧ q.tag = p.tag ∧ SameMemory s t ∧ ∀ x ∈ (t.core k).retryBuf, x.id ≠ p.id) ∧
     (∃ (t : State) (q : Packet), exec (.sendRetryResend p.id) s = .next t ∧ t.net = s.net ++ [q] ∧ q.src = p.src ∧ q.dst = p.dst ∧
       q.body = p.body ∧ q.tag = p.tag ∧ SameMemory s t ∧ ∀ x ∈ (t.core k).retryBuf, x.id ≠ p.id))) ∧
  ((∀ s : State, s.cur.stopped = false → s.cur.sw = true → (s.slot s.cur.sk).state = .run →
     (s.slot s.cur.sk).frame = some s.cur.fk →
     let f := s.frame s.cur.fk
     let t := s.finishBundle
     let g := t.frame s.cur.fk
     (t.slot s.cur.sk).state = (if f.outs = [] then .run else .marker) ∧ g.outs = f.outs ∧ g.pc = f.pc ∧
       (f.outs = [] → g.pend = []) ∧ (f.outs ≠ [] → g.pend = f.pend) ∧ SameRegsBut [] f g ∧ SameControl f g ∧
       g.estat = f.estat ∧ SameMemory s t ∧ (∀ k : Nat, k ≠ s.cur.fk → t.frame k = s.frame k)) ∧
   (∀ (s : State) (sk : Nat) (sks : List Nat) (ms : List Move), s.hub.recovery = false → s.tape = .issue :: ms →
     s.thisCycle = sk :: sks → s.detDue true = none → (s.slot sk).state = .marker →
     step s = .next { s with tape := ms, thisCycle := sks }) ∧
   (∀ (s : State) (p : Packet) (out sk : Nat) (data : Word) (oor xpart : Bool) (a : WordAcc) (o : Outst),
     Arrives s p → p.body = .response out 0 data oor xpart false false false a → s.endOf p.dst p.tag p.epoch = true →
     s.slotOf p.sender = some sk → (s.slot sk).state = .marker → o.id = out → o.need = 1 →
     ((s.frame p.sender).outs = [o] → ∃ t : State, exec (.accessResponse p.id) s = .next t ∧
       (t.slot sk).state = .run ∧ (t.frame p.sender).outs = [] ∧ (t.frame p.sender).pend = [] ∧
       (t.frame p.sender).pc = (s.frame p.sender).pc) ∧
     (∀ x : Outst, x.id ≠ out → ((s.frame p.sender).outs = [o, x] ∨ (s.frame p.sender).outs = [x, o]) →
       ∃ t : State, exec (.accessResponse p.id) s = .next t ∧ (t.slot sk).state = .marker ∧
         (t.frame p.sender).outs = [x] ∧ (t.frame p.sender).pc = (s.frame p.sender).pc)))

/-! ## Control registers, traps and system operations -/

/-- R236, R239: CRD and CWR of a number that names no register raise ILLEGAL, of one without access at the level PRIV,
of one that no level may write ILLEGAL, each with c.eval the number; a CRD that is allowed completes. R236, R238,
R309, R395, R398: what CRD returns of each register that is allowed, as it stood before the bundle: on a compute core at S,
at U where U may read it, and on a Geyser where it names one there. The value of c.ewt, the WEIGHT of the selected class with
its IDX and SEL, is the model's choice (log entry 32), which R426 leaves open. -/
def Obligations.ControlAccess : Prop :=
  (∀ (s : State) (r : BitVec 6) (num : BitVec 12),
    let traps (i : Instr) (c : BitVec 8) : Prop :=
      ∃ u : State, (u = s ∨ u = s.draw.2) ∧ exec i s = .next (u.trap { cause := c, eval := num.setWidth 64 })
    let level (x : Nat × Nat × Nat × Bool) : Nat := if s.cur.pre.priv = 0 then x.2.1 else x.2.2.1
    ((∀ x ∈ regMap, x.1 = num.toNat → x.2.2.2 = true ∧ s.onGeyser = true) →
      traps (.crd r num) 0x01 ∧ traps (.cwr r num) 0x01) ∧
    (∀ x ∈ regMap, x.1 = num.toNat → (x.2.2.2 = false ∨ s.onGeyser = false) →
      (level x = 0 → traps (.crd r num) 0x05 ∧ traps (.cwr r num) 0x05) ∧
      (level x = 1 → x.2.2.1 = 2 → traps (.cwr r num) 0x05) ∧
      (level x = 1 → x.2.2.1 = 1 → traps (.cwr r num) 0x01) ∧
      (1 ≤ level x → ∃ (t : State) (v : Word), exec (.crd r num) s = .next t ∧ (∀ n : Nat, n ≠ 0 → t.cf.rg n = if n = r.toNat then v else s.cf.rg n) ∧
        SameRegsBut [r.toNat] s.cf t.cf ∧ SameControl s.cf t.cf ∧ t.cf.estat = s.cf.estat ∧ t.cf.pc = s.cf.pc ∧
        SameMemory s t ∧ SameUnits s t))) ∧
  (∀ (s : State) (rd : BitVec 6), s.onGeyser = false →
    let f := s.cur.pre
    let c := s.core s.curCore
    let r := s.cur.slot
    let p := s.part c.tag.toNat
    ∀ x ∈ [((0x000 : BitVec 12), (f.status.setWidth 64 : Word)), (0x001, f.epc), (0x002, f.ecause.setWidth 64), (0x003, f.eval),
        (0x004, f.eseq.setWidth 64), (0x005, c.tvec), (0x006, c.svec), (0x007, f.estat.setWidth 64), (0x010, f.task),
        (0x011, f.fut), (0x012, f.join), (0x013, f.prio.setWidth 64), (0x014, natWord c.lcid),
        (0x015, s.pcid s.curCore), (0x016, natWord (slotNum s.cur.sk + s.cur.fk % 64 * 256)),
        (0x017, natWord (c.pword.toNat + c.tag.toNat * 2 ^ 32 + c.epoch.toNat * 2 ^ 42 + c.det.toNat * 2 ^ 48)),
        (0x018, f.index.setWidth 64), (0x020, f.fmta.setWidth 64), (0x021, f.fmtb.setWidth 64),
        (0x022, f.scale.setWidth 64), (0x023, f.rowmask.setWidth 64), (0x024, r.tile.getD 0 0), (0x025, r.tile.getD 1 0),
        (0x026, r.tile.getD 2 0), (0x027, r.tile.getD 3 0), (0x030, r.cpsrc), (0x031, r.cpdst), (0x032, r.cpshape),
        (0x033, r.cpsstr), (0x034, r.cpdstr), (0x035, r.cpmask), (0x036, r.cpflags),
        (0x040, natWord s.time + (s.part c.tag.toNat).toff), (0x041, (s.part c.tag.toNat).toff), (0x042, c.timer),
        (0x043, f.wdogLimit ++ f.wdogCount), (0x048, natWord (f.energy.toNat + f.energySat.toNat * 2 ^ 48)),
        (0x049, natWord (weightOf c.ewt c.ewtIdx.toNat + c.ewtIdx.toNat * 2 ^ 48 + c.ewtSel.toNat * 2 ^ 52)), (0x050, r.rkey), (0x051, r.rctr),
        (0x058, r.qbind), (0x060, c.ering.setWidth 64), (0x061, c.erdat),
        (0x070, natWord (p.lim.toNat + 2 * p.pol.toNat))],
      (∀ y ∈ regMap, y.1 = x.1.toNat → 1 ≤ if f.priv = 0 then y.2.1 else y.2.2.1) →
      exec (.crd rd x.1) s = .next (s.setG rd x.2)) ∧
  (∀ (s : State) (rd : BitVec 6), s.onGeyser = true →
    let f := s.cur.pre
    let g := s.geyser s.curCore
    let r := s.cur.slot
    let p := s.part (s.frameTag s.cur.fk).toNat
    ∀ x ∈ [((0x000 : BitVec 12), (f.status.setWidth 64 : Word)), (0x001, f.epc), (0x002, f.ecause.setWidth 64), (0x003, f.eval),
        (0x004, f.eseq.setWidth 64), (0x005, g.tvec), (0x006, g.svec), (0x007, f.estat.setWidth 64),
        (0x030, r.cpsrc), (0x031, r.cpdst), (0x032, r.cpshape), (0x033, r.cpsstr), (0x034, r.cpdstr), (0x035, r.cpmask),
        (0x036, r.cpflags), (0x040, natWord s.time + p.toff), (0x041, p.toff), (0x042, g.timer),
        (0x043, f.wdogLimit ++ f.wdogCount), (0x048, natWord (f.energy.toNat + f.energySat.toNat * 2 ^ 48)),
        (0x049, natWord (weightOf g.ewt g.ewtIdx.toNat + g.ewtIdx.toNat * 2 ^ 48 + g.ewtSel.toNat * 2 ^ 52)),
        (0x050, r.rkey), (0x051, r.rctr), (0x070, natWord (p.lim.toNat + 2 * p.pol.toNat))],
      (∀ y ∈ regMap, y.1 = x.1.toNat → 1 ≤ if f.priv = 0 then y.2.1 else y.2.2.1) →
      exec (.crd rd x.1) s = .next (s.setG rd x.2))

/-- R236, R237, R239: a CWR at S of a frame register writes that register; c.status keeps PRIV, c.estat is cleared
where the value has ones; a PPRIV of 2 or 3 raises PRIV; nothing else changes. R236, R426: a CWR of c.ewt with SEL = 1
selects a class; the model's choice (log entry 32): with SEL = 0 it writes the weight of the class that its IDX names, selects
it and clears SEL. One of c.tile0 to c.tile3 writes the slot's tile offset. -/
def Obligations.ControlWrites : Prop :=
  ∀ (s : State) (ra : BitVec 6), s.onGeyser = false → 1 ≤ s.cur.pre.priv →
    let x := s.pg ra
    let k := s.curCore
    let writes (num : BitVec 12) (t : State) : Prop := exec (.cwr ra num) s = .next t
    (x.toNat < 256 → x.toNat / 4 % 4 < 2 →
      writes 0x000 (s.upd (fun f => { f with status := BitVec.ofNat 8 (f.status.toNat % 4 + x.toNat / 4 * 4) }))) ∧
    (x.toNat < 256 → 2 ≤ x.toNat / 4 % 4 →
      ∃ u : State, (u = s ∨ u = s.draw.2) ∧ exec (.cwr ra 0x000) s = .next (u.trap { cause := 0x05, eval := 0 })) ∧
    writes 0x001 (s.upd (fun f => { f with epc := x })) ∧
    writes 0x002 (s.upd (fun f => { f with ecause := x.setWidth 17 })) ∧
    writes 0x003 (s.upd (fun f => { f with eval := x })) ∧
    writes 0x004 (s.upd (fun f => { f with eseq := x.setWidth 17 })) ∧
    writes 0x005 (s.updCore k (fun c => { c with tvec := x })) ∧
    writes 0x006 (s.updCore k (fun c => { c with svec := x })) ∧
    writes 0x007 (s.upd (fun f => { f with estat := f.estat &&& ~~~ (x.setWidth 32) })) ∧
    writes 0x012 (s.upd (fun f => { f with join := x })) ∧
    writes 0x020 (s.upd (fun f => { f with fmta := x.setWidth 21 })) ∧
    writes 0x021 (s.upd (fun f => { f with fmtb := x.setWidth 21 })) ∧
    writes 0x022 (s.upd (fun f => { f with scale := x.setWidth 21 })) ∧
    writes 0x023 (s.upd (fun f => { f with rowmask := x.setWidth 32 })) ∧
    writes 0x030 (s.updSlot s.cur.sk (fun r => { r with cpsrc := x })) ∧
    writes 0x031 (s.updSlot s.cur.sk (fun r => { r with cpdst := x })) ∧
    writes 0x032 (s.updSlot s.cur.sk (fun r => { r with cpshape := x })) ∧
    writes 0x033 (s.updSlot s.cur.sk (fun r => { r with cpsstr := x })) ∧
    writes 0x034 (s.updSlot s.cur.sk (fun r => { r with cpdstr := x })) ∧
    writes 0x035 (s.updSlot s.cur.sk (fun r => { r with cpmask := x })) ∧
    writes 0x036 (s.updSlot s.cur.sk (fun r => { r with cpflags := x })) ∧
    writes 0x042 (s.updCore k (fun c => { c with timer := x, timerOwner := some s.cur.fk })) ∧
    writes 0x043 (s.upd (fun f => { f with wdogCount := x.setWidth 40, wdogLimit := x.extractLsb' 40 24 })) ∧
    writes 0x050 (s.updSlot s.cur.sk (fun r => { r with rkey := x })) ∧
    writes 0x051 (s.updSlot s.cur.sk (fun r => { r with rctr := x })) ∧
    (x.toNat < 2 ^ 42 → writes 0x058 (s.updSlot s.cur.sk (fun r => { r with qbind := x }))) ∧
    writes 0x060 (s.updCore k (fun c => { c with ering := x.setWidth 7 })) ∧
    (x.getLsbD 52 = true →
      writes 0x049 (s.updCore k (fun c => { c with ewtIdx := x.extractLsb' 48 4, ewtSel := true }))) ∧
    (x.getLsbD 52 = false →
      writes 0x049 (s.updCore k (fun c => { c with
        ewtIdx := x.extractLsb' 48 4, ewtSel := false,
        ewt := c.ewt.put (x.toNat / 2 ^ 48 % 16) (x.extractLsb' 0 24) }))) ∧
    writes 0x024 (s.updSlot s.cur.sk (fun r => r.setTile 0 x)) ∧ writes 0x025 (s.updSlot s.cur.sk (fun r => r.setTile 1 x)) ∧
    writes 0x026 (s.updSlot s.cur.sk (fun r => r.setTile 2 x)) ∧ writes 0x027 (s.updSlot s.cur.sk (fun r => r.setTile 3 x)) ∧
    (∀ (r : Slot) (i j : Nat), j < 4 → (r.setTile i x).tile.getD j 0 = if j = i then x else r.tile.getD j 0)

/-- R240: trap entry with nothing pending, INTRAP clear and a handler: c.epc, c.eval and c.ecause are written,
c.status saves PRIV and IE, clears IE, sets INTRAP and takes the handler's level, keeping MIE, and the pc is the
handler's; no register of the g, v and p files and no memory changes. The handler is S's for WDOG, ECC and every trap
from S or M, or where c.tvec is 0. R162, R240: with results outstanding the entry waits: the trap is kept, the thread
leaves the rotation as at a switch marker, and no control register of the frame changes yet. R172, R240: without a
handler, or inside one, a compute task that traps ends: its slot has no thread, its frame is free, and its pending
future of its own cluster is FAULTED with the cause and the detail. -/
def Obligations.TrapEntry : Prop :=
  (∀ (s : State) (t : TrapRec), s.onGeyser = false → s.cf.outs = [] → s.cf.intrap = false → t.imp = false →
    let c := s.core s.curCore
    let toS : Bool := t.cause == 0x0D || t.cause == 0x12 || decide (s.cf.status.toNat % 4 ≠ 0) || c.tvec == 0
    let vec := if toS then c.svec else c.tvec
    let lvl : Nat := if toS then 1 else 0
    vec ≠ 0 →
    let u := s.trap t
    u.cf.epc = s.cur.bpc ∧ u.cf.eval = t.eval ∧
    u.cf.ecause.toNat = t.cause.toNat + t.detail.toNat * 256 ∧
    u.cf.pc = vec ∧
    u.cf.status.toNat = lvl + s.cf.status.toNat % 4 * 4 + s.cf.status.toNat / 16 % 2 * 32 + 64 +
      s.cf.status.toNat / 128 * 128 ∧
    SameRegsBut [] s.cf u.cf ∧ u.cf.estat = s.cf.estat ∧ u.cf.eseq = s.cf.eseq ∧ u.cf.fmta = s.cf.fmta ∧
    u.cf.fmtb = s.cf.fmtb ∧ u.cf.scale = s.cf.scale ∧ u.cf.rowmask = s.cf.rowmask ∧ SameMemory s u ∧
    (∀ k : Nat, k ≠ s.cur.fk → u.frame k = s.frame k) ∧ u.cur.stopped = true) ∧
  (∀ (s : State) (t : TrapRec), t.imp = false → s.cf.outs ≠ [] →
    let u := s.trap t
    u.cf.trapPend = some { t with epc := s.cur.bpc } ∧ (u.slot s.cur.sk).state = .marker ∧ SameControl s.cf u.cf ∧
    SameRegsBut [] s.cf u.cf ∧ u.cf.pc = s.cur.bpc ∧ SameMemory s u) ∧
  (∀ (s : State) (t : TrapRec) (sk : Nat), s.onGeyser = false → s.cf.outs = [] → t.imp = false →
    (s.cf.intrap = true ∨ ((s.core s.curCore).tvec = 0 ∧ (s.core s.curCore).svec = 0)) →
    s.slotOf s.cur.fk = some sk → (∀ j : Nat, (s.slot j).frame = some s.cur.fk → j = sk) →
    let u := s.trap t
    (u.frame s.cur.fk).state = .free ∧ (u.slot sk).frame = none ∧ (u.slot sk).state = .free ∧
    (handleModule s.cf.fut = s.module.toNat → handleCluster s.cf.fut = s.curCore / 16 →
      (s.future (handleKey s.cf.fut)).state = .pending → handleDist (s.future (handleKey s.cf.fut)) s.cf.fut = 0 →
      (s.future (handleKey s.cf.fut)).dropped = false →
      (u.future (handleKey s.cf.fut)).state = .faulted ∧
      (u.future (handleKey s.cf.fut)).value = natWord (t.cause.toNat + t.detail.toNat * 256)))

/-- R242: TRAP and DBRK take TRAPI and DEBUG with c.eval the next bundle's address. R241: ERET in a handler with
nothing pending returns to c.epc with PRIV and IE from PPRIV and PIE and INTRAP clear, leaving MIE; outside a handler
it raises ILLEGAL with c.eval 0; with results outstanding it waits; a c.epc that is no code address raises WINDOW. -/
def Obligations.TrapOperations : Prop :=
  (∀ (s : State) (fn : BitVec 8),
    exec (.trap fn) s = .next (s.trap { cause := 0x13, detail := fn, eval := s.cur.npc }) ∧
    exec .dbrk s = .next (s.trap { cause := 0x11, detail := 0, eval := s.cur.npc })) ∧
  (∀ (s : State),
    (s.cur.pre.intrap = true → s.cf.outs = [] → s.cf.epc.toNat / 2 ^ 56 = 0 → s.cf.epc.getLsbD 5 = false →
      ∃ t : State, exec .eret s = .next t ∧ t.cf.pc = s.cf.epc ∧
        t.cf.status.toNat % 4 = s.cf.status.toNat / 4 % 4 ∧ t.cf.status.toNat / 16 % 2 = s.cf.status.toNat / 32 % 2 ∧
        t.cf.status.toNat / 64 % 2 = 0 ∧ t.cf.status.toNat / 128 = s.cf.status.toNat / 128 ∧
        SameRegsBut [] s.cf t.cf ∧ t.cf.epc = s.cf.epc ∧ t.cf.eval = s.cf.eval ∧ t.cf.ecause = s.cf.ecause ∧
        t.cf.estat = s.cf.estat ∧ SameMemory s t ∧ SameUnits s t) ∧
    (s.cur.pre.intrap = false → exec .eret s = .next (s.trap { cause := 0x01, eval := 0 })) ∧
    (s.cur.pre.intrap = true → s.cf.outs ≠ [] → ∃ t : State, exec .eret s = .next t ∧ (t.slot s.cur.sk).state = .marker ∧
      t.cf.pc = s.cur.bpc ∧ t.cf.status = s.cf.status) ∧
    (s.cur.pre.intrap = true → s.cf.outs = [] → s.cf.epc.toNat / 2 ^ 56 ≠ 0 ∨ s.cf.epc.getLsbD 5 = true →
      exec .eret s = .next (s.trap { cause := 0x04, eval := s.cf.epc })))

/-- R245, R246, R247, R374: FLUSHI, HALT and SCRUB at U raise PRIV with c.eval 0, HALT only on a compute core. R243,
R245, R246, R247, R248: TIME returns guest time; FLUSHI removes the lines of its partition, and its completion is an
asynchronous result that the core reports to the thread (that it removes them at issue and ends by a message of the core to
itself is the model's choice, log entry 31); HALT takes the thread out
of the rotation; SCRUB starts a clearing whose end is its result; TABR reads the decode table and the encode order;
TABW enters the writes that later reads see. R187, R248: what a TABW of each form writes when its turn comes; every
other entry stays. -/
def Obligations.PrivilegedAtU : Prop :=
  (∀ (s : State) (l : Bool) (r : BitVec 6) (fn : BitVec 3), s.cur.pre.priv = 0 →
    exec (.flushi l r) s = .next (s.trap { cause := 0x05, eval := 0 }) ∧
    exec (.scrub r fn) s = .next (s.trap { cause := 0x05, eval := 0 }) ∧
    (s.onGeyser = false → exec .halt s = .next (s.trap { cause := 0x05, eval := 0 }))) ∧
  (∀ (s : State) (r : BitVec 6) (fn3 : BitVec 3) (x : BitVec 8), s.onGeyser = false →
    let c := s.core s.curCore
    let reports (t : State) : Prop := ∃ (o : Outst) (p : Packet), t.cf.outs = s.cf.outs ++ [o] ∧ o.dst = none ∧
      t.net = s.net ++ [p] ∧ p.dst = s.curCore ∧ p.body = .futureReply s.cur.fk o.id (.value 0 true) false false ∧
      (∀ k : Nat, k ≠ s.cur.fk → t.frame k = s.frame k) ∧ SameRegsBut [] s.cf t.cf ∧ SameControl s.cf t.cf ∧
      t.cf.pc = s.cf.pc ∧ SameMemory s t
    exec (.time r) s = .next (s.setG r (natWord s.time + (s.part c.tag.toNat).toff)) ∧
    (1 ≤ s.cur.pre.priv →
      (∃ t : State, exec (.flushi false r) s = .next t ∧
        (∀ l : ILine, l ∈ (t.cluster (s.curCore / 16)).icache ↔ l ∈ (s.cluster (s.curCore / 16)).icache ∧ l.tag ≠ c.tag) ∧
        reports t) ∧
      (∃ t : State, exec (.flushi true r) s = .next t ∧
        (∀ l : ILine, l ∈ (t.cluster (s.curCore / 16)).icache ↔
          l ∈ (s.cluster (s.curCore / 16)).icache ∧ ¬(l.tag = c.tag ∧ l.va = (s.pg r).toNat / 64 % 2 ^ 50 * 64)) ∧
        reports t) ∧
      (∃ t : State, exec .halt s = .next t ∧ (t.slot s.cur.sk).state = .halted ∧ (t.slot s.cur.sk).frame = (s.slot s.cur.sk).frame ∧
        (∀ k : Nat, t.frame k = s.frame k) ∧ SameMemory s t) ∧
      (∃ (t : State) (id : Nat), exec (.scrub r fn3) s = .next t ∧
        t.hub.coreScrubs = s.hub.coreScrubs ++ [⟨id, s.curCore, s.cur.fk, id, fn3, c.eseqNext, 0⟩] ∧
        (∃ o : Outst, t.cf.outs = s.cf.outs ++ [o] ∧ o.id = id ∧ o.dst = some r.toNat) ∧ SameMemory s t ∧
        SameRegsBut [] s.cf t.cf ∧ SameControl s.cf t.cf)) ∧
    exec (.tabr 0 x r) s = .next (s.setG r ((c.dtabAt x.toNat).setWidth 64)) ∧
    exec (.tabr 1 x r) s = .next (s.setG r ((c.orderAt x.toNat).setWidth 64)) ∧
    exec (.tabr 3 x r) s = .next (s.setG r (c.dtabAt (x.toNat + 1) ++ c.dtabAt x.toNat)) ∧
    (∃ v : Word, exec (.tabr 2 x r) s = .next (s.setG r v) ∧
      ∀ k : Nat, k < 8 → v.toNat / 2 ^ (8 * k) % 256 = (c.orderAt (x.toNat + k)).toNat) ∧
    (∀ fn : BitVec 2, exec (.tabw fn x r) s =
      .next { s with tabWrites := s.tabWrites ++ [⟨s.cycle + 8, s.curCore, fn, x, s.pg r⟩] })) ∧
  (∀ (c : Core) (w : TabWrite) (j : Nat),
    let x := w.x.toNat
    let entry (d : Word) : BitVec 32 := d.setWidth 32 &&& 0xFFFFE000
    let t := applyTab c w
    (w.fn = 0 → t.order = c.order ∧ t.dtabAt j = if j = x then entry w.data else c.dtabAt j) ∧
    (w.fn = 1 → t.dtab = c.dtab ∧ t.orderAt j = if j = x then w.data.setWidth 8 else c.orderAt j) ∧
    (w.fn = 2 → t.dtab = c.dtab ∧
      t.orderAt j = if x ≤ j ∧ j < x + 8 then w.data.extractLsb' (8 * (j - x)) 8 else c.orderAt j) ∧
    (w.fn = 3 → t.order = c.order ∧
      t.dtabAt j = if j = x then entry w.data else if j = x + 1 then entry (w.data >>> 32) else c.dtabAt j))

/-! ## Vector operations -/

/-- R268, R269, R272: the lane results of the integer group; an inactive lane keeps its value. R272, R276, R277, R278:
bitwise operations, moves, selection and permutation, for every lane type, and VEXTR. -/
def Obligations.VectorInteger : Prop :=
  (∀ (s : State) (lt : LaneType) (vd va vb : BitVec 5) (gp : BitVec 4), lt.isInt = true →
    let n := lt.bits
    let a (k : Nat) : Int := lane n (s.pv va) k
    let b (k : Nat) : Int := lane n (s.pv vb) k
    let sa (k : Nat) : Int := sInt n (lane n (s.pv va) k)
    let sb (k : Nat) : Int := sInt n (lane n (s.pv vb) k)
    let sh (k : Nat) : Nat := lane n (s.pv vb) k % n
    let signed (x : Int) : Int := max (-2 ^ (n - 1)) (min (2 ^ (n - 1) - 1) x)
    let unsigned (x : Int) : Int := max 0 (min (2 ^ n - 1) x)
    let res (i : Instr) (f : Nat → Int) : Prop := VRes s i n vd gp 1 id f
    res (.vadd lt .wrap vd va vb gp) (fun k => a k + b k) ∧
    res (.vadd lt .signed vd va vb gp) (fun k => signed (sa k + sb k)) ∧
    res (.vadd lt .unsigned vd va vb gp) (fun k => unsigned (a k + b k)) ∧
    res (.vsub lt .wrap vd va vb gp) (fun k => a k - b k) ∧
    res (.vsub lt .signed vd va vb gp) (fun k => signed (sa k - sb k)) ∧
    res (.vsub lt .unsigned vd va vb gp) (fun k => unsigned (a k - b k)) ∧
    res (.vmul lt vd va vb gp) (fun k => a k * b k) ∧
    res (.vmulh lt false vd va vb gp) (fun k => sa k * sb k / 2 ^ n) ∧
    res (.vmulh lt true vd va vb gp) (fun k => a k * b k / 2 ^ n) ∧
    res (.vmin lt false vd va vb gp) (fun k => min (sa k) (sb k)) ∧
    res (.vmin lt true vd va vb gp) (fun k => min (a k) (b k)) ∧
    res (.vmax lt false vd va vb gp) (fun k => max (sa k) (sb k)) ∧
    res (.vmax lt true vd va vb gp) (fun k => max (a k) (b k)) ∧
    res (.vabs lt vd va gp) (fun k => ((sa k).natAbs : Int)) ∧
    res (.vshl lt vd va vb gp) (fun k => a k * 2 ^ sh k) ∧
    res (.vshr lt vd va vb gp) (fun k => a k / 2 ^ sh k) ∧
    res (.vsar lt vd va vb gp) (fun k => sa k / 2 ^ sh k)) ∧
  (∀ (s : State) (lt : LaneType) (vd va vb : BitVec 5) (gp ps : BitVec 4) (g : BitVec 6) (idx : BitVec 4),
    let n := lt.bits
    let a (k : Nat) : Nat := lane n (s.pv va) k
    let b (k : Nat) : Nat := lane n (s.pv vb) k
    let res (i : Instr) (f : Nat → Nat) : Prop := VRes s i n vd gp 1 id (fun k => (f k : Int))
    res (.vand lt vd va vb gp) (fun k => a k &&& b k) ∧
    res (.vor lt vd va vb gp) (fun k => a k ||| b k) ∧
    res (.vxor lt vd va vb gp) (fun k => a k ^^^ b k) ∧
    res (.vmov lt vd va gp) a ∧
    res (.vsel lt vd va vb ps gp) (fun k => if pbit n (s.pp ps) k then a k else b k) ∧
    res (.vsplat lt vd g gp) (fun _ => (s.pg g).toNat) ∧
    res (.vins lt vd g idx gp) (fun k => if k = idx.toNat then (s.pg g).toNat else lane n (s.pv vd) k) ∧
    VRes s (.vperm vd va vb gp) 8 vd gp 1 id (fun k =>
      let x := lane 8 (s.pv vb) k
      if 128 ≤ x then 0 else (lane 8 (s.pv va) (x % 16) : Int)) ∧
    exec (.vextr lt false g va idx) s = .next (s.setG g (natWord (a idx.toNat))) ∧
    exec (.vextr lt true g va idx) s = .next (s.setG g (BitVec.ofInt 64 (sInt n (a idx.toNat)))))

/-- R273, R274, R275: carry chains, multi-word products and comparisons; a predicate destination gets each active
lane's bit in every bit of the lane's bytes. R279: reductions over the active lanes: the result in lane 0, every other
bit zero; a float reduction is the tree (l0 ⊕ l1) ⊕ (l2 ⊕ l3) with the identity on inactive lanes. -/
def Obligations.VectorCarryCompare : Prop :=
  (∀ (s : State) (lt : LaneType) (vd va vb vc : BitVec 5) (ps pd gp : BitVec 4) (c : Cond), lt.isInt = true →
    let n := lt.bits
    let a (k : Nat) : Nat := lane n (s.pv va) k
    let b (k : Nat) : Nat := lane n (s.pv vb) k
    let z (k : Nat) : Nat := lane n (s.pv vc) k
    let cin (k : Nat) : Nat := if ps = 0 then 0 else (pbit n (s.pp ps) k).toNat
    let lo (k : Nat) : Nat := a k * b k % 2 ^ n + z k + cin k
    let hi (k : Nat) : Nat := a k * b k / 2 ^ n + z k + cin k
    let holds (k : Nat) : Bool := condHolds c (BitVec.ofNat n (a k)) (BitVec.ofNat n (b k))
    VPRes s (.vadc lt vd va vb ps pd gp) n vd gp pd 1 (fun k => (a k + b k + cin k : Nat))
      (fun k => decide (2 ^ n ≤ a k + b k + cin k)) ∧
    VPRes s (.vsbc lt vd va vb ps pd gp) n vd gp pd 1 (fun k => (a k : Int) - b k - cin k)
      (fun k => decide (a k < b k + cin k)) ∧
    VPRes s (.vmadw lt false vd va vb vc ps pd gp) n vd gp pd 2 (fun k => (lo k : Int)) (fun k => decide (2 ^ n ≤ lo k)) ∧
    VPRes s (.vmadw lt true vd va vb vc ps pd gp) n vd gp pd 2 (fun k => (hi k : Int)) (fun k => decide (2 ^ n ≤ hi k)) ∧
    VPRes s (.vcmp lt c false vd va vb pd gp) n vd gp pd 1 (fun k => if holds k then 2 ^ n - 1 else 0) holds ∧
    (∃ p : PWord, exec (.vcmp lt c true vd va vb pd gp) s = .next (s.setP pd p) ∧ PRes s n gp pd p holds)) ∧
  (∀ (s : State) (lt : LaneType) (m : Rnd) (vd va : BitVec 5) (gp : BitVec 4),
    let n := lt.bits
    let ks := (List.range (128 / n)).filter (fun k => pbit n (s.pp gp) k)
    let a := ks.map (fun k => lane n (s.pv va) k)
    let sa := ks.map (fun k => sInt n (lane n (s.pv va) k))
    let res (op : RedOp) (x : Nat) : Prop := exec (.vred lt op .rne vd va gp) s = .next (s.setV vd (BitVec.ofNat 128 x) 2)
    let f19 := lt == .f19
    let l (z : Nat) (k : Nat) : BitVec 32 :=
      fRead f19 (BitVec.ofNat 32 (if pbit 32 (s.pp gp) k then lane 32 (s.pv va) k else z))
    let tree (op : RedOp) (r : Rnd) (z : Nat) (f : Nat → BitVec 32 → BitVec 32 → FRes) : Prop :=
      let x := f 0 (l z 0) (l z 1)
      let y := f 1 (l z 2) (l z 3)
      let w := f 2 x.1 y.1
      exec (.vred lt op r vd va gp) s = .next (((s.setV vd (w.1.setWidth 128) 2).flags (x.2 ||| y.2 ||| w.2) 2).drawIf r 2)
    (lt.isInt = true →
      res .add (a.sum % 2 ^ n) ∧
      res .min (sa.foldl min (2 ^ (n - 1) - 1) % 2 ^ n).toNat ∧
      res .max (sa.foldl max (-2 ^ (n - 1)) % 2 ^ n).toNat ∧
      res .minu (a.foldl min (2 ^ n - 1)) ∧
      res .maxu (a.foldl max 0) ∧
      res .and (a.foldl (· &&& ·) (2 ^ n - 1)) ∧
      res .or (a.foldl (· ||| ·) 0) ∧
      res .xor (a.foldl (· ^^^ ·) 0)) ∧
    (lt.isFloat = true →
      tree .fadd m 0x80000000 (fun k x y => fAdd f19 m x y (drawAt s.block k)) ∧
      tree .fmin .rne 0x7F800000 (fun _ x y => fMinMax false x y) ∧
      tree .fmax .rne 0xFF800000 (fun _ x y => fMinMax true x y)))

/-- R182, R184, R269, R280, R282, R283: the float operations lane by lane: each reads its lanes as its type says,
rounds with the slot of the block that belongs to the lane, and sets the flags of the active lanes. R182, R269, R298,
R299: VRAND writes the block and advances the counter, with RWRAP on the advance from all ones; a stochastic operation
advances it too, any other does not; a CWR of c.rctr in the bundle makes its value stand; a flag is set where an
active lane sets it. R271: the flags of a result of one turn are set with it; those of a result of two turns in its ready
cycle, and no earlier. -/
def Obligations.VectorFloat : Prop :=
  (∀ (s : State) (f19 : Bool) (m : Rnd) (np nc : Bool) (fn : SfuFn) (c : FCond) (vd va vb vc : BitVec 5) (pd gp : BitVec 4),
    let a (k : Nat) := fRead f19 (lane32 (s.pv va) k)
    let b (k : Nat) := fRead f19 (lane32 (s.pv vb) k)
    let z (k : Nat) := fRead f19 (lane32 (s.pv vc) k)
    let r (k : Nat) := drawAt s.block k
    let cmp (k : Nat) := fCompare c (a k) (b k)
    let fl := activeFlags 32 (s.pp gp) (fun k => (cmp k).2)
    FRes4 s (.vfadd f19 m vd va vb gp) vd gp m 1 (fun k => fAdd f19 m (a k) (b k) (r k)) ∧
    FRes4 s (.vfsub f19 m vd va vb gp) vd gp m 1 (fun k => fAdd f19 m (a k) (b k ^^^ 0x80000000) (r k)) ∧
    FRes4 s (.vfmul f19 m vd va vb gp) vd gp m 1 (fun k => fMul f19 m (a k) (b k) (r k)) ∧
    FRes4 s (.vfma f19 m np nc vd va vb vc gp) vd gp m 1 (fun k => fMulAdd f19 m np nc (a k) (b k) (z k) (r k)) ∧
    FRes4 s (.vfmin f19 vd va vb gp) vd gp .rne 1 (fun k => fMinMax false (a k) (b k)) ∧
    FRes4 s (.vfmax f19 vd va vb gp) vd gp .rne 1 (fun k => fMinMax true (a k) (b k)) ∧
    FRes4 s (.vsfu f19 m fn vd va gp) vd gp m 2 (fun k => sfu f19 m fn (a k) (r k)) ∧
    (∃ (v : VWord) (p : PWord), exec (.vfcmp f19 c false vd va vb pd gp) s = .next (((s.setV vd v 1).setP pd p 1).flags fl) ∧
      PRes s 32 gp pd p (fun k => (cmp k).1) ∧
      ∀ k : Nat, k < 4 → lane 32 v k =
        if pbit 32 (s.pp gp) k then (if (cmp k).1 then 2 ^ 32 - 1 else 0) else lane 32 (s.pv vd) k) ∧
    (∃ p : PWord, exec (.vfcmp f19 c true vd va vb pd gp) s = .next ((s.setP pd p 1).flags fl) ∧
      PRes s 32 gp pd p (fun k => (cmp k).1))) ∧
  (∀ (s : State) (lt : LaneType) (vd : BitVec 5) (gp : BitVec 4) (m : Rnd) (fl : Nat → BitVec 32) (i : Nat),
    let b := mix s.cur.slot.rkey s.cur.slot.rctr
    (lt.isInt = true → VRes s (.vrand lt vd gp) lt.bits vd gp 1 State.advance (fun k => (lane lt.bits b k : Int))) ∧
    (∀ lat : Nat, s.drawIf m lat = if m = .rs then s.advance lat else s) ∧
    (s.writesRctr = true → s.advance = s ∧ s.advance 2 = s) ∧
    (s.writesRctr = false → ∀ lat : Nat, lat = 1 ∨ lat = 2 →
      let u := s.advance lat
      (u.slot s.cur.sk).rctr = s.cur.slot.rctr + 1 ∧ SameRegsBut [] s.cf u.cf ∧ SameControl s.cf u.cf ∧ SameMemory s u ∧
      (s.cur.slot.rctr ≠ -1 → u.cf.estat = s.cf.estat ∧ u.cf.flagsDue = s.cf.flagsDue) ∧
      (s.cur.slot.rctr = -1 → lat = 1 → u.cf.estat = s.cf.estat ||| 0x1000) ∧
      (s.cur.slot.rctr = -1 → lat = 2 → u.cf.estat = s.cf.estat ∧
        u.cf.flagsDue = s.cf.flagsDue ++ [(s.cycle + 16, 0x1000)])) ∧
    (lt.isInt = true →
      (activeFlags lt.bits (s.pp gp) fl).getLsbD i =
        (List.range (128 / lt.bits)).any (fun k => pbit lt.bits (s.pp gp) k && (fl k).getLsbD i)) ∧
    (let u := s.flags (fl 0)
     u.cf.estat = s.cf.estat ||| fl 0 ∧ SameRegsBut [] s.cf u.cf ∧ SameControl s.cf u.cf ∧ SameMemory s u ∧ SameUnits s u) ∧
    (let u := s.flags (fl 0) 2
     u.cf.flagsDue = s.cf.flagsDue ++ [(s.cycle + 16, fl 0)] ∧ u.cf.estat = s.cf.estat ∧ SameRegsBut [] s.cf u.cf ∧
     SameControl s.cf u.cf ∧ SameMemory s u ∧ SameUnits s u)) ∧
  (∀ (f : Frame) (at_ cyc : Nat) (m : BitVec 32), f.flagsDue = [(at_, m)] →
    (f.takeFlags cyc).estat = (if at_ ≤ cyc then f.estat ||| m else f.estat) ∧
    (f.takeFlags cyc).flagsDue = (if at_ ≤ cyc then [] else [(at_, m)]))

/-- R180, R281, R282: special operands of the float operations: every NaN result is 0x7FC00000; IV for a signalling
NaN, 0 · ∞ and ∞ − ∞; −0 below +0 for the minimum and the maximum, equal in a comparison. R181, R182: a positive value
num / den rounded to an integer by each mode: the nearest one, ties to even; toward zero; up; down; stochastically. It
is inexact when it differs from the value. R180 to R185, R280, R284: sum, product, multiply-add, and the conversions to a
float, of finite operands are the exact value rounded once to FP32 or F19, with the flags of that rounding; the zeros' signs are
those of IEEE 754; how infinite operands act. R195, R198: what the conversions of the plane forms round. R283: the reciprocal
is the exact quotient rounded once; the root and its reciprocal, under RNE and toward zero, are the FP32 values beside the real
root, as their squares show; the powers, logarithms, sines and cosines whose exact value is a float are that float. -/
def Obligations.FloatSpecials : Prop :=
  (∀ (f19 : Bool) (m : Rnd) (a b : BitVec 32) (r : Nat) (c : FCond),
    let iv (x : Bool) : BitVec 32 := if x then 0x20 else 0
    let nan : FRes := (0x7FC00000, iv (f32SNaN a || f32SNaN b))
    let inf : BitVec 32 := 0x7F800000
    let ninf : BitVec 32 := 0xFF800000
    (f32NaN a = true ∨ f32NaN b = true →
      fAdd f19 m a b r = nan ∧ fMul f19 m a b r = nan ∧ fMinMax false a b = nan ∧ fMinMax true a b = nan ∧
      (fCompare c a b).1 = decide (c = .ne ∨ c = .un) ∧
      (fCompare c a b).2 = iv (f32SNaN a || f32SNaN b || decide (c = .lt ∨ c = .le ∨ c = .gt ∨ c = .ge))) ∧
    (f32NaN a = true → ∀ fn : SfuFn, sfu f19 m fn a r = (0x7FC00000, iv (f32SNaN a))) ∧
    fAdd f19 m inf ninf r = (0x7FC00000, 0x20) ∧ fMul f19 m inf 0 r = (0x7FC00000, 0x20) ∧
    fMul f19 m 0x80000000 ninf r = (0x7FC00000, 0x20) ∧
    fMinMax false 0 0x80000000 = (0x80000000, 0) ∧ fMinMax true 0x80000000 0 = (0, 0) ∧
    fCompare .eq 0 0x80000000 = (true, 0) ∧ fCompare .lt 0x80000000 0 = (false, 0) ∧
    sfu f19 m .rcp 0 r = (inf, 0x40) ∧ sfu f19 m .rcp 0x80000000 r = (ninf, 0x40) ∧
    sfu f19 m .rsq 0x80000000 r = (ninf, 0x40) ∧ sfu f19 m .sqrt 0x80000000 r = (0x80000000, 0) ∧
    sfu f19 m .sqrt 0xBF800000 r = (0x7FC00000, 0x20) ∧ sfu f19 m .log2 0 r = (ninf, 0x40) ∧
    sfu f19 m .exp2 ninf r = (0, 0) ∧ sfu f19 m .sinpi inf r = (0x7FC00000, 0x20) ∧
    sfu f19 m .tanh ninf r = (0xBF800000, 0) ∧
    fRead true 0x7F800001 = inf) ∧
  (∀ (neg : Bool) (num den r : Nat), 0 < den →
    let q := num / den
    let x (m : Rnd) : Nat := (roundInt m neg num den r).1
    (∀ m : Rnd, (roundInt m neg num den r).2 = decide (num % den ≠ 0)) ∧ (∀ m : Rnd, num % den = 0 → x m = q) ∧
    (∀ m : Rnd, x m = q ∨ x m = q + 1) ∧
    2 * (x .rne * den : Int) ≤ 2 * num + den ∧ 2 * (num : Int) ≤ 2 * (x .rne * den) + den ∧
    (2 * (x .rne * den : Int) = 2 * num + den ∨ 2 * (num : Int) = 2 * (x .rne * den) + den → x .rne % 2 = 0) ∧
    x .rz = q ∧
    (num % den ≠ 0 → x .ru = (if neg then q else q + 1) ∧ x .rd = (if neg then q + 1 else q)) ∧
    x .rs = (if r < 2 ^ 24 * (num % den) / den then q + 1 else q)) ∧
  (∀ (f19 : Bool) (m : Rnd) (np nc : Bool) (a b c : BitVec 32) (r : Nat),
    let sgn (x : BitVec 32) : Bool := x.getLsbD 31
    let zero (x y : Bool) : Bool := if x = y then x else decide (m = .rd)
    let ns := (sgn a != sgn b) != np
    let cs := sgn c != nc
    let inf (n : Bool) : BitVec 32 := if n then 0xFF800000 else 0x7F800000
    let neg1 (b : Bool) (x : Int) : Int := if b then -x else x
    (f32Fin a = true → f32Fin b = true →
      RoundedInt f19 m (zero (sgn a) (sgn b)) (f32Int a + f32Int b) 149 r (fAdd f19 m a b r) ∧
      RoundedInt f19 m (sgn a != sgn b) (f32Int a * f32Int b) 298 r (fMul f19 m a b r) ∧
      (f32Fin c = true →
        RoundedInt f19 m (zero ns cs) (neg1 np (f32Int a * f32Int b) + neg1 nc (f32Int c) * 2 ^ 149) 298 r
          (fMulAdd f19 m np nc a b c r)) ∧
      (f32Inf c = true → fMulAdd f19 m np nc a b c r = (inf cs, 0))) ∧
    (f32Inf a = true → f32Fin b = true → fAdd f19 m a b r = (a, 0) ∧ fAdd f19 m b a r = (a, 0) ∧
      (f32Mag b ≠ 0 → fMul f19 m a b r = (inf (sgn a != sgn b), 0) ∧ fMul f19 m b a r = (inf (sgn a != sgn b), 0) ∧
        (f32Fin c = true ∨ (f32Inf c = true ∧ cs = ns) → fMulAdd f19 m np nc a b c r = (inf ns, 0)) ∧
        (f32Inf c = true → cs ≠ ns → fMulAdd f19 m np nc a b c r = (0x7FC00000, 0x20))) ∧
      (f32Mag b = 0 → fMulAdd f19 m np nc a b c r = (0x7FC00000, 0x20))) ∧
    (f32NaN a = true ∨ f32NaN b = true ∨ f32NaN c = true → (fMulAdd f19 m np nc a b c r).1 = 0x7FC00000) ∧
    (∀ x : Int, RoundedInt f19 m false x 0 r (intToF f19 m x r)) ∧
    (f32Fin a = true → RoundedInt f19 m (sgn a) (f32Int a) 149 r (fToF f19 m a r)) ∧
    (∀ x e : Int, (0 ≤ e → RoundedInt false .rne false (x * 2 ^ e.toNat) 0 0 (scaleToF x e)) ∧
      (e < 0 → RoundedInt false .rne false x (-e).toNat 0 (scaleToF x e)) ∧
      (rneAt x e).1.natAbs = (if 0 ≤ e then roundInt .rne false x.natAbs (2 ^ 149 * 2 ^ e.toNat) 0
        else roundInt .rne false (x.natAbs * 2 ^ (-e).toNat) (2 ^ 149) 0).1 ∧
      (0 ≤ x → 0 ≤ (rneAt x e).1) ∧ (x ≤ 0 → (rneAt x e).1 ≤ 0))) ∧
  (∀ (f19 : Bool) (m : Rnd) (a : BitVec 32) (r : Nat), f32Fin a = true →
    let g := f32Mag a
    let one (n : Bool) : FRes := (if n then 0xBF800000 else 0x3F800000, 0)
    let near (y : FRes) (sq below : Nat → Bool) (exact : Bool) : Prop :=
      y.1.getLsbD 31 = false ∧ y.2 = (if exact then 0 else 0x200) ∧
      (m = .rz → below (2 * f32Mag y.1) = true ∧ below (2 * f32Mag (y.1 + 1)) = false) ∧
      (m = .rne → below (f32Mag (y.1 - 1) + f32Mag y.1) = true ∧ sq (f32Mag y.1 + f32Mag (y.1 + 1)) = true)
    (g ≠ 0 → Rounded f19 m (f32Neg a) (2 ^ 149) g r (sfu f19 m .rcp a r)) ∧
    (g ≠ 0 → f32Neg a = false →
      let s := sfu false m .sqrt a r
      let t := sfu false m .rsq a r
      near s (fun z => decide (4 * g * 2 ^ 149 ≤ z * z)) (fun z => decide (z * z ≤ 4 * g * 2 ^ 149))
        (f32Mag s.1 * f32Mag s.1 == g * 2 ^ 149) ∧
      near t (fun z => decide (4 * 2 ^ 447 ≤ z * z * g)) (fun z => decide (z * z * g ≤ 4 * 2 ^ 447))
        (f32Mag t.1 * f32Mag t.1 * g == 2 ^ 447)) ∧
    (∀ n : Int, f32Int a = n * 2 ^ 149 → -126 ≤ n → n ≤ 127 →
      sfu f19 m .exp2 a r = (BitVec.ofNat 32 ((n + 127).toNat * 2 ^ 23), 0)) ∧
    (∀ k : Nat, f32Neg a = false → g = 2 ^ k → let y := sfu f19 m .log2 a r
      f32Fin y.1 = true ∧ f32Int y.1 = ((k : Int) - 149) * 2 ^ 149 ∧ y.2 = 0) ∧
    (g % 2 ^ 149 = 0 → sfu f19 m .sinpi a r = (if f32Neg a then 0x80000000 else 0, 0)) ∧
    (g % 2 ^ 150 = 2 ^ 148 → sfu f19 m .sinpi a r = one (f32Neg a)) ∧
    (g % 2 ^ 150 = 3 * 2 ^ 148 → sfu f19 m .sinpi a r = one (!f32Neg a)) ∧
    (g % 2 ^ 150 = 0 → sfu f19 m .cospi a r = one false) ∧ (g % 2 ^ 150 = 2 ^ 149 → sfu f19 m .cospi a r = one true) ∧
    (g % 2 ^ 149 = 2 ^ 148 → sfu f19 m .cospi a r = (0, 0)))

/-- R185, R284: what VCVT makes of one element, and where it puts it: source lane, destination lane, lanes that keep
their value, and the draw. -/
def Obligations.VectorConvert : Prop :=
  (∀ (m : Rnd) (su du sat : Bool) (x r : Nat) (dst src : LaneType),
    let v : Int := if su then x else sInt src.bits x
    let lo : Int := if du then 0 else -2 ^ (dst.bits - 1)
    let hi : Int := if du then 2 ^ dst.bits - 1 else 2 ^ (dst.bits - 1) - 1
    let y := convElem dst src m su du sat x r
    let f := fRead (src == .f19) (BitVec.ofNat 32 x)
    (src.isInt = true → dst.isInt = true → sat = false → (y.1 : Int) = v % 2 ^ dst.bits ∧ y.2 = 0) ∧
    (src.isInt = true → dst.isInt = true → sat = true →
      (y.1 : Int) = max lo (min hi v) % 2 ^ dst.bits ∧ y.2 = if lo ≤ v ∧ v ≤ hi then 0 else 0x400) ∧
    (src.isInt = true → dst.isFloat = true →
      y = ((intToF (dst == .f19) m v r).1.toNat, (intToF (dst == .f19) m v r).2)) ∧
    (src.isFloat = true → dst.isFloat = true →
      y = ((fToF (dst == .f19) m f r).1.toNat, (fToF (dst == .f19) m f r).2)) ∧
    (src.isFloat = true → dst.isInt = true →
      let k := (roundInt m (f32Neg f) (f32Mag f) (2 ^ 149) r).1
      let w : Int := if f32Neg f then -k else k
      (f32NaN f = true → y = (0, 0x20)) ∧
      (f32Inf f = true → (y.1 : Int) = (if f32Neg f then lo else hi) % 2 ^ dst.bits ∧ y.2 = 0x20) ∧
      (f32Fin f = true → lo ≤ w → w ≤ hi →
        (y.1 : Int) = w % 2 ^ dst.bits ∧ y.2 = if f32Mag f % 2 ^ 149 = 0 then 0 else 0x200) ∧
      (f32Fin f = true → (w < lo ∨ hi < w) → (y.1 : Int) = max lo (min hi w) % 2 ^ dst.bits ∧ y.2 = 0x20))) ∧
  (∀ (s : State) (dst src : LaneType) (m : Rnd) (su du sat : Bool) (part : BitVec 2) (vd va : BitVec 5) (gp : BitVec 4),
    (Instr.vcvt dst src m su du sat part vd va gp).wf = true →
    let n := dst.bits
    let cnt := Nat.min dst.lanes src.lanes
    let base := part.toNat * cnt
    let wide : Bool := decide (n < src.bits)
    let hit (k : Nat) : Bool := !wide || (decide (base ≤ k) && decide (k < base + cnt))
    let j (k : Nat) : Nat := if wide then k - base else k
    let from_ (k : Nat) : Nat := if src.bits < n then base + j k else j k
    let y (k : Nat) : Nat × BitVec 32 :=
      if hit k then convElem dst src m su du sat (lane src.bits (s.pv va) (from_ k)) (drawAt s.block (j k))
      else (lane n (s.pv vd) k, 0)
    VRes s (.vcvt dst src m su du sat part vd va gp) n vd gp 1
      (fun t => (t.flags (activeFlags n (s.pp gp) (fun k => (y k).2))).drawIf m) (fun k => ((y k).1 : Int)))

/-- R188, R271, R285 to R287: VDEC and VENC under a valid descriptor with the group inside the register; ILLEGAL with
c.eval the tail on a Geyser core or for a group outside it, and with the offset for a bad descriptor. R187 to R190: a
valid descriptor, and the value of a code: its table entry, negated by the sign of a sign-magnitude code, scaled by
the block's exponent; a NaN entry and a block marked 0xFF give the canonical NaN. R191, R192: the code of a lane: NANC with IV in a block marked
0xFF or for a NaN; where the entries of the range are finite and rise, the code of the nearest entry, ties to the even index,
with NX where it is not the value, to half a step beyond the ends; farther out the end's code with SATC, or NANC with OF. -/
def Obligations.VectorCodes : Prop :=
  (∀ (s : State) (f19 b : Bool) (g : BitVec 5) (x : BitVec 4) (vd va vb vc : BitVec 5) (gp : BitVec 4),
    let dec : Instr := .vdec b g x vd va vc gp
    let enc : Instr := .venc f19 b g x vd va vb vc
    let off := (if b then s.cur.pre.fmtb else s.cur.pre.fmta).toNat
    let c := s.core s.curCore
    let hi := (off + 8) % 2 ^ 17
    let parsed := parseDesc (s.poolRead s.curCore (s.reduce s.curCore off) 8) (s.poolRead s.curCore (s.reduce s.curCore hi) 8)
    let there : Prop := off % 8 = 0 ∧ off < 2 ^ 17 ∧ s.inGap s.curCore off = false ∧ s.inGap s.curCore hi = false
    let stops (i : Instr) (v : Word) : Prop := exec i s = .next (s.trap { cause := 0x01, eval := v })
    let scale := lane 8 (s.pv vc) x.toNat
    (s.onGeyser = true → stops dec dec.tail ∧ stops enc enc.tail) ∧
    (s.onGeyser = false → (off % 8 ≠ 0 ∨ (off < 2 ^ 17 ∧ (s.inGap s.curCore off = true ∨ s.inGap s.curCore hi = true)) ∨
        (there ∧ parsed = none)) → stops dec (natWord off) ∧ stops enc (natWord off)) ∧
    (∀ d : Desc, s.onGeyser = false → there → parsed = some d → 128 / d.w ≤ 4 * g.toNat + 3 →
      stops dec dec.tail ∧ stops enc enc.tail) ∧
    (∀ d : Desc, s.onGeyser = false → there → parsed = some d → 4 * g.toNat + 3 < 128 / d.w →
      let r (k : Nat) := codeDecode c d (lane d.w (s.pv va) (4 * g.toNat + k)) scale
      let e (k : Nat) := codeEncode c d (fRead f19 (lane32 (s.pv va) k)) scale s.draw.1
      VRes s dec 32 vd gp 1 (fun t => t.flags (activeFlags 32 (s.pp gp) (fun k => (r k).2))) (fun k => ((r k).1.toNat : Int)) ∧
      ∃ v : VWord, exec enc s = .next ((s.draw.2.setV vd v 2).flags ((e 0).2 ||| (e 1).2 ||| (e 2).2 ||| (e 3).2) 2) ∧
        ∀ p : Nat, p < 128 / d.w → lane d.w v p =
          if 4 * g.toNat ≤ p ∧ p < 4 * g.toNat + 4 then (e (p - 4 * g.toNat)).1 % 2 ^ d.w else lane d.w (s.pv vb) p)) ∧
  (∀ (c : Core) (d0 d1 : Word) (d : Desc) (code x : Nat), parseDesc d0 d1 = some d →
    let m := if d.sgn then code % 2 ^ (d.w - 1) else code % 2 ^ d.w
    let neg := d.sgn && code.testBit (d.w - 1)
    let v := c.dtabAt (d.base + m) &&& 0xFFFFE000
    let y := if neg then v ^^^ 0x80000000 else v
    (d.w = 1 ∨ d.w = 2 ∨ d.w = 4 ∨ d.w = 8) ∧ (d.sgn = true → 2 ≤ d.w) ∧ d.base + d.n ≤ 256 ∧
    d.n = (if d.sgn then 2 ^ (d.w - 1) else 2 ^ d.w) ∧ d.elo ≤ d.ehi ∧ d.ehi < 256 ∧ d.nanc < 2 ^ d.w ∧
    (f32NaN v = true → codeDecode c d code x = (0x7FC00000, if v.getLsbD 22 then 0 else 0x20)) ∧
    (f32NaN v = false → d.blk = false → codeDecode c d code x = (y, 0)) ∧
    (f32NaN v = false → d.blk = true → x = 0xFF → codeDecode c d code x = (0x7FC00000, 0)) ∧
    (f32Inf v = true → d.blk = true → x ≠ 0xFF → codeDecode c d code x = (y, 0)) ∧
    (f32Fin v = true → d.blk = true → x ≠ 0xFF →
      codeDecode c d code x = packUnits true .rne (f32Neg y) (f32Int y * 2 ^ x) 276 0)) ∧
  (∀ (c : Core) (d0 d1 free : Word) (d : Desc) (a : BitVec 32) (x : Nat), parseDesc d0 d1 = some d → x < 256 →
    let neg := d.sgn && a.getLsbD 31
    let sign := if neg then 2 ^ (d.w - 1) else 0
    let y : Int := f32Int a * 2 ^ (if d.blk then 255 - x else 128)
    let z := if neg then -y else y
    let entry (p : Nat) : BitVec 32 := c.dtabAt (c.orderAt p).toNat &&& 0xFFFFE000
    let v (p : Nat) : Int := f32Int (entry p) * 2 ^ 128
    let code (p : Nat) : Nat := encIndex c d p ||| sign
    let index (p : Nat) : Nat := ((c.orderAt p).toNat + 256 - d.base) % d.n
    let dist (p : Nat) : Nat := (z - v p).natAbs
    let out (p : Nat) : Nat × BitVec 32 := if d.sat then (code p, 0x400) else (d.nanc ||| sign, 0x80)
    let r := codeEncode c d a x free
    (d.blk = true → x = 0xFF → r = (d.nanc, 0x20)) ∧
    (¬(d.blk = true ∧ x = 0xFF) →
      (∀ p : Nat, encIndex c d p = index p) ∧
      (f32NaN a = true → r = (d.nanc ||| sign, 0x20)) ∧
      (f32Fin a = true → d.elo < d.ehi → (∀ p : Nat, d.elo ≤ p → p ≤ d.ehi → f32Fin (entry p) = true) →
        (∀ p : Nat, d.elo ≤ p → p < d.ehi → v p < v (p + 1)) →
        (v d.elo ≤ z → z ≤ v d.ehi → ∃ p : Nat, d.elo ≤ p ∧ p ≤ d.ehi ∧ r = (code p, if v p = z then 0 else 0x200) ∧
          ∀ j : Nat, d.elo ≤ j → j ≤ d.ehi → dist p ≤ dist j ∧
            (dist p = dist j → j < p → index j % 2 = 1) ∧ (dist p = dist j → p < j → index p % 2 = 0)) ∧
        (z < v d.elo → r = if 3 * v d.elo - v (d.elo + 1) < 2 * z then (code d.elo, 0x200) else out d.elo) ∧
        (v d.ehi < z → r = if 2 * z < 3 * v d.ehi - v (d.ehi - 1) then (code d.ehi, 0x200) else out d.ehi))))

/-- R289 to R295: the modes of VPLANE and VUNPL, lane by lane; align and val raise ILLEGAL with c.eval the header
where it is not a well-formed one of their classes. R198, R296: VQUANT rounds two FP32 lanes to the fixed point of its
scale byte, clamped, and back; a NaN or an infinity gives 0 with IV; the other lanes of the inverse direction come
from vb. The model's choice (log entry 58): VQUANT forward sets IV and SATC and no NX. R60, R289 to R291, R295: what the scan
keeps of a lane; the header that fix makes of the scan state; the byte that align makes of a lane; the value that val makes of
an element. -/
def Obligations.VectorPlanes : Prop :=
  (∀ (s : State) (f19 : Bool) (m : Rnd) (w : BitVec 5) (q r : BitVec 2) (g : BitVec 3) (h : Bool) (kind : ByteKind)
    (i16 : Bool) (vd va vb vc : BitVec 5),
    let a (k : Nat) := fRead f19 (lane32 (s.pv va) k)
    let hd := (s.pv vc).toNat % 2 ^ 64
    let st := [a 0, a 1, a 2, a 3].foldl scanLane (lane32 (s.pv vc) 0, lane32 (s.pv vc) 1, lane32 (s.pv vc) 2)
    let byte (e : Nat) : Nat := lane 8 (s.pv (if e < 16 then va else if e < 32 then vb else vc)) (e % 16)
    let n := if i16 then 16 else 8
    let lo := 8 * h.toNat + 2 * r.toNat
    let e (k : Nat) : Nat := (if i16 then 8 else 16) * g.toNat + k
    let al (k : Nat) := alignLane hd kind (a k)
    let un (k : Nat) := unplLane hd (lane n (s.pv va) (4 * q.toNat + k)) (lane n (s.pv vb) (4 * q.toNat + k))
    (∃ v : VWord, exec (.vplaneScan f19 m vd va vc) s =
        .next ((s.setV vd v 2).flags (if (List.range 4).any (fun k => f32SNaN (a k)) then 0x20 else 0) 2) ∧
      lane32 v 0 = st.1 ∧ lane32 v 1 = st.2.1 ∧ lane32 v 2 = st.2.2 ∧ lane32 v 3 = 0) ∧
    exec (.vplaneFix m w vd va) s = .next (s.setV vd (BitVec.ofNat 128 (planeFix (s.pv va) w.toNat)) 2) ∧
    (hdrOk hd = true → hCls hd = 1 →
      VWhole s (.vplaneAlign f19 m q kind vd va vb vc) 8 vd ((al 0).2 ||| (al 1).2 ||| (al 2).2 ||| (al 3).2)
        (fun k => if k / 4 = q.toNat then ((al (k % 4)).1 : Int) else lane 8 (s.pv vb) k)) ∧
    (hdrOk hd = false ∨ hCls hd ≠ 1 →
      exec (.vplaneAlign f19 m q kind vd va vb vc) s = .next (s.trap { cause := 0x01, eval := natWord hd })) ∧
    (∃ v : VWord, exec (.vplaneTr m q vd va vb vc) s = .next (s.setV vd v 2) ∧
      ∀ k : Nat, k < 64 → v.getLsbD k = (decide (k < 48) && (byte k).testBit (2 * q.toNat)) ∧
        v.getLsbD (64 + k) = (decide (k < 48) && (byte k).testBit (2 * q.toNat + 1))) ∧
    (∃ v : VWord, exec (.vunplGather i16 g r h vd va vb) s = .next (s.setV vd v 2) ∧
      ((Instr.vunplGather i16 g r h vd va vb).wf = true → ∀ k : Nat, k < 128 / n → ∀ i : Nat, i < n →
        (lane n v k).testBit i =
          if i = lo then (s.pv va).getLsbD (e k) else if i = lo + 1 then (s.pv va).getLsbD (64 + e k)
          else (lane n (s.pv vb) k).testBit i)) ∧
    (hdrOk hd = true →
      VWhole s (.vunplVal i16 q vd va vb vc) 32 vd
        ((un 0).2 ||| (un 1).2 ||| (un 2).2 ||| (un 3).2 ||| (if hd.testBit 16 then 0x20 else 0))
        (fun k => ((un k).1.toNat : Int))) ∧
    (hdrOk hd = false →
      exec (.vunplVal i16 q vd va vb vc) s = .next (s.trap { cause := 0x01, eval := natWord hd }))) ∧
  (∀ (s : State) (half : Bool) (h : BitVec 5) (vd va vb vc : BitVec 5) (gp : BitVec 4),
    let e := (s.pv vc).toNat % 256
    let x (j : Nat) : BitVec 32 := lane32 (s.pv va) (2 * half.toNat + j)
    let y (j : Nat) : Int := (rneAt (f32Int (x j)) ((e : Int) - 127 - 62 + h.toNat)).1
    let c (j : Nat) : Int := max (-(2 ^ 63 - 1)) (min (2 ^ 63 - 1) (y j))
    let fl (j : Nat) : BitVec 32 := if f32Fin (x j) then (if c j = y j then 0 else 0x400) else 0x20
    let back (k : Nat) := scaleToF (sInt 64 (lane 64 (s.pv va) (k % 2))) ((e : Int) - 127 - 62 + h.toNat)
    VRes s (.vquant half h vd va vc gp) 64 vd gp 1 (fun t => t.flags (activeFlags 64 (s.pp gp) fl))
      (fun j => if f32Fin (x j) then c j else 0) ∧
    ∃ v : VWord, exec (.vquantInv half h vd va vb vc gp) s =
        .next ((s.setV vd v).flags (activeFlags 32 (s.pp gp)
          (fun k => if k / 2 = half.toNat then (back k).2 else 0))) ∧
      ∀ k : Nat, k < 4 → lane 32 v k =
        if k / 2 = half.toNat then (if pbit 32 (s.pp gp) k then (back k).1.toNat else lane 32 (s.pv vd) k)
        else lane 32 (s.pv vb) k) ∧
  (∀ (hi lo fl x : BitVec 32), f32Fin hi = true → f32Fin lo = true →
    let t := scanLane (hi, lo, fl) x
    (f32NaN x = true → t = (hi, lo, fl ||| 1)) ∧
    (f32Inf x = true → t = (hi, lo, fl ||| if x.getLsbD 31 then 4 else 2)) ∧
    (f32Fin x = true → t = (if f32Int hi < f32Int x then x else hi, if f32Int x < f32Int lo then x else lo, fl))) ∧
  (∀ (v : VWord) (w : Nat), 4 ≤ w → w ≤ 16 → f32Fin (lane32 v 0) = true → f32Fin (lane32 v 1) = true →
    f32Int (lane32 v 1) ≤ f32Int (lane32 v 0) →
    let top : Int := 2 ^ (w - 1) - 1
    let h := planeFix v w
    let f := lane32 v 2
    let at_ (e : Nat) (x : BitVec 32) : Int := (rneAt (f32Int x) ((e : Int) - 127 - ((w : Int) - 2))).1
    let e := h % 256
    let big := decide (top < at_ e (lane32 v 0))
    let low := decide (at_ e (lane32 v 1) < -top - 1)
    let bit (i : Nat) : Bool := h.testBit i
    h / 2 ^ 8 % 256 = w ∧ bit 16 = f.getLsbD 0 ∧ bit 17 = (f.getLsbD 1 || big) ∧ bit 18 = (f.getLsbD 2 || low) ∧
    bit 19 = (at_ e (lane32 v 0) == 0 && at_ e (lane32 v 1) == 0 && !(bit 16 || bit 17 || bit 18)) ∧ bit 20 = true ∧
    h / 2 ^ 21 % 8 = 1 ∧ bit 24 = (bit 17 || bit 18) ∧ h < 2 ^ 25 ∧ (big = true ∨ low = true → e = 255) ∧
    (f32Mag (lane32 v 0) = 0 → f32Mag (lane32 v 1) = 0 → e = 0) ∧
    (∀ n : Nat, 2 ^ n ≤ Nat.max (f32Mag (lane32 v 0)) (f32Mag (lane32 v 1)) →
      Nat.max (f32Mag (lane32 v 0)) (f32Mag (lane32 v 1)) < 2 ^ (n + 1) →
      n - 22 ≤ e ∧ ∀ k : Nat, n - 22 ≤ k → k < e →
        top < at_ k (lane32 v 0) ∨ at_ k (lane32 v 1) < -top - 1)) ∧
  (∀ (h : Nat) (x : BitVec 32), hdrOk h = true → hCls h = 1 →
    let w : Nat := h / 2 ^ 8 % 256
    let y := rneAt (f32Int x) (((h % 256 : Nat) : Int) - 127 - ((w : Int) - 2))
    let fin := f32Fin x
    let out := fin && !(decide (-(2 ^ (w - 1) : Int) ≤ y.1) && decide (y.1 ≤ 2 ^ (w - 1) - 1))
    let sv : Int := if fin = false ∨ out = true then 0 else y.1
    (alignLane h .lo x).1 = (sv % 256).toNat ∧ (alignLane h .hi x).1 = (sv / 256 % 256).toNat ∧
    (alignLane h .spec x).1 = (fin && !out && sv == 0).toNat + 2 * (!fin && !f32NaN x || out).toNat +
      4 * ((!fin && !f32NaN x || out) && x.getLsbD 31).toNat ∧
    (∀ kind : ByteKind, (alignLane h kind x).2 =
      (if out = true ∨ (fin = true ∧ y.2 = true) then 0x200 else 0) ||| (if out then 0x80 else 0) |||
        (if fin = true ∧ f32Mag x ≠ 0 ∧ y.1 = 0 then 0x100 else 0) ||| (if f32SNaN x then 0x20 else 0))) ∧
  (∀ (h x sp : Nat), hdrOk h = true →
    let w : Nat := h / 2 ^ 8 % 256
    let u : Nat := x % 2 ^ w
    let sv : Int := if h.testBit 20 = true ∧ 2 ^ (w - 1) ≤ u then (u : Int) - 2 ^ w else u
    let spec := h.testBit 24
    let cls := h / 2 ^ 21 % 8
    (cls = 2 → unplLane h x sp = (if x % 2 = 1 then 0x3F800000 else 0, 0)) ∧
    (cls = 0 → RoundedInt false .rne false sv 0 0 (unplLane h x sp)) ∧
    (cls = 1 → spec = true → sp.testBit 1 = true → unplLane h x sp = (if sp.testBit 2 then 0xFF800000 else 0x7F800000, 0)) ∧
    (cls = 1 → spec = true → sp.testBit 1 = false → sv = 0 → sp.testBit 0 = false → unplLane h x sp = (0x7FC00000, 0)) ∧
    (cls = 1 → (spec = false ∨ (sp.testBit 1 = false ∧ (sv ≠ 0 ∨ sp.testBit 0 = true))) →
      unplLane h x sp = scaleToF sv (((h % 256 : Nat) : Int) - 127 - ((w : Int) - 2))))

/-! ## Tasks, futures and messages -/

/-- R139, R143, R332 to R340, R356: the SPAWN family. A FENCE before it holds each form. Each form sends its request after the
release to the Lamplighter that carries it out: SPAWN to the one it names, SPAWNI and SPAWNR to their own, GROW to the root's,
in the cluster of logical core 0. A plain form goes on with an
outstanding result; a trapping form waits for its answer, completes with it, or takes the trap of a refusal. R26: a SPAWN
to a cluster without a core of the partition is answered null with XPART. R337 to R340, R359: at the Lamplighter SPAWNI
and SPAWNR allocate or are refused; GROW of a launch that has not completed raises its count and answers the new one;
past 2^32 or after its end it answers the count as it is; an operand with a high half that is not zero raises ILLEGAL. -/
def Obligations.Spawning : Prop :=
  (∀ (s : State) (rd ra rb : BitVec 6) (pd : BitVec 4) (prio : BitVec 2) (w : Bool), s.cur.fk < 2 ^ 20 →
    let fk := s.cur.fk
    let k := s.curCore
    let own := 2 ^ 21 + k / 16
    let a := s.pg ra
    let b := s.pg rb
    let hd : Heritage := ⟨packFormats s.cur.pre, s.cf.lseq, s.cf.lane⟩
    let target : Nat × Nat := if b = 0 ∨ s.frameDet fk = true then (s.module.toNat, k / 16)
      else (b.toNat / 2 ^ 46 % 2 ^ 10, b.toNat / 2 ^ 36 % 2 ^ 10)
    let toff := a.toNat % 2 ^ 17 / 8 * 8
    let forms := [Instr.spawn rd ra rb pd true, .spawnr rd ra rb pd true, .spawni rd ra rb pd true prio w]
    let window : Prop := b = 0 ∨ b.toNat / 2 ^ 56 = 0xF3
    let goes (i : Instr) (dst : Nat) (bd : Nat → Body) : Prop := s.askHeld = false →
      ∃ (t : State) (o : Nat) (p : Packet), exec i s = .next t ∧ t.net = s.net ++ [p] ∧ p.dst = dst ∧ p.src = k ∧ p.body = bd o ∧
        (∀ x ∈ s.accIds fk, x ∈ p.after) ∧ Expects s t rd pd o
    let waits (i : Instr) (dst : Nat) (bd : Nat → Body) : Prop :=
      s.cf.reply = none → 6 ∉ s.cf.waits → s.fenceHolds .atomic = false →
      ∃ (t : State) (p : Packet), exec i s = .next t ∧ t.net = s.net ++ [p] ∧ p.dst = dst ∧ p.src = k ∧
        p.body = bd t.cf.asked ∧ (∀ x ∈ s.accIds fk, x ∈ p.after) ∧ Parks s t
    (b ≠ 0 → b.toNat / 2 ^ 56 ≠ 0xF3 → exec (.spawn rd ra rb pd w) s = .next (s.trap { cause := 0x04, eval := b })) ∧
    (window → target.1 = s.module.toNat → s.spawnReach target = true → target.2 < 1024 →
      goes (.spawn rd ra rb pd false) (2 ^ 21 + target.2) (fun o => .spawn (poolKey k toff) target.2 hd o false) ∧
      waits (.spawn rd ra rb pd true) (2 ^ 21 + target.2) (fun o => .spawn (poolKey k toff) target.2 hd o true) ∧
      (a.toNat % 8 ≠ 0 → s.askHeld = false →
        ∃ t : State, exec (.spawn rd ra rb pd false) s = .next t ∧ t.cf.estat.getLsbD 1 = true)) ∧
    (window → s.cf.reply = none → 6 ∉ s.cf.waits → s.fenceHolds .atomic = true →
      (∀ i ∈ forms ++ [Instr.spawn rd ra rb pd false, .spawnr rd ra rb pd false, .spawni rd ra rb pd false prio w],
        exec i s = .next s.retry) ∧ (a.toNat < 2 ^ 32 → exec (.grow rd ra pd) s = .next s.retry)) ∧
    (window → target.1 = s.module.toNat → s.spawnReach target = false → s.askHeld = false →
      ∃ (t : State) (o : Nat), exec (.spawn rd ra rb pd false) s = .next t ∧ Expects s t rd pd o ∧ t.futures = s.futures ∧
        Answered t ⟨frameEnd fk, fk, o⟩ (.value 0 false) true) ∧
    (goes (.spawni rd ra rb pd false prio w) own (fun o => .spawni a b prio w hd o false) ∧
      waits (.spawni rd ra rb pd true prio w) own (fun o => .spawni a b prio w hd o true) ∧
      goes (.spawnr rd ra rb pd false) own (fun o => .spawnr k toff (b.toNat % 2 ^ 17 / 8 * 8) hd o false) ∧
      waits (.spawnr rd ra rb pd true) own (fun o => .spawnr k toff (b.toNat % 2 ^ 17 / 8 * 8) hd o true)) ∧
    (2 ^ 32 ≤ a.toNat → exec (.grow rd ra pd) s = .next (s.trap { cause := 0x01, eval := a })) ∧
    (∀ e : BitVec 32, a.toNat < 2 ^ 32 → (s.part (s.frameTag fk).toNat).logical[0]? = some e →
      e.toNat / 2 ^ 14 % 2 ^ 10 = s.module.toNat →
      goes (.grow rd ra pd) (2 ^ 21 + e.toNat % 2 ^ 14 / 16) (fun o => .grow s.cf.lseq a.toNat o)) ∧
    (window →
      (∀ (v : Word) (x : Bool), s.cf.reply = some (.value v x) → ∀ i ∈ forms, Answers s i rd pd v x) ∧
      (∀ (c : BitVec 8) (e : Word), s.cf.reply = some (.trap c e) → ∀ i ∈ forms,
        ∃ (u : State) (v : Word), exec i s = .next (u.trap { cause := c, eval := v }) ∧ SameThread s u ∧
        (i = .spawn rd ra rb pd true → v = b) ∧ (i = .spawnr rd ra rb pd true → v = e) ∧
        (i = .spawni rd ra rb pd true prio w → v = 0)))) ∧
  (∀ (s : State) (p : Packet), Arrives s p → p.src < 2 ^ 23 →
    let q := p.dst - 2 ^ 21
    s.clusterOf q p.tag p.epoch = true →
    let runs (t : State) : Prop := exec (.spawnRecordRead p.id) s = .next t
    let refused (out : Nat) (trap : Bool) (c : BitVec 8) (e : Word) : Prop :=
      ∃ t : State, runs t ∧ t.futures = s.futures ∧
        Answered t ⟨p.src, p.sender, out⟩ (if trap then .trap c e else .value 0 false) false
    (∀ (entry arg : Word) (prio : BitVec 2) (hd : Heritage) (out : Nat) (trap : Bool),
      p.body = .spawni entry arg prio false hd out trap →
      (∀ key : Nat, s.plan q p.tag prio 1 true true = .ok [(key, false)] → targetOk entry = true →
        ∃ (t : State) (x : Machine.Task), runs t ∧ Allocated s t key p.tag ∧ x ∈ (t.cluster q).tasks ∧ x.entry = entry ∧
          x.args = [arg] ∧ x.prio = prio ∧ x.tag = p.tag ∧ x.fut = t.entryHandle key ∧ x.join = 0 ∧ x.lseq = hd.lseq ∧
          x.lane = hd.lane ∧ x.fmta = hd.formats.extractLsb' 0 21 ∧
          Answered t ⟨p.src, p.sender, out⟩ (.value (t.entryHandle key) true) false) ∧
      (∀ c : BitVec 8, s.plan q p.tag prio 1 true true = .error c → refused out trap c 0)) ∧
    (∀ (entry arg : Word) (prio : BitVec 2) (hd : Heritage) (out : Nat) (trap : Bool),
      p.body = .spawni entry arg prio true hd out trap →
      (∀ key : Nat, s.plan q p.tag prio 1 false true = .ok [(key, false)] →
        ∃ t : State, runs t ∧ Allocated s t key p.tag ∧ (t.future key).producer = .none ∧ t.clusters = s.clusters ∧
          Answered t ⟨p.src, p.sender, out⟩ (.value (t.entryHandle key) true) false) ∧
      (∀ c : BitVec 8, s.plan q p.tag prio 1 false true = .error c → refused out trap c 0)) ∧
    (∀ (k tmpl list : Nat) (hd : Heritage) (out : Nat) (trap : Bool), p.body = .spawnr k tmpl list hd out trap →
      let n := (s.ownDword k list).toNat
      let total := ((List.range n).map (recordCount s k list)).sum
      let tprio := BitVec.ofNat 2 ((s.ownDword k (tmpl + 56)).toNat / 2 ^ 42)
      (n = 0 ∨ 4096 < n → ∃ t : State, runs t ∧ t.futures = s.futures ∧
        Answered t ⟨p.src, p.sender, out⟩ (.value 0 false) false) ∧
      (n ≠ 0 → n ≤ 4096 → s.bad = [] →
        (∀ l : List (Nat × Bool), s.plan q p.tag tprio total true true = .ok l → (∀ x ∈ l, x.2 = false) →
          ∃ t : State, runs t ∧ Answered t ⟨p.src, p.sender, out⟩ (.value (natWord total) true) false) ∧
        (∀ c : BitVec 8, s.plan q p.tag tprio total true true = .error c → refused out trap c (natWord total)))) ∧
    (∀ (lseq n out : Nat) (l : Launch), p.body = .grow lseq n out → s.launch p.tag.toNat lseq = some l →
      (l.count + n < 2 ^ 32 → (l.next ≠ l.count ∨ l.live ≠ 0) →
        ∃ (t : State) (l' : Launch), runs t ∧ t.launch p.tag.toNat lseq = some l' ∧ l'.count = l.count + n ∧
          l'.next = l.next ∧ l'.live = l.live ∧
          Answered t ⟨p.src, p.sender, out⟩ (.value (natWord (l.count + n)) true) false) ∧
      (2 ^ 32 ≤ l.count + n ∨ (l.next = l.count ∧ l.live = 0) →
        ∃ t : State, runs t ∧ t.parts = s.parts ∧
          Answered t ⟨p.src, p.sender, out⟩ (.value (natWord l.count) false) false)))

/-- R330, R331, R341 to R345: TOUCH, TOUCHQ, RESOLVE, CANCEL and FDROP send their operation to the handle's port
engine and wait; with the answer and nothing pending they write their results, or take its trap; a TOUCH that joined
the waiters leaves its slot. A handle that names no future raises FUTSTALE, but in TOUCHQ, which gives 0. R139: an
outstanding FENCE that later accesses wait for holds all five at issue. An entry that was never allocated counts as another
owner's (DEDUCED, log entry 35: R330 speaks only of the owner tag). -/
def Obligations.FutureOperations : Prop :=
  ∀ (s : State) (rd ra rb : BitVec 6) (pd : BitVec 4) (c : Bool),
    let h := s.pg ra
    let ops := [(Instr.touch rd ra pd c, FutOp.touch c), (.touchq rd ra, .touchq), (.resolve ra rb pd, .resolve (s.pg rb)),
      (.cancel rd ra, .cancel), (.fdrop ra pd, .fdrop)]
    (handleOk h = decide (h.toNat % 2 ^ 16 = 0 ∧ 16 ≤ h.toNat / 2 ^ 16 % 2 ^ 16 ∧ h.toNat / 2 ^ 54 < 256)) ∧
    (handleOk h = true → handleModule h = s.module.toNat → s.cf.reply = none → 6 ∉ s.cf.waits → ∀ x ∈ ops,
      (s.fenceHolds .atomic = false →
        ∃ (t : State) (p : Packet), exec x.1 s = .next t ∧ t.net = s.net ++ [p] ∧ p.body = .future x.2 h t.cf.asked ∧
          p.dst = h.toNat / 2 ^ 44 % 2 ^ 10 * 16 + h.toNat / 2 ^ 32 % 2 ^ 12 % 16 ∧ Parks s t) ∧
      (s.fenceHolds .atomic = true →
        ∃ t : State, exec x.1 s = .next t ∧ t.net = s.net ∧ t.cf.pc = s.cur.bpc ∧ t.cur.stopped = true ∧ SameThread s t)) ∧
    (handleOk h = true → s.hasRoute (handleModule h) = true → s.cf.outs = [] →
      (∀ (v : Word) (b : Bool), s.cf.reply = some (.value v b) →
        Answers s (.touch rd ra pd c) rd pd v b ∧ Answers s (.touchq rd ra) rd 0 v b ∧
        Answers s (.resolve ra rb pd) 0 pd v b ∧ Answers s (.cancel rd ra) rd 0 v b ∧ Answers s (.fdrop ra pd) 0 pd v b) ∧
      (∀ (e : BitVec 8) (v : Word), s.cf.reply = some (.trap e v) → ∀ x ∈ ops,
        ∃ u : State, exec x.1 s = .next (u.trap { cause := e, eval := v }) ∧ SameThread s u) ∧
      (s.cf.reply = some .parked → s.onGeyser = false → s.cf.cancelDue = false → (∀ d ∈ s.cf.due, d.cause ≠ 0x0D) →
        ∀ sk : Nat, s.slotOf s.cur.fk = some sk →
        ∃ t : State, exec (.touch rd ra pd c) s = .next t ∧ t.cf.state = .touch ∧ (t.slot sk).frame = none ∧
          t.cf.pc = s.cur.bpc ∧ SameThread s t)) ∧
    (handleOk h = false →
      (∀ i ∈ [Instr.touch rd ra pd c, .resolve ra rb pd, .cancel rd ra, .fdrop ra pd],
        exec i s = .next (s.trap { cause := 0x07, eval := h })) ∧
      (s.cf.outs = [] → Answers s (.touchq rd ra) rd 0 0 false))

/-- R168 to R173, R330, R341 to R346: what a message on a future does at its entry, and its answer: a current handle
by the entry's state; a stale one FUTSTALE, or 0 for TOUCHQ; an entry of another owner is refused, to a producer too (R396). A
CANCEL whose producer's frame holds another task by now makes no request and answers 1 (log entry 109). An entry that leaves
PENDING wakes its waiters, those of its cluster at once and the others by a message to their own module and core. R173,
R176: with a producer's message the retirement is complete, and its decrement goes out with the state set. -/
def Obligations.FutureEntries : Prop :=
  ∀ (s : State) (p : Packet) (op : FutOp) (h : Word) (out : Nat), Arrives s p → p.body = .future op h out → p.src < 2 ^ 23 →
    s.bad = [] →
    let key := handleKey h
    let f := s.future key
    let owned : Prop := f.gen ≠ 0xF ∧ f.owner = p.tag ∧ p.epoch = (s.part p.tag.toNat).epoch ∧ p.epoch ≠ 0
    let current : Prop := owned ∧ handleDist f h = 0 ∧ f.state ≠ .free
    let user : Prop := (∃ c : Bool, op = .touch c) ∨ op = .touchq ∨ (∃ v : Word, op = .resolve v) ∨ op = .cancel ∨ op = .fdrop
    let becomes (e : Future) (r : Reply) (x : Bool) : Prop :=
      ∃ t : State, exec (.futureEvent p.id) s = .next t ∧ t.future key = e ∧ Answered t ⟨p.src, p.sender, out⟩ r x
    let wakes (t : State) (r : Reply) : Prop :=
      (∀ w ∈ f.waiters, w.end_ < 2 ^ 23 → (2 ^ 20 ≤ w.end_ ∨ w.end_ / 16 ≠ key / 4096) →
        ∃ y ∈ t.net, y.dst = w.end_ ∧ y.body = .wake w.frame w.out r) ∧
      (∀ w ∈ f.waiters, w.end_ < 2 ^ 20 → w.end_ / 16 = key / 4096 → (s.frame w.frame).asked = w.out →
        (t.frame w.frame).reply = some r)
    let left (st : FState) (v : Word) (r : Reply) : Prop :=
      ∃ t : State, exec (.futureEvent p.id) s = .next t ∧ (t.future key).state = (if f.dropped then .free else st) ∧
        (t.future key).value = v ∧ (t.future key).waiters = [] ∧ Answered t ⟨p.src, p.sender, out⟩ r false ∧
        wakes t (touchReply st v)
    let freed (r : Reply) : Prop :=
      ∃ t : State, exec (.futureEvent p.id) s = .next t ∧ (t.future key).state = .free ∧
        Answered t ⟨p.src, p.sender, out⟩ r false
    (user → ¬ owned → becomes f (.value 0 false) true) ∧
    (user → owned → (16 ≤ handleDist f h ∨ (handleDist f h = 0 ∧ f.state = .free)) →
      becomes f (if op = .touchq then .value 0 false else .trap 0x07 h) false) ∧
    (current → f.state = .pending →
      (∀ c : Bool, op = .touch c →
        becomes { f with waiters := f.waiters ++ [⟨p.src, p.sender, out⟩], dropped := f.dropped || c } .parked false) ∧
      (∀ v : Word, op = .resolve v → left .resolved v (.value 0 true)) ∧
      (op = .cancel → f.producer = .none → left .cancelled 0 (.value 1 true)) ∧
      (∀ fk : Nat, op = .cancel → f.producer = .frame fk →
        let holds : Prop := (s.frame fk).fut = s.mkHandle key f.gen ∧ (s.frame fk).state ≠ .free ∧ (s.frame fk).state ≠ .waitw
        ∃ t : State, exec (.futureEvent p.id) s = .next t ∧ (holds → (t.frame fk).cancelReq = true) ∧
          (¬holds → (t.frame fk).cancelReq = (s.frame fk).cancelReq) ∧ (t.future key).state = .pending ∧
          Answered t ⟨p.src, p.sender, out⟩ (.value 1 true) false) ∧
      (op = .fdrop → becomes { f with dropped := true } (.value 0 (!f.dropped)) false)) ∧
    (current → f.state ≠ .pending →
      (op = .touch false → becomes f (touchReply f.state f.value) false) ∧
      (op = .touch true → freed (touchReply f.state f.value)) ∧
      (∀ v : Word, op = .resolve v → becomes f (.value 0 false) false) ∧
      (op = .cancel → becomes f (.value 0 false) false) ∧
      (op = .fdrop → freed (.value 0 true))) ∧
    (current → op = .touchq → becomes f (.value (natWord (fstateCode f.state)) true) false) ∧
    touchReply .resolved f.value = .value f.value true ∧ touchReply .faulted f.value = .trap 0x06 f.value ∧
    touchReply .cancelled f.value = .value 0 false ∧
    (∀ (st : FState) (v : Word), (op = .retire v ∧ st = .resolved) ∨ (op = .fault v ∧ st = .faulted) ∨
        (op = .cancelled ∧ st = .cancelled ∧ v = 0) →
      (¬owned → ∃ t : State, exec (.futureEvent p.id) s = .next t ∧ t.futures = s.futures) ∧
      (owned → handleDist f h = 0 → f.state = .pending →
      ∃ t : State, exec (.futureEvent p.id) s = .next t ∧ (t.future key).state = (if f.dropped then .free else st) ∧
        (t.future key).value = v ∧ wakes t (touchReply st v) ∧ (∀ e ∈ t.hub.ends, e.id ≠ out) ∧
        (∀ e : TaskEnd, s.hub.ends.find? (fun e => e.id == out) = some e → e.join ≠ 0 →
          e.join.toNat / 2 ^ 46 % 2 ^ 10 = s.module.toNat →
          ∃ y ∈ t.net, y.body = .join e.join (fstateCode st) e.lane ∧
            y.dst = e.join.toNat / 2 ^ 36 % 2 ^ 10 * 16 + e.join.toNat / 2 ^ 32 % 16)))

/-- R156, R166, R173, R348 to R351: with nothing pending, RETIRE and WAITW end the task: its future takes g1 of before
the bundle, or is CANCELLED under a cancel request, its slot is released; a future of another cluster takes it from a
message, which the decrement awaits (R176); YIELD leaves the slot and queues the task again; WAITM answers the number of
mailbox entries, or releases the slot where there is none. With results pending all four wait. -/
def Obligations.TaskEnds : Prop :=
  ∀ (s : State) (rd : BitVec 6) (sk : Nat), s.cur.fk < 2 ^ 20 → s.slotOf s.cur.fk = some sk →
    (∀ j : Nat, (s.slot j).frame = some s.cur.fk → j = sk) →
    let f := s.cf
    let q := s.curCore / 16
    let key := handleKey f.fut
    let mine : Prop := handleModule f.fut = s.module.toNat ∧ handleCluster f.fut = q ∧ (s.future key).state = .pending ∧
      handleDist (s.future key) f.fut = 0 ∧ (s.future key).dropped = false
    let far : Prop := handleModule f.fut = s.module.toNat ∧ handleCluster f.fut ≠ q
    let tells (t : State) (op : FutOp) : Prop := ∃ e ∈ t.hub.ends, e.fut = f.fut ∧ e.join = f.join ∧ e.lane = f.lane ∧
      e.lseq = f.lseq ∧ ∃ p ∈ t.net, p.dst = s.handleEnd f.fut ∧ p.body = .future op f.fut e.id
    let ends (i : Instr) (st : TaskState) : Prop :=
      ∃ t : State, exec i s = .next t ∧ t.cf.state = st ∧ (t.slot sk).frame = none ∧ (t.slot sk).state = .free ∧
        t.cf.regions = [] ∧ (∀ e ∈ (t.core s.curCore).mail, e.frame ≠ s.cur.fk) ∧ SameMemory s t ∧
        (mine → f.cancelReq = false → (t.future key).state = .resolved ∧ (t.future key).value = s.pg 1) ∧
        (mine → f.cancelReq = true → (t.future key).state = .cancelled ∧ (t.future key).value = 0) ∧
        (far → tells t (if f.cancelReq then .cancelled else .retire (s.pg 1)))
    (f.outs = [] →
      ends .retire .free ∧ ends .waitw .waitw ∧
      (∃ (t : State) (x : Machine.Task), exec .yield s = .next t ∧ t.cf.state = .resumable ∧ (t.slot sk).frame = none ∧
        x ∈ (t.cluster q).tasks ∧ x.resume = some s.cur.fk ∧ x.prio = f.prio ∧ SameThread s t) ∧
      (s.mailCount s.cur.fk ≠ 0 → Answers s (.waitm rd) rd 0 (natWord (s.mailCount s.cur.fk)) false) ∧
      (s.mailCount s.cur.fk = 0 → f.cancelDue = false → (∀ d ∈ f.due, d.cause ≠ 0x0D) →
        ∃ t : State, exec (.waitm rd) s = .next t ∧ t.cf.state = .waitm ∧ (t.slot sk).frame = none ∧ t.cf.pc = s.cur.bpc ∧
          SameThread s t)) ∧
    (f.outs ≠ [] → ∀ i ∈ [Instr.retire, .waitw, .yield, .waitm rd],
      ∃ t : State, exec i s = .next t ∧ (t.slot s.cur.sk).state = .marker ∧ t.cf.pc = s.cur.bpc ∧ t.cf.state = f.state ∧ SameThread s t)

/-- R175, R176, R352 to R354: JOINI and SEND issue their messages with their checks; a child's decrement at its
record, and a message at a mailbox, with its answer. R171, R332, R336, R346: the Lamplighter reads a spawn record and
creates its task; an answer or a wake reaches the operation that asked for it, and one that nothing awaits any more is
dropped; the spill write of an allocation ends with the record written and the entry allocated, and the read of a spilled
record with its toucher woken. -/
def Obligations.JoinsAndMessages : Prop :=
  (∀ (s : State) (rd ra rb : BitVec 6) (prio : BitVec 2) (tag : BitVec 8) (p : Packet), s.cur.fk < 2 ^ 20 →
    let a := s.pg ra
    let b := s.pg rb
    let joini := Instr.joini rd ra rb prio
    let send := Instr.send ra rb tag false
    let m := a.toNat / 2 ^ 46 % 2 ^ 10
    -- JOINI
    (∀ t : TrapRec, coreDecode s s.curCore .gen a 8 = .error t → exec joini s = .next (s.trap t)) ∧
    (∀ d : Dec, coreDecode s s.curCore .gen a 8 = .ok d →
      (a.toNat % 8 ≠ 0 → exec joini s = .next (s.trap { cause := 0x01, eval := a })) ∧
      (a.toNat % 8 = 0 → 2 ^ 32 ≤ b.toNat → exec joini s = .next (s.trap { cause := 0x01, eval := b })) ∧
      (a.toNat % 8 = 0 → b.toNat < 2 ^ 32 → d.view = 0 → s.fenceHolds .atomic = false →
        ∃ (t : State) (o : Nat) (y : Packet), exec joini s = .next t ∧ t.net = s.net ++ [y] ∧ y.dst = s.curCore ∧
          y.body = .joini (b.setWidth 32) prio s.cf.lseq (natWord ((s.pcid s.curCore).toNat + d.off)) o ∧ Expects s t rd 0 o)) ∧
    -- SEND
    (taskAddress a = none → exec send s = .next (s.trap { cause := 0x04, eval := a })) ∧
    (taskAddress a ≠ none → s.fenceHolds .atomic = true → exec send s = .next s.retry) ∧
    (∀ fk : Nat, taskAddress a = some fk → m = s.module.toNat → s.fenceHolds .atomic = false →
      ∃ (t : State) (o : Nat) (y : Packet), exec send s = .next t ∧ t.net = s.net ++ [y] ∧ y.dst = frameEnd fk ∧
        y.body = .send fk [s.sendHeader tag, b, s.pg (rb + 1), 0] o ∧ SameThread s t ∧
        (∃ x : Outst, t.cf.outs = s.cf.outs ++ [x] ∧ x.id = o) ∧ ∀ x ∈ s.accIds s.cur.fk, x ∈ y.after) ∧
    -- the decrement
    (∀ (ptr : Word) (final : Nat) (lane : Option Nat), Arrives s p → p.body = .join ptr final lane → s.coreOf p.dst p.tag p.epoch = true →
      scratchByte s p.dst ptr (scratchOff ptr) = some (p.dst, scratchOff ptr % 2 ^ 17) → ptr.toNat % 8 = 0 →
      ptr.toNat / 2 ^ 56 = 0xF3 → ptr.toNat / 2 ^ 31 % 2 = 0 → s.inGap p.dst (scratchOff ptr % 2 ^ 17) = false →
      s.pool.wf = true → s.bad = [] →
      let off := s.reduce p.dst (scratchOff ptr % 2 ^ 17)
      let d := s.pool.readLE (poolKey p.dst off) 8
      let mark := if final = 3 then 2 ^ 34 else if final = 4 then 2 ^ 35 else 0
      ∃ t : State, exec (.joinDecrement p.id) s = .next t ∧
        t.pool.readLE (poolKey p.dst off) 8 =
          (if d % 2 ^ 32 = 0 then Nat.lor (Nat.lor d mark) (2 ^ 36) else Nat.lor d mark - 1)) ∧
    -- the message at its mailbox
    (∀ (fk : Nat) (ds : List Word) (out : Nat), Arrives s p → p.body = .send fk ds out → s.endOf p.dst p.tag p.epoch = true → fk < 2 ^ 20 → p.src < 2 ^ 23 →
      let responds (t : State) : Prop := ∃ y ∈ t.net, y.dst = p.src ∧ y.body = .response out 0 0 false false false false false default
      (s.canReceive fk = true → s.mailFull fk = false → (s.frame fk).waitMail = none →
        ∃ t : State, exec (.sendMessageArrival p.id) s = .next t ∧ responds t ∧
          (t.core (fk / 64)).mail = (s.core (fk / 64)).mail ++ [⟨fk, ds.take 3 ++ [natWord s.time]⟩] ∧
          ((s.frame fk).state = .waitm → (t.frame fk).state = .resumable)) ∧
      (s.canReceive fk = true → s.mailFull fk = true → p.sender < 2 ^ 20 →
        ∃ t : State, exec (.sendMessageArrival p.id) s = .next t ∧
          (t.core (p.sender / 64)).retryBuf = (s.core (p.sender / 64)).retryBuf ++ [p] ∧
          (t.core (fk / 64)).mail = (s.core (fk / 64)).mail) ∧
      (s.canReceive fk = false → ∃ t : State, exec (.sendMessageArrival p.id) s = .next t ∧ responds t ∧
        (t.core (fk / 64)).mail = (s.core (fk / 64)).mail))) ∧
  (∀ (s : State) (p : Packet),
    -- the spawn record
    (∀ (rec c : Nat) (hd : Heritage) (out : Nat) (trap : Bool) (key : Nat), Arrives s p →
      p.body = .spawn rec c hd out trap → p.src < 2 ^ 20 → s.clusterOf (p.dst - 2 ^ 21) p.tag p.epoch = true → s.bad = [] →
      let k := rec / 2 ^ 17
      let d (i : Nat) : Word := s.ownDword k (rec % 2 ^ 17 + 8 * i)
      let q := p.dst - 2 ^ 21
      let prio := BitVec.ofNat 2 ((d 7).toNat / 2 ^ 42)
      let tiles := [(d 8, d 9), (d 10, d 11), (d 12, d 13), (d 14, d 15)]
      s.plan q p.tag prio 1 true true = .ok [(key, false)] →
      (targetOk (d 6) = true → (d 7).toNat / 2 ^ 48 = 0 → (∀ x ∈ tiles, tileBad (s.poolS p.src) x = false) →
        ∃ (t : State) (x : Machine.Task), exec (.spawnRecordRead p.id) s = .next t ∧ Allocated s t key p.tag ∧ x ∈ (t.cluster q).tasks ∧
          x.entry = d 6 ∧ x.args = [d 0, d 1, d 2, d 3, d 4, d 5] ∧ x.prio = prio ∧ x.tiles = tiles ∧
          x.join = joinPtr (d 7) ∧ x.fut = t.entryHandle key ∧ x.lseq = hd.lseq ∧ x.lane = hd.lane ∧ SameMemory s t ∧
          Answered t ⟨p.src, p.sender, out⟩ (.value (t.entryHandle key) true) false)) ∧
    -- answers and wakes
    (∀ (fk out : Nat) (v : Word) (b x oor : Bool) (o : Outst), Arrives s p → p.body = .futureReply fk out (.value v b) x oor →
      s.endOf p.dst p.tag p.epoch = true → (s.frame fk).outs.find? (fun y => y.id == out) = some o → o.need = 1 →
      ∃ t : State, exec (.futureWake p.id) s = .next t ∧ SameMemory s t ∧
        (∀ r : BitVec 6, o.dst = some r.toNat → r ≠ 0 → (t.frame fk).rg r.toNat = v) ∧
        (∀ r : BitVec 4, o.pd = r.toNat → r ≠ 0 → (t.frame fk).rp r.toNat = boolP b) ∧
        (x = true → (t.frame fk).estat.getLsbD 2 = true) ∧ (oor = true → (t.frame fk).estat.getLsbD 0 = true) ∧
        (∀ y ∈ (t.frame fk).outs, y.id ≠ out)) ∧
    (∀ (fk out : Nat) (r : Reply) (x oor : Bool), Arrives s p → p.body = .futureReply fk out r x oor →
      s.endOf p.dst p.tag p.epoch = true → p.src < 2 ^ 23 → (∀ y ∈ (s.frame fk).outs, y.id ≠ out) →
      ((s.frame fk).asked = out → out ≠ 0 → ∃ t : State, exec (.futureWake p.id) s = .next t ∧ SameMemory s t ∧
        (t.frame fk).reply = some r ∧ (t.frame fk).asked = (if r = .parked then out else 0) ∧
        (x = true → (t.frame fk).estat.getLsbD 2 = true)) ∧
      ((s.frame fk).asked ≠ out → (∀ e ∈ s.hub.ends, e.id ≠ out) →
        exec (.futureWake p.id) s = .next (s.dropPacket p.id))) ∧
    (∀ (fk out : Nat) (r : Reply), Arrives s p → p.body = .wake fk out r → s.endOf p.dst p.tag p.epoch = true →
      ((s.frame fk).asked = out → ∃ t : State, exec (.futureWake p.id) s = .next t ∧ (t.frame fk).reply = some r ∧ SameMemory s t ∧
        ((s.frame fk).state = .touch → (t.frame fk).state = .resumable)) ∧
      ((s.frame fk).asked ≠ out → exec (.futureWake p.id) s = .next (s.dropPacket p.id))) ∧
    -- the spill area
    (∀ (id : Nat) (sp : Spill) (key : Nat) (a : Asker) (w : Bool) (s1 : State) (x : Trans),
      s.hub.spills.find? (fun x => x.id == id) = some sp → sp.work = some (.spawnNt a w) → sp.entries = [key] →
      sp.failed = false → a.end_ < 2 ^ 23 → x.host = false → spillPlaces sp.tag.toNat s [key] = (s1, .ok [(key, x)]) →
      let f := s1.future key
      let d0 := (s1.mkHandle key f.gen + natWord (fstateCode f.state)).toNat
      ∃ t : State, exec (.spillWriteCompletion id) s = .next t ∧ Allocated s1 t key sp.tag ∧
        Answered t a (.value (t.entryHandle key) true) false ∧ (∀ y ∈ t.hub.spills, y.id ≠ id) ∧
        t.dev = s1.dev.setBytes x.addr (natBytes d0 8 ++ natBytes f.value.toNat 8)) ∧
    (∀ (id : Nat) (sp : Spill) (t0 : State), s.hub.spills.find? (fun x => x.id == id) = some sp → sp.failed = false →
      sp.asker.end_ < 2 ^ 23 →
      let a := sp.asker
      let woken (r : Reply) : Prop := ∃ t : State, exec (.spillReadCompletion id) s = .next t ∧
        (∃ y ∈ t.net, y.dst = a.end_ ∧ y.body = .wake a.frame a.out r) ∧ (∀ y ∈ t.hub.spills, y.id ≠ id)
      let place := s.spillPlace sp.tag.toNat (handleKey sp.handle) (handleGen sp.handle) false
      (∀ x : Trans, place = (t0, .at_ x) → x.host = false → t0.bad = [] →
        woken (spillReply sp.handle (t0.dev.bytes x.addr 16))) ∧
      (∀ code : Nat, place = (t0, .fail code) → woken (.trap 0x06 (natWord (0x0C + code * 256))))))

/-! ## Translation and the X group -/

/-- R83 to R86, R90: the end of a walk at a leaf, and what a table entry that ends it early gives; A, and D for a
write, are set in a leaf that maps; a table entry whose line cannot be read ends the walk (R429: DESIGN CHOICE, log
entry 100, for what follows); an entry cached with the rights asked for translates without a walk, inside the
partition's range (R71); one without them does not (for a write and an entry whose WR is 0, log entry 108). -/
def Obligations.Translation : Prop :=
  ∀ (s : State) (tag va ch level ea pte : Nat) (write : Bool),
    let leaf := walkLeaf s tag va write false level ea pte
    let frame := pte / 2 ^ 16 % 2 ^ 36
    let off := if level = 1 then va % 2 ^ 29 else va % 2 ^ 16
    let good : Prop := (level = 2 ∨ (level = 1 ∧ frame % 2 ^ 13 = 0)) ∧ (write = true → pte.testBit 1 = true)
    let table := (s.part tag).root
    let root := table + 8 * (va / 2 ^ 42 % 2 ^ 14)
    let entry := s.dev.readLE root 8
    let walk := (s.walk tag va write false).2
    (level = 0 → leaf.2 = .bad 3) ∧ (level = 1 → frame % 2 ^ 13 ≠ 0 → leaf.2 = .bad 3) ∧
    (level = 2 ∨ (level = 1 ∧ frame % 2 ^ 13 = 0) → write = true → pte.testBit 1 = false → leaf = (s, .notWritable)) ∧
    (good → pte.testBit 3 = true → ∃ c wr d b : Bool, leaf.2 = .ok (frame * 2 ^ 16 ||| off) true c wr d b) ∧
    (good → pte.testBit 3 = false → 2 ^ 42 ≤ frame * 2 ^ 16 → leaf.2 = .bad 4) ∧
    (good → pte.testBit 3 = false → frame * 2 ^ 16 < 2 ^ 42 →
      (s.insidePart tag (frame * 2 ^ 16 ||| off) = true →
        ∃ d : Bool, leaf.2 = .ok (frame * 2 ^ 16 ||| off) false (pte.testBit 4) (pte.testBit 1) d (level == 1)) ∧
      (s.insidePart tag (frame * 2 ^ 16 ||| off) = false → leaf.2 = .bad 5)) ∧
    (good → s.dev.wf = true → pte = s.dev.readLE ea 8 →
      leaf.1.dev.readLE ea 8 = (pte ||| 32 ||| (if write then 64 else 0)) ∧ leaf.1.pool = s.pool ∧ leaf.1.host = s.host ∧
      ∀ b : Nat, b < ea ∨ ea + 8 ≤ b → leaf.1.dev.read b = s.dev.read b) ∧
    (s.insidePart tag root = false → walk = .bad 5) ∧
    (s.insidePart tag root = true →
      (∀ key : Nat, s.deviceError tag root 8 = some (key, true) → walk = .ecc) ∧
      (s.bad = [] →
        (entry / 2 ^ 7 % 2 ^ 9 ≠ 0 ∨ entry / 2 ^ 52 ≠ 0 → walk = .bad 3) ∧
        (entry / 2 ^ 7 % 2 ^ 9 = 0 → entry / 2 ^ 52 = 0 → entry.testBit 0 = false → walk = .notPresent) ∧
        (entry / 2 ^ 7 % 2 ^ 9 = 0 → entry / 2 ^ 52 = 0 → entry.testBit 0 = true → entry.testBit 2 = true → walk = .bad 3))) ∧
    (∀ e : GEntry, (s.geyser ch).gtlb.find? (fun e => gtlbMatch e tag va && !e.invalid && (!write || (e.wr && e.d))) = some e →
      let pa := e.frame + (if e.block then va % 2 ^ 29 else va % 2 ^ 16)
      (e.host = true ∨ s.insidePart tag pa = true → s.translate ch tag va write = (s, .ok ⟨pa, e.host, e.c, e.id⟩)) ∧
      (e.host = false → s.insidePart tag pa = false → (s.translate ch tag va write).2 = .error (.bad 5)))

/-- R262 to R267: XLD and XST of device memory go to the home slice of their translated address; an XST of host memory
is posted; an operand that is not external raises WINDOW; a thread whose partition has used its Geyser bytes of the
period waits in place (R370). XPUSH of the Geyser pool begins a copy that waits for the accesses before it and then takes
its bytes; a tile of no bytes returns 0; a tile too long or not of whole words raises ILLEGAL. XPREF changes no register
and no memory. The model's choices: PAGE's c.eval is the aligned VA without its tag (log entry 56), and a posted store is in
host memory at once (log entry 75). R28: the address n bytes after a pointer keeps its tag and wraps below it. -/
def Obligations.ExternalOperations : Prop :=
  ∀ (s : State) (rt rb rc : BitVec 6) (am : AMode) (sz : Size) (o : Ord) (off : BitVec 32),
    2 ^ 20 ≤ s.cur.fk → s.cur.fk < 2 ^ 20 + 4096 → scopeTrap s (ordScope o) = none →
    let sum := s.pg rb + off.signExtend 64
    let x := sum.toNat
    let n := szBytes sz
    let va := natWord (x / n * n)
    let external : Prop := am = .gen ∧ (x / 2 ^ 56 = 0 ∨ x / 2 ^ 56 = 1)
    let xld := Instr.xld rt rb am sz o off
    let xst := Instr.xst rt rb am sz o off
    let xpush := Instr.xpush rt rb rc am o off
    let sends (t : State) (p : Trans) (op : AccOp) (data : Word) (dst : Option Nat) : Prop :=
      ∃ (y : Packet) (a : WordAcc) (r : Outst), t.net = s.net ++ [y] ∧ y.dst = 2 ^ 20 + paChannel p.addr ∧ y.body = .access a ∧
        a = ⟨op, p.addr, n, data, natWord p.entry, if p.c then 3 else 2, r.id⟩ ∧ t.cf.outs = s.cf.outs ++ [r] ∧ r.dst = dst ∧
        SameRegsBut [] s.cf t.cf ∧ SameControl s.cf t.cf
    let tile := s.pg rc
    let rows := tile.toNat / 2 ^ 16 % 2 ^ 16
    let rowb := tile.toNat / 2 ^ 32 % 2 ^ 16
    let pool : Prop := am = .own ∨ (am = .gen ∧ x / 2 ^ 56 = 0xF0)
    (∀ (p : Word) (k : Nat), (rowAddress p k).toNat / 2 ^ 56 = p.toNat / 2 ^ 56 ∧
      (rowAddress p k).toNat % 2 ^ 56 = (p.toNat + k) % 2 ^ 56) ∧
    (¬ external → ∀ i ∈ [xld, xst, .xpref rb am off], exec i s = .next (s.trap { cause := 0x04, eval := sum })) ∧
    (external → s.accStalls .x .load [(2 ^ 60 + va.toNat % 2 ^ 60, n)] true = false → (s.xCharge 0 n).2 = false →
      ∃ t : State, exec xld s = .next t ∧ (t.slot s.cur.sk).state = .inPlace ∧ t.cf.pc = s.cur.bpc ∧ 12 ∈ t.cf.waits ∧
        SameThread s t) ∧
    (external → ∀ (u : State) (p : Machine.Trans), s.accStalls .x .load [(2 ^ 60 + va.toNat % 2 ^ 60, n)] true = false →
      (s.xCharge 0 n).2 = true → (s.xCharge 0 n).1.xTranslate va false = (u, .at_ p) → p.host = false →
      ∃ t : State, exec xld s = .next t ∧ sends t p .load va (some rt.toNat)) ∧
    (external → ∀ (u : State) (p : Machine.Trans), s.accStalls .x .store [(2 ^ 60 + va.toNat % 2 ^ 60, n)] true = false →
      (s.xCharge 0 n).2 = true → (s.xCharge 0 n).1.xTranslate va true = (u, .at_ p) →
      (p.host = false → ∃ t : State, exec xst s = .next t ∧ sends t p .store (s.pg rt) none) ∧
      (p.host = true → s.host.wf = true → (o.rel = false ∨ s.accIds s.cur.fk = []) →
        ∃ t : State, exec xst s = .next t ∧ SameRegsBut [] s.cf t.cf ∧ t.pool = s.pool ∧ t.gpool = s.gpool ∧
          t.host.readLE (hostKey s.curTag p.addr) n = (s.pg rt).toNat % 2 ^ (8 * n))) ∧
    (external → ∀ (u : State) (c : Nat), s.accStalls .x .load [(2 ^ 60 + va.toNat % 2 ^ 60, n)] true = false →
      (s.xCharge 0 n).2 = true → (s.xCharge 0 n).1.xTranslate va false = (u, .trap c) →
      exec xld s = .next (u.trap { cause := 0x0C, detail := BitVec.ofNat 8 c, eval := natWord (va.toNat % 2 ^ 56) })) ∧
    (external → ∃ t : State, exec (.xpref rb am off) s = .next t ∧ SameThread s t ∧ t.net = s.net ∧ t.copies = s.copies ∧
      (s.bad = [] → SameUnits { s with geysers := t.geysers } t)) ∧
    (¬ pool → ¬ (am = .gen ∧ x / 2 ^ 56 = 0) → exec xpush s = .next (s.trap { cause := 0x04, eval := sum })) ∧
    (pool ∨ (am = .gen ∧ x / 2 ^ 56 = 0) → 65536 < rows * rowb ∨ rowb % 8 ≠ 0 ∨ tile.toNat / 2 ^ 48 % 8 ≠ 0 →
      exec xpush s = .next (s.trap { cause := 0x01, eval := tile })) ∧
    (pool → rows * rowb ≤ 65536 → rowb % 8 = 0 → tile.toNat / 2 ^ 48 % 8 = 0 → s.accStalls .xpush .load (s.pushPlaces sum (rows * rowb)) true = false →
      (rows * rowb = 0 → ∃ (t : State) (q : Nat), exec xpush s = .next t ∧ Expects s t rt 0 q ∧
        Answered t ⟨frameEnd s.cur.fk, s.cur.fk, q⟩ (.value 0 false) false) ∧
      (rows * rowb ≠ 0 → ∃ (t : State) (q id : Nat) (c : Copy), exec xpush s = .next t ∧ Expects s t rt 0 q ∧ t.copies.get? id = some c ∧
        c.purpose = .xpush q ∧ c.src = natWord (0xF0 * 2 ^ 56 + x % 2 ^ 16) ∧ c.channel = s.curChannel ∧ c.ended = false ∧
        c.reach = (if s.cur.pre.priv = 2 then 2 ^ 16 else 0xC000) ∧
        c.after = (if o.rel then s.accIds s.cur.fk else (s.cf.fenceAll ++ s.cf.fenceStore ++ s.cf.acquires).filter s.unperf.contains) ∧
        shRows c.shape = rows ∧ shRowb c.shape = rowb ∧ flMtag c.flags = tile.setWidth 16 ∧
        ⟨s.cycle + 8, .copyCommand id⟩ ∈ t.agenda)) ∧
    (∀ (id q : Nat) (c : Copy), s.copies.get? id = some c → c.purpose = .xpush q → isExternal c.src = false →
      let off := c.src.toNat % 2 ^ 16
      ((∃ y ∈ c.after, y ∈ s.unperf) → exec (.copyCommand id) s = .next (s.again (.copyCommand id))) ∧
      ((∀ y ∈ c.after, y ∉ s.unperf) → s.bad = [] → ∃ (t : State) (d : Copy), exec (.copyCommand id) s = .next t ∧
        t.copies.get? id = some d ∧ d.ended = true ∧ d.status = some 0 ∧ d.data.length = shRows c.shape * shRowb c.shape ∧
        (∀ j : Nat, j < shRows c.shape * shRowb c.shape → d.data[j]? = some
          (if c.reach ≤ (off + j) % 2 ^ 16 then 0 else s.gpool.read (c.channel * 2 ^ 16 + (off + j) % 2 ^ 16))) ∧
        ⟨s.cycle + 1, .multicastPush id (2 ^ 20)⟩ ∈ t.agenda))

/-- R88, R99, R267: XTLBI at S begins an invalidation of its range, or of everything, at every Geyser of the
partition's channels, and one of host addresses at the hub; at U it raises PRIV. At its beginning at a Geyser the
matching entries that nobody uses are freed and the others marked; it waits for those and for no later ones, and the last
Geyser ends it. The host's own invalidations end when no request uses the range. -/
def Obligations.Invalidations : Prop :=
  ∀ (s : State) (rt rb rc : BitVec 6) (am : AMode) (off : BitVec 32), s.cur.fk < 2 ^ 20 + 4096 →
    let sum := s.pg rb + off.signExtend 64
    let tag := s.frameTag s.cur.fk
    let xtlbi := Instr.xtlbi rt rb rc .gen off
    let all : Instr := .xtlbiAll rt am
    let begins (i : Instr) (va len : Nat) (whole : Bool) (chs : List Nat) : Prop :=
      ∃ (t : State) (q : Nat) (v : Inval), exec i s = .next t ∧ Expects s t rt 0 q ∧ t.hub.invals = s.hub.invals ++ [v] ∧ v.tag = tag ∧ v.va = va ∧
        v.len = len ∧ v.whole = whole ∧ v.channels = chs ∧ v.frame = some s.cur.fk ∧ v.out = q ∧ v.found = []
    (s.cur.pre.priv = 0 → ∀ i ∈ [xtlbi, all], exec i s = .next (s.trap { cause := 0x05, eval := 0 })) ∧
    (s.cur.pre.priv ≠ 0 →
      (sum.toNat / 2 ^ 56 = 0 →
        begins xtlbi (sum.toNat % 2 ^ 56) (max (s.pg rc).toNat 1) false (s.partChannels tag.toNat)) ∧
      (sum.toNat / 2 ^ 56 = 1 → begins xtlbi (sum.toNat % 2 ^ 56) (max (s.pg rc).toNat 1) false []) ∧
      (1 < sum.toNat / 2 ^ 56 → exec xtlbi s = .next (s.trap { cause := 0x04, eval := sum })) ∧
      begins all 0 0 true (s.partChannels tag.toNat)) ∧
    (∀ (v : Inval) (ch : Nat), s.hub.invals.find? (fun i => i.id == v.id) = some v → v.channels.contains ch = true →
      ∃ t : State, exec (.tlbInvalidation v.id ch) s = .next t ∧
        (v.found.get? ch = none →
          (∀ e ∈ (t.geyser ch).gtlb, v.covers e = true → e.invalid = true ∧ e.inUse ≠ 0) ∧
          (∀ e ∈ (s.geyser ch).gtlb, v.covers e = false → e.invalid = false → e ∈ (t.geyser ch).gtlb) ∧
          ((∀ e ∈ (s.geyser ch).gtlb, e.inUse = 0) → (∀ c ∈ v.channels, c = ch) → s.invalWaits v = false →
            s.atsBusy v = false → ∀ y ∈ t.hub.invals, y.id ≠ v.id)) ∧
        (∀ left : List Nat, v.found.get? ch = some left → (t.geyser ch).gtlb = (s.geyser ch).gtlb ∧
          ((∀ e ∈ (s.geyser ch).gtlb, e.id ∉ left) → (∀ c ∈ v.channels, c = ch) → s.invalWaits v = false →
            s.atsBusy v = false → ∀ y ∈ t.hub.invals, y.id ≠ v.id))) ∧
    (∀ vf va len : Nat,
      (∃ (t : State) (v : Inval), exec (.atsInvalidateRequest vf va len) s = .next t ∧ t.hub.invals = s.hub.invals ++ [v] ∧ v.ats = some vf ∧
        v.va = va ∧ v.len = len ∧ (∀ e ∈ t.hub.ats, atsMatch vf va len false e = true → e.invalid = true ∧ e.inUse ≠ 0) ∧
        ⟨s.cycle + 8, .atsInvalidateCompletion v.id⟩ ∈ t.agenda)) ∧
    (∀ (v : Inval), s.hub.invals.find? (fun i => i.id == v.id) = some v → s.atsBusy v = false →
      ∃ t : State, exec (.atsInvalidateCompletion v.id) s = .next t ∧ (∀ y ∈ t.hub.invals, y.id ≠ v.id))

/-! ## Copies and multicast -/

/-- R102 to R107, R123, R124, R258: CGO checks its fields, windows and geometry in this order and raises the first
trap; with eight copies outstanding it answers 0; otherwise it starts a copy of the shadow set as it stands, under its
core's next identifier where no copy of a thread has it, and answers it. The model's choices, which the spec leaves open:
the first identifier of a core is 1 (log entry 93) and the counter then goes on by one, also over an identifier still
outstanding (log entry 94); a 0xF3 pointer with a bit of [30:17] set is WINDOW (log entry 77); the receivers of type 3 are
not checked for alignment (log entry 92). -/
def Obligations.CopyIssue : Prop :=
  ∀ (s : State) (rd : BitVec 6),
    let fk := s.cur.fk
    let r := s.cur.slot
    let sh := r.cpshape.toNat
    let ty := sh / 2 ^ 32 % 16
    let fl := r.cpflags.toNat
    (2 ^ 20 ≤ fk → exec (.cgo rd) s = .next (s.trap { cause := 0x01, eval := 0 })) ∧
    (fk < 2 ^ 20 → scopeTrap s (fl / 4 % 8) = none → s.scopeLimited (fl / 4 % 8) = false →
      (∀ x : Bool × BitVec 8 × Word, (copyChecks s).find? (·.1) = some x → exec (.cgo rd) s = .next (s.trap { cause := x.2.1, eval := x.2.2 })) ∧
      ((copyChecks s).find? (·.1) = none →
        (8 ≤ s.cf.copies.length → ∃ (t : State) (q : Nat), exec (.cgo rd) s = .next t ∧ Expects s t rd 0 q ∧ t.copies = s.copies ∧
          Answered t ⟨frameEnd fk, fk, q⟩ (.value 0 false) false) ∧
        (s.cf.copies.length < 8 → ∃ (t : State) (q id : Nat) (c : Copy), exec (.cgo rd) s = .next t ∧ Expects s t rd 0 q ∧
          t.copies = s.copies.put id c ∧ t.cf.copies = s.cf.copies ++ [id] ∧
          Answered t ⟨frameEnd fk, fk, q⟩ (.value (c.tid.setWidth 64) true) false ∧ c.purpose = .thread ∧ c.core = s.curCore ∧
          c.frame = fk ∧ c.tag = s.frameTag fk ∧ c.epoch = s.frameEpoch fk ∧ c.src = r.cpsrc ∧ c.dst = r.cpdst ∧
          c.shape = r.cpshape ∧ c.sstr = r.cpsstr ∧ c.dstr = r.cpdstr ∧ c.mask = r.cpmask ∧ c.flags = r.cpflags ∧
          c.after = s.copyAfter (fl.testBit 1) ∧
          ((∀ y ∈ s.copies, y.2.core = s.curCore → y.2.purpose = .thread → y.2.tid ≠ (s.core s.curCore).copyNext) →
            c.tid = (s.core s.curCore).copyNext ∧
            (t.core s.curCore).copyNext = (if c.tid = 0xFFFF then 1 else c.tid + 1)) ∧
          ∃ n : Nat, ⟨n, if ty = 4 then .reduceContribution id else .copyCommand id⟩ ∈ t.agenda)))

/-- R27, R108 to R111, R116, R429: at its Geyser a command whose release has ended knows its rows, those its mask selects for a
gather or a scatter, with the marks of a mask byte in a gap or refused; one whose release has not waits, and one whose
mask has a lasting error is reported and stops. The next burst runs to the end of its row or of a 4 KiB page,
whichever is first; its translation's last outcome, without a page request, is the copy's status. R21, R68, R108,
R109, R115, R129: bursts end in order; a burst of a dense copy between external memory and the own pool of its core reads, a word
at a time, what stands at its source, a byte in the pool's gap as zero; a host write is sent whole; BYTES counts the burst with
its last word; a transient
error is corrected and the burst tried again, a lasting one reported with its address. Each word is written by a step of its
own, behind the copy's earlier writes at its bank or slice; no other byte changes. A burst with HOSTERR moves nothing, and the
first such one in order sets the status. R111, R113 to R115, R117, R127, R147: the end of a copy: a gather writes its packed
count at the head of its destination and sets the word full; the record travels to the core, under ACQ after the copy's writes,
and goes to the task's mailbox in the order of completion, or waits for a free entry; a failing status raises ENGINE. The
model's choices: a translation set in use makes the burst try again in 8 cycles (log entry 19), and a row mask is read in one
step (log entry 30). -/
def Obligations.CopyProgress : Prop :=
  (∀ (s : State) (id : Nat) (c : Copy), s.copies.get? id = some c → c.purpose = .thread →
    let ty := shType c.shape
    let n := shRows c.shape
    let rowb := shRowb c.shape
    let base := if isExternal c.src then c.src else c.dst
    let stride := if isExternal c.src then c.sstr else c.dstr
    let tag := c.tag.toNat
    ((∃ a ∈ c.after, a ∈ s.unperf) → exec (.copyCommand id) s = .next (s.later 8 (.copyCommand id))) ∧
    ((∀ a ∈ c.after, a ∉ s.unperf) →
      let x := engineRead s c.core c.tag c.epoch c.mask (scratchOff c.mask) ((n + 7) / 8)
      let m := bytesNat x.1
      let masked : Prop := ty = 1 ∨ ty = 2
      (¬ masked ∨ s.bad = [] → ∃ (t : State) (d : Copy), exec (.copyCommand id) s = .next t ∧ t.copies.get? id = some d ∧
        SameMemory s t ∧ (rowb = 0 → d.rows = some []) ∧
        (¬ masked → d.gap = c.gap ∧ d.refused = c.refused ∧
          (rowb ≠ 0 → d.rows = some ((List.range n).map (fun r => (r, r))))) ∧
        (masked → d.gap = (c.gap || x.2.1) ∧ d.refused = (c.refused || x.2.2) ∧
          (rowb ≠ 0 → ∃ l : List (Nat × Nat), d.rows = some l ∧
            ∀ r j : Nat, (r, j) ∈ l ↔ r < n ∧ m.testBit r = true ∧ j = ((List.range r).filter (fun i => m.testBit i)).length)) ∧
        ⟨s.cycle + 1, .burstAdmission id⟩ ∈ t.agenda) ∧
      (masked → ∀ key : Nat, poolError s c.core c.tag c.epoch c.mask (scratchOff c.mask) ((n + 7) / 8) = some (key, true) →
        ∃ (t : State) (y : TrapMsg), exec (.copyCommand id) s = .next t ∧ t.copies = s.copies ∧ SameMemory s t ∧
          y ∈ t.hub.beacons ∧ y.kind = 4 ∧ y.cause = 0x12 ∧ y.part = c.tag)) ∧
    (∀ (r j : Nat) (rest : List (Nat × Nat)), c.rows = some ((r, j) :: rest) → c.cancelled = false → c.status = none → c.stalled = none →
      c.charged = false → (s.part tag).scrubbing = false →
      (s.part tag).budget0.toNat % 2 ^ 32 = 0 → ptrTag base = 0 → c.off < rowb →
      let va := ((base.toNat + r * stride.toNat) % 2 ^ 56 + c.off) % 2 ^ 56
      let len := min (rowb - c.off) (4096 - va % 4096)
      let u := (s.updGeyser c.channel (fun g => { g with bytes := g.bytes.put tag (g.bytes.getD tag 0 + len) })).updCopy id
        (fun y => { y with charged := true })
      (∀ (u2 : State) (x : Machine.Trans), u.translate c.channel tag va (!isExternal c.src) = (u2, .ok x) → x.host = false →
        ∃ (t : State) (d : Copy) (b : Burst), exec (.burstAdmission id) s = .next t ∧ t.copies.get? id = some d ∧ d.bursts = c.bursts ++ [b] ∧
          b.row = r ∧ b.j = j ∧ b.off = c.off ∧ b.len = len ∧ b.moved = 0 ∧ b.addr = x.addr ∧ b.host = false ∧
          b.entry = x.entry ∧ b.c = x.c ∧ b.va = va ∧ d.charged = false ∧
          (d.off, d.rows) = (if c.off + len < rowb then (c.off + len, c.rows) else (0, some rest)) ∧
          (∃ m : Nat, ⟨m, .burstComplete id b.id⟩ ∈ t.agenda) ∧ ⟨s.cycle + 1, .burstAdmission id⟩ ∈ t.agenda) ∧
      (∀ u2 : State, u.translate c.channel tag va (!isExternal c.src) = (u2, .error .full) →
        exec (.burstAdmission id) s = .next (u2.later 8 (.burstAdmission id))) ∧
      (∀ (u2 : State) (w : WalkEnd), u.translate c.channel tag va (!isExternal c.src) = (u2, .error w) → w ≠ .full → w ≠ .ecc →
        (s.part tag).pageReq = false →
        ∃ (t : State) (d : Copy), exec (.burstAdmission id) s = .next t ∧ t.copies.get? id = some d ∧
          d.status = some (BitVec.ofNat 8 w.code) ∧ d.rows = c.rows))) ∧
  (∀ (s : State) (id : Nat) (c : Copy) (b : Burst) (rest : List Burst),
    s.copies.get? id = some c → c.bursts = b :: rest → c.purpose = .thread → shType c.shape = 0 →
    (b.host = true → isExternal c.src = true ∧ ∃ bs : List Byte, b.got = some bs ∧ bs.length = b.len) →
    c.cancelled = false → c.dead = false → b.err = false → b.len ≤ 4096 → b.moved < b.len → s.memWf = true →
    s.coreOf c.core c.tag c.epoch = true → (∀ l ∈ s.late, l.id ≠ b.id) →
    let k := c.core
    let load := isExternal c.src
    let ptr := if load then c.dst else c.src
    let stride := if load then c.dstr else c.sstr
    let place (i : Nat) : Nat := (ptr.toNat + b.j * stride.toNat + b.off + b.moved + i) % 2 ^ 17
    let done := Instr.burstComplete id b.id
    let n := min (b.len - b.moved) (min (8 - place 0 % 8) (64 - (b.addr + b.moved) % 64))
    ptrTag ptr = 0xF0 →
    (∀ x ∈ rest, x.id ≠ b.id → x.host = false → (∀ l ∈ s.late, l.id ≠ x.id) →
      exec (.burstComplete id x.id) s = .next (s.later 8 (.burstComplete id x.id))) ∧
    (∀ w : Nat, s.burstError c b = some (w, false) → ∃ t : State, exec done s = .next t ∧ t.copies = s.copies ∧
      SameMemory s t ∧ t.bad = s.bad.del w ∧ ⟨s.cycle + 1, done⟩ ∈ t.agenda) ∧
    (∀ w : Nat, s.burstError c b = some (w, true) → ∃ (t : State) (y : TrapMsg), exec done s = .next t ∧
      t.copies = s.copies ∧ SameMemory s t ∧ y ∈ t.hub.beacons ∧ y.kind = 4 ∧ y.cause = 0x12 ∧ y.part = c.tag ∧
      (2 ^ 30 ≤ w → y.va = b.va ∧ y.page = some (b.addr / 2 ^ 16))) ∧
    (s.burstError c b = none →
      ∃ (t : State) (d : Copy) (l : Late), exec done s = .next t ∧ t.copies.get? id = some d ∧ SameMemory s t ∧
        (b.moved + n < b.len → d.bursts = { b with moved := b.moved + n } :: rest ∧ d.bytes = c.bytes ∧
          ⟨s.cycle, done⟩ ∈ t.agenda) ∧
        (b.moved + n = b.len → d.bursts = rest ∧ d.bytes = c.bytes + b.len) ∧
        d.gap = (c.gap || (List.range n).any (fun i => s.inGap k (place i))) ∧
        t.late = s.late ++ [l] ∧ l.owner = id ∧ l.tag = c.tag ∧ l.full = false ∧ l.last = false ∧ l.device = !load ∧
        l.data.length = n ∧ ⟨s.cycle, .burstComplete id l.id⟩ ∈ t.agenda ∧
        (load = true → l.core = k ∧ l.epoch = c.epoch ∧ l.ptr = ptr ∧ l.off % 2 ^ 17 = place 0 ∧
          ∀ i : Nat, i < n → l.data.getD i 0 =
            if b.host then (b.got.getD []).getD (b.moved + i) 0 else s.dev.read (b.addr + b.moved + i)) ∧
        (load = false → l.off = b.addr + b.moved ∧ l.c = b.c ∧ l.entry = b.entry ∧
          ∀ i : Nat, i < n → l.data.getD i 0 = if s.inGap k (place i) then 0 else s.pool.read (poolKey k (s.reduce k (place i)))))) ∧
  (∀ (s : State) (id : Nat) (c : Copy) (b : Burst) (rest : List Burst),
    s.copies.get? id = some c → c.bursts = b :: rest → c.purpose = .thread → shType c.shape = 0 → b.host = true →
    isExternal c.src = false → s.hostCanWrite c.tag.toNat = true → c.cancelled = false → c.dead = false → b.err = false →
    b.moved < b.len → s.memWf = true → s.bad = [] → (∀ l ∈ s.late, l.id ≠ b.id) → ptrTag c.src = 0xF0 →
    let n := min (b.len - b.moved) (min (8 - (c.src.toNat + b.j * c.sstr.toNat + b.off + b.moved) % 8) (64 - (b.addr + b.moved) % 64))
    let x := engineRead s c.core c.tag c.epoch c.src ((c.src.toNat + b.j * c.sstr.toNat + b.off) % 2 ^ 17 + b.moved) n
    let all := b.got.getD [] ++ x.1
    ∃ (t : State) (d : Copy), exec (.burstComplete id b.id) s = .next t ∧ t.copies.get? id = some d ∧ t.late = s.late ∧
      d.gap = (c.gap || x.2.1) ∧ t.pool = s.pool ∧ t.dev = s.dev ∧
      (b.moved + n < b.len → d.bursts = { b with moved := b.moved + n, got := some all } :: rest ∧ d.bytes = c.bytes ∧ t.host = s.host ∧
        ⟨s.cycle, .burstComplete id b.id⟩ ∈ t.agenda) ∧
      (b.moved + n = b.len → d.bursts = rest ∧ d.bytes = c.bytes + b.len ∧
        t.host = s.host.setBytes (hostKey c.tag.toNat b.addr) all)) ∧
  (∀ (s : State) (id : Nat) (c : Copy) (b : Burst) (rest : List Burst),
    s.copies.get? id = some c → c.bursts = b :: rest → c.purpose = .thread → c.cancelled = false → (∀ l ∈ s.late, l.id ≠ b.id) →
    b.err = true ∨ (c.dead = true ∧ b.host = false) →
    ∃ (t : State) (d : Copy), exec (.burstComplete id b.id) s = .next t ∧ t.copies.get? id = some d ∧ SameMemory s t ∧
      t.late = s.late ∧ d.bursts = rest ∧ d.dead = true ∧ d.bytes = c.bytes ∧
      d.status = some (if c.dead then c.status.getD 6 else 6)) ∧
  (∀ (s : State) (pre post : List Late) (l : Late), s.late = pre ++ l :: post → (∀ x ∈ pre ++ post, x.id ≠ l.id) →
    l.last = false → s.memWf = true →
    let step := Instr.burstComplete l.owner l.id
    ((∃ x ∈ pre, x.owner = l.owner ∧ s.lateBank x = s.lateBank l) → exec step s = .next (s.later 1 step)) ∧
    ((∀ x ∈ pre, x.owner = l.owner → s.lateBank x ≠ s.lateBank l) →
      (l.device = true → ∃ t : State, exec step s = .next t ∧ t.late = pre ++ post ∧ t.pool = s.pool ∧ t.gpool = s.gpool ∧
        t.host = s.host ∧ t.full = s.full ∧ (∀ i : Nat, i < l.data.length → t.dev.read (l.off + i) = l.data.getD i 0) ∧
        ∀ a : Nat, a < l.off ∨ l.off + l.data.length ≤ a → t.dev.read a = s.dev.read a) ∧
      (l.device = false → ptrTag l.ptr = 0xF0 → s.coreOf l.core l.tag l.epoch = true → l.full = false →
        l.off % 8 + l.data.length ≤ 8 → (∀ c : Copy, s.copies.get? l.owner = some c → c.cancelled = false) →
        let place (i : Nat) : Nat := (l.off + i) % 2 ^ 17
        let key (i : Nat) : Nat := poolKey l.core (s.reduce l.core (place i))
        ∃ t : State, exec step s = .next t ∧ t.late = pre ++ post ∧ t.dev = s.dev ∧ t.gpool = s.gpool ∧ t.host = s.host ∧
          t.full = s.full ∧
          (∀ i : Nat, i < l.data.length → s.inGap l.core (place i) = false → t.pool.read (key i) = l.data.getD i 0) ∧
          ∀ a : Nat, (∀ i : Nat, i < l.data.length → s.inGap l.core (place i) = false → a ≠ key i) →
            t.pool.read a = s.pool.read a))) ∧
  (∀ (s : State) (id : Nat) (c : Copy), s.copies.get? id = some c → c.ended = true → c.purpose = .thread →
    c.retired = false → c.frame < 2 ^ 20 → c.core = frameCore c.frame →
    let ty := shType c.shape
    let st := c.status.getD 0
    let k := c.core
    let count := if ty = 1 ∨ ty = 2 then c.fullRows else if ty = 3 then c.count else 0
    let rec0 := natWord (1 + ty * 2 ^ 8 + c.tid.toNat * 2 ^ 16 + st.toNat * 2 ^ 32 + c.gap.toNat * 2 ^ 40 + c.refused.toNat * 2 ^ 41)
    let record : List Word := [rec0, natWord c.bytes, natWord count, 0]
    let entry : MailEntry := ⟨c.frame, [rec0, natWord c.bytes, natWord count, natWord s.time]⟩
    let wanted : Prop := flTarget c.flags = 0 ∨ st ≠ 0
    let engine : Due := ⟨0x0B, st, st.setWidth 64, 1#1 ++ c.tid, true⟩
    let off := s.reduce k (c.dst.toNat % 2 ^ 17)
    let acq := c.flags.getLsbD 0
    let writing : Prop := ∃ l ∈ s.late, l.owner = id
    let end_ := Instr.copyCompletion id
    let places (i : Instr) (P : State → Prop) : Prop :=
      ∃ t : State, exec i s = .next t ∧ (t.core k).mail = (s.core k).mail ++ [entry] ∧
        t.copies = s.copies.del id ∧ (t.frame c.frame).copies = (s.frame c.frame).copies.erase id ∧
        (st ≠ 0 → st ≠ 7 → engine ∈ (t.frame c.frame).due) ∧
        (st = 0 ∨ st = 7 → ∀ e ∈ (t.frame c.frame).due, e ∈ (s.frame c.frame).due ++ (s.frame c.frame).dueMark) ∧
        SameMemory s t ∧ P t
    (c.order = none → c.parked = false →
      (ty = 1 → c.header = false → writing → acq = true → flScope c.flags ≠ 0 → exec end_ s = .next (s.later 1 end_)) ∧
      (ty = 1 → c.header = false → ¬ writing ∨ acq = false ∨ flScope c.flags = 0 → ptrTag c.dst = 0xF0 →
        s.coreOf k c.tag c.epoch = true → s.inGap k off = false → s.memWf = true → s.waitq.getD (wordKey k off) [] = [] →
        ∃ (t : State) (d : Copy), exec end_ s = .next t ∧ t.isFull k off = true ∧ t.copies.get? id = some d ∧
          d.header = true ∧ ⟨s.cycle, end_⟩ ∈ t.agenda ∧ t.pool.readLE (poolKey k off) 8 = c.fullRows % 2 ^ 64 ∧
          ∀ a : Nat, a < poolKey k off ∨ poolKey k off + 8 ≤ a → t.pool.read a = s.pool.read a) ∧
      (ty ≠ 1 ∨ c.header = true →
        (writing → ty ≠ 3 → ty = 4 ∨ acq = true → exec end_ s = .next (s.later 1 end_)) ∧
        (¬ writing ∨ ty = 3 ∨ (ty ≠ 4 ∧ acq = false) → wanted →
          ∃ (t : State) (d : Copy) (p : Packet), exec end_ s = .next t ∧ t.copies.get? id = some d ∧ d.order ≠ none ∧
            t.net = s.net ++ [p] ∧ p.src = (if ty = 4 then hubEnd else 2 ^ 20 + c.channel) ∧ p.dst = k ∧
            (s.endDet p.src c.tag = false → p.vc = 2) ∧ p.tag = c.tag ∧ p.body = .copyRecord c.frame record id ∧
            (∃ m : Nat, ⟨m, .copyCompletion p.id⟩ ∈ t.agenda) ∧ t.cores = s.cores ∧ SameMemory s t) ∧
        (¬ writing ∨ ty = 3 ∨ (ty ≠ 4 ∧ acq = false) → ¬ wanted →
          ∃ t : State, exec end_ s = .next t ∧ t.copies = s.copies.del id ∧ t.net = s.net ∧ t.cores = s.cores ∧
            (t.frame c.frame).copies = (s.frame c.frame).copies.erase id ∧ SameMemory s t))) ∧
    (∀ p : Packet, Arrives s p → p.dst = k → p.body = .copyRecord c.frame record id → s.copies.get? p.id = none → wanted →
      let arrives := Instr.copyCompletion p.id
      (∀ (i a b : Nat) (x : Copy) (y : Packet), s.copies.get? i = some x → x.core = k → x.frame = c.frame → x.order = some a →
        c.order = some b → a < b → y ∈ s.net → y.body = .copyRecord x.frame x.record i →
        exec arrives s = .next (s.later 8 arrives)) ∧
      (s.recordBehind c = false →
        ((s.core k).mail.length < 32 → (s.core k).heldRecords = [] → (s.frame c.frame).waitMail = none →
          (s.frame c.frame).state = .running → places arrives (fun t => t.net = s.net.filter (fun x => x.id != p.id))) ∧
        (32 ≤ (s.core k).mail.length ∨ (s.core k).heldRecords ≠ [] →
          ∃ t : State, exec arrives s = .next t ∧ (t.core k).heldRecords = (s.core k).heldRecords ++ [id] ∧
            (t.core k).mail = (s.core k).mail ∧ t.copies = s.copies ∧ SameMemory s t))) ∧
    (∀ l : List Nat, (s.core k).heldRecords = id :: l → wanted →
      ((s.core k).mail.length < 32 → (s.frame c.frame).waitMail = none → (s.frame c.frame).state = .running →
        places (.mailboxRecordPlace k) (fun t => (t.core k).heldRecords = l)) ∧
      (32 ≤ (s.core k).mail.length → (s.core k).preempted = false →
        exec (.mailboxRecordPlace k) s = .next (s.later 8 (.mailboxRecordPlace k))) ∧
      (32 ≤ (s.core k).mail.length → (s.core k).preempted = true →
        ∃ (t : State) (d : Copy), exec (.mailboxRecordPlace k) s = .next t ∧ (t.core k).heldRecords = l ∧
          t.copies.get? id = some d ∧ d.parked = true ∧ (t.core k).mail = (s.core k).mail)) ∧
    (∀ (ch i : Nat) (x : PStream), (s.geyser ch).streams[i]? = some x →
      ∃ t : State, exec (.geyserPrefetch ch i) s = .next t ∧ SameMemory s t ∧ t.frames = s.frames ∧ t.copies = s.copies ∧
        (4096 ≤ x.ahead → t = s) ∧
        (x.ahead < 4096 → (t.geyser ch).streams = (s.geyser ch).streams.set i { x with ahead := x.ahead + 64 })))

/-- R119, R120, R122, R139, R147, R259, R260: CSUB of a tag that its core has changes the offset and answers 1; while the
join of that entry is still on its way the answer waits for it, which is the model's choice (log entry 105); with 16 entries it answers 0; otherwise its join goes from router to router
toward the tag's root, setting a port bit at each, until one knows the group, and CSUB answers 1 once that one's way to
the root is set, or until one has 64 groups: then every bit it set and its match entry are cleared and CSUB answers 0. CUNSUB removes the
entry; its leave, behind the core's own earlier joins, clears the port bits on the way, and an entry without bits is freed; a
join stays behind an earlier leave on its link. A FENCE holds both operations. -/
def Obligations.Subscriptions : Prop :=
  ∀ (s : State) (rd ra rb : BitVec 6), s.cur.fk < 2 ^ 20 →
    let fk := s.cur.fk
    let k := s.curCore
    let a := s.pg ra
    let b := s.pg rb
    let tag := s.frameTag fk
    let mtag : BitVec 16 := a.setWidth 16
    let gs := (s.core k).groups
    let csub := Instr.csub rd ra rb
    let cunsub := Instr.cunsub rd ra
    let held : Prop := ∃ g ∈ gs, g.tag = tag ∧ g.mtag = mtag
    let answers (t : State) (q v : Nat) : Prop := Answered t ⟨frameEnd fk, fk, q⟩ (.value (natWord v) (v != 0)) false
    let has (r : Nat) (tag : BitVec 10) (m : BitVec 16) (s : State) : Prop :=
      ∃ e ∈ (s.router r).groups, e.tag = tag ∧ e.mtag = m
    let port (r : Nat) (tag : BitVec 10) (m : BitVec 16) (p : Nat) (s : State) : Prop :=
      ∃ e ∈ (s.router r).groups, e.tag = tag ∧ e.mtag = m ∧ p ∈ e.ports
    (2 ^ 16 ≤ a.toNat → ∀ i ∈ [csub, cunsub], exec i s = .next (s.trap { cause := 0x01, eval := a })) ∧
    (a.toNat < 2 ^ 16 → b.toNat % 8 ≠ 0 → exec csub s = .next (s.trap { cause := 0x01, eval := b })) ∧
    (a.toNat < 2 ^ 16 → b.toNat % 8 = 0 → s.subHeld = true → ∀ i ∈ [csub, cunsub], exec i s = .next s.retry) ∧
    (a.toNat < 2 ^ 16 → b.toNat % 8 = 0 → s.subHeld = false →
      (held → ∃ (t : State) (q : Nat), exec csub s = .next t ∧ Expects s t rd 0 q ∧
        (t.core k).groups = gs.map (fun g => if g.tag = tag ∧ g.mtag = mtag then { g with off := b.toNat % 2 ^ 17 } else g) ∧
        ∀ g : MatchEntry, gs.find? (fun g => g.tag = tag ∧ g.mtag = mtag) = some g →
          ((∀ j ∈ s.hub.joins, j.id ≠ g.join) → answers t q 1) ∧
          (∀ j ∈ s.hub.joins, j.id = g.join → ∃ y ∈ t.hub.joins, y.id = j.id ∧ y.also = j.also ++ [(fk, q)])) ∧
      (¬ held → 16 ≤ gs.length → ∃ (t : State) (q : Nat), exec csub s = .next t ∧ Expects s t rd 0 q ∧ answers t q 0 ∧
        (t.core k).groups = gs) ∧
      (¬ held → gs.length < 16 → ∃ (t : State) (q : Nat) (j : JoinReq), exec csub s = .next t ∧ Expects s t rd 0 q ∧
        (t.core k).groups = gs ++ [⟨tag, mtag, b.toNat % 2 ^ 17, false, j.id⟩] ∧ t.hub.joins = s.hub.joins ++ [j] ∧ j.core = k ∧
        j.frame = fk ∧ j.tag = tag ∧ j.mtag = mtag ∧ j.out = q ∧ j.also = [] ∧ j.path = [] ∧ j.at_ = k / 16 ∧
        j.port = k % 16 ∧ ⟨s.cycle + 2, .multicastJoin j.id⟩ ∈ t.agenda)) ∧
    (a.toNat < 2 ^ 16 → s.subHeld = false →
      (¬ held → ∃ (t : State) (q : Nat), exec cunsub s = .next t ∧ Expects s t rd 0 q ∧ answers t q 0) ∧
      (held → ∃ (t : State) (q : Nat) (l : LeaveReq), exec cunsub s = .next t ∧ Expects s t rd 0 q ∧
        (t.core k).groups = gs.filter (fun g => ¬ (g.tag = tag ∧ g.mtag = mtag)) ∧ t.hub.leaves = s.hub.leaves ++ [l] ∧
        (l.begun = [] → answers t q 1) ∧ (l.begun ≠ [] → l.out = q) ∧
        (∀ x : Nat, x ∈ l.begun ↔ ∃ y ∈ s.hub.tiles, y.id = x ∧ y.tag = tag ∧ y.mtag = mtag ∧ ∃ c ∈ y.cores, c.1 = k) ∧
        ⟨s.cycle + 2, .multicastLeave l.id⟩ ∈ t.agenda)) ∧
    (∀ j : JoinReq, s.hub.joins.find? (fun x => x.id == j.id) = some j →
      let root := j.mtag.toNat % 2 ^ 10
      let full : Prop := ¬ has j.at_ j.tag j.mtag s ∧ 64 ≤ (s.router j.at_).groups.length
      let join := Instr.multicastJoin j.id
      let ack := Instr.multicastJoinAck j.id
      let ended (t : State) (v : Nat) : Prop := (∀ x ∈ t.hub.joins, x.id ≠ j.id) ∧
        ∀ y ∈ (j.frame, j.out) :: j.also, Answered t ⟨frameEnd y.1, y.1, y.2⟩ (.value (natWord v) (v != 0)) false
      let goesOn (t : State) : Prop := ∃ y : JoinReq, t.hub.joins.find? (fun x => x.id == j.id) = some y ∧
        (y.at_, y.port) = nextRouter j.at_ root ∧ y.path = j.path ++ [(j.at_, j.port)] ∧ ⟨s.cycle + 2, join⟩ ∈ t.agenda
      let behind : Prop := ∃ l ∈ s.hub.leaves, l.tag = j.tag ∧ l.mtag = j.mtag ∧ l.at_ = j.at_ ∧ l.port = j.port ∧ l.id < j.id
      (behind → exec join s = .next (s.later 2 join)) ∧
      (¬ behind → full → ∃ t : State, exec join s = .next t ∧ ended t 0 ∧
        (∀ x ∈ j.path, ¬ port x.1 j.tag j.mtag x.2 t) ∧
        (t.core j.core).groups = (s.core j.core).groups.filter (fun g => g.join != j.id)) ∧
      (¬ behind → ¬ full → ∃ t : State, exec join s = .next t ∧ port j.at_ j.tag j.mtag j.port t ∧
        (has j.at_ j.tag j.mtag s ∨ j.at_ = root → ⟨s.cycle + 2, ack⟩ ∈ t.agenda) ∧
        (¬ has j.at_ j.tag j.mtag s → j.at_ ≠ root → goesOn t)) ∧
      (s.graftOpen j = true → exec ack s = .next (s.later 2 ack)) ∧
      (s.graftOpen j = false → s.grafted j = true → ∃ t : State, exec ack s = .next t ∧ ended t 1 ∧
        (t.core j.core).groups = (s.core j.core).groups.map (fun g => if g.join = j.id then { g with confirmed := true } else g)) ∧
      (s.graftOpen j = false → s.grafted j = false → ∃ t : State, exec ack s = .next t ∧ goesOn t)) ∧
    (∀ l : LeaveReq, s.hub.leaves.find? (fun x => x.id == l.id) = some l →
      let leave := Instr.multicastLeave l.id
      let mine (j : JoinReq) : Prop := j.core = l.core ∧ j.tag = l.tag ∧ j.mtag = l.mtag ∧ j.id < l.id
      ((∃ j ∈ s.hub.joins, mine j) → exec leave s = .next (s.later 2 leave)) ∧
      ((∀ j ∈ s.hub.joins, ¬ mine j) → l.at_ ≠ 2048 → ∃ t : State, exec leave s = .next t ∧ ¬ port l.at_ l.tag l.mtag l.port t ∧
        (∀ e ∈ (t.router l.at_).groups, e.ports ≠ []) ∧
        (¬ has l.at_ l.tag l.mtag t → l.at_ ≠ l.mtag.toNat % 2 ^ 10 →
          ∃ y : LeaveReq, t.hub.leaves.find? (fun x => x.id == l.id) = some y ∧
            (y.at_, y.port) = nextRouter l.at_ (l.mtag.toNat % 2 ^ 10) ∧ ⟨s.cycle + 2, leave⟩ ∈ t.agenda)))

/-- R121, R123, R124, R129, R140, R421: the tile of a push enters its root after the thread's earlier pushes and goes to every
port whose bit is set: COUNT is their number; a core takes it at its offset, row by row and word by word, and the last word
becomes full, under ACQ at a scope wider than the thread after the others. A member's reduce is read word by word and joins the
first round that it is not in, behind the core's earlier ones. The last contribution of a round combines all element by
element and writes every member; members whose shapes differ end with SHAPE; a communicator not formed ends with REDUCE. A
member's contribution from another module joins its round, or is refused (how it travels is a DESIGN CHOICE, log entry
102). -/
def Obligations.Deliveries : Prop :=
  ∀ (s : State) (id : Nat),
    (∀ c : Copy, s.copies.get? id = some c → c.entered = false → s.pushWaits id c = false →
      let root := (flMtag c.flags).toNat % 2 ^ 10
      let ports := (((s.router root).groups.find? (fun e => e.tag == c.tag && e.mtag == flMtag c.flags)).map
        GroupEntry.ports).getD []
      ∃ (t : State) (d : Copy), exec (.multicastPush id (2 ^ 20)) s = .next t ∧ t.copies.get? id = some d ∧ d.entered = true ∧
        d.count = ports.length ∧ ⟨s.cycle + 1, .copyCompletion id⟩ ∈ t.agenda ∧
        (∀ x ∈ t.hub.tiles, x.id = id → x.tag = c.tag ∧ x.epoch = c.epoch ∧ x.mtag = flMtag c.flags ∧ x.rows = shRows c.shape ∧
          x.rowb = shRowb c.shape ∧ x.dstr = c.dstr.toNat ∧ x.data = c.data ∧ x.rel = (flAcq c.flags && flScope c.flags != 0)) ∧
        (∀ p ∈ ports, 16 ≤ p → ⟨s.cycle + 2, .multicastPush id (portNext root p)⟩ ∈ t.agenda) ∧
        (∀ p ∈ ports, p < 16 → (∃ g ∈ (s.core (root * 16 + p)).groups, g.tag = c.tag ∧ g.mtag = flMtag c.flags) →
          ⟨s.cycle + 2, .multicastDelivery id (root * 16 + p)⟩ ∈ t.agenda)) ∧
    (∀ (u : Tile) (r : Nat), r ≠ 2 ^ 20 → r ≠ 1024 → s.hub.tiles.find? (fun x => x.id == id) = some u → u.routers = [r] → u.cores = [] →
      s.tileWaits u = false →
      let ports := (((s.router r).groups.find? (fun e => e.tag == u.tag && e.mtag == u.mtag)).map GroupEntry.ports).getD []
      ∃ t : State, exec (.multicastPush id r) s = .next t ∧
        (ports = [] → ∀ x ∈ t.hub.tiles, x.id ≠ id) ∧
        (∀ p ∈ ports, 16 ≤ p → ∃ x ∈ t.hub.tiles, x.id = id ∧ portNext r p ∈ x.routers ∧
          ⟨s.cycle + 2, .multicastPush id (portNext r p)⟩ ∈ t.agenda) ∧
        (∀ p ∈ ports, p < 16 → (∃ g ∈ (s.core (r * 16 + p)).groups, g.tag = u.tag ∧ g.mtag = u.mtag) →
          ⟨s.cycle + 2, .multicastDelivery id (r * 16 + p)⟩ ∈ t.agenda)) ∧
    (∀ (u : Tile) (k off : Nat), s.hub.tiles.find? (fun x => x.id == id) = some u → u.cores.find? (fun x => x.1 == k) = some (k, off) →
      (∀ x ∈ s.hub.tiles, x.id ≠ id → x.tag ≠ u.tag ∨ x.mtag ≠ u.mtag) → 0 < u.rowb →
      let pos := u.next.getD k 0
      let place := off + pos / u.rowb * u.dstr + pos % u.rowb
      let n := min (u.rowb - pos % u.rowb) (8 - place % 8)
      let delivery := Instr.multicastDelivery id k
      (pos < u.data.length → ∃ (t : State) (l : Late), exec delivery s = .next t ∧ SameMemory s t ∧ t.late = s.late ++ [l] ∧
        l.owner = id ∧ l.core = k ∧ l.tag = u.tag ∧ l.epoch = u.epoch ∧ ptrTag l.ptr = 0xF0 ∧ l.off = place ∧ l.device = false ∧
        l.data = (u.data.drop pos).take n ∧ l.full = decide (u.data.length ≤ pos + n) ∧ l.last = (l.full && u.rel) ∧
        ⟨s.cycle, .burstComplete id l.id⟩ ∈ t.agenda ∧ ⟨s.cycle, delivery⟩ ∈ t.agenda ∧
        ∃ x ∈ t.hub.tiles, x.id = id ∧ x.next.getD k 0 = pos + n ∧ x.data = u.data) ∧
      (u.data.length ≤ pos → (∃ l ∈ s.late, l.owner = id ∧ l.core = k) → exec delivery s = .next (s.later 1 delivery)) ∧
      (u.data.length ≤ pos → (∀ l ∈ s.late, l.owner = id → l.core ≠ k) → s.hub.leaves = [] → u.cores = [(k, off)] → u.routers = [] →
        ∃ t : State, exec delivery s = .next t ∧ SameMemory s t ∧ ∀ x ∈ t.hub.tiles, x.id ≠ id)) ∧
    (∀ (pre post : List Late) (l : Late), s.late = pre ++ l :: post → (∀ x ∈ pre ++ post, x.id ≠ l.id) → l.full = true →
      l.device = false → ptrTag l.ptr = 0xF0 → s.coreOf l.core l.tag l.epoch = true → l.data ≠ [] → l.off % 8 + l.data.length ≤ 8 →
      s.memWf = true → (∀ c : Copy, s.copies.get? l.owner = some c → c.cancelled = false) →
      let place (i : Nat) : Nat := (l.off + i) % 2 ^ 17
      let key (i : Nat) : Nat := poolKey l.core (s.reduce l.core (place i))
      let step := Instr.burstComplete l.owner l.id
      (l.last = true → (∃ x ∈ pre ++ post, x.owner = l.owner ∧ x.core = l.core) → exec step s = .next (s.later 1 step)) ∧
      ((∀ x ∈ pre ++ post, x.owner ≠ l.owner) → s.inGap l.core (place 0) = false →
        s.waitq.getD (wordKey l.core (s.reduce l.core (place 0))) [] = [] →
        ∃ t : State, exec step s = .next t ∧ t.late = pre ++ post ∧ t.isFull l.core (s.reduce l.core (place 0)) = true ∧
          (∀ i : Nat, i < l.data.length → t.pool.read (key i) = l.data.getD i 0) ∧
          ∀ a : Nat, (∀ i : Nat, i < l.data.length → a ≠ key i) → t.pool.read a = s.pool.read a)) ∧
    (∀ c : Copy, s.copies.get? id = some c → c.ended = false → (∀ a ∈ c.after, a ∉ s.unperf) →
      let num := c.flags.toNat / 2 ^ 24 % 2 ^ 12
      let cm := s.hub.comms.getD num {}
      let member := (s.core c.core).lcid
      let rowb := shRowb c.shape
      let size := shRows c.shape * rowb
      let es := if shElem c.shape = 0 then 4 else 8
      let contribute := Instr.reduceContribution id
      let has (r : List Nat) : Prop := ∃ i ∈ r, s.contributor cm i = some member
      let waits : Prop := exec contribute s = .next (s.later 8 contribute)
      (cm.state ≠ 1 ∨ cm.part ≠ c.tag ∨ member ∉ cm.members →
        ∃ (t : State) (d : Copy), exec contribute s = .next t ∧ t.copies.get? id = some d ∧ d.ended = true ∧ d.status = some 5 ∧
          SameMemory s t ∧ ⟨s.cycle + 1, .copyCompletion id⟩ ∈ t.agenda) ∧
      (cm.state = 1 → cm.part = c.tag → member ∈ cm.members →
        (∀ (i : Nat) (x : Copy), s.copies.get? i = some x → i < id → x.core = c.core → shType x.shape = 4 → flComm x.flags = num →
          x.ended = false → (∀ r ∈ cm.rounds, i ∉ r) → waits) ∧
        (s.reduceBehind cm id c = false →
          (∀ r1 r2 : List Nat, cm.rounds = [r1, r2] → has r1 → has r2 → waits) ∧
          (cm.rounds.length < 2 ∨ (∃ r ∈ cm.rounds, ¬ has r) →
            let pos := c.data.length
            let place := scratchOff c.src + pos / rowb * c.sstr.toNat + pos % rowb
            let n := min (rowb - pos % rowb) (8 - place % 8)
            let x := engineRead s c.core c.tag c.epoch c.src place n
            (pos < size → s.bad = [] → ∃ (t : State) (d : Copy), exec contribute s = .next t ∧ t.copies.get? id = some d ∧
              d.data = c.data ++ x.1 ∧ d.gap = (c.gap || x.2.1) ∧ d.refused = (c.refused || x.2.2) ∧ SameMemory s t ∧
              ⟨s.cycle, contribute⟩ ∈ t.agenda) ∧
            (size ≤ pos → s.commModules cm = [] →
              (cm.rounds = [] → 1 < cm.members.length →
                ∃ (t : State) (d : Copy), exec contribute s = .next t ∧ t.copies.get? id = some d ∧ d.ended = false ∧
                  (t.hub.comms.getD num {}).rounds = [[id]] ∧ SameMemory s t) ∧
              (∀ (r : List Nat) (cs : List Copy), cm.rounds = [r] → ¬ has r → (r ++ [id]).Nodup → r ≠ [] → cm.members.length = r.length + 1 →
                r.map s.copies.get? = cs.map some →
                ((∃ x ∈ cs, x.shape ≠ c.shape) → ∃ t : State, exec contribute s = .next t ∧ SameMemory s t ∧ t.late = s.late ∧
                  (t.hub.comms.getD num {}).rounds = [] ∧
                  ∀ i ∈ r ++ [id], ∃ d : Copy, t.copies.get? i = some d ∧ d.ended = true ∧ d.status = some 8) ∧
                ((∀ x ∈ cs, x.shape = c.shape ∧ x.data.length = size) → c.data.length = size → 0 < rowb → rowb % es = 0 → cm.op ≠ 3 →
                  ∃ (t : State) (v : List Byte) (ls : List (List Late)), exec contribute s = .next t ∧ SameMemory s t ∧
                    (t.hub.comms.getD num {}).rounds = [] ∧ v.length = size ∧
                    Reduced cm.op es (cs.map Copy.data ++ [c.data]) v ∧ t.late = s.late ++ ls.flatten ∧
                    List.Forall₂ (fun x l => RowWrites x.2 x.1 v l) ((r ++ [id]).zip (cs ++ [c])) ls ∧
                    ∀ i ∈ r ++ [id], ∃ d : Copy, t.copies.get? i = some d ∧ d.ended = true ∧ d.status = some 0 ∧
                      d.bytes = size ∧ ⟨s.cycle + 1, .copyCompletion i⟩ ∈ t.agenda))))))) ∧
    (∀ (p : Packet) (num member : Nat) (shape : Word) (data : List Byte), s.copies.get? id = none → s.packet id = some p →
      s.canArrive p = true → p.body = .contribution num member shape data →
      let cm := s.hub.comms.getD num {}
      (cm.state ≠ 1 ∨ cm.part ≠ p.tag ∨ member ∉ cm.members →
        ∃ t : State, exec (.reduceContribution id) s = .next t ∧ t.copies = s.copies ∧ SameMemory s t ∧
          t.hub.comms = s.hub.comms ∧ t.packet id = none) ∧
      (cm.state = 1 → cm.part = p.tag → member ∈ cm.members → cm.rounds = [] → 1 < cm.members.length →
        ∃ t : State, exec (.reduceContribution id) s = .next t ∧ t.copies = s.copies ∧ SameMemory s t ∧ t.packet id = none ∧
          (t.hub.comms.getD num {}).rounds = [[id]] ∧
          (t.hub.comms.getD num {}).remote.get? id = some ⟨member, shape, data⟩))

/-! ## Interrupts, trap messages, pages and rings -/

/-- R173, R240, R244, R247, R326, R372: at a boundary with nothing pending the due event of lowest cause is entered;
TIMER, MAIL and CANCEL are entered where their conditions hold; WDOG becomes due at its limit and a parked wait is
withdrawn, a remote full/empty operation's at a marker too, whose thread goes on at the bundle that parked it (DESIGN
CHOICE, log entry 101); SCRUB clears its words one at a time and ends with 0 in its register. -/
def Obligations.Interrupts : Prop :=
  ∀ (s : State) (sk fk : Nat), fk < 2 ^ 20 → s.slotOf fk = some sk → (s.slot sk).frame = some fk →
    let f := s.frame fk
    let c := s.core (fk / 64)
    let mail := (c.mail.filter (fun e => e.frame == fk)).length
    let wdog : Due := ⟨0x0D, 0, f.wdogCount.setWidth 64, f.eseq, true⟩
    let expired : Prop := f.wdogLimit ≠ 0 ∧ 1024 * f.wdogLimit.toNat ≤ f.wdogCount.toNat
    (f.outs = [] → f.intrap = false → c.svec ≠ 0 →
      (∀ d : Due, (∀ e ∈ f.due, d.cause ≤ e.cause) → f.due.find? (fun e => e.cause == d.cause) = some d →
        ∃ t : State, exec (.engineTrapEntry sk) s = .next t ∧
          Enters s t fk { cause := d.cause, detail := d.detail, eval := d.eval, imp := d.imp } ∧
          (t.frame fk).due = f.due.erase d ∧ (t.frame fk).eseq = (if d.cause = 0x0B then d.eseq else f.eseq)) ∧
      (c.timerOwner = some fk → c.timer ≠ 0 → c.timer.toNat ≤ (s.guestTime fk).toNat → f.ie = true →
        ∃ t : State, exec (.timerExpiry (fk / 64)) s = .next t ∧ Enters s t fk { cause := 0x0E, eval := c.timer } ∧
          (t.core (fk / 64)).timer = c.timer) ∧
      (f.ie = true → f.mie = true → mail ≠ 0 →
        ∃ t : State, exec (.mailInterrupt sk) s = .next t ∧ Enters s t fk { cause := 0x10, eval := natWord mail }) ∧
      (f.cancelDue = true → f.atMarker = true →
        ∃ t : State, exec (.cancelInterrupt sk) s = .next t ∧ Enters s t fk { cause := 0x14 } ∧ (t.frame fk).cancelDue = false)) ∧
    (f.cancelDue = true → f.atMarker = true → f.intrap = false → c.tvec = 0 → c.svec = 0 →
      ∃ t : State, exec (.cancelInterrupt sk) s = .next t ∧ (t.frame fk).state = .free) ∧
    (f.ie = false ∨ f.intrap = true →
      exec (.mailInterrupt sk) s = .next s ∧ (c.timerOwner = some fk → exec (.timerExpiry (fk / 64)) s = .next s)) ∧
    (¬ expired → exec (.watchdogExpiry fk) s = .next s) ∧
    (expired → ∃ t : State, exec (.watchdogExpiry fk) s = .next t ∧ (t.frame fk).wdogLimit = 0 ∧ SameMemory s t ∧
      wdog ∈ (t.frame fk).due ∧ (f.dueMark = [] → (t.frame fk).due = f.due ++ [wdog]) ∧
      (f.state = .touch ∨ f.state = .waitm → (t.frame fk).state = .resumable ∧
        (∀ key : Nat, ∀ a ∈ (t.future key).waiters, a.frame = fk → a.end_ ≠ frameEnd fk) ∧
        ∃ x ∈ (t.cluster (fk / 64 / 16)).tasks, x.resume = some fk) ∧
      (f.state = .running → (s.slot sk).state = .inPlace → 6 ∉ f.waits → (t.frame fk).waits = [] ∧ (t.slot sk).state = .run) ∧
      (f.state = .running → (s.slot sk).state = .marker → s.markerWaits fk = true → f.trapPend = none →
        (t.frame fk).pc = f.markPc ∧ (∀ o ∈ (t.frame fk).outs, o.fe = true → s.feWaits fk o.id = false) ∧
        ((∀ o ∈ f.outs, o.fe = true ∧ s.feWaits fk o.id = true) → (t.slot sk).state = .run))) ∧
    (∀ x : CoreScrub, s.hub.coreScrubs.find? (fun y => y.id == x.id) = some x → x.core < 2 ^ 14 → x.frame = fk →
      let k := x.core
      let acc := s.accBase k
      let m := 1024 * ((s.core k).pword.toNat / 2 ^ 6 % 2 ^ 7)
      let clears : Prop := x.fn.getLsbD 0 = true ∧ x.next < s.poolS k / 8
      let step := Instr.scrubClearingEnd x.id
      (clears → s.waitq = [] → s.pool.wf = true → ∃ t : State, exec step s = .next t ∧ t.isFull k (8 * x.next) = false ∧
        (∀ a : Nat, t.pool.read (poolKey k a) = if 8 * x.next ≤ a ∧ a < 8 * x.next + 8 then 0 else s.pool.read (poolKey k a)) ∧
        (∃ y ∈ t.hub.coreScrubs, y.id = x.id ∧ y.next = x.next + 1) ∧ ⟨s.cycle + 1, step⟩ ∈ t.agenda) ∧
      (¬ clears → s.scrubWaits x = true → exec step s = .next (s.later 8 step)) ∧
      (¬ clears → s.scrubWaits x = false → ∀ (o : Outst) (rd : BitVec 6), f.outs.find? (fun y => y.id == x.out) = some o →
        o.need = 1 → o.dst = some rd.toNat →
        ∃ t : State, exec step s = .next t ∧ (t.frame fk).rg rd.toNat = 0 ∧
          (∀ a : Nat, t.pool.read (poolKey k a) =
            if x.fn.getLsbD 1 = true ∧ acc ≤ a ∧ a < acc + m then 0 else s.pool.read (poolKey k a)) ∧
          (x.fn.getLsbD 1 = true → ⟨s.cycle + 1, .arrayCommandComplete (k / 16)⟩ ∈ t.agenda) ∧
          (x.fn.getLsbD 2 = true → (t.core k).dtab = [] ∧ (t.core k).order = []) ∧
          (∀ y ∈ t.hub.coreScrubs, y.id ≠ x.id)))

/-- R379 to R382, R401, R402: a trap message takes a place at its Beacon, merges there with a page request that
agrees, or waits at a full one; the hub enters kinds 2 to 4 in the cause table, marks a core with a lasting fault
failed, and makes a page request of kind 1, one for each page and access. An event of no partition is entered with VF 0. While
the cause ring is full an entry that agrees is merged. The model's choices: messages that agree always merge, which R382 allows
(log entry 45), and a request is joined only in its own generation (log entry 48). -/
def Obligations.TrapMessages : Prop :=
  ∀ (s : State) (m : TrapMsg),
    let mine := s.hub.queue.filter (fun x => x.beacon == m.beacon)
    let agrees (x : TrapMsg) : Prop := x.beacon = m.beacon ∧ m.kind = 1 ∧ x.kind = 1 ∧ x.part = m.part ∧ x.die = m.die ∧
      x.edge = m.edge ∧ x.acc = m.acc ∧ x.va = m.va
    let tag := m.part.toNat
    let vf := tag + 1
    let fn := if m.noPart then 0 else vf
    let entry (kind cause count : Nat) : CauseEntry :=
      ⟨BitVec.ofNat 8 kind, BitVec.ofNat 11 fn, BitVec.ofNat 8 cause, BitVec.ofNat 32 count, m.src.setWidth 64, natWord s.time⟩
    let took (t : State) : Prop := t.hub.queue = removeFirst (fun x => x.beacon == m.beacon) s.hub.queue
    (s.hub.beacons.find? (fun x => x.id == m.id) = some m →
      (∀ x ∈ s.hub.beacons, x.id ≠ m.id → x.beacon ≠ m.beacon ∨ x.src ≠ m.src) →
      ((∀ x ∈ s.hub.queue, ¬ agrees x) →
        (mine.length < 64 → ∃ t : State, exec (.trapMessage m.id) s = .next t ∧ t.hub.queue = s.hub.queue ++ [m] ∧
          t.hub.beacons = s.hub.beacons.filter (fun x => x.id ≠ m.id) ∧ ⟨s.cycle + 8, .hubTrapMessage m.beacon⟩ ∈ t.agenda) ∧
        (64 ≤ mine.length → ∃ t : State, exec (.trapMessage m.id) s = .next t ∧ t.hub = s.hub ∧
          ⟨s.cycle + 8, .trapMessage m.id⟩ ∈ t.agenda)) ∧
      (∀ (l1 : List TrapMsg) (x : TrapMsg) (l2 : List TrapMsg), s.hub.queue = l1 ++ x :: l2 → (∀ y ∈ l1, ¬ agrees y) → agrees x →
        ∃ t : State, exec (.trapMessage m.id) s = .next t ∧ t.hub.queue = l1 ++ { x with
          srcmap := x.srcmap ||| m.srcmap, copies := x.copies ++ m.copies, threads := x.threads ++ m.threads } :: l2)) ∧
    (s.hub.queue.find? (fun x => x.beacon == m.beacon) = some m →
      (s.causesHeld = false →
        (m.kind = 2 → ∃ t : State, exec (.hubTrapMessage m.beacon) s = .next t ∧ took t ∧
          t.hub.causes = s.hub.causes ++ [entry 2 0 m.srcmap.toNat]) ∧
        (m.kind = 3 → ∃ t : State, exec (.hubTrapMessage m.beacon) s = .next t ∧ took t ∧
          t.hub.causes = s.hub.causes ++ [entry 3 m.cause.toNat 1]) ∧
        (m.kind = 4 → ∃ t : State, exec (.hubTrapMessage m.beacon) s = .next t ∧ took t ∧
          t.hub.causes = s.hub.causes ++ [entry 4 m.cause.toNat 1] ∧
          (m.page = none → ∀ k : Nat, m.pool = some k → (t.core k).failed = true) ∧
          (∀ p : Nat, m.page = some p → s.hub.retired.length < 256 → p ∈ t.hub.retired) ∧
          (m.noPart = false → ⟨s.cycle + 7000, .containmentDelayExpiry tag⟩ ∈ t.agenda))) ∧
      (s.causesHeld = true → m.kind = 2 → ∀ (l1 : List CauseEntry) (x : CauseEntry) (l2 : List CauseEntry), s.hub.causes = l1 ++ x :: l2 →
        (∀ y ∈ l1, y.vf ≠ BitVec.ofNat 11 fn ∨ y.kind ≠ 2) → x.vf = BitVec.ofNat 11 fn → x.kind = 2 →
        ∃ t : State, exec (.hubTrapMessage m.beacon) s = .next t ∧
          t.hub.causes = l1 ++ { x with count := x.count + BitVec.ofNat 32 m.srcmap.toNat } :: l2) ∧
      (m.kind = 1 →
        let same (r : PageReq) : Bool := r.host == false && r.va == m.va && r.write == (m.acc == 2) && r.gen == (s.vf vf).gen
        (s.canRequestPage tag false = true →
          (((s.vf vf).reqs.any same) = false →
            ∃ (t : State) (r : PageReq), exec (.hubTrapMessage m.beacon) s = .next t ∧ took t ∧ (t.vf vf).reqs = (s.vf vf).reqs ++ [r] ∧ r.va = m.va ∧
              r.write = (m.acc == 2) ∧ r.host = false ∧ r.rid = (s.vf vf).nextRid ∧ r.gen = (s.vf vf).gen ∧ r.sent = false ∧
              r.copies = m.copies ∧ r.threads = m.threads ∧ r.units = [] ∧ (t.vf vf).nextRid = (s.vf vf).nextRid + 1 ∧
              t.hub.causes = s.hub.causes ∧ ⟨s.cycle + 8, .pageRequestRecord r.id⟩ ∈ t.agenda) ∧
          (∀ (l1 : List PageReq) (r : PageReq) (l2 : List PageReq), (s.vf vf).reqs = l1 ++ r :: l2 → (∀ x ∈ l1, same x = false) → same r = true →
            ∃ t : State, exec (.hubTrapMessage m.beacon) s = .next t ∧ took t ∧ (t.vf vf).reqs = l1 ++ { r with
              copies := r.copies ++ m.copies, threads := r.threads ++ m.threads } :: l2)) ∧
        (s.canRequestPage tag false = false → m.copies = [] → m.threads = [] →
          ∃ t : State, exec (.hubTrapMessage m.beacon) s = .next t ∧ took t ∧ (t.vf vf).reqs = (s.vf vf).reqs)))

/-- R92 to R95, R98, R400, R416: the record of a page request goes to slot RID mod 256 of PRRING with a cause entry of
kind 1, behind the translation of the ring's page where ATS is enabled and behind a free place of the cause table. Success lets a stalled copy translate again; Invalid Request ends it with the outcome its walk had; Response
Failure ends all requests and disables page requests; every other response is counted stale and changes no request. -/
def Obligations.PageRequests : Prop :=
  ∀ (s : State) (vf id : Nat) (r : PageReq), s.pageReq? id = some (vf, r) → 0 < vf → vf < 1025 →
    let v := s.vf vf
    let tag := vf - 1
    let at_ := hostKey tag (v.prring.toNat % 2 ^ 56 + 32 * (r.rid % 256))
    let full : Prop := ∃ x ∈ v.reqs, x.sent = true ∧ x.host = false ∧ x.gen = v.gen ∧ x.id ≠ r.id ∧ x.rid % 256 = r.rid % 256
    let names (g : BitVec 16) (host : Bool) : Prop :=
      v.reqs.find? (fun x => x.sent && x.host == host && x.rid == r.rid && x.gen == g) = some r
    let answers (f : BitVec 2 → State → Host.Outcome State Fault Refusal) (host : Bool) : Prop :=
      (names v.gen host → r.threads = [] → r.units = [] → ∀ (j : Nat) (c : Copy), r.copies = [j] → s.copies.get? j = some c → c.cancelled = false →
        (∃ (t : State) (d : Copy), f 0 s = .next t ∧ (t.vf vf).reqs = v.reqs.filter (fun x => x.id ≠ r.id) ∧ t.copies.get? j = some d ∧
          d.stalled = none ∧ d.status = c.status ∧ ⟨s.cycle + 1, .burstAdmission j⟩ ∈ t.agenda) ∧
        (∀ w : Nat, c.stalled = some w → c.status = none →
          (∃ (t : State) (d : Copy), f 1 s = .next t ∧ (t.vf vf).reqs = v.reqs.filter (fun x => x.id ≠ r.id) ∧ t.copies.get? j = some d ∧
            d.status = some (BitVec.ofNat 8 w)) ∧
          (∃ (t : State) (d : Copy), f 2 s = .next t ∧ (t.vf vf).reqs = [] ∧ (t.part tag).pageReq = false ∧ t.copies.get? j = some d ∧
            d.status = some (BitVec.ofNat 8 w)))) ∧
      (v.stale.toNat < 2 ^ 32 - 1 → ∃ t : State, f 3 s = .next t ∧ (t.vf vf).reqs = v.reqs ∧ (t.vf vf).stale = v.stale + 1)
    (r.sent = false → s.hostCanWrite tag = true → s.canRequestPage tag false = true →
      (full → ∃ t : State, exec (.pageRequestRecord id) s = .next t ∧ (t.vf vf).reqs = v.reqs ∧ t.host = s.host ∧
        ⟨s.cycle + 8, .pageRequestRecord id⟩ ∈ t.agenda) ∧
      (s.causeRoom = false → exec (.pageRequestRecord id) s = .next (s.later 8 (.pageRequestRecord id))) ∧
      (¬ full → s.causeRoom = true → s.hostReady tag (v.prring.toNat % 2 ^ 56 + 32 * (r.rid % 256)) = false →
        ∃ (t : State) (q : HostReq), exec (.pageRequestRecord id) s = .next t ∧ t.hub.hostReqs = s.hub.hostReqs ++ [q] ∧ q.ats = true ∧
          q.unit = id ∧ q.write = true ∧ q.vf = vf ∧ q.va = (v.prring.toNat % 2 ^ 56 + 32 * (r.rid % 256)) / 4096 * 4096 ∧
          (t.vf vf).reqs = v.reqs ∧ t.host = s.host) ∧
      (¬ full → s.host.wf = true → s.causeRoom = true → s.hostReady tag (v.prring.toNat % 2 ^ 56 + 32 * (r.rid % 256)) = true →
        ∃ (t : State) (e : CauseEntry), exec (.pageRequestRecord id) s = .next t ∧
          t.host.readLE at_ 8 = r.va % 2 ^ 56 + (if r.write then 2 else 1) * 2 ^ 56 ∧
          t.host.readLE (at_ + 8) 8 = r.rid % 2 ^ 64 ∧ t.host.readLE (at_ + 16) 8 = r.gen.toNat + tag * 2 ^ 16 ∧
          t.host.readLE (at_ + 24) 8 = 0 ∧ (∀ a : Nat, a < at_ ∨ at_ + 32 ≤ a → t.host.read a = s.host.read a) ∧
          (t.vf vf).reqs = v.reqs.map (fun x => if x.id = id then { x with sent := true } else x) ∧
          t.hub.causes = s.hub.causes ++ [e] ∧ e.kind = 1 ∧ e.vf = BitVec.ofNat 11 vf ∧ e.detail = natWord r.rid)) ∧
    (r.sent = false → s.hostCanWrite tag = false → r.units = [] → ∃ t : State, exec (.pageRequestRecord id) s = .next t ∧
      (t.vf vf).reqs = v.reqs.filter (fun x => x.id ≠ id) ∧ t.host = s.host) ∧
    (r.rid < 2 ^ 64 → answers (fun code => exec (.pageResponse vf (natWord r.rid) v.gen code)) false) ∧
    answers (fun code => exec (.prgResponse vf r.rid v.gen code)) true ∧
    (∀ g : BitVec 16, g ≠ v.gen → v.stale.toNat < 2 ^ 32 - 1 → ∃ t : State, exec (.pageResponse vf (natWord r.rid) g 0) s = .next t ∧
      (t.vf vf).reqs = v.reqs ∧ (t.vf vf).stale = v.stale + 1) ∧
    (∀ bits : Word, ∃ t : State, exec (.pageStaleClear vf bits) s = .next t ∧ (t.vf vf).stale = v.stale &&& ~~~ bits.setWidth 32 ∧
      (t.vf vf).staleSat = (v.staleSat && !bits.getLsbD 32) ∧ (t.vf vf).reqs = v.reqs) ∧
    (∀ p : Word, ((s.part tag).scrubbing = false → ∃ t : State, exec (.prring vf p) s = .next t ∧ (t.vf vf).prring = p) ∧
      ((s.part tag).scrubbing = true → ∃ t : State, exec (.prring vf p) s = .next t ∧ (t.vf vf).prring = v.prring ∧
        (t.vf vf).heldWrites = v.heldWrites ++ [⟨.prring vf p⟩])) ∧
    ((∀ q ∈ s.hub.hostReqs, q.id ≠ id) → r.sent = false → r.host = true →
      ((v.reqs.filter (fun x => x.host && x.sent)).length < v.alloc → ∃ t : State, exec (.priPageRequest ⟨id, false⟩) s = .next t ∧
        (t.vf vf).reqs = v.reqs.map (fun x => if x.id = id then { x with sent := true } else x)) ∧
      (v.alloc ≤ (v.reqs.filter (fun x => x.host && x.sent)).length → ∃ t : State, exec (.priPageRequest ⟨id, false⟩) s = .next t ∧
        (t.vf vf).reqs = v.reqs ∧ ⟨s.cycle + 8, .priPageRequest ⟨id, false⟩⟩ ∈ t.agenda))

/-- R98, R99, R263: a completion of the hub's read gives a Geyser thread its word of host memory; an error or a
timeout gives 0 and makes PAGE with outcome 6 and the address due at the marker. A read of a copy's burst gives the burst its
bytes, or its error, and the burst moves when it is the first. A translation that the host returns enters the cache
and its copy goes on; a failed one ends the copy with 6; one that the host cannot give becomes a page request, whose refusal
would be PROT where the host lets the page only be read. R412 to
R417: an update of an enabled ring is counted; at CCOUNT updates, or CTIME after the oldest, a notice of kind 5 with
the pending count, or MSI-X vector 0 for the cause ring, sets the count to 0. With a ring's control block read, the
hub writes the oldest record at its slot and then PROD + 1, waits while the ring is full, waits for the translation of the
slot's page, or drops and counts it; CRCB = 0, or another control block, stops the cause entries. The model's choices: a control
block is read at once and PROD is one dword (log entry 47), a translation covers 4 KiB (log entry 87), a read takes its value
when it completes (log entry 99), and a BASE that is not 64-byte aligned drops the record (log entry 114). -/
def Obligations.HostCompletions : Prop :=
  (∀ (s : State) (q : HostReq), s.hub.hostReqs.find? (fun x => x.id == q.id) = some q →
    let done (t : State) : Prop := t.hub.hostReqs = s.hub.hostReqs.filter (fun x => x.id ≠ q.id)
    exec (.hostCompletionTimeout q.id) s = exec (.hostCompletion q.id true) s ∧
    (∀ (fk : Nat) (o : Outst) (rd : BitVec 6), q.ats = false → q.unit = 0 → q.copy = none → q.frame = some fk →
      (s.frame fk).outs.find? (fun x => x.id == q.id) = some o → o.need = 1 → o.dst = some rd.toNat →
      (∃ t : State, exec (.hostCompletion q.id false) s = .next t ∧ done t ∧
        (t.frame fk).rg rd.toNat = (if rd = 0 then 0 else natWord (s.host.readLE (fnKey q.vf q.va) q.len)) ∧ SameMemory s t) ∧
      (∃ t : State, exec (.hostCompletion q.id true) s = .next t ∧ done t ∧ (t.frame fk).rg rd.toNat = 0 ∧
        ⟨0x0C, 6, natWord (q.eval.toNat % 2 ^ 56), (s.frame fk).eseq, true⟩ ∈ (t.frame fk).dueMark ++ (t.frame fk).due ∧ SameMemory s t)) ∧
    (∀ (id : Nat) (c : Copy) (x : Nat), q.ats = true → q.unit = 0 → q.copy = some (id, x) → q.frame = none →
      s.copies.get? id = some c → c.status = none → c.cancelled = false →
      s.hub.ats.length < 8192 →
      (∃ (t : State) (d : Copy) (e : AtsEntry), exec (.hostCompletion q.id false) s = .next t ∧ done t ∧ t.hub.ats = s.hub.ats ++ [e] ∧ e.vf = q.vf ∧
        e.pasid = q.pasid ∧ e.page = q.va / 4096 ∧ e.invalid = false ∧ e.inUse = 0 ∧ t.copies.get? id = some d ∧ d.stalled = none ∧
        ⟨s.cycle + 1, .burstAdmission id⟩ ∈ t.agenda) ∧
      (∃ (t : State) (d : Copy), exec (.hostCompletion q.id true) s = .next t ∧ done t ∧ t.hub.ats = s.hub.ats ∧ t.copies.get? id = some d ∧
        d.status = some 6) ∧
      ((s.part (q.vf - 1)).pageReq = true → (∀ r ∈ (s.vf q.vf).reqs, r.va ≠ q.va / 4096 * 4096) →
        ∀ readable : Bool, ∃ (t : State) (r : PageReq) (d : Copy), exec (.priPageRequest ⟨q.id, readable⟩) s = .next t ∧ done t ∧
          (t.vf q.vf).reqs = (s.vf q.vf).reqs ++ [r] ∧ r.host = true ∧ r.va = q.va / 4096 * 4096 ∧ r.write = q.write ∧
          r.gen = (s.vf q.vf).gen ∧ r.sent = false ∧ r.copies = [id] ∧ t.copies.get? id = some d ∧
          d.stalled = some (if readable = true ∧ q.write = true then 2 else 1))) ∧
    (∀ (id x : Nat) (c : Copy) (b : Burst) (rest : List Burst) (error : Bool), q.ats = false → q.unit = 0 → q.copy = some (id, x) →
      s.copies.get? id = some c → c.bursts = b :: rest →
      ∃ (t : State) (d : Copy), exec (.hostCompletion q.id error) s = .next t ∧ done t ∧ t.copies.get? id = some d ∧
        d.bursts = c.bursts.map (fun y => if y.id = x then (if error then { y with err := true } else
          { y with got := some (s.host.bytes (fnKey q.vf q.va) q.len) }) else y) ∧
        d.bytes = c.bytes ∧ d.status = c.status ∧ SameMemory s t ∧
        (b.id = x → b.host = true → ⟨s.cycle, .burstComplete id x⟩ ∈ t.agenda))) ∧
  (∀ (s : State) (tag i : Nat), tag ≤ 1024 →
    let r := s.ringOf tag i
    let n := max r.ccount.toNat 1
    let notice (t : State) (count : Nat) : Prop := (t.ringOf tag i).pending = 0 ∧
      (tag = 1024 → t.hub.msix = s.hub.msix ++ [0]) ∧
      (tag < 1024 → s.causesHeld = false → ∃ e : CauseEntry, t.hub.causes = s.hub.causes ++ [e] ∧ e.kind = 5 ∧
        e.vf = BitVec.ofNat 11 (tag + 1) ∧ e.count = BitVec.ofNat 32 count ∧ e.detail = 0)
    (r.en = false → exec (.ringUpdate tag i) s = .next s) ∧
    (r.en = true →
      (n ≤ r.pending + 1 → ∃ t : State, exec (.ringUpdate tag i) s = .next t ∧ notice t (r.pending + 1)) ∧
      (r.pending + 1 < n → ∃ t : State, exec (.ringUpdate tag i) s = .next t ∧
        t.ringOf tag i = { r with pending := r.pending + 1, oldest := if r.pending = 0 then s.time else r.oldest } ∧
        t.hub.causes = s.hub.causes ∧ t.hub.msix = s.hub.msix ∧
        (r.pending = 0 → r.ctime ≠ 0 →
          ⟨s.cycle + (r.ctime.toNat * 7 + 9) / 10, .ringNoticeTimeout tag i⟩ ∈ t.agenda))) ∧
    (r.pending = 0 ∨ r.ctime = 0 ∨ r.en = false → exec (.ringNoticeTimeout tag i) s = .next s) ∧
    (r.pending ≠ 0 → r.ctime ≠ 0 → r.en = true → r.oldest + r.ctime.toNat ≤ s.time →
      ∃ t : State, exec (.ringNoticeTimeout tag i) s = .next t ∧ notice t r.pending) ∧
    (∀ (vf rcb : Nat) (bs : List Byte), vf ≤ 1024 → rcb < 2 ^ 56 → s.ringHead vf rcb = some bs →
      let block (j : Nat) : Nat := s.host.readLE (fnKey vf rcb + 8 * j) 8
      let size := 2 ^ (block 1)
      let good : Prop := 2 ≤ block 1 ∧ block 1 ≤ 20 ∧ block 0 / 2 ^ 56 = 1 ∧ block 0 % 64 = 0 ∧ block 4 = 0 ∧ block 5 = 0 ∧
        block 6 = 0 ∧ block 7 = 0
      let key := fnKey vf rcb
      let cached := (s.hub.cons.getD key 0).toNat
      let used (c : Nat) : Nat := (block 2 + 2 ^ 64 - c) % 2 ^ 64
      let slot := fnKey vf (block 0 % 2 ^ 56 + 32 * (block 2 % size))
      let popped (t : State) : Prop := if vf = 0 then t.hub.causes = s.hub.causes.drop 1
        else (t.part (vf - 1)).completions = removeFirst (fun c => c.ring.toNat % 2 ^ 56 == rcb) (s.part (vf - 1)).completions
      let stands : Prop := vf ≠ 0 ∨ (s.hub.crcb ≠ 0 ∧ s.hub.crcb.toNat % 2 ^ 56 = rcb)
      let ready (va : Nat) : Prop := vf = 0 ∨ s.hostReady (vf - 1) va = true
      let place := block 0 % 2 ^ 56 + 32 * (block 2 % size)
      (stands → ready rcb → (∀ q ∈ s.hub.hostReqs, q.unit ≠ 2 ^ 70 + key) → (∀ q ∈ (s.vf vf).reqs, 2 ^ 70 + key ∉ q.units) →
        ∃ t : State, exec (.ringConsReread key) s = .next t ∧ ∃ q ∈ t.hub.hostReqs, q.vf = vf ∧ q.va = rcb ∧ q.copy = none ∧
          q.frame = none ∧ q.unit = 0 ∧ q.ats = false) ∧
      (∀ q : HostReq, s.hub.hostReqs.find? (fun x => x.id == q.id) = some q → q.ats = false → q.copy = none → q.frame = none → q.vf = vf →
        q.va = rcb → q.unit = 0 →
        (¬ stands → ∃ t : State, exec (.hostCompletion q.id false) s = .next t ∧ t.hub.causes = s.hub.causes ∧ t.host = s.host) ∧
        (stands → (∃ t : State, exec (.hostCompletion q.id true) s = .next t ∧ popped t ∧
          t.hub.rdrop = (if s.hub.rdrop.toNat < 2 ^ 32 - 1 then s.hub.rdrop + 1 else s.hub.rdrop))) ∧
        (stands → ¬ good → s.fnUp vf = true → ∃ t : State, exec (.hostCompletion q.id false) s = .next t ∧ popped t ∧ t.host = s.host ∧
          t.hub.rdrop = (if s.hub.rdrop.toNat < 2 ^ 32 - 1 then s.hub.rdrop + 1 else s.hub.rdrop)) ∧
        (stands → good → s.fnUp vf = true → used cached = size → used (block 3) = size →
          ∃ t : State, exec (.hostCompletion q.id false) s = .next t ∧ s.ringHead vf rcb = t.ringHead vf rcb ∧ t.host = s.host ∧
            t.hub.cons.getD key 0 = natWord (block 3) ∧ ⟨s.cycle + 700, .ringConsReread key⟩ ∈ t.agenda) ∧
        (stands → good → s.fnUp vf = true → used cached ≠ size ∨ used (block 3) ≠ size → ¬ ready place →
          ∃ (t : State) (y : HostReq), exec (.hostCompletion q.id false) s = .next t ∧ t.host = s.host ∧
            s.ringHead vf rcb = t.ringHead vf rcb ∧ y ∈ t.hub.hostReqs ∧ y.ats = true ∧ y.vf = vf ∧ y.va = place / 4096 * 4096 ∧
            y.unit = 2 ^ 70 + key ∧ y.write = true) ∧
        (stands → good → s.fnUp vf = true → used cached ≠ size ∨ used (block 3) ≠ size → ready place → s.host.wf = true → bs.length = 32 →
          block 0 % 2 ^ 56 + 32 * size ≤ 2 ^ 56 → rcb + 64 ≤ 2 ^ 56 →
          (slot + 32 ≤ key ∨ key + 64 ≤ slot) →
          ∃ t : State, exec (.hostCompletion q.id false) s = .next t ∧ popped t ∧ t.host.bytes slot 32 = bs ∧
            t.host.readLE (key + 16) 8 = (block 2 + 1) % 2 ^ 64 ∧
            ∀ a : Nat, (a < slot ∨ slot + 32 ≤ a) → (a < key + 16 ∨ key + 24 ≤ a) → t.host.read a = s.host.read a))))

/-! ## Launches, dispatch, the array, fetch -/

/-- R297, R356 to R360, R370, R408: a launch record is numbered, or dropped and counted; the root refuses it with the
first status that applies, ends it at once where it has no indices, or runs it: its slots take their keys, and each
cluster gets up to 64 indices in order. A launch whose indices and tasks have ended hands its completion record to its
ring, once the hub has room for it. R385, R404: nothing of it happens while the partition is stopped; R399: a failed core has
left the table before a launch is accepted. A budget period sets the partition's counters to 0 as its first cycle begins, and
lets go on what they held. The model's choice (log entry 74): the keys and counters of every slot are set at acceptance, also
while other launches run. -/
def Obligations.Launches : Prop :=
  ∀ (s : State) (tag : Nat), tag < 1024 →
    let vf := tag + 1
    let p := s.part tag
    let sound : Prop := ∀ k ∈ s.partCores tag, (s.core k).failed = false
    let dw (l : Launch) (i : Nat) : Nat := (l.dwords.getD i 0).toNat
    let done (l : Launch) (st : Nat) (t : State) : Prop :=
      (t.part tag).launches = p.launches.filter (fun x => x.lseq ≠ l.lseq) ∧
      (t.part tag).completions = p.completions ++ (if dw l 6 = 0 then [] else
        [⟨natWord (dw l 6), [natWord (0x10 + st * 2 ^ 8 + l.lseq % 2 ^ 32 * 2 ^ 32),
          natWord (l.count + l.faulted % 2 ^ 32 * 2 ^ 32), natWord (l.cancelled % 2 ^ 32), 0]⟩])
    (∀ (whole : Bool) (dwords : List Word),
      ((∀ x ∈ p.launches, x.running = false) → ∃ t : State, exec (.launchRecord vf whole dwords) s = .next t ∧
        ∀ k ∈ t.partCores tag, (t.core k).failed = false) ∧
      (sound → whole = false ∨ p.assigned = false ∨ p.logical = [] → ∃ t : State, exec (.launchRecord vf whole dwords) s = .next t ∧
        t.parts = s.parts ∧ (t.vf vf).badl = (if (s.vf vf).badl.toNat < 2 ^ 32 - 1 then (s.vf vf).badl + 1 else (s.vf vf).badl)) ∧
      (sound → whole = true → p.assigned = true → p.logical ≠ [] → ∃ (t : State) (l : Launch), exec (.launchRecord vf whole dwords) s = .next t ∧
        l.lseq = (s.vf vf).nextLseq.toNat ∧ l.dwords = dwords ∧ l.vf = vf ∧ l.count = dw l 7 % 2 ^ 32 ∧ l.checked = false ∧
        (t.vf vf).nextLseq = (s.vf vf).nextLseq + 1 ∧
        (if p.state = 0 ∧ p.scrubbing = false ∧ p.completions.length < 256 then
          (t.part tag).launches = p.launches ++ p.held ++ [l] ∧ (t.part tag).held = [] ∧ ⟨s.cycle + 16, .launchCheck tag⟩ ∈ t.agenda
        else (t.part tag).launches = p.launches ∧ (t.part tag).held = p.held ++ [l]))) ∧
    (p.state ≠ 0 ∨ p.scrubbing = true → exec (.launchCheck tag) s = .next (s.later 8 (.launchCheck tag))) ∧
    ((∀ x ∈ p.launches, x.running = false) → p.state = 0 → p.scrubbing = false → ∃ t : State, exec (.launchCheck tag) s = .next t ∧
      ∀ k ∈ t.partCores tag, (t.core k).failed = false) ∧
    (∀ l : Launch, p.launches.find? (fun x => !x.checked) = some l → sound → p.state = 0 → p.scrubbing = false →
      (dw l 6 ≠ 0 → 256 ≤ p.completions.length → exec (.launchCheck tag) s = .next (s.later 8 (.launchCheck tag))) ∧
      (dw l 6 = 0 ∨ p.completions.length < 256 →
      let runs := p.launches.filter (fun x => x.checked && x.status.isNone)
      let pw := dw l 7 / 2 ^ 32 % 2 ^ 18
      let f := pw % 2 ^ 6
      let use := 8192 + 1152 * f + 1024 * (pw / 2 ^ 6 % 2 ^ 7) + 1024 * (pw / 2 ^ 13) + 4096
      let bad1 : Prop := f < 8 ∨ pw / 2 ^ 13 = 0 ∨ 131072 < use ∨ 131072 + 8192 - use < f * (16 * (dw l 7 / 2 ^ 50 % 2 ^ 11))
      let bad2 : Prop := (dw l 0).testBit 5 = true ∨ dw l 7 / 2 ^ 61 ≠ 0
      let bad3 : Prop := ∃ x ∈ runs, dw x 7 / 2 ^ 32 % 2 ^ 18 ≠ pw
      let bad4 : Prop := ((dw l 0).testBit 56 = true ∧ runs ≠ []) ∨ ∃ x ∈ runs, (dw x 0).testBit 56 = true
      let refuses (st : Nat) : Prop := ∃ t : State, exec (.launchCheck tag) s = .next t ∧ done l st t ∧ t.clusters.keys = s.clusters.keys
      (bad1 → refuses 1) ∧ (¬ bad1 → bad2 → refuses 2) ∧ (¬ bad1 → ¬ bad2 → bad3 → refuses 3) ∧
      (¬ bad1 → ¬ bad2 → ¬ bad3 → bad4 → refuses 4) ∧
      (¬ bad1 → ¬ bad2 → ¬ bad3 → ¬ bad4 → l.count = 0 → ∃ t : State, exec (.launchCheck tag) s = .next t ∧ done l 0 t) ∧
      (¬ bad1 → ¬ bad2 → ¬ bad3 → ¬ bad4 → l.count ≠ 0 → (∀ x ∈ p.launches, x.lseq = l.lseq → x = l) → ∃ (t : State) (l' : Launch), exec (.launchCheck tag) s = .next t ∧
        t.launch tag l.lseq = some l' ∧ l'.checked = true ∧ l'.certWait = (dw l 0).testBit 57 ∧ l'.count = l.count ∧
        (runs = [] → ∀ k ∈ s.partCores tag, (t.core k).pword.toNat = pw ∧ (t.core k).det = (dw l 0).testBit 56) ∧
        (∀ k ∈ s.partCores tag, ∀ n : Nat, n < 8 → (t.slot (k * 8 + n)).rctr = 0 ∧ (t.slot (k * 8 + n)).rkey.toNat =
          p.seed.toNat / 2 ^ 25 * 2 ^ 25 + (8 * (s.core k).lcid + n) % 2 ^ 25) ∧
        ((dw l 0).testBit 57 = true → l'.next = l.next ∧ ⟨s.cycle + 16, .certificateSigned tag⟩ ∈ t.agenda) ∧
        ((dw l 0).testBit 57 = false → (dw l 0).testBit 56 = false → ∀ q : Nat, s.partClusters tag = [q] →
          l'.next = l.next + min 64 (l.count - l.next) ∧
          (l.next < l.count → (t.cluster q).ranges = (s.cluster q).ranges ++
            [⟨BitVec.ofNat 10 tag, l.lseq, l.next, l.next + min 64 (l.count - l.next), l.next⟩]) ∧
          (l.count ≤ l.next → (t.cluster q).ranges = (s.cluster q).ranges ∧ q ∈ l'.asking))))) ∧
    (∀ (l : Launch) (q : Nat), s.launch tag l.lseq = some l → p.state = 0 → p.scrubbing = false →
      (l.next < l.count → ∃ (t : State) (l' : Launch), exec (.launchRangeRequest tag l.lseq q) s = .next t ∧ t.launch tag l.lseq = some l' ∧
        l'.next = min (l.next + 64) l.count ∧ (t.cluster q).ranges = (s.cluster q).ranges ++
          [⟨BitVec.ofNat 10 tag, l.lseq, l.next, min (l.next + 64) l.count, l.next⟩]) ∧
      (l.count ≤ l.next → ∃ (t : State) (l' : Launch), exec (.launchRangeRequest tag l.lseq q) s = .next t ∧ t.launch tag l.lseq = some l' ∧
        l'.next = l.next ∧ q ∈ l'.asking ∧ t.clusters = s.clusters)) ∧
    (∀ l : Launch, s.launch tag l.lseq = some l →
      (s.launchOver tag l = true → dw l 6 = 0 ∨ p.completions.length < 256 →
        ∃ t : State, exec (.launchCompletion tag l.lseq) s = .next t ∧ done l 0 t) ∧
      (s.launchOver tag l = true → dw l 6 ≠ 0 → 256 ≤ p.completions.length →
        exec (.launchCompletion tag l.lseq) s = .next (s.later 8 (.launchCompletion tag l.lseq))) ∧
      (l.live ≠ 0 ∨ (l.next < l.count ∧ (dw l 0).testBit 56 = false) → exec (.launchCompletion tag l.lseq) s = .next s)) ∧
    (∀ u : State, u = s.startPeriod →
      (∀ ch : Nat, (u.geyser ch).bytes = []) ∧ (∀ q : Nat, (u.cluster q).dispatched = [] ∧ (u.cluster q).leaseCycles = []) ∧
      (u.part tag).fabric = 0 ∧ (u.part tag).k = (if (s.parts.get? tag).isSome then p.kNext else p.k)) ∧
    (s.time / 1000 ≠ s.tick.time / 1000 → (s.tick.part tag).fabric = 0 ∧ (∀ ch : Nat, (s.tick.geyser ch).bytes = []) ∧
      ⟨s.tick.cycle, .budgetPeriod⟩ ∈ s.tick.agenda) ∧
    (∃ t : State, exec .budgetPeriod s = .next t ∧
      (∀ (fk : Nat) (x : Frame), s.frames.get? fk = some x → x.waits = [12] → (t.frame fk).waits = []) ∧
      (∀ (q : Nat) (x : Cluster), s.clusters.get? q = some x → ⟨s.cycle + 1, .taskDispatch q⟩ ∈ t.agenda ∧ ⟨s.cycle + 1, .leaseGrant q⟩ ∈ t.agenda))

/-- R45, R126, R165, R363 to R368: a Lamplighter places at most one task in a cycle, of the highest priority and the
oldest of it, but one of a lower after 32 passed over; a new task finds the registers of R165. A prefetch reserves a
frame and starts a copy for each tile; its end makes the task ready, or FAULTED with cause ENGINE. A theft moves one
task; an idle Lamplighter that finds none asks again 64 cycles later (the model's choice, log entry 53). -/
def Obligations.Dispatching : Prop :=
  ∀ (s : State) (q : Nat), q < 1024 →
    let c := s.cluster q
    let picks (x : Task) (pl : Place) (n : Nat) (t : State) : Prop :=
      (t.cluster q).tasks = c.tasks.filter (fun y => y.id ≠ x.id) ∧ (t.cluster q).passed = n ∧
      (t.cluster q).placedAt = some s.cycle ∧ (t.slot pl.slot).frame = some pl.frame ∧ (t.slot pl.slot).state = .run ∧
      (t.frame pl.frame).state = .running
    (s.fillCluster q = s →
      (c.placedAt = some s.cycle → exec (.taskDispatch q) s = .next (s.later 1 (.taskDispatch q))) ∧
      (c.placedAt ≠ some s.cycle →
        (∀ (x : Machine.Task) (pl : Place), c.tasks = [x] → x.lane = none → s.placeOf q x = some pl →
          (s.slot pl.slot).state = .free ∧ pl.slot / 8 = frameCore pl.frame ∧
          ∃ t : State, exec (.taskDispatch q) s = .next t ∧ picks x pl 0 t ∧
            (pl.kind = 0 → (x.present = [] → s.frameFree pl.frame = true) ∧
              let f := t.frame pl.frame
              let ss := ((s.launch x.tag.toNat x.lseq).map (fun l => 16 * ((l.dwords.getD 7 0).toNat / 2 ^ 50 % 2 ^ 11))).getD 0
              (∀ i : Nat, 1 ≤ i → i ≤ 6 → f.rg i = x.args.getD (i - 1) 0) ∧ f.rg 7 = x.g7 ∧
              (∀ i : Nat, i < 4 → f.rg (8 + i) = (match x.tiles[i]? with
                | some d => if tilePresent d then natWord (tileExtent d).1 else 0 | none => 0)) ∧
              (ss ≠ 0 → f.rg 62 = natWord (s.poolS (frameCore pl.frame) - frameNum pl.frame * ss)) ∧ (ss = 0 → f.rg 62 = 0) ∧
              f.pc = x.entry ∧ f.status = 0 ∧ f.estat = 0 ∧ f.ecause = 0 ∧ f.fut = x.fut ∧ f.join = x.join ∧ f.prio = x.prio ∧
              f.index = x.index ∧ f.task = x.entry ∧ f.wdogCount = 0 ∧ f.wdogLimit = (s.part x.tag.toNat).wdog ∧
              (x.freeFormats = false → f.fmta = x.fmta ∧ f.fmtb = x.fmtb ∧ f.scale = x.scale ∧ f.rowmask = x.rowmask) ∧
              (t.slot pl.slot).cpshape = 0 ∧ (t.slot pl.slot).qbind = 0 ∧ (t.slot pl.slot).rkey = (s.slot pl.slot).rkey)) ∧
        (∀ (x y : Machine.Task) (px py : Place), c.tasks = [x, y] → x.id ≠ y.id → x.lane = none → y.lane = none → x.order < y.order →
          s.placeOf q x = some px → s.placeOf q y = some py →
          (x.prio = y.prio → ∃ t : State, exec (.taskDispatch q) s = .next t ∧ picks x px 0 t) ∧
          (x.prio.toNat < y.prio.toNat → c.passed ≠ 32 → ∃ t : State, exec (.taskDispatch q) s = .next t ∧ picks y py (c.passed + 1) t) ∧
          (x.prio.toNat < y.prio.toNat → c.passed = 32 → ∃ t : State, exec (.taskDispatch q) s = .next t ∧ picks x px 0 t)))) ∧
    (∀ (x : Machine.Task) (fk : Nat) (d : Word × Word), (c.tasks.filter (fun t => t.target.isSome && !t.cancelled)).length < 64 → s.nextPrefetch q = some (x, fk) →
      x.present = [d] → c.prefetches < 256 →
      ∃ (t : State) (id : Nat) (k : Copy), exec (.tilePrefetchStart q) s = .next t ∧ t.copies = s.copies.put id k ∧ k.purpose = .prefetch q x.id ∧
        k.core = frameCore fk ∧ k.frame = fk ∧ k.tag = x.tag ∧ k.src = natWord (d.1.toNat % 2 ^ 56) ∧
        k.dst = natWord (0xF0 * 2 ^ 56 + d.2.toNat / 2 ^ 42 % 2 ^ 17) ∧
        k.shape = natWord (d.2.toNat % 2 ^ 10 + 1 + d.2.toNat / 2 ^ 10 % 2 ^ 12 * 8 * 2 ^ 16) ∧
        k.sstr = natWord (d.2.toNat / 2 ^ 22 % 2 ^ 20 * 8) ∧ k.dstr = natWord (d.2.toNat / 2 ^ 10 % 2 ^ 12 * 8) ∧
        s.frameFree fk = true ∧ (t.cluster q).prefetches = c.prefetches + 1 ∧
        (t.cluster q).tasks = c.tasks.map (fun y => if y.id = x.id then
          { x with target := some fk, regions := [tileExtent d], prefetching := [id] } else y)) ∧
    (∀ (id : Nat) (k : Copy) (n : Nat), s.copies.get? id = some k → k.purpose = .prefetch q n → k.ended = true → ∀ x : Machine.Task, c.tasks.find? (fun t => t.id == n) = some x →
      x.cancelled = false →
      (k.status.getD 0 = 0 → ∃ t : State, exec (.prefetchCompletion id) s = .next t ∧ t.copies = s.copies.del id ∧
        (t.cluster q).prefetches = c.prefetches - 1 ∧ (t.cluster q).tasks = c.tasks.map (fun y => if y.id = n then
          { x with prefetching := x.prefetching.erase id } else y)) ∧
      (k.status.getD 0 ≠ 0 → x.prefetching = [id] → handleModule x.fut = s.module.toNat → handleCluster x.fut = q →
        (s.future (handleKey x.fut)).state = .pending → handleDist (s.future (handleKey x.fut)) x.fut = 0 →
        (s.future (handleKey x.fut)).dropped = false →
        ∃ t : State, exec (.prefetchCompletion id) s = .next t ∧ (∀ y ∈ (t.cluster q).tasks, y.id ≠ n) ∧
          (t.future (handleKey x.fut)).state = .faulted ∧
          (t.future (handleKey x.fut)).value = natWord (0x0B + (k.status.getD 0).toNat * 2 ^ 8))) ∧
    ((∀ x ∈ c.tasks, s.placeOf q x = none) →
      (∀ (v : Nat) (x : Machine.Task), s.findTheft q = some (v, x) → v ≠ q → x ∈ (s.cluster v).tasks ∧ x.resume = none ∧ x.target = none ∧
        ∃ (t : State) (y : Machine.Task), exec (.stealRequest q) s = .next t ∧ (t.cluster v).tasks = (s.cluster v).tasks.filter (fun z => z.id ≠ x.id) ∧
          (t.cluster q).tasks = c.tasks ++ [y] ∧ y = { x with order := y.order } ∧ (∀ z ∈ c.tasks, z.order < y.order)) ∧
      (s.findTheft q = none → s.mayStealAny q = true → exec (.stealRequest q) s = .next (s.later 64 (.stealRequest q))) ∧
      (s.findTheft q = none → s.mayStealAny q = false → exec (.stealRequest q) s = .next s)) ∧
    ((∃ x ∈ c.tasks, (s.placeOf q x).isSome) → exec (.stealRequest q) s = .next (s.later 1 (.taskDispatch q)))

/-- R64, R65, R300, R304, R308 to R310, R315, R316, R322, R323, R326: an E operation takes the core's next sequence
number, its ring entry, a token entry where it bears one, and a place in the queue, with its operands as read at
issue; while its task is flushed it is FLUSHED at once. ALEASE waits for its grant. In a cluster that is not all its
partition's these raise ILLEGAL. QPUSH pushes to its FIFO (R66); that it waits in place until its thread's earlier accesses have
been performed is the model's choice (log entry 17), and a FENCE holds it. -/
def Obligations.ArrayIssue : Prop :=
  ∀ (s : State) (o : Ord) (tk acq sat skip rm clr tr : Bool) (e wd : BitVec 4) (p : BitVec 5) (v : View) (ga gb l : BitVec 6)
    (rs m : BitVec 11) (n8 m8 : BitVec 8) (kk : BitVec 10) (aoff : BitVec 14) (md : DrainMode) (sc : BitVec 3)
    (imm : BitVec 32) (q : BitVec 3), s.cur.fk < 2 ^ 20 → 2 ≤ q.toNat →
    let fk := s.cur.fk
    let k := s.curCore
    let c := s.core k
    let seq := c.eseqNext
    let whole : Prop := ∀ j : Nat, j < 16 → (s.core (k / 16 * 16 + j)).tag = s.frameTag fk ∧
      (s.core (k / 16 * 16 + j)).epoch = s.frameEpoch fk ∧ s.frameEpoch fk ≠ 0 ∧
      k / 16 * 16 + j ∉ (s.part (s.frameTag fk).toNat).left
    let ops : List (Instr × Word × Word × Bool × Nat × Nat) :=
      [(.arel, 0, 0, false, 0, 1), (.aset o tk e p sat skip rm, 0, 0, tk, o.scope.toNat, 2),
       (.aldb o tk v ga gb rs n8 kk, s.pg ga, s.pg gb, tk, o.scope.toNat, 3),
       (.astr o tk v ga aoff rs m, s.pg ga, 0, tk, o.scope.toNat, 4),
       (.adrn o tk v ga aoff n8 m8 wd clr tr md, s.pg ga, 0, tk, o.scope.toNat, 5),
       (.azero o tk aoff n8 m8, 0, 0, tk, o.scope.toNat, 6), (.amark acq sc imm, 0, 0, true, sc.toNat, 7)]
    let st := (c.ring.getD (seq.toNat % 64) (0, 0)).1.toNat / 2 ^ 23 % 2 ^ 3
    let held (b : Bool) : Prop := s.engineHeld = true ∨ (1 ≤ st ∧ st ≤ 3) ∨
      (b = true ∧ (8 ≤ (c.tokens.filter (fun t => t.frame == fk)).length ∨ 64 ≤ c.tokens.length))
    let cmd (i : Instr) (a b : Word) (t : Bool) : ACmd :=
      ⟨seq, k, fk, i, a, b, t, s.cur.pre.rowmask, s.copyAfter false, s.accIds fk, false⟩
    let fifo := ((s.cur.slot.qbind.toNat / 2 ^ (7 * (q.toNat - 2))) % 2 ^ 6)
    let bound : Prop := s.cur.slot.qbind.toNat / 2 ^ (7 * (q.toNat - 2) + 6) % 2 = 1
    let x := s.fifo (k / 16 * 64 + fifo)
    (¬ whole → ∀ i ∈ Instr.alease l :: ops.map (·.1), exec i s = .next (s.trap { cause := 0x01, eval := 0 })) ∧
    (whole → ∀ y ∈ ops, scopeTrap s y.2.2.2.2.1 = none → s.scopeLimited y.2.2.2.2.1 = false →
      (held y.2.2.2.1 → ∃ t : State, exec y.1 s = .next t ∧ t.cf.pc = s.cur.bpc ∧ t.core k = c ∧ t.cur.stopped = true) ∧
      (¬ held y.2.2.2.1 →
        (s.cf.flushing = false ∨ y.1 = .arel → ∃ t : State, exec y.1 s = .next t ∧ SameThread s t ∧
          (t.core k).acmds = c.acmds ++ [cmd y.1 y.2.1 y.2.2.1 y.2.2.2.1] ∧ (t.core k).eseqNext = seq + 1 ∧
          RingEntry (t.core k) seq y.2.2.2.2.2 2 0 ∧
          (∀ j : Nat, j ≠ seq.toNat % 64 → (t.core k).ring.get? j = c.ring.get? j) ∧
          (t.core k).tokens.map (fun u => (u.frame, u.placed)) = c.tokens.map (fun u => (u.frame, u.placed)) ++
            (if y.2.2.2.1 then [(fk, false)] else [])) ∧
        (s.cf.flushing = true → y.1 ≠ .arel → (∀ a ∈ c.acmds, a.seq ≠ seq) → ∃ t : State, exec y.1 s = .next t ∧
          (t.core k).acmds = c.acmds ∧ (t.core k).eseqNext = seq + 1 ∧ RingEntry (t.core k) seq y.2.2.2.2.2 6 5))) ∧
    (whole → ¬ held false → (s.cf.held.get? 5).isNone → 5 ∉ s.cf.waits →
      ∃ t : State, exec (.alease l) s = .next t ∧ (t.core k).acmds = c.acmds ++ [cmd (.alease l) 0 0 false] ∧ 5 ∈ t.cf.waits ∧
        (t.slot s.cur.sk).state = .inPlace ∧ t.cf.pc = s.cur.bpc ∧ RingEntry (t.core k) seq 0 2 0 ∧ SameThread s t) ∧
    (whole → (s.cf.held.get? 5).isSome → s.cf.waits = [] → exec (.alease l) s = .next s) ∧
    (¬ bound → exec (.qpush q ga) s = .next (s.trap { cause := 0x01, eval := natWord q.toNat })) ∧
    (bound → s.accIds fk ≠ [] → s.cf.waits = [] → (s.cf.held.get? 4).isNone → ∃ t : State, exec (.qpush q ga) s = .next t ∧
      t.fifos = s.fifos ∧ t.cf.waits = [11] ∧ (t.slot s.cur.sk).state = .inPlace ∧ t.cf.pc = s.cur.bpc) ∧
    (bound → s.accIds fk = [] → x.owner ≠ some (s.frameTag fk) → s.cf.waits = [] → (s.cf.held.get? 4).isNone →
      ∃ t : State, exec (.qpush q ga) s = .next t ∧ t.fifos = s.fifos ∧ t.cf.estat = s.cf.estat ||| 4 ∧ SameThread s t ∧
        t.cur.stopped = s.cur.stopped) ∧
    (bound → s.accIds fk = [] → x.owner = some (s.frameTag fk) → s.cf.waits = [] → (s.cf.held.get? 4).isNone → x.waiting = [] →
      x.pushedAt ≠ some s.cycle →
      (x.items.length < 16 → ∃ t : State, exec (.qpush q ga) s = .next t ∧
        (t.fifo (k / 16 * 64 + fifo)).items = x.items ++ [s.pg ga] ∧ (t.fifo (k / 16 * 64 + fifo)).waiting = [] ∧
        t.cf.waits = [] ∧ t.cur.stopped = s.cur.stopped ∧ SameMemory s t) ∧
      (16 ≤ x.items.length → ∃ t : State, exec (.qpush q ga) s = .next t ∧ (t.fifo (k / 16 * 64 + fifo)).items = x.items ∧
        (t.fifo (k / 16 * 64 + fifo)).waiting = [⟨fk, 4, some (s.pg ga)⟩] ∧ 4 ∈ t.cf.waits ∧
        (t.slot s.cur.sk).state = .inPlace ∧ t.cf.pc = s.cur.bpc))

/-- R129, R301 to R307, R312, R313, R317 to R321, R326: a grant gives a lease of the length asked for with neither configuration
nor tile; it expires after 8,192 cycles. The holder's next command begins when the accesses that it waits for have been
performed; it reads its words one at a time, and at the end of its cycles does over these what its rule says to the
configuration, the B tile or the accumulators, or begins the writes of a drain, and completes when they have been performed; no
other byte changes. A row that is not good ends ASTR with FORMAT after the rows before it; a command without a configuration ends
with NOCFG; both raise ENGINE and flush their task. -/
def Obligations.ArrayRuns : Prop :=
  (∀ (s : State) (q : Nat), q < 1024 →
    let cl := s.cluster q
    (∀ (a : ACmd) (len : BitVec 6), cl.lease = none → cl.running = none → s.nextGrant q = some a → (∀ j : Nat, j < 16 → (s.core (q * 16 + j)).preempted = false) →
      a.core / 16 = q → (s.core a.core).acmds = [a] →
      (∀ j : Nat, j < 16 → q * 16 + j ≠ a.core → (s.core (q * 16 + j)).acmds = []) → a.op = .alease len → a.token = false →
      11 ∉ (s.frame a.frame).waits →
      let new : Lease := { core := a.core, frame := a.frame, remaining := len.toNat + 1, granted := s.cycle }
      ∃ t : State, exec (.leaseGrant q) s = .next t ∧ (t.cluster q).lease = some new ∧ ⟨s.cycle + 8192, .leaseExpiry q⟩ ∈ t.agenda ∧
        (t.core a.core).acmds = [] ∧ (t.frame a.frame).waits = (s.frame a.frame).waits.erase 5 ∧
        (t.frame a.frame).held.get? 5 = some 0) ∧
    (∀ l : Lease, cl.lease = some l → (s.cycle < l.granted + 8192 → exec (.leaseExpiry q) s = .next s) ∧
      (l.granted + 8192 ≤ s.cycle →
        (cl.running.isSome → ∃ t : State, exec (.leaseExpiry q) s = .next t ∧ (t.cluster q).lease = some { l with ending := true } ∧
          (t.cluster q).running = cl.running) ∧
        (cl.running = none → ∃ t : State, exec (.leaseExpiry q) s = .next t ∧ (t.cluster q).lease = none))) ∧
    (∀ (a : ACmd) (l : Lease), cl.lease = some l → a.core / 16 = q → a.orphan = false → a.token = false → l.frame = a.frame →
      l.core = a.core → l.ending = false → s.cycle < l.granted + 8192 → (s.core a.core).acmds = [a] →
      (∀ j : Nat, j < 16 → q * 16 + j ≠ a.core → (s.core (q * 16 + j)).acmds = []) → s.bad = [] →
      let done := Instr.arrayCommandComplete q
      (cl.running = none → isCounted a.op = true → (s.core a.core).preempted = false → s.hub.coreScrubs = [] →
        ((∀ x ∈ a.after ++ a.before, x ∉ s.unperf) → ∃ t : State, exec done s = .next t ∧ SameMemory s t ∧
          (t.cluster q).running = some a ∧ (t.cluster q).run.todo = s.cmdWords a l ∧ (t.cluster q).run.read = [] ∧
          (t.cluster q).run.done = none ∧ ((t.core a.core).ring.getD (a.seq.toNat % 64) (0, 0)).1.toNat / 2 ^ 23 % 2 ^ 3 = 3) ∧
        ((∃ x ∈ a.after, x ∈ s.unperf) → ∃ t : State, exec done s = .next t ∧ (t.cluster q).running = none ∧
          ⟨s.cycle + 8, done⟩ ∈ t.agenda)) ∧
      (cl.running = some a → ∀ (k off : Nat) (ws : List (Nat × Nat)), cl.run.todo = (k, off) :: ws →
        ∃ t : State, exec done s = .next t ∧ SameMemory s t ∧ (t.cluster q).running = some a ∧ ⟨s.cycle, done⟩ ∈ t.agenda ∧
          (t.cluster q).run = { cl.run with todo := ws, read := cl.run.read ++
            [(poolKey k (off / 8 * 8), (List.range 8).map (fun i => s.pool.read (poolKey k (off / 8 * 8) + i)))] }) ∧
      (cl.running = some a → cl.run.todo = [] → cl.run.done.isSome = true → (∃ x ∈ s.late, x.owner = cl.run.id) →
        exec done s = .next (s.later 1 done))) ∧
    (∀ (a : ACmd) (l : Lease), cl.running = some a → cl.lease = some l → a.core / 16 = q → a.orphan = false →
      a.token = false → l.frame = a.frame → l.core = a.core → l.ending = false → 2 ≤ l.remaining → s.cycle < l.granted + 8192 →
      l.lastAstr = false → cl.run.todo = [] → (∀ x ∈ s.late, x.owner ≠ cl.run.id) → s.bad = [] →
      (s.core a.core).acmds = [a] → (∀ j : Nat, j < 16 → q * 16 + j ≠ a.core → (s.core (q * 16 + j)).acmds = []) →
      (∀ j : Nat, j < 16 → pwOk (s.core (q * 16 + j)).pword = true) → s.memWf = true →
      let k := a.core
      let vs := s.asRead cl.run
      let code (t : State) : Nat := ((t.core k).ring.getD (a.seq.toNat % 64) (0, 0)).1.toNat / 2 ^ 23 % 2 ^ 11
      let fails (t : State) (status : Nat) : Prop := exec (.arrayCommandComplete q) s = .next t ∧ code t = 5 + status * 2 ^ 3 ∧
        (t.frame a.frame).due = (s.frame a.frame).due ++ [⟨0x0B, BitVec.ofNat 8 status, natWord status, a.seq.setWidth 17, true⟩] ∧
        (t.frame a.frame).flushing = true
      let ok (t : State) (h : Lease → Prop) : Prop := exec (.arrayCommandComplete q) s = .next t ∧ (t.cluster q).running = none ∧
        (t.core k).acmds = [] ∧ code t = 4 ∧ ∃ y : Lease, (t.cluster q).lease = some y ∧ y.remaining = l.remaining - 1 ∧ h y
      let acc (aoff nc i j : Nat) : Nat :=
        poolKey (q * 16 + j % 16) (s.accBase (q * 16 + j % 16) + 8 * aoff + 4 * (i * nc + j / 16))
      let ident (e : BitVec 4) : Nat :=
        if e = 2 then 0xFF800000 else if e = 3 ∨ e = 6 then 0xFFFFFFFF else if e = 4 then 0x80000000 else 0
      (∀ r : Nat × BitVec 32 × Nat × Nat, cl.run.done = some r → r.1 = 0 →
        ∃ t : State, ok t (fun y => y.config = l.config ∧ y.tile = l.tile) ∧ SameMemory s t ∧
          (t.frame a.frame).estat = (s.frame a.frame).estat ||| r.2.1) ∧
      (cl.run.done = none → cl.runningUntil ≤ s.cycle →
      (∀ (o : Sys2Proof.Ord) (tk : Bool) (e : BitVec 4) (p : BitVec 5) (sat skip rm : Bool), a.op = .aset o tk e p sat skip rm → ∃ t : State, ok t (fun y => y.config = some a ∧ y.tile = l.tile) ∧
        SameMemory s t) ∧
      (l.config = none → (∃ (o : Sys2Proof.Ord) (tk : Bool) (v : View) (ga : BitVec 6) (aoff : BitVec 14) (rs m : BitVec 11), a.op = .astr o tk v ga aoff rs m) ∨ (∃ (o : Sys2Proof.Ord) (tk : Bool) (aoff : BitVec 14) (n m : BitVec 8), a.op = .azero o tk aoff n m) ∨
        (∃ (o : Sys2Proof.Ord) (tk : Bool) (v : View) (ga gb : BitVec 6) (rs : BitVec 11) (n : BitVec 8) (kk : BitVec 10), a.op = .aldb o tk v ga gb rs n kk) ∨
        (∃ (o : Sys2Proof.Ord) (tk : Bool) (v : View) (ga : BitVec 6) (aoff : BitVec 14) (n m : BitVec 8) (wd : BitVec 4) (clr tr : Bool) (md : DrainMode), a.op = .adrn o tk v ga aoff n m wd clr tr md) →
        ∃ t : State, fails t 1 ∧ SameMemory s t) ∧
      (∀ (cfg : ACmd) (o : Sys2Proof.Ord) (tk : Bool) (e : BitVec 4) (p : BitVec 5) (sat skip rm : Bool), l.config = some cfg → cfg.op = .aset o tk e p sat skip rm →
        (∀ (o : Sys2Proof.Ord) (tk : Bool) (v : View) (ga gb : BitVec 6) (rs : BitVec 11) (n : BitVec 8) (kk : BitVec 10) (rows : List (List PRec)), a.op = .aldb o tk v ga gb rs n kk →
          let w := bytesNat (vs.viewBytes a v (a.ga.toNat % 2 ^ 21) 8) / 2 ^ 8 % 2 ^ 8
          let mask := bytesNat (vs.viewBytes a v (a.gb.toNat % 2 ^ 21) 32)
          let nrec := (kk.toNat + 1 + 47) / 48
          let slot := recSlot (entCls e.toNat) w
          (entRange e.toNat).1 ≤ w → w ≤ (entRange e.toNat).2 → (rs = 0 ∨ nrec * slot ≤ 8 * rs.toNat) →
          rows.length = n.toNat + 1 →
          (∀ i : Nat, i ≤ n.toNat → ∃ r : List PRec, rows[i]? = some r ∧
            goodRow e.toNat w (vs.rowRecs a v (a.ga.toNat % 2 ^ 21 + i * 8 * rs.toNat) nrec slot) = some r) →
          ∃ t : State, ok t (fun y => y.config = l.config ∧ ∃ b : BTile, y.tile = some b ∧ b.k = kk.toNat + 1 ∧ b.n = n.toNat + 1 ∧ b.cols = rows ∧
            b.enabled = (List.range (n.toNat + 1)).map (fun c => gb == 0 || mask.testBit c)) ∧ SameMemory s t) ∧
        (∀ (o : Sys2Proof.Ord) (tk : Bool) (aoff : BitVec 14) (n m : BitVec 8), a.op = .azero o tk aoff n m → let nc := (n.toNat + 16) / 16
          s.accFits q aoff.toNat (m.toNat + 1) nc = true →
          ∃ t : State, ok t (fun y => y = { l with remaining := l.remaining - 1 }) ∧
            (∀ i j : Nat, i ≤ m.toNat → j ≤ n.toNat → t.pool.readLE (acc aoff.toNat nc i j) 4 = ident e) ∧
            (∀ x : Nat, (∀ i j : Nat, i ≤ m.toNat → j ≤ n.toNat → x < acc aoff.toNat nc i j ∨ acc aoff.toNat nc i j + 4 ≤ x) →
              t.pool.read x = s.pool.read x)) ∧
        (∀ (o : Sys2Proof.Ord) (tk : Bool) (v : View) (ga : BitVec 6) (aoff : BitVec 14) (n m : BitVec 8) (wd : BitVec 4) (clr tr : Bool) (md : DrainMode),
          a.op = .adrn o tk v ga aoff n m wd clr tr md →
          let nc := (n.toNat + 16) / 16
          let val (i j : Nat) : Nat := s.pool.readLE (acc aoff.toNat nc i j) 4
          let row (i : Nat) : List Nat := if tr then (List.range (m.toNat + 1)).map (fun j => val j i) else (List.range (n.toNat + 1)).map (val i)
          let bytes := ((List.range (if tr then n.toNat + 1 else m.toNat + 1)).flatMap (fun i => (drainRow e.toNat md (wd.toNat + 1) sat (row i)).1))
          s.accFits q aoff.toNat (m.toNat + 1) nc = true → (md = .planes → wdOk e.toNat (wd.toNat + 1) = true) →
          ∃ (t : State) (ls : List Late) (r : Nat × BitVec 32 × Nat × Nat), exec (.arrayCommandComplete q) s = .next t ∧
            (t.cluster q).running = some a ∧ (t.cluster q).run = { cl.run with done := some r } ∧ r.1 = 0 ∧ t.late = s.late ++ ls ∧
            (∀ x ∈ ls, x.owner = cl.run.id ∧ x.core = k ∧ x.device = false ∧ x.full = false ∧
              ptrTag x.ptr = (match v with | .own => 0xF0 | .blk => 0xF1 | .ilv => 0xF2)) ∧
            ls.flatMap (fun x => (List.range x.data.length).map (fun i => (x.off + i, x.data.getD i 0))) =
              (List.range bytes.length).map (fun i => (a.ga.toNat % 2 ^ 21 + i, bytes.getD i 0)) ∧
            (clr = false → SameMemory s t) ∧
            (clr = true → (∀ i j : Nat, i ≤ m.toNat → j ≤ n.toNat → t.pool.readLE (acc aoff.toNat nc i j) 4 = ident e) ∧
              ∀ x : Nat, (∀ i j : Nat, i ≤ m.toNat → j ≤ n.toNat → x < acc aoff.toNat nc i j ∨ acc aoff.toNat nc i j + 4 ≤ x) →
                t.pool.read x = s.pool.read x)) ∧
        (∀ (o : Sys2Proof.Ord) (tk : Bool) (v : View) (ga : BitVec 6) (aoff : BitVec 14) (rs m : BitVec 11) (tile : BTile) (recs : Nat → List PRec) (f : Nat),
          a.op = .astr o tk v ga aoff rs m → l.tile = some tile → 0 < tile.k → 0 < tile.n → tile.n ≤ 256 → tile.cols.length = tile.n →
          tile.enabled.length = tile.n →
          let nc := (tile.n + 15) / 16
          let nrec := (tile.k + 47) / 48
          let bw := ((tile.cols.headD []).headD default).w
          let slot := recSlot (entCls e.toNat) p.toNat
          let good (i : Nat) : Option (List PRec) := goodRow e.toNat p.toNat (vs.rowRecs a v (a.ga.toNat % 2 ^ 21 + i * 8 * rs.toNat) nrec slot)
          let on (i : Nat) : Prop := rm = false ∨ (i < 32 ∧ a.rowmask.getLsbD i = true)
          (∀ col ∈ tile.cols, col.length = nrec ∧ ∀ r ∈ col, recOk e.toNat bw r = true ∧ r.s.length = 48 ∧ r.inf.length = 48 ∧
            r.neg.length = 48 ∧ r.zero.length = 48) →
          (entRange e.toNat).1 ≤ bw → bw ≤ (entRange e.toNat).2 →
          (rs = 0 ∨ nrec * slot ≤ 8 * rs.toNat) → s.accFits q aoff.toNat (m.toNat + 1) nc = true →
          f ≤ m.toNat + 1 → (∀ i : Nat, i < f → on i → good i = some (recs i)) → (f ≤ m.toNat → on f ∧ good f = none) →
          ∃ t : State, (f = m.toNat + 1 → ok t (fun y => y.tile = l.tile ∧ y.config = l.config ∧ y.lastAstr = true)) ∧
            (f ≤ m.toNat → fails t 2) ∧
            (∀ x : Nat, (∀ i j : Nat, i < f → on i → j < tile.n → tile.enabled.getD j false = true →
              x < acc aoff.toNat nc i j ∨ acc aoff.toNat nc i j + 4 ≤ x) → t.pool.read x = s.pool.read x) ∧
            (∀ i j : Nat, i < f → on i → j < tile.n → tile.enabled.getD j false = true →
              let col := tile.cols.getD j []
              let old := s.pool.readLE (acc aoff.toNat nc i j) 4
              (e = 1 ∨ e = 2 → FloatEntry e.toNat tile.k (recs i) col (BitVec.ofNat 32 old)
                (BitVec.ofNat 32 (t.pool.readLE (acc aoff.toNat nc i j) 4))) ∧
              (∀ y ∈ arrayEntries, y.1 = e.toNat →
                let before : Int := if y.2.1 = true ∧ 2 ^ 31 ≤ old then (old : Int) - 2 ^ 32 else old
                let elems (l : List PRec) : List Int := (l.flatMap PRec.s).take tile.k
                let sum := ((elems (recs i)).zip (elems col)).foldl (fun t ab => y.2.2.2.2 t (y.2.2.2.1 p.toNat bw ab.1 ab.2)) y.2.2.1
                let new := y.2.2.2.2 before sum
                let lo : Int := if y.2.1 then -2 ^ 31 else 0
                let hi : Int := if y.2.1 then 2 ^ 31 - 1 else 2 ^ 32 - 1
                let kept : Int := if sat = true ∧ (e = 0 ∨ e = 9) then max lo (min hi new) else new
                (t.pool.readLE (acc aoff.toNat nc i j) 4 : Int) = kept % 2 ^ 32 ∧
                ((e = 0 ∨ e = 9) → new < lo ∨ hi < new → (t.frame a.frame).estat.getLsbD 14 = true)))))))) ∧
  (∀ (e wd : Nat) (sat : Bool) (xs : List Nat), e < 10 → 1 ≤ wd → wd ≤ 16 → xs.length ≤ 256 → (∀ x ∈ xs, x < 2 ^ 32) →
    let raw := drainRow e .raw wd sat xs
    let fp := drainRow e .fp32 wd sat xs
    let pl := drainRow e .planes wd sat xs
    let four (l : List Byte) (i : Nat) : Nat := bytesNat ((l.drop (4 * i)).take 4)
    let cls := if e = 1 ∨ e = 2 then 1 else if e = 7 ∨ e = 8 then 2 else 0
    let slot := recSlot cls wd
    raw.1.length = 4 * xs.length ∧ raw.2 = 0 ∧ fp.1.length = 4 * xs.length ∧
    (∀ i : Nat, i < xs.length → ∀ x : Nat, x = xs.getD i 0 → four raw.1 i = x ∧
      (e = 1 ∨ e = 2 → four fp.1 i = x) ∧
      ((e = 3 ∨ e = 6) ∧ x = 0xFFFFFFFF → four fp.1 i = 0x7F800000) ∧ (e = 4 ∧ x = 0x80000000 → four fp.1 i = 0xFF800000) ∧
      (e ≠ 1 → e ≠ 2 → ¬ ((e = 3 ∨ e = 6) ∧ x = 0xFFFFFFFF) → ¬ (e = 4 ∧ x = 0x80000000) →
        ∃ y : FRes, four fp.1 i = y.1.toNat ∧
          RoundedInt false .rne false (if (e = 0 ∨ e = 4) ∧ 2 ^ 31 ≤ x then (x : Int) - 2 ^ 32 else x) 0 0 y)) ∧
    (wdOk e wd = true → pl.1.length = (xs.length + 47) / 48 * slot ∧
      ∀ b : Nat, 48 * b < xs.length → ∃ r : PRec, readRec (dwordsOf ((pl.1.drop (b * slot)).take slot) (slot / 8)) = some r ∧
        (e = 1 ∨ e = 2 → DrainFloats wd (((xs.drop (48 * b)).take 48).map (BitVec.ofNat 32)) r) ∧
        (e ≠ 1 → e ≠ 2 → r.cls = cls ∧ r.w = wd ∧ r.sgn = decide (e = 0 ∨ e = 4) ∧
          (∀ i : Nat, i < 48 → 48 * b + i < xs.length → ∃ sticky : Bool,
            DrainElem e wd sat (xs.getD (48 * b + i) 0) (r.s.getD i 0) sticky ∧
            (sticky = true → pl.2.getLsbD (if e = 3 ∨ e = 4 ∨ e = 6 then 13 else 14) = true)) ∧
          (∀ i : Nat, i < 48 → xs.length ≤ 48 * b + i →
            r.s.getD i 0 = if e = 3 ∨ e = 6 then 2 ^ wd - 1 else if e = 4 then -2 ^ (wd - 1) else 0))))

/-- R32 to R34, R51, R155 to R158, R204, R214, R215: a bundle is fetched at the thread's pc from a line of its own tag
and epoch; a reason of R214 raises ILLEGAL; the first trap by rank annuls it; a stall issues it again; otherwise its
operations that hold their guards are executed, from the pc of the next bundle. A line that is not held is filled from
memory, or its fetch traps: PAGE, or ECC at a line that cannot be read, in memory or in the store; one whose page table
cannot be read waits (DESIGN CHOICE, log entry 100). The place that a line takes in a store that is not full, the request for
a line behind a HOST leaf with its PAGE and code 6, DETAIL 2 of ECC, and the bits of the code address that the fetch uses are
the model's choice (DESIGN CHOICE, log entry 79). -/
def Obligations.Fetching : Prop :=
  ∀ (s : State) (sk fk : Nat), (s.slot sk).frame = some fk →
    let f := s.frame fk
    let pc := f.pc
    let q := if isGeyserFrame fk then 1024 + frameCore fk else fk / 1024
    let va := pc.toNat / 2 ^ 6 % 2 ^ 50 * 64
    let mine (l : ILine) : Bool := l.va == va && l.tag == s.frameTag fk && l.epoch == s.frameEpoch fk
    let ready (t : State) : Prop := t.cur.sk = sk ∧ t.cur.fk = fk ∧ t.cur.bpc = pc ∧ t.cur.pre = f ∧ t.cur.slot = s.slot sk
    ((s.cluster q).icache.find? mine = none →
      ∃ (t : State) (x : Fill), exec (.bundleFetch sk) s = .next t ∧ t.hub.fills = s.hub.fills ++ [x] ∧ x.va = va ∧ x.tag = s.frameTag fk ∧
        x.epoch = s.frameEpoch fk ∧ x.slot = sk ∧ (t.slot sk).state = .line ∧ (∀ k : Nat, t.frame k = s.frame k) ∧
        t.cur.stopped = true ∧ ∃ n : Nat, ⟨n, .istoreFill x.id⟩ ∈ t.agenda) ∧
    (∀ l : ILine, (s.cluster q).icache.find? mine = some l → s.errorAt (istoreErrKey q) = some true →
      ∃ u : State, exec (.bundleFetch sk) s = .next (u.trap { cause := 0x12, detail := 2, eval := natWord va }) ∧ ready u ∧
        (∀ k : Nat, u.frame k = s.frame k)) ∧
    (∀ l : ILine, (s.cluster q).icache.find? mine = some l → s.errorAt (istoreErrKey q) ≠ some true →
      (∀ e : Nat × Nat, fetchBundle l.data (pc.toNat % 32) (isGeyserFrame fk) = .error e →
        ∃ u : State, exec (.bundleFetch sk) s = .next (u.trap { cause := 0x01, eval := illegalEval e.2 e.1 }) ∧ ready u ∧
          (∀ k : Nat, u.frame k = s.frame k)) ∧
      (∀ b : Bundle, fetchBundle l.data (pc.toNat % 32) (isGeyserFrame fk) = .ok b →
        let next := if pc.toNat % 32 + b.len < l.data.heads then natWord (va + pc.toNat % 32 + b.len)
          else natWord ((va + 64) % 2 ^ 56)
        ∃ u : State, ready u ∧ u.cur.npc = next ∧ u.cur.sw = b.sw ∧ (∀ k : Nat, u.frame k = s.frame k) ∧
          (∀ x : Nat × State, firstTrap (b.ops.map (opTraps u)).flatten = some x → exec (.bundleFetch sk) s = .next x.2) ∧
          (firstTrap (b.ops.map (opTraps u)).flatten = none →
            let is := u.liveOps b.ops
            (is.any (fun i => fateOf i (trial u i) == .stall) = true →
              ∃ t : State, exec (.bundleFetch sk) s = .next t ∧ (t.frame fk).pc = pc ∧ t.cur.stopped = true) ∧
            (is.any (fun i => fateOf i (trial u i) == .stall) = false →
              (∀ i ∈ is, acquires i = false ∧ fateOf i (trial u i) = .go ∧ leaves i = false) → f.waits = [] →
              ∃ t : State, exec (.bundleFetch sk) s = .next t ∧ t.cur.ops = is ∧ t.cur.stopped = false ∧ (t.frame fk).pc = next ∧
                SameRegsBut [] f (t.frame fk) ∧ SameControl f (t.frame fk) ∧ SameMemory s t)))) ∧
    (∀ x : Fill, s.hub.fills.find? (fun y => y.id == x.id) = some x → x.slot = sk → (s.slot sk).state = .line →
      let w := (s.walk x.tag.toNat x.va false false)
      let fails (cause detail : Nat) : Prop := ∃ u : State, exec (.istoreFill x.id) s =
          .next (u.trap { cause := BitVec.ofNat 8 cause, detail := BitVec.ofNat 8 detail, eval := natWord x.va }) ∧ u.cur.sk = sk ∧
        u.cur.fk = fk ∧ u.cur.bpc = pc ∧ u.cur.pre = f ∧ u.clusters = s.clusters
      (∀ (bs : List Byte) (code : Nat), x.done = some (bs, code) → code ≠ 0 → fails 0x0C code) ∧
      (x.done = none → ∀ (addr key : Nat) (c wr d b : Bool), w.2 = .ok addr false c wr d b →
        w.1.deviceError x.tag.toNat addr 64 = some (key, true) → fails 0x12 2) ∧
      (x.done = none → w.2 = .ecc → ∃ t : State, exec (.istoreFill x.id) s = .next t ∧ (t.slot sk).state = .line) ∧
      (x.done = none → ∀ (addr : Nat) (c wr d b : Bool), w.2 = .ok addr false c wr d b → s.bad = [] → (s.cluster x.cluster).icache.length < 2048 →
        ∃ t : State, exec (.istoreFill x.id) s = .next t ∧ (t.slot sk).state = .run ∧ (∀ k : Nat, t.frame k = s.frame k) ∧
          (t.cluster x.cluster).icache = (s.cluster x.cluster).icache ++
            [⟨x.va, x.tag, x.epoch, BitVec.ofNat 512 (bytesNat (w.1.dev.bytes addr 64))⟩] ∧ t.dev = w.1.dev) ∧
      (x.done = none → ∀ (addr : Nat) (c wr d b : Bool), w.2 = .ok addr true c wr d b →
        let v := x.tag.toNat + 1
        (w.1.hub.hostUp = false ∨ (w.1.vf v).bme = false → fails 0x0C 6) ∧
        (w.1.hub.hostUp = true → (w.1.vf v).bme = true → (w.1.vf v).ats = false →
          ∃ (t : State) (r : HostReq), exec (.istoreFill x.id) s = .next t ∧ t.hub.hostReqs = w.1.hub.hostReqs ++ [r] ∧ r.vf = v ∧
            r.va = addr ∧ r.len = 64 ∧ r.unit = x.id ∧ r.ats = false ∧ (t.slot sk).state = .line ∧ t.clusters = s.clusters)) ∧
      (x.done = none → ∀ code : Nat, w.2 = .bad code ∨ (w.2 = .notPresent ∧ code = 1) → fails 0x0C code))

/-! ## Pre-emption and containment -/

/-- R328, R384 to R390, R410: at SLICE the partition drains: its cores take PREEMPT, its Geyser threads stop, leases
end after their executing command with a record; a pre-empted core parks arriving messages in its inbox, and behind it in
order of arrival. The quiescent partition is saved at CTX in the layout of R41, R388 and R389, STATE goes 1, 2, 3, and RESUME
reads the images back and returns it to STATE 0. What the model chooses: SLICE stays due in the states 1 to 3 (DEDUCED, log
entry 64), the images hold the rest of the agents' state beside the dwords that R388 lays out (DESIGN CHOICE, log entry 65),
a failed save or restore is followed by a containment reset with PAGE's code (DESIGN CHOICE, log entry 60), and one that
meets a page table that cannot be read never ends (DEDUCED, log entry 100). -/
def Obligations.Preemption : Prop :=
  ∀ (s : State) (tag k : Nat),
    let p := s.part tag
    let c := s.core k
    let q := k / 16
    let cause (t : State) (kind code : Nat) : Prop := s.causesHeld = false → t.hub.causes = s.hub.causes ++
      [⟨BitVec.ofNat 8 kind, BitVec.ofNat 11 (tag + 1), BitVec.ofNat 8 code, 1, 0, natWord s.time⟩]
    let inbox := s.poolS k + 32 * inboxCount c.inbox
    let fails (i : Instr) (code : Nat) : Prop := ∃ t : State, exec i s = .next t ∧ (t.part tag).err = BitVec.ofNat 8 code ∧
      (t.part tag).state = p.state ∧ ⟨s.cycle + 1, .containmentReset tag 0x0C⟩ ∈ t.agenda
    let asks (i : Instr) (va : Nat) (write : Bool) : Prop := ∃ (t : State) (r : HostReq), exec i s = .next t ∧
      t.hub.hostReqs = s.hub.hostReqs ++ [r] ∧ r.ats = true ∧ r.vf = tag + 1 ∧ r.pasid = p.pasid ∧ r.va = va / 4096 * 4096 ∧
      r.write = write ∧ r.unit = (t.part tag).ctxReq ∧ (t.part tag).ctxNext = p.ctxNext
    let places (i : Instr) (write : Bool) (off : Nat) : Prop :=
      let w := s.walk tag (p.ctx + off) write false
      (∀ n : Nat, w.2 = .bad n ∨ (w.2 = .notPresent ∧ n = 1) ∨ (w.2 = .notWritable ∧ n = 2) → n ≠ 0 → fails i n) ∧
      (w.2 = .ecc → ∃ t : State, exec i s = .next t ∧ (t.part tag).ctxNext = p.ctxNext ∧ (t.part tag).err = p.err ∧
        (∀ a : Nat, t.dev.read a = w.1.dev.read a)) ∧
      (∀ (va : Nat) (c wr d b : Bool), w.2 = .ok va true c wr d b →
        (w.1.hub.hostUp = false ∨ (w.1.vf (tag + 1)).bme = false → fails i 6) ∧
        (w.1.hub.hostUp = true → (w.1.vf (tag + 1)).bme = true → w.1.hostReady tag va = false →
          asks i va write))
    (p.slice = 0 → exec (.preemptSlice tag) s = .next s) ∧
    (p.slice ≠ 0 → s.time < p.slice ∨ p.state ≠ 0 →
      ∃ t : State, exec (.preemptSlice tag) s = .next t ∧ t = { s with agenda := s.agenda ++ [⟨s.cycle + 8, .preemptSlice tag⟩] }) ∧
    (p.slice ≠ 0 → p.slice ≤ s.time → p.state = 0 →
      ∃ t : State, exec (.preemptSlice tag) s = .next t ∧ (t.part tag).state = 1 ∧
        (∀ j ∈ s.partCores tag, ⟨s.cycle + 1, .preempt j⟩ ∈ t.agenda) ∧ ⟨s.cycle + 8, .contextSave tag⟩ ∈ t.agenda ∧
        (∀ x ∈ s.partThreads tag, ((t.geyser x.1).thread x.2).state =
          if ((s.geyser x.1).thread x.2).state = 1 then 3 else ((s.geyser x.1).thread x.2).state) ∧
        t.frames = s.frames ∧ t.slots = s.slots ∧ t.cores = s.cores ∧ t.clusters = s.clusters ∧ t.futures = s.futures ∧
        SameMemory s t) ∧
    (∃ t : State, exec (.preempt k) s = .next t ∧ (t.core k).preempted = true ∧ (∀ j : Nat, j ≠ k → t.core j = s.core j) ∧
      t.frames = s.frames ∧ t.slots = s.slots ∧ SameMemory s t ∧
      (∀ l : Lease, (s.cluster q).lease = some l → l.core = k →
        (t.cluster q).lease = (if (s.cluster q).running.isSome then some { l with ending := true } else none) ∧
        ((s.cluster q).running = none ∨ l.ending = false →
          t.leaseRecs.get? l.frame = some ⟨l.frame, l.remaining, l.ldb, l.ldbConfig, l.config⟩)) ∧
      ((∀ l : Lease, (s.cluster q).lease = some l → l.core ≠ k) → t.clusters = s.clusters)) ∧
    (∀ x : Packet, s.packet x.id = some x → s.canArrive x = true → (s.part x.tag.toNat).scrubbing = false →
      x.dst = k → k < 2 ^ 20 → c.preempted = true → c.tag = x.tag →
      (∀ a : WordAcc, x.body = .access a → c.overflow = [] → inboxCount (c.inbox ++ [x]) ≤ 32 * pwI c.pword →
        ∃ t : State, exec (.portEngineMessage x.id) s = .next t ∧ (t.core k).inbox = c.inbox ++ [x] ∧
          (t.core k).overflow = c.overflow ∧ t.full = s.full ∧
          (s.memWf = true → msgNoSource x = true → t.pool.dword (poolKey k inbox) = natWord (msgKind x)) ∧
          ∀ y : Nat, y < poolKey k inbox ∨ poolKey k inbox + 32 ≤ y → t.pool.read y = s.pool.read y) ∧
      (∀ (r : Word) (b : Nat) (d : Option Nat), x.body = .join r b d →
        c.overflow ≠ [] ∨ 32 * pwI c.pword < inboxCount (c.inbox ++ [x]) →
        ∃ t : State, exec (.joinDecrement x.id) s = .next t ∧ (t.core k).inbox = c.inbox ∧
          (t.core k).overflow = c.overflow ++ [x] ∧ t.pool = s.pool)) ∧
    (p.state ≠ 1 → exec (.contextSave tag) s = .next s) ∧
    (p.state = 1 → s.quiescent tag = false →
      exec (.contextSave tag) s = .next { s with agenda := s.agenda ++ [⟨s.cycle + 8, .contextSave tag⟩] }) ∧
    (p.state = 1 → s.quiescent tag = true →
      ∃ t : State, exec (.contextSave tag) s = .next t ∧ (t.part tag).state = 2 ∧ (t.part tag).err = 0 ∧ (t.part tag).ctxNext = 0 ∧
        (s.bad = [] → ⟨s.cycle + 8, .contextSaveDone tag⟩ ∈ t.agenda) ∧
        t.frames = s.frames ∧ t.slots = s.slots ∧ t.cores = s.cores ∧ SameMemory s t ∧
        ∃ im : Image, (t.part tag).image = some im ∧ im.time = s.time ∧
          (∀ j ∈ s.partCores tag, im.cores.get? j = s.cores.get? j ∧
            (∀ n : Nat, n < 8 → im.slots.get? (8 * j + n) = s.slots.get? (8 * j + n)) ∧
            (∀ n : Nat, n < 64 → j < 2 ^ 14 → im.frames.get? (64 * j + n) = s.frames.get? (64 * j + n) ∧
              im.leaseRecs.get? (64 * j + n) = s.leaseRecs.get? (64 * j + n))) ∧
          (∀ x ∈ s.partThreads tag, x.1 < 2048 → im.frames.get? (geyserFrame x.1 x.2) = s.frames.get? (geyserFrame x.1 x.2)) ∧
          (∀ n : Nat, im.futures.get? n = NMap.get? n (s.futures.filter (fun x => x.2.owner == BitVec.ofNat 10 tag)))) ∧
    (∀ (n pg : Nat) (d : Nat → Word → Word), p.ctxNext = n → (s.contextPages tag)[n / 16]? = some (pg, d) →
      s.nextBlock tag = some (pg * 2 ^ 16 + n % 16 * 4096, fun i => d (n % 16 * 512 + i))) ∧
    (∀ x ∈ s.partLogical tag, ∀ j : Nat, j < 4 → ∃ d : Nat → Word → Word, (4 * x.1 + j, d) ∈ s.contextPages tag ∧
      ∀ (im : Image) (i : Nat), p.image = some im → d i = s.imageDword im.time x.2 (8192 * j + i)) ∧
    (∀ (im : Nat) (free : Word),
      s.imageDword im k 0 free = 0x0F ∧ s.imageDword im k 1 free = s.pcid k ∧ s.imageDword im k 2 free = c.pword.setWidth 64 ∧
      s.imageDword im k 3 free = natWord im ∧ s.imageDword im k 4 free = natWord (inboxCount c.inbox) ∧
      s.imageDword im k 5 free = natWord (inboxCount c.overflow) ∧
      (∀ w : Nat, w < 2 ^ 14 → (s.imageDword im k (512 + w / 64) free).getLsbD (w % 64) = s.isFull k (8 * w)) ∧
      (∀ e : Nat, e < 256 → (s.imageDword im k (768 + e / 2) free).extractLsb' (32 * (e % 2)) 32 = c.dtabAt e ∧
        (s.imageDword im k (896 + e / 8) free).extractLsb' (8 * (e % 8)) 8 = c.orderAt e) ∧
      (∀ o : Nat, pwOk c.pword = true → o % 8 = 0 → o < s.poolS k →
        s.imageDword im k (1024 + o / 8) free = s.pool.dword (poolKey k o)) ∧
      (∀ n m : Nat, pwOk c.pword = true → n < pwF c.pword → 0 < m → m < 64 →
        s.imageDword im k (1024 + (s.accBase k + 1024 * pwA c.pword + 1152 * n) / 8 + m) free = (s.frame (k * 64 + n)).rg m) ∧
      (∀ n : Nat, n < 8 → s.imageDword im k (1024 + 0x3E00 + 256 + 8 * n) free = (s.slot (k * 8 + n)).cpsrc ∧
        s.imageDword im k (1024 + 0x3E00 + 320 + 8 * n + 4) free = (s.slot (k * 8 + n)).rkey) ∧
      (∀ (x : Packet) (l : List Packet), c.overflow = x :: l → msgNoSource x = true →
        s.imageDword im k 17408 free = natWord (msgKind x))) ∧
    (∀ f x : Frame, let g := frameOfDwords x (frameDword f)
      SameRegsBut [] f g ∧ SameControl f g ∧ g.pc = f.pc ∧ g.estat = f.estat ∧ g.energy = f.energy ∧ g.energySat = f.energySat ∧
      g.energyFrac = f.energyFrac) ∧
    (p.state ≠ 2 ∨ p.err ≠ 0 → exec (.contextSaveDone tag) s = .next s) ∧
    (p.state = 2 → p.err = 0 → s.nextBlock tag = none → ∃ t : State, exec (.contextSaveDone tag) s = .next t ∧
      (t.part tag).state = 3 ∧ (t.part tag).saved = some (natWord s.time + p.toff).toNat ∧ cause t 7 0x0F) ∧
    (∀ (off : Nat) (d : Nat → Word → Word), p.state = 2 → p.err = 0 → s.nextBlock tag = some (off, d) →
      let w := s.walk tag (p.ctx + off) true false
      let goes (t : State) : Prop := exec (.contextSaveDone tag) s = .next t ∧ (t.part tag).ctxNext = p.ctxNext + 1 ∧
        (t.part tag).state = 2 ∧ (t.part tag).err = 0 ∧ ⟨s.cycle + 1, .contextSaveDone tag⟩ ∈ t.agenda
      places (.contextSaveDone tag) true off ∧
      (∀ (addr : Nat) (c wr e b : Bool), s.memWf = true → w.2 = .ok addr false c wr e b → ∃ t : State, goes t ∧
        (∀ i : Nat, i < 512 → ∃ free : Word, t.dev.dword (addr + 8 * i) = d i free) ∧
        (∀ a : Nat, a < addr ∨ addr + 4096 ≤ a → t.dev.read a = w.1.dev.read a)) ∧
      (∀ (va : Nat) (c wr e b : Bool), s.host.wf = true → w.2 = .ok va true c wr e b → w.1.hub.hostUp = true →
        (w.1.vf (tag + 1)).bme = true → w.1.hostReady tag va = true → ∃ t : State, goes t ∧
        (∀ i : Nat, i < 512 → ∃ free : Word, t.host.dword (hostKey tag (va + 8 * i)) = d i free) ∧
        (∀ a : Nat, a < hostKey tag va ∨ hostKey tag va + 4096 ≤ a → t.host.read a = s.host.read a))) ∧
    (∃ t : State, exec (.resume tag) s = .next t ∧ (t.part tag).resume = true ∧
      (p.state ≠ 3 ∨ p.restoring = true → t = s.updPart tag (fun p => { p with resume := true })) ∧
      (p.state = 3 → p.restoring = false → (t.part tag).restoring = true ∧ (t.part tag).state = 3 ∧ (t.part tag).ctxNext = 0 ∧
        ⟨s.cycle + 8, .restoreDone tag⟩ ∈ t.agenda)) ∧
    (p.restoring = false ∨ p.err ≠ 0 → exec (.restoreDone tag) s = .next s) ∧
    (∀ (off : Nat) (d : Nat → Word → Word), p.restoring = true → p.err = 0 → s.nextBlock tag = some (off, d) →
      let w := s.walk tag (p.ctx + off) false false
      places (.restoreDone tag) false off ∧
      (∀ (addr : Nat) (c wr e b : Bool), s.bad = [] → p.readback.wf = true → w.2 = .ok addr false c wr e b →
        ∃ t : State, exec (.restoreDone tag) s = .next t ∧ (t.part tag).ctxNext = p.ctxNext + 1 ∧
          (t.part tag).restoring = true ∧ ⟨s.cycle + 1, .restoreDone tag⟩ ∈ t.agenda ∧
          (∀ i : Nat, i < 4096 → (t.part tag).readback.read (off + i) = w.1.dev.read (addr + i)) ∧
          (∀ i : Nat, i < off ∨ off + 4096 ≤ i → (t.part tag).readback.read i = p.readback.read i)) ∧
      (∀ (va : Nat) (c wr e b : Bool), w.2 = .ok va true c wr e b → w.1.hub.hostUp = true → (w.1.vf (tag + 1)).bme = true →
        w.1.hostReady tag va = true → ∃ (t : State) (r : HostReq), exec (.restoreDone tag) s = .next t ∧
          t.hub.hostReqs = w.1.hub.hostReqs ++ [r] ∧ r.ats = false ∧ r.vf = tag + 1 ∧ r.pasid = p.pasid ∧ r.va = va ∧ r.len = 4096 ∧
          r.unit = (t.part tag).ctxReq ∧ (t.part tag).ctxNext = p.ctxNext)) ∧
    (p.restoring = true → p.err = 0 → s.nextBlock tag = none →
      ∃ t : State, exec (.restoreDone tag) s = .next t ∧ (t.part tag).state = 0 ∧ (t.part tag).restoring = false ∧
        (let u := (p.image.map (s.putImage tag)).getD s
          let area := u.accBase k + 1024 * pwA (u.core k).pword
          let saved (L i : Nat) : Word := p.readback.dword (2 ^ 18 * L + 8 * i)
          (∀ j ∈ s.partCores tag, (u.core j).inbox = [] ∧ (u.core j).overflow = []) →
            cause t 8 0 ∧ (∀ j ∈ s.partCores tag, (t.core j).preempted = false) ∧
            (∀ (im : Image) (n : Nat), p.image = some im → (im.futures.map (·.1)).Nodup →
              t.futures.get? n = (im.futures.get? n).or (s.futures.get? n)) ∧
            (∀ L : Nat, s.partLogical tag = [(L, k)] → pwOk (u.core k).pword = true → s.memWf = true →
              (∀ n m : Nat, n < pwF (u.core k).pword → 0 < m → m < 64 →
                (t.frame (k * 64 + n)).rg m = saved L (1024 + (area + 1152 * n) / 8 + m)) ∧
              (∀ o : Nat, o % 8 = 0 → o < 2 ^ 17 → t.pool.dword (poolKey k o) = saved L (1024 + o / 8)) ∧
              (∀ e : Nat, e < 256 → (t.core k).dtabAt e = (saved L (768 + e / 2)).extractLsb' (32 * (e % 2)) 32) ∧
              (∀ n : Nat, n < 8 → (t.slot (k * 8 + n)).cpsrc = saved L (1024 + 0x3E00 + 256 + 8 * n)))))

/-- R93, R356, R392, R393, R395, R396, R399: a containment reset frees the frames, slots and leases of the partition's
cores and empties their buffers, frees its future entries and empties its FIFOs and ready queues, abandons its copies,
removes failed cores, advances epoch and generation, clears STATE and SLICE and the timer of a retired task (R244), and
enters its cause, for which it waits until the hub has a place (R402); a dirty line that is uncorrectable is not written back;
pools, full/empty bits, decode tables and everything of another partition stay. A function reset raises the generation and
restarts its numbers. The cause of a requested reset is free (DESIGN CHOICE, log entry 60). -/
def Obligations.Containment : Prop :=
  ∀ (s : State) (tag : Nat), tag < 1024 →
    let p := s.part tag
    let b : BitVec 10 := BitVec.ofNat 10 tag
    let epoch : BitVec 6 := if p.epoch = 63 then 1 else p.epoch + 1
    let mine (k : Nat) : Prop := k ∈ s.partCores tag ∨ k ∈ p.left
    let done (i : Instr) (code : Option (BitVec 8)) : Prop := ∃ (t : State) (c : BitVec 8), exec i s = .next t ∧ (code = none ∨ code = some c) ∧
      t.hub.causes = s.hub.causes ++ [⟨12, BitVec.ofNat 11 (tag + 1), c, 1, 0, natWord s.time⟩] ∧
      (t.part tag).state = 0 ∧ (t.part tag).slice = 0 ∧ (t.part tag).restoring = false ∧ (t.part tag).epoch = epoch ∧
      (t.part tag).logical = p.logical.filter (fun e => !(tableModule e == s.module.toNat && (s.core (tableCore e)).failed)) ∧
      (t.vf (tag + 1)).gen = (s.vf (tag + 1)).gen + 1 ∧ (t.vf (tag + 1)).nextRid = 0 ∧
      (∀ u : Nat, u ≠ tag → t.part u = { s.part u with ctxReq := (t.part u).ctxReq }) ∧ (∀ v : Nat, v ≠ tag + 1 → t.vf v = s.vf v) ∧
      (s.bad = [] → SameMemory s t) ∧ t.pool = s.pool ∧ t.gpool = s.gpool ∧ t.host = s.host ∧ t.full = s.full ∧
      (s.memWf = true → ∀ a : Nat, t.dev.read a ≠ s.dev.read a → ∃ ch ∈ s.partChannels tag, ∃ x ∈ (s.geyser ch).lines,
        x.dirty = true ∧ s.bad.get? (sliceKey (s.lineNumber ch x)) = some .lasting ∧ 64 * s.lineNumber ch x ≤ a ∧
        a < 64 * s.lineNumber ch x + x.old.length) ∧
      (∀ k : Nat, mine k → (t.core k).inbox = [] ∧ (t.core k).overflow = [] ∧ (t.core k).mail = [] ∧ (t.core k).retryBuf = [] ∧
        (t.core k).acmds = [] ∧ (t.core k).tokens = [] ∧ (t.core k).preempted = false ∧ (t.core k).dtab = (s.core k).dtab ∧
        (t.core k).order = (s.core k).order ∧ (t.core k).groups = [] ∧ (t.core k).heldRecords = [] ∧ (t.core k).timerOwner = none ∧
        (t.core k).timer = (if (s.core k).timerOwner.isSome then 0 else (s.core k).timer) ∧
        ∀ j : Nat, j < 8 → (t.slot (k * 8 + j)).state = .free ∧ (t.slot (k * 8 + j)).frame = none) ∧
      (∀ k ∈ s.partCores tag, (s.core k).tag = b → (t.core k).epoch = if (s.core k).failed then 0 else epoch) ∧
      (∀ k : Nat, ¬ mine k → t.core k = s.core k) ∧
      (∀ fk : Nat, fk < 2 ^ 20 → (mine (fk / 64) → (t.frame fk).state = .free ∧ SameRegsBut [] (s.frame fk) (t.frame fk)) ∧
        (¬ mine (fk / 64) → t.frame fk = s.frame fk)) ∧
      (∀ n : Nat, ((s.future n).owner = b → (t.future n).state = .free ∧ (t.future n).gen = (s.future n).gen ∧
          (t.future n).waiters = []) ∧
        ((s.future n).owner ≠ b → t.future n = s.future n)) ∧
      (∀ n : Nat, ((s.fifo n).owner = some b → (t.fifo n).items = [] ∧ (t.fifo n).waiting = []) ∧
        ((s.fifo n).owner ≠ some b → t.fifo n = s.fifo n)) ∧
      (∀ q : Nat, (t.cluster q).tasks = (s.cluster q).tasks.filter (fun x => x.tag != b) ∧
        ∀ l : Lease, (s.cluster q).lease = some l → (mine l.core → (t.cluster q).lease = none) ∧
          (¬ mine l.core → (t.cluster q).lease = some l)) ∧
      (∀ x ∈ t.copies, x.2.tag ≠ b)
    let waits (i : Instr) (code : Option (BitVec 8)) : Prop := ∃ (t : State) (c : BitVec 8), exec i s = .next t ∧ (code = none ∨ code = some c) ∧
      t = { s with free := t.free, agenda := s.agenda ++ [⟨s.cycle + 8, .containmentReset tag c⟩] }
    (s.causeRoom = true → (∀ c : BitVec 8, done (.containmentReset tag c) (some c)) ∧ done (.containmentDelayExpiry tag) (some 0x12) ∧
      done (.partitionResetRequest tag) none) ∧
    (s.causeRoom = false → (∀ c : BitVec 8, waits (.containmentReset tag c) (some c)) ∧ waits (.containmentDelayExpiry tag) (some 0x12) ∧
      waits (.partitionResetRequest tag) none) ∧
    (∀ n : Nat, ∃ t : State, exec (.virtualFunctionReset n) s = .next t ∧ (t.vf n).gen = (s.vf n).gen + 1 ∧ (t.vf n).nextRid = 0 ∧
      (t.vf n).nextLseq = 1 ∧ (t.vf n).reqs.map (·.rid) = (s.vf n).reqs.map (·.rid) ∧ (∀ m : Nat, m ≠ n → t.vf m = s.vf m) ∧
      (∀ u : Nat, t.part u = { s.part u with ctxReq := (t.part u).ctxReq }) ∧ t.cores = s.cores ∧ SameMemory s t)

/-! ## The Caldera scrub and certificates -/

/-- R81, R88, R120, R186, R297, R400, R402 to R405: a scrub command and its completion always answer a next state. A command
is refused, waits behind the partition's running scrub or for a place for a cause entry, or starts after the containment
reset where one is due; its completion waits, under bit 6, for the accesses that use a translation. When its agents have
reported, each selected scope is cleared and no other, epoch and generation advance by one, the scrub is numbered, its
certificate body kept, and an entry of kind 9 written. -/
def Obligations.Scrubs : Prop :=
  ∀ (s : State) (tag : Nat) (sc : BitVec 32) (assign : Bool) (seed : Word), tag < 1024 →
    let p := s.part tag
    let b : BitVec 10 := BitVec.ofNat 10 tag
    let next (e : BitVec 6) : BitVec 6 := if e = 63 then 1 else e + 1
    let mine (k : Nat) : Prop := k ∈ s.partCores tag ∨ k ∈ p.left
    let i : Instr := .scrubCommand tag sc assign seed
    let c : Scrub := ⟨tag, sc, assign, seed, s.time⟩
    (∃ t : State, exec i s = .next t) ∧ (∃ t : State, exec (.scrubComplete tag) s = .next t) ∧
    (2 ^ 12 ≤ sc.toNat ∨ (assign = true ∧ sc ≠ 0xFFF) → exec i s = .next s) ∧
    (sc.toNat < 2 ^ 12 → (assign = true → sc = 0xFFF) →
      (p.scrubbing = true → ∃ t : State, exec i s = .next t ∧ t.hub.scrubs = s.hub.scrubs ++ [c] ∧ t.parts = s.parts ∧ SameMemory s t) ∧
      (p.scrubbing = false → (∀ l ∈ p.launches, l.certWait = false) →
        let resets : Prop := (∃ l ∈ p.launches, l.running = true) ∨ p.state ≠ 0
        (resets → s.causeRoom = false → exec i s = .next { s with agenda := s.agenda ++ [⟨s.cycle + 8, i⟩] }) ∧
        ((resets → s.causeRoom = true) → ∃ t : State, exec i s = .next t ∧ (t.part tag).scrubbing = true ∧ t.hub.running.get? tag = some c ∧
          ⟨s.cycle + 8, .scrubComplete tag⟩ ∈ t.agenda ∧ (s.bad = [] → SameMemory s t) ∧
          (∀ u : Nat, u ≠ tag → t.part u = { s.part u with ctxReq := (t.part u).ctxReq }) ∧
          (sc.getLsbD 6 = true → (∀ ch : Nat, ∀ e ∈ (t.geyser ch).gtlb, e.tag = b → e.invalid = true ∧ e.inUse ≠ 0) ∧
            ∀ e ∈ t.hub.ats, e.vf = tag + 1 → e.invalid = true ∧ e.inUse ≠ 0) ∧
          (((∀ l ∈ p.launches, l.running = false) ∧ p.state = 0) →
            (t.part tag).epoch = p.epoch ∧ t.hub.causes = s.hub.causes ∧ t.cores = s.cores) ∧
          (((∃ l ∈ p.launches, l.running = true) ∨ p.state ≠ 0) →
            (t.part tag).epoch = next p.epoch ∧ (t.part tag).state = 0 ∧
            ∃ x : CauseEntry, t.hub.causes = s.hub.causes ++ [x] ∧ x.kind = 12 ∧ x.vf = BitVec.ofNat 11 (tag + 1))))) ∧
    (s.hub.running.get? tag = none → exec (.scrubComplete tag) s = .next s) ∧
    (∀ r : Scrub, s.hub.running.get? tag = some r →
      (r.scope.getLsbD 6 = true ∧ ((∃ ch : Nat, ∃ e ∈ (s.geyser ch).gtlb, e.tag = b ∧ e.inUse ≠ 0) ∨
        ∃ e ∈ s.hub.ats, e.vf = tag + 1 ∧ e.inUse ≠ 0)) ∨ s.causeRoom = false →
      exec (.scrubComplete tag) s = .next { s with agenda := s.agenda ++ [⟨s.cycle + 8, .scrubComplete tag⟩] }) ∧
    (∀ r : Scrub, s.hub.running.get? tag = some r → r.tag = tag → (∀ x ∈ s.hub.scrubs, x.tag ≠ tag) → s.causeRoom = true →
      (r.scope.getLsbD 6 = true → s.tlbBusy tag = false) →
      let n := s.hub.scrubSeq + 1
      let gen := (s.vf (tag + 1)).gen
      let bit (j : Nat) : Bool := r.scope.getLsbD j
      ∃ t : State, exec (.scrubComplete tag) s = .next t ∧ (t.part tag).scrubbing = false ∧ t.hub.running.get? tag = none ∧
        t.hub.scrubSeq = n ∧ (t.part tag).epoch = next p.epoch ∧ (t.vf (tag + 1)).gen = gen + 1 ∧ (t.vf (tag + 1)).nextRid = 0 ∧
        (t.part tag).cert = some ⟨r.scope, n, tag, gen.toNat, (gen + 1).toNat, r.start, s.time⟩ ∧
        t.hub.causes = s.hub.causes ++ [⟨9, BitVec.ofNat 11 (tag + 1), 0, 1, natWord n, natWord s.time⟩] ∧
        (t.part tag).toff = (if r.assign then 0 else p.toff) ∧ (t.part tag).saved = (if r.assign then none else p.saved) ∧
        (∀ w ∈ (s.vf (tag + 1)).heldWrites, ⟨s.cycle + 1, w.act⟩ ∈ t.agenda) ∧
        (∀ u : Nat, u ≠ tag → t.part u = { s.part u with ctxReq := (t.part u).ctxReq }) ∧
        (bit 0 = true → (t.part tag).energyTotal = 0) ∧
        (∀ k o : Nat, o < 2 ^ 17 → t.pool.read (poolKey k o) = if bit 0 = true ∧ mine k then 0 else s.pool.read (poolKey k o)) ∧
        (∀ k w : Nat, w < 2 ^ 14 → bit 0 = true → mine k → t.full.get? (k * 2 ^ 14 + w) = none) ∧
        (∀ k : Nat, bit 0 = true → mine k → (t.core k).tvec = 0 ∧ (t.core k).svec = 0 ∧ (t.core k).timer = 0 ∧
          (t.core k).eseqNext = 1 ∧ (t.core k).copyNext = 1 ∧ (t.core k).mail = [] ∧ (t.core k).inbox = [] ∧
          (t.core k).groups = [] ∧ (t.core k).retryBuf = [] ∧ (t.core k).overflow = [] ∧ (t.core k).heldRecords = []) ∧
        (bit 0 = true → ∀ x ∈ t.waitq, ¬ mine (x.1 / 2 ^ 14)) ∧
        (∀ k : Nat, k ∈ p.left → bit 0 = true → k ∉ s.partCores tag → (t.core k).epoch = 0) ∧
        (bit 0 = true → r.seed ≠ 0 → (t.part tag).seed = r.seed) ∧ (bit 0 = false → (t.part tag).seed = p.seed) ∧
        (∀ q : Nat, bit 2 = true → ∀ x ∈ (t.cluster q).tasks, x.tag ≠ b) ∧
        (∀ y : Nat, bit 2 = true → (s.future y).owner = b → (t.future y).state = .free ∧ nextGen (t.future y) = 0x10) ∧
        (∀ y : Nat, bit 2 = true → (s.future y).state = .free → (∀ j : Nat, j < 16 → y / 4096 * 16 + j ∈ s.partCores tag) →
          (t.future y).state = .free ∧ nextGen (t.future y) = 0x10) ∧
        (∀ y : Nat, bit 2 = false ∨ ((s.future y).owner ≠ b ∧ (s.future y).state ≠ .free) → t.future y = s.future y) ∧
        (∀ k : Nat, mine k → bit 3 = true → ∀ l ∈ (t.cluster (k / 16)).icache, l.tag ≠ b) ∧
        (∀ y : Nat, bit 4 = true → (s.fifo y).owner = some b → (t.fifo y).items = []) ∧
        (∀ y : Nat, bit 4 = false → t.fifo y = s.fifo y) ∧
        (∀ ch o : Nat, o < 2 ^ 16 → t.gpool.read (ch * 2 ^ 16 + o) =
          if bit 5 = true ∧ ch ∈ s.partChannels tag ∧ o < 0xC000 then 0 else s.gpool.read (ch * 2 ^ 16 + o)) ∧
        (∀ ch : Nat, bit 6 = true → ∀ e ∈ (t.geyser ch).gtlb, e.tag ≠ b) ∧ (bit 6 = true → ∀ e ∈ t.hub.ats, e.vf ≠ tag + 1) ∧
        (∀ ch : Nat, bit 8 = true → ∀ x ∈ (t.geyser ch).streams, x.tag ≠ b) ∧
        (∀ k : Nat, mine k → bit 9 = true → (t.core k).dtab = [] ∧ (t.core k).order = []) ∧
        (∀ k : Nat, bit 9 = false → (t.core k).dtab = (s.core k).dtab ∧ (t.core k).order = (s.core k).order) ∧
        (∀ k : Nat, mine k → bit 10 = true → (t.core k).groups = [] ∧ (t.core k).retryBuf = []) ∧
        (∀ ch ∈ s.partGeysers tag, bit 10 = true → (t.core (2 ^ 15 + ch)).retryBuf = []) ∧
        (s.bad = [] → ∀ a : Nat, t.dev.read a = if bit 11 = true ∧ (∃ x ∈ s.hub.owners, ∃ o ∈ x.2, o.tag = b ∧
            x.1 * 2 ^ 32 + o.base.toNat * 2 ^ 16 ≤ a ∧ a < x.1 * 2 ^ 32 + (o.limit.toNat + 1) * 2 ^ 16) then 0
          else s.dev.read a))

/-- R400, R406 to R408: a launch with CERT = 1 waits until the body of its partition's latest scrub, with its nonce,
has been digested and signed and the 512 bytes stand at TOKEN, where a copy of one row with ACQ = 1 at system scope writes
them; CERTSEQ, an entry of kind 10 and its tasks follow. Without a place, or where the write fails, an entry of kind 11 is
written, with the outcome code, and the launch stays held until TOKEN is written. The model's choices: the code of an entry of
kind 11 where TOKEN names no place is free (DEDUCED, log entry 69), and so are the key and the salt of the signature (log
entry 11). -/
def Obligations.Certificates : Prop :=
  ∀ (s : State) (tag : Nat), tag < 1024 →
    let p := s.part tag
    let v := s.vf (tag + 1)
    let field (bs : List Byte) (o n : Nat) : Nat := bytesNat ((bs.drop o).take n)
    let wr : Instr := .certificateWriteDone tag
    (p.launches.find? (fun l => l.certWait) = none → exec (.certificateSigned tag) s = .next s ∧ exec wr s = .next s) ∧
    (p.signing = none → exec wr s = .next s) ∧
    (∀ l : Launch, p.launches.find? (fun l => l.certWait) = some l →
      (∀ c : Cert, p.cert = some c → p.lastCert = none → c.seq < 2 ^ 64 → c.tag < 1024 → c.oldGen < 2 ^ 16 → c.newGen < 2 ^ 16 →
        c.start < 2 ^ 64 → c.end_ < 2 ^ 64 →
        ∃ (t : State) (bs : List Byte), exec (.certificateSigned tag) s = .next t ∧ (t.part tag).signing = some (l.lseq, bs) ∧ bs.length = 512 ∧
          field bs 0 4 = 1 ∧ field bs 4 4 = c.scope.toNat ∧ field bs 8 8 = c.seq ∧ field bs 0x10 16 = Config.serial.toNat ∧
          field bs 0x20 2 = c.tag ∧ field bs 0x22 6 = 0 ∧ field bs 0x28 8 = c.oldGen ∧ field bs 0x30 8 = c.newGen ∧
          field bs 0x38 8 = c.start ∧ field bs 0x40 8 = c.end_ ∧ field bs 0x48 8 = l.dw 4 % 2 ^ 64 ∧
          field bs 0x50 8 = l.dw 5 % 2 ^ 64 ∧ field bs 0x58 8 = 0 ∧ (bs.drop 0x60).take 32 = sha256 (bs.take 0x60) ∧
          ⟨s.cycle + 8, wr⟩ ∈ t.agenda ∧ SameMemory s t) ∧
      (∀ (c : Cert) (bs : List Byte), p.cert = some c → p.lastCert = some ((c.seq, natWord (l.dw 4), natWord (l.dw 5)), bs) →
        ∃ t : State, exec (.certificateSigned tag) s = .next t ∧ (t.part tag).signing = some (l.lseq, bs) ∧ ⟨s.cycle + 8, wr⟩ ∈ t.agenda) ∧
      (∀ (n : Nat) (bs : List Byte), p.signing = some (n, bs) → n ≠ l.lseq → exec wr s = .next s) ∧
      (∀ bs : List Byte, p.signing = some (l.lseq, bs) → p.state ≠ 0 ∨ p.scrubbing = true ∨ s.causeRoom = false →
        exec wr s = .next { s with agenda := s.agenda ++ [⟨s.cycle + 8, wr⟩] }) ∧
      (∀ (c : Cert) (bs : List Byte), p.cert = some c → p.signing = some (l.lseq, bs) → p.state = 0 → p.scrubbing = false →
        s.causeRoom = true →
        let fails (t : State) (code : BitVec 8 → Prop) : Prop := (t.part tag).launches = p.launches ∧ (t.vf (tag + 1)).certseq = v.certseq ∧
          SameMemory s t ∧ (s.causesHeld = false → ∃ x : CauseEntry, t.hub.causes = s.hub.causes ++ [x] ∧ x.kind = 11 ∧
            x.vf = BitVec.ofNat 11 (tag + 1) ∧ x.detail = natWord c.seq ∧ code x.cause)
        let place : Prop := v.token ≠ 0 ∧ v.token.toNat % 512 = 0 ∧ v.token.toNat / 2 ^ 56 ≤ 1
        ((∀ y ∈ s.copies, y.2.isCert = false) →
          (¬ place → ∃ t : State, exec wr s = .next t ∧ fails t (fun _ => True)) ∧
          (place → ∃ (t : State) (id : Nat) (x : Copy), exec wr s = .next t ∧ t.copies = s.copies.put id x ∧ x.purpose = .cert l.lseq ∧
            x.dst = v.token ∧ x.data = bs ∧ shRows x.shape = 1 ∧ shRowb x.shape = 512 ∧ flAcq x.flags = true ∧ flScope x.flags = 6 ∧
            ⟨s.cycle + 8, .burstAdmission id⟩ ∈ t.agenda ∧ t.parts = s.parts ∧ t.vfs = s.vfs ∧ t.hub = s.hub ∧ SameMemory s t)) ∧
        (∀ (id : Nat) (x : Copy), s.copies = [(id, x)] → x.isCert = true → x.tag.toNat = tag →
          (x.ended = false → exec wr s = .next s) ∧
          (x.ended = true → (∃ y ∈ s.late, y.owner = id) → exec wr s = .next s) ∧
          (x.ended = true → (∀ y ∈ s.late, y.owner ≠ id) → ∃ t : State, exec wr s = .next t ∧
            (x.status = some 0 ∨ x.status = none → (t.vf (tag + 1)).certseq = natWord c.seq ∧
              (∃ y : CauseEntry, t.hub.causes = s.hub.causes ++ [y] ∧ y.kind = 10 ∧ y.vf = BitVec.ofNat 11 (tag + 1) ∧
                y.detail = natWord c.seq) ∧
              (∀ y ∈ (t.part tag).launches, y.lseq = l.lseq → y.certWait = false) ∧
              (t.part tag).lastCert = some ((c.seq, natWord (l.dw 4), natWord (l.dw 5)), bs) ∧ (t.part tag).signing = none ∧
              ⟨s.cycle + 1, .launchCompletion tag l.lseq⟩ ∈ t.agenda) ∧
            (∀ st : BitVec 8, x.status = some st → st ≠ 0 → fails t (· = st) ∧ t.copies = [] ∧
              (v.token ≠ x.dst → ⟨s.cycle + 8, wr⟩ ∈ t.agenda)))))) ∧
    (∀ ptr : Word, (p.scrubbing = true → ∃ t : State, exec (.token (tag + 1) ptr) s = .next t ∧ (t.vf (tag + 1)).token = v.token ∧
        (t.vf (tag + 1)).heldWrites = v.heldWrites ++ [⟨.token (tag + 1) ptr⟩]) ∧
      (p.scrubbing = false → ∃ t : State, exec (.token (tag + 1) ptr) s = .next t ∧ (t.vf (tag + 1)).token = ptr ∧ SameMemory s t ∧
        ((∃ l ∈ p.launches, l.certWait = true) → p.signing ≠ none → ⟨s.cycle + 8, wr⟩ ∈ t.agenda)))

/-! ## Geyser threads, hub tables and registers -/

/-- R75, R400: a write of RUN starts a thread at ENTRY with g1 = ARG, every other register zero and its privilege,
stops a running one, is held while it stops, and is ignored and reported where the channel has more than one owner; a
stopping thread becomes idle when its results have returned, and then takes a held RUN as one written to an idle
thread. Writes wait for a scrub of the partition, and for its
save (log entry 61). -/
def Obligations.GeyserThreads : Prop :=
  ∀ (s : State) (vf k ch n : Nat) (v : Word), 0 < vf → vf < 1025 → 1 ≤ n → n ≤ 3 → ch < 1024 →
    let tag := vf - 1
    let x := (s.geyser ch).thread n
    let fk := geyserFrame ch n
    let sk := geyserSlot ch n
    let p := s.part tag
    let q := { x with priv := v.getLsbD 1 }
    let key := (2 ^ 20 + ch) * 1024 + tag
    let starts (t : State) (y : GThread) : Prop := (t.geyser ch).thread n = { y with state := 1, cause := 0, held := false } ∧
      (t.slot sk).state = .run ∧ (t.slot sk).frame = some fk ∧ (t.frame fk).pc = y.entry ∧ (t.frame fk).estat = 0 ∧
      (t.frame fk).status = (if y.priv then 1 else 0) ∧ (t.frame fk).rg 1 = y.arg ∧
      (∀ j : Nat, j ≠ 1 → (t.frame fk).rg j = 0) ∧ (∀ j : Nat, (t.frame fk).rv j = 0) ∧ (∀ j : Nat, j ≠ 0 → (t.frame fk).rp j = 0) ∧
      SameMemory s t
    let sets (t : State) (y : GThread) : Prop := (t.geyser ch).thread n = y ∧ t.frames = s.frames ∧ t.slots = s.slots ∧ SameMemory s t
    ((s.partChannels tag)[k]? = none → ∀ w : Nat, exec (.run vf k n w v) s = .next s) ∧
    ((s.partChannels tag)[k]? = some ch →
      (p.state ≠ 0 → ∀ w : Nat, exec (.run vf k n w v) s = .next { s with agenda := s.agenda ++ [⟨s.cycle + 8, .run vf k n w v⟩] }) ∧
      (p.state = 0 → p.scrubbing = true → ∀ w : Nat, ∃ t : State, exec (.run vf k n w v) s = .next t ∧
        (t.vf vf).heldWrites = (s.vf vf).heldWrites ++ [⟨.run vf k n w v⟩] ∧ t.geysers = s.geysers ∧ t.frames = s.frames) ∧
      (p.state = 0 → p.scrubbing = false →
        (∃ t : State, exec (.run vf k n 0 v) s = .next t ∧ sets t { x with entry := v }) ∧
        (∃ t : State, exec (.run vf k n 1 v) s = .next t ∧ sets t { x with arg := v }) ∧
        (v.getLsbD 0 = true → (s.hub.owners.getD ch []).length ≠ 1 → (s.hub.refusals.getD key (0, false)).2 = false →
          ∃ (t : State) (m : TrapMsg), exec (.run vf k n 2 v) s = .next t ∧ sets t x ∧ t.hub.beacons = s.hub.beacons ++ [m] ∧ m.kind = 2 ∧
            m.part.toNat = tag) ∧
        (v.getLsbD 0 = true → (s.hub.owners.getD ch []).length = 1 →
          (x.state = 0 ∨ x.state = 2 → ∃ t : State, exec (.run vf k n 2 v) s = .next t ∧ starts t q) ∧
          (x.state = 1 → ∃ t : State, exec (.run vf k n 2 v) s = .next t ∧ sets t q) ∧
          (x.state = 3 → ∃ t : State, exec (.run vf k n 2 v) s = .next t ∧ sets t { q with held := true })) ∧
        (v.getLsbD 0 = false →
          (x.state = 1 → ∃ t : State, exec (.run vf k n 2 v) s = .next t ∧ sets t { q with state := 3 } ∧
            ⟨s.cycle + 1, .geyserThreadStop sk⟩ ∈ t.agenda) ∧
          (x.state ≠ 1 → ∃ t : State, exec (.run vf k n 2 v) s = .next t ∧ sets t { q with held := false })))) ∧
    (x.state ≠ 3 → exec (.geyserThreadStop sk) s = .next s) ∧
    (x.state = 3 → (s.frame fk).outs ≠ [] → exec (.geyserThreadStop sk) s =
      .next { s with agenda := s.agenda ++ [⟨s.cycle + 8, .geyserThreadStop sk⟩] }) ∧
    (x.state = 3 → (s.frame fk).outs = [] → (∀ d ∈ s.delayed, d.frame ≠ fk) →
      let save := (s.part (s.geyser ch).tag.toNat).state
      (save ≠ 0 → ∃ t : State, exec (.geyserThreadStop sk) s = .next t ∧ (t.slot sk).state = .stopped ∧
        (t.geyser ch).thread n = { x with state := 0 } ∧ t.frames = s.frames) ∧
      (save = 0 → x.held = false → ∃ t : State, exec (.geyserThreadStop sk) s = .next t ∧ (t.slot sk).state = .free ∧
        (t.slot sk).frame = none ∧ (t.geyser ch).thread n = { x with state := 0 } ∧
        SameRegsBut [] (s.frame fk) (t.frame fk) ∧ SameMemory s t) ∧
      (save = 0 → x.held = true → (s.hub.owners.getD ch []).length = 1 →
        ∃ t : State, exec (.geyserThreadStop sk) s = .next t ∧ starts t x) ∧
      (save = 0 → x.held = true → (s.hub.owners.getD ch []).length ≠ 1 →
        ∃ t : State, exec (.geyserThreadStop sk) s = .next t ∧ (t.slot sk).state = .free ∧
          (t.geyser ch).thread n = { x with state := 0, held := false }))

/-- R70, R75, R76, R397, R398, R410, R420, R421: the hub refuses a channel entry, a logical table, a route or a
guest-time offset that its rule forbids, and the old value stands; an accepted one has the effect the rule gives and
changes no other entry. A steering table must name owned channels; a rewritten communicator is ready and its
generation advances. A channel with k = 0 has exactly one owner, a rewritten communicator keeps its open rounds, and a route
entry keeps its defined bits (DEDUCED, log entry 70); an owner list that keeps its tags stops no thread (DESIGN CHOICE, log
entry 107). -/
def Obligations.HubTables : Prop :=
  ∀ (s : State) (tag : Nat), tag < 1024 →
    let p := s.part tag
    let b : BitVec 10 := BitVec.ofNat 10 tag
    let idle (u : Nat) : Prop := ∀ l ∈ (s.part u).launches, l.running = false
    (∀ (ch k : Nat) (os : List Owner),
      let old := s.hub.owners.getD ch []
      let good : Prop := k ≤ 4 ∧ (∀ o ∈ os, o.base.toNat ≤ o.limit.toNat) ∧ os.length ≤ 2 ^ k ∧ (k = 0 → os.length = 1) ∧
        ∀ (i j : Nat) (x y : Owner), i < j → os[i]? = some x → os[j]? = some y →
          (x.limit.toNat < y.base.toNat ∨ y.limit.toNat < x.base.toNat) ∧ (0 < k → x.t ≠ y.t)
      let same : Prop := os.map (·.tag) = old.map (·.tag)
      (¬ good → exec (.channelTableWrite ch k os) s = .next s) ∧
      (good → ∃ t : State, exec (.channelTableWrite ch k os) s = .next t ∧ t.hub.owners.getD ch [] = os ∧
        t.hub.channelK.getD ch 0 = k ∧ (∀ c : Nat, c ≠ ch → t.hub.owners.get? c = s.hub.owners.get? c) ∧ SameMemory s t ∧
        t.frames = s.frames ∧ (same → t.geysers = s.geysers) ∧
        (¬ same → (∀ n : Nat, 1 ≤ n → n ≤ 3 → ((t.geyser ch).thread n).state =
            (if ((s.geyser ch).thread n).state = 1 then 3 else ((s.geyser ch).thread n).state) ∧ ((t.geyser ch).thread n).held = false) ∧
          (∀ o : Owner, os = [o] → (t.geyser ch).tag = o.tag ∧ (t.geyser ch).epoch = (s.part o.tag.toNat).epoch)))) ∧
    (∀ es : List Nat,
      ((∃ c ∈ es, c ∉ s.partChannels tag) → exec (.steeringTableWrite tag es) s = .next s) ∧
      ((∀ c ∈ es, c ∈ s.partChannels tag) → ∃ t : State, exec (.steeringTableWrite tag es) s = .next t ∧ (t.part tag).steer = es ∧
        (∀ u : Nat, u ≠ tag → t.part u = s.part u) ∧ SameMemory s t)) ∧
    (∀ es : List (BitVec 32),
      let place (e : BitVec 32) := e.toNat % 2 ^ 24
      let here (e : BitVec 32) : Prop := e.toNat / 2 ^ 14 % 2 ^ 10 = s.module.toNat
      let core (e : BitVec 32) := e.toNat % 2 ^ 14
      let good : Prop := idle tag ∧ p.state = 0 ∧
        (∀ (i j : Nat) (x y : BitVec 32), i < j → es[i]? = some x → es[j]? = some y → place x ≠ place y) ∧
        ∀ e ∈ es, s.hasRoute (e.toNat / 2 ^ 14 % 2 ^ 10) = true ∧
          (here e → (s.core (core e)).failed = false ∧ ((s.core (core e)).epoch = 0 ∨ (s.core (core e)).tag = b))
      (¬ good → exec (.logicalTableWrite tag es) s = .next s) ∧
      (good → ∃ t : State, exec (.logicalTableWrite tag es) s = .next t ∧ (t.part tag).logical = es ∧ SameMemory s t ∧
        (∀ (l : Nat) (e : BitVec 32), es[l]? = some e → here e → (t.core (core e)).tag = b ∧ (t.core (core e)).epoch = p.epoch ∧
          (t.core (core e)).lcid = l) ∧
        (∀ c : Nat, (∀ e ∈ es, here e → core e ≠ c) → t.core c = s.core c ∧ (c ∈ s.partCores tag → c ∈ (t.part tag).left)) ∧
        (∀ u : Nat, u ≠ tag → t.part u = s.part u))) ∧
    (∀ (m : Nat) (e : BitVec 32) (sch : Option (List (Nat × Nat × Nat))),
      let spans (u : Part) : Prop := (∃ x ∈ u.logical, x.toNat / 2 ^ 14 % 2 ^ 10 = s.module.toNat) ∧
        ∃ x ∈ u.logical, x.toNat / 2 ^ 14 % 2 ^ 10 = m
      let good : Prop := (∀ y ∈ s.parts, spans y.2 → y.2.state = 3 ∨ idle y.1) ∧
        ∀ l : List (Nat × Nat × Nat), sch = some l → (∀ y ∈ l, y.1 < 1024) ∧ (l.map (fun y => (y.1, y.2.1))).Nodup
      (¬ good → exec (.routeTableWrite m e sch) s = .next s) ∧
      (good → ∃ t : State, exec (.routeTableWrite m e sch) s = .next t ∧ (t.route m).toNat = e.toNat % 2 ^ 26 ∧
        (∀ u : Nat, u ≠ m → t.route u = s.route u) ∧ t.hub.schedule = sch.getD s.hub.schedule ∧ t.parts = s.parts ∧ SameMemory s t)) ∧
    (∀ (n : Nat) (op : BitVec 2) (ms : List Nat),
      let good : Prop := op ≠ 3 ∧ 1 ≤ ms.length ∧ ms.length ≤ 65536 ∧ n < 4096
      (¬ good → exec (.communicatorWrite n b op ms) s = .next s) ∧
      (good → ∃ t : State, exec (.communicatorWrite n b op ms) s = .next t ∧
        t.hub.comms.getD n {} = { s.hub.comms.getD n {} with
          part := b, op := op, members := ms, state := 1, gen := (s.hub.comms.getD n {}).gen + 1 } ∧
        (∀ m : Nat, m ≠ n → t.hub.comms.get? m = s.hub.comms.get? m) ∧ SameMemory s t)) ∧
    (∀ x : Word,
      let good : Prop := p.restoring = false ∧ (p.state = 3 ∨ idle tag) ∧
        ∀ g : Nat, p.saved = some g → g ≤ (natWord s.time + x).toNat
      (¬ good → exec (.guestTimeOffsetWrite tag x) s = .next s) ∧
      (good → ∃ t : State, exec (.guestTimeOffsetWrite tag x) s = .next t ∧ t.part tag = { p with toff := x } ∧
        (∀ u : Nat, u ≠ tag → t.part u = s.part u) ∧ SameMemory s t))

/-- R10, R62, R82, R88, R99, R165, R171, R246, R356, R370 to R372, R384, R414, R417, R424, R429, R458: a write of any other
table or register of the hub takes its value, or clears the bits it names where the register is write-one-to-clear,
and nothing else; every such write answers a next state. A write of SLICE arms the slice; a root that is not 128 KiB
aligned is refused; bits [63:48] of budget word 1 stay; disabling a ring drops its count, and one rewritten with updates pending gives the notice that its new
CCOUNT makes due or arms its CTIME; a ring index is below 64; a power limit outside 1,000 to 3,600 W and a spill base during a
launch are discarded. A debug unit's return of a halted thread (R246) is such a write. -/
def Obligations.HubRegisters : Prop :=
  ∀ (s : State) (tag n m : Nat) (v : Word) (b32 : BitVec 32) (en en2 : Bool) (l : List Nat),
    let p := s.part tag
    let f := s.vf n
    let h := s.hub
    let gives (w : HubWrite) (r : State → Prop) : Prop := ∃ t : State, exec (.hubTableWrite w) s = .next t ∧ r t
    let part (w : HubWrite) (q : Part) : Prop := gives w (fun t => t.part tag = q ∧ (∀ u : Nat, u ≠ tag → t.part u = s.part u) ∧
      SameMemory s t ∧ t.frames = s.frames ∧ t.hub = h ∧ t.vfs = s.vfs)
    let vf (w : HubWrite) (g : Vf) : Prop := gives w (fun t => t.vf n = g ∧ (∀ u : Nat, u ≠ n → t.vf u = s.vf u) ∧
      SameMemory s t ∧ t.frames = s.frames ∧ t.hub = h ∧ t.parts = s.parts)
    let hub (w : HubWrite) (g : Hub) : Prop := gives w (fun t => t.hub = g ∧ SameMemory s t ∧ t.frames = s.frames ∧
      t.vfs = s.vfs ∧ t.parts = s.parts)
    let idle : Prop := ∀ x ∈ p.launches, x.running = false
    (∀ w : HubWrite, ∃ t : State, exec (.hubTableWrite w) s = .next t) ∧
    (v.toNat % 2 ^ 17 = 0 → part (.root tag v) { p with root := v.toNat }) ∧ (v.toNat % 2 ^ 17 ≠ 0 → part (.root tag v) p) ∧
    (idle → v.toNat % 2 ^ 30 = 0 → part (.spillBase tag v) { p with spill := v.toNat }) ∧
    (¬ idle → part (.spillBase tag v) p) ∧ part (.pageRequestEnable tag en) { p with pageReq := en } ∧
    part (.quota tag n m) { p with quotaEntries := n, quotaSlots := m } ∧ part (.budget tag 0 v) { p with budget0 := v } ∧
    part (.budget tag 1 v) { p with budget1 := natWord (p.budget1.toNat / 2 ^ 48 * 2 ^ 48 + v.toNat % 2 ^ 48) } ∧ part (.stealList tag m l) { p with steal := p.steal.put m l } ∧
    part (.watchdogDefault tag (v.setWidth 24)) { p with wdog := v.setWidth 24 } ∧
    part (.policy tag en en2) { p with lim := en, pol := en2 } ∧ part (.pasid tag (v.setWidth 20)) { p with pasid := v.setWidth 20 } ∧
    part (.context tag v) { p with ctx := v.toNat % 2 ^ 56 } ∧
    part (.resumeClear tag) { p with resume := false } ∧
    (64 ≤ m → ∀ w : Nat, exec (.hubTableWrite (.ring tag m w v)) s = .next s) ∧
    (tag < 1024 → m < 64 → ∀ (w : Nat) (r : Ring), w < 2 → r = (p.rings.getD m {}).write w v →
      let old := p.rings.getD m {}
      let q : Machine.Part := { p with rings := p.rings.put m r }
      (w = 0 → r = { old with rcb := v }) ∧
      (w = 1 → r = { old with
        ccount := v.setWidth 16, ctime := v.extractLsb' 16 32, en := v.getLsbD 48, pending := if v.getLsbD 48 then old.pending else 0 }) ∧
      (r.en = false ∨ r.pending = 0 ∨ (r.pending < max r.ccount.toNat 1 ∧ r.ctime = 0) → part (.ring tag m w v) q) ∧
      (r.en = true → 0 < r.pending → r.pending < max r.ccount.toNat 1 → r.ctime ≠ 0 → gives (.ring tag m w v) (fun t =>
        t.part tag = q ∧ ⟨s.cycle + ((r.oldest + r.ctime.toNat - s.time) * 7 + 9) / 10, .ringNoticeTimeout tag m⟩ ∈ t.agenda)) ∧
      (r.en = true → 0 < r.pending → max r.ccount.toNat 1 ≤ r.pending → s.causesHeld = false → gives (.ring tag m w v) (fun t =>
        t.part tag = { p with rings := (p.rings.put m r).put m { r with pending := 0 } } ∧
        t.hub.causes = h.causes ++ [⟨5, BitVec.ofNat 11 (tag + 1), 0, BitVec.ofNat 32 r.pending, 0, natWord s.time⟩]))) ∧
    (v = 0 → gives (.slice tag v) (fun t => t.part tag = { p with slice := 0 } ∧
      (∀ e ∈ t.agenda, e.act ≠ .preemptSlice tag) ∧ SameMemory s t)) ∧
    (v ≠ 0 → gives (.slice tag v) (fun t => t.part tag = { p with slice := v.toNat } ∧ SameMemory s t ∧
      ∀ e ∈ t.agenda, e.act = .preemptSlice tag → e.notBefore = s.cycle + ((v.toNat - s.time) * 7 + 9) / 10)) ∧
    (tag < 1024 → m < 64 → gives (.fifoOwner n m (some tag)) (fun t =>
      t.fifo (n * 64 + m) = { s.fifo (n * 64 + m) with owner := some (BitVec.ofNat 10 tag) } ∧
      (∀ u : Nat, u ≠ n * 64 + m → t.fifo u = s.fifo u) ∧ SameMemory s t)) ∧
    gives (.causeRing v) (fun t => t.hub.crcb = v ∧ t.hub.causes = h.causes ∧ SameMemory s t ∧
      ((v = 0 ∨ h.causes = []) → t.hub.hostReqs = h.hostReqs)) ∧
    (∀ r : Ring, r = h.ccoal.write 1 v →
      (r.en = false ∨ r.pending = 0 → hub (.coalesce v) { h with ccoal := { h.ccoal with
        ccount := v.setWidth 16, ctime := v.extractLsb' 16 32, en := v.getLsbD 48,
        pending := if v.getLsbD 48 then h.ccoal.pending else 0 } }) ∧
      (r.en = true → 0 < r.pending → max r.ccount.toNat 1 ≤ r.pending →
        hub (.coalesce v) { h with ccoal := { r with pending := 0 }, msix := h.msix ++ [0] })) ∧
    hub .raiseMinimum { h with minVersion := min 64 (h.minVersion + 1) } ∧
    hub (.clearCovf b32) { h with covf := h.covf &&& ~~~ b32 } ∧ hub (.clearRdrop b32) { h with rdrop := h.rdrop &&& ~~~ b32 } ∧
    hub (.clearLdown (b32.setWidth 18)) { h with ldown := h.ldown &&& ~~~ (b32.setWidth 18) } ∧
    (1000 ≤ n → n ≤ 3600 → hub (.powerLimit n) { h with powerLimit := n }) ∧ (n < 1000 ∨ 3600 < n → hub (.powerLimit n) h) ∧
    (let e := h.errors.getD n {}
     hub (.clearErrors n 0 b32) { h with errors := h.errors.put n { e with corr := e.corr &&& ~~~ b32 } } ∧
     hub (.clearErrors n 1 b32) { h with errors := h.errors.put n { e with trans := e.trans &&& ~~~ b32 } } ∧
     hub (.clearErrors n 2 b32) { h with errors := h.errors.put n { e with last := e.last &&& ~~~ b32 } }) ∧
    vf (.badlClear n b32) { f with badl := f.badl &&& ~~~ b32 } ∧ vf (.busMaster n en) { f with bme := en } ∧
    vf (.ats n en) { f with ats := en } ∧ vf (.pageRequestAllocation n m) { f with alloc := m } ∧
    (∀ (va : Nat) (bs : List Byte), s.host.wf = true → gives (.hostStore n va bs) (fun t =>
      t.host.bytes (fnKey n va) bs.length = bs ∧
      (∀ a : Nat, a < fnKey n va ∨ fnKey n va + bs.length ≤ a → t.host.read a = s.host.read a) ∧
      t = { s with host := t.host })) ∧
    (tag < 1024 → ∀ va len : Nat, gives (.invalidate tag va len en) (fun t => ∃ x : Inval, t.hub.invals = h.invals ++ [x] ∧ x.tag.toNat = tag ∧
      x.va = va ∧ x.len = len ∧ x.whole = en ∧ x.channels = s.partChannels tag ∧ x.frame = none ∧ SameMemory s t)) ∧
    (∀ fk : Nat, (s.slot n).frame = some fk → (s.slot n).state = .halted →
      ((s.frame fk).atMarker = false → gives (.debugResume n) (fun t => t.slot n = { s.slot n with state := .run } ∧
        (∀ u : Nat, u ≠ n → t.slot u = s.slot u) ∧ t.frames = s.frames ∧ SameMemory s t)) ∧
      ((s.frame fk).atMarker = true → s.slotOf fk = some n → (∀ u : Nat, (s.slot u).frame = some fk → u = n) →
        gives (.debugResume n) (fun t => (t.slot n).state = if (s.frame fk).outs = [] then .run else .marker))) ∧
    ((s.slot n).state ≠ .halted → exec (.hubTableWrite (.debugResume n)) s = .next s) ∧
    gives (.moduleNumber (v.setWidth 10)) (fun t => t = { s with module := v.setWidth 10 }) ∧
    hub (.timestampReference n) { h with tsRef := n }

/-! ## Links, time, power, health and module reset -/

/-- R151, R353, R418 to R421: a flit with a correct CRC on a link that is up frees what it acknowledges and grants credits; its
packet is taken once, in the order of its sequence numbers, into the module's network, 2 h(t) cycles and a message's 8 from its
place, or over the next link, and ends the request it answers; a retry response keeps the SEND for its resend; a flit that
fails its CRC changes nothing. A packet leaves on a link while its channel has credits and the replay buffer of 512 flits has
room. A link that goes down sets LDOWN, raises MSI-X vector 1, answers every unanswered access as refused and breaks the
communicators of its tree, whose open reduces end with ISOL; it stays down until it is retrained. R154, R422, R424, R427 to
R429: the timestamp is slewed by at most 200 ppm and counts 10/7 ns a cycle at no slew; over a limit each partition takes a
factor k of 8 to 16 at its next budget period, the lowest of its modules, else 16; supplies stay within 320 to 420 mV, and a
die that cannot hold its clock at 420 mV is reported. An uncorrectable word found on patrol, be it a word of a pool, a metadata
word of 64 state bits (R56), a line of memory or of a cache, or other storage, is counted by its die, a transient one
rewritten, a lasting one reported. The model's choices: which k and which temperatures exceed (log entry 7), how acknowledgements
and credits travel (log entries 71, 116), what a packet sent again does to DETMISS, and that an outside input names the storage
that goes bad (log entry 73). -/
def Obligations.Links : Prop :=
  (∀ (s : State) (l : Nat) (h : FlitHead) (x : Packet), l < 18 →
    let k := s.hub.links.getD l {}
    let link (t : State) : Link := t.hub.links.getD l {}
    let bit (b : BitVec 18) : Bool := b.getLsbD l
    let others (t : State) : Prop := ∀ j : Nat, j ≠ l → t.hub.links.get? j = s.hub.links.get? j
    let flits (r : List (Nat × Packet)) : Nat := (r.map (fun y => packetFlits y.2)).sum
    let head (t : State) : Prop := (link t).up = true ∧ (flits k.replay ≤ 512 → flits (link t).replay ≤ 512) ∧
      (k.waiting = [] → (link t).waiting = [] ∧ (link t).sent = k.sent ∧
        (link t).replay = k.replay.filter (fun y => decide (h.ack < y.1 + packetFlits y.2)) ∧
        (∀ vc : Nat, (link t).credit vc = k.credit vc + ((h.credits.filter (fun y => y.1 == vc)).map (·.2)).sum)) ∧
      (∀ y : Packet, k.waiting = [y] → h.ack = 0 → h.credits = [] →
        if packetFlits y ≤ k.credit y.vc ∧ flits k.replay + packetFlits y ≤ 512 then
          (link t).waiting = [] ∧ (link t).replay = k.replay ++ [(k.sent, y)] ∧ (link t).sent = k.sent + packetFlits y ∧
            (link t).credit y.vc = k.credit y.vc - packetFlits y
        else (link t).waiting = [y] ∧ (link t).replay = k.replay)
    (∀ (ok : Bool) (p : Option Packet), ok = false ∨ k.up = false → exec (.flitReceive l ok ⟨h, p⟩) s = .next s) ∧
    (k.up = true → h.again = false →
      (∃ t : State, exec (.flitReceive l true ⟨h, none⟩) s = .next t ∧ t = { s with hub := t.hub } ∧ head t ∧ others t ∧
        (link t).received = k.received ∧ (link t).unanswered = k.unanswered) ∧
      (h.seq ≠ k.received % 1024 → exec (.flitReceive l true ⟨h, some x⟩) s = exec (.flitReceive l true ⟨h, none⟩) s)) ∧
    (k.up = true → h.again = true → ∃ t : State, exec (.flitReceive l true ⟨h, none⟩) s = .next t ∧ head t ∧ others t ∧ SameMemory s t ∧
      ∀ fk : Nat, t.frame fk = s.frame fk ∨ (t.frame fk = (s.frame fk).setSticky bitDetmiss ∧
        ∃ y ∈ k.replay ++ k.waiting.map (fun y => (0, y)), y.2.vc = 5 ∧ y.2.sender = fk)) ∧
    (k.up = true → h.again = false → h.seq = k.received % 1024 →
      (x.dst < 2 ^ 23 → retriedSend k.unanswered x = none → ∃ (t : State) (y : Packet),
        let due := s.cycle + 2 * hubHops (endPos x.dst) + (match x.body with | .access _ => 0 | _ => 8)
        exec (.flitReceive l true ⟨h, some x⟩) s = .next t ∧ t.net = s.net ++ [y] ∧
        y = { x with id := s.nextId, after := [], notBefore := due } ∧ ⟨due, packetStep y⟩ ∈ t.agenda ∧
        (link t).received = k.received + packetFlits x ∧ head t ∧ others t ∧ SameMemory s t ∧ t.frames = s.frames ∧
        ((∀ r ∈ k.unanswered, answers x r = false) → (link t).unanswered = k.unanswered) ∧
        (∀ (l1 : List Packet) (r : Packet) (l2 : List Packet), k.unanswered = l1 ++ r :: l2 → (∀ z ∈ l1, answers x z = false) → answers x r = true →
          (link t).unanswered = l1 ++ l2)) ∧
      (∀ q : Packet, x.dst < 2 ^ 23 → retriedSend k.unanswered x = some q → ∃ t : State, exec (.flitReceive l true ⟨h, some x⟩) s = .next t ∧
        (t.core (tabKey q.sender)).retryBuf = (s.core (tabKey q.sender)).retryBuf ++ [q] ∧ t.net = s.net ∧ SameMemory s t ∧
        ⟨s.cycle + 2 * hubHops (endPos x.dst) + 8 + 64, .sendRetryResend q.id⟩ ∈ t.agenda) ∧
      (∀ (j : Nat) (r : Link), 2 ^ 23 ≤ x.dst → 2 ^ 23 ≤ x.src → j = s.linkTo (x.dst - 2 ^ 23) x.vc → j ≠ l → r = s.hub.links.getD j {} →
        r.up = true → r.waiting = [] → packetFlits x ≤ r.credit x.vc → flits r.replay + packetFlits x ≤ 512 →
        s.fabricHolds x.tag.toNat = false → ∃ t : State, exec (.flitReceive l true ⟨h, some x⟩) s = .next t ∧ t.net = s.net ∧ SameMemory s t ∧
          t.frames = s.frames ∧ (link t).received = k.received + packetFlits x ∧
          (t.hub.links.getD j {}).replay = r.replay ++ [(r.sent, x)] ∧ (t.hub.links.getD j {}).sent = r.sent + packetFlits x)) ∧
    (k.up = false → exec (.linkDown l) s = .next s) ∧
    (k.up = true → (∀ y ∈ k.unanswered, y.src < 2 ^ 23) → ∃ t : State, exec (.linkDown l) s = .next t ∧ link t = {} ∧
      others t ∧ t.hub.msix = s.hub.msix ++ [1] ∧
      (∀ j : Nat, j < 18 → t.hub.lup.getLsbD j = (s.hub.lup.getLsbD j && j != l) ∧
        t.hub.ldown.getLsbD j = (s.hub.ldown.getLsbD j || j == l)) ∧ SameMemory s t ∧
      (∀ y ∈ k.unanswered, ∀ a : WordAcc, y.body = .access a → ∃ r ∈ t.net, r.dst = y.src ∧
        r.body = .response a.out a.part 0 false true false false false a) ∧
      (∀ (n : Nat) (c : Comm), s.hub.comms.get? n = some c → c.state = 1 →
        (s.commUses c l = true → (t.hub.comms.getD n {}).state = 2 ∧ (t.hub.comms.getD n {}).rounds = [] ∧ (t.hub.comms.getD n {}).remote = [] ∧
          ∀ r ∈ c.rounds, ∀ id ∈ r, ∀ y : Copy, s.copies.get? id = some y → ∃ z : Copy, t.copies.get? id = some z ∧ z.ended = true ∧
            z.status = some 5) ∧
        (s.commUses c l = false → (∀ e ∈ s.hub.comms, e.1 = n → e.2 = c) → t.hub.comms.getD n {} = c))) ∧
    (∃ t : State, exec (.linkRetrain l) s = .next t ∧ link t = { k with up := true } ∧ bit t.hub.lup = true ∧
      t.hub.ldown = s.hub.ldown ∧ others t ∧
      (∀ j : Nat, j ≠ l → t.hub.lup.getLsbD j = s.hub.lup.getLsbD j) ∧ SameMemory s t)) ∧
  (∀ (s : State) (ppm : Int) (rs others : List (Nat × Nat)) (die mv addr : Nat) (dev : Bool),
    (∃ t : State, exec (.timestampSync ppm) s = .next t ∧ t = { s with slew := t.slew } ∧ -200 ≤ t.slew ∧ t.slew ≤ 200 ∧
      (-200 ≤ ppm → ppm ≤ 200 → t.slew = ppm)) ∧
    (-1000000 ≤ s.slew → 0 ≤ s.frac → let t := s.tickTime
      ((t.time : Int) - s.time) * 7000000 + t.frac = s.frac + 10 * (1000000 + s.slew) ∧ s.time ≤ t.time ∧ 0 ≤ t.frac ∧
      t.frac < 7000000) ∧
    (∃ t : State, exec (.powerSample ⟨rs, others⟩) s = .next t ∧ SameMemory s t ∧ t.hub = s.hub ∧
      ∀ (u : Nat) (p : Machine.Part), s.parts.get? u = some p →
        let tells (x : Nat × Nat) : Prop := x ∈ others ∧ x.1 ≠ s.module.toNat ∧ ∃ e ∈ p.logical, e.toNat / 2 ^ 14 % 2 ^ 10 = x.1
        ∃ m k : Nat, t.parts.get? u = some { p with kNext := k } ∧ 8 ≤ m ∧ m ≤ 16 ∧ k ≤ m ∧ (∀ x : Nat × Nat, tells x → k ≤ x.2) ∧
          (k = m ∨ ∃ x : Nat × Nat, tells x ∧ k = x.2) ∧
          ((∀ r ∈ rs, r.1 = 0 ∧ r.2 ≤ s.hub.powerLimit) → (∀ c ∈ s.partCores u, c / 2048 ∉ s.hub.slowDies) → m = 16)) ∧
    (∀ holds : Bool, ∃ t : State, exec (.ageingMonitorRead die mv holds) s = .next t ∧ 320 ≤ t.hub.supply.getD die 0 ∧
      t.hub.supply.getD die 0 ≤ 420 ∧ (320 ≤ mv → mv ≤ 420 → t.hub.supply.getD die 0 = mv) ∧
      (∀ d : Nat, d ≠ die → t.hub.supply.get? d = s.hub.supply.get? d ∧ (d ∈ t.hub.slowDies ↔ d ∈ s.hub.slowDies)) ∧
      (die ∈ t.hub.slowDies ↔ 420 ≤ mv ∧ holds = false) ∧
      t.hub.msix = s.hub.msix ++ (if 420 ≤ mv ∧ holds = false then [1] else []) ∧ SameMemory s t) ∧
    (∀ (key d : Nat) (tg : Option (BitVec 10)),
      let owner (e : Nat) : Option (BitVec 10) := if (s.core e).epoch = 0 then none else some (s.core e).tag
      ((dev = true ∧ addr < 2 ^ 42 ∧ key = 2 ^ 30 + addr / 64 ∧ d = addr / 2 ^ 32 / 128 ∧ tg = s.patrolTag true addr) ∨
        (∃ n : Nat, dev = true ∧ n < 2 ^ 42 ∧ addr = 2 ^ 42 + n ∧ key = 2 ^ 40 + n / 64 ∧ d = n / 2 ^ 32 / 128 ∧ tg = s.patrolTag true addr) ∨
        (dev = false ∧ addr < 2 ^ 31 ∧ key = addr / 8 ∧ d = addr / 2 ^ 28 ∧ tg = owner (addr / 2 ^ 17)) ∨
        (∃ n : Nat, dev = false ∧ n < 2 ^ 22 ∧ addr = 2 ^ 31 + n ∧ key = 2 ^ 29 + n ∧ d = n / 2 ^ 19 ∧ tg = owner (n / 2 ^ 8)) ∨
        (∃ n : Nat, dev = false ∧ n < 2 ^ 26 ∧ addr = 2 ^ 32 + n ∧ key = 2 ^ 28 + n / 8 ∧ d = n / 2 ^ 23 ∧
          tg = if (s.hub.owners.getD (n / 2 ^ 16) []).length = 1 then some (s.geyser (n / 2 ^ 16)).tag else none) ∨
        (dev = false ∧ addr = 2 ^ 33 + key ∧ d = (endPos (keyEnd key)).1 ∧ tg = s.patrolTag false addr)) →
      let e := s.hub.errors.getD d {}
      let up (n : BitVec 32) : BitVec 32 := if n = -1 then n else n + 1
      let same (t : State) : Prop := SameMemory s t ∧ t.frames = s.frames ∧ t.cores = s.cores ∧ t.parts = s.parts
      exec (.patrolScrub dev addr 0) s = .next s ∧
      (∃ t : State, exec (.patrolScrub dev addr 1) s = .next t ∧ t.hub.errors.getD d {} = { e with corr := up e.corr } ∧ same t ∧ t.bad = s.bad) ∧
      (∃ t : State, exec (.patrolScrub dev addr 2) s = .next t ∧ t.hub.errors.getD d {} = { e with trans := up e.trans } ∧ same t ∧
        t.bad.get? key = none) ∧
      (∃ (t : State) (m : TrapMsg), exec (.patrolScrub dev addr 3) s = .next t ∧ t.hub.errors.getD d {} = { e with last := up e.last } ∧ same t ∧
        t.bad.get? key = some .lasting ∧ t.hub.beacons = s.hub.beacons ++ [m] ∧ m.kind = 4 ∧ m.cause = 0x12 ∧ m.die = d ∧
        m.page = (if dev then some (addr % 2 ^ 42 / 2 ^ 16) else none) ∧ m.noPart = tg.isNone ∧ ∀ b : BitVec 10, tg = some b → m.part = b) ∧
      (∀ (i : Nat) (x : Err), (i = 4 ∧ x = .transient) ∨ (i = 5 ∧ x = .lasting) ∨ (i = 6 ∧ x = .correctable) →
        ∃ t : State, exec (.patrolScrub dev addr i) s = .next t ∧ t.bad.get? key = some x ∧ t.hub = s.hub ∧ same t)))

/-- R93, R99, R395, R400, R403, R407, R416, R417, R430, R431: a module reset with an image that verifies, by the fused digest of
its key, its signature and the fused minimum of its version, records its digest and leaves every partition unassigned and
every pool, register, queue, entry and word of device memory as after a full scrub; one that does not verify leaves the
module in recovery. It never lowers the scrub sequence number or the fused minimum, leaves host memory alone, and re-issues
the attestation certificate with the boot log where the image is another than the last. The host link's state is set by its
changes. The model's choices: what outlasts the reset beside these, and the free fused digest (log entry 10); the chain's bytes
and when it is issued again (log entry 97). -/
def Obligations.ModuleReset : Prop :=
  ∀ (s : State) (image : BootImage) (up : Bool),
    (∀ (ok : Bool) (digest : BitVec 256),
      (ok = true ↔ image.signed = true ∧ image.keyDigest = Config.fusedKeyDigest ∧ s.hub.minVersion ≤ image.version) →
      ∃ t : State, exec (.moduleReset image digest) s = .next t ∧ t.hub.recovery = !ok ∧ t.hub.scrubSeq = s.hub.scrubSeq ∧
      t.hub.minVersion = s.hub.minVersion ∧ t.hub.bootLog = s.hub.bootLog ++ (if ok then [digest] else []) ∧ t.host = s.host ∧
      t.hub.attest = (if ok = true ∧ s.hub.bootLog.getLast? ≠ some digest then ⟨s.hub.attest.issue + 1, s.hub.bootLog ++ [digest]⟩
        else s.hub.attest) ∧
      (∀ i : Nat, s.attestChain i = Config.attestChain s.hub.attest.issue s.hub.attest.log i) ∧
      (∀ a : Nat, t.pool.read a = 0 ∧ t.gpool.read a = 0 ∧ t.dev.read a = 0) ∧ (∀ a : Nat, t.full.get? a = none) ∧
      (∀ k : Nat, (t.core k).epoch = 0 ∧ (t.core k).pword = 0 ∧ (t.core k).tvec = 0 ∧ (t.core k).svec = 0 ∧ (t.core k).timer = 0 ∧
        (t.core k).eseqNext = 1 ∧ (t.core k).copyNext = 1 ∧ (t.core k).dtab = [] ∧ (t.core k).order = [] ∧
        (t.core k).mail = [] ∧ (t.core k).inbox = []) ∧
      (∀ k : Nat, (t.frame k).state = .free ∧ (t.slot k).state = .free ∧ (t.slot k).frame = none ∧ (t.frame k).pc = 0 ∧
        ∀ n : Nat, (t.frame k).rg n = 0) ∧
      (∀ k : Nat, (t.future k).state = .free ∧ nextGen (t.future k) = 0x10 ∧ (t.fifo k).items = [] ∧ (t.cluster k).tasks = []) ∧
      (∀ u : Nat, (t.part u).assigned = false ∧ (t.part u).epoch = 0 ∧ (t.part u).logical = [] ∧ (t.part u).launches = [] ∧
        (t.part u).slice = 0 ∧ (t.part u).state = 0 ∧ (t.part u).rings = []) ∧
      (∀ v : Nat, (t.vf v).gen = 0 ∧ (t.vf v).badl = 0 ∧ (t.vf v).stale = 0 ∧ (t.vf v).token = 0 ∧ (t.vf v).certseq = 0 ∧
        (t.vf v).prring = 0 ∧ (t.vf v).nextRid = 0) ∧
      t.hub.crcb = 0 ∧ t.hub.covf = 0 ∧ t.hub.rdrop = 0 ∧ t.hub.lup = 0 ∧ t.hub.ldown = 0 ∧ t.net = [] ∧ t.copies = [] ∧
      t.agenda = [] ∧ t.unperf = [] ∧ t.waitq = []) ∧
    (∃ t : State, exec (.hostLinkChange up) s = .next t ∧ t.hub = { s.hub with hostUp := up } ∧ t = { s with hub := t.hub })

/-! ## Reset, steps and encodings -/

/-- R7, R34, R75, R186, R237, R243, R247, R384, R393, R395, R397, R400, R414, R417, R430, R447: right after reset memory
is canonical and lists nothing, no core belongs to a partition, decode tables are in their reset state, and every
register for which the spec gives a reset value holds it; thread 0 of a Geyser is at level M (R7). That the time is 0 is the
model's choice (log entry 5), and so is 0 or empty for what has no stated reset value (log entry 9). -/
def Obligations.Reset : Prop :=
  let s := State.reset
  s.memWf = true ∧ s.pool = [] ∧ s.gpool = [] ∧ s.dev = [] ∧ s.full = [] ∧ s.hub.recovery = false ∧ s.time = 0 ∧
  (∀ k : Nat, let c := s.core k
    c.epoch = 0 ∧ c.tvec = 0 ∧ c.svec = 0 ∧ c.timer = 0 ∧ c.ering = 0 ∧ c.eseqNext = 1 ∧ c.copyNext = 1 ∧ c.dtab = [] ∧
    c.order = [] ∧ (∀ i : Nat, i < 256 → c.orderAt i = BitVec.ofNat 8 i) ∧ (∀ i : Nat, c.dtabAt i = 0)) ∧
  (∀ k : Nat, let f := s.frame k
    f.status = (if isGeyserFrame k = true ∧ frameNum k = 0 then 2 else 0) ∧ f.epc = 0 ∧ f.ecause = 0 ∧ f.eval = 0 ∧ f.estat = 0 ∧ f.wdogLimit = 0 ∧ f.wdogCount = 0 ∧ f.energy = 0 ∧
    f.rp 0 = 0xFFFF ∧ f.rg 0 = 0) ∧
  (∀ ch t : Nat, let x := (s.geyser ch).thread t
    x.entry = 0 ∧ x.arg = 0 ∧ x.priv = false ∧ x.state = 0 ∧ x.cause = 0) ∧
  (∀ p : Nat, let x := s.part p
    x.slice = 0 ∧ x.ctx = 0 ∧ x.state = 0 ∧ x.err = 0 ∧ x.restoring = false ∧ x.epoch = 0 ∧
    ∀ i : Nat, (x.rings.getD i {}).rcb = 0 ∧ (x.rings.getD i {}).en = false ∧ (x.rings.getD i {}).ccount = 0 ∧ (x.rings.getD i {}).ctime = 0) ∧
  (∀ v : Nat, let x := s.vf v
    x.stale = 0 ∧ x.badl = 0 ∧ x.prring = 0 ∧ x.token = 0 ∧ x.certseq = 0 ∧ x.gen = 0 ∧ x.pgresp0 = 0 ∧ x.pgresp1 = 0) ∧
  s.hub.crcb = 0 ∧ s.hub.covf = 0 ∧ s.hub.rdrop = 0 ∧ s.hub.ldown = 0 ∧ (∀ m : Nat, s.route m = 0x3FF) ∧
  (∀ n : Nat, (s.hub.comms.getD n {}).state = 0 ∧ (s.hub.comms.getD n {}).gen = 0)

/-- R156, R158, R160, R430: a step runs the decoded instruction: where the next move is the issue of a slot, no cause
is due at its boundary and the bundle at its pc is one unguarded operation i that neither traps nor stalls nor waits,
the step is exec of i after the pc has moved past the bundle, and then the bundle's end. The turns of a cycle come
before the activities due in it (R47). An outside input and a due
activity are executed as they stand; a module in recovery stops at everything but a reset. The order of activities is
the tape's (log entry 24); at a core in deterministic mode the activity that the fixed rotation of its agents puts first goes
before those that are due at its bank ports (R46; the order of the agents is log entry 117). -/
def Obligations.StepRunsDecoded : Prop :=
  ∀ s : State,
    (∀ ms : List Move, s.hub.recovery = true → (s.tape = [] ∨ s.tape = .issue :: ms ∨ (∃ k : Nat, s.tape = .pending k :: ms) ∨
      (∃ i : Instr, s.tape = .input i :: ms ∧ isReset i = false)) → step s = .fault .recovery) ∧
    (∀ (i : Instr) (ms : List Move), s.tape = .input i :: ms → isInput i = true → (s.hub.recovery = false ∨ isReset i = true) →
      step s = exec i { s with tape := ms }) ∧
    (s.hub.recovery = false →
      (∀ (k : Nat) (ms : List Move) (e : Event), s.tape = .pending k :: ms → s.thisCycle = [] → s.agenda[k]? = some e → e.notBefore ≤ s.cycle →
        (∀ x : Nat × Nat, s.bankAgent e.act = some x → (s.core x.1).det = false) →
        step s = exec e.act { s with tape := ms, agenda := s.agenda.eraseIdx k }) ∧
      (∀ (k : Nat) (e : Event), s.tape = [] → s.thisCycle = [] → s.agenda[k]? = some e → e.notBefore ≤ s.cycle →
        (∀ (j : Nat) (x : Event), j < k → s.agenda[j]? = some x → s.cycle < x.notBefore) →
        (∀ x : Nat × Nat, s.bankAgent e.act = some x → (s.core x.1).det = false) →
        step s = exec e.act { s with agenda := s.agenda.eraseIdx k }) ∧
      (∀ (k c a : Nat) (e : Event), s.agenda[k]? = some e → s.bankAgent e.act = some (c, a) → (s.core c).det = true →
        ∃ (x : Event) (b : Nat), s.agenda[s.bankFirst k]? = some x ∧ s.bankAgent x.act = some (c, b) ∧
          ∀ (j d : Nat) (y : Event), s.agenda[j]? = some y → y.notBefore ≤ s.cycle → s.bankAgent y.act = some (c, d) →
            Config.bankRank (s.cycle % 8) b ≤ Config.bankRank (s.cycle % 8) d) ∧
      (s.tape = [] → (∀ x ∈ s.agenda, s.cycle < x.notBefore) → s.thisCycle = [] → step s = .next s.tick ∧
        s.tick.cycle = s.cycle + 1) ∧
      (∀ (sk : Nat) (sks : List Nat) (ms : List Move) (fk : Nat) (l : ILine) (b : Bundle) (i : Instr),
        (s.tape = .issue :: ms ∨ (s.tape = ms ∧ (ms = [] ∨ ∃ (k : Nat) (l : List Move), ms = .pending k :: l))) →
        s.thisCycle = sk :: sks → s.detDue true = none →
        let s0 := { s with tape := ms, thisCycle := sks }
        let f := s.frame fk
        let pc := f.pc
        s.inRotation sk = true → (s.slot sk).frame = some fk → f.trapPend = none → s.dueSteps sk fk = [] → f.waits = [] →
        (s.cluster (if isGeyserFrame fk then 1024 + frameCore fk else fk / 1024)).icache.find?
          (fun l => l.va == pc.toNat / 2 ^ 6 % 2 ^ 50 * 64 && l.tag == s.frameTag fk && l.epoch == s.frameEpoch fk) = some l →
        s.errorAt (istoreErrKey (istoreOf fk)) ≠ some true →
        fetchBundle l.data (pc.toNat % 32) (isGeyserFrame fk) = .ok b → b.ops.map (fun o => (o.dec, o.guard)) = [(.op i, none)] →
        let next := if pc.toNat % 32 + b.len < l.data.heads then pc.toNat / 2 ^ 6 % 2 ^ 50 * 64 + pc.toNat % 32 + b.len
          else (pc.toNat / 2 ^ 6 % 2 ^ 50 * 64 + 64) % 2 ^ 56
        let rx := b.ops.any (·.rx)
        let cur : Cur := { sk, fk, bpc := pc, npc := natWord next, rx, sw := b.sw, pre := f, slot := s.slot sk }
        let start := { s0 with cur }
        start.hazardOf i = none → (∀ key : Nat, start.firstError (start.regWords i) ≠ some (key, true)) → fateOf i (trial start i) = .go → acquires i = false →
        ∃ u : State, u.cur = { cur with ops := [i] } ∧ (u.frame fk).pc = natWord next ∧
          SameRegsBut [] f (u.frame fk) ∧ SameControl f (u.frame fk) ∧ SameMemory s u ∧ (∀ k : Nat, k ≠ fk → u.frame k = s.frame k) ∧
          u.slots = s.slots ∧ u.cores = s.cores ∧ u.net = s.net ∧ u.agenda = s.agenda ∧
          step s = (match exec i u with | .next t => .next t.finishBundle | o => o)))

/-- R201 to R203, R211 to R213: words written out bit by bit from the encoding tables decode to the instructions they
stand for, one or more of every class of tail. -/
def Obligations.DecodeWords : Prop :=
  decodeTableWord 48 0x88000C108000 = some (.add ⟨false, false, false⟩ 3 1 2) ∧
  decodeTableWord 48 0x88141410C020 = some (.adc ⟨false, false, false⟩ 5 1 3 0 2) ∧
  decodeTableWord 48 0x88E000000021 = some (.trap 0x21) ∧
  decodeTableWord 48 0x8881242FFFF8 = some (.st 9 2 .gen .d 0xFFF8) ∧
  decodeTableWord 80 0x8C881020FC6600000008 = some (.amo 4 2 3 .gen true .add ⟨true, true, 4⟩ 8) ∧
  decodeTableWord 80 0x9C633944200000000038 = some (.vplaneTr .rne 1 7 5 2 2) ∧
  decodeTableWord 80 0xAC000000000000000004 = some (.alease 4) ∧
  decodeTableWord 80 0xAC020000000000000417 = some (.aset ⟨false, false, 0⟩ false 7 1 false true false)

/-- R202, R203, R206 to R213: decoding the head and tail that encode gives a well-formed instruction gives that
instruction, for every operand; and a word that decodes to an operation is what encode gives for it, so that no word
has two meanings and no bit is dropped. A line of one bundle holds the head and the tail it was made of. -/
def Obligations.DecodeEncode : Prop :=
  (∀ (i : Instr) (h : BitVec 16) (t : BitVec 64), i.wf = true → encode i = some (h, t) →
    decodeOp (headSlot h.toNat) (headOp h.toNat) t = .op i ∧ headEnd h.toNat = true ∧ headSw h.toNat = false ∧
    opClass (headSlot h.toNat) (headOp h.toNat) = some (headClass h.toNat) ∧
    t.toNat < 2 ^ (8 * classBytes (headClass h.toNat))) ∧
  (∀ (slot op c : Nat) (t : BitVec 64) (i : Instr), slot < 3 → opClass slot op = some c → t.toNat < 2 ^ (8 * classBytes c) →
    decodeOp slot op t = .op i → encode i = some (opHead slot op, t)) ∧
  (∀ (h : BitVec 16) (t : BitVec 64), headEnd h.toNat = true → t.toNat < 2 ^ (8 * classBytes (headClass h.toNat)) →
    (lineOf h t).heads = 1 ∧ (lineOf h t).head 0 = h.toNat ∧ (lineOf h t).tail 0 = t ∧ (lineOf h t).badReason = none ∧
    (lineOf h t).startsBundle 0 = true)

/-- R22, R39, R428: a step keeps every byte memory in its canonical form, whatever instruction or activity it runs. -/
def Obligations.StepKeepsMemoryForm : Prop :=
  ∀ s t : State, s.memWf = true → step s = .next t → t.memWf = true
end

