-- ==== Sys2Proof/Laws/Encode.lean ====
section
/-! SUPPORT. Fields of packed tails, and the codes of the tables: what a proof about an encoding cites. -/

namespace Sys2Proof

theorem fld_or (a b : BitVec 64) (lo n : Nat) : fld (a ||| b) lo n = fld a lo n ||| fld b lo n := by
  simp [fld, BitVec.extractLsb'_or]

theorem flag_or (a b : BitVec 64) (i : Nat) : flag (a ||| b) i = (flag a i || flag b i) := by simp [flag]

theorem zeros_iff (t : BitVec 64) (lo n : Nat) : zeros t lo n = true ↔ fld t lo n = 0#n := by simp [zeros, fld]

theorem zeros_or (a b : BitVec 64) (lo n : Nat) : zeros (a ||| b) lo n = (zeros a lo n && zeros b lo n) := by
  rw [Bool.eq_iff_iff]; simp [zeros_iff, fld_or]

theorem fld_pk_self {n : Nat} (lo : Nat) (x : BitVec n) (h : lo + n ≤ 64) : fld (pk lo x) lo n = x := by
  apply BitVec.eq_of_getLsbD_eq; intro i hi
  simp [fld, pk, hi]
  have : lo + i < 64 := by omega
  simp [this]; omega

theorem fld_pk_off {m : Nat} (lo lo' n : Nat) (x : BitVec m) (h : lo + m ≤ lo' ∨ lo' + n ≤ lo) : fld (pk lo x) lo' n = 0#n := by
  apply BitVec.eq_of_getLsbD_eq; intro i hi
  simp [fld, pk, hi]
  intros; apply BitVec.getLsbD_of_ge; omega

theorem zeros_pk_off {m : Nat} (lo lo' n : Nat) (x : BitVec m) (h : lo + m ≤ lo' ∨ lo' + n ≤ lo) : zeros (pk lo x) lo' n = true := by
  rw [zeros_iff, fld_pk_off lo lo' n x h]

theorem flag_pk_off {m : Nat} (lo i : Nat) (x : BitVec m) (h : i < lo ∨ lo + m ≤ i) : flag (pk lo x) i = false := by
  simp [flag, pk]; intros; apply BitVec.getLsbD_of_ge; omega

theorem flag_pb_self (i : Nat) (b : Bool) (h : i < 64) : flag (pb i b) i = b := by simp [flag, pb, pk, h]

theorem pk_zero {n : Nat} (lo : Nat) : pk lo (0#n) = 0#64 := by simp [pk]

theorem fld_zero (lo n : Nat) : fld 0#64 lo n = 0#n := by simp [fld]

theorem zeros_zero (lo n : Nat) : zeros 0#64 lo n = true := by simp [zeros]

theorem flag_zero (i : Nat) : flag 0#64 i = false := by simp [flag]

theorem condOf_code (c : Cond) : condOf c.code.toNat = some c := by cases c <;> rfl

theorem fcondOf_code (c : FCond) : fcondOf c.code.toNat = some c := by cases c <;> rfl

theorem amodeOf_code (c : AMode) : amodeOf c.code = c := by cases c <;> rfl

theorem sizeOf2_code (c : Size) : sizeOf2 c.code = c := by cases c <;> rfl

theorem amoOf_code (c : AmoOp) : amoOf c.code.toNat = some c := by cases c <;> rfl

theorem laneOf_code (c : LaneType) : laneOf c.code = c := by cases c <;> rfl

theorem rndOf_code (c : Rnd) : rndOf c.code.toNat = some c := by cases c <;> rfl

theorem satOf_code (c : Sat) : satOf c.code.toNat = some c := by cases c <;> rfl

theorem redOf_code (c : RedOp) : redOf c.code.toNat = some c := by cases c <;> rfl

theorem sfuOf_code (c : SfuFn) : sfuOf c.code.toNat = some c := by cases c <;> rfl

theorem kindOf_code (c : ByteKind) : kindOf c.code.toNat = some c := by cases c <;> rfl

theorem viewOf_code (c : View) : viewOf c.code.toNat = some c := by cases c <;> rfl

theorem drainOf_code (c : DrainMode) : drainOf c.code.toNat = some c := by cases c <;> rfl

theorem laneOf_fType (f : Bool) : laneOf (fType f) = if f then .f19 else .f32 := by cases f <;> rfl

end Sys2Proof
end

