-- ==== Sys2Proof/Laws/Maps.lean ====
section
/-! SUPPORT. Reading finite maps and byte memories after a write, and the canonical form of a memory. -/

namespace Sys2Proof.Machine

/-! ## Finite maps -/

theorem NMap.get?_put {α : Type} (k j : Nat) (v : α) (m : NMap α) :
    (m.put k v).get? j = if j = k then some v else m.get? j := by
  induction m with
  | nil => simp only [NMap.put, NMap.get?, eq_comm]
  | cons x m ih =>
    obtain ⟨a, w⟩ := x
    simp only [NMap.put]
    split
    · simp only [NMap.get?]
      by_cases h : k = j <;> simp [h, eq_comm]
    · split
      · subst_vars
        simp only [NMap.get?]
        by_cases h : a = j <;> simp [h, eq_comm]
        intro h'; exact absurd h'.symm h
      · simp only [NMap.get?, ih]
        by_cases h : a = j
        · subst h; simp; intro h'; contradiction
        · simp [h]

theorem NMap.getD_put {α : Type} (k j : Nat) (v d : α) (m : NMap α) :
    (m.put k v).getD j d = if j = k then v else m.getD j d := by
  simp only [NMap.getD, NMap.get?_put]
  split <;> simp

@[simp] theorem NMap.getD_put_self {α : Type} (k : Nat) (v d : α) (m : NMap α) : (m.put k v).getD k d = v := by
  simp [NMap.getD_put]

theorem NMap.get?_del {α : Type} (k j : Nat) (m : NMap α) : (m.del k).get? j = if j = k then none else m.get? j := by
  induction m with
  | nil => simp [NMap.del, NMap.get?]
  | cons x m ih =>
    obtain ⟨a, w⟩ := x
    simp only [NMap.del, List.filter] at ih ⊢
    by_cases h : a = k
    · subst h
      simp only [bne_self_eq_false, ih, NMap.get?]
      by_cases h : j = a
      · simp [h]
      · simp [h, Ne.symm h]
    · have : (a != k) = true := by simpa using h
      simp only [this, NMap.get?, ih]
      by_cases h' : a = j
      · subst h'; simp [h]
      · simp [h']

/-! ## Reading a byte after a write -/

theorem Mem.read_erase_ne (a b : Nat) (m : Mem) (h : b ≠ a) : (m.erase a).read b = m.read b := by
  induction m with
  | nil => rfl
  | cons x m ih =>
    obtain ⟨c, v⟩ := x
    simp only [Mem.erase]
    split
    · subst_vars; simp [Mem.read, Ne.symm h]
    · simp only [Mem.read, ih]

theorem Mem.read_insert (a b : Nat) (x : Byte) (m : Mem) :
    (m.insert a x).read b = if b = a then x else m.read b := by
  induction m with
  | nil => simp only [Mem.insert, Mem.read, eq_comm]
  | cons y m ih =>
    obtain ⟨c, v⟩ := y
    simp only [Mem.insert]
    split
    · simp only [Mem.read]
      by_cases h : a = b <;> simp [h, eq_comm]
    · split
      · subst_vars
        simp only [Mem.read]
        by_cases h : c = b
        · simp [h]
        · simp [h, Ne.symm h]
      · simp only [Mem.read, ih]
        by_cases h : c = b
        · subst h; simp; intro h'; contradiction
        · simp [h]

/-- A write leaves every other byte as it was. -/
theorem Mem.read_write_ne (a b : Nat) (x : Byte) (m : Mem) (h : b ≠ a) : (m.write a x).read b = m.read b := by
  simp only [Mem.write]
  split
  · exact Mem.read_erase_ne a b m h
  · simp [Mem.read_insert, h]

theorem Mem.read_of_wfAbove (a lo : Nat) (m : Mem) (h : m.wfAbove lo = true) (hlt : a < lo) : m.read a = 0 := by
  induction m generalizing lo with
  | nil => rfl
  | cons x m ih =>
    obtain ⟨c, v⟩ := x
    simp only [Mem.wfAbove, Bool.and_eq_true, decide_eq_true_eq] at h
    have : c ≠ a := by omega
    simp only [Mem.read, this, ↓reduceIte]
    exact ih (c + 1) h.2 (by omega)

theorem Mem.read_erase_self (a lo : Nat) (m : Mem) (h : m.wfAbove lo = true) : (m.erase a).read a = 0 := by
  induction m generalizing lo with
  | nil => rfl
  | cons x m ih =>
    obtain ⟨c, v⟩ := x
    simp only [Mem.wfAbove, Bool.and_eq_true, decide_eq_true_eq] at h
    simp only [Mem.erase]
    split
    · subst_vars; exact Mem.read_of_wfAbove c (c + 1) m h.2 (by omega)
    · rename_i hc
      simp only [Mem.read, hc, ↓reduceIte]
      exact ih (c + 1) h.2

/-- A write reads back. -/
theorem Mem.read_write_self (a : Nat) (x : Byte) (m : Mem) (h : m.wf = true) : (m.write a x).read a = x := by
  simp only [Mem.write]
  split
  · subst_vars; exact Mem.read_erase_self a 0 m h
  · simp [Mem.read_insert]

/-! ## The canonical form -/

theorem Mem.wfAbove_mono (m : Mem) {a b : Nat} (hab : a ≤ b) (h : m.wfAbove b = true) : m.wfAbove a = true := by
  cases m with
  | nil => rfl
  | cons x m =>
    obtain ⟨c, v⟩ := x
    simp only [Mem.wfAbove, Bool.and_eq_true, decide_eq_true_eq] at h ⊢
    exact ⟨⟨by omega, h.1.2⟩, h.2⟩

theorem Mem.wfAbove_erase (a lo : Nat) (m : Mem) (h : m.wfAbove lo = true) : (m.erase a).wfAbove lo = true := by
  induction m generalizing lo with
  | nil => rfl
  | cons x m ih =>
    obtain ⟨c, v⟩ := x
    simp only [Mem.wfAbove, Bool.and_eq_true, decide_eq_true_eq] at h
    simp only [Mem.erase]
    split
    · exact Mem.wfAbove_mono m (by omega) h.2
    · simp only [Mem.wfAbove, Bool.and_eq_true, decide_eq_true_eq]
      exact ⟨h.1, ih (c + 1) h.2⟩

theorem Mem.wfAbove_insert (a lo : Nat) (x : Byte) (m : Mem) (hx : x ≠ 0) (hlo : lo ≤ a) (h : m.wfAbove lo = true) :
    (m.insert a x).wfAbove lo = true := by
  induction m generalizing lo with
  | nil => simpa [Mem.insert, Mem.wfAbove, hlo] using hx
  | cons y m ih =>
    obtain ⟨c, v⟩ := y
    have h' := h
    simp only [Mem.wfAbove, Bool.and_eq_true, decide_eq_true_eq] at h
    simp only [Mem.insert]
    split
    · simp only [Mem.wfAbove, Bool.and_eq_true, decide_eq_true_eq, bne_iff_ne]
      exact ⟨⟨hlo, hx⟩, ⟨by omega, by simpa using h.1.2⟩, h.2⟩
    · split
      · subst_vars; simp only [Mem.wfAbove, Bool.and_eq_true, decide_eq_true_eq, bne_iff_ne]
        exact ⟨⟨hlo, hx⟩, h.2⟩
      · simp only [Mem.wfAbove, Bool.and_eq_true, decide_eq_true_eq]
        exact ⟨h.1, ih (c + 1) (by omega) h.2⟩

/-- A write of one byte keeps the canonical form. -/
theorem Mem.wf_write (a : Nat) (x : Byte) (m : Mem) (h : m.wf = true) : (m.write a x).wf = true := by
  simp only [Mem.write, Mem.wf] at *
  split
  · exact Mem.wfAbove_erase a 0 m h
  · rename_i hx; exact Mem.wfAbove_insert a 0 x m hx (by omega) h

theorem Mem.wf_writeLE (n a x : Nat) (m : Mem) (h : m.wf = true) : (m.writeLE a n x).wf = true := by
  induction n generalizing a x m with
  | zero => exact h
  | succ n ih => exact ih (a + 1) (x / 256) _ (Mem.wf_write a _ m h)

theorem Mem.wf_setDword (a : Nat) (x : Word) (m : Mem) (h : m.wf = true) : (m.setDword a x).wf = true :=
  Mem.wf_writeLE 8 a x.toNat m h

theorem Mem.wf_setBytes (bs : List Byte) (a : Nat) (m : Mem) (h : m.wf = true) : (m.setBytes a bs).wf = true := by
  induction bs generalizing a m with
  | nil => exact h
  | cons b bs ih => exact ih (a + 1) _ (Mem.wf_write a b m h)

theorem Mem.wfAbove_filter (p : Host.Cell → Bool) (lo : Nat) (m : Mem) (h : m.wfAbove lo = true) :
    Mem.wfAbove lo (m.filter p) = true := by
  induction m generalizing lo with
  | nil => rfl
  | cons x m ih =>
    obtain ⟨c, v⟩ := x
    simp only [Mem.wfAbove, Bool.and_eq_true, decide_eq_true_eq] at h
    simp only [List.filter]
    split
    · simp only [Mem.wfAbove, Bool.and_eq_true, decide_eq_true_eq]
      exact ⟨h.1, ih (c + 1) h.2⟩
    · exact Mem.wfAbove_mono _ (by omega) (ih (c + 1) h.2)

theorem Mem.wf_filter (p : Host.Cell → Bool) (m : Mem) (h : m.wf = true) : Mem.wf (m.filter p) = true :=
  Mem.wfAbove_filter p 0 m h

theorem Mem.wf_clear (a n : Nat) (m : Mem) (h : m.wf = true) : (m.clear a n).wf = true := Mem.wf_filter _ m h

/-! ## Little-endian accesses -/

/-- A write of n bytes leaves every byte outside them. -/
theorem Mem.read_writeLE_ne (n a b x : Nat) (m : Mem) (h : b < a ∨ a + n ≤ b) : (m.writeLE a n x).read b = m.read b := by
  induction n generalizing a x m with
  | zero => rfl
  | succ n ih =>
    simp only [Mem.writeLE]
    rw [ih (a + 1) (x / 256) _ (by omega)]
    exact Mem.read_write_ne a b _ m (by omega)

theorem Mem.readLE_write_ne (n a b : Nat) (x : Byte) (m : Mem) (h : b < a ∨ a + n ≤ b) :
    (m.write b x).readLE a n = m.readLE a n := by
  induction n generalizing a with
  | zero => rfl
  | succ n ih =>
    simp only [Mem.readLE]
    rw [ih (a + 1) (by omega), Mem.read_write_ne b a x m (by omega)]

theorem Mem.read_setBytes_ne (bs : List Byte) (a b : Nat) (m : Mem) (h : b < a ∨ a + bs.length ≤ b) :
    (m.setBytes a bs).read b = m.read b := by
  induction bs generalizing a m with
  | nil => rfl
  | cons y bs ih =>
    simp only [Mem.setBytes]
    simp only [List.length_cons] at h
    rw [ih (a + 1) _ (by omega)]
    exact Mem.read_write_ne a b y m (by omega)

end Sys2Proof.Machine
end

