-- ==== Sys2Proof/Laws/Memory.lean ====
section
/-! SUPPORT. Every operation that writes a byte memory keeps the canonical form of all four. -/

namespace Sys2Proof.Machine

theorem State.memWf_iff (s : State) :
    s.memWf = true ↔ s.pool.wf = true ∧ s.gpool.wf = true ∧ s.dev.wf = true ∧ s.host.wf = true := by
  simp [State.memWf, and_assoc]

/-- A state with the same four memories is as canonical. -/
theorem State.memWf_of_eq {s t : State} (h1 : t.pool = s.pool) (h2 : t.gpool = s.gpool) (h3 : t.dev = s.dev)
    (h4 : t.host = s.host) (h : s.memWf = true) : t.memWf = true := by
  simpa [State.memWf, h1, h2, h3, h4] using h

theorem State.memWf_pool (s : State) (m : Mem) (hm : m.wf = true) (h : s.memWf = true) :
    ({ s with pool := m } : State).memWf = true := by
  rw [State.memWf_iff] at *; exact ⟨hm, h.2⟩

theorem State.memWf_gpool (s : State) (m : Mem) (hm : m.wf = true) (h : s.memWf = true) :
    ({ s with gpool := m } : State).memWf = true := by
  rw [State.memWf_iff] at *; exact ⟨h.1, hm, h.2.2⟩

theorem State.memWf_dev (s : State) (m : Mem) (hm : m.wf = true) (h : s.memWf = true) :
    ({ s with dev := m } : State).memWf = true := by
  rw [State.memWf_iff] at *; exact ⟨h.1, h.2.1, hm, h.2.2.2⟩

theorem State.memWf_host (s : State) (m : Mem) (hm : m.wf = true) (h : s.memWf = true) :
    ({ s with host := m } : State).memWf = true := by
  rw [State.memWf_iff] at *; exact ⟨h.1, h.2.1, h.2.2.1, hm⟩

theorem State.memWf_poolWrite (s : State) (k off n : Nat) (x : Word) (h : s.memWf = true) :
    (s.poolWrite k off n x).memWf = true :=
  s.memWf_pool _ (Mem.wf_writeLE n _ _ _ ((State.memWf_iff s).1 h).1) h

theorem State.memWf_setFull (s : State) (k off : Nat) (b : Bool) (h : s.memWf = true) :
    (s.setFull k off b).memWf = true := State.memWf_of_eq rfl rfl rfl rfl h

theorem State.memWf_bankAccess (s : State) (k : Nat) (a : WordAcc) (h : s.memWf = true) :
    (s.bankAccess k a).1.memWf = true := by
  unfold State.bankAccess
  simp only
  split <;> split <;> simp [State.memWf_setFull, State.memWf_poolWrite, h]

theorem State.memWf_geyserBank (s : State) (ch : Nat) (a : WordAcc) (h : s.memWf = true) :
    (s.geyserBank ch a).1.memWf = true := by
  unfold State.geyserBank
  simp only
  split
  · exact s.memWf_gpool _ (Mem.wf_writeLE _ _ _ _ ((State.memWf_iff s).1 h).2.1) h
  · exact h

theorem memWf_engineWrite (k0 : Nat) (tag : BitVec 10) (epoch : BitVec 6) (ptr : Word) (bs : List Byte) :
    ∀ (s : State) (off : Nat), s.memWf = true → (engineWrite s k0 tag epoch ptr off bs).1.memWf = true := by
  induction bs with
  | nil => intro s off h; exact h
  | cons b bs ih =>
    intro s off h
    simp only [engineWrite]
    split
    · exact ih _ _ h
    · split
      · split
        · exact ih _ _ h
        · exact ih _ _ (s.memWf_pool _ (Mem.wf_write _ _ _ ((State.memWf_iff s).1 h).1) h)
      · exact ih _ _ h

/-- A fold over steps that keep the form keeps it. -/
theorem memWf_foldl {α : Type} (f : State → α → State) (hf : ∀ s x, s.memWf = true → (f s x).memWf = true) (l : List α) :
    ∀ s : State, s.memWf = true → (l.foldl f s).memWf = true := by
  induction l with
  | nil => intro s h; exact h
  | cons x l ih => intro s h; exact ih _ (hf s x h)

theorem State.memWf_scrubDevice (s : State) (tag : Nat) (h : s.memWf = true) : (s.scrubDevice tag).memWf = true :=
  memWf_foldl _ (fun u _ hu => u.memWf_dev _ (Mem.wf_clear _ _ _ ((State.memWf_iff u).1 hu).2.2.1) hu) _ s h

theorem State.memWf_accWrite (s : State) (q aoff nc m n x : Nat) (h : s.memWf = true) :
    (s.accWrite q aoff nc m n x).memWf = true :=
  s.memWf_pool _ (Mem.wf_writeLE _ _ _ _ ((State.memWf_iff s).1 h).1) h

end Sys2Proof.Machine
end

