-- ==== Sys2Proof/Laws/State.lean ====
section
/-! SUPPORT. One lemma per update of State: the fields that it leaves, each true by rfl and each a rewrite rule. -/

namespace Sys2Proof.Machine

@[simp] theorem State.setFrame_fields (s : State) (fk : Nat) (f : Frame) :
    (s.setFrame fk f).cycle = s.cycle ∧ (s.setFrame fk f).time = s.time ∧ (s.setFrame fk f).frac = s.frac ∧
    (s.setFrame fk f).slew = s.slew ∧ (s.setFrame fk f).module = s.module ∧ (s.setFrame fk f).thisCycle = s.thisCycle ∧
    (s.setFrame fk f).cur = s.cur ∧ (s.setFrame fk f).slots = s.slots ∧ (s.setFrame fk f).cores = s.cores ∧
    (s.setFrame fk f).fifos = s.fifos ∧ (s.setFrame fk f).futures = s.futures ∧ (s.setFrame fk f).clusters = s.clusters ∧
    (s.setFrame fk f).leaseRecs = s.leaseRecs ∧ (s.setFrame fk f).geysers = s.geysers ∧ (s.setFrame fk f).parts = s.parts ∧
    (s.setFrame fk f).vfs = s.vfs ∧ (s.setFrame fk f).routers = s.routers ∧ (s.setFrame fk f).hub = s.hub ∧
    (s.setFrame fk f).pool = s.pool ∧ (s.setFrame fk f).gpool = s.gpool ∧ (s.setFrame fk f).dev = s.dev ∧
    (s.setFrame fk f).host = s.host ∧ (s.setFrame fk f).full = s.full ∧ (s.setFrame fk f).waitq = s.waitq ∧
    (s.setFrame fk f).bad = s.bad ∧ (s.setFrame fk f).delayed = s.delayed ∧ (s.setFrame fk f).tabWrites = s.tabWrites ∧
    (s.setFrame fk f).net = s.net ∧ (s.setFrame fk f).unperf = s.unperf ∧ (s.setFrame fk f).copies = s.copies ∧ (s.setFrame fk f).late = s.late ∧
    (s.setFrame fk f).agenda = s.agenda ∧ (s.setFrame fk f).tape = s.tape ∧ (s.setFrame fk f).nextId = s.nextId ∧
    (s.setFrame fk f).free = s.free := by
  refine ⟨rfl, rfl, rfl, rfl, rfl, rfl, rfl, rfl, rfl, rfl, rfl, rfl, rfl, rfl, rfl, rfl, rfl, rfl, rfl, rfl, rfl, rfl, rfl, rfl, rfl, rfl, rfl, rfl, rfl, rfl, rfl, rfl, rfl, rfl, rfl⟩

@[simp] theorem State.updFrame_fields (s : State) (fk : Nat) (h : Frame → Frame) :
    (s.updFrame fk h).cycle = s.cycle ∧ (s.updFrame fk h).time = s.time ∧ (s.updFrame fk h).frac = s.frac ∧
    (s.updFrame fk h).slew = s.slew ∧ (s.updFrame fk h).module = s.module ∧ (s.updFrame fk h).thisCycle = s.thisCycle ∧
    (s.updFrame fk h).cur = s.cur ∧ (s.updFrame fk h).slots = s.slots ∧ (s.updFrame fk h).cores = s.cores ∧
    (s.updFrame fk h).fifos = s.fifos ∧ (s.updFrame fk h).futures = s.futures ∧ (s.updFrame fk h).clusters = s.clusters ∧
    (s.updFrame fk h).leaseRecs = s.leaseRecs ∧ (s.updFrame fk h).geysers = s.geysers ∧ (s.updFrame fk h).parts = s.parts ∧
    (s.updFrame fk h).vfs = s.vfs ∧ (s.updFrame fk h).routers = s.routers ∧ (s.updFrame fk h).hub = s.hub ∧
    (s.updFrame fk h).pool = s.pool ∧ (s.updFrame fk h).gpool = s.gpool ∧ (s.updFrame fk h).dev = s.dev ∧
    (s.updFrame fk h).host = s.host ∧ (s.updFrame fk h).full = s.full ∧ (s.updFrame fk h).waitq = s.waitq ∧
    (s.updFrame fk h).bad = s.bad ∧ (s.updFrame fk h).delayed = s.delayed ∧ (s.updFrame fk h).tabWrites = s.tabWrites ∧
    (s.updFrame fk h).net = s.net ∧ (s.updFrame fk h).unperf = s.unperf ∧ (s.updFrame fk h).copies = s.copies ∧ (s.updFrame fk h).late = s.late ∧
    (s.updFrame fk h).agenda = s.agenda ∧ (s.updFrame fk h).tape = s.tape ∧ (s.updFrame fk h).nextId = s.nextId ∧
    (s.updFrame fk h).free = s.free := by
  refine ⟨rfl, rfl, rfl, rfl, rfl, rfl, rfl, rfl, rfl, rfl, rfl, rfl, rfl, rfl, rfl, rfl, rfl, rfl, rfl, rfl, rfl, rfl, rfl, rfl, rfl, rfl, rfl, rfl, rfl, rfl, rfl, rfl, rfl, rfl, rfl⟩

@[simp] theorem State.upd_fields (s : State) (h : Frame → Frame) :
    (s.upd h).cycle = s.cycle ∧ (s.upd h).time = s.time ∧ (s.upd h).frac = s.frac ∧
    (s.upd h).slew = s.slew ∧ (s.upd h).module = s.module ∧ (s.upd h).thisCycle = s.thisCycle ∧
    (s.upd h).cur = s.cur ∧ (s.upd h).slots = s.slots ∧ (s.upd h).cores = s.cores ∧
    (s.upd h).fifos = s.fifos ∧ (s.upd h).futures = s.futures ∧ (s.upd h).clusters = s.clusters ∧
    (s.upd h).leaseRecs = s.leaseRecs ∧ (s.upd h).geysers = s.geysers ∧ (s.upd h).parts = s.parts ∧
    (s.upd h).vfs = s.vfs ∧ (s.upd h).routers = s.routers ∧ (s.upd h).hub = s.hub ∧
    (s.upd h).pool = s.pool ∧ (s.upd h).gpool = s.gpool ∧ (s.upd h).dev = s.dev ∧
    (s.upd h).host = s.host ∧ (s.upd h).full = s.full ∧ (s.upd h).waitq = s.waitq ∧
    (s.upd h).bad = s.bad ∧ (s.upd h).delayed = s.delayed ∧ (s.upd h).tabWrites = s.tabWrites ∧
    (s.upd h).net = s.net ∧ (s.upd h).unperf = s.unperf ∧ (s.upd h).copies = s.copies ∧ (s.upd h).late = s.late ∧
    (s.upd h).agenda = s.agenda ∧ (s.upd h).tape = s.tape ∧ (s.upd h).nextId = s.nextId ∧
    (s.upd h).free = s.free := by
  refine ⟨rfl, rfl, rfl, rfl, rfl, rfl, rfl, rfl, rfl, rfl, rfl, rfl, rfl, rfl, rfl, rfl, rfl, rfl, rfl, rfl, rfl, rfl, rfl, rfl, rfl, rfl, rfl, rfl, rfl, rfl, rfl, rfl, rfl, rfl, rfl⟩

@[simp] theorem State.setG_fields (s : State) (r : BitVec 6) (x : Word) (lat : Nat) :
    (s.setG r x lat).cycle = s.cycle ∧ (s.setG r x lat).time = s.time ∧ (s.setG r x lat).frac = s.frac ∧
    (s.setG r x lat).slew = s.slew ∧ (s.setG r x lat).module = s.module ∧ (s.setG r x lat).thisCycle = s.thisCycle ∧
    (s.setG r x lat).cur = s.cur ∧ (s.setG r x lat).slots = s.slots ∧ (s.setG r x lat).cores = s.cores ∧
    (s.setG r x lat).fifos = s.fifos ∧ (s.setG r x lat).futures = s.futures ∧ (s.setG r x lat).clusters = s.clusters ∧
    (s.setG r x lat).leaseRecs = s.leaseRecs ∧ (s.setG r x lat).geysers = s.geysers ∧ (s.setG r x lat).parts = s.parts ∧
    (s.setG r x lat).vfs = s.vfs ∧ (s.setG r x lat).routers = s.routers ∧ (s.setG r x lat).hub = s.hub ∧
    (s.setG r x lat).pool = s.pool ∧ (s.setG r x lat).gpool = s.gpool ∧ (s.setG r x lat).dev = s.dev ∧
    (s.setG r x lat).host = s.host ∧ (s.setG r x lat).full = s.full ∧ (s.setG r x lat).waitq = s.waitq ∧
    (s.setG r x lat).bad = s.bad ∧ (s.setG r x lat).delayed = s.delayed ∧ (s.setG r x lat).tabWrites = s.tabWrites ∧
    (s.setG r x lat).net = s.net ∧ (s.setG r x lat).unperf = s.unperf ∧ (s.setG r x lat).copies = s.copies ∧ (s.setG r x lat).late = s.late ∧
    (s.setG r x lat).agenda = s.agenda ∧ (s.setG r x lat).tape = s.tape ∧ (s.setG r x lat).nextId = s.nextId ∧
    (s.setG r x lat).free = s.free := by
  refine ⟨rfl, rfl, rfl, rfl, rfl, rfl, rfl, rfl, rfl, rfl, rfl, rfl, rfl, rfl, rfl, rfl, rfl, rfl, rfl, rfl, rfl, rfl, rfl, rfl, rfl, rfl, rfl, rfl, rfl, rfl, rfl, rfl, rfl, rfl, rfl⟩

@[simp] theorem State.setV_fields (s : State) (r : BitVec 5) (x : VWord) (lat : Nat) :
    (s.setV r x lat).cycle = s.cycle ∧ (s.setV r x lat).time = s.time ∧ (s.setV r x lat).frac = s.frac ∧
    (s.setV r x lat).slew = s.slew ∧ (s.setV r x lat).module = s.module ∧ (s.setV r x lat).thisCycle = s.thisCycle ∧
    (s.setV r x lat).cur = s.cur ∧ (s.setV r x lat).slots = s.slots ∧ (s.setV r x lat).cores = s.cores ∧
    (s.setV r x lat).fifos = s.fifos ∧ (s.setV r x lat).futures = s.futures ∧ (s.setV r x lat).clusters = s.clusters ∧
    (s.setV r x lat).leaseRecs = s.leaseRecs ∧ (s.setV r x lat).geysers = s.geysers ∧ (s.setV r x lat).parts = s.parts ∧
    (s.setV r x lat).vfs = s.vfs ∧ (s.setV r x lat).routers = s.routers ∧ (s.setV r x lat).hub = s.hub ∧
    (s.setV r x lat).pool = s.pool ∧ (s.setV r x lat).gpool = s.gpool ∧ (s.setV r x lat).dev = s.dev ∧
    (s.setV r x lat).host = s.host ∧ (s.setV r x lat).full = s.full ∧ (s.setV r x lat).waitq = s.waitq ∧
    (s.setV r x lat).bad = s.bad ∧ (s.setV r x lat).delayed = s.delayed ∧ (s.setV r x lat).tabWrites = s.tabWrites ∧
    (s.setV r x lat).net = s.net ∧ (s.setV r x lat).unperf = s.unperf ∧ (s.setV r x lat).copies = s.copies ∧ (s.setV r x lat).late = s.late ∧
    (s.setV r x lat).agenda = s.agenda ∧ (s.setV r x lat).tape = s.tape ∧ (s.setV r x lat).nextId = s.nextId ∧
    (s.setV r x lat).free = s.free := by
  refine ⟨rfl, rfl, rfl, rfl, rfl, rfl, rfl, rfl, rfl, rfl, rfl, rfl, rfl, rfl, rfl, rfl, rfl, rfl, rfl, rfl, rfl, rfl, rfl, rfl, rfl, rfl, rfl, rfl, rfl, rfl, rfl, rfl, rfl, rfl, rfl⟩

@[simp] theorem State.setP_fields (s : State) (r : BitVec 4) (x : PWord) (lat : Nat) :
    (s.setP r x lat).cycle = s.cycle ∧ (s.setP r x lat).time = s.time ∧ (s.setP r x lat).frac = s.frac ∧
    (s.setP r x lat).slew = s.slew ∧ (s.setP r x lat).module = s.module ∧ (s.setP r x lat).thisCycle = s.thisCycle ∧
    (s.setP r x lat).cur = s.cur ∧ (s.setP r x lat).slots = s.slots ∧ (s.setP r x lat).cores = s.cores ∧
    (s.setP r x lat).fifos = s.fifos ∧ (s.setP r x lat).futures = s.futures ∧ (s.setP r x lat).clusters = s.clusters ∧
    (s.setP r x lat).leaseRecs = s.leaseRecs ∧ (s.setP r x lat).geysers = s.geysers ∧ (s.setP r x lat).parts = s.parts ∧
    (s.setP r x lat).vfs = s.vfs ∧ (s.setP r x lat).routers = s.routers ∧ (s.setP r x lat).hub = s.hub ∧
    (s.setP r x lat).pool = s.pool ∧ (s.setP r x lat).gpool = s.gpool ∧ (s.setP r x lat).dev = s.dev ∧
    (s.setP r x lat).host = s.host ∧ (s.setP r x lat).full = s.full ∧ (s.setP r x lat).waitq = s.waitq ∧
    (s.setP r x lat).bad = s.bad ∧ (s.setP r x lat).delayed = s.delayed ∧ (s.setP r x lat).tabWrites = s.tabWrites ∧
    (s.setP r x lat).net = s.net ∧ (s.setP r x lat).unperf = s.unperf ∧ (s.setP r x lat).copies = s.copies ∧ (s.setP r x lat).late = s.late ∧
    (s.setP r x lat).agenda = s.agenda ∧ (s.setP r x lat).tape = s.tape ∧ (s.setP r x lat).nextId = s.nextId ∧
    (s.setP r x lat).free = s.free := by
  refine ⟨rfl, rfl, rfl, rfl, rfl, rfl, rfl, rfl, rfl, rfl, rfl, rfl, rfl, rfl, rfl, rfl, rfl, rfl, rfl, rfl, rfl, rfl, rfl, rfl, rfl, rfl, rfl, rfl, rfl, rfl, rfl, rfl, rfl, rfl, rfl⟩

@[simp] theorem State.sticky_fields (s : State) (b : Nat) :
    (s.sticky b).cycle = s.cycle ∧ (s.sticky b).time = s.time ∧ (s.sticky b).frac = s.frac ∧
    (s.sticky b).slew = s.slew ∧ (s.sticky b).module = s.module ∧ (s.sticky b).thisCycle = s.thisCycle ∧
    (s.sticky b).cur = s.cur ∧ (s.sticky b).slots = s.slots ∧ (s.sticky b).cores = s.cores ∧
    (s.sticky b).fifos = s.fifos ∧ (s.sticky b).futures = s.futures ∧ (s.sticky b).clusters = s.clusters ∧
    (s.sticky b).leaseRecs = s.leaseRecs ∧ (s.sticky b).geysers = s.geysers ∧ (s.sticky b).parts = s.parts ∧
    (s.sticky b).vfs = s.vfs ∧ (s.sticky b).routers = s.routers ∧ (s.sticky b).hub = s.hub ∧
    (s.sticky b).pool = s.pool ∧ (s.sticky b).gpool = s.gpool ∧ (s.sticky b).dev = s.dev ∧
    (s.sticky b).host = s.host ∧ (s.sticky b).full = s.full ∧ (s.sticky b).waitq = s.waitq ∧
    (s.sticky b).bad = s.bad ∧ (s.sticky b).delayed = s.delayed ∧ (s.sticky b).tabWrites = s.tabWrites ∧
    (s.sticky b).net = s.net ∧ (s.sticky b).unperf = s.unperf ∧ (s.sticky b).copies = s.copies ∧ (s.sticky b).late = s.late ∧
    (s.sticky b).agenda = s.agenda ∧ (s.sticky b).tape = s.tape ∧ (s.sticky b).nextId = s.nextId ∧
    (s.sticky b).free = s.free := by
  refine ⟨rfl, rfl, rfl, rfl, rfl, rfl, rfl, rfl, rfl, rfl, rfl, rfl, rfl, rfl, rfl, rfl, rfl, rfl, rfl, rfl, rfl, rfl, rfl, rfl, rfl, rfl, rfl, rfl, rfl, rfl, rfl, rfl, rfl, rfl, rfl⟩

@[simp] theorem State.setSlot_fields (s : State) (sk : Nat) (r : Slot) :
    (s.setSlot sk r).cycle = s.cycle ∧ (s.setSlot sk r).time = s.time ∧ (s.setSlot sk r).frac = s.frac ∧
    (s.setSlot sk r).slew = s.slew ∧ (s.setSlot sk r).module = s.module ∧ (s.setSlot sk r).thisCycle = s.thisCycle ∧
    (s.setSlot sk r).cur = s.cur ∧ (s.setSlot sk r).frames = s.frames ∧ (s.setSlot sk r).cores = s.cores ∧
    (s.setSlot sk r).fifos = s.fifos ∧ (s.setSlot sk r).futures = s.futures ∧ (s.setSlot sk r).clusters = s.clusters ∧
    (s.setSlot sk r).leaseRecs = s.leaseRecs ∧ (s.setSlot sk r).geysers = s.geysers ∧ (s.setSlot sk r).parts = s.parts ∧
    (s.setSlot sk r).vfs = s.vfs ∧ (s.setSlot sk r).routers = s.routers ∧ (s.setSlot sk r).hub = s.hub ∧
    (s.setSlot sk r).pool = s.pool ∧ (s.setSlot sk r).gpool = s.gpool ∧ (s.setSlot sk r).dev = s.dev ∧
    (s.setSlot sk r).host = s.host ∧ (s.setSlot sk r).full = s.full ∧ (s.setSlot sk r).waitq = s.waitq ∧
    (s.setSlot sk r).bad = s.bad ∧ (s.setSlot sk r).delayed = s.delayed ∧ (s.setSlot sk r).tabWrites = s.tabWrites ∧
    (s.setSlot sk r).net = s.net ∧ (s.setSlot sk r).unperf = s.unperf ∧ (s.setSlot sk r).copies = s.copies ∧ (s.setSlot sk r).late = s.late ∧
    (s.setSlot sk r).agenda = s.agenda ∧ (s.setSlot sk r).tape = s.tape ∧ (s.setSlot sk r).nextId = s.nextId ∧
    (s.setSlot sk r).free = s.free := by
  refine ⟨rfl, rfl, rfl, rfl, rfl, rfl, rfl, rfl, rfl, rfl, rfl, rfl, rfl, rfl, rfl, rfl, rfl, rfl, rfl, rfl, rfl, rfl, rfl, rfl, rfl, rfl, rfl, rfl, rfl, rfl, rfl, rfl, rfl, rfl, rfl⟩

@[simp] theorem State.updSlot_fields (s : State) (sk : Nat) (h : Slot → Slot) :
    (s.updSlot sk h).cycle = s.cycle ∧ (s.updSlot sk h).time = s.time ∧ (s.updSlot sk h).frac = s.frac ∧
    (s.updSlot sk h).slew = s.slew ∧ (s.updSlot sk h).module = s.module ∧ (s.updSlot sk h).thisCycle = s.thisCycle ∧
    (s.updSlot sk h).cur = s.cur ∧ (s.updSlot sk h).frames = s.frames ∧ (s.updSlot sk h).cores = s.cores ∧
    (s.updSlot sk h).fifos = s.fifos ∧ (s.updSlot sk h).futures = s.futures ∧ (s.updSlot sk h).clusters = s.clusters ∧
    (s.updSlot sk h).leaseRecs = s.leaseRecs ∧ (s.updSlot sk h).geysers = s.geysers ∧ (s.updSlot sk h).parts = s.parts ∧
    (s.updSlot sk h).vfs = s.vfs ∧ (s.updSlot sk h).routers = s.routers ∧ (s.updSlot sk h).hub = s.hub ∧
    (s.updSlot sk h).pool = s.pool ∧ (s.updSlot sk h).gpool = s.gpool ∧ (s.updSlot sk h).dev = s.dev ∧
    (s.updSlot sk h).host = s.host ∧ (s.updSlot sk h).full = s.full ∧ (s.updSlot sk h).waitq = s.waitq ∧
    (s.updSlot sk h).bad = s.bad ∧ (s.updSlot sk h).delayed = s.delayed ∧ (s.updSlot sk h).tabWrites = s.tabWrites ∧
    (s.updSlot sk h).net = s.net ∧ (s.updSlot sk h).unperf = s.unperf ∧ (s.updSlot sk h).copies = s.copies ∧ (s.updSlot sk h).late = s.late ∧
    (s.updSlot sk h).agenda = s.agenda ∧ (s.updSlot sk h).tape = s.tape ∧ (s.updSlot sk h).nextId = s.nextId ∧
    (s.updSlot sk h).free = s.free := by
  refine ⟨rfl, rfl, rfl, rfl, rfl, rfl, rfl, rfl, rfl, rfl, rfl, rfl, rfl, rfl, rfl, rfl, rfl, rfl, rfl, rfl, rfl, rfl, rfl, rfl, rfl, rfl, rfl, rfl, rfl, rfl, rfl, rfl, rfl, rfl, rfl⟩

@[simp] theorem State.setCore_fields (s : State) (k : Nat) (c : Core) :
    (s.setCore k c).cycle = s.cycle ∧ (s.setCore k c).time = s.time ∧ (s.setCore k c).frac = s.frac ∧
    (s.setCore k c).slew = s.slew ∧ (s.setCore k c).module = s.module ∧ (s.setCore k c).thisCycle = s.thisCycle ∧
    (s.setCore k c).cur = s.cur ∧ (s.setCore k c).frames = s.frames ∧ (s.setCore k c).slots = s.slots ∧
    (s.setCore k c).fifos = s.fifos ∧ (s.setCore k c).futures = s.futures ∧ (s.setCore k c).clusters = s.clusters ∧
    (s.setCore k c).leaseRecs = s.leaseRecs ∧ (s.setCore k c).geysers = s.geysers ∧ (s.setCore k c).parts = s.parts ∧
    (s.setCore k c).vfs = s.vfs ∧ (s.setCore k c).routers = s.routers ∧ (s.setCore k c).hub = s.hub ∧
    (s.setCore k c).pool = s.pool ∧ (s.setCore k c).gpool = s.gpool ∧ (s.setCore k c).dev = s.dev ∧
    (s.setCore k c).host = s.host ∧ (s.setCore k c).full = s.full ∧ (s.setCore k c).waitq = s.waitq ∧
    (s.setCore k c).bad = s.bad ∧ (s.setCore k c).delayed = s.delayed ∧ (s.setCore k c).tabWrites = s.tabWrites ∧
    (s.setCore k c).net = s.net ∧ (s.setCore k c).unperf = s.unperf ∧ (s.setCore k c).copies = s.copies ∧ (s.setCore k c).late = s.late ∧
    (s.setCore k c).agenda = s.agenda ∧ (s.setCore k c).tape = s.tape ∧ (s.setCore k c).nextId = s.nextId ∧
    (s.setCore k c).free = s.free := by
  refine ⟨rfl, rfl, rfl, rfl, rfl, rfl, rfl, rfl, rfl, rfl, rfl, rfl, rfl, rfl, rfl, rfl, rfl, rfl, rfl, rfl, rfl, rfl, rfl, rfl, rfl, rfl, rfl, rfl, rfl, rfl, rfl, rfl, rfl, rfl, rfl⟩

@[simp] theorem State.updCore_fields (s : State) (k : Nat) (h : Core → Core) :
    (s.updCore k h).cycle = s.cycle ∧ (s.updCore k h).time = s.time ∧ (s.updCore k h).frac = s.frac ∧
    (s.updCore k h).slew = s.slew ∧ (s.updCore k h).module = s.module ∧ (s.updCore k h).thisCycle = s.thisCycle ∧
    (s.updCore k h).cur = s.cur ∧ (s.updCore k h).frames = s.frames ∧ (s.updCore k h).slots = s.slots ∧
    (s.updCore k h).fifos = s.fifos ∧ (s.updCore k h).futures = s.futures ∧ (s.updCore k h).clusters = s.clusters ∧
    (s.updCore k h).leaseRecs = s.leaseRecs ∧ (s.updCore k h).geysers = s.geysers ∧ (s.updCore k h).parts = s.parts ∧
    (s.updCore k h).vfs = s.vfs ∧ (s.updCore k h).routers = s.routers ∧ (s.updCore k h).hub = s.hub ∧
    (s.updCore k h).pool = s.pool ∧ (s.updCore k h).gpool = s.gpool ∧ (s.updCore k h).dev = s.dev ∧
    (s.updCore k h).host = s.host ∧ (s.updCore k h).full = s.full ∧ (s.updCore k h).waitq = s.waitq ∧
    (s.updCore k h).bad = s.bad ∧ (s.updCore k h).delayed = s.delayed ∧ (s.updCore k h).tabWrites = s.tabWrites ∧
    (s.updCore k h).net = s.net ∧ (s.updCore k h).unperf = s.unperf ∧ (s.updCore k h).copies = s.copies ∧ (s.updCore k h).late = s.late ∧
    (s.updCore k h).agenda = s.agenda ∧ (s.updCore k h).tape = s.tape ∧ (s.updCore k h).nextId = s.nextId ∧
    (s.updCore k h).free = s.free := by
  refine ⟨rfl, rfl, rfl, rfl, rfl, rfl, rfl, rfl, rfl, rfl, rfl, rfl, rfl, rfl, rfl, rfl, rfl, rfl, rfl, rfl, rfl, rfl, rfl, rfl, rfl, rfl, rfl, rfl, rfl, rfl, rfl, rfl, rfl, rfl, rfl⟩

@[simp] theorem State.updCluster_fields (s : State) (q : Nat) (h : Cluster → Cluster) :
    (s.updCluster q h).cycle = s.cycle ∧ (s.updCluster q h).time = s.time ∧ (s.updCluster q h).frac = s.frac ∧
    (s.updCluster q h).slew = s.slew ∧ (s.updCluster q h).module = s.module ∧ (s.updCluster q h).thisCycle = s.thisCycle ∧
    (s.updCluster q h).cur = s.cur ∧ (s.updCluster q h).frames = s.frames ∧ (s.updCluster q h).slots = s.slots ∧
    (s.updCluster q h).cores = s.cores ∧ (s.updCluster q h).fifos = s.fifos ∧ (s.updCluster q h).futures = s.futures ∧
    (s.updCluster q h).leaseRecs = s.leaseRecs ∧ (s.updCluster q h).geysers = s.geysers ∧ (s.updCluster q h).parts = s.parts ∧
    (s.updCluster q h).vfs = s.vfs ∧ (s.updCluster q h).routers = s.routers ∧ (s.updCluster q h).hub = s.hub ∧
    (s.updCluster q h).pool = s.pool ∧ (s.updCluster q h).gpool = s.gpool ∧ (s.updCluster q h).dev = s.dev ∧
    (s.updCluster q h).host = s.host ∧ (s.updCluster q h).full = s.full ∧ (s.updCluster q h).waitq = s.waitq ∧
    (s.updCluster q h).bad = s.bad ∧ (s.updCluster q h).delayed = s.delayed ∧ (s.updCluster q h).tabWrites = s.tabWrites ∧
    (s.updCluster q h).net = s.net ∧ (s.updCluster q h).unperf = s.unperf ∧ (s.updCluster q h).copies = s.copies ∧ (s.updCluster q h).late = s.late ∧
    (s.updCluster q h).agenda = s.agenda ∧ (s.updCluster q h).tape = s.tape ∧ (s.updCluster q h).nextId = s.nextId ∧
    (s.updCluster q h).free = s.free := by
  refine ⟨rfl, rfl, rfl, rfl, rfl, rfl, rfl, rfl, rfl, rfl, rfl, rfl, rfl, rfl, rfl, rfl, rfl, rfl, rfl, rfl, rfl, rfl, rfl, rfl, rfl, rfl, rfl, rfl, rfl, rfl, rfl, rfl, rfl, rfl, rfl⟩

@[simp] theorem State.updGeyser_fields (s : State) (ch : Nat) (h : Geyser → Geyser) :
    (s.updGeyser ch h).cycle = s.cycle ∧ (s.updGeyser ch h).time = s.time ∧ (s.updGeyser ch h).frac = s.frac ∧
    (s.updGeyser ch h).slew = s.slew ∧ (s.updGeyser ch h).module = s.module ∧ (s.updGeyser ch h).thisCycle = s.thisCycle ∧
    (s.updGeyser ch h).cur = s.cur ∧ (s.updGeyser ch h).frames = s.frames ∧ (s.updGeyser ch h).slots = s.slots ∧
    (s.updGeyser ch h).cores = s.cores ∧ (s.updGeyser ch h).fifos = s.fifos ∧ (s.updGeyser ch h).futures = s.futures ∧
    (s.updGeyser ch h).clusters = s.clusters ∧ (s.updGeyser ch h).leaseRecs = s.leaseRecs ∧ (s.updGeyser ch h).parts = s.parts ∧
    (s.updGeyser ch h).vfs = s.vfs ∧ (s.updGeyser ch h).routers = s.routers ∧ (s.updGeyser ch h).hub = s.hub ∧
    (s.updGeyser ch h).pool = s.pool ∧ (s.updGeyser ch h).gpool = s.gpool ∧ (s.updGeyser ch h).dev = s.dev ∧
    (s.updGeyser ch h).host = s.host ∧ (s.updGeyser ch h).full = s.full ∧ (s.updGeyser ch h).waitq = s.waitq ∧
    (s.updGeyser ch h).bad = s.bad ∧ (s.updGeyser ch h).delayed = s.delayed ∧ (s.updGeyser ch h).tabWrites = s.tabWrites ∧
    (s.updGeyser ch h).net = s.net ∧ (s.updGeyser ch h).unperf = s.unperf ∧ (s.updGeyser ch h).copies = s.copies ∧ (s.updGeyser ch h).late = s.late ∧
    (s.updGeyser ch h).agenda = s.agenda ∧ (s.updGeyser ch h).tape = s.tape ∧ (s.updGeyser ch h).nextId = s.nextId ∧
    (s.updGeyser ch h).free = s.free := by
  refine ⟨rfl, rfl, rfl, rfl, rfl, rfl, rfl, rfl, rfl, rfl, rfl, rfl, rfl, rfl, rfl, rfl, rfl, rfl, rfl, rfl, rfl, rfl, rfl, rfl, rfl, rfl, rfl, rfl, rfl, rfl, rfl, rfl, rfl, rfl, rfl⟩

@[simp] theorem State.updPart_fields (s : State) (t : Nat) (h : Part → Part) :
    (s.updPart t h).cycle = s.cycle ∧ (s.updPart t h).time = s.time ∧ (s.updPart t h).frac = s.frac ∧
    (s.updPart t h).slew = s.slew ∧ (s.updPart t h).module = s.module ∧ (s.updPart t h).thisCycle = s.thisCycle ∧
    (s.updPart t h).cur = s.cur ∧ (s.updPart t h).frames = s.frames ∧ (s.updPart t h).slots = s.slots ∧
    (s.updPart t h).cores = s.cores ∧ (s.updPart t h).fifos = s.fifos ∧ (s.updPart t h).futures = s.futures ∧
    (s.updPart t h).clusters = s.clusters ∧ (s.updPart t h).leaseRecs = s.leaseRecs ∧ (s.updPart t h).geysers = s.geysers ∧
    (s.updPart t h).vfs = s.vfs ∧ (s.updPart t h).routers = s.routers ∧ (s.updPart t h).hub = s.hub ∧
    (s.updPart t h).pool = s.pool ∧ (s.updPart t h).gpool = s.gpool ∧ (s.updPart t h).dev = s.dev ∧
    (s.updPart t h).host = s.host ∧ (s.updPart t h).full = s.full ∧ (s.updPart t h).waitq = s.waitq ∧
    (s.updPart t h).bad = s.bad ∧ (s.updPart t h).delayed = s.delayed ∧ (s.updPart t h).tabWrites = s.tabWrites ∧
    (s.updPart t h).net = s.net ∧ (s.updPart t h).unperf = s.unperf ∧ (s.updPart t h).copies = s.copies ∧ (s.updPart t h).late = s.late ∧
    (s.updPart t h).agenda = s.agenda ∧ (s.updPart t h).tape = s.tape ∧ (s.updPart t h).nextId = s.nextId ∧
    (s.updPart t h).free = s.free := by
  refine ⟨rfl, rfl, rfl, rfl, rfl, rfl, rfl, rfl, rfl, rfl, rfl, rfl, rfl, rfl, rfl, rfl, rfl, rfl, rfl, rfl, rfl, rfl, rfl, rfl, rfl, rfl, rfl, rfl, rfl, rfl, rfl, rfl, rfl, rfl, rfl⟩

@[simp] theorem State.updVf_fields (s : State) (n : Nat) (h : Vf → Vf) :
    (s.updVf n h).cycle = s.cycle ∧ (s.updVf n h).time = s.time ∧ (s.updVf n h).frac = s.frac ∧
    (s.updVf n h).slew = s.slew ∧ (s.updVf n h).module = s.module ∧ (s.updVf n h).thisCycle = s.thisCycle ∧
    (s.updVf n h).cur = s.cur ∧ (s.updVf n h).frames = s.frames ∧ (s.updVf n h).slots = s.slots ∧
    (s.updVf n h).cores = s.cores ∧ (s.updVf n h).fifos = s.fifos ∧ (s.updVf n h).futures = s.futures ∧
    (s.updVf n h).clusters = s.clusters ∧ (s.updVf n h).leaseRecs = s.leaseRecs ∧ (s.updVf n h).geysers = s.geysers ∧
    (s.updVf n h).parts = s.parts ∧ (s.updVf n h).routers = s.routers ∧ (s.updVf n h).hub = s.hub ∧
    (s.updVf n h).pool = s.pool ∧ (s.updVf n h).gpool = s.gpool ∧ (s.updVf n h).dev = s.dev ∧
    (s.updVf n h).host = s.host ∧ (s.updVf n h).full = s.full ∧ (s.updVf n h).waitq = s.waitq ∧
    (s.updVf n h).bad = s.bad ∧ (s.updVf n h).delayed = s.delayed ∧ (s.updVf n h).tabWrites = s.tabWrites ∧
    (s.updVf n h).net = s.net ∧ (s.updVf n h).unperf = s.unperf ∧ (s.updVf n h).copies = s.copies ∧ (s.updVf n h).late = s.late ∧
    (s.updVf n h).agenda = s.agenda ∧ (s.updVf n h).tape = s.tape ∧ (s.updVf n h).nextId = s.nextId ∧
    (s.updVf n h).free = s.free := by
  refine ⟨rfl, rfl, rfl, rfl, rfl, rfl, rfl, rfl, rfl, rfl, rfl, rfl, rfl, rfl, rfl, rfl, rfl, rfl, rfl, rfl, rfl, rfl, rfl, rfl, rfl, rfl, rfl, rfl, rfl, rfl, rfl, rfl, rfl, rfl, rfl⟩

@[simp] theorem State.updFifo_fields (s : State) (n : Nat) (h : Fifo → Fifo) :
    (s.updFifo n h).cycle = s.cycle ∧ (s.updFifo n h).time = s.time ∧ (s.updFifo n h).frac = s.frac ∧
    (s.updFifo n h).slew = s.slew ∧ (s.updFifo n h).module = s.module ∧ (s.updFifo n h).thisCycle = s.thisCycle ∧
    (s.updFifo n h).cur = s.cur ∧ (s.updFifo n h).frames = s.frames ∧ (s.updFifo n h).slots = s.slots ∧
    (s.updFifo n h).cores = s.cores ∧ (s.updFifo n h).futures = s.futures ∧ (s.updFifo n h).clusters = s.clusters ∧
    (s.updFifo n h).leaseRecs = s.leaseRecs ∧ (s.updFifo n h).geysers = s.geysers ∧ (s.updFifo n h).parts = s.parts ∧
    (s.updFifo n h).vfs = s.vfs ∧ (s.updFifo n h).routers = s.routers ∧ (s.updFifo n h).hub = s.hub ∧
    (s.updFifo n h).pool = s.pool ∧ (s.updFifo n h).gpool = s.gpool ∧ (s.updFifo n h).dev = s.dev ∧
    (s.updFifo n h).host = s.host ∧ (s.updFifo n h).full = s.full ∧ (s.updFifo n h).waitq = s.waitq ∧
    (s.updFifo n h).bad = s.bad ∧ (s.updFifo n h).delayed = s.delayed ∧ (s.updFifo n h).tabWrites = s.tabWrites ∧
    (s.updFifo n h).net = s.net ∧ (s.updFifo n h).unperf = s.unperf ∧ (s.updFifo n h).copies = s.copies ∧ (s.updFifo n h).late = s.late ∧
    (s.updFifo n h).agenda = s.agenda ∧ (s.updFifo n h).tape = s.tape ∧ (s.updFifo n h).nextId = s.nextId ∧
    (s.updFifo n h).free = s.free := by
  refine ⟨rfl, rfl, rfl, rfl, rfl, rfl, rfl, rfl, rfl, rfl, rfl, rfl, rfl, rfl, rfl, rfl, rfl, rfl, rfl, rfl, rfl, rfl, rfl, rfl, rfl, rfl, rfl, rfl, rfl, rfl, rfl, rfl, rfl, rfl, rfl⟩

@[simp] theorem State.updFuture_fields (s : State) (n : Nat) (h : Future → Future) :
    (s.updFuture n h).cycle = s.cycle ∧ (s.updFuture n h).time = s.time ∧ (s.updFuture n h).frac = s.frac ∧
    (s.updFuture n h).slew = s.slew ∧ (s.updFuture n h).module = s.module ∧ (s.updFuture n h).thisCycle = s.thisCycle ∧
    (s.updFuture n h).cur = s.cur ∧ (s.updFuture n h).frames = s.frames ∧ (s.updFuture n h).slots = s.slots ∧
    (s.updFuture n h).cores = s.cores ∧ (s.updFuture n h).fifos = s.fifos ∧ (s.updFuture n h).clusters = s.clusters ∧
    (s.updFuture n h).leaseRecs = s.leaseRecs ∧ (s.updFuture n h).geysers = s.geysers ∧ (s.updFuture n h).parts = s.parts ∧
    (s.updFuture n h).vfs = s.vfs ∧ (s.updFuture n h).routers = s.routers ∧ (s.updFuture n h).hub = s.hub ∧
    (s.updFuture n h).pool = s.pool ∧ (s.updFuture n h).gpool = s.gpool ∧ (s.updFuture n h).dev = s.dev ∧
    (s.updFuture n h).host = s.host ∧ (s.updFuture n h).full = s.full ∧ (s.updFuture n h).waitq = s.waitq ∧
    (s.updFuture n h).bad = s.bad ∧ (s.updFuture n h).delayed = s.delayed ∧ (s.updFuture n h).tabWrites = s.tabWrites ∧
    (s.updFuture n h).net = s.net ∧ (s.updFuture n h).unperf = s.unperf ∧ (s.updFuture n h).copies = s.copies ∧ (s.updFuture n h).late = s.late ∧
    (s.updFuture n h).agenda = s.agenda ∧ (s.updFuture n h).tape = s.tape ∧ (s.updFuture n h).nextId = s.nextId ∧
    (s.updFuture n h).free = s.free := by
  refine ⟨rfl, rfl, rfl, rfl, rfl, rfl, rfl, rfl, rfl, rfl, rfl, rfl, rfl, rfl, rfl, rfl, rfl, rfl, rfl, rfl, rfl, rfl, rfl, rfl, rfl, rfl, rfl, rfl, rfl, rfl, rfl, rfl, rfl, rfl, rfl⟩

@[simp] theorem State.updRouter_fields (s : State) (n : Nat) (h : Router → Router) :
    (s.updRouter n h).cycle = s.cycle ∧ (s.updRouter n h).time = s.time ∧ (s.updRouter n h).frac = s.frac ∧
    (s.updRouter n h).slew = s.slew ∧ (s.updRouter n h).module = s.module ∧ (s.updRouter n h).thisCycle = s.thisCycle ∧
    (s.updRouter n h).cur = s.cur ∧ (s.updRouter n h).frames = s.frames ∧ (s.updRouter n h).slots = s.slots ∧
    (s.updRouter n h).cores = s.cores ∧ (s.updRouter n h).fifos = s.fifos ∧ (s.updRouter n h).futures = s.futures ∧
    (s.updRouter n h).clusters = s.clusters ∧ (s.updRouter n h).leaseRecs = s.leaseRecs ∧ (s.updRouter n h).geysers = s.geysers ∧
    (s.updRouter n h).parts = s.parts ∧ (s.updRouter n h).vfs = s.vfs ∧ (s.updRouter n h).hub = s.hub ∧
    (s.updRouter n h).pool = s.pool ∧ (s.updRouter n h).gpool = s.gpool ∧ (s.updRouter n h).dev = s.dev ∧
    (s.updRouter n h).host = s.host ∧ (s.updRouter n h).full = s.full ∧ (s.updRouter n h).waitq = s.waitq ∧
    (s.updRouter n h).bad = s.bad ∧ (s.updRouter n h).delayed = s.delayed ∧ (s.updRouter n h).tabWrites = s.tabWrites ∧
    (s.updRouter n h).net = s.net ∧ (s.updRouter n h).unperf = s.unperf ∧ (s.updRouter n h).copies = s.copies ∧ (s.updRouter n h).late = s.late ∧
    (s.updRouter n h).agenda = s.agenda ∧ (s.updRouter n h).tape = s.tape ∧ (s.updRouter n h).nextId = s.nextId ∧
    (s.updRouter n h).free = s.free := by
  refine ⟨rfl, rfl, rfl, rfl, rfl, rfl, rfl, rfl, rfl, rfl, rfl, rfl, rfl, rfl, rfl, rfl, rfl, rfl, rfl, rfl, rfl, rfl, rfl, rfl, rfl, rfl, rfl, rfl, rfl, rfl, rfl, rfl, rfl, rfl, rfl⟩

@[simp] theorem State.updHub_fields (s : State) (h : Hub → Hub) :
    (s.updHub h).cycle = s.cycle ∧ (s.updHub h).time = s.time ∧ (s.updHub h).frac = s.frac ∧
    (s.updHub h).slew = s.slew ∧ (s.updHub h).module = s.module ∧ (s.updHub h).thisCycle = s.thisCycle ∧
    (s.updHub h).cur = s.cur ∧ (s.updHub h).frames = s.frames ∧ (s.updHub h).slots = s.slots ∧
    (s.updHub h).cores = s.cores ∧ (s.updHub h).fifos = s.fifos ∧ (s.updHub h).futures = s.futures ∧
    (s.updHub h).clusters = s.clusters ∧ (s.updHub h).leaseRecs = s.leaseRecs ∧ (s.updHub h).geysers = s.geysers ∧
    (s.updHub h).parts = s.parts ∧ (s.updHub h).vfs = s.vfs ∧ (s.updHub h).routers = s.routers ∧
    (s.updHub h).pool = s.pool ∧ (s.updHub h).gpool = s.gpool ∧ (s.updHub h).dev = s.dev ∧
    (s.updHub h).host = s.host ∧ (s.updHub h).full = s.full ∧ (s.updHub h).waitq = s.waitq ∧
    (s.updHub h).bad = s.bad ∧ (s.updHub h).delayed = s.delayed ∧ (s.updHub h).tabWrites = s.tabWrites ∧
    (s.updHub h).net = s.net ∧ (s.updHub h).unperf = s.unperf ∧ (s.updHub h).copies = s.copies ∧ (s.updHub h).late = s.late ∧
    (s.updHub h).agenda = s.agenda ∧ (s.updHub h).tape = s.tape ∧ (s.updHub h).nextId = s.nextId ∧
    (s.updHub h).free = s.free := by
  refine ⟨rfl, rfl, rfl, rfl, rfl, rfl, rfl, rfl, rfl, rfl, rfl, rfl, rfl, rfl, rfl, rfl, rfl, rfl, rfl, rfl, rfl, rfl, rfl, rfl, rfl, rfl, rfl, rfl, rfl, rfl, rfl, rfl, rfl, rfl, rfl⟩

@[simp] theorem State.later_fields (s : State) (n : Nat) (i : Instr) :
    (s.later n i).cycle = s.cycle ∧ (s.later n i).time = s.time ∧ (s.later n i).frac = s.frac ∧
    (s.later n i).slew = s.slew ∧ (s.later n i).module = s.module ∧ (s.later n i).thisCycle = s.thisCycle ∧
    (s.later n i).cur = s.cur ∧ (s.later n i).frames = s.frames ∧ (s.later n i).slots = s.slots ∧
    (s.later n i).cores = s.cores ∧ (s.later n i).fifos = s.fifos ∧ (s.later n i).futures = s.futures ∧
    (s.later n i).clusters = s.clusters ∧ (s.later n i).leaseRecs = s.leaseRecs ∧ (s.later n i).geysers = s.geysers ∧
    (s.later n i).parts = s.parts ∧ (s.later n i).vfs = s.vfs ∧ (s.later n i).routers = s.routers ∧
    (s.later n i).hub = s.hub ∧ (s.later n i).pool = s.pool ∧ (s.later n i).gpool = s.gpool ∧
    (s.later n i).dev = s.dev ∧ (s.later n i).host = s.host ∧ (s.later n i).full = s.full ∧
    (s.later n i).waitq = s.waitq ∧ (s.later n i).bad = s.bad ∧ (s.later n i).delayed = s.delayed ∧
    (s.later n i).tabWrites = s.tabWrites ∧ (s.later n i).net = s.net ∧ (s.later n i).unperf = s.unperf ∧
    (s.later n i).copies = s.copies ∧ (s.later n i).late = s.late ∧ (s.later n i).tape = s.tape ∧ (s.later n i).nextId = s.nextId ∧
    (s.later n i).free = s.free := by
  refine ⟨rfl, rfl, rfl, rfl, rfl, rfl, rfl, rfl, rfl, rfl, rfl, rfl, rfl, rfl, rfl, rfl, rfl, rfl, rfl, rfl, rfl, rfl, rfl, rfl, rfl, rfl, rfl, rfl, rfl, rfl, rfl, rfl, rfl, rfl, rfl⟩

end Sys2Proof.Machine
end

