-- ==== Sys2Proof/Laws/Registers.lean ====
section
/-! SUPPORT. What the accessors read after a write: frames, slots, cores and the other units, and the registers of the
thread in issue. -/

namespace Sys2Proof.Machine

/-! ## Units -/

theorem State.frame_setFrame (s : State) (k j : Nat) (f : Frame) :
    (s.setFrame k f).frame j = if j = k then f else s.frame j := NMap.getD_put k j f (Frame.initial j) s.frames

theorem State.frame_updFrame (s : State) (k j : Nat) (h : Frame → Frame) :
    (s.updFrame k h).frame j = if j = k then h (s.frame k) else s.frame j := State.frame_setFrame s k j _

theorem State.frame_upd (s : State) (j : Nat) (h : Frame → Frame) :
    (s.upd h).frame j = if j = s.cur.fk then h s.cf else s.frame j := State.frame_setFrame s s.cur.fk j _

@[simp] theorem State.cf_upd (s : State) (h : Frame → Frame) : (s.upd h).cf = h s.cf := by
  show (s.upd h).frame s.cur.fk = _
  simp [State.frame_upd]

theorem State.slot_setSlot (s : State) (k j : Nat) (r : Slot) :
    (s.setSlot k r).slot j = if j = k then r else s.slot j := NMap.getD_put k j r {} s.slots

theorem State.slot_updSlot (s : State) (k j : Nat) (h : Slot → Slot) :
    (s.updSlot k h).slot j = if j = k then h (s.slot k) else s.slot j := State.slot_setSlot s k j _

theorem State.core_setCore (s : State) (k j : Nat) (c : Core) :
    (s.setCore k c).core j = if j = k then c else s.core j := NMap.getD_put k j c {} s.cores

theorem State.core_updCore (s : State) (k j : Nat) (h : Core → Core) :
    (s.updCore k h).core j = if j = k then h (s.core k) else s.core j := State.core_setCore s k j _

theorem State.cluster_updCluster (s : State) (k j : Nat) (h : Cluster → Cluster) :
    (s.updCluster k h).cluster j = if j = k then h (s.cluster k) else s.cluster j := by
  simp only [State.updCluster, State.cluster, NMap.getD_put]

theorem State.geyser_updGeyser (s : State) (k j : Nat) (h : Geyser → Geyser) :
    (s.updGeyser k h).geyser j = if j = k then h (s.geyser k) else s.geyser j := by
  simp only [State.updGeyser, State.geyser, NMap.getD_put]

theorem State.part_updPart (s : State) (k j : Nat) (h : Part → Part) :
    (s.updPart k h).part j = if j = k then h (s.part k) else s.part j := by
  simp only [State.updPart, State.part, NMap.getD_put]

theorem State.vf_updVf (s : State) (k j : Nat) (h : Vf → Vf) :
    (s.updVf k h).vf j = if j = k then h (s.vf k) else s.vf j := by
  simp only [State.updVf, State.vf, NMap.getD_put]

theorem State.fifo_updFifo (s : State) (k j : Nat) (h : Fifo → Fifo) :
    (s.updFifo k h).fifo j = if j = k then h (s.fifo k) else s.fifo j := by
  simp only [State.updFifo, State.fifo, NMap.getD_put]

theorem State.future_updFuture (s : State) (k j : Nat) (h : Future → Future) :
    (s.updFuture k h).future j = if j = k then h (s.future k) else s.future j := by
  simp only [State.updFuture, State.future, NMap.getD_put]

theorem State.router_updRouter (s : State) (k j : Nat) (h : Router → Router) :
    (s.updRouter k h).router j = if j = k then h (s.router k) else s.router j := by
  simp only [State.updRouter, State.router, NMap.getD_put]

/-! ## Registers of a frame -/

theorem Frame.rg_wg (f : Frame) (r n : Nat) (x : Word) :
    (f.wg r x).rg n = if n = 0 then 0 else if n = r then x else f.rg n := by
  unfold Frame.rg Frame.wg
  by_cases h : n = 0
  · simp [h]
  · by_cases hr : r = 0
    · subst hr; simp [h]
    · simp only [h, hr, if_false, NMap.getD_put]

theorem Frame.rp_wp (f : Frame) (r n : Nat) (x : PWord) :
    (f.wp r x).rp n = if n = 0 then 0xFFFF else if n = r then x else f.rp n := by
  unfold Frame.rp Frame.wp
  by_cases h : n = 0
  · simp [h]
  · by_cases hr : r = 0
    · subst hr; simp [h]
    · simp only [h, hr, if_false, NMap.getD_put]

theorem Frame.rv_wv (f : Frame) (r n : Nat) (x : VWord) :
    (f.wv r x).rv n = if n = r then x else f.rv n := NMap.getD_put r n x 0 f.v

/-- A write of a g register leaves the rest of the frame. -/
theorem Frame.wg_eq (f : Frame) (r : Nat) (x : Word) : ∃ g, f.wg r x = { f with g := g } := by
  unfold Frame.wg
  split
  · exact ⟨f.g, rfl⟩
  · exact ⟨_, rfl⟩

theorem Frame.wp_eq (f : Frame) (r : Nat) (x : PWord) : ∃ p, f.wp r x = { f with p := p } := by
  unfold Frame.wp
  split
  · exact ⟨f.p, rfl⟩
  · exact ⟨_, rfl⟩

/-- A ready cycle leaves the rest of the frame. -/
theorem Frame.setReady_eq (f : Frame) (k c : Nat) : ∃ r, f.setReady k c = { f with ready := r } := by
  unfold Frame.setReady
  split
  · exact ⟨f.ready, rfl⟩
  · exact ⟨_, rfl⟩

/-- A pending mark leaves the rest of the frame. -/
theorem Frame.setPend_eq (f : Frame) (k : Nat) : ∃ p, f.setPend k = { f with pend := p } := by
  unfold Frame.setPend
  split
  · exact ⟨f.pend, rfl⟩
  · exact ⟨_, rfl⟩

/-! ## Writes of the thread in issue -/

theorem State.cf_setG (s : State) (r : BitVec 6) (x : Word) (lat : Nat) :
    (s.setG r x lat).cf = (s.cf.wg r.toNat x).setReady r.toNat (s.cycle + 8 * lat) := State.cf_upd s _

theorem State.cf_setV (s : State) (r : BitVec 5) (x : VWord) (lat : Nat) :
    (s.setV r x lat).cf = (s.cf.wv r.toNat x).setReady (64 + r.toNat) (s.cycle + 8 * lat) := State.cf_upd s _

theorem State.cf_setP (s : State) (r : BitVec 4) (x : PWord) (lat : Nat) :
    (s.setP r x lat).cf = (s.cf.wp r.toNat x).setReady (128 + r.toNat) (s.cycle + 8 * lat) := State.cf_upd s _

/-- What a write of a g register of the thread leaves: every register but it, the rest of the frame but its ready
cycles, every other frame. -/
theorem State.setG_frame (s : State) (r : BitVec 6) (x : Word) (lat k : Nat) :
    (s.setG r x lat).frame k =
      if k = s.cur.fk then (s.cf.wg r.toNat x).setReady r.toNat (s.cycle + 8 * lat) else s.frame k :=
  State.frame_upd s k _

theorem State.setV_frame (s : State) (r : BitVec 5) (x : VWord) (lat k : Nat) :
    (s.setV r x lat).frame k =
      if k = s.cur.fk then (s.cf.wv r.toNat x).setReady (64 + r.toNat) (s.cycle + 8 * lat) else s.frame k :=
  State.frame_upd s k _

theorem State.setP_frame (s : State) (r : BitVec 4) (x : PWord) (lat k : Nat) :
    (s.setP r x lat).frame k =
      if k = s.cur.fk then (s.cf.wp r.toNat x).setReady (128 + r.toNat) (s.cycle + 8 * lat) else s.frame k :=
  State.frame_upd s k _

/-! ## A sticky bit is a change of one frame -/

theorem State.stickyIf_eq (s : State) (c : Bool) (b : Nat) :
    s.stickyIf c b = s ∨ s.stickyIf c b = s.upd (fun f => f.setSticky b) := by
  unfold State.stickyIf
  split
  · exact .inr rfl
  · exact .inl rfl

end Sys2Proof.Machine
end

