-- ==== Sys2Proof/Laws/Operands.lean ====
section
/-! SUPPORT. What a three-register operation does, once: its four outcomes. -/

namespace Sys2Proof.Machine

/-- Everything a three-register operation can do: its queue operands trap, a FENCE holds it, it waits for
its queues, or it completes. -/
theorem g3_cases (s : State) (q : QFlags) (rd ra rb : BitVec 6) (lat : Nat) (res : Word → Word → Word)
    (eff : Word → Word → State → State) :
    (∃ t, g3Trap s q rd ra rb = some t ∧ g3 s q rd ra rb lat res eff = .next (s.trap t)) ∨
    (g3Trap s q rd ra rb = none ∧ queueHeld s q = true ∧ g3 s q rd ra rb lat res eff = .next s.retry) ∨
    (g3Trap s q rd ra rb = none ∧ queueHeld s q = false ∧ (g3Acquire s q rd ra rb res).acquired = false ∧
      g3 s q rd ra rb lat res eff = .next (g3Acquire s q rd ra rb res).parkInPlace) ∨
    (g3Trap s q rd ra rb = none ∧ queueHeld s q = false ∧ (g3Acquire s q rd ra rb res).acquired = true ∧
      g3 s q rd ra rb lat res eff =
        .next (eff (opA (g3Acquire s q rd ra rb res) q ra) (opB (g3Acquire s q rd ra rb res) q rb)
          (if q.qd then g3Acquire s q rd ra rb res
           else (g3Acquire s q rd ra rb res).setG rd
             (res (opA (g3Acquire s q rd ra rb res) q ra) (opB (g3Acquire s q rd ra rb res) q rb)) lat))) := by
  unfold g3
  cases h : g3Trap s q rd ra rb with
  | some t => exact .inl ⟨t, rfl, rfl⟩
  | none =>
    cases hq : queueHeld s q with
    | true => exact .inr (.inl ⟨rfl, rfl, by simp⟩)
    | false =>
      cases hacq : (g3Acquire s q rd ra rb res).acquired with
      | false => exact .inr (.inr (.inl ⟨rfl, rfl, rfl, by simp [hacq]⟩))
      | true => exact .inr (.inr (.inr ⟨rfl, rfl, rfl, by simp [hacq]⟩))

/-- Without queue operands no FENCE holds an operation. -/
@[simp] theorem queueHeld_plain (s : State) : queueHeld s ⟨false, false, false⟩ = false := by simp [queueHeld]

/-- Without queue operands nothing is acquired. -/
@[simp] theorem g3Acquire_plain (s : State) (rd ra rb : BitVec 6) (res : Word → Word → Word) :
    g3Acquire s ⟨false, false, false⟩ rd ra rb res = s := by
  simp [g3Acquire, g3Pops]

/-- Without queue operands and with no wait left an operation completes. -/
theorem g3_plain (s : State) (rd ra rb : BitVec 6) (lat : Nat) (res : Word → Word → Word)
    (eff : Word → Word → State → State) (h : s.acquired = true) :
    g3 s ⟨false, false, false⟩ rd ra rb lat res eff =
      .next (eff (s.pg ra) (s.pg rb) (s.setG rd (res (s.pg ra) (s.pg rb)) lat)) := by
  rcases g3_cases s ⟨false, false, false⟩ rd ra rb lat res eff with ⟨t, ht, -⟩ | ⟨-, hq, -⟩ | ⟨-, -, hacq, -⟩ | ⟨-, -, -, he⟩
  · simp [g3Trap] at ht
  · simp at hq
  · rw [g3Acquire_plain, h] at hacq; cases hacq
  · simpa [opA, opB] using he

end Sys2Proof.Machine
end

