-- ==== Sys2Proof/Tests/Slice0.lean ====
section
/-! SUPPORT. Tests: ill-formed terms, decoded words, single steps, and for each statement a state and operands that
meet its hypotheses. -/

set_option Elab.async false

open Sys2Proof Sys2Proof.Machine

/-! ## Well-formed and ill-formed terms, one for each check of WellFormed.lean -/

theorem test_wf_add : (Instr.add ⟨true, true, true⟩ 7 2 3).wf = true := by decide
theorem test_wf_queueField : (Instr.add ⟨true, false, false⟩ 8 1 2).wf = false := by decide
theorem test_wf_queueTwice : (Instr.cmp ⟨false, true, true⟩ 1 2 2 0 .eq).wf = false := by decide
theorem test_wf_bfiQueue : (Instr.bfi ⟨true, false, false⟩ 1 2 3 4).wf = false := by decide
theorem test_wf_bfxQueue : (Instr.bfx ⟨false, false, true⟩ 1 2 9 4 false).wf = false := by decide
theorem test_wf_spawni : (Instr.spawni 1 2 0 0 false 0 true).wf = false := by decide
theorem test_wf_send : (Instr.send 1 63 0 false).wf = false := by decide
theorem test_wf_tabw : (Instr.tabw 2 4 1).wf = false ∧ (Instr.tabr 3 1 1).wf = false := by decide
theorem test_wf_laneType : (Instr.vadd .f32 .wrap 0 1 2 0).wf = false := by decide
theorem test_wf_vmadw : (Instr.vmadw .i16 false 0 1 2 3 0 0 0).wf = false := by decide
theorem test_wf_vcmp : (Instr.vcmp .i8 .eq true 1 0 0 0 0).wf = false := by decide
theorem test_wf_vfcmp : (Instr.vfcmp false .eq true 1 0 0 0 0).wf = false := by decide
theorem test_wf_vsplat : (Instr.vsplat .c8 0 1 0).wf = false := by decide
theorem test_wf_vextr : (Instr.vextr .i64 false 1 0 2).wf = false ∧ (Instr.vins .i32 0 1 4 0).wf = false := by decide
theorem test_wf_vred : (Instr.vred .i32 .fadd .rne 0 1 0).wf = false ∧ (Instr.vred .f32 .fmin .rz 0 1 0).wf = false ∧
    (Instr.vred .f19 .add .rne 0 1 0).wf = false := by decide
theorem test_wf_vcvt : (Instr.vcvt .i8 .i8 .rne false false false 0 0 1 0).wf = false ∧
    (Instr.vcvt .i8 .i16 .rne false false true 2 0 1 0).wf = false ∧
    (Instr.vcvt .f32 .i32 .rne false true false 0 0 1 0).wf = false := by decide
theorem test_wf_vplaneFix : (Instr.vplaneFix .rne 3 0 1).wf = false := by decide
theorem test_wf_vunpl : (Instr.vunplGather false 3 0 false 0 1 2).wf = false ∧
    (Instr.vunplGather true 6 0 false 0 1 2).wf = false ∧ (Instr.vunplVal true 2 0 1 2 3).wf = false := by decide
theorem test_wf_aset : (Instr.aset ⟨false, false, 0⟩ false 4 1 false false false).wf = false ∧
    (Instr.aset ⟨false, false, 0⟩ false 10 1 false false false).wf = false := by decide
theorem test_wf_aldb : (Instr.aldb ⟨false, false, 0⟩ false .own 1 2 0 0 768).wf = false := by decide
theorem test_wf_adrn : (Instr.adrn ⟨false, false, 0⟩ false .own 1 0 0 0 1 false false .raw).wf = false := by decide
theorem test_wf_qpush : (Instr.qpush 1 1).wf = false := by decide
theorem test_wf_launchRecord : (Instr.launchRecord 1 true []).wf = false := by decide
theorem test_wf_function : (Instr.token 0 0).wf = false ∧ (Instr.prring 1025 0).wf = false := by decide
theorem test_wf_run : (Instr.run 1 0 0 0 0).wf = false ∧ (Instr.run 1 0 3 3 0).wf = false := by decide
theorem test_wf_channelTable : (Instr.channelTableWrite 1024 0 []).wf = false ∧
    (Instr.channelTableWrite 0 5 []).wf = false := by decide
theorem test_wf_steeringTable : (Instr.steeringTableWrite 0 [0]).wf = false := by decide
theorem test_wf_logicalTable : (Instr.logicalTableWrite 0 []).wf = false := by decide
theorem test_wf_communicator : (Instr.communicatorWrite 4096 0 0 [0]).wf = false := by decide
theorem test_wf_link : (Instr.linkDown 18).wf = false ∧ (Instr.linkRetrain 17).wf = true := by decide

/-! ## Words written out from the encoding tables (R201 to R213): the head in the high 16 bits, then the tail

The words and their assembly texts are the spec's worked ones, of chapters 8 to 13, 19, 20 and 21. -/

/-- `or q2, g10, g0` and `sel g4, g29, g30, p2` (chapter 19). -/
theorem test_decode_integer :
    decodeTableWord 48 0x880A08A02000 = some (.or ⟨true, false, false⟩ 2 10 0) ∧
    decodeTableWord 48 0x881611D78002 = some (.sel ⟨false, false, false⟩ 4 29 30 2 false) := by decide +kernel
/-- `bfx.s g26, g2, g25, 8` (chapter 20). -/
theorem test_decode_bfx : decodeTableWord 48 0x883868264047 = some (.bfx ⟨false, false, false⟩ 26 2 25 7 true) := by
  decide +kernel
/-- `trap 0x21` (R242), and `dbrk` and `eret`, heads of the N0 tail without a tail. -/
theorem test_decode_system :
    decodeTableWord 48 0x88E000000021 = some (.trap 0x21) ∧ decodeTableWord 16 0x80E6 = some .dbrk ∧
    decodeTableWord 16 0x8056 = some .nop := by decide +kernel
/-- `st.gen.d g9, [g2-8]` (R251). -/
theorem test_decode_memory : decodeTableWord 48 0x8881242FFFF8 = some (.st 9 2 .gen .d 0xFFF8) := by decide +kernel
/-- `amo.add.gen.d.acq.rel.module g4, [g2+8], g3` (R253) and `amo.add.gen.d g0, [g5+0], g22` (chapter 21). -/
theorem test_decode_amo :
    decodeTableWord 80 0x8C881020FC6600000008 = some (.amo 4 2 3 .gen true .add ⟨true, true, 4⟩ 8) ∧
    decodeTableWord 80 0x8C880055BC4000000000 = some (.amo 0 5 22 .gen true .add ⟨false, false, 0⟩ 0) := by decide +kernel
/-- `spawn`, `spawni.nt`, `resolve`, `touch.c`, `joini` and `waitm` (chapters 19 to 21). -/
theorem test_decode_tasks :
    decodeTableWord 48 0x88C015348002 = some (.spawn 5 19 18 2 false) ∧
    decodeTableWord 48 0x88C224000081 = some (.spawni 9 0 0 1 false 0 true) ∧
    decodeTableWord 48 0x88C600170002 = some (.resolve 1 28 2) ∧
    decodeTableWord 48 0x88C464700017 = some (.touch 25 7 7 true) ∧
    decodeTableWord 48 0x88C969938020 = some (.joini 26 25 14 1) ∧
    decodeTableWord 48 0x88CC28000000 = some (.waitm 10) ∧ decodeTableWord 16 0x80CA = some .retire := by decide +kernel
/-- `vsplat.i64 v1, g0` (chapter 20) and the transpose of chapter 11. -/
theorem test_decode_vector :
    decodeTableWord 48 0x98130800C000 = some (.vsplat .i64 1 0 0) ∧
    decodeTableWord 80 0x9C633944200000000038 = some (.vplaneTr .rne 1 7 5 2 2) := by decide +kernel
/-- `alease 5`, `aset 7, 1, skip`, `aldb.ilv.rel.cluster g5, 4, 4, 16` and `azero 4, 4, 0` (chapter 12). -/
theorem test_decode_array :
    decodeTableWord 80 0xAC000000000000000004 = some (.alease 4) ∧
    decodeTableWord 80 0xAC020000000000000417 = some (.aset ⟨false, false, 0⟩ false 7 1 false true false) ∧
    decodeTableWord 80 0xAC031400148030300400 = some (.aldb ⟨false, true, 2⟩ false .ilv 5 0 2 3 3) ∧
    decodeTableWord 80 0xAC060000000000C0C000 = some (.azero ⟨false, false, 0⟩ false 0 3 3) := by decide +kernel
/-- `astr.ilv.t.rel.cluster g4, 4, 16, 0` and `adrn.ilv.raw.t.acq.cluster g6, 4, 4, 0` (chapter 12). -/
theorem test_decode_arrayTokens :
    decodeTableWord 80 0xAC041000158018020000 = some (.astr ⟨false, true, 2⟩ true .ilv 4 0 2 3) ∧
    decodeTableWord 80 0xAC051800258000C0C000 = some (.adrn ⟨true, false, 2⟩ true .ilv 6 0 3 3 0 false false .raw) := by
  decide +kernel
/-- `xld.gen.d g4, [g1+0]`, head 0x8CA0, which only a Geyser core accepts (R262, R264). -/
theorem test_decode_external :
    decodeTableWord 80 0x8CA010103C0000000000 = some (.xld 4 1 .gen .d ⟨false, false, 0⟩ 0) ∧
    soleOp (fetchBundle (tableLine 80 0x8CA010103C0000000000) 0 false) = none := by decide +kernel
/-- An opcode that no table lists, CLZ with fn 1, and LI with fn 2 are refused (R212, R231, R233). -/
theorem test_decode_refused :
    decodeTableWord 48 0x88FF00000000 = none ∧ decodeTableWord 32 0x84300401 = none ∧
    decodeTableWord 80 0x8C400402000000000000 = none := by decide +kernel

/-! ## States of the tests -/

/-- Core 0 belongs to partition 0 in epoch 1 and has its running task in frame 0 and slot 0. -/
def tBase : State :=
  { State.reset with
    cores := [(0, { pword := 0x8418, tag := 0, epoch := 1 })]
    slots := [(0, { state := .run, frame := some 0 })]
    frames := [(0, { state := .running })]
    parts := [(0, { assigned := true, epoch := 1 })] }

/-- The same with the registers of a frame, in issue at head 0 of line 0. -/
def tWith (f : Frame) : State :=
  { tBase with
    frames := [(0, { f with state := .running })]
    cur := { sk := 0, fk := 0, bpc := 0, npc := 1, pre := { f with state := .running } } }

def tCore : State := tWith {}

/-- Thread 1 of the Geyser of channel 0, in issue. -/
def tGeyser : State :=
  let f : Frame := { state := .running }
  { State.reset with
    geysers := [(0, { tag := 0, epoch := 1, threads := [(1, { state := 1 })] })]
    slots := [(131073, { state := .run, frame := some 1048577 })]
    frames := [(1048577, f)]
    parts := [(0, { assigned := true, epoch := 1 })]
    cur := { sk := 131073, fk := 1048577, bpc := 0, npc := 1, pre := f } }

/-! ## Witnesses: scalar operations -/

theorem test_wit_acquired : tCore.acquired = true := by decide +kernel

/-- q2 bound to FIFO 0, which belongs to the partition and holds a word. -/
def tFifo : State :=
  { tCore with
    fifos := [(0, { owner := some 0, items := [5] })]
    cur := { tCore.cur with slot := { tCore.cur.slot with qbind := 0x40 } } }

theorem test_wit_IntegerResults :
    g3Trap tFifo ⟨true, true, false⟩ 2 2 1 = none ∧
    (g3Acquire tFifo ⟨false, true, false⟩ 2 2 1 (fun a b => a + b)).acquired = true := by decide +kernel

theorem test_wit_WindowGroup : tCore.onGeyser = false ∧ tGeyser.onGeyser = true := by decide +kernel

/-- gwin.loc: pointers of another module's cluster and of this core's cluster, own and other core. -/
theorem test_wit_WindowGroup_classes :
    let base := (tCore.pcid tCore.curCore).toNat
    base / 2 ^ 36 % 2 ^ 20 = 0 ∧ base / 2 ^ 32 % 16 = 0 := by decide +kernel

theorem test_wit_Transfers :
    ((tCore.pp 0).getLsbD 0 != false) = true ∧ ((tCore.pp 1).getLsbD 0 == false) = true ∧
    ((tCore.pp 1 != 0) == false) = true ∧ ((tCore.pp 0 != 0) != false) = true ∧
    tCore.pg 1 - 1 ≠ 0 ∧ (tWith { g := [(1, 1)] }).pg 1 - 1 = 0 ∧ (tWith { g := [(1, 0x20)] }).pg 1 ≠ 1 ∧
    ((tWith { g := [(1, 0x20)] }).pg 1).getLsbD 5 = true := by decide +kernel

/-- A relative target with bit 5 clear, and one that leaves the window of code addresses does not exist: it wraps. -/
theorem test_wit_Transfers_target :
    (tCore.relTarget (1 : BitVec 22) 3).toNat / 2 ^ 56 = 0 ∧ (tCore.relTarget (1 : BitVec 22) 3).getLsbD 5 = false := by
  decide +kernel

/-! ## Witnesses: memory operations -/

theorem test_wit_MemoryReadsBack :
    Mem.wf [(4, 1), (9, 255)] = true ∧ tCore.pool.wf = true ∧ (0 : Word).toNat % 2 ^ (8 * 8) = 0 ∧
    (1 : Word).toNat % 2 ^ (8 * 4) ≠ tCore.pool.readLE 0 4 := by decide +kernel

theorem test_wit_AddressDecode :
    tCore.onGeyser = false ∧ 0xF000000000000000 / 2 ^ 56 = 0xF0 ∧ 0xF1FFFFFFFFFFFFFF / 2 ^ 56 = 0xF1 ∧
    0xF200000000000000 / 2 ^ 56 = 0xF2 ∧ 0x01FFFFFFFFFFFFFF / 2 ^ 56 = 1 ∧ 0xF300000000020000 / 2 ^ 17 % 2 ^ 14 ≠ 0 ∧
    0xF30000008001FFFF / 2 ^ 17 % 2 ^ 14 = 0 ∧ 0xF400000000000000 / 2 ^ 56 ∉ [0, 1, 0xF0, 0xF1, 0xF2, 0xF3] := by
  decide +kernel

theorem test_wit_AccessTraps :
    tCore.decodeOperand .gen (tCore.pg 0 + (0 : BitVec 16).signExtend 64) (szBytes .w) = .error { cause := 0x03, eval := 0 } ∧
    tCore.decodeOperand .gen (tCore.pg 0 + (0 : BitVec 16).signExtend 64) 16 = .error { cause := 0x03, eval := 0 } ∧
    scopeTrap tCore (ordScope ⟨false, false, 0⟩) = none ∧
    tCore.decodeOperand .gen (tCore.pg 0 + (0 : BitVec 32).signExtend 64) (if true then 8 else 4) =
      .error { cause := 0x03, eval := 0 } := ⟨rfl, rfl, rfl, rfl⟩

/-- The last dword before the gap of the default pool, and the gap. -/
theorem test_wit_StoresOwnPool :
    tCore.decodeOperand .own (tCore.pg 0 + (0x7FF8 : BitVec 16).signExtend 64) 8 = .ok ⟨0, 0, 0, 0x7FF8, false⟩ ∧
    tCore.cur.rx = false ∧ tCore.ownGap 0x7FF8 = false ∧ tCore.memWf = true ∧
    tCore.accStalls .plain .store (tCore.placeBytes (tCore.wordPlaces ⟨0, 0, 0, 0x7FF8, false⟩ 8) 8) true = false ∧
    tCore.accStalls .plain .store (tCore.placeBytes (tCore.wordPlaces ⟨0, 0, 0, 0x7FF8, false⟩ 16) 16) true = false ∧
    tCore.accStalls .plain .load (tCore.placeBytes (tCore.wordPlaces ⟨0, 0, 0, 0x7FF8, false⟩ 8) 8) true = false ∧
    tCore.ownError .load ⟨0, 0, 0, 0x7FF8, false⟩ 8 = none ∧ tCore.ownError .load ⟨0, 0, 0, 0x7FF8, false⟩ 16 = none ∧
    ({ tCore with bad := [(wordKey 0 0x7FF8, .lasting)] } : State).ownError .load ⟨0, 0, 0, 0x7FF8, false⟩ 8 = some (wordKey 0 0x7FF8, true) ∧
    tCore.decodeOperand .own (tCore.pg 0 + (0x7FF0 : BitVec 16).signExtend 64) 16 = .ok ⟨0, 0, 0, 0x7FF0, false⟩ := by
  refine ⟨rfl, ?_, ?_, ?_, ?_, ?_, ?_, ?_, ?_, ?_, rfl⟩ <;> decide +kernel

theorem test_wit_StoresOwnPool_gap : tCore.ownGap 0x17FF8 = true ∧ tGeyser.onGeyser = true := by decide +kernel

def tFull : State := { tCore with full := [(1, ())] }
def tAt8 : Dec := ⟨0, 0, 0, 8, false⟩

theorem test_wit_FullEmptyOwnPool :
    tFull.onGeyser = false ∧ tFull.acquired = true ∧ tFull.waitStands 0 = false ∧ tFull.inGap 0 8 = false ∧
    tFull.pool.wf = true ∧ tFull.waitq.getD (wordKey tFull.curCore (tFull.reduce tFull.curCore 8)) [] = [] ∧
    tFull.isFull tFull.curCore (tFull.reduce tFull.curCore 8) = true ∧ feStalls tFull .lds tAt8 8 = false ∧
    feStalls tFull .ldsp tAt8 8 = false ∧ tCore.isFull tCore.curCore (tCore.reduce tCore.curCore 8) = false ∧
    feStalls tCore .sts tAt8 8 = false ∧ feStalls tFull .sts tAt8 8 = false ∧ feStalls tCore .lds tAt8 8 = false ∧
    tFull.ownError .lds tAt8 8 = none ∧ tFull.ownError .ldsp tAt8 8 = none ∧ tCore.ownError .sts tAt8 8 = none ∧
    tFull.ownError .sts tAt8 8 = none ∧ tCore.ownError .lds tAt8 8 = none ∧ tCore.accIds tCore.cur.fk = [] ∧
    tFull.accIds tFull.cur.fk = [] ∧
    ({ tFull with bad := [(metaKey 0 8, .lasting)] } : State).ownError .lds tAt8 8 = some (metaKey 0 8, true) ∧
    ({ tFull with bad := [(metaKey 0 8, .lasting)] } : State).ownError .ldsp tAt8 8 = some (metaKey 0 8, true) ∧
    (let o : Outst := { id := 3, kind := .rx, cls := .store }
     let s : State := { tWith { outs := [o] } with unperf := [3] }
     s.accIds s.cur.fk ≠ [] ∧ feStalls s .sts tAt8 8 = false ∧ s.ownError .sts tAt8 8 = none) := by
  decide +kernel

theorem test_wit_FullEmptyOwnPool_decode :
    tFull.decodeOperand .own (tFull.pg 0 + (8 : BitVec 16).signExtend 64) (szBytes .d) = .ok tAt8 := rfl

/-- Core 1 of the own cluster by the blocked view, and the own pool with RX. -/
theorem test_wit_RemoteAccesses :
    tCore.decodeOperand .blk ((tWith { g := [(1, 0x20008)] }).pg 1 + (0 : BitVec 16).signExtend 64) 8 =
      .ok ⟨1, 0, 0, 0x20008, false⟩ ∧
    tCore.cur.fk < 2 ^ 20 + 4096 ∧ (0 : Nat) < 1024 ∧
    tCore.accStalls .plain .load (tCore.placeBytes (tCore.wordPlaces ⟨1, 0, 0, 0x20008, false⟩ 8) 8) false = false ∧
    tCore.accStalls .plain .store (tCore.placeBytes (tCore.wordPlaces ⟨1, 0, 0, 0x20008, false⟩ 16) 16) false = false ∧
    tCore.accStalls .plain .atomic (tCore.placeBytes (tCore.wordPlaces ⟨1, 0, 0, 0x20008, false⟩ 8) 8) false = false ∧
    feStalls tCore .lds ⟨1, 0, 0, 0x20008, false⟩ 8 = false ∧ feStalls tCore .sts ⟨1, 0, 0, 0x20008, false⟩ 8 = false ∧
    scopeTrap tCore 2 = none ∧ scopeTrap tCore (tCore.feScope ⟨1, 0, 0, 0x20008, false⟩) = none ∧
    tCore.ownError .load ⟨1, 0, 0, 0x20008, false⟩ 8 = none ∧ tCore.ownError (.amo .add) ⟨1, 0, 0, 0x20008, false⟩ 8 = none ∧
    tCore.ownError .cas ⟨1, 0, 0, 0x20008, false⟩ 8 = none := by
  refine ⟨rfl, ?_⟩; decide +kernel

theorem test_wit_RemoteAccesses_rx :
    let s : State := { tCore with cur := { tCore.cur with rx := true } }
    s.cur.rx = true ∧
    s.accStalls .rx .load (s.placeBytes (s.wordPlaces tAt8 8) 8) false = false ∧
    s.accStalls .rx .atomic (s.placeBytes (s.wordPlaces tAt8 8) 8) false = false := by decide +kernel

/-- A message between core 0 and core 0, of the thread in frame 0. -/
def tMsg (b : Body) : Packet :=
  { id := 7, src := 0, dst := 0, vc := 0, tag := 0, epoch := 1, sender := 0, after := [], notBefore := 0, body := b }

def tLoad : WordAcc := { op := .load, off := 8, size := 8, data := 0, expect := 0, part := 0, out := 3 }

/-- A load of a thread of core 0 arrives at core 0. -/
def tArrival : State := { tCore with net := [tMsg (.access tLoad)] }

theorem test_wit_PortEngineAccess :
    Arrives tArrival (tMsg (.access tLoad)) ∧ tArrival.coreOf 0 0 1 = true ∧
    tArrival.waitq.getD (wordKey 0 (tArrival.reduce 0 8)) [] = [] ∧ tArrival.inGap 0 8 = false ∧
    tArrival.inGap 0 0x17FF8 = true ∧ tArrival.accError .load 0 (tArrival.reduce 0 8) = none ∧
    ({ tArrival with bad := [(1, .lasting)] } : State).accError .load 0 (tArrival.reduce 0 8) = some (1, true) ∧
    accWaits .load (tArrival.isFull 0 (tArrival.reduce 0 8)) = false := by
  unfold Arrives; decide +kernel

/-- The response to it: result 3 of frame 0, for g5. -/
def tResponse : State :=
  { tWith { outs := [{ id := 3, kind := .rx, cls := .load, dst := some 5 }] } with
    net := [tMsg (.response 3 0 9 true false false false false tLoad)] }

theorem test_wit_AccessResponse :
    Arrives tResponse (tMsg (.response 3 0 9 true false false false false tLoad)) ∧ tResponse.endOf 0 0 1 = true ∧
    (tResponse.frame 0).outs.find? (fun x => x.id == 3) =
      some { id := 3, kind := .rx, cls := .load, dst := some 5 } := by
  unfold Arrives; decide +kernel

def tRetry : State := { tBase with cores := [(0, { tag := 0, epoch := 1, retryBuf := [tMsg (.access tLoad)] })] }

theorem test_wit_RetryResend :
    tRetry.retryHolder 7 = some (0, tMsg (.access tLoad)) ∧ (tRetry.core 0).preempted = false := by decide +kernel

/-! ## Witnesses: control registers, traps, system operations -/

theorem test_wit_ControlAccess :
    tCore.onGeyser = false ∧ (∀ x ∈ regMap, x.1 = 0x0FF → x.2.2.2 = true ∧ tCore.onGeyser = true) ∧
    (0x006, 0, 2, false) ∈ regMap ∧ (0x000, 1, 2, false) ∈ regMap ∧ (0x010, 1, 1, true) ∈ regMap ∧
    (0x070, 1, 1, false) ∈ regMap ∧ tCore.cur.pre.priv = 0 ∧
    (∀ x ∈ regMap, x.1 = 0x058 → x.2.2.2 = true ∧ tGeyser.onGeyser = true) := by decide +kernel

/-- A task at S. -/
def tSup : State := tWith { status := 1, g := [(1, 0xF3), (2, 0xFF)] }

theorem test_wit_ControlWrites :
    tSup.onGeyser = false ∧ 1 ≤ tSup.cur.pre.priv ∧ (tSup.pg 1).toNat < 256 ∧ (tSup.pg 1).toNat / 4 % 4 < 2 ∧
    2 ≤ (tSup.pg 2).toNat / 4 % 4 := by decide +kernel

def tHandler : State := { tWith { status := 0x10 } with cores := [(0, { pword := 0x8418, epoch := 1, tvec := 0x40 })] }

theorem test_wit_TrapEntry :
    tHandler.onGeyser = false ∧ tHandler.cf.outs = [] ∧ tHandler.cf.intrap = false ∧
    (tHandler.core tHandler.curCore).tvec ≠ 0 ∧ tResponse.cf.outs ≠ [] := by decide +kernel

/-- The handle of entry 0 of cluster 0 in generation 16, whose future is pending. -/
def tOwner : State :=
  { tWith { fut := 0x100000 } with futures := [(0, { gen := 16, state := .pending })] }

theorem test_wit_TrapEntry_unhandled :
    tOwner.onGeyser = false ∧ tOwner.cf.outs = [] ∧ (tOwner.core tOwner.curCore).tvec = 0 ∧
    (tOwner.core tOwner.curCore).svec = 0 ∧ tOwner.slotOf tOwner.cur.fk = some 0 ∧
    handleModule tOwner.cf.fut = tOwner.module.toNat ∧ handleCluster tOwner.cf.fut = tOwner.curCore / 16 ∧
    (tOwner.future (handleKey tOwner.cf.fut)).state = .pending ∧
    handleDist (tOwner.future (handleKey tOwner.cf.fut)) tOwner.cf.fut = 0 ∧
    (tOwner.future (handleKey tOwner.cf.fut)).dropped = false := by decide +kernel

theorem test_wit_TrapEntry_slot (j : Nat) (h : (tOwner.slot j).frame = some tOwner.cur.fk) : j = 0 := by
  cases j with
  | zero => rfl
  | succ n => exact absurd h (by simp [State.slot, NMap.getD, NMap.get?, tOwner, tWith, tBase])

/-- In a handler, with c.epc at line 1, head 2; with the bit 5 of c.epc set; and with a result outstanding. -/
def tInTrap (epc : Word) (outs : List Outst) : State := tWith { status := 0x64, epc := epc, outs := outs }

theorem test_wit_TrapOperations :
    (tInTrap 0x42 []).cur.pre.intrap = true ∧ (tInTrap 0x42 []).cf.outs = [] ∧
    (tInTrap 0x42 []).cf.epc.toNat / 2 ^ 56 = 0 ∧ (tInTrap 0x42 []).cf.epc.getLsbD 5 = false ∧
    tCore.cur.pre.intrap = false ∧ (tInTrap 0x60 []).cf.epc.getLsbD 5 = true ∧
    (tInTrap 0x42 [{ id := 1, kind := .rx, cls := .load }]).cf.outs ≠ [] := by decide +kernel

theorem test_wit_PrivilegedAtU :
    tCore.cur.pre.priv = 0 ∧ tCore.onGeyser = false ∧ tSup.onGeyser = false ∧ 1 ≤ tSup.cur.pre.priv ∧
    (TabWrite.mk 0 0 3 254 0).x.toNat + 1 = 255 := by decide +kernel

/-! ## Witnesses: vector operations -/

theorem test_wit_VectorInteger : LaneType.isInt .i8 = true ∧ LaneType.isInt .i64 = true ∧ LaneType.isFloat .f19 = true := by
  decide

theorem test_wit_VectorFloat :
    tCore.writesRctr = false ∧
    ({ tCore with cur := { tCore.cur with ops := [.cwr 1 0x051] } } : State).writesRctr = true := by decide +kernel

theorem test_wit_FloatSpecials :
    f32NaN 0x7F800001 = true ∧ f32SNaN 0x7F800001 = true ∧ f32NaN 0x7FC00000 = true ∧ 0 < 1 ∧ 3 % 2 ≠ 0 ∧
    2 * (1 : Int) * 2 = 2 * 1 + 2 := by decide +kernel

theorem test_wit_VectorConvert :
    f32Inf 0xFF800000 = true ∧ f32Neg 0xFF800000 = true ∧ f32Fin 0x3F800000 = true ∧
    (Instr.vcvt .i64 .i8 .rne false false false 0 1 2 3).wf = true ∧
    (Instr.vcvt .i8 .i64 .rz true true true 3 1 2 3).wf = true ∧
    (Instr.vcvt .f19 .i32 .rs true false false 0 1 2 3).wf = true ∧
    (Instr.vcvt .f32 .f19 .ru false false false 0 1 2 3).wf = true := by decide +kernel

/-- The values of the float to integer clauses: 1.0 inside, and 2^31 outside the range of i32. -/
theorem test_wit_VectorConvert_range :
    (roundInt .rne false (f32Mag 0x3F800000) (2 ^ 149) 0).1 = 1 ∧
    (roundInt .rne false (f32Mag 0x4F000000) (2 ^ 149) 0).1 = 2 ^ 31 := by decide +kernel

/-- Descriptors at offset 8 of the own pool: 8-bit codes without a sign, and one with a reserved bit set. -/
def tDesc (b : Byte) : State := { tWith { fmta := 8, fmtb := 3 } with pool := [(8, b)] }

theorem test_wit_VectorCodes :
    tGeyser.onGeyser = true ∧ (tDesc 3).onGeyser = false ∧ (tDesc 3).cur.pre.fmta.toNat % 8 = 0 ∧
    (tDesc 3).inGap 0 8 = false ∧ (tDesc 3).inGap 0 16 = false ∧ (tDesc 3).cur.pre.fmtb.toNat % 8 ≠ 0 ∧
    (tDesc 3).inGap 0 0x17FF8 = true ∧
    parseDesc ((tDesc 0x20).poolRead 0 8 8) ((tDesc 0x20).poolRead 0 16 8) = none ∧
    parseDesc ((tDesc 3).poolRead 0 8 8) ((tDesc 3).poolRead 0 16 8) = some ⟨8, false, false, false, 0, 0, 0, 0, 256⟩ ∧
    128 / 8 ≤ 4 * 4 + 3 ∧ 4 * 3 + 3 < 128 / 8 := by decide +kernel

/-- The decode table holds 0 for a code that is not listed; a NaN, an infinity and a scaled block. -/
theorem test_wit_CodeValues :
    parseDesc 3 0 = some ⟨8, false, false, false, 0, 0, 0, 0, 256⟩ ∧
    parseDesc 15 0 = some ⟨8, true, true, false, 0, 0, 0, 0, 128⟩ ∧
    f32NaN (((({ dtab := [(1, 0x7FC00000)] } : Core).dtabAt 1) : BitVec 32) &&& 0xFFFFE000) = true ∧
    f32Inf (((({ dtab := [(1, 0xFF800000)] } : Core).dtabAt 1) : BitVec 32) &&& 0xFFFFE000) = true ∧
    f32Fin ((({} : Core).dtabAt 1 : BitVec 32) &&& 0xFFFFE000) = true := by decide +kernel

/-- The header of R61's worked record, and headers of class 3 and class 0. -/
theorem test_wit_VectorPlanes :
    hdrOk 0x300880 = true ∧ hCls 0x300880 = 1 ∧ hdrOk 0x600880 = false ∧ hdrOk 0x100800 = true ∧ hCls 0x100800 ≠ 1 ∧
    (Instr.vunplGather true 5 3 true 1 2 3).wf = true := by decide +kernel


/-! ## Witnesses: queues, waiters, markers, values of the formats -/

/-- A thread with a mailbox, tokens and FIFO 0 bound to q2. -/
def tQueues (mail : List MailEntry) (toks : List Token) (f : Fifo) : State :=
  { tFifo with
    cores := [(0, { pword := 0x8418, tag := 0, epoch := 1, mail := mail, tokens := toks })], fifos := [(0, f)] }

/-- Behind a FENCE whose access 3 is not performed. -/
def tFenced (s : State) : State :=
  { s with unperf := [3], frames := [(0, { state := .running, fenceAll := [3], outs := [{ id := 3, kind := .rx, cls := .store }] })] }

theorem test_wit_IntegerResults_fence :
    g3Trap (tFenced tFifo) ⟨true, true, false⟩ 2 2 1 = none ∧ queueHeld (tFenced tFifo) ⟨true, true, false⟩ = true ∧
    queueHeld tFifo ⟨true, true, false⟩ = false := by decide +kernel

/-- Something to pop: a dword, a token, a word behind which nobody and one pusher waits, and a FIFO of another partition. -/
theorem test_wit_IntegerResults_pops :
    let s := tQueues [⟨1, [9, 9, 9, 9]⟩, ⟨0, [1, 2, 3, 4]⟩] [⟨0, true, 7, 1⟩, ⟨0, true, 8, 2⟩] { owner := some 0, items := [5, 6] }
    let u := tQueues [] [] { owner := some 0, items := [5], waiting := [⟨1, 3, some 6⟩] }
    let v := tQueues [] [] { owner := some 1 }
    s.acquired = true ∧ s.waitStands 1 = false ∧ s.fenceHolds .load = false ∧ s.queueTrap false 0 = none ∧
    s.queueTrap false 1 = none ∧ s.queueTrap false 2 = none ∧
    s.mailOf 0 = [⟨1, [9, 9, 9, 9]⟩] ++ ⟨0, [1, 2, 3, 4]⟩ :: [] ∧ (s.core 0).tokens = [] ++ ⟨0, true, 7, 1⟩ :: [⟨0, true, 8, 2⟩] ∧
    (s.fifo 0).owner = some (s.frameTag 0) ∧ (s.fifo 0).items = 5 :: [6] ∧ (s.fifo 0).poppedAt ≠ some s.cycle ∧
    (s.fifo 0).waiting = [] ∧ (qField s.cur.slot.qbind 2).1 = 0 ∧ (u.fifo 0).items = 5 :: [] ∧
    (u.fifo 0).waiting = [⟨1, 3, some 6⟩] ∧ (u.fifo 0).pushedAt ≠ some u.cycle ∧ (v.fifo 0).owner ≠ some (v.frameTag 0) ∧
    (∀ e ∈ u.mailOf 0, e.frame ≠ 0) ∧ (∀ x ∈ (u.core 0).tokens, x.frame = 0 → x.placed = false) ∧
    ((tQueues [] [] { owner := some 0 }).fifo 0).items = [] := by decide +kernel

/-- A push: with space, to a full FIFO, to a waiting pop, to another partition's, and with an access before it. -/
theorem test_wit_IntegerResults_pushes :
    let s := tQueues [] [] { owner := some 0, items := [5] }
    let u := tQueues [] [] { owner := some 0, items := List.replicate 16 5 }
    let v := tQueues [] [] { owner := some 0, waiting := [⟨1, 1, none⟩] }
    let w : State := { s with unperf := [3], frames := [(0, { state := .running, outs := [{ id := 3, kind := .rx, cls := .store }] })] }
    s.waitStands 3 = false ∧ s.fenceHolds .store = false ∧ s.queueTrap true 2 = none ∧ s.accIds s.cur.fk = [] ∧ w.accIds w.cur.fk ≠ [] ∧
    w.fenceHolds .store = false ∧ w.acquired = true ∧
    (s.fifo 0).pushedAt ≠ some s.cycle ∧ (s.fifo 0).items.length < 16 ∧ 16 ≤ (u.fifo 0).items.length ∧ (u.fifo 0).waiting = [] ∧
    (v.fifo 0).items = [] ∧ (v.fifo 0).waiting = [⟨1, 1, none⟩] ∧ (v.fifo 0).poppedAt ≠ some v.cycle := by decide +kernel

theorem test_wit_StoresOwnPool_key : keyInPool (wordKey 0 0x7FF8) = true ∧ keyEnd (wordKey 0 0x7FF8) = 0 := by decide +kernel

theorem test_wit_FullEmptyOwnPool_sts :
    ({ tCore with bad := [(metaKey 0 8, .lasting)] } : State).ownError .sts tAt8 8 = some (metaKey 0 8, true) := by decide +kernel

/-- Waiters of word 8 of core 0: an LDSP and an LDS of core 1. -/
def tRemoteW (op : AccOp) : Waiter := ⟨.remote 1 64 0 1 3 0, op, 8, 8, 7, 4⟩

theorem test_wit_PortEngineAccess_waiters (ws : List Waiter) (s : State)
    (hw : ws = [tRemoteW .ldsp, tRemoteW .lds]) (hs : s = { tCore with waitq := [(1, ws)] }) :
    RemoteWaiters s 0 8 (s.waitq.getD (wordKey 0 8) []) ∧ s.bad = [] ∧ serveWalk s 0 s.pool true ws ≠ ([], ws, s.pool, true) := by
  subst hw hs
  refine ⟨?_, rfl, by decide +kernel⟩
  intro w h
  replace h : w ∈ [tRemoteW .ldsp, tRemoteW .lds] := h
  have : w = tRemoteW .ldsp ∨ w = tRemoteW .lds := by simpa using h
  rcases this with rfl | rfl
  · exact ⟨.inr (.inl rfl), by decide, 1, 64, 0, 1, 3, 0, rfl, by decide⟩
  · exact ⟨.inl rfl, by decide, 1, 64, 0, 1, 3, 0, rfl, by decide⟩

/-- An STS arrives where those wait, an own LDS and STS are issued there, and a FESET has its turn. -/
theorem test_wit_PortEngineAccess_served :
    let sts : WordAcc := { tLoad with op := .sts }
    let ws := [tRemoteW .ldsp, tRemoteW .lds]
    let s : State := { tCore with net := [tMsg (.access sts)], waitq := [(1, ws)] }
    let f : State := { s with full := [(1, ())] }
    let x : Delayed := { at_ := 0, id := 1, frame := 0, at_end := 0, accs := [{ tLoad with op := .fesetFull }], gap := false, dst := none }
    Arrives s (tMsg (.access sts)) ∧ accWaits sts.op (s.isFull 0 8) = false ∧ s.reduce 0 8 = 8 ∧ s.inGap 0 8 = false ∧
    feStalls f .lds tAt8 8 = false ∧ f.isFull 0 8 = true ∧ feStalls s .sts tAt8 8 = false ∧ s.isFull 0 8 = false ∧
    x.accs = [{ tLoad with op := .fesetFull }] ∧ x.at_end < 2 ^ 14 := by
  unfold Arrives; decide +kernel

/-- The thread of frame 0 waits in place for a full word. -/
theorem test_wit_PortEngineAccess_thread :
    let w : Waiter := ⟨.thread 0, .lds, 8, 8, 0, 4⟩
    let s : State :=
      { tBase with full := [(1, ())], waitq := [(1, [w])], frames := [(0, { state := .running, waits := [0] })]
                   slots := [(0, { state := .inPlace, frame := some 0 })] }
    s.waitq.getD (wordKey 0 8) [] = [w] ∧ accWaits w.op (s.isFull 0 8) = false ∧ (s.core 0).preempted = false ∧
    s.slotOf 0 = some 0 ∧ (s.slot 0).state = .inPlace ∧ (s.frame 0).waits = [0] := by decide +kernel

/-- A load for a core of another epoch, the first of a period and a later one. -/
theorem test_wit_PortEngineAccess_refused :
    let s : State := { tArrival with cores := [(0, { pword := 0x8418, tag := 0, epoch := 2 })] }
    let u : State := { s with hub := { refusals := [(0, (4, true))] } }
    Arrives s (tMsg (.access tLoad)) ∧ s.endOf 0 0 1 = false ∧ (s.hub.refusals.getD 0 (0, false)).2 = false ∧
    Arrives u (tMsg (.access tLoad)) ∧ (u.hub.refusals.getD 0 (0, false)).2 = true := by
  unfold Arrives; decide +kernel

/-- A marker at the end of a bundle, a thread at one at its turn, and the return of one of two results and of the last. -/
theorem test_wit_AccessResponse_marker :
    let o : Outst := { id := 3, kind := .rx, cls := .load, dst := some 5 }
    let m (os : List Outst) : State :=
      { tResponse with slots := [(0, { state := .marker, frame := some 0 })], frames := [(0, { state := .running, outs := os })] }
    let b : State := { tResponse with cur := { tResponse.cur with sw := true } }
    let i : State := { m [o] with tape := [.issue], thisCycle := [0] }
    b.cur.stopped = false ∧ b.cur.sw = true ∧ (b.slot b.cur.sk).state = .run ∧ (b.slot b.cur.sk).frame = some b.cur.fk ∧
    i.hub.recovery = false ∧ i.tape = .issue :: [] ∧ i.thisCycle = 0 :: [] ∧ i.detDue true = none ∧ (i.slot 0).state = .marker ∧
    Arrives (m [o]) (tMsg (.response 3 0 9 true false false false false tLoad)) ∧ (m [o]).slotOf 0 = some 0 ∧ o.need = 1 ∧
    ((m [o]).frame 0).outs = [o] ∧ ((m [o, { o with id := 4 }]).frame 0).outs = [o, { o with id := 4 }] ∧ (m [o]).endOf 0 0 1 = true := by
  unfold Arrives; decide +kernel

theorem test_wit_ControlAccess_levels :
    (∀ y ∈ regMap, y.1 = 0x070 → 1 ≤ if tCore.cur.pre.priv = 0 then y.2.1 else y.2.2.1) ∧ tSup.cur.pre.priv = 1 ∧
    (∀ y ∈ regMap, y.1 = 0x006 → 1 ≤ if tSup.cur.pre.priv = 0 then y.2.1 else y.2.2.1) ∧
    (∀ y ∈ regMap, y.1 = 0x030 → 1 ≤ if tGeyser.cur.pre.priv = 0 then y.2.1 else y.2.2.1) := by decide +kernel

theorem test_wit_VectorFloat_advance :
    tCore.cur.slot.rctr ≠ -1 ∧
    ({ tCore with cur := { tCore.cur with slot := { tCore.cur.slot with rctr := -1 } } } : State).cur.slot.rctr = -1 := by decide +kernel

/-- Finite, infinite and NaN operands, an integer, powers of two, and halves. -/
theorem test_wit_FloatSpecials_finite :
    f32Fin 0x3F800000 = true ∧ f32Fin 0x80000000 = true ∧ f32Inf 0xFF800000 = true ∧ f32Mag 0x3F800000 ≠ 0 ∧ f32Mag 0x80000000 = 0 ∧
    (f32Fin 0x00000001 = true ∧ f32Mag 0x00000001 = 2 ^ 0 ∧ f32Neg 0x00000001 = false) ∧
    f32Int 0xC0400000 = (-3) * 2 ^ 149 ∧ (0 : Int) ≤ 5 ∧ (-5 : Int) < 0 ∧ f32Mag 0x3F000000 % 2 ^ 149 = 2 ^ 148 ∧
    f32Mag 0x3F000000 % 2 ^ 150 = 2 ^ 148 ∧ f32Mag 0x3FC00000 % 2 ^ 150 = 3 * 2 ^ 148 ∧ f32Mag 0x3F800000 % 2 ^ 150 = 2 ^ 149 ∧
    f32Mag 0x40000000 % 2 ^ 150 = 0 ∧ f32Mag 0x40000000 % 2 ^ 149 = 0 := by decide +kernel

/-- The rounded quotient 1 / 3 lies between 2^−2 and 2^−1; 5 in units of 1 has its leading power 2^2. -/
theorem test_wit_FloatSpecials_rounded :
    2 ^ 0 * 3 ≤ 1 * 2 ^ 2 ∧ 1 * 2 ^ 2 < 2 ^ (0 + 1) * 3 ∧ 2 ^ 2 * 1 ≤ 5 * 2 ^ 0 ∧ 5 * 2 ^ 0 < 2 ^ (2 + 1) * 1 ∧ (5 : Int) ≠ 0 := by decide

/-- Codes 0 to 3 with the values 1, 2, 4 and 8: an operand inside the range, below it and above it, a NaN, a marked block. -/
theorem test_wit_VectorCodes_encode :
    let c : Core := { dtab := [(0, 0x3F800000), (1, 0x40000000), (2, 0x40800000), (3, 0x41000000)]
                      order := [(0, 0), (1, 1), (2, 2), (3, 3)] }
    let d : Desc := ⟨2, false, false, false, 0, 0, 0, 3, 4⟩
    let v (p : Nat) : Int := f32Int (c.dtabAt (c.orderAt p).toNat &&& 0xFFFFE000) * 2 ^ 128
    parseDesc 0x300000001 0 = some d ∧ d.elo < d.ehi ∧
    (∀ p : Nat, p < 4 → f32Fin (c.dtabAt (c.orderAt p).toNat &&& 0xFFFFE000) = true) ∧ (∀ p : Nat, p < 3 → v p < v (p + 1)) ∧
    v 0 ≤ f32Int 0x40400000 * 2 ^ 128 ∧ f32Int 0x40400000 * 2 ^ 128 ≤ v 3 ∧ f32Int 0 * 2 ^ 128 < v 0 ∧ v 3 < f32Int 0x42000000 * 2 ^ 128 ∧
    f32NaN 0x7FC00000 = true := by decide +kernel

/-- A scan state with −1 and 3 and its header, a lane of it that is in range, and headers of the three classes. -/
theorem test_wit_VectorPlanes_lanes :
    let v : VWord := (0 : BitVec 64) ++ (0xBF800000 : BitVec 32) ++ (0x40400000 : BitVec 32)
    f32Fin (lane32 v 0) = true ∧ f32Fin (lane32 v 1) = true ∧ f32Int (lane32 v 1) ≤ f32Int (lane32 v 0) ∧
    2 ^ 150 ≤ Nat.max (f32Mag (lane32 v 0)) (f32Mag (lane32 v 1)) ∧ Nat.max (f32Mag (lane32 v 0)) (f32Mag (lane32 v 1)) < 2 ^ 151 ∧
    hdrOk (planeFix v 8) = true ∧ hCls (planeFix v 8) = 1 ∧ hdrOk 0x400100 = true ∧ 0x400100 / 2 ^ 21 % 8 = 2 ∧
    f32Mag (lane32 (0 : VWord) 0) = 0 ∧ f32Inf 0x7F800000 = true ∧ hdrOk 0x1320880 = true ∧ (0x1320880 : Nat).testBit 24 = true := by
  decide +kernel

/-! ## Witnesses: tasks, futures and messages -/

/-- A partition with quotas, and operands: g1 an entry address, g2 its own cluster, g3 a pointer of the own pool. -/
def tTask : State :=
  { tWith { g := [(1, 0x1000), (2, 0xF300000000000000), (3, 0xF000000000000008), (4, 0x0100000000000000)] } with
    parts := [(0, { assigned := true, epoch := 1, quotaEntries := 4, quotaSlots := 4 })] }

def tSpawner : State := tTask

/-- Device memory with a page table that maps the first 512 MiB onto themselves, cacheable and writable. -/
def tMap : State :=
  { tTask with
    hub := { owners := [(0, [⟨0, 0, 0xFFFF, 0⟩])] }
    dev := [(0x20000, 1), (0x20002, 4), (0x40000, 0x77)]
    parts := [(0, { assigned := true, epoch := 1, quotaEntries := 4, quotaSlots := 4, root := 0x20000 })] }

theorem test_wit_Spawning :
    tTask.cur.fk < 2 ^ 20 ∧ tTask.pg 4 ≠ 0 ∧ (tTask.pg 4).toNat / 2 ^ 56 ≠ 0xF3 ∧ (tTask.pg 2).toNat / 2 ^ 56 = 0xF3 ∧
    (tTask.pg 2).toNat / 2 ^ 46 % 2 ^ 10 = tTask.module.toNat ∧ tTask.spawnReach (0, 0) = true ∧
    tTask.cf.reply = none ∧ 6 ∉ tTask.cf.waits ∧ tTask.accIds tTask.cur.fk = [] ∧ targetOk (tTask.pg 1) = true ∧
    tTask.clusterOf 0 0 1 = true ∧ tCore.spawnReach (0, 5) = false ∧ tTask.bad = [] ∧ tTask.askHeld = false ∧ tTask.fenceHolds .atomic = false ∧
    (({ tTask with parts := [(0, { logical := [0x25] })] } : State).part 0).logical[0]? = some 0x25 ∧
    (tWith { reply := some (.value 1 true) }).cf.reply = some (.value 1 true) ∧
    (tWith { reply := some (.trap 9 0) }).cf.reply = some (.trap 9 0) ∧ (tTask.pg 5).toNat = 0 := by decide +kernel

theorem test_wit_Spawning_plan :
    tTask.plan 0 0 0 1 true true = .ok [(0, false)] ∧ tTask.plan 0 0 0 1 false true = .ok [(0, false)] ∧
    tCore.plan 0 0 0 1 true true = .error 9 := by
  refine ⟨?_, ?_, ?_⟩ <;> decide +kernel

/-- A tile record array of one record for one task, one of no record, and one of more than 4,096. -/
def tRecords (m : Mem) : State := { tTask with pool := m }

theorem test_wit_Spawning_records :
    ((tRecords [(0, 1), (16, 32)]).ownDword 0 0).toNat = 1 ∧ recordCount (tRecords [(0, 1), (16, 32)]) 0 0 0 = 1 ∧
    ((tRecords []).ownDword 0 0).toNat = 0 ∧ 4096 < ((tRecords [(1, 0x11)]).ownDword 0 0).toNat := by decide +kernel

def tLaunch (count live : Nat) : Launch := { vf := 1, lseq := 0, dwords := [], count := count, next := 4, live := live }

def tGrow (l : Launch) : State :=
  { tWith { g := [(1, 2), (2, 0x100000000)] } with parts := [(0, { assigned := true, epoch := 1, launches := [l] })] }

theorem test_wit_Growing :
    2 ^ 32 ≤ ((tGrow (tLaunch 4 1)).pg 2).toNat ∧ ((tGrow (tLaunch 4 1)).pg 1).toNat < 2 ^ 32 ∧
    (tGrow (tLaunch 4 1)).launch 0 0 = some (tLaunch 4 1) ∧ (tLaunch 4 1).live ≠ 0 ∧
    (tGrow (tLaunch 4 0)).launch 0 0 = some (tLaunch 4 0) ∧ (tLaunch 4 0).next = (tLaunch 4 0).count ∧
    (tGrow (tLaunch 0xFFFFFFFF 1)).launch 0 0 = some (tLaunch 0xFFFFFFFF 1) ∧ 2 ^ 32 ≤ 0xFFFFFFFF + 2 := by
  decide +kernel

def tHandle (r : Option Reply) : State := tWith { g := [(1, 0x100000), (2, 0x0F0000)], reply := r }

theorem test_wit_FutureOperations :
    handleOk ((tHandle none).pg 1) = true ∧ handleModule ((tHandle none).pg 1) = (tHandle none).module.toNat ∧
    (tHandle none).cf.reply = none ∧ 6 ∉ (tHandle none).cf.waits ∧ (tHandle none).hasRoute 0 = true ∧
    (tHandle (some (.value 3 true))).cf.outs = [] ∧ (tHandle (some (.trap 7 0))).cf.reply = some (.trap 7 0) ∧
    (tHandle (some .parked)).cf.reply = some .parked ∧ (tHandle (some .parked)).onGeyser = false ∧
    (tHandle (some .parked)).cf.cancelDue = false ∧ (tHandle (some .parked)).slotOf 0 = some 0 ∧
    handleOk ((tHandle none).pg 2) = false := by decide +kernel

/-- A message on the future of entry 0 of cluster 0, generation 16, in a state. -/
def tFuture (op : FutOp) (f : Future) : State := { tCore with net := [tMsg (.future op 0x100000 3)], futures := [(0, f)] }

theorem test_wit_FutureEntries (op : FutOp) (f : Future) :
    (tFuture op f).packet 7 = some (tMsg (.future op 0x100000 3)) ∧
    (tFuture op f).canArrive (tMsg (.future op 0x100000 3)) = true ∧ ((tFuture op f).core 0).preempted = false := by
  refine ⟨?_, ?_, rfl⟩ <;> rfl

theorem test_wit_FutureEntries_states :
    (tMsg (.future .cancel 0x100000 3)).epoch = ((tFuture .cancel {}).part 0).epoch ∧ (tMsg (.future .cancel 0x100000 3)).epoch ≠ 0 ∧
    handleDist { gen := 16, state := .pending } 0x100000 = 0 ∧ handleDist { gen := 16 } 0x100000 = 0 ∧
    handleDist { gen := 32 } 0x100000 = 16 ∧ ({} : Future).gen = 0xF ∧ handleKey 0x100000 = 0 ∧
    (let e : TaskEnd := ⟨3, 0, 0, 1, 0, 0x100000, 0xF300000000000008, none, 0, .resolved⟩
     let s : State := { tCore with hub := { ends := [e] } }
     s.hub.ends.find? (fun e => e.id == 3) = some e ∧ e.join ≠ 0 ∧ e.join.toNat / 2 ^ 46 % 2 ^ 10 = s.module.toNat) := by decide +kernel

/-- A task with a pending future, a cancel request or a message in its mailbox. -/
def tEnding (c : Bool) (mail : List MailEntry) : State :=
  { tWith { fut := 0x100000, cancelReq := c } with
    futures := [(0, { gen := 16, state := .pending })], cores := [(0, { tag := 0, epoch := 1, mail := mail })] }

theorem test_wit_TaskEnds :
    (tEnding true []).slotOf 0 = some 0 ∧ (tEnding true []).cf.outs = [] ∧ (tEnding true []).cf.cancelReq = true ∧
    (tEnding false []).cf.cancelReq = false ∧ (tEnding false []).mailCount 0 = 0 ∧
    (tEnding false [⟨0, [1, 2, 3, 4]⟩]).mailCount 0 ≠ 0 ∧ tResponse.cf.outs ≠ [] := by decide +kernel

theorem test_wit_TaskEnds_slot (j : Nat) (h : ((tEnding true []).slot j).frame = some (tEnding true []).cur.fk) : j = 0 := by
  cases j with
  | zero => rfl
  | succ n => exact absurd h (by simp [State.slot, NMap.getD, NMap.get?, tEnding, tWith, tBase])

theorem test_wit_JoinsAndMessages :
    coreDecode tTask tTask.curCore .gen (tTask.pg 4) 8 = .error { cause := 0x03, eval := tTask.pg 4 } ∧
    coreDecode tTask tTask.curCore .gen (tTask.pg 3) 8 = .ok ⟨0, 0, 0, 8, false⟩ := ⟨rfl, rfl⟩

theorem test_wit_JoinsAndMessages_addresses :
    (tTask.pg 3).toNat % 8 = 0 ∧ (tTask.pg 1).toNat < 2 ^ 32 ∧ 2 ^ 32 ≤ (tTask.pg 2).toNat ∧
    taskAddress (tTask.pg 4) = none ∧ taskAddress (tTask.pg 2) = some 0 ∧
    (tTask.pg 2).toNat / 2 ^ 46 % 2 ^ 10 = tTask.module.toNat := by decide +kernel

/-- A decrement of the record at own-pool offset 8 of core 0. -/
def tJoin : State := { tCore with net := [tMsg (.join 0xF300000000000008 3 none)], pool := [(8, 1)] }

theorem test_wit_JoinsAndMessages_join :
    Arrives tJoin (tMsg (.join 0xF300000000000008 3 none)) ∧ tJoin.coreOf 0 0 1 = true ∧
    scratchByte tJoin 0 0xF300000000000008 (scratchOff 0xF300000000000008) = some (0, 8) ∧ tJoin.inGap 0 8 = false ∧
    tJoin.pool.wf = true := by
  unfold Arrives; decide +kernel

def tMail (n : Nat) (st : TaskState) : State :=
  { tCore with
    net := [tMsg (.send 0 [1, 2, 3, 4] 5)], frames := [(0, { state := st })]
    cores := [(0, { tag := 0, epoch := 1, mail := List.replicate n ⟨0, [1, 2, 3, 4]⟩ })] }

theorem test_wit_JoinsAndMessages_send :
    Arrives (tMail 0 .waitm) (tMsg (.send 0 [1, 2, 3, 4] 5)) ∧ (tMail 0 .waitm).endOf 0 0 1 = true ∧
    (tMail 0 .waitm).canReceive 0 = true ∧ (tMail 31 .waitm).mailFull 0 = false ∧
    ((tMail 0 .waitm).frame 0).waitMail = none ∧ (tMail 32 .running).mailFull 0 = true ∧
    (tMail 0 .free).canReceive 0 = false := by
  unfold Arrives; decide +kernel

/-- A spawn record at offset 0 of core 0's pool arrives at the Lamplighter of cluster 0. -/
def tSpawnMsg : Packet := { tMsg (.spawn 0 0 ⟨0, 0, none⟩ 3 false) with dst := 2097152 }

theorem test_wit_JoinsAndMessages_steps_record :
    let s : State := { tTask with net := [tSpawnMsg] }
    s.clusterOf 0 0 1 = true ∧ s.bad = [] ∧ s.packet 7 = some tSpawnMsg ∧ s.canArrive tSpawnMsg = true ∧ 2 ^ 21 ≤ tSpawnMsg.dst ∧ tSpawnMsg.sender < 2 ^ 20 ∧
    s.plan 0 0 0 1 true true = .ok [(0, false)] ∧ targetOk (s.ownDword 0 48) = true ∧
    (s.ownDword 0 56).toNat / 2 ^ 48 = 0 ∧ tileBad (s.poolS 0) (s.ownDword 0 64, s.ownDword 0 72) = false := by
  decide +kernel

def tReplyMsg (b : Body) : State := { tWith { outs := [{ id := 3, kind := .other, cls := .other, dst := some 5, pd := 2 }] } with
  net := [tMsg b] }

def tAnswer : Packet := tMsg (.futureReply 0 3 (.value 9 true) true false)
def tWake : Packet := tMsg (.wake 0 4 (.value 9 true))

/-- An answer to result 3, one to the operation 4 that waits, and one that nothing awaits. -/
theorem test_wit_JoinsAndMessages_steps_reply :
    let s : State := { tReplyMsg tWake.body with frames := [(0, { state := .touch, asked := 4 })] }
    let u : State := { s with net := [tAnswer] }
    let v : State := { u with frames := [(0, { state := .touch, asked := 3 })] }
    Arrives (tReplyMsg tAnswer.body) tAnswer ∧ (tReplyMsg tAnswer.body).endOf 0 0 1 = true ∧
    ((tReplyMsg tAnswer.body).frame 0).outs.find? (fun y => y.id == 3) =
      some { id := 3, kind := .other, cls := .other, dst := some 5, pd := 2 } ∧
    Arrives v tAnswer ∧ (v.frame 0).outs = [] ∧ (v.frame 0).asked = 3 ∧ Arrives u tAnswer ∧ (u.frame 0).outs = [] ∧
    (u.frame 0).asked ≠ 3 ∧ u.hub.ends = [] ∧ Arrives s tWake ∧ s.endOf 0 0 1 = true ∧ (s.frame 0).asked = 4 ∧
    (s.frame 0).asked ≠ 3 := by
  unfold Arrives; decide +kernel

/-- The spill write of entry 0 for an allocation without a task, and the read of a spilled record. -/
def tSpill (w : Option AllocFor) : Spill :=
  { id := 4, cluster := 0, entries := [0], work := w, handle := 0x100000, consume := false, asker := ⟨0, 0, 3⟩, tag := 0 }

def tSpilling (w : Option AllocFor) : State :=
  { tMap with hub := { tMap.hub with spills := [tSpill w] }, futures := [(0, { gen := 16, state := .resolved, spilling := true })] }

theorem test_wit_JoinsAndMessages_steps_spill :
    let w : Option AllocFor := some (.spawnNt ⟨0, 0, 3⟩ false)
    let place (s : State) := (s.spillPlace 0 (handleKey 0x100000) (handleGen 0x100000) false).2
    (tSpilling w).hub.spills.find? (fun x => x.id == 4) = some (tSpill w) ∧ (tSpill w).failed = false ∧
    (match (spillPlaces 0 (tSpilling w) [0]).2 with | .ok [(0, x)] => !x.host | _ => false) = true ∧
    (tSpilling none).hub.spills.find? (fun x => x.id == 4) = some (tSpill none) ∧
    (match place (tSpilling none) with | .at_ x => !x.host | _ => false) = true ∧
    ((tSpilling none).spillPlace 0 (handleKey 0x100000) (handleGen 0x100000) false).1.bad = [] ∧
    (match place { tSpilling none with hub := { spills := [tSpill none] } } with | .fail _ => true | _ => false) = true := by
  refine ⟨?_, ?_, ?_, ?_, ?_, ?_, ?_⟩ <;> decide +kernel

/-! ## Witnesses: translation, the X group, copies -/

theorem test_wit_Translation :
    tMap.insidePart 0 (tMap.part 0).root = true ∧ tCore.insidePart 0 0 = false ∧ tMap.insidePart 0 (2 ^ 42 - 1) = false ∧
    tMap.dev.readLE 0x20000 8 / 2 ^ 7 % 2 ^ 9 = 0 ∧ tMap.dev.readLE 0x20000 8 / 2 ^ 52 = 0 ∧
    (tMap.dev.readLE 0x20000 8).testBit 0 = true ∧ tMap.dev.wf = true ∧ tMap.dev.readLE 0x40000 8 = 0x77 ∧
    (0x77 : Nat).testBit 1 = true ∧ (0x77 : Nat).testBit 3 = false ∧ (0x75 : Nat).testBit 1 = false ∧
    tMap.bad = [] ∧ ({ tMap with bad := [(2 ^ 30 + 0x20000 / 64, .lasting)] } : State).deviceError 0 0x20000 8 =
      some (2 ^ 30 + 0x20000 / 64, true) ∧
    0x10077 / 2 ^ 16 % 2 ^ 36 % 2 ^ 13 ≠ 0 ∧ 2 ^ 42 ≤ 0x4000000000077 / 2 ^ 16 % 2 ^ 36 * 2 ^ 16 := by decide +kernel

/-- Level-0 entries that end a walk: a reserved bit, one that is not valid, and a leaf. -/
def tRoot (b0 b1 : Byte) : State := { tMap with dev := [(0x20000, b0), (0x20001, b1)] }

theorem test_wit_Translation_ends :
    (tRoot 1 1).dev.readLE 0x20000 8 / 2 ^ 7 % 2 ^ 9 ≠ 0 ∧ ((tRoot 2 0).dev.readLE 0x20000 8).testBit 0 = false ∧
    ((tRoot 5 0).dev.readLE 0x20000 8).testBit 2 = true := by decide +kernel

def tHit : GEntry := { id := 1, tag := 0, va := 0, block := true, frame := 0, wr := true, host := false, c := true, d := true, inUse := 0, invalid := false }

theorem test_wit_Translation_hit :
    let s : State := { tMap with geysers := [(0, { gtlb := [tHit] })] }
    (s.geyser 0).gtlb.find? (fun e => gtlbMatch e 0 0x100 && !e.invalid && (!true || (e.wr && e.d))) = some tHit ∧
    s.insidePart 0 0x100 = true ∧ ({ s with hub := {} } : State).insidePart 0 0x100 = false ∧
    gtlbMatch tHit 0 0x1FFFFFFF = true ∧ gtlbMatch tHit 0 0x20000000 = false := by decide +kernel

/-- Thread 1 of Geyser 0 with the map of tMap, a host block at VA 2^29, and operands g1 to g7. -/
def tX (g : List (Nat × Word)) (st : BitVec 8) : State :=
  let f : Frame := { state := .running, g := g, status := st }
  { tGeyser with
    hub := tMap.hub, parts := tMap.parts, dev := [(0x20000, 1), (0x20002, 4), (0x40000, 0x77), (0x40008, 0x7F)]
    frames := [(1048577, f)], cur := { tGeyser.cur with pre := f } }

def tXOps : State := tX [(1, 0x100), (2, 0x20000100), (3, 0x40000000), (4, 0x0008000800010127), (5, 0x0004), (6, 0xFFFFFFFF0001), (7, 0xF2 <<< 56)] 0

def isAt (x : XAddr) (host : Bool) : Bool := match x with | .at_ p => p.host == host | _ => false
def isTrap (x : XAddr) : Bool := match x with | .trap _ => true | _ => false

theorem test_wit_ExternalOperations :
    2 ^ 20 ≤ tXOps.cur.fk ∧ tXOps.cur.fk < 2 ^ 20 + 4096 ∧ scopeTrap tXOps (ordScope ⟨false, false, 0⟩) = none ∧
    (tXOps.pg 1).toNat / 2 ^ 56 = 0 ∧ (tXOps.pg 7).toNat / 2 ^ 56 = 0xF2 ∧
    tXOps.accStalls .x .load [(2 ^ 60 + 0x100, 8)] true = false ∧ tXOps.accStalls .x .store [(2 ^ 60 + 0x100, 8)] true = false ∧
    (tXOps.xCharge 0 8).2 = true ∧ (tXOps.xCharge 0 8).2 = true ∧
    isAt ((tXOps.xCharge 0 8).1.xTranslate 0x100 false).2 false = true ∧ isAt ((tXOps.xCharge 0 8).1.xTranslate 0x100 true).2 false = true ∧
    isTrap ((tXOps.xCharge 0 8).1.xTranslate 0x40000000 false).2 = true ∧ tXOps.bad = [] ∧ tXOps.host.wf = true ∧ tXOps.accIds tXOps.cur.fk = [] := by
  decide +kernel

/-- Tiles: one row of 8 bytes, no rows, a row that is no whole number of words, and more than 65,536 bytes. -/
theorem test_wit_ExternalOperations_tiles :
    (tXOps.pg 4).toNat / 2 ^ 16 % 2 ^ 16 * ((tXOps.pg 4).toNat / 2 ^ 32 % 2 ^ 16) = 8 ∧ (tXOps.pg 4).toNat / 2 ^ 48 % 8 = 0 ∧
    (tXOps.pg 5).toNat / 2 ^ 16 % 2 ^ 16 = 0 ∧ (tXOps.pg 6).toNat / 2 ^ 32 % 2 ^ 16 % 8 ≠ 0 ∧
    tXOps.accStalls .xpush .load [] false = false ∧
    (({ tXOps with
        parts := [(0, { assigned := true, epoch := 1, root := 0x20000, budget0 := 64 })]
        geysers := [(0, { tag := 0, epoch := 1, threads := [(1, { state := 1 })], bytes := [(0, 64)] })] } : State).xCharge 0 8).2 = false ∧
    65536 < 0xFFFF * 0xFFFF := by decide +kernel

def tInval : Inval :=
  { id := 9, tag := 0, va := 0, len := 1, whole := false, channels := [0], frame := none, out := 0, ats := none }

theorem test_wit_Invalidations :
    (tX [] 1).cur.pre.priv ≠ 0 ∧ tXOps.cur.pre.priv = 0 ∧
    ({ tXOps with hub := { tXOps.hub with invals := [tInval] } } : State).hub.invals.find? (fun i => i.id == 9) = some tInval ∧
    tInval.channels.contains 0 = true ∧ tInval.covers tHit = true ∧ tXOps.invalWaits tInval = false ∧
    tXOps.atsBusy tInval = false ∧ (0x0100000000000000 : Nat) / 2 ^ 56 = 1 ∧ 1 < (tXOps.pg 7).toNat / 2 ^ 56 := by
  decide +kernel

/-- A copy of one row of 8 bytes from device memory to the own pool: nothing of it fails a check; and one between two
external addresses. -/
def tShadow (dst : Word) (n : Nat) : State :=
  { tWith { copies := List.replicate n 1 } with
    cur := { tCore.cur with slot := { state := .run, frame := some 0, cpsrc := 0x100, cpdst := dst, cpshape := 0x00080001 } } }

theorem test_wit_CopyIssue :
    (copyChecks (tShadow 0xF000000000000000 0)).find? (·.1) = none ∧
    (copyChecks (tShadow 0x200 0)).find? (·.1) = some (true, 0x04, 0x200) ∧
    scopeTrap (tShadow 0 0) 0 = none ∧ (tShadow 0 0).scopeLimited 0 = false ∧
    (tShadow 0xF000000000000000 7).cf.copies.length < 8 ∧ 8 ≤ (tShadow 0xF000000000000000 8).cf.copies.length ∧
    (copyChecks (tShadow 0xF000000000000000 8)).find? (·.1) = none := by decide +kernel

/-- The copy in progress. -/
def tCopy (shape : Word) (rows : Option (List (Nat × Nat))) : Copy :=
  { tid := 1, purpose := .thread, core := 0, frame := 0, tag := 0, epoch := 1, src := 0x100, dst := 0xF000000000000000,
    shape := shape, sstr := 8, dstr := 8, mask := 0xF000000000000100, flags := 0, after := [], channel := 0, rows := rows }

def tCopying (c : Copy) : State := { tMap with copies := [(5, c)] }

theorem test_wit_CopyProgress_command :
    (tCopying (tCopy 0x00080001 none)).copies.get? 5 = some (tCopy 0x00080001 none) ∧ shRowb (tCopy 0x00080001 none).shape ≠ 0 ∧
    (let c : Copy := tCopy 0x100080008 none
     let s : State := { tCopying c with bad := [(0x100 / 8, .lasting)] }
     s.copies.get? 5 = some c ∧ poolError s c.core c.tag c.epoch c.mask (scratchOff c.mask) 1 = some (0x100 / 8, true)) ∧
    shType 0x100080008 = 1 ∧ shRowb 0x0001 = 0 ∧ ({ tMap with unperf := [3] } : State).unperf = [3] := by decide +kernel

theorem test_wit_CopyProgress_admission :
    let s := tCopying (tCopy 0x00080001 (some [(0, 0)]))
    (s.part 0).budget0.toNat % 2 ^ 32 = 0 ∧ ptrTag 0x100 = 0 ∧
    (match (s.translate 0 0 0x100 false).2 with | .ok x => !x.host | .error _ => false) = true ∧
    (match (s.translate 0 0 0x40000000 false).2 with | .ok _ => false | .error _ => true) = true ∧
    (s.part 0).pageReq = false := by decide +kernel

def tBurst : Burst :=
  { id := 6, row := 0, j := 0, off := 0, len := 8, host := false, addr := 0x100, channel := 0, entry := 1, ats := 0, c := true, va := 0x100 }
def tMoving (src dst : Word) : Copy := { tCopy 0x00080001 (some []) with src := src, dst := dst, bursts := [tBurst] }

theorem test_wit_CopyProgress_burst :
    (tCopying (tMoving 0x100 0xF000000000000000)).memWf = true ∧ isExternal 0x100 = true ∧
    isExternal 0xF000000000000000 = false ∧ ptrTag 0xF000000000000000 = 0xF0 ∧
    (tCopying (tMoving 0x100 0xF000000000000000)).burstError (tMoving 0x100 0xF000000000000000) tBurst = none ∧
    (tCopying (tMoving 0xF000000000000000 0x100)).burstError (tMoving 0xF000000000000000 0x100) tBurst = none ∧
    (let c := tMoving 0x100 0xF000000000000000
     let s (l : Bool) : State := { tCopying c with bad := [(2 ^ 30 + 4, if l then .lasting else .transient)] }
     (s true).burstError c tBurst = some (2 ^ 30 + 4, true) ∧ (s false).burstError c tBurst = some (2 ^ 30 + 4, false)) ∧
    (tCopying (tMoving 0x100 0xF000000000000000)).coreOf 0 0 1 = true ∧ shType 0x00080001 = 0 := by decide +kernel

/-- The end of copies: a gather, a copy without and with a failing status, a full mailbox, a held record. -/
def tEnd (shape : Word) (st : Option (BitVec 8)) (n : Nat) (held : List Nat) : State :=
  { tCopying { tCopy shape (some []) with ended := true, status := st } with
    cores := [(0, { pword := 0x8418, tag := 0, epoch := 1, mail := List.replicate n ⟨0, [0, 0, 0, 0]⟩, heldRecords := held })] }

theorem test_wit_CopyProgress_end :
    (tEnd 0x100080001 none 0 []).coreOf 0 0 1 = true ∧ (tEnd 0x100080001 none 0 []).inGap 0 0 = false ∧
    (tEnd 0x100080001 none 0 []).memWf = true ∧ (tEnd 0x100080001 none 0 []).waitq.getD (wordKey 0 0) [] = [] ∧
    flTarget (tCopy 0 none).flags = 0 ∧ ((tEnd 0x00080001 (some 1) 31 []).core 0).mail.length < 32 ∧
    ((tEnd 0x00080001 none 31 []).core 0).heldRecords = [] ∧ ((tEnd 0x00080001 none 0 []).frame 0).waitMail = none ∧
    ((tEnd 0x00080001 none 0 []).frame 0).state = .running ∧ 32 ≤ ((tEnd 0x00080001 none 32 []).core 0).mail.length ∧
    ((tEnd 0x00080001 none 32 []).core 0).preempted = false ∧ ((tEnd 0x00080001 none 0 [5]).core 0).heldRecords = 5 :: [] ∧
    (tCopy 0 none).core = frameCore (tCopy 0 none).frame := by decide +kernel

theorem test_wit_CopyProgress_prefetch :
    let x : PStream := { tag := 0, lo := 0, hi := 4096, down := false, ahead := 4096 }
    let s : State := { tMap with geysers := [(0, { streams := [x, { x with ahead := 0 }] })] }
    (s.geyser 0).streams[0]? = some x ∧ 4096 ≤ x.ahead ∧ (s.geyser 0).streams[1]? = some { x with ahead := 0 } := by
  decide +kernel

/-! ## Witnesses: multicast, interrupts, trap messages, pages, rings -/

def tGroups (n : Nat) (g : Word) : State :=
  { tWith { g := [(1, g), (2, 0x1FFF8), (3, 4)] } with
    cores := [(0, { pword := 0x8418, epoch := 1, groups := List.replicate n ⟨0, 0x127, 0, true, 0⟩ })] }

theorem test_wit_Subscriptions :
    2 ^ 16 ≤ ((tGroups 0 0x10000).pg 1).toNat ∧ ((tGroups 0 0xFFFF).pg 1).toNat < 2 ^ 16 ∧
    ((tGroups 0 0).pg 3).toNat % 8 ≠ 0 ∧ ((tGroups 0 0).pg 2).toNat % 8 = 0 ∧
    (∃ x ∈ ((tGroups 1 0x127).core 0).groups, x.mtag = ((tGroups 1 0x127).pg 1).setWidth 16) ∧
    (∀ x ∈ ((tGroups 16 0x128).core 0).groups, x.mtag ≠ ((tGroups 16 0x128).pg 1).setWidth 16) ∧
    16 ≤ ((tGroups 16 0x128).core 0).groups.length ∧ ((tGroups 15 0x128).core 0).groups.length < 16 := by decide +kernel

def tJoinReq : JoinReq := { id := 4, core := 0, frame := 0, tag := 0, mtag := 0x127, out := 3, at_ := 0, port := 0, path := [] }
def tLeaveReq : LeaveReq := { id := 4, core := 0, frame := 0, out := 3, begun := [], tag := 0, mtag := 0x127, at_ := 0, port := 0 }

/-- A join at a router with n groups, and a leave there, with result 3 for g5. -/
def tJoining (n : Nat) : State :=
  { tResponse with
    hub := { joins := [tJoinReq], leaves := [tLeaveReq] }, routers := [(0, ⟨List.replicate n ⟨1, 0x126, [1]⟩⟩)] }

theorem test_wit_Subscriptions_travel :
    (tJoining 0).hub.joins.find? (fun x => x.id == 4) = some tJoinReq ∧
    (tJoining 0).hub.leaves.find? (fun x => x.id == 4) = some tLeaveReq ∧ tLeaveReq.at_ ≠ 2048 ∧
    (¬∃ e ∈ ((tJoining 64).router 0).groups, e.tag = 0 ∧ e.mtag = 0x127) ∧ 64 ≤ ((tJoining 64).router 0).groups.length ∧
    ((tJoining 63).router 0).groups.length < 64 ∧ tJoinReq.mtag.toNat % 2 ^ 10 ≠ tJoinReq.at_ ∧
    ((tJoining 0).frame 0).outs.find? (fun x => x.id == 3) = some { id := 3, kind := .rx, cls := .load, dst := some 5 } := by
  decide +kernel

def tPush : Copy := { tCopy 0x00080001 (some []) with purpose := .xpush 3, flags := 0x12700, data := List.replicate 8 1 }
def tTile : Tile := { id := 5, tag := 0, epoch := 1, mtag := 0x127, rows := 1, rowb := 8, dstr := 8, data := List.replicate 8 1, routers := [], cores := [(0, 0x7FF8)] }

theorem test_wit_Deliveries_push :
    (tCopying tPush).copies.get? 5 = some tPush ∧ tPush.entered = false ∧ (tCopying tPush).pushWaits 5 tPush = false ∧
    flMtag tPush.flags = 0x127 := by decide +kernel

theorem test_wit_Deliveries_tile :
    let s : State := { tCore with hub := { tiles := [tTile] } }
    let r : Tile := { tTile with routers := [39], cores := [] }
    let s2 : State := { tCore with hub := { tiles := [r] } }
    s.hub.tiles.find? (fun x => x.id == 5) = some tTile ∧ tTile.data.length = tTile.rowb ∧ s.hub.leaves = [] ∧
    s.coreOf 0 0 1 = true ∧ s.memWf = true ∧ s.waitq = [] ∧ s.inGap 0 0x7FF8 = false ∧
    (∀ x ∈ s.hub.tiles, x.id ≠ 5 → x.tag ≠ 0 ∨ x.mtag ≠ 0x127) ∧
    s2.hub.tiles.find? (fun x => x.id == 5) = some r ∧ s2.tileWaits r = false := by decide +kernel

/-- A reduce of two members: the second contribution of one 8-byte word, with and without the communicator formed. -/
def tReduce (core : Nat) (rows : Nat) : Copy :=
  { tCopy (natWord (0x1400080000 + rows)) (some []) with
    core := core, frame := core * 64, src := 0xF000000000000000, dst := 0xF000000000000008, data := List.replicate 8 2 }

def tComm (st : BitVec 2) (rounds : List (List Nat)) (n2 : Nat) : State :=
  { tCore with
    cores := [(0, { pword := 0x8418, epoch := 1, lcid := 0 }), (1, { pword := 0x8418, epoch := 1, lcid := 1 })]
    copies := [(5, tReduce 0 1), (6, tReduce 1 n2)]
    hub := { comms := [(0, { part := 0, op := 0, members := [0, 1], state := st, rounds := rounds })] } }

theorem test_wit_Deliveries_reduce :
    (tComm 1 [] 1).copies.get? 5 = some (tReduce 0 1) ∧ ((tComm 1 [] 1).hub.comms.getD 0 {}).state = 1 ∧
    ((tComm 0 [] 1).hub.comms.getD 0 {}).state ≠ 1 ∧ ((tComm 1 [] 1).core 0).lcid ∈ ((tComm 1 [] 1).hub.comms.getD 0 {}).members ∧
    ((tComm 1 [[6]] 1).hub.comms.getD 0 {}).rounds = [[6]] ∧ (tComm 1 [[6]] 1).copies.get? 6 = some (tReduce 1 1) ∧
    (tReduce 1 1).shape = (tReduce 0 1).shape ∧ (tReduce 1 2).shape ≠ (tReduce 0 1).shape ∧
    shRows (tReduce 0 1).shape = 1 ∧ shRowb (tReduce 0 1).shape = 8 ∧ shElem (tReduce 0 1).shape = 1 ∧
    shType (tReduce 0 1).shape = 4 ∧ (tComm 1 [[6]] 1).coreOf 0 0 1 = true ∧ (tComm 1 [[6]] 1).coreOf 1 0 1 = true ∧
    (tComm 1 [[6]] 1).inGap 0 0 = false ∧ (tComm 1 [[6]] 1).inGap 1 8 = false ∧ (tComm 1 [[6]] 1).memWf = true := by
  decide +kernel

/-- A task with due events, a timer, a message, a cancel request and a watchdog, with and without a handler. -/
def tDue (svec : Word) (f : Frame) : State :=
  { tWith f with
    cores := [(0, { pword := 0x8418, epoch := 1, svec := svec, timer := 5, timerOwner := some 0, mail := [⟨0, [1, 2, 3, 4]⟩] })]
    time := 5 }

def tEvents : Frame :=
  { status := 0x90, due := [⟨0x12, 0, 0, 0, true⟩, ⟨0x0B, 3, 3, 0x10001, true⟩], cancelDue := true, atMarker := true, wdogLimit := 1, wdogCount := 1024 }

theorem test_wit_Interrupts :
    let s := tDue 0x80 tEvents
    let f := s.frame 0
    s.slotOf 0 = some 0 ∧ (s.slot 0).frame = some 0 ∧ f.outs = [] ∧ f.intrap = false ∧ (s.core 0).svec ≠ 0 ∧
    (∀ e ∈ f.due, (0x0B : BitVec 8) ≤ e.cause) ∧
    f.due.find? (fun e => e.cause == 0x0B) = some ⟨0x0B, 3, 3, 0x10001, true⟩ ∧ (s.core 0).timer ≠ 0 ∧
    (s.core 0).timer.toNat ≤ (s.guestTime 0).toNat ∧ f.ie = true ∧ f.mie = true ∧ f.cancelDue = true ∧ f.atMarker = true ∧
    f.wdogLimit ≠ 0 ∧ 1024 * f.wdogLimit.toNat ≤ f.wdogCount.toNat ∧ ((tDue 0 tEvents).core 0).tvec = 0 ∧
    ((tDue 0 {}).frame 0).ie = false ∧ ((tDue 0 { tEvents with wdogCount := 1023 }).frame 0).wdogCount.toNat < 1024 := by
  decide +kernel

/-- A parked task whose watchdog expires. -/
theorem test_wit_Interrupts_parked :
    let s : State := { tDue 0 {} with frames := [(0, { tEvents with state := .touch })] }
    (s.frame 0).state = .touch ∧ 1024 * (s.frame 0).wdogLimit.toNat ≤ (s.frame 0).wdogCount.toNat := by decide +kernel

/-- A thread at its marker whose remote LDS waits at a word of core 1. -/
theorem test_wit_Interrupts_marker :
    let w : Waiter := ⟨.remote 0 0 0 1 3 0, .lds, 8, 8, 0, 3⟩
    let s : State :=
      { tDue 0 {} with
        slots := [(0, { state := .marker, frame := some 0 })], waitq := [(2 ^ 14 + 1, [w])]
        frames := [(0, { tEvents with state := .running, outs := [{ id := 3, kind := .plain, cls := .load, fe := true }], markPc := 2 })] }
    (s.slot 0).state = .marker ∧ s.slotOf 0 = some 0 ∧ s.markerWaits 0 = true ∧ (s.frame 0).trapPend = none ∧
    (∀ o ∈ (s.frame 0).outs, o.fe = true ∧ s.feWaits 0 o.id = true) ∧ (s.frame 0).state = .running := by decide +kernel

def tScrubbing (fn : BitVec 3) : State :=
  { tWith { outs := [{ id := 3, kind := .other, cls := .other, dst := some 5 }] } with
    hub := { coreScrubs := [⟨3, 0, 0, 3, fn, 1, 0⟩] } }

theorem test_wit_Interrupts_scrub :
    let x (fn : BitVec 3) : CoreScrub := ⟨3, 0, 0, 3, fn, 1, 0⟩
    let s : State := { tScrubbing 6 with cores := [(0, { pword := 0x8418, epoch := 1, acmds := [⟨0, 0, 0, .nop, 0, 0, false, 0, [], [], false⟩] })] }
    (tScrubbing 7).hub.coreScrubs.find? (fun y => y.id == 3) = some (x 7) ∧
    (tScrubbing 6).hub.coreScrubs.find? (fun y => y.id == 3) = some (x 6) ∧ (x 7).fn.getLsbD 0 = true ∧
    (x 7).next < (tScrubbing 7).poolS 0 / 8 ∧ (x 6).fn.getLsbD 0 = false ∧ s.scrubWaits (x 6) = true ∧
    (tScrubbing 6).scrubWaits (x 6) = false ∧ (tScrubbing 6).slotOf 0 = some 0 ∧
    ((tScrubbing 6).frame 0).outs.find? (fun y => y.id == 3) = some { id := 3, kind := .other, cls := .other, dst := some 5 } ∧
    (tScrubbing 7).waitq = [] ∧ (tScrubbing 7).pool.wf = true := by decide +kernel

def tTrapMsg (kind : Nat) : TrapMsg := { id := 2, beacon := 0, kind := kind, part := 0, acc := 1, va := 0x10000 }
def tBeacon (q : List TrapMsg) : State := { tMap with hub := { tMap.hub with beacons := [tTrapMsg 1], queue := q } }

theorem test_wit_TrapMessages_beacon :
    (tBeacon []).hub.beacons.find? (fun x => x.id == 2) = some (tTrapMsg 1) ∧
    (∀ x ∈ (tBeacon []).hub.beacons, x.id ≠ 2 → x.beacon ≠ 0 ∨ x.src ≠ 0) ∧
    64 ≤ ((List.replicate 64 { tTrapMsg 2 with id := 7 }).filter (fun x => x.beacon == 0)).length ∧
    ((List.replicate 63 { tTrapMsg 2 with id := 7 }).filter (fun x => x.beacon == 0)).length < 64 ∧
    (tBeacon [{ tTrapMsg 1 with id := 7 }]).hub.queue = [] ++ { tTrapMsg 1 with id := 7 } :: [] := by decide +kernel

/-- A message at the hub, with the cause ring free and with 256 held entries. -/
def tHub (kind : Nat) (n : Nat) (pageReq : Bool) (reqs : List PageReq) : State :=
  { tMap with
    hub := { queue := [tTrapMsg kind], crcb := if n = 0 then 0x100000000000000 else 0, causes := List.replicate n ⟨2, 1, 0, 1, 0, 0⟩ }
    parts := [(0, { assigned := true, epoch := 1, pageReq := pageReq })], vfs := [(1, { prring := 0x100000000002000, reqs := reqs })] }

def tPageReq (sent host : Bool) : PageReq :=
  { id := 8, va := 0x10000, write := false, host := host, rid := 0, gen := 0, sent := sent, copies := [5], threads := [] }

theorem test_wit_TrapMessages_hub :
    (tHub 2 0 true []).hub.queue.find? (fun x => x.beacon == 0) = some (tTrapMsg 2) ∧ (tHub 2 0 true []).causesHeld = false ∧
    (tHub 2 256 true []).causesHeld = true ∧ (tHub 2 256 true []).hub.causes = [] ++ ⟨2, 1, 0, 1, 0, 0⟩ :: List.replicate 255 ⟨2, 1, 0, 1, 0, 0⟩ ∧
    ((tHub 4 0 true []).part 0).assigned = true ∧ (tHub 1 0 true []).canRequestPage 0 false = true ∧
    (tHub 1 0 false []).canRequestPage 0 false = false ∧
    ((tHub 1 0 true [tPageReq false false]).vf 1).reqs = [] ++ tPageReq false false :: [] := by decide +kernel

theorem test_wit_PageRequests :
    let s := tHub 1 0 true [tPageReq false false]
    let u := tHub 1 0 true [tPageReq true false]
    s.pageReq? 8 = some (1, tPageReq false false) ∧ s.hostCanWrite 0 = true ∧ s.canRequestPage 0 false = true ∧
    s.host.wf = true ∧ s.causesHeld = false ∧
    (u.vf 1).reqs.find? (fun x => x.sent && x.host == false && x.rid == 0 && x.gen == (u.vf 1).gen) = some (tPageReq true false) ∧
    (u.vf 1).stale.toNat < 2 ^ 32 - 1 ∧ (s.part 0).scrubbing = false ∧
    ({ s with hub := { s.hub with hostUp := false } } : State).hostCanWrite 0 = false ∧ (1 : BitVec 16) ≠ (s.vf 1).gen := by
  decide +kernel

/-- Slot RID mod 256 still held by an earlier request, the copy that stalls, and the host's own requests. -/
theorem test_wit_PageRequests_more :
    let old : PageReq := { tPageReq true false with id := 9, rid := 0 }
    let new : PageReq := { tPageReq false false with rid := 256 }
    let s := tHub 1 0 true [old, new]
    (∃ x ∈ (s.vf 1).reqs, x.sent = true ∧ x.host = false ∧ x.gen = (s.vf 1).gen ∧ x.id ≠ new.id ∧ x.rid % 256 = new.rid % 256) ∧
    ({ tCopy 0x00080001 (some []) with stalled := some 1 } : Copy).stalled = some 1 ∧
    (tCopying { tCopy 0x00080001 (some []) with stalled := some 1 }).copies.get? 5 =
      some { tCopy 0x00080001 (some []) with stalled := some 1 } ∧
    (let t : State := { tMap with vfs := [(1, { reqs := [tPageReq false true], alloc := 1 })] }
     (∀ q ∈ t.hub.hostReqs, q.id ≠ 8) ∧ t.pageReq? 8 = some (1, tPageReq false true) ∧
     ((t.vf 1).reqs.filter (fun x => x.host && x.sent)).length < (t.vf 1).alloc) ∧
    (let t : State := { tMap with vfs := [(1, { reqs := [tPageReq false true], alloc := 0 })] }
     (t.vf 1).alloc ≤ ((t.vf 1).reqs.filter (fun x => x.host && x.sent)).length) ∧
    ({ tMap with parts := [(0, { scrubbing := true })] } : State).part 0 = { scrubbing := true } := by decide +kernel

def tRead (copy : Option (Nat × Nat)) (frame : Option Nat) (ats : Bool) : HostReq :=
  { id := 3, vf := 1, pasid := 0, va := 0x2000, len := 8, copy := copy, frame := frame, entry := 0, ats := ats }

def tReading (q : HostReq) (c : Copy) : State :=
  { tX [] 0 with
    hub := { hostReqs := [q] }, copies := [(5, c)]
    frames := [(1048577, { state := .running, outs := [{ id := 3, kind := .x, cls := .load, dst := some 5 }] })]
    parts := [(0, { assigned := true, epoch := 1, pageReq := true })] }

theorem test_wit_HostCompletions :
    let q := tRead none (some 1048577) false
    let a := tRead (some (5, 0)) none true
    let b := tRead (some (5, 6)) none false
    let c : Copy := { tMoving 0x100 0xF000000000000000 with bursts := [{ tBurst with host := true }] }
    (tReading q c).hub.hostReqs.find? (fun x => x.id == 3) = some q ∧ q.unit = 0 ∧
    ((tReading q c).frame 1048577).outs.find? (fun x => x.id == 3) = some { id := 3, kind := .x, cls := .load, dst := some 5 } ∧
    (tReading a c).hub.hostReqs.find? (fun x => x.id == 3) = some a ∧ (tReading a c).copies.get? 5 = some c ∧
    c.status = none ∧ c.cancelled = false ∧ (tReading a c).hub.ats.length < 8192 ∧ ((tReading a c).part 0).pageReq = true ∧
    (∀ r ∈ ((tReading a c).vf 1).reqs, r.va ≠ a.va / 4096 * 4096) ∧
    (tReading b c).hub.hostReqs.find? (fun x => x.id == 3) = some b ∧ c.bursts = { tBurst with host := true } :: [] ∧
    ({ tBurst with host := true } : Burst).id = 6 ∧
    (let r := tRead (some (5, 7)) none false
     let d : Copy := { c with bursts := [{ tBurst with host := true }, { tBurst with id := 7, host := true }] }
     (tReading r d).hub.hostReqs.find? (fun x => x.id == 3) = some r ∧ (tReading r d).copies.get? 5 = some d ∧
     tBurst.id ≠ 7 ∧ tBurst.got = none ∧ tBurst.err = false) := by decide +kernel

/-- Rings: one update short of CCOUNT, at it, with a time limit, and disabled. -/
def tRing (r : Ring) : State := { tMap with hub := { crcb := 0x100000000000000 }, parts := [(0, { assigned := true, epoch := 1, rings := [(0, r)] })], time := 100 }

theorem test_wit_HostRings :
    ((tRing { en := true, ccount := 2, pending := 1 }).ringOf 0 0).en = true ∧
    max ((tRing { en := true, ccount := 2, pending := 1 }).ringOf 0 0).ccount.toNat 1 ≤ 1 + 1 ∧
    0 + 1 < max ((tRing { en := true, ccount := 2 }).ringOf 0 0).ccount.toNat 1 ∧ ((tRing {}).ringOf 0 0).en = false ∧
    ((tRing { en := true, ctime := 100, pending := 1 }).ringOf 0 0).ctime ≠ 0 ∧
    ((tRing { en := true, ctime := 100, pending := 1 }).ringOf 0 0).oldest + 100 ≤ (tRing {}).time ∧
    (tRing {}).causesHeld = false := by decide +kernel

/-- The cause ring's control block at host address 0x100: 4 entries at 0x1000, PROD and CONS as given. -/
def tRcb (prod cons size : Byte) : State :=
  { tMap with
    hub := { crcb := 0x0100000000000100, causes := [⟨2, 1, 0, 1, 0, 0⟩], hostReqs := [{ tRead none none false with vf := 0, va := 0x100 }] }
    host := [(0x101, 0x10), (0x107, 1), (0x108, size), (0x110, prod), (0x118, cons)] }

theorem test_wit_HostRings_block :
    ((tRcb 5 1 2).ringHead 0 0x100).isSome = true ∧ (tRcb 5 1 2).fnUp 0 = true ∧ (tRcb 5 1 2).host.wf = true ∧
    (tRcb 5 1 2).host.readLE (fnKey 0 0x100) 8 = 0x0100000000001000 ∧ (tRcb 5 1 2).host.readLE (fnKey 0 0x100 + 8) 8 = 2 ∧
    2 ^ 2 ≤ (5 + 2 ^ 64 - 1) % 2 ^ 64 ∧ (5 + 2 ^ 64 - 2) % 2 ^ 64 < 2 ^ 2 ∧ (tRcb 5 1 1).host.readLE (fnKey 0 0x100 + 8) 8 < 2 ∧
    ((tRcb 5 1 2).hub.hostReqs.find? (fun x => x.id == 3)).isSome = true ∧
    (((tRcb 5 1 2).ringHead 0 0x100).map List.length) = some 32 := by decide +kernel

/-! ## Witnesses: launches, Lamplighters, the array, fetching -/

/-- The program ring word, partitioning word and tile dwords of a launch: F = 24, A = 16, I = 4, no stack. -/
def tDwords (d0 d7 : Word) : List Word := [d0, 0, 0, 0, 0, 0, 0, d7]
def tL (d0 d7 : Word) (checked : Bool) (n : Nat) : Launch :=
  { vf := 1, lseq := 1, dwords := tDwords d0 d7, count := 4, next := n, checked := checked }

def tLaunching (ls : List Launch) : State :=
  { tMap with parts := [(0, { assigned := true, epoch := 1, logical := [0], launches := ls, wdog := 1 })] }

theorem test_wit_Launches_record :
    (tLaunching []).part 1 = {} ∧ ((tLaunching []).part 0).assigned = true ∧ ((tLaunching []).part 0).logical ≠ [] ∧
    ((tLaunching []).part 0).state = 0 ∧ ((tLaunching []).part 0).completions.length < 256 := by decide +kernel

/-- Launches that each check refuses and one that none does. -/
theorem test_wit_Launches_check :
    let l := tL 0x1000 0x841800000004 false 0
    ((tLaunching [l]).part 0).launches.find? (fun x => !x.checked) = some l ∧
    ((tLaunching [l]).part 0).launches.filter (fun x => x.checked && x.status.isNone) = [] ∧
    ((l.dwords.getD 7 0).toNat / 2 ^ 32 % 2 ^ 18 % 2 ^ 6 = 24) ∧ (0x8418 : Nat) / 2 ^ 13 = 4 ∧
    8192 + 1152 * 24 + 1024 * (0x8418 / 2 ^ 6 % 2 ^ 7) + 1024 * 4 + 4096 ≤ 131072 ∧
    (l.dwords.getD 0 0).getLsbD 5 = false ∧ (l.dwords.getD 7 0).toNat / 2 ^ 61 = 0 ∧
    ((tL 0x1020 0x841800000004 false 0).dwords.getD 0 0).getLsbD 5 = true ∧
    ((tL 0x1000 0x840700000004 false 0).dwords.getD 7 0).toNat / 2 ^ 32 % 2 ^ 18 % 2 ^ 6 < 8 ∧
    (tLaunching [l]).partClusters 0 = [0] ∧ (tL 0x1000 0x841800000004 false 4).count ≤ 4 := by decide +kernel

theorem test_wit_Launches_beside :
    let l := tL 0x1000 0x841800000004 false 0
    let r : Launch := { tL 0x1000 0x841900000004 true 4 with lseq := 2 }
    let d : Launch := { tL (0x1000 + 0x100000000000000) 0x841800000004 true 4 with lseq := 2 }
    ((tLaunching [r, l]).part 0).launches.find? (fun x => !x.checked) = some l ∧
    ((tLaunching [r, l]).part 0).launches.filter (fun x => x.checked && x.status.isNone) = [r] ∧
    (r.dwords.getD 7 0).toNat / 2 ^ 32 % 2 ^ 18 ≠ 0x8418 ∧ (d.dwords.getD 7 0).toNat / 2 ^ 32 % 2 ^ 18 = 0x8418 ∧
    (d.dwords.getD 0 0).getLsbD 56 = true := by decide +kernel

theorem test_wit_Launches_end :
    let l := tL 0x1000 0x841800000004 true 4
    let m := tL 0x1000 0x841800000004 true 0
    (tLaunching [l]).launch 0 l.lseq = some l ∧ (tLaunching [l]).launchOver 0 l = true ∧
    (tLaunching [m]).launch 0 m.lseq = some m ∧ m.next < m.count ∧ (m.dwords.getD 0 0).getLsbD 56 = false ∧
    l.count ≤ l.next ∧ ((tLaunching [l]).part 0).scrubbing = false := by decide +kernel

def tQueued (id o : Nat) (pr : BitVec 2) : Machine.Task :=
  { id := id, entry := 0x1000, args := [1, 2, 3, 4, 5, 6], prio := pr, tag := 0, order := o }

/-- Cluster 0 with tasks in its queues, its core 0 free but for frame 0 and slot 0. -/
def tCluster (c : Cluster) : State :=
  { tLaunching [{ tL 0x1000 0x841800000004 true 4 with asking := [0] }] with
    clusters := [(0, c)], slots := [], frames := [], cores := [(0, { pword := 0x8418, tag := 0, epoch := 1 })] }

theorem test_wit_Dispatching_place :
    let s := tCluster { tasks := [tQueued 1 1 0] }
    s.fillCluster 0 = s ∧ (s.cluster 0).placedAt ≠ some s.cycle ∧ (s.placeOf 0 (tQueued 1 1 0)).isSome = true ∧
    (tQueued 1 1 0).lane = none ∧ (tQueued 1 1 0).present = [] ∧
    (match s.placeOf 0 (tQueued 1 1 0) with
     | some pl => (s.slot pl.slot).state == .free && pl.slot / 8 == frameCore pl.frame && pl.kind == 0 && s.frameFree pl.frame
     | none => false) = true ∧
    ((tCluster { placedAt := some 0 }).cluster 0).placedAt = some (tCluster {}).cycle ∧
    (tCluster { placedAt := some 0 }).fillCluster 0 = tCluster { placedAt := some 0 } := by decide +kernel

theorem test_wit_Dispatching_order :
    let s (p : BitVec 2) (n : Nat) := tCluster { tasks := [tQueued 1 1 0, tQueued 2 2 p], passed := n }
    (s 0 0).fillCluster 0 = s 0 0 ∧ (s 1 32).fillCluster 0 = s 1 32 ∧ (s 1 0).fillCluster 0 = s 1 0 ∧
    ((s 0 0).placeOf 0 (tQueued 1 1 0)).isSome = true ∧ ((s 0 0).placeOf 0 (tQueued 2 2 0)).isSome = true ∧
    ((s 1 0).placeOf 0 (tQueued 1 1 0)).isSome = true ∧ ((s 1 32).placeOf 0 (tQueued 2 2 1)).isSome = true ∧
    (s 1 32).cluster 0 = { tasks := [tQueued 1 1 0, tQueued 2 2 1], passed := 32 } ∧
    (tQueued 1 1 0).order < (tQueued 2 2 1).order ∧ (0 : BitVec 2).toNat < (1 : BitVec 2).toNat := by decide +kernel

/-- A task with one tile of 8 bytes at own-pool offset 0, its prefetch, and its failure. -/
def tTiled : Machine.Task := { tQueued 1 1 0 with fut := 0x100000, tiles := [(0x100, 0x400)] }
def tPrefetch (st : Option (BitVec 8)) : Copy :=
  { tCopy 0x00080001 (some []) with purpose := .prefetch 0 1, ended := true, status := st }

theorem test_wit_Dispatching_prefetch :
    let s := tCluster { tasks := [tTiled] }
    let x : Machine.Task := { tTiled with prefetching := [5] }
    let u (st : Option (BitVec 8)) : State :=
      { tCluster { tasks := [x] } with copies := [(5, tPrefetch st)], futures := [(0, { gen := 16, state := .pending })] }
    tTiled.present = [(0x100, 0x400)] ∧ (s.nextPrefetch 0).isSome = true ∧
    (match s.nextPrefetch 0 with | some y => y.1 == tTiled | none => false) = true ∧
    (u none).copies.get? 5 = some (tPrefetch none) ∧ ((u none).cluster 0).tasks.find? (fun t => t.id == 1) = some x ∧
    x.cancelled = false ∧ ((tPrefetch none).status.getD 0) = 0 ∧ ((tPrefetch (some 2)).status.getD 0) ≠ 0 ∧
    x.prefetching = [5] ∧ handleModule x.fut = (u none).module.toNat ∧ handleCluster x.fut = 0 ∧
    ((u none).future (handleKey x.fut)).state = .pending ∧ handleDist ((u none).future (handleKey x.fut)) x.fut = 0 ∧
    ((u none).future (handleKey x.fut)).dropped = false := by decide +kernel

/-- Two clusters in one steal domain: cluster 1 has a task that cluster 0 may take. -/
def tThief (mine theirs : List Machine.Task) : State :=
  { tBase with
    slots := [], frames := [], clusters := [(0, { tasks := mine }), (1, { tasks := theirs })]
    cores := [(0, { pword := 0x8418, tag := 0, epoch := 1 }), (16, { pword := 0x8418, tag := 0, epoch := 1, lcid := 1 })]
    parts := [(0, { assigned := true, epoch := 1, logical := [0, 16], steal := [(2, [0, 1])] })] }

theorem test_wit_Dispatching_theft :
    let s := tThief [] [{ tQueued 1 1 0 with sdom := 2 }]
    let u := tThief [] []
    let w := tThief [tQueued 1 1 0] []
    (∀ x ∈ (s.cluster 0).tasks, s.placeOf 0 x = none) ∧
    (match s.findTheft 0 with | some y => y.1 == 1 | none => false) = true ∧ u.findTheft 0 = none ∧
    u.mayStealAny 0 = true ∧ tBase.mayStealAny 0 = false ∧ tBase.findTheft 0 = none ∧
    (∃ x ∈ (w.cluster 0).tasks, (w.placeOf 0 x).isSome = true) := by decide +kernel

/-- All sixteen cores of cluster 0 belong to the partition. -/
def tSixteen (c : Core) : State :=
  { tWith { g := [(1, 0xF000000000000000), (2, 0)] } with
    cores := (rangeFrom 0 16).map (fun k => (k, if k = 0 then { c with pword := 0x8418, tag := 0, epoch := 1 } else { pword := 0x8418, tag := 0, epoch := 1, lcid := k })) }

theorem test_wit_ArrayIssue :
    let s := tSixteen {}
    (∀ j : Nat, j < 16 → (s.core j).tag = s.frameTag 0 ∧ (s.core j).epoch = s.frameEpoch 0) ∧ s.frameEpoch 0 ≠ 0 ∧
    (tCore.core 1).epoch ≠ tCore.frameEpoch 0 ∧ scopeTrap s 0 = none ∧ s.scopeLimited 0 = false ∧
    s.fenceHolds .other = false ∧ ((s.core 0).ring.getD 1 (0, 0)).1.toNat / 2 ^ 23 % 2 ^ 3 = 0 ∧ s.cf.flushing = false ∧
    ((tSixteen { ring := [(1, (0x1000000, 0))] }).core 0).ring.getD 1 (0, 0) = (2 * 2 ^ 23, 0) ∧
    (s.cf.held.get? 5).isNone = true ∧ 5 ∉ s.cf.waits ∧ s.cf.waits = [] ∧
    ((tWith { held := [(5, 0)] }).cf.held.get? 5).isSome = true ∧ (tWith { flushing := true }).cf.flushing = true := by
  decide +kernel

theorem test_wit_ArrayIssue_push :
    tCore.cur.slot.qbind.toNat / 2 ^ 6 % 2 = 0 ∧ tFifo.cur.slot.qbind.toNat / 2 ^ 6 % 2 = 1 ∧
    (tFifo.fifo 0).owner = some (tFifo.frameTag 0) ∧ (tFifo.fifo 0).waiting = [] ∧ (tFifo.fifo 0).pushedAt ≠ some tFifo.cycle ∧
    (tFifo.cf.held.get? 4).isNone = true ∧ (tFifo.fifo 0).items.length < 16 ∧
    (({ tFifo with fifos := [] } : State).fifo 0).owner ≠ some (tFifo.frameTag 0) ∧ tFifo.accIds tFifo.cur.fk = [] ∧
    (let s : State :=
       { tFifo with unperf := [3], frames := [(0, { state := .running, outs := [{ id := 3, kind := .rx, cls := .store }] })] }
     s.accIds s.cur.fk ≠ [] ∧ s.cf.waits = [] ∧ (s.cf.held.get? 4).isNone = true) := by decide +kernel

/-- A command of frame 0 of core 0. -/
def tCmd (i : Instr) : ACmd := ⟨1, 0, 0, i, 0xF000000000000000, 0, false, 0xFFFFFFFF, [], [], false⟩
def tOrd : Sys2Proof.Ord := ⟨false, false, 0⟩
def tAset (e : BitVec 4) : ACmd := tCmd (.aset tOrd false e 1 false false false)

/-- It runs under a lease, with the records of an integer row and column of one element each at own-pool offset 0. -/
def tLeased (l : Lease) (a : ACmd) : State :=
  { tSixteen { acmds := [a] } with clusters := [(0, { lease := some l, running := some a })], pool := [(1, 1), (8, 1)] }

def tLease : Lease := { core := 0, frame := 0, remaining := 2, granted := 0 }

theorem test_wit_ArrayRuns_grant :
    let a := tCmd (.alease 3)
    let s := tSixteen { acmds := [a] }
    (s.cluster 0).lease = none ∧ (s.cluster 0).running = none ∧ s.nextGrant 0 = some a ∧
    (∀ j : Nat, j < 16 → (s.core j).preempted = false) ∧ (s.core 0).acmds = [a] ∧
    (∀ j : Nat, j < 16 → j ≠ 0 → (s.core j).acmds = []) ∧ a.op = .alease 3 ∧
    (tLeased tLease a).cycle < tLease.granted + 8192 ∧ ({ s with cycle := 8192 } : State).cycle = tLease.granted + 8192 := by
  decide +kernel

theorem test_wit_ArrayRuns_run (a : ACmd) (l : Lease) :
    ((tLeased l a).cluster 0).running = some a ∧ ((tLeased l a).cluster 0).lease = some l ∧
    ((tLeased l a).cluster 0).runningUntil ≤ (tLeased l a).cycle ∧ ((tLeased l a).core 0).acmds = [a] ∧
    (tLeased l a).memWf = true := by
  refine ⟨?_, ?_, ?_, ?_, ?_⟩ <;> rfl

theorem test_wit_ArrayRuns_cores :
    let s := tLeased tLease (tAset 0)
    (∀ j : Nat, j < 16 → j ≠ 0 → (s.core j).acmds = []) ∧ (∀ j : Nat, j < 16 → pwOk (s.core j).pword = true) ∧
    2 ≤ tLease.remaining ∧ tLease.ending = false ∧ tLease.lastAstr = false ∧ tLease.config = none ∧ (s.core 0).epoch ≠ 0 ∧
    s.accFits 0 0 1 1 = true ∧ (tAset 0).ga.toNat % 2 ^ 17 + 4 * 1 ≤ s.poolS 0 := by decide +kernel

/-- An ALDB of one column of one element of an integer record, and an ASTR of one row of it. -/
theorem test_wit_ArrayRuns_records :
    let b := tCmd (.aldb tOrd false .own 1 0 0 0 0)
    let s := tLeased { tLease with config := some (tAset 0) } b
    bytesNat (s.viewBytes b .own 0 8) / 2 ^ 8 % 2 ^ 8 = 1 ∧ (entRange 0).1 ≤ 1 ∧ 1 ≤ (entRange 0).2 ∧
    (goodRow 0 1 (s.rowRecs b .own 0 1 (recSlot (entCls 0) 1))).isSome = true ∧
    ((goodRow 0 1 (s.rowRecs b .own 0 1 (recSlot (entCls 0) 1))).map (fun r => r.map (fun x => (x.s.take 1, recOk 0 1 x)))) =
      some [([1], true)] := by decide +kernel

def tLine (h : BitVec 16) (t : BitVec 64) : State :=
  { tBase with clusters := [(0, { icache := [⟨0, 0, 1, lineOf h t⟩] })], thisCycle := [0] }

/-- No line; the line of `add g3, g1, g2` alone; and an instruction line without a bundle. -/
theorem test_wit_Fetching :
    let s := tLine 0x8800 0x0C108000
    ((tBase.cluster 0).icache.find? (fun l => l.va == 0)) = none ∧ (s.slot 0).frame = some 0 ∧ (s.frame 0).pc = 0 ∧
    (s.cluster 0).icache.find? (fun l => l.va == 0 && l.tag == s.frameTag 0 && l.epoch == s.frameEpoch 0) =
      some ⟨0, 0, 1, lineOf 0x8800 0x0C108000⟩ ∧
    (match fetchBundle (lineOf 0x8800 0x0C108000) 0 false with
     | .ok b => b.ops.map (fun o => (o.dec, o.guard)) == [(.op (.add ⟨false, false, false⟩ 3 1 2), none)]
     | .error _ => false) = true ∧
    (match fetchBundle (0 : BitVec 512) 0 false with | .ok _ => false | .error _ => true) = true ∧
    (firstTrap (((match fetchBundle (lineOf 0x8800 0x0C108000) 0 false with | .ok b => b.ops | .error _ => []).map
      (opTraps tCore)).flatten)).isNone = true ∧ (s.frame 0).waits = [] := by decide +kernel

def tFill (done : Option (List Byte × Nat)) : Fill := ⟨9, 0, 0x1000, 0, 1, 0, done⟩

def tFilling (dev : Mem) (done : Option (List Byte × Nat)) : State :=
  { tMap with
    hub := { tMap.hub with fills := [tFill done] }, slots := [(0, { state := .line, frame := some 0 })], dev := dev }

theorem test_wit_Fetching_fill :
    let s := tFilling tMap.dev none
    let line (d : Bool) : State := { s with bad := [(2 ^ 30 + (if d then 0x1000 else 0x20000) / 64, .lasting)] }
    let w (s : State) := s.walk 0 0x1000 false false
    s.hub.fills.find? (fun y => y.id == 9) = some (tFill none) ∧
    (tFilling tMap.dev (some ([], 6))).hub.fills.find? (fun y => y.id == 9) = some (tFill (some ([], 6))) ∧
    (s.slot 0).state = .line ∧ s.bad = [] ∧ (s.cluster 0).icache.length < 2048 ∧
    (match (w s).2 with | .ok _ false _ _ _ _ => true | _ => false) = true ∧
    (match w (line true) with | (u, .ok a false _ _ _ _) => u.deviceError 0 a 64 == some (2 ^ 30 + 64, true) | _ => false) = true ∧
    (match (w (line false)).2 with | .ecc => true | _ => false) = true ∧
    (match (w (tFilling [] none)).2 with | .bad _ => true | .notPresent => true | _ => false) = true := by
  decide +kernel

/-! ## Witnesses: pre-emption, containment, scrubs, certificates, Geyser threads, tables, links -/

/-- The partition with its slice, state, error code and launches; core 0 is pre-empted. -/
def tSliced (p : Part) : State :=
  { tMap with
    cores := [(0, { pword := 0x8418, tag := 0, epoch := 1, preempted := true })], time := 10, hub := { tMap.hub with crcb := 0x100000000000000 }
    parts := [(0, { p with assigned := true, epoch := 1, logical := [0], root := 0x20000 })] }

theorem test_wit_Preemption :
    ((tSliced { slice := 10 }).part 0).slice ≠ 0 ∧ ((tSliced { slice := 10 }).part 0).slice ≤ (tSliced {}).time ∧
    (tSliced {}).time < ((tSliced { slice := 11 }).part 0).slice ∧ ((tSliced {}).part 0).slice = 0 ∧
    ((tSliced {}).core 0).preempted = true ∧ (tSliced {}).memWf = true ∧ (tSliced {}).causesHeld = false ∧
    (tSliced { state := 1 }).quiescent 0 = true ∧ (tArrival.quiescent 0 = false) ∧
    (tSliced { state := 1 }).contextPages 0 ≠ [] ∧ pwOk ((tSliced {}).core 0).pword = true ∧
    ((tSliced { state := 2 }).part 0).err = 0 ∧ ((tSliced { state := 2, err := 2 }).part 0).err ≠ 0 ∧
    ((tSliced { state := 3 }).part 0).restoring = false ∧ (tSliced { state := 3, restoring := true }).partCores 0 = [0] ∧
    ((tSliced {}).core 0).inbox = [] := by decide +kernel

/-- A save and a restore at their first block, at their end, and with a walk that fails or leads to the host. -/
theorem test_wit_Preemption_pages :
    let im : Image := { time := 4 }
    let sv (n : Nat) : State := tSliced { state := 2, image := some im, ctxNext := n }
    let rs (n : Nat) : State := tSliced { state := 3, restoring := true, image := some im, ctxNext := n }
    let w (s : State) := s.walk 0 (s.part 0).ctx true false
    let isMem (s : State) (h : Bool) : Bool := match (w s).2 with | .ok _ x _ _ _ _ => x == h | _ => false
    ((sv 0).nextBlock 0).isSome = true ∧ ((rs 0).nextBlock 0).isSome = true ∧ ((sv 1000).nextBlock 0).isNone = true ∧
    ((rs 1000).nextBlock 0).isNone = true ∧ ((rs 0).part 0).readback.wf = true ∧ (sv 0).bad = [] ∧ (sv 0).memWf = true ∧
    isMem (sv 0) false = true ∧ (match (w { sv 0 with dev := [] }).2 with | .notPresent => true | _ => false) = true ∧
    (match (w { sv 0 with bad := [(2 ^ 30 + 0x20000 / 64, .lasting)] }).2 with | .ecc => true | _ => false) = true ∧
    ((sv 0).contextPages 0)[0]?.isSome = true ∧ (0, 0) ∈ (sv 0).partLogical 0 := by decide +kernel

/-- A leaf of host memory: with the host up, without bus mastering, and with ATS on and nothing translated. -/
theorem test_wit_Preemption_host :
    let s (up : Bool) (pr : Bool) : State :=
      { tSliced { state := 2, image := some { time := 4 } } with
        vfs := [(1, { ats := pr })], hub := { tMap.hub with hostUp := up }, dev := [(0x20000, 1), (0x20002, 4), (0x40000, 0x7F)] }
    let w (s : State) := s.walk 0 (s.part 0).ctx true false
    (match w (s true false) with | (u, .ok va true _ _ _ _) => u.hub.hostUp && (u.vf 1).bme && u.hostReady 0 va | _ => false) = true ∧
    (match w (s true true) with | (u, .ok va true _ _ _ _) => u.hub.hostUp && (u.vf 1).bme && !u.hostReady 0 va | _ => false) = true ∧
    (match w (s false false) with | (u, .ok _ true _ _ _ _) => !u.hub.hostUp | _ => false) = true ∧ (s true false).host.wf = true := by
  decide +kernel

/-- The end of a restore whose image names the partition's core and nothing parked. -/
theorem test_wit_Preemption_restored :
    let im : Image := { time := 4, cores := [(0, { pword := 0x8418, tag := 0, epoch := 1, preempted := true })] }
    let s : State := tSliced { state := 3, restoring := true, image := some im, ctxNext := 1000 }
    let u : State := s.putImage 0 im
    (∀ j ∈ s.partCores 0, (u.core j).inbox = [] ∧ (u.core j).overflow = []) ∧ s.partLogical 0 = [(0, 0)] ∧
    pwOk (u.core 0).pword = true ∧ (im.futures.map (·.1)).Nodup ∧ s.memWf = true ∧ (s.part 0).err = 0 := by decide +kernel

/-- A lease of core 0, and packets for its inbox of 32 × 4 messages. -/
theorem test_wit_Preemption_inbox :
    let s : State := { tSliced {} with net := [tMsg (.access tLoad)], clusters := [(0, { lease := some tLease })] }
    let u : State := { s with net := [tMsg (.join 0xF300000000000008 3 none)] }
    s.packet 7 = some (tMsg (.access tLoad)) ∧ s.canArrive (tMsg (.access tLoad)) = true ∧
    inboxCount ((s.core 0).inbox ++ [tMsg (.access tLoad)]) ≤ 32 * pwI (s.core 0).pword ∧
    u.packet 7 = some (tMsg (.join 0xF300000000000008 3 none)) ∧ u.canArrive (tMsg (.join 0xF300000000000008 3 none)) = true ∧
    32 * pwI 0x8418 < inboxCount (List.replicate 128 (tMsg (.access tLoad)) ++ [tMsg (.join 0xF300000000000008 3 none)]) ∧
    (s.cluster 0).lease = some tLease ∧ tLease.core = 0 := by decide +kernel

theorem test_wit_Containment :
    tLeased tLease (tAset 0) ≠ tCore ∧ (0 : Nat) ∈ (tSliced {}).partCores 0 ∧ ¬ (1 : Nat) ∈ (tSliced {}).partCores 0 ∧
    (tEnding true []).futures.get? 0 = some { gen := 16, state := .pending } ∧ (tFifo.fifo 0).owner = some 0 := by
  decide +kernel

/-- A scrub of all scopes that runs, and one that is due. -/
def tScrub (sc : BitVec 32) : State :=
  { tSliced { left := [1], scrubbing := true } with hub := { tMap.hub with running := [(0, ⟨0, sc, false, 5, 1⟩)] } }

theorem test_wit_Scrubs :
    (tScrub 0xFFF).hub.running.get? 0 = some ⟨0, 0xFFF, false, 5, 1⟩ ∧ (∀ x ∈ (tScrub 0xFFF).hub.scrubs, x.tag ≠ 0) ∧
    ((tScrub 0xFFF).part 0).scrubbing = true ∧ (tSliced {}).hub.running.get? 0 = none ∧ ((tSliced {}).part 0).scrubbing = false ∧
    (∀ l ∈ ((tSliced {}).part 0).launches, l.certWait = false) ∧ ((tSliced { state := 1 }).part 0).state ≠ 0 ∧
    (1 : Nat) ∈ ((tScrub 0).part 0).left ∧ ¬ (1 : Nat) ∈ (tScrub 0).partCores 0 ∧ ((tScrub 0).hub.owners.getD 0 []) ≠ [] := by
  decide +kernel

def tCertLaunch : Launch := { tL 0x200000000001000 0x841800000004 true 0 with certWait := true }
def tCertBody : Cert := ⟨0xFFF, 1, 0, 2, 3, 4, 5⟩

/-- A launch that waits for its certificate; TOKEN as given. -/
def tCert (sig : Option (Nat × List Byte)) (tok : Word) : State :=
  { tSliced { launches := [tCertLaunch], cert := some tCertBody, signing := sig } with vfs := [(1, { token := tok })] }

def tCertCopy (st : Option (BitVec 8)) (ended : Bool) : Copy :=
  { tCopy 0x02000001 (some []) with purpose := .cert 1, status := st, ended := ended, dst := 0x200 }

theorem test_wit_Certificates :
    let last : (Nat × Word × Word) × List Byte := ((tCertBody.seq, natWord (tCertLaunch.dw 4), natWord (tCertLaunch.dw 5)), [1])
    let u : State := tSliced { launches := [tCertLaunch], cert := some tCertBody, lastCert := some last }
    ((tSliced {}).part 0).launches.find? (fun l => l.certWait) = none ∧ ((tSliced {}).part 0).signing = none ∧
    ((tCert none 0).part 0).launches.find? (fun l => l.certWait) = some tCertLaunch ∧ ((tCert none 0).part 0).cert = some tCertBody ∧
    ((tCert none 0).part 0).lastCert = none ∧ (u.part 0).lastCert = some last ∧ tCertBody.seq < 2 ^ 64 ∧ tCertBody.tag < 1024 ∧
    ((tCert (some (1, [1])) 0).part 0).signing = some (tCertLaunch.lseq, [1]) ∧ (2 : Nat) ≠ tCertLaunch.lseq ∧
    ((tCert (some (2, [1])) 0).part 0).signing = some (2, [1]) ∧ ((tCert none 0).vf 1).token = 0 ∧
    (tCert none 0).causesHeld = false ∧ (tCert none 0).causeRoom = true ∧ (tCert none 0).copies = [] ∧
    ((tCert none 0).part 0).state = 0 ∧ ((tCert none 0).part 0).scrubbing = false ∧
    ((tCert none 0x200).vf 1).token.toNat % 512 = 0 ∧ ((tCert none 0x200).vf 1).token ≠ 0 := by decide +kernel

/-- The copy of a certificate: on its way, ended with a write not yet performed, ended well and ended badly. -/
theorem test_wit_Certificates_copy :
    let s (x : Copy) (ls : List Late) : State := { tCert (some (1, [1])) 0x200 with copies := [(5, x)], late := ls }
    let y : Late := { id := 9, owner := 5, tag := 0, epoch := 1, core := 0, ptr := 0x200, off := 0, data := [1], device := true, c := true,
                      channel := 0, entry := 0, full := false, last := true }
    (s (tCertCopy none false) []).copies = [(5, tCertCopy none false)] ∧ (tCertCopy none true).isCert = true ∧
    (tCertCopy none true).tag.toNat = 0 ∧ (tCertCopy none false).ended = false ∧ (tCertCopy none true).ended = true ∧
    (∃ x ∈ (s (tCertCopy none true) [y]).late, x.owner = 5) ∧ (s (tCertCopy none true) []).late = [] ∧
    (tCertCopy (some 4) true).status = some 4 ∧ (4 : BitVec 8) ≠ 0 ∧ (0x400 : Word) ≠ (tCertCopy none true).dst := by decide +kernel

/-- Thread 1 of channel 0 in a state, the partition its only owner. -/
def tThread (x : GThread) (p : Part) (os : List Owner) : State :=
  { tMap with
    hub := { owners := [(0, os)] }, geysers := [(0, { tag := 0, epoch := 1, threads := [(1, x)] })]
    parts := [(0, { p with assigned := true, epoch := 1 })] }

theorem test_wit_GeyserThreads :
    let o : Owner := ⟨0, 0, 0x7FFF, 0⟩
    let o2 : Owner := ⟨1, 0x8000, 0xFFFF, 1⟩
    let s := tThread {} {} [o]
    let u (st : BitVec 2) (held : Bool) (p : Part) := tThread { state := st, held := held } p [o]
    (s.partChannels 0)[0]? = some 0 ∧ (s.partChannels 0)[1]? = none ∧ (s.part 0).state = 0 ∧ (s.part 0).scrubbing = false ∧
    (s.hub.owners.getD 0 []).length = 1 ∧ ((tThread {} {} [o, o2]).hub.owners.getD 0 []).length ≠ 1 ∧
    ((tThread {} {} [o, o2]).partChannels 0)[0]? = some 0 ∧ (s.hub.refusals.getD (2 ^ 20 * 1024) (0, false)).2 = false ∧
    ((s.geyser 0).thread 1).state = 0 ∧ (((u 3 true {}).geyser 0).thread 1).state = 3 ∧
    (((u 3 true {}).geyser 0).thread 1).held = true ∧ ((u 3 false {}).frame (geyserFrame 0 1)).outs = [] ∧
    ((tThread { state := 3, held := true } {} [o, o2]).hub.owners.getD 0 []).length ≠ 1 ∧ ((u 3 true {}).hub.owners.getD 0 []).length = 1 ∧
    (∀ d ∈ (u 3 false {}).delayed, d.frame ≠ geyserFrame 0 1) ∧ ((u 3 false { state := 1 }).part ((u 3 false {}).geyser 0).tag.toNat).state = 1 ∧
    ((u 1 false {}).part 0).scrubbing = false ∧ (tHandle none).frame (geyserFrame 0 1) = {} := by decide +kernel

/-- Channel entries of one and of two owners, a table of two cores, a route, and an offset. -/
theorem test_wit_HubTables :
    let o : Owner := ⟨0, 0, 0x7FFF, 0⟩
    let o2 : Owner := ⟨1, 0x8000, 0xFFFF, 1⟩
    let s := tSliced { state := 0 }
    (∀ x ∈ [o, o2], x.base.toNat ≤ x.limit.toNat) ∧ [o, o2].length ≤ 2 ^ 1 ∧ o.limit.toNat < o2.base.toNat ∧ o.t ≠ o2.t ∧
    ¬ (o2.limit.toNat < o.base.toNat ∨ o.limit.toNat < o.base.toNat) ∧ [o, o2].map (·.tag) ≠ (s.hub.owners.getD 0 []).map (·.tag) ∧
    (∀ l ∈ (s.part 0).launches, l.running = false) ∧ (s.part 0).state = 0 ∧ (0 : Nat) ∈ s.partChannels 0 ∧ ¬ (1 : Nat) ∈ s.partChannels 0 ∧
    s.hasRoute 0 = true ∧ (s.core 0).failed = false ∧ (s.core 0).tag = 0 ∧ (s.core 1).failed = false ∧ (s.core 1).epoch = 0 ∧
    s.hasRoute 5 = false ∧ (s.part 0).saved = none ∧
    ((tSliced { saved := some 20 }).part 0).saved = some 20 ∧ ¬ 20 ≤ (natWord (tSliced {}).time + 0).toNat := by decide +kernel

theorem test_wit_HubRegisters :
    (∀ x ∈ ((tSliced {}).part 0).launches, x.running = false) ∧
    ¬ (∀ x ∈ ((tLaunching [tL 0x1000 0x841800000004 true 4]).part 0).launches, x.running = false) ∧
    tSliced {} ≠ tCore ∧ (tSliced {}).host.wf = true ∧ (0x20000 : Word).toNat % 2 ^ 17 = 0 ∧ (0x10000 : Word).toNat % 2 ^ 17 ≠ 0 ∧
    (let s : State := { tCore with slots := [(0, { state := .halted, frame := some 0 })] }
     (s.slot 0).frame = some 0 ∧ (s.slot 0).state = .halted ∧ (s.frame 0).atMarker = false ∧ s.slotOf 0 = some 0 ∧
     (tCore.slot 0).state ≠ .halted) ∧ (tWith { atMarker := true }).cf.atMarker = true := by decide +kernel

theorem test_wit_HubRegisters_slot (s : State) (h : s.slots = [(0, { state := .halted, frame := some 0 })]) (u : Nat)
    (hu : (s.slot u).frame = some 0) : u = 0 := by
  cases u with
  | zero => rfl
  | succ n => exact absurd hu (by simp [State.slot, NMap.getD, NMap.get?, h])

/-- A request of core 0 over link 3 without its answer, its answer, and a communicator of a core behind the link. -/
def tRemote : Packet := { tMsg (.access tLoad) with dst := 2 ^ 23 + 5 }

def tLink (up : Bool) : State :=
  { tSliced {} with
    hub := { lup := 8, links := [(3, { up := up, unanswered := [tRemote] })], routes := [(5, 3)]
             comms := [(0, { part := 0, members := [1], state := 1, rounds := [[5]] }), (1, { part := 0, members := [0], state := 1 })] }
    copies := [(5, tReduce 0 1)]
    parts := [(0, { assigned := true, epoch := 1, logical := [0, 5 * 2 ^ 14] })] }

theorem test_wit_Links :
    (tLink true).hub.links.getD 3 {} = { up := true, unanswered := [tRemote] } ∧ ((tLink false).hub.links.getD 3 {}).up = false ∧
    (tLink true).hub.comms.get? 0 = some { part := 0, members := [1], state := 1, rounds := [[5]] } ∧
    (tLink true).commUses { part := 0, members := [1], state := 1, rounds := [[5]] } 3 = true ∧
    (tLink true).commUses { part := 0, members := [0], state := 1 } 3 = false ∧
    (tLink true).copies.get? 5 = some (tReduce 0 1) ∧ tRemote.body = .access tLoad ∧
    (∀ e ∈ (tLink true).hub.comms, e.1 = 1 → e.2 = { part := 0, members := [0], state := 1 }) ∧
    answers (tMsg (.response 3 0 9 true false false false false tLoad)) tRemote = true ∧
    answers (tMsg (.access tLoad)) tRemote = false ∧
    retriedSend [tRemote] (tMsg (.response 3 0 9 true false false false false tLoad)) = none ∧
    (let q : Packet := { tMsg (.send 0 [1, 2, 3, 4] 5) with dst := 2 ^ 23 + 5 }
     retriedSend [q] (tMsg (.response 5 0 0 false false true false false default)) = some q) := by decide +kernel

theorem test_wit_Links_time :
    (-1000000 : Int) ≤ tCore.slew ∧ 0 ≤ tCore.frac ∧ tCore.parts.get? 0 = some { assigned := true, epoch := 1 } ∧
    (∀ r ∈ [((0 : Nat), (3600 : Nat))], r.1 = 0 ∧ r.2 ≤ tCore.hub.powerLimit) ∧ (2 ^ 31 - 1 : Nat) < 2 ^ 31 ∧
    tCore.patrolTag true (2 ^ 42 - 1) = none := by decide +kernel

/-! ## Witnesses: order of requests, late writes, units of the module -/

theorem test_wit_Spawning_fence :
    let s := tFenced tTask
    s.cf.reply = none ∧ 6 ∉ s.cf.waits ∧ s.fenceHolds .atomic = true ∧ (tTask.pg 5 = 0) ∧ tTask.module.toNat = 0 ∧
    (0x25 : BitVec 32).toNat / 2 ^ 14 % 2 ^ 10 = tTask.module.toNat ∧ (tTask.pg 1).toNat < 2 ^ 32 := by decide +kernel

/-- A SPAWNI, a SPAWNR and a GROW arrive at the Lamplighter of cluster 0. -/
theorem test_wit_Spawning_arrive (b : Body) :
    let p : Packet := { tMsg b with dst := 2097152 }
    let s : State := { tTask with net := [p] }
    s.packet 7 = some p ∧ s.clusterOf 0 0 1 = true ∧ p.src < 2 ^ 23 :=
  ⟨rfl, rfl, (by decide : (0 : Nat) < 2 ^ 23)⟩

theorem test_wit_FutureEntries_owner :
    let f : Future := { gen := 16, state := .pending, producer := .frame 0 }
    let s : State := tFuture .cancel f
    Arrives s (tMsg (.future .cancel 0x100000 3)) ∧ s.bad = [] ∧ (s.future 0).gen ≠ 0xF ∧ (s.future 0).owner = 0 ∧
    (s.frame 0).fut ≠ s.mkHandle 0 16 ∧ (({ s with frames := [(0, { state := .running, fut := s.mkHandle 0 16 })] } : State).frame 0).fut =
      s.mkHandle 0 16 ∧ ((tFuture (.retire 3) {}).future 0).gen = 0xF := by
  unfold Arrives; decide +kernel

theorem test_wit_JoinsAndMessages_fence :
    taskAddress ((tFenced tTask).pg 2) ≠ none ∧ (tFenced tTask).fenceHolds .atomic = true ∧ tTask.fenceHolds .atomic = false := by
  decide +kernel

/-- The mask of a copy reads sound; a command behind an access; a burst behind another, a host burst, bursts that ended badly. -/
theorem test_wit_CopyProgress_more :
    let c : Copy := { tMoving 0x100 0xF000000000000000 with after := [3], bursts := [tBurst, { tBurst with id := 7 }] }
    let s : State := { tCopying c with unperf := [3] }
    let h : Burst := { tBurst with host := true, got := some (List.replicate 8 1) }
    let w : Copy := { tMoving 0xF000000000000000 0x100 with bursts := [h] }
    let d : Copy := { tMoving 0x100 0xF000000000000000 with dead := true }
    (∃ a ∈ c.after, a ∈ s.unperf) ∧ c.bursts = tBurst :: [{ tBurst with id := 7 }] ∧ (∀ l ∈ s.late, l.id ≠ 6) ∧ tBurst.moved < tBurst.len ∧
    tBurst.len ≤ 4096 ∧ (∃ bs : List Byte, h.got = some bs ∧ bs.length = h.len) ∧ (tCopying w).copies.get? 5 = some w ∧
    isExternal w.src = false ∧ (tCopying w).hostCanWrite 0 = true ∧ ptrTag w.src = 0xF0 ∧ (tCopying d).copies.get? 5 = some d ∧
    d.dead = true ∧ tBurst.host = false ∧ ({ tBurst with err := true } : Burst).err = true := by
  refine ⟨⟨3, by decide, by decide⟩, ?_, ?_, ?_, ?_, ⟨List.replicate 8 1, by decide, by decide⟩, ?_, ?_, ?_, ?_, ?_, ?_, ?_, ?_⟩ <;>
    decide +kernel

/-- A write of a copy that has been read and not performed: 8 bytes for own-pool offset 8 of core 0, or for device memory. -/
def tLate (n : Nat) (dev : Bool) : Late :=
  { id := n, owner := 5, tag := 0, epoch := 1, core := 0, ptr := 0xF000000000000000, off := if dev then 0x100 else 8,
    data := List.replicate 8 1, device := dev }

theorem test_wit_CopyProgress_late :
    let s (ls : List Late) : State := { tCopying (tMoving 0x100 0xF000000000000000) with late := ls }
    (s [tLate 8 false]).late = [] ++ tLate 8 false :: [] ∧ (s [tLate 8 false, tLate 9 false]).late = [tLate 8 false] ++ tLate 9 false :: [] ∧
    (tLate 8 false).last = false ∧ (s []).memWf = true ∧ (s []).lateBank (tLate 8 false) = (s []).lateBank (tLate 9 false) ∧
    (tLate 8 false).off % 8 + (tLate 8 false).data.length ≤ 8 ∧ (s []).coreOf 0 0 1 = true ∧ (s []).inGap 0 8 = false ∧
    (∀ c : Copy, (s []).copies.get? 5 = some c → c.cancelled = false) := by
  refine ⟨rfl, rfl, rfl, ?_, ?_, ?_, ?_, ?_, ?_⟩
  · decide +kernel
  · decide +kernel
  · decide +kernel
  · decide +kernel
  · decide +kernel
  · intro c h
    have : c = tMoving 0x100 0xF000000000000000 := (Option.some.inj h).symm
    subst this; rfl

/-- The end of a copy whose writes stand, the order of two records, the arrival of one, and a preempted core's held record. -/
theorem test_wit_CopyProgress_records :
    let e (sh : Word) (f : Word) : Copy := { tCopy sh (some []) with ended := true, flags := f }
    let s (c : Copy) (ls : List Late) : State := { tCopying c with late := ls }
    let body : Body := .copyRecord 0 (e 0x00080001 1).record 5
    let a : State := { tCopying { e 0x00080001 1 with order := some 2 } with net := [tMsg body] }
    let u : State :=
      { a with copies := [(4, { e 0x00080001 1 with order := some 1 }), (5, { e 0x00080001 1 with order := some 2 })],
               net := [{ tMsg (.copyRecord 0 { e 0x00080001 1 with order := some 1 }.record 4) with id := 6, src := 2 ^ 20 }, tMsg body] }
    let q : State := tEnd 0x00080001 none 32 [5]
    (∃ l ∈ (s (e 0x00080001 1) [tLate 8 false]).late, l.owner = 5) ∧ (e 0x00080001 1).flags.getLsbD 0 = true ∧
    (e 0x00080001 0).flags.getLsbD 0 = false ∧ (e 0x00080001 1).order = none ∧ (e 0x00080001 1).parked = false ∧
    flTarget (e 0x00080001 1).flags = 0 ∧ flTarget 0x20 ≠ 0 ∧ Arrives a (tMsg body) ∧ a.copies.get? 7 = none ∧
    a.recordBehind { e 0x00080001 1 with order := some 2 } = false ∧ Arrives u (tMsg body) ∧
    u.copies.get? 4 = some { e 0x00080001 1 with order := some 1 } ∧
    (({ q with cores := [(0, { q.core 0 with preempted := true })] } : State).core 0).preempted = true ∧
    (q.core 0).heldRecords = 5 :: [] := by
  unfold Arrives; decide +kernel

/-- Nothing holds a CSUB; a FENCE's acquire does; a join behind a leave of its port; a leave behind its core's join. -/
theorem test_wit_Subscriptions_order :
    let g : MatchEntry := ⟨0, 0x127, 0, true, 4⟩
    let s : State := { tGroups 0 0x127 with cores := [(0, { pword := 0x8418, epoch := 1, groups := [g] })], hub := { joins := [tJoinReq] } }
    let l : LeaveReq := { tLeaveReq with id := 3 }
    let u : State := { tJoining 0 with hub := { joins := [tJoinReq], leaves := [l, { tLeaveReq with id := 9 }] } }
    (tGroups 0 0x127).subHeld = false ∧ (tFenced (tGroups 0 0x127)).subHeld = true ∧ (tGroups 0 0x127).cur.fk < 2 ^ 20 ∧
    (s.core 0).groups.find? (fun g => g.tag = 0 ∧ g.mtag = 0x127) = some g ∧ (∃ j ∈ s.hub.joins, j.id = g.join) ∧
    u.hub.joins.find? (fun x => x.id == 4) = some tJoinReq ∧ (∃ l ∈ u.hub.leaves, l.at_ = 0 ∧ l.port = 0 ∧ l.id < 4) ∧
    u.hub.leaves.find? (fun x => x.id == 9) = some { tLeaveReq with id := 9 } ∧ (∃ j ∈ u.hub.joins, j.core = 0 ∧ j.id < 9) := by
  decide +kernel

/-- A join's answer while the router's own join is on its way, at the root, and where the next router lacks its bit. -/
theorem test_wit_Subscriptions_ack :
    let r : JoinReq := { tJoinReq with at_ := 0x127, path := [(0, 0)] }
    let o : JoinReq := { tJoinReq with id := 5, at_ := 1, path := [(0, 0)] }
    let s (js : List JoinReq) : State := { tJoining 0 with hub := { joins := js } }
    (s [r]).hub.joins.find? (fun x => x.id == 4) = some r ∧ (s [r]).graftOpen r = false ∧ (s [r]).grafted r = true ∧
    (s [tJoinReq]).graftOpen tJoinReq = false ∧ (s [tJoinReq]).grafted tJoinReq = false ∧
    (s [tJoinReq, o]).graftOpen tJoinReq = true := by
  decide +kernel

theorem test_wit_Deliveries_word :
    let s (pos : NMap Nat) : State := { tCore with hub := { tiles := [{ tTile with next := pos }] }, late := [] }
    let f : Late := { tLate 8 false with full := true, last := true }
    let g : State := { tCore with late := [tLate 7 false, f] }
    ({ tTile with next := [(0, 8)] } : Tile).next.getD 0 0 = 8 ∧ (s [(0, 8)]).hub.tiles.find? (fun x => x.id == 5) = some { tTile with next := [(0, 8)] } ∧
    tTile.cores.find? (fun x => x.1 == 0) = some (0, 0x7FF8) ∧ 0 < tTile.rowb ∧ tTile.next.getD 0 0 < tTile.data.length ∧
    g.late = [tLate 7 false] ++ f :: [] ∧ f.full = true ∧ f.last = true ∧ (∃ x ∈ [tLate 7 false] ++ [], x.owner = f.owner ∧ x.core = f.core) ∧
    f.data ≠ [] ∧ f.off % 8 + f.data.length ≤ 8 ∧ g.memWf = true ∧ g.copies.get? 5 = none ∧ g.inGap 0 8 = false ∧ g.waitq = [] := by
  decide +kernel

/-- A reduce that waits: behind an earlier one of its core, and with both rounds holding its member; its words to read; two members'
contributions; a contribution of another module. -/
theorem test_wit_Deliveries_rounds :
    let s := tComm 1 [[6]] 1
    let cm := s.hub.comms.getD 0 {}
    let c := tReduce 0 1
    let u : State := { s with copies := [(4, tReduce 0 1), (5, tReduce 0 1)] }
    let b : State := { tComm 1 [[4], [3]] 1 with copies := [(3, tReduce 0 1), (4, tReduce 0 1), (5, tReduce 0 1)] }
    let body : Body := .contribution 0 1 0x140008000000 [1]
    let p : State := { tComm 1 [] 1 with net := [tMsg body] }
    u.copies.get? 4 = some (tReduce 0 1) ∧ (∀ r ∈ [[6]], 4 ∉ r) ∧ s.reduceBehind cm 5 c = false ∧
    b.contributor (b.hub.comms.getD 0 {}) 4 = some 0 ∧ b.contributor (b.hub.comms.getD 0 {}) 3 = some 0 ∧
    (b.hub.comms.getD 0 {}).rounds = [[4], [3]] ∧ b.reduceBehind (b.hub.comms.getD 0 {}) 5 c = false ∧
    ({ c with data := [] } : Copy).data.length < 8 ∧ s.commModules cm = [] ∧ c.data.length = 8 ∧ s.contributor cm 6 = some 1 ∧
    ([6] ++ [5]).Nodup ∧ cm.members.length = [6].length + 1 ∧ [6].map s.copies.get? = [tReduce 1 1].map some ∧ cm.op ≠ 3 ∧
    p.copies.get? 7 = none ∧ p.packet 7 = some (tMsg body) ∧ p.canArrive (tMsg body) = true ∧ 1 ∈ (p.hub.comms.getD 0 {}).members ∧
    (p.hub.comms.getD 0 {}).rounds = [] := by decide +kernel

theorem test_wit_TrapMessages_noPart :
    ({ tTrapMsg 4 with noPart := true } : TrapMsg).noPart = true ∧ (tTrapMsg 4).noPart = false := by decide

/-- A record whose ring's page has no translation yet, one without a place in the cause table, and one without its request's host. -/
theorem test_wit_PageRequests_ats :
    let s := tHub 1 0 true [tPageReq false false]
    let u : State := { s with vfs := [(1, { s.vf 1 with ats := true })] }
    let h : State := { s with hub := { s.hub with causes := List.replicate 256 ⟨2, 1, 0, 1, 0, 0⟩, crcb := 0 } }
    s.causeRoom = true ∧ s.hostReady 0 0x2000 = true ∧ u.causeRoom = true ∧ u.hostReady 0 0x2000 = false ∧
    u.pageReq? 8 = some (1, tPageReq false false) ∧ h.causeRoom = false ∧ (tPageReq false false).units = [] := by decide +kernel

theorem test_wit_HostCompletions_burst :
    let b := tRead (some (5, 6)) none false
    let c : Copy := { tMoving 0x100 0xF000000000000000 with bursts := [{ tBurst with host := true }] }
    (tReading b c).copies.get? 5 = some c ∧ c.bursts = { tBurst with host := true } :: [] ∧ b.copy = some (5, 6) ∧ b.unit = 0 := by
  decide +kernel

/-- A ring of partition 0 that is not translated yet, one without a control block any more, one that is full. -/
theorem test_wit_HostCompletions_rings :
    let s := tRcb 5 1 2
    let n : State := { s with hub := { s.hub with crcb := 0 } }
    let t : State := { tMap with vfs := [(1, { ats := true })] }
    s.hub.crcb ≠ 0 ∧ s.hub.crcb.toNat % 2 ^ 56 = 0x100 ∧ ¬(n.hub.crcb ≠ 0) ∧ (∀ q ∈ s.hub.hostReqs, q.unit ≠ 2 ^ 70) ∧
    t.hostReady 0 0x2000 = false ∧ (5 + 2 ^ 64 - 1) % 2 ^ 64 = 2 ^ 2 ∧ (5 + 2 ^ 64 - 2) % 2 ^ 64 ≠ 2 ^ 2 := by decide +kernel

/-- Sound and failed cores, a stopped partition, a full list of completion records, and the first cycle of a budget period. -/
theorem test_wit_Launches_more :
    let s := tLaunching [tL 0x1000 0x841800000004 false 0]
    let u : State := { s with time := 999, frac := 6999995, slew := 0 }
    (∀ k ∈ s.partCores 0, (s.core k).failed = false) ∧ (s.part 0).scrubbing = false ∧ ((tSliced { state := 1 }).part 0).state ≠ 0 ∧
    256 ≤ (List.replicate 256 (0 : Nat)).length ∧ (s.part 0).completions.length < 256 ∧
    u.time / 1000 ≠ u.tick.time / 1000 ∧ (s.parts.get? 0).isSome = true ∧
    (({ s with frames := [(0, { state := .running, waits := [12] })] } : State).frames.get? 0) = some { state := .running, waits := [12] } := by
  decide +kernel

/-- The holder's next command: with nothing before it and behind an access; while it reads; with its writes on the way. -/
theorem test_wit_ArrayRuns_begin :
    let a := tAset 0
    let s : State := tSixteen { acmds := [a] }
    let g (l : Lease) (a : ACmd) : State := { s with cores := s.cores.map (fun x => if x.1 = 0 then (0, { x.2 with acmds := [a] }) else x),
                                                     clusters := [(0, { lease := some l })], unperf := [3] }
    let b : ACmd := { a with after := [3] }
    let r (rn : ARun) : State := { tLeased tLease a with clusters := [(0, { lease := some tLease, running := some a, run := rn })] }
    isCounted a.op = true ∧ ((g tLease a).cluster 0).running = none ∧ ((g tLease a).core 0).acmds = [a] ∧
    (∀ x ∈ a.after ++ a.before, x ∉ (g tLease a).unperf) ∧ (g tLease a).hub.coreScrubs = [] ∧ ((g tLease a).core 0).preempted = false ∧
    ((g tLease b).core 0).acmds = [b] ∧ (∃ x ∈ b.after, x ∈ (g tLease b).unperf) ∧
    ((r { todo := [(0, 8)] }).cluster 0).run.todo = (0, 8) :: [] ∧ a.token = false ∧ a.orphan = false ∧
    ((r { id := 9, done := some (0, 0, 0, 0) }).cluster 0).run.done.isSome = true ∧
    (∃ x ∈ ({ r { id := 9, done := some (0, 0, 0, 0) } with late := [{ tLate 8 false with owner := 9 }] } : State).late, x.owner = 9) := by
  decide +kernel

/-- A drain of one row that fits, an ASTR of two rows whose second is not good, a row mask, and entries of each type. -/
theorem test_wit_ArrayRuns_rows :
    let d := tCmd (.adrn tOrd false .own 1 0 0 0 7 true false .planes)
    let s := tLeased { tLease with config := some (tAset 0), tile := some default } d
    let b := tCmd (.astr tOrd false .own 1 0 2 1)
    let u : State := { tLeased { tLease with config := some (tAset 0) } b with pool := [(1, 1), (8, 1), (18, 255)] }
    s.accFits 0 0 1 1 = true ∧ wdOk 0 8 = true ∧ (goodRow 0 1 (u.rowRecs b .own 0 1 (recSlot 0 1))).isSome = true ∧
    (goodRow 0 1 (u.rowRecs b .own 16 1 (recSlot 0 1))).isNone = true ∧ (0xFFFFFFFF : BitVec 32).getLsbD 1 = true ∧ (1 : Nat) ≤ 1 + 1 := by
  decide +kernel

/-- Values of a drain of each kind: 48 and more of them, the identities of the minimum and maximum entries. -/
theorem test_wit_ArrayRuns_drain :
    (∀ x ∈ [0xFFFFFFFF, 0x80000000, 5], x < 2 ^ 32) ∧ ([0xFFFFFFFF, 0x80000000, 5] : List Nat).length ≤ 256 ∧ (48 * 0 < 3) ∧
    wdOk 1 8 = true ∧ wdOk 0 8 = true ∧ wdOk 7 1 = true := by decide +kernel

theorem test_wit_Fetching_store :
    let s : State := { tLine 0x8800 0x0C108000 with bad := [(istoreErrKey 0, .lasting)] }
    s.errorAt (istoreErrKey 0) = some true ∧ (tLine 0x8800 0x0C108000).errorAt (istoreErrKey 0) ≠ some true := by decide +kernel

/-- A line to fill from the host: up, down, with bus mastering. -/
theorem test_wit_Fetching_host :
    let s (up : Bool) : State :=
      { tFilling [(0x20000, 1), (0x20002, 4), (0x40000, 0x7F)] none with hub := { tMap.hub with fills := [tFill none], hostUp := up } }
    let w (s : State) := s.walk 0 0x1000 false false
    (match w (s true) with | (u, .ok _ true _ _ _ _) => u.hub.hostUp && (u.vf 1).bme && !(u.vf 1).ats | _ => false) = true ∧
    (match w (s false) with | (u, .ok _ true _ _ _ _) => !u.hub.hostUp | _ => false) = true := by decide +kernel

/-- A dirty line of the partition that cannot be read. -/
theorem test_wit_Containment_line :
    let x : CLine := { set := 2, way := 0, tag := 0, dirty := true, old := List.replicate 64 7 }
    let s : State := { tSliced {} with geysers := [(0, { lines := [x] })] }
    let t : State := { s with bad := [(sliceKey (s.lineNumber 0 x), .lasting)] }
    0 ∈ t.partChannels 0 ∧ x ∈ (t.geyser 0).lines ∧ x.dirty = true ∧ t.bad.get? (sliceKey (t.lineNumber 0 x)) = some .lasting ∧
    t.memWf = true ∧ (tSliced {}).bad = [] := by decide +kernel

/-- A scrub of a partition that runs, without a place for its cause; translations in use and none. -/
theorem test_wit_Scrubs_waits :
    let r : Launch := tL 0x1000 0x841800000004 true 4
    let s : State := tSliced { launches := [r] }
    let u : State := { s with hub := { s.hub with causes := List.replicate 256 ⟨2, 1, 0, 1, 0, 0⟩, crcb := 0 } }
    let t : State := { tScrub 0xFFF with geysers := [(0, { gtlb := [{ tHit with inUse := 1 }] })] }
    r.running = true ∧ u.causeRoom = false ∧ s.causeRoom = true ∧ (tSliced {}).causeRoom = true ∧
    (∃ e ∈ (t.geyser 0).gtlb, e.tag = 0 ∧ e.inUse ≠ 0) ∧ (0xFFF : BitVec 32).getLsbD 6 = true ∧ (tScrub 0xFFF).tlbBusy 0 = false := by
  decide +kernel

/-- Tables that are refused: three owners of two subsets, a core twice, a schedule with one slot twice, op 3, an early offset. -/
theorem test_wit_HubTables_refused :
    let o : Owner := ⟨0, 0, 0x7FFF, 0⟩
    let s := tSliced { restoring := true }
    ¬ [o, o, o].length ≤ 2 ^ 1 ∧ (5 : BitVec 32).toNat % 2 ^ 24 = (5 : BitVec 32).toNat % 2 ^ 24 ∧
    ¬ ([(1, 2, 3), (1, 2, 4)].map (fun y : Nat × Nat × Nat => (y.1, y.2.1))).Nodup ∧
    ([(1, 2, 3), (1, 3, 3)].map (fun y : Nat × Nat × Nat => (y.1, y.2.1))).Nodup ∧ (∀ y ∈ [(1, 2, 3), (1, 3, 3)], y.1 < 1024) ∧
    ¬ (s.part 0).restoring = false ∧ (3 : BitVec 2) = 3 ∧ 4095 < 4096 := by decide +kernel

/-- Rings as a write leaves them: disabled, below the count without and with a time limit, at the count. -/
theorem test_wit_HubRegisters_ring :
    let old : Ring := { en := true, ccount := 9, pending := 3 }
    let r (c t : Nat) (e : Bool) : Ring := old.write 1 (natWord (c + t * 2 ^ 16 + e.toNat * 2 ^ 48))
    (r 9 0 false).en = false ∧ ((r 9 0 true).pending < max (r 9 0 true).ccount.toNat 1 ∧ (r 9 0 true).ctime = 0) ∧
    ((r 9 5 true).ctime ≠ 0 ∧ 0 < (r 9 5 true).pending ∧ (r 9 5 true).pending < max (r 9 5 true).ccount.toNat 1) ∧
    (max (r 2 0 true).ccount.toNat 1 ≤ (r 2 0 true).pending ∧ (r 2 0 true).en = true) ∧ (old.write 0 64).rcb = 64 ∧
    (tSliced {}).causesHeld = false := by decide +kernel

/-- A link with a packet that waits for credits, its head, a packet for the module, a repeat, and one for the next link. -/
theorem test_wit_Links_flit :
    let h : FlitHead := ⟨5, 0, false, []⟩
    let x : Packet := tMsg (.response 3 0 9 true false false false false tLoad)
    let y : Packet := { tRemote with vc := 0 }
    let s (k : Link) : State := { tLink true with hub := { (tLink true).hub with links := [(3, k)] } }
    let k (w : List Packet) : Link := { up := true, received := 5, waiting := w, unanswered := [tRemote] }
    let f : Packet := { tRemote with src := 2 ^ 23 + 9 }
    ((s (k [])).hub.links.getD 3 {}).up = true ∧ (k [y]).waiting = [y] ∧ h.ack = 0 ∧ h.credits = [] ∧ h.again = false ∧
    h.seq = (k []).received % 1024 ∧ (6 : Nat) ≠ (k []).received % 1024 ∧ x.dst < 2 ^ 23 ∧ retriedSend [tRemote] x = none ∧
    (∀ z ∈ ([] : List Packet), answers x z = false) ∧ answers x tRemote = true ∧ 2 ^ 23 ≤ f.dst ∧ 2 ^ 23 ≤ f.src ∧
    ((({ s (k []) with hub := { (tLink true).hub with links := [(4, k []), (3, { up := true })], routes := [(5, 3)] } } : State).hub.links.getD 3 {}).up = true) ∧
    (tLink true).linkTo 5 0 = 3 ∧ (tLink true).fabricHolds 0 = false ∧ (∀ z ∈ (k []).unanswered, z.src < 2 ^ 23) := by
  decide +kernel

/-- Places that patrol visits: pools, metadata, Geyser pools, lines and other storage. -/
theorem test_wit_Links_patrol :
    (2 ^ 31 - 1) / 8 < 2 ^ 28 ∧ (2 ^ 22 - 1 : Nat) < 2 ^ 22 ∧ (2 ^ 26 - 1 : Nat) < 2 ^ 26 ∧ (2 ^ 42 - 1 : Nat) < 2 ^ 42 ∧
    (tCore.hub.errors.getD 0 {}) = {} ∧ (420 : Nat) ≤ 500 ∧ (1, 8) ∈ [((1 : Nat), (8 : Nat))] ∧ (1 : Nat) ≠ tCore.module.toNat := by
  decide +kernel

/-- Two events of one bank of a deterministic core are ordered by rank; a word of an instruction store that is bad. -/
theorem test_wit_StepRunsDecoded_bank :
    let s : State := { tBase with cores := [(0, { pword := 0x8418, tag := 0, epoch := 1, det := true })],
                                  net := [tMsg (.access tLoad)], agenda := [⟨0, .portEngineMessage 7⟩] }
    s.agenda[0]? = some ⟨0, .portEngineMessage 7⟩ ∧ (s.bankAgent (.portEngineMessage 7)).isSome = true ∧ (s.core 0).det = true ∧
    tBase.bankAgent (.portEngineMessage 7) = none ∧ (tLine 0x8800 0x0C108000).errorAt (istoreErrKey (istoreOf 0)) ≠ some true := by
  decide +kernel

/-! ## Witnesses: steps and encodings -/

/-- Recovery, an input, an activity that is due, a cycle without any, and the issue of `add g3, g1, g2`. -/
theorem test_wit_StepRunsDecoded :
    let s := tLine 0x8800 0x0C108000
    ({ tCore with hub := { recovery := true } } : State).hub.recovery = true ∧ isReset (.linkDown 0) = false ∧
    isReset (.moduleReset ⟨0, true, 0⟩ 0) = true ∧ isInput (.linkDown 0) = true ∧ s.hub.recovery = false ∧ s.tape = [] ∧ s.agenda = [] ∧
    s.thisCycle = [0] ∧ s.inRotation 0 = true ∧ (s.slot 0).frame = some 0 ∧ (s.frame 0).trapPend = none ∧ s.dueSteps 0 0 = [] ∧
    (s.frame 0).waits = [] ∧ tCore.thisCycle = [] ∧ s.bad = [] ∧
    (let e : Event := ⟨0, .linkDown 0⟩
     let u : State := { tCore with agenda := [e], tape := [.pending 0] }
     u.tape = [.pending 0] ∧ u.thisCycle = [] ∧ u.agenda[0]? = some e ∧ e.notBefore ≤ u.cycle) ∧ acquires (.add ⟨false, false, false⟩ 3 1 2) = false ∧
    (match fetchBundle (lineOf 0x8800 0x0C108000) 0 false with
     | .ok b =>
       let start : State :=
         { s with thisCycle := []
                  cur := { sk := 0, fk := 0, bpc := 0, npc := 0x40, sw := b.sw, pre := s.frame 0, slot := s.slot 0 } }
       let i : Instr := .add ⟨false, false, false⟩ 3 1 2
       (start.hazardOf i).isNone && (start.firstError (start.regWords i)).isNone && fateOf i (trial start i) == .go
     | .error _ => false) = true := by decide +kernel

theorem test_wit_DecodeEncode :
    (Instr.add ⟨false, false, false⟩ 3 1 2).wf = true ∧
    encode (.add ⟨false, false, false⟩ 3 1 2) = some (0x8800, 0x0C108000) ∧ headEnd 0x8800 = true ∧
    opClass (headSlot 0x8800) (headOp 0x8800) = some (headClass 0x8800) ∧ (0x0C108000 : BitVec 64).toNat < 2 ^ (8 * classBytes (headClass 0x8800)) := by
  decide +kernel

theorem test_wit_StepKeepsMemoryForm :
    (tLine 0x8800 0x0C108000).memWf = true ∧
    (match step (tLine 0x8800 0x0C108000) with
     | .next t => t.memWf && (t.frame 0).pc == 0x40
     | _ => false) = true := by decide +kernel

/-! ## Single steps, with results worked out by hand from the rules -/

/-- A next state of which p holds. -/
def tNext (o : Host.Outcome State Fault Refusal) (p : State → Bool) : Bool :=
  match o with
  | .next t => p t
  | _ => false

/-- R227: field value 0 is no carry-in, though p0 reads as 1: 2^64 − 1 + 5 is 4 and carries out; with p1 set it is 5. -/
theorem test_step_adc :
    tNext (exec (.adc ⟨false, false, false⟩ 3 1 2 0 2) (tWith { g := [(1, 0xFFFFFFFFFFFFFFFF), (2, 5)] }))
      (fun t => (t.frame 0).rg 3 == 4 && (t.frame 0).rp 2 == 0xFFFF) = true ∧
    tNext (exec (.adc ⟨false, false, false⟩ 3 1 2 1 1) (tWith { g := [(1, 0xFFFFFFFFFFFFFFFF), (2, 5)], p := [(1, 0xFFFF)] }))
      (fun t => (t.frame 0).rg 3 == 5 && (t.frame 0).rp 1 == 0xFFFF) = true := by decide +kernel

/-- R227: 3 − 5 borrows, and the destination may be a source. -/
theorem test_step_sbc : tNext (exec (.sbc ⟨false, false, false⟩ 1 1 2 0 3) (tWith { g := [(1, 3), (2, 5)] }))
    (fun t => (t.frame 0).rg 1 == 0xFFFFFFFFFFFFFFFE && (t.frame 0).rp 3 == 0xFFFF) = true := by decide +kernel

/-- R232: bits beyond 63 do not exist: 8 bits at position 60 are the 4 bits 1001, whose sign is bit 63. -/
theorem test_step_bfx : tNext (exec (.bfx ⟨false, false, false⟩ 3 1 2 7 true) (tWith { g := [(1, 0x9000000000000000), (2, 60)] }))
    (fun t => (t.frame 0).rg 3 == 0xFFFFFFFFFFFFFFF9) = true := by decide +kernel

/-- R238, R240, R242: TRAP 0x21 with IE set at U enters the task's own vector. -/
theorem test_step_trap :
    tNext (exec (.trap 0x21) { tWith { status := 0x10 } with
        cores := [(0, { pword := 0x8418, epoch := 1, tvec := 0x5000, svec := 0x6000 })] })
      (fun t => (t.frame 0).pc == 0x5000 && (t.frame 0).ecause == 0x2113 && (t.frame 0).status == 0x60 &&
        (t.frame 0).epc == tCore.cur.bpc) = true := by decide +kernel

/-- R240: without a vector of its own the trap goes to S. -/
theorem test_step_trap_s :
    tNext (exec (.trap 0x21) { tWith { status := 0x10 } with cores := [(0, { pword := 0x8418, epoch := 1, svec := 0x6000 })] })
      (fun t => (t.frame 0).pc == 0x6000 && (t.frame 0).status == 0x61) = true := by decide +kernel

/-- R241: ERET restores what the entry saved. -/
theorem test_step_eret : tNext (exec .eret (tWith { status := 0x60, epc := 0x1000 }))
    (fun t => (t.frame 0).pc == 0x1000 && (t.frame 0).status == 0x30) = true := by decide +kernel
end

/-! ## The byte memories of a state (R22, R39, R428)

An operation leaves the four byte memories and the full/empty bits (`f_mems`), or it keeps their canonical form (`f_wf`,
`execF_nextWf`). The lemmas stand in the order of the definitions they speak of. -/

namespace Sys2Proof.Machine

/-- The four byte memories and the full/empty bits: what most operations leave alone. -/
structure Mems where
  pool : Mem
  gpool : Mem
  dev : Mem
  host : Mem
  full : NMap Unit

/-- The memories of a state. -/
def State.mems (s : State) : Mems := ⟨s.pool, s.gpool, s.dev, s.host, s.full⟩

/-- Every byte memory is in its canonical form. -/
def Mems.wf (m : Mems) : Bool := m.pool.wf && m.gpool.wf && m.dev.wf && m.host.wf

theorem State.memWf_eq (s : State) : s.memWf = s.mems.wf := rfl

@[simp] theorem State.mems_eta (s : State) : Mems.mk s.pool s.gpool s.dev s.host s.full = s.mems := rfl

@[simp] theorem State.mems_mk (cycle time : Nat) (frac slew : Int) (module : BitVec 10) (thisCycle : List Nat) (cur : Cur)
    (frames : NMap Frame) (slots : NMap Slot) (cores : NMap Core) (fifos : NMap Fifo) (futures : NMap Future)
    (clusters : NMap Cluster) (leaseRecs : NMap LeaseRec) (geysers : NMap Geyser) (parts : NMap Part) (vfs : NMap Vf)
    (routers : NMap Router) (hub : Hub) (pool gpool dev host : Mem) (full : NMap Unit) (waitq : NMap (List Waiter))
    (bad : NMap Err) (delayed : List Delayed) (tabWrites : List TabWrite) (net : List Packet) (unperf : List Nat)
    (copies : NMap Copy) (late : List Late) (agenda : List Event) (tape : List Move) (nextId free : Nat) :
    (State.mk cycle time frac slew module thisCycle cur frames slots cores fifos futures clusters leaseRecs geysers parts
      vfs routers hub pool gpool dev host full waitq bad delayed tabWrites net unperf copies late agenda tape nextId
      free).mems = ⟨pool, gpool, dev, host, full⟩ := rfl

@[simp] theorem State.mems_ite (c : Prop) [Decidable c] (s t : State) :
    (if c then s else t).mems = if c then s.mems else t.mems := apply_ite State.mems c s t

@[simp] theorem Mems.wf_ite (c : Prop) [Decidable c] (m n : Mems) :
    (if c then m else n).wf = if c then m.wf else n.wf := apply_ite Mems.wf c m n

/-- The canonical form, memory by memory. -/
@[simp] theorem Mems.wf_mk (pool gpool dev host : Mem) (full : NMap Unit) :
    (Mems.mk pool gpool dev host full).wf = (pool.wf && gpool.wf && dev.wf && host.wf) := rfl

@[simp] theorem State.pool_wf (s : State) (hs : s.mems.wf = true) : s.pool.wf = true := ((State.memWf_iff s).1 hs).1
@[simp] theorem State.gpool_wf (s : State) (hs : s.mems.wf = true) : s.gpool.wf = true := ((State.memWf_iff s).1 hs).2.1
@[simp] theorem State.dev_wf (s : State) (hs : s.mems.wf = true) : s.dev.wf = true := ((State.memWf_iff s).1 hs).2.2.1
@[simp] theorem State.host_wf (s : State) (hs : s.mems.wf = true) : s.host.wf = true := ((State.memWf_iff s).1 hs).2.2.2

@[simp] theorem mems_foldl {α : Type} {f : State → α → State} (hf : ∀ s x, (f s x).mems = s.mems) (l : List α) (s : State) :
    (l.foldl f s).mems = s.mems := by
  induction l generalizing s with
  | nil => rfl
  | cons x l ih => exact (ih _).trans (hf s x)

@[simp] theorem mems_wf_foldl {α : Type} {f : State → α → State} (hf : ∀ s x, s.mems.wf = true → (f s x).mems.wf = true)
    (l : List α) (s : State) (h : s.mems.wf = true) : (l.foldl f s).mems.wf = true := by
  induction l generalizing s with
  | nil => exact h
  | cons x l ih => exact ih _ (hf s x h)

/-- Where an instruction has a next state, its memories are in canonical form. -/
def NextWf (o : Out) : Prop := ∀ t, o = .next t → t.mems.wf = true

@[simp] theorem nextWf_next (s : State) : NextWf (.next s) ↔ s.mems.wf = true := by
  constructor
  · intro h; exact h s rfl
  · intro h t ht; cases ht; exact h

@[simp] theorem nextWf_ite (c : Prop) [Decidable c] (a b : Out) :
    NextWf (if c then a else b) ↔ if c then NextWf a else NextWf b := by split <;> rfl


/-! ### Access to the state -/

@[simp] theorem State.setFrame_mems (s : State) (fk : Nat) (f : Frame) : (s.setFrame fk f).mems = s.mems := by
  simp [State.setFrame]

@[simp] theorem State.updFrame_mems (s : State) (fk : Nat) (h : Frame → Frame) : (s.updFrame fk h).mems = s.mems := by
  simp [State.updFrame]

@[simp] theorem State.setSlot_mems (s : State) (sk : Nat) (r : Slot) : (s.setSlot sk r).mems = s.mems := by
  simp [State.setSlot]

@[simp] theorem State.updSlot_mems (s : State) (sk : Nat) (h : Slot → Slot) : (s.updSlot sk h).mems = s.mems := by
  simp [State.updSlot]

@[simp] theorem State.setCore_mems (s : State) (k : Nat) (c : Core) : (s.setCore k c).mems = s.mems := by
  simp [State.setCore]

@[simp] theorem State.updCore_mems (s : State) (k : Nat) (h : Core → Core) : (s.updCore k h).mems = s.mems := by
  simp [State.updCore]

@[simp] theorem State.updCluster_mems (s : State) (q : Nat) (h : Cluster → Cluster) :
    (s.updCluster q h).mems = s.mems := by
  simp [State.updCluster]

@[simp] theorem State.updGeyser_mems (s : State) (ch : Nat) (h : Geyser → Geyser) :
    (s.updGeyser ch h).mems = s.mems := by
  simp [State.updGeyser]

@[simp] theorem State.updPart_mems (s : State) (t : Nat) (h : Part → Part) : (s.updPart t h).mems = s.mems := by
  simp [State.updPart]

@[simp] theorem State.updVf_mems (s : State) (n : Nat) (h : Vf → Vf) : (s.updVf n h).mems = s.mems := by
  simp [State.updVf]

@[simp] theorem State.updFifo_mems (s : State) (n : Nat) (h : Fifo → Fifo) : (s.updFifo n h).mems = s.mems := by
  simp [State.updFifo]

@[simp] theorem State.updFuture_mems (s : State) (n : Nat) (h : Future → Future) :
    (s.updFuture n h).mems = s.mems := by
  simp [State.updFuture]

@[simp] theorem State.updRouter_mems (s : State) (n : Nat) (h : Router → Router) :
    (s.updRouter n h).mems = s.mems := by
  simp [State.updRouter]

@[simp] theorem State.updHub_mems (s : State) (h : Hub → Hub) : (s.updHub h).mems = s.mems := by simp [State.updHub]

@[simp] theorem State.fresh_mems (s : State) : (s.fresh).2.mems = s.mems := by simp [State.fresh]

@[simp] theorem State.draw_mems (s : State) : (s.draw).2.mems = s.mems := by simp [State.draw]

@[simp] theorem State.later_mems (s : State) (n : Nat) (i : Instr) : (s.later n i).mems = s.mems := by
  simp [State.later]

@[simp] theorem State.upd_mems (s : State) (h : Frame → Frame) : (s.upd h).mems = s.mems := by simp [State.upd]

@[simp] theorem State.setG_mems (s : State) (r : BitVec 6) (x : Word) (lat : Nat) :
    (s.setG r x lat).mems = s.mems := by
  simp [State.setG]

@[simp] theorem State.setV_mems (s : State) (r : BitVec 5) (x : VWord) (lat : Nat) :
    (s.setV r x lat).mems = s.mems := by
  simp [State.setV]

@[simp] theorem State.setP_mems (s : State) (r : BitVec 4) (x : PWord) (lat : Nat) :
    (s.setP r x lat).mems = s.mems := by
  simp [State.setP]

@[simp] theorem State.setTable_mems (s : State) (tag : Nat) (es : List (BitVec 32)) :
    (s.setTable tag es).mems = s.mems := by
  simp [State.setTable]

@[simp] theorem State.removeFailed_mems (s : State) (tag : Nat) : (s.removeFailed tag).mems = s.mems := by
  simp [State.removeFailed]

/-! ### Flags, traps and waits -/

@[simp] theorem State.sticky_mems (s : State) (b : Nat) : (s.sticky b).mems = s.mems := by simp [State.sticky]

@[simp] theorem State.stickyIf_mems (s : State) (c : Bool) (b : Nat) : (s.stickyIf c b).mems = s.mems := by
  simp [State.stickyIf]

/-! ### Memories and banks -/

@[simp] theorem State.poolWrite_wf (s : State) (k off n : Nat) (x : Word) (hs : s.mems.wf = true) :
    (s.poolWrite k off n x).mems.wf = true := s.memWf_poolWrite k off n x hs

@[simp] theorem State.setFull_wf (s : State) (k off : Nat) (b : Bool) (hs : s.mems.wf = true) :
    (s.setFull k off b).mems.wf = true := s.memWf_setFull k off b hs

@[simp] theorem State.bankAccess_wf (s : State) (k : Nat) (a : WordAcc) (hs : s.mems.wf = true) :
    (s.bankAccess k a).1.mems.wf = true := s.memWf_bankAccess k a hs

@[simp] theorem State.geyserBank_wf (s : State) (ch : Nat) (a : WordAcc) (hs : s.mems.wf = true) :
    (s.geyserBank ch a).1.mems.wf = true := s.memWf_geyserBank ch a hs

@[simp] theorem engineWrite_wf (s : State) (k0 : Nat) (tag : BitVec 10) (epoch : BitVec 6) (ptr : Word) (off : Nat)
    (bs : List Byte) (hs : s.mems.wf = true) : (engineWrite s k0 tag epoch ptr off bs).1.mems.wf = true :=
  memWf_engineWrite k0 tag epoch ptr bs s off hs

/-! ### Packets -/

@[simp] theorem State.trapMsg_mems (s : State) (e : Nat) (m : TrapMsg) : (s.trapMsg e m).mems = s.mems := by
  simp [State.trapMsg]

@[simp] theorem State.refuse_mems (s : State) (agent : Nat) (tag : BitVec 10) :
    (s.refuse agent tag).mems = s.mems := by
  simp [State.refuse]

@[simp] theorem State.refuseWords_mems (s : State) (k0 : Nat) (tag : BitVec 10) (epoch : BitVec 6) (ptr : Word)
    (off n : Nat) : (s.refuseWords k0 tag epoch ptr off n).mems = s.mems := by
  simp [State.refuseWords]

@[simp] theorem State.charge_mems (s : State) (fk cls n : Nat) : (s.charge fk cls n).mems = s.mems := by
  simp [State.charge]

@[simp] theorem State.chargeFabric_mems (s : State) (t n : Nat) : (s.chargeFabric t n).mems = s.mems := by
  simp [State.chargeFabric]

@[simp] theorem State.refusePacket_mems (s : State) (p : Packet) : (s.refusePacket p).mems = s.mems := by
  unfold State.refusePacket
  split <;> simp

@[simp] theorem State.toLink_mems (s : State) (p : Packet) : (s.toLink p).mems = s.mems := by simp [State.toLink]

@[simp] theorem State.noteFlow_mems (s : State) (fk src dst : Nat) (tag : BitVec 10) :
    (s.noteFlow fk src dst tag).mems = s.mems := by
  simp [State.noteFlow]

@[simp] theorem State.dispatchPacket_mems (s : State) (p : Packet) : (s.dispatchPacket p).mems = s.mems := by
  simp [State.dispatchPacket]

@[simp] theorem State.send_mems (s : State) (src dst vc : Nat) (tag : BitVec 10) (epoch : BitVec 6) (sender : Nat)
    (after : List Nat) (body : Body) : (s.send src dst vc tag epoch sender after body).mems = s.mems := by
  simp [State.send]

@[simp] theorem State.sendReleased_mems (s : State) (n : Nat) : (s.sendReleased n).mems = s.mems := by
  induction n generalizing s with
  | zero => rfl
  | succ n ih => simp only [State.sendReleased]; split <;> simp [ih]

@[simp] theorem State.sendFrom_mems (s : State) (fk dst vc : Nat) (after : List Nat) (body : Body) :
    (s.sendFrom fk dst vc after body).mems = s.mems := by
  simp [State.sendFrom]

@[simp] theorem State.dropPacket_mems (s : State) (id : Nat) : (s.dropPacket id).mems = s.mems := by
  simp [State.dropPacket]

@[simp] theorem State.again_mems (s : State) (i : Instr) : (s.again i).mems = s.mems := by simp [State.again]

@[simp] theorem State.performed_mems (s : State) (id : Nat) : (s.performed id).mems = s.mems := by
  simp [State.performed]

@[simp] theorem State.performedFor_mems (s : State) (src id : Nat) : (s.performedFor src id).mems = s.mems := by
  simp [State.performedFor]

@[simp] theorem State.resume_mems (s : State) (fk : Nat) : (s.resume fk).mems = s.mems := by
  unfold State.resume
  (repeat' split) <;> simp

@[simp] theorem State.returnWord_mems (s : State) (fk out part : Nat) (data : Word) (oor xpart : Bool)
    (pd : Option Bool) : (s.returnWord fk out part data oor xpart pd).mems = s.mems := by
  unfold State.returnWord
  dsimp only
  split <;> simp

@[simp] theorem State.giveWait_mems (s : State) (fk wait : Nat) (v : Word) :
    (s.giveWait fk wait v).mems = s.mems := by
  simp [State.giveWait]

@[simp] theorem State.giveReply_mems (s : State) (fk : Nat) (r : Reply) : (s.giveReply fk r).mems = s.mems := by
  simp [State.giveReply]

@[simp] theorem State.putDwords_wf (s : State) (k off : Nat) (ds : List (Word → Word)) (hs : s.mems.wf = true) :
    (s.putDwords k off ds).mems.wf = true := by
  induction ds generalizing s off with
  | nil => exact hs
  | cons d ds ih =>
    exact ih _ _ (s.draw.2.memWf_pool _ (Mem.wf_setDword _ _ _ ((State.memWf_iff s).1 hs).1) hs)

@[simp] theorem State.parkMessage_wf (s : State) (k : Nat) (p : Packet) (hs : s.mems.wf = true) :
    (s.parkMessage k p).mems.wf = true := by
  simp only [State.parkMessage]
  split
  · exact State.putDwords_wf _ _ _ _ (by simpa using hs)
  · simpa using hs

@[simp] theorem State.transient_mems (s : State) (die key : Nat) : (s.transient die key).mems = s.mems := by
  simp [State.transient]

@[simp] theorem State.healAt_mems (s : State) (e : Nat) (err : Option (Nat × Bool)) :
    (s.healAt e err).mems = s.mems := by
  unfold State.healAt
  split <;> simp

@[simp] theorem State.lasting_mems (s : State) (e : Nat) (tag : BitVec 10) (va : Nat) (page : Option Nat)
    (noPart : Bool) : (s.lasting e tag va page noPart).mems = s.mems := by
  simp [State.lasting]

@[simp] theorem State.wordsSound_mems (s : State) (tag : BitVec 10) (ks : List Nat) :
    (s.wordsSound tag ks).1.mems = s.mems := by
  induction ks generalizing s with
  | nil => rfl
  | cons k ks ih => simp only [State.wordsSound]; split <;> simp [ih]

@[simp] theorem State.respond_mems (s : State) (me : Nat) (src sender : Nat) (tag : BitVec 10) (epoch : BitVec 6)
    (out part : Nat) (data : Word) (oor xpart retry parked ecc : Bool) (a : WordAcc) :
    (s.respond me src sender tag epoch out part data oor xpart retry parked ecc a).mems = s.mems := by
  simp [State.respond]

@[simp] theorem State.parkGrant_wf (s : State) (k fk wait : Nat) (v : Word) (hs : s.mems.wf = true) :
    (s.parkGrant k fk wait v).mems.wf = true := by
  simp [State.parkGrant, hs]

@[simp] theorem State.answerWaiter_wf (s : State) (k : Nat) (w : Waiter) (v : Word) (hs : s.mems.wf = true) :
    (s.answerWaiter k w v).mems.wf = true := by
  unfold State.answerWaiter
  split <;> simp [hs]

@[simp] theorem State.setWaiters_mems (s : State) (key : Nat) (ws : List Waiter) :
    (s.setWaiters key ws).mems = s.mems := by
  simp [State.setWaiters]

@[simp] theorem State.failWaiter_mems (s : State) (k off key : Nat) (w : Waiter) :
    (s.failWaiter k off key w).mems = s.mems := by
  unfold State.failWaiter
  split <;> simp

@[simp] theorem State.feServe_wf (s : State) (k off n : Nat) (hs : s.mems.wf = true) :
    (s.feServe k off n).mems.wf = true := by
  induction n generalizing s with
  | zero => exact hs
  | succ n ih =>
    simp only [State.feServe]
    split
    · exact hs
    · split
      · exact hs
      · split <;> exact ih _ (by simp [hs])

@[simp] theorem State.serve_wf (s : State) (k off : Nat) (hs : s.mems.wf = true) : (s.serve k off).mems.wf = true :=
  s.feServe_wf k off _ hs

@[simp] theorem State.bankServe_wf (s : State) (k : Nat) (a : WordAcc) (hs : s.mems.wf = true) :
    (s.bankServe k a).1.mems.wf = true := by
  unfold State.bankServe
  split <;> simp [hs]

@[simp] theorem State.enqueueWaiter_mems (s : State) (k off : Nat) (w : Waiter) :
    (s.enqueueWaiter k off w).mems = s.mems := by
  simp [State.enqueueWaiter]

@[simp] theorem State.dropWaiters_mems (s : State) (fk : Nat) : (s.dropWaiters fk).mems = s.mems := by
  simp [State.dropWaiters]

@[simp] theorem State.withdrawRemote_mems (s : State) (fk : Nat) : (s.withdrawRemote fk).mems = s.mems := by
  simp [State.withdrawRemote]

@[simp] theorem fifoEnter_mems (s : State) (n : Nat) (u : FifoWaiter) : (fifoEnter s n u).mems = s.mems := by
  simp [fifoEnter]

@[simp] theorem fifoLeave_mems (s : State) (n : Nat) (o : FifoWaiter) (x : Word) (xs : List Word) :
    (fifoLeave s n o x xs).mems = s.mems := by
  simp [fifoLeave]

@[simp] theorem fifoPass_mems (s : State) (n : Nat) (u o : FifoWaiter) : (fifoPass s n u o).mems = s.mems := by
  simp [fifoPass]

@[simp] theorem fifoStep_mems (s : State) (n : Nat) : (fifoStep s n).mems = s.mems := by
  unfold fifoStep
  dsimp only
  (repeat' split) <;> simp

@[simp] theorem State.fifoJoin_mems (s : State) (n : Nat) (w : FifoWaiter) : (s.fifoJoin n w).mems = s.mems := by
  simp [State.fifoJoin]

@[simp] theorem State.dropFifoWaits_mems (s : State) (fk : Nat) : (s.dropFifoWaits fk).mems = s.mems := by
  simp [State.dropFifoWaits]

@[simp] theorem State.fifosTick_mems (s : State) : (s.fifosTick).mems = s.mems := by simp [State.fifosTick]

@[simp] theorem State.setMail_mems (s : State) (fk : Nat) (m : List MailEntry) : (s.setMail fk m).mems = s.mems := by
  simp [State.setMail]

theorem State.popMail_mems (s : State) (fk : Nat) {x : Word × State} (hx : s.popMail fk = some x) :
    x.2.mems = s.mems := by
  unfold State.popMail at hx
  split at hx
  · cases hx
  · dsimp only at hx; split at hx <;> cases hx <;> simp

theorem State.popToken_mems (s : State) (fk : Nat) {x : Word × State} (hx : s.popToken fk = some x) :
    x.2.mems = s.mems := by
  unfold State.popToken at hx
  split at hx <;> cases hx
  simp

@[simp] theorem State.wakeMail_mems (s : State) (fk : Nat) : (s.wakeMail fk).mems = s.mems := by
  unfold State.wakeMail
  split
  · rfl
  · split
    · rfl
    · rename_i hx; simpa using s.popMail_mems fk hx

@[simp] theorem State.wakeToken_mems (s : State) (fk : Nat) : (s.wakeToken fk).mems = s.mems := by
  unfold State.wakeToken
  split
  · rfl
  · split
    · rfl
    · rename_i hx; simpa using s.popToken_mems fk hx

/-! ### Shared forms of operations -/

@[simp] theorem State.retry_mems (s : State) : (s.retry).mems = s.mems := by simp [State.retry]

@[simp] theorem State.parkInPlace_mems (s : State) : (s.parkInPlace).mems = s.mems := by simp [State.parkInPlace]

@[simp] theorem State.parkMarker_mems (s : State) : (s.parkMarker).mems = s.mems := by simp [State.parkMarker]

@[simp] theorem State.addWait_mems (s : State) (w : Nat) : (s.addWait w).mems = s.mems := by simp [State.addWait]

@[simp] theorem State.jump_mems (s : State) (t : Word) : (s.jump t).mems = s.mems := by simp [State.jump]

@[simp] theorem State.releaseSlot_mems (s : State) (fk : Nat) : (s.releaseSlot fk).mems = s.mems := by
  unfold State.releaseSlot
  split <;> simp

@[simp] theorem State.makeResumable_mems (s : State) (fk : Nat) : (s.makeResumable fk).mems = s.mems := by
  simp [State.makeResumable]

@[simp] theorem State.wakeThread_mems (s : State) (fk out : Nat) (r : Reply) :
    (s.wakeThread fk out r).mems = s.mems := by
  simp [State.wakeThread]

@[simp] theorem wakeOne_mems (q : Nat) (tag : BitVec 10) (r : Reply) (s : State) (a : Asker) :
    (wakeOne q tag r s a).mems = s.mems := by
  simp [wakeOne]

@[simp] theorem State.noteFinal_mems (s : State) (p : Producer) (h : Word) (st : FState) :
    (s.noteFinal p h st).mems = s.mems := by
  unfold State.noteFinal
  split <;> simp

@[simp] theorem State.settle_mems (s : State) (key : Nat) (st : FState) (v : Word) :
    (s.settle key st v).mems = s.mems := by
  simp [State.settle]

@[simp] theorem State.freeFuture_mems (s : State) (key : Nat) : (s.freeFuture key).mems = s.mems := by
  simp [State.freeFuture]

@[simp] theorem State.retireEntry_mems (s : State) (h : Word) (st : FState) (v : Word) :
    (s.retireEntry h st v).mems = s.mems := by
  simp [State.retireEntry]

@[simp] theorem State.endArray_mems (s : State) (fk : Nat) : (s.endArray fk).mems = s.mems := by simp [State.endArray]

@[simp] theorem State.dropAlease_mems (s : State) (fk : Nat) : (s.dropAlease fk).mems = s.mems := by
  simp [State.dropAlease]

@[simp] theorem State.withdraw_mems (s : State) (fk : Nat) : (s.withdraw fk).mems = s.mems := by simp [State.withdraw]

@[simp] theorem State.countLive_mems (s : State) (tag : BitVec 10) (lseq : Nat) :
    (s.countLive tag lseq).mems = s.mems := by
  simp [State.countLive]

@[simp] theorem State.countEnd_mems (s : State) (tag : BitVec 10) (lseq : Nat) (st : FState) :
    (s.countEnd tag lseq st).mems = s.mems := by
  simp [State.countEnd]

@[simp] theorem State.sendJoin_mems (s : State) (src : Nat) (tag : BitVec 10) (epoch : BitVec 6) (sender : Nat)
    (join : Word) (final : FState) (lane : Option Nat) :
    (s.sendJoin src tag epoch sender join final lane).mems = s.mems := by
  simp [State.sendJoin]

@[simp] theorem State.endReached_mems (s : State) (id : Nat) (st : Option FState) :
    (s.endReached id st).mems = s.mems := by
  unfold State.endReached
  split <;> simp

@[simp] theorem State.endFuture_mems (s : State) (src : Nat) (q : Nat) (tag : BitVec 10) (epoch : BitVec 6)
    (sender : Nat) (fut join : Word) (lane : Option Nat) (lseq : Nat) (noted : Option FState) (st : FState)
    (v : Word) : (s.endFuture src q tag epoch sender fut join lane lseq noted st v).mems = s.mems := by
  simp [State.endFuture]

@[simp] theorem State.retireTask_mems (s : State) (fk : Nat) (st : FState) (v : Word) (keep : Bool) :
    (s.retireTask fk st v keep).mems = s.mems := by
  simp [State.retireTask]

@[simp] theorem State.stopGeyser_mems (s : State) (fk : Nat) (st : BitVec 2) (cause : BitVec 8) :
    (s.stopGeyser fk st cause).mems = s.mems := by
  simp [State.stopGeyser]

@[simp] theorem State.unhandled_mems (s : State) (fk : Nat) (cause detail : BitVec 8) :
    (s.unhandled fk cause detail).mems = s.mems := by
  simp [State.unhandled]

@[simp] theorem State.enterTrap_mems (s : State) (fk : Nat) (t : TrapRec) : (s.enterTrap fk t).mems = s.mems := by
  unfold State.enterTrap
  split <;> simp

@[simp] theorem State.trap_mems (s : State) (t : TrapRec) : (s.trap t).mems = s.mems := by simp [State.trap]

@[simp] theorem State.illegal_mems (s : State) (eval : Word) : (s.illegal eval).mems = s.mems := by
  simp [State.illegal]

@[simp] theorem State.trapReturn_mems (s : State) : (s.trapReturn).mems = s.mems := by simp [State.trapReturn]

@[simp] theorem State.hold_mems (s : State) (wait : Nat) (v : Word) : (s.hold wait v).mems = s.mems := by
  simp [State.hold]

@[simp] theorem State.awaitRelease_mems (s : State) : (s.awaitRelease).mems = s.mems := by simp [State.awaitRelease]

@[simp] theorem State.fifoOp_mems (s : State) (wait n : Nat) (v : Option Word) :
    (s.fifoOp wait n v).mems = s.mems := by
  simp [State.fifoOp]

@[simp] theorem State.acquirePop_mems (s : State) (wait n : Nat) : (s.acquirePop wait n).mems = s.mems := by
  unfold State.acquirePop
  split
  · rfl
  · split
    · split
      · rename_i hx; simpa using s.popMail_mems _ hx
      · simp
    · split
      · split
        · rename_i hx; simpa using s.popToken_mems _ hx
        · simp
      · simp

@[simp] theorem State.acquirePush_mems (s : State) (wait n : Nat) (v : Word) :
    (s.acquirePush wait n v).mems = s.mems := by
  simp [State.acquirePush]

/-! ### Translation and device memory -/

@[simp] theorem State.leaveSlice_mems (s : State) (ch : Nat) (l : CLine) : (s.leaveSlice ch l).mems = s.mems := by
  simp [State.leaveSlice]

@[simp] theorem State.evict_mems (s : State) (tag pa : Nat) (cacheable : Bool) :
    (s.evict tag pa cacheable).mems = s.mems := by
  unfold State.evict
  dsimp only
  (repeat' split) <;> simp

@[simp] theorem State.cacheTouch_mems (s0 : State) (tag pa : Nat) (cacheable write : Bool) :
    (s0.cacheTouch tag pa cacheable write).mems = s0.mems := by
  unfold State.cacheTouch
  dsimp only
  split <;> simp

/-- The A and D bits that a walk sets are a write of one dword of a page table. -/
@[simp] theorem walkLeaf_wf (s : State) (tag va : Nat) (write quiet : Bool) (level ea pte : Nat)
    (hs : s.mems.wf = true) : 
    (walkLeaf s tag va write quiet level ea pte).1.mems.wf = true := by
  have hdev (x : Word) : State.memWf
      { s.cacheTouch tag ea true true with dev := (s.cacheTouch tag ea true true).dev.setDword ea x } = true := by
    have hc : (s.cacheTouch tag ea true true).memWf = true := by simpa [State.memWf_eq] using hs
    exact State.memWf_dev _ _ (Mem.wf_setDword _ _ _ ((State.memWf_iff _).1 hc).2.2.1) hc
  unfold walkLeaf
  extract_lets want s0 s1 base off block
  have h1 : s1.mems.wf = true := by
    simp only [s1]
    split
    · exact hs
    · exact hdev _
  (repeat' split) <;> assumption

@[simp] theorem State.deviceSound_mems (s : State) (tag : BitVec 10) (pa n va : Nat) :
    (s.deviceSound tag pa n va).1.mems = s.mems := by
  unfold State.deviceSound
  split <;> simp

@[simp] theorem walkFrom_wf (s : State) (tag va : Nat) (write quiet : Bool) (table level n : Nat)
    (hs : s.mems.wf = true) : 
    (walkFrom s tag va write quiet table level n).1.mems.wf = true := by
  induction n generalizing s table level with
  | zero => exact hs
  | succ n ih =>
    simp only [walkFrom]
    (repeat' split) <;> simp [hs, ih]

@[simp] theorem State.walk_wf (s : State) (tag va : Nat) (write quiet : Bool) (hs : s.mems.wf = true) :
    (s.walk tag va write quiet).1.mems.wf = true := walkFrom_wf s tag _ write quiet _ 0 3 hs

@[simp] theorem State.reportIsol_mems (s : State) (agent tag : Nat) (w : WalkEnd) :
    (s.reportIsol agent tag w).mems = s.mems := by
  simp [State.reportIsol]

@[simp] theorem State.translate_wf (s : State) (ch tag va : Nat) (write : Bool) (hs : s.mems.wf = true) :
    (s.translate ch tag va write).1.mems.wf = true := by
  unfold State.translate
  dsimp only
  (repeat' split) <;> simp [hs]

@[simp] theorem State.useEntry_mems (s : State) (ch id : Nat) (up : Bool) : (s.useEntry ch id up).mems = s.mems := by
  simp [State.useEntry]

@[simp] theorem State.devRead_mems (s : State) (tag pa n : Nat) (c : Bool) :
    (s.devRead tag pa n c).1.mems = s.mems := by
  simp [State.devRead]

@[simp] theorem State.writeThrough_mems (s : State) (tag pa : Nat) (bs : List Byte) (l : Nat) :
    (s.writeThrough tag pa bs l).mems = s.mems := by
  unfold State.writeThrough
  split <;> simp

@[simp] theorem State.devWrite_wf (s : State) (tag pa : Nat) (bs : List Byte) (c : Bool) (hs : s.mems.wf = true) :
    (s.devWrite tag pa bs c).mems.wf = true := by
  have hdev (t : State) (ht : t.mems = s.mems) : State.memWf { t with dev := t.dev.setBytes pa bs } = true := by
    have hw : t.memWf = true := by rw [State.memWf_eq, ht]; exact hs
    exact t.memWf_dev _ (Mem.wf_setBytes _ _ _ ((State.memWf_iff t).1 hw).2.2.1) hw
  unfold State.devWrite
  dsimp only
  refine hdev (ite _ _ _) ?_
  simp

@[simp] theorem State.askAts_mems (s : State) (tag va : Nat) (write : Bool) (copy : Option Nat) (frame : Option Nat)
    (unit : Nat) : (s.askAts tag va write copy frame unit).mems = s.mems := by
  simp [State.askAts]

@[simp] theorem State.askHost_mems (s : State) (id tag va len : Nat) (copy : Option (Nat × Nat)) (frame : Option Nat)
    (chan gent : Nat) (eval : Word) (unit : Nat) :
    (s.askHost id tag va len copy frame chan gent eval unit).mems = s.mems := by
  simp [State.askHost]

@[simp] theorem State.useAts_mems (s : State) (id : Nat) (up : Bool) : (s.useAts id up).mems = s.mems := by
  simp [State.useAts]

/-! ### Allocation -/

@[simp] theorem State.allocEntry_mems (s : State) (key : Nat) (tag : BitVec 10) (dropped : Bool) (p : Producer) :
    (s.allocEntry key tag dropped p).mems = s.mems := by
  simp [State.allocEntry]

@[simp] theorem State.reply_mems (s : State) (src : Nat) (tag : BitVec 10) (a : Asker) (r : Reply)
    (xpart oor : Bool) : (s.reply src tag a r xpart oor).mems = s.mems := by
  simp [State.reply]

@[simp] theorem State.answer_mems (s : State) (src fk out : Nat) (r : Reply) (xpart : Bool) :
    (s.answer src fk out r xpart).mems = s.mems := by
  simp [State.answer]

@[simp] theorem State.deliverAnswer_mems (s : State) (fk out : Nat) (r : Reply) (xpart oor : Bool) :
    (s.deliverAnswer fk out r xpart oor).mems = s.mems := by
  unfold State.deliverAnswer
  (repeat' split) <;> simp

@[simp] theorem State.enqueue_mems (s : State) (q : Nat) (t : Task) : (s.enqueue q t).mems = s.mems := by
  simp [State.enqueue]

@[simp] theorem State.endQueued_mems (s : State) (q : Nat) (t : Task) (st : FState) (v : Word) :
    (s.endQueued q t st v).mems = s.mems := by
  simp [State.endQueued]

@[simp] theorem State.createTask_mems (s : State) (q key : Nat) (t : Task) (dropped : Bool) :
    (s.createTask q key t dropped).mems = s.mems := by
  simp [State.createTask]

@[simp] theorem setRecordDword_wf (s : State) (tag : BitVec 10) (epoch : BitVec 6) (core : Nat) (ptr : Word) (o : Nat)
    (x : Word)
    (hs : s.mems.wf = true) : (setRecordDword s tag epoch core ptr o x).mems.wf = true := engineWrite_wf s _ _ _ _ _ _ hs

@[simp] theorem joiniFinish_wf (s : State) (q k : Nat) (tag : BitVec 10) (count : BitVec 32) (prio : BitVec 2)
    (lseq : Nat) (ptr : Word) (a : Asker) (core : Nat) (hs : s.mems.wf = true) :
    (joiniFinish s q k tag count prio lseq ptr a core).mems.wf = true := by
  simp [joiniFinish, hs]

@[simp] theorem State.finishAlloc_wf (s : State) (q : Nat) (tag : BitVec 10) (keys : List Nat) (w : AllocFor)
    (hs : s.mems.wf = true) : (s.finishAlloc q tag keys w).mems.wf = true := by
  unfold State.finishAlloc
  split <;> simp [hs]

@[simp] theorem State.refuseAlloc_mems (s : State) (q : Nat) (tag : BitVec 10) (cause : BitVec 8) (w : AllocFor) :
    (s.refuseAlloc q tag cause w).mems = s.mems := by
  unfold State.refuseAlloc
  split <;> simp

@[simp] theorem State.allocate_wf (s : State) (q : Nat) (tag : BitVec 10) (prio : BitVec 2) (n : Nat)
    (slots spills : Bool) (w : AllocFor) (hs : s.mems.wf = true) :
    (s.allocate q tag prio n slots spills w).mems.wf = true := by
  unfold State.allocate
  split <;> simp [hs]

@[simp] theorem State.spillPlace_wf (s : State) (tag key gen : Nat) (write : Bool) (hs : s.mems.wf = true) :
    (s.spillPlace tag key gen write).1.mems.wf = true := by
  unfold State.spillPlace
  dsimp only
  (repeat' split) <;> simp [hs]

@[simp] theorem spillPlaces_wf (tag : Nat) (s : State) (ks : List Nat) (hs : s.mems.wf = true) :
    (spillPlaces tag s ks).1.mems.wf = true := by
  induction ks generalizing s with
  | nil => exact hs
  | cons k ks ih =>
    have hp := s.spillPlace_wf tag k (s.future k).gen true hs
    simp only [spillPlaces]
    split
    · exact ih s hs
    · split
      · rename_i he; rw [he] at hp; exact ih _ hp
      · rename_i he; rw [he] at hp; exact hp

@[simp] theorem spillOne_wf (tag : Nat) (s : State) (x : Nat × Trans) (hs : s.mems.wf = true) :
    (spillOne tag s x).mems.wf = true := by
  simp only [spillOne, State.updFuture_mems]
  split
  · simp only [State.mems_mk, Mems.wf_mk, State.pool_wf, State.gpool_wf, State.dev_wf, hs, Bool.true_and]
    exact Mem.wf_setBytes _ _ _ (s.host_wf hs)
  · exact State.devWrite_wf _ _ _ _ _ hs

@[simp] theorem foldl_spillOne_wf (tag : Nat) (l : List (Nat × Trans)) (s : State) (hs : s.mems.wf = true) :
    (l.foldl (spillOne tag) s).mems.wf = true := mems_wf_foldl (fun _ _ ht => spillOne_wf tag _ _ ht) l s hs

@[simp] theorem State.unreserve_mems (s : State) (sp : Spill) : (s.unreserve sp).mems = s.mems := by
  simp [State.unreserve]

@[simp] theorem State.spillRefused_wf (s : State) (sp : Spill) (w : AllocFor) (hs : s.mems.wf = true) :
    (s.spillRefused sp w).mems.wf = true := by
  simp [State.spillRefused, hs]

theorem execSpillWriteCompletion_nextWf (id : Nat) (s : State) (hs : s.mems.wf = true) :
    NextWf (execSpillWriteCompletion id s) := by
  unfold execSpillWriteCompletion
  split
  · rename_i sp w _ _
    have hp := spillPlaces_wf sp.tag.toNat s sp.entries hs
    dsimp only
    split
    · simp [hs]
    · split <;> rename_i he <;> rw [he] at hp
      · refine (nextWf_next _).2 (State.finishAlloc_wf _ _ _ _ _ (foldl_spillOne_wf _ _ _ ?_))
        simpa using hp
      all_goals simp [hp]
  · simpa using hs

@[simp] theorem State.spillAnswer_mems (s : State) (sp : Spill) (r : Reply) : (s.spillAnswer sp r).mems = s.mems := by
  simp [State.spillAnswer]

theorem execSpillReadCompletion_nextWf (id : Nat) (s : State) (hs : s.mems.wf = true) :
    NextWf (execSpillReadCompletion id s) := by
  unfold execSpillReadCompletion
  split
  · simpa using hs
  · rename_i sp _
    have hp := s.spillPlace_wf sp.tag.toNat (handleKey sp.handle) (handleGen sp.handle) false hs
    dsimp only
    split
    · simp [hs]
    · split <;> (rename_i he; rw [he] at hp; simp [hp])

/-! ### Operands -/

@[simp] theorem g3Pops_mems (s : State) (q : QFlags) (ra rb : BitVec 6) : (g3Pops s q ra rb).mems = s.mems := by
  simp [g3Pops]

@[simp] theorem g3Acquire_mems (s : State) (q : QFlags) (rd ra rb : BitVec 6) (res : Word → Word → Word) :
    (g3Acquire s q rd ra rb res).mems = s.mems := by
  simp [g3Acquire]

/-- A three-register operation whose effect beside its result leaves the memories does so as well. -/
theorem g3_nextWf (s : State) (q : QFlags) (rd ra rb : BitVec 6) (lat : Nat) (res : Word → Word → Word)
    (eff : Word → Word → State → State) (heff : ∀ a b t, (eff a b t).mems = t.mems) (hs : s.mems.wf = true) :
    NextWf (g3 s q rd ra rb lat res eff) := by
  rcases g3_cases s q rd ra rb lat res eff with ⟨t, -, he⟩ | ⟨-, -, he⟩ | ⟨-, -, -, he⟩ | ⟨-, -, -, he⟩ <;>
    rw [he] <;> simp [heff, hs]

@[simp] theorem noEff_mems (a b : Word) (s : State) : (noEff a b s).mems = s.mems := rfl

/-! ### System registers -/

theorem execCrd_nextWf (rd : BitVec 6) (num : BitVec 12) (s : State) (hs : s.mems.wf = true) :
    NextWf (execCrd rd num s) := by
  unfold execCrd
  split <;> simp [hs]

@[simp] theorem State.updCurSlot_mems (s : State) (h : Slot → Slot) : (s.updCurSlot h).mems = s.mems := by
  simp [State.updCurSlot]

@[simp] theorem State.setVec_mems (s : State) (svec : Bool) (x : Word) : (s.setVec svec x).mems = s.mems := by
  simp [State.setVec]

@[simp] theorem State.setTimer_mems (s : State) (x : Word) : (s.setTimer x).mems = s.mems := by simp [State.setTimer]

@[simp] theorem State.setEwt_mems (s : State) (x : Word) : (s.setEwt x).mems = s.mems := by simp [State.setEwt]

@[simp] theorem cwrEffect_mems (s : State) (n : Nat) (x : Word) : (cwrEffect s n x).mems = s.mems := by
  unfold cwrEffect
  split <;> simp

theorem execCwr_nextWf (ra : BitVec 6) (num : BitVec 12) (s : State) (hs : s.mems.wf = true) :
    NextWf (execCwr ra num s) := by
  unfold execCwr
  split <;> simp [hs]

theorem execTrap_nextWf (fn : BitVec 8) (s : State) (hs : s.mems.wf = true) : NextWf (execTrap fn s) := by
  simpa [execTrap] using hs

theorem execDbrk_nextWf (s : State) (hs : s.mems.wf = true) : NextWf (execDbrk s) := by simpa [execDbrk] using hs

theorem execEret_nextWf (s : State) (hs : s.mems.wf = true) : NextWf (execEret s) := by simpa [execEret] using hs

theorem execTime_nextWf (rd : BitVec 6) (s : State) (hs : s.mems.wf = true) : NextWf (execTime rd s) := by
  simpa [execTime] using hs

theorem execHalt_nextWf (s : State) (hs : s.mems.wf = true) : NextWf (execHalt s) := by
  unfold execHalt
  (repeat' split) <;> simp [hs]

@[simp] theorem State.addOut_mems (s : State) (o : Outst) : (s.addOut o).mems = s.mems := by simp [State.addOut]

theorem execFlushi_nextWf (line : Bool) (ra : BitVec 6) (s : State) (hs : s.mems.wf = true) :
    NextWf (execFlushi line ra s) := by
  unfold execFlushi
  split <;> simp [hs]

theorem execScrub_nextWf (rd : BitVec 6) (fn : BitVec 3) (s : State) (hs : s.mems.wf = true) :
    NextWf (execScrub rd fn s) := by
  unfold execScrub
  split <;> simp [hs]

theorem execTabw_nextWf (fn : BitVec 2) (x : BitVec 8) (ra : BitVec 6) (s : State) (hs : s.mems.wf = true) :
    NextWf (execTabw fn x ra s) := by
  simpa [execTabw] using hs

theorem execTabr_nextWf (fn : BitVec 2) (x : BitVec 8) (rd : BitVec 6) (s : State) (hs : s.mems.wf = true) :
    NextWf (execTabr fn x rd s) := by
  simpa [execTabr] using hs

/-! ### Loads and stores -/

@[simp] theorem State.clampScope_mems (s : State) (scope : Nat) : (s.clampScope scope).mems = s.mems := by
  simp [State.clampScope]

@[simp] theorem State.chargeAcc_mems (s : State) (own : Bool) (places : List (Nat × Nat)) :
    (s.chargeAcc own places).mems = s.mems := by
  simp [State.chargeAcc]

@[simp] theorem State.issueOwn_mems (s : State) (op : AccOp) (d : Dec) (n : Nat) (lo hi : Word) (dst : Option Nat) :
    (s.issueOwn op d n lo hi dst).mems = s.mems := by
  unfold State.issueOwn
  split <;> simp

@[simp] theorem sendWord_mems (fk out : Nat) (after : List Nat) (s : State) (x : (Nat × Nat) × WordAcc) :
    (sendWord fk out after s x).mems = s.mems := by
  simp [sendWord]

@[simp] theorem State.issueRemote_mems (s : State) (op : AccOp) (kind : OutKind) (cls : AccClass) (d : Dec) (n : Nat)
    (lo hi expect : Word) (dst : Option Nat) (after : List Nat) (acquire fe : Bool) :
    (s.issueRemote op kind cls d n lo hi expect dst after acquire fe).mems = s.mems := by
  simp [State.issueRemote]

@[simp] theorem State.eccTrap_mems (s : State) (key : Nat) : (s.eccTrap key).mems = s.mems := by
  unfold State.eccTrap
  split <;> simp

@[simp] theorem State.heal_mems (s : State) (e : Option (Nat × Bool)) : (s.heal e).mems = s.mems := by
  unfold State.heal
  split <;> simp

@[simp] theorem plainAccess_nextWf (s : State) (op : AccOp) (cls : AccClass) (am : AMode) (sum : Word) (n : Nat)
    (lo hi : Word) (dst : Option Nat) (hs : s.mems.wf = true) : NextWf (plainAccess s op cls am sum n lo hi dst) := by
  unfold plainAccess
  (repeat' split) <;> simp [hs]

theorem execLd_nextWf (rt rb : BitVec 6) (am : AMode) (sz : Size) (off : BitVec 16) (s : State)
    (hs : s.mems.wf = true) : NextWf (execLd rt rb am sz off s) := by
  simp [execLd, hs]

theorem execSt_nextWf (rt rb : BitVec 6) (am : AMode) (sz : Size) (off : BitVec 16) (s : State)
    (hs : s.mems.wf = true) : NextWf (execSt rt rb am sz off s) := by
  simp [execSt, hs]

theorem execVld_nextWf (vt : BitVec 5) (rb : BitVec 6) (am : AMode) (off : BitVec 16) (s : State)
    (hs : s.mems.wf = true) : NextWf (execVld vt rb am off s) := by
  simp [execVld, hs]

theorem execVst_nextWf (vt : BitVec 5) (rb : BitVec 6) (am : AMode) (off : BitVec 16) (s : State)
    (hs : s.mems.wf = true) : NextWf (execVst vt rb am off s) := by
  simp [execVst, hs]

@[simp] theorem feAcquire_wf (s : State) (op : AccOp) (d : Dec) (n : Nat) (data : Word) (hs : s.mems.wf = true) :
    (feAcquire s op d n data).mems.wf = true := by
  simp [feAcquire, hs]

@[simp] theorem feAccess_nextWf (s : State) (op : AccOp) (am : AMode) (sum : Word) (n : Nat) (data : Word)
    (dst : Option (BitVec 6)) (hs : s.mems.wf = true) : NextWf (feAccess s op am sum n data dst) := by
  unfold feAccess
  (repeat' split) <;> simp [hs]

theorem execLds_nextWf (rt rb : BitVec 6) (am : AMode) (sz : Size) (off : BitVec 16) (s : State)
    (hs : s.mems.wf = true) : NextWf (execLds rt rb am sz off s) := by
  simp [execLds, hs]

theorem execLdsp_nextWf (rt rb : BitVec 6) (am : AMode) (sz : Size) (off : BitVec 16) (s : State)
    (hs : s.mems.wf = true) : NextWf (execLdsp rt rb am sz off s) := by
  simp [execLdsp, hs]

theorem execSts_nextWf (rt rb : BitVec 6) (am : AMode) (sz : Size) (off : BitVec 16) (s : State)
    (hs : s.mems.wf = true) : NextWf (execSts rt rb am sz off s) := by
  simp [execSts, hs]

@[simp] theorem feset_nextWf (s : State) (op : AccOp) (am : AMode) (sum : Word) (n : Nat) (hs : s.mems.wf = true) :
    NextWf (feset s op am sum n) := by
  unfold feset
  split <;> simp [hs]

theorem execFesetFull_nextWf (rb : BitVec 6) (am : AMode) (sz : Size) (off : BitVec 16) (s : State)
    (hs : s.mems.wf = true) : NextWf (execFesetFull rb am sz off s) := by
  simp [execFesetFull, hs]

theorem execFesetEmpty_nextWf (rb : BitVec 6) (am : AMode) (sz : Size) (off : BitVec 16) (s : State)
    (hs : s.mems.wf = true) : NextWf (execFesetEmpty rb am sz off s) := by
  simp [execFesetEmpty, hs]

@[simp] theorem atomic_nextWf (s : State) (op : AccOp) (am : AMode) (sum : Word) (n : Nat) (data expect : Word)
    (rt : BitVec 6) (o : Ord) (hs : s.mems.wf = true) : NextWf (atomic s op am sum n data expect rt o) := by
  unfold atomic
  (repeat' split) <;> simp [hs]

theorem execAmo_nextWf (rt rb rc : BitVec 6) (am : AMode) (dw : Bool) (op : AmoOp) (o : Ord) (off : BitVec 32)
    (s : State) (hs : s.mems.wf = true) : NextWf (execAmo rt rb rc am dw op o off s) := by
  simp [execAmo, hs]

theorem execCas_nextWf (rt rb rc : BitVec 6) (am : AMode) (dw : Bool) (o : Ord) (off : BitVec 32) (s : State)
    (hs : s.mems.wf = true) : NextWf (execCas rt rb rc am dw o off s) := by
  simp [execCas, hs]

theorem execFence_nextWf (o : Ord) (s : State) (hs : s.mems.wf = true) : NextWf (execFence o s) := by
  unfold execFence
  split <;> simp [hs]

@[simp] theorem delayedWord_wf (x : Delayed) (r : State × List Word) (a : WordAcc) (hs : r.1.mems.wf = true) :
    (delayedWord x r a).1.mems.wf = true := by
  unfold delayedWord
  (repeat' split) <;> simp [hs]

@[simp] theorem State.performDelayed_wf (s : State) (x : Delayed) (hs : s.mems.wf = true) :
    (s.performDelayed x).mems.wf = true := by
  have hf (l : List WordAcc) : ∀ r : State × List Word, r.1.mems.wf = true →
      (l.foldl (delayedWord x) r).1.mems.wf = true := by
    induction l with
    | nil => exact fun r hr => hr
    | cons a l ih => exact fun r hr => ih _ (delayedWord_wf x r a hr)
  unfold State.performDelayed
  split <;> simp [hf x.accs (s, []) hs]

@[simp] theorem State.flushDelayed_wf (s : State) (hs : s.mems.wf = true) : (s.flushDelayed).mems.wf = true := by
  unfold State.flushDelayed
  dsimp only
  simp_all

@[simp] theorem State.flushFlags_mems (s : State) : (s.flushFlags).mems = s.mems := by simp [State.flushFlags]

@[simp] theorem State.flushTabs_mems (s : State) : (s.flushTabs).mems = s.mems := by simp [State.flushTabs]

/-! ### Tasks and futures -/

@[simp] theorem State.markerEnd_mems (s : State) : (s.markerEnd).mems = s.mems := by simp [State.markerEnd]

@[simp] theorem State.expect_mems (s : State) (rd : BitVec 6) (pd : BitVec 4) : (s.expect rd pd).2.mems = s.mems := by
  simp [State.expect]

theorem State.trappingForm_mems (s : State) (rd : BitVec 6) (pd : BitVec 4) (eval : Word → Word)
    (ask : Nat → State → State)
    (fin : State → State) (hask : ∀ n t, (ask n t).mems = t.mems) (hfin : ∀ t, (fin t).mems = t.mems) :
    (s.trappingForm rd pd eval ask fin).mems = s.mems := by
  unfold State.trappingForm
  split <;> simp [hask, hfin]

theorem spawnForm_nextWf (s : State) (t : Bool) (rd : BitVec 6) (pd : BitVec 4) (eval : Word → Word)
    (ask : Nat → State → State)
    (fin : State → State) (hask : ∀ n t, (ask n t).mems = t.mems) (hfin : ∀ t, (fin t).mems = t.mems) (hs : s.mems.wf = true) :
    NextWf (spawnForm s t rd pd eval ask fin) := by
  simp [spawnForm, s.trappingForm_mems rd pd eval ask fin hask hfin, hask, hfin, hs]

@[simp] theorem State.askLamp_mems (s : State) (dst : Nat) (body : Body) : (s.askLamp dst body).mems = s.mems := by
  simp [State.askLamp]

@[simp] theorem State.spawnSend_mems (s : State) (t : Nat × Nat) (a : Word) (out : Nat) (trap : Bool) :
    (s.spawnSend t a out trap).mems = s.mems := by
  simp [State.spawnSend]

@[simp] theorem State.nullAnswer_mems (s : State) (out : Nat) (xpart : Bool) :
    (s.nullAnswer out xpart).mems = s.mems := by
  simp [State.nullAnswer]

theorem execSpawn_nextWf (rd ra rb : BitVec 6) (pd : BitVec 4) (t : Bool) (s : State) (hs : s.mems.wf = true) :
    NextWf (execSpawn rd ra rb pd t s) := by
  unfold execSpawn
  split
  · simpa using hs
  · exact spawnForm_nextWf _ _ _ _ _ _ _ (fun n t => by simp) (fun t => by simp) hs

@[simp] theorem State.newTask_mems (s : State) (t : Task) : (s.newTask t).1.mems = s.mems := by simp [State.newTask]

theorem execSpawni_nextWf (rd ra rb : BitVec 6) (pd : BitVec 4) (t : Bool) (prio : BitVec 2) (nt : Bool) (s : State)
    (hs : s.mems.wf = true) : NextWf (execSpawni rd ra rb pd t prio nt s) :=
  spawnForm_nextWf _ _ _ _ _ _ _ (fun n t => by simp) (fun t => rfl) hs

@[simp] theorem numberTasks_mems (size : Nat) (s : State) (ts : List Task) :
    (numberTasks size s ts).1.mems = s.mems := by
  induction ts generalizing s with
  | nil => rfl
  | cons t ts ih => simp [numberTasks, ih]

theorem execSpawnr_nextWf (rd ra rb : BitVec 6) (pd : BitVec 4) (t : Bool) (s : State) (hs : s.mems.wf = true) :
    NextWf (execSpawnr rd ra rb pd t s) :=
  spawnForm_nextWf _ _ _ _ _ _ _ (fun n t => by simp) (fun t => by simp) hs

@[simp] theorem State.growLaunch_mems (s : State) (tag lseq n : Nat) : (s.growLaunch tag lseq n).1.mems = s.mems := by
  unfold State.growLaunch
  (repeat' split) <;> simp

theorem execGrow_nextWf (rd ra : BitVec 6) (pd : BitVec 4) (s : State) (hs : s.mems.wf = true) :
    NextWf (execGrow rd ra pd s) := by
  simpa [execGrow] using hs

@[simp] theorem State.takeSpawnr_wf (s : State) (p : Packet) (q k tmpl list : Nat) (g : Heritage) (a : Asker)
    (t : Bool)
    (hs : s.mems.wf = true) : (s.takeSpawnr p q k tmpl list g a t).mems.wf = true := by
  unfold State.takeSpawnr
  dsimp only
  (repeat' split) <;> simp [hs]

@[simp] theorem State.takeSpawn_wf (s : State) (p : Packet) (hs : s.mems.wf = true) :
    (s.takeSpawn p).mems.wf = true := by
  unfold State.takeSpawn
  dsimp only
  (repeat' split) <;> simp [hs]

@[simp] theorem State.refuseSpawn_mems (s : State) (p : Packet) : (s.refuseSpawn p).mems = s.mems := by
  unfold State.refuseSpawn
  split <;> simp

theorem execSpawnRecordRead_nextWf (pid : Nat) (s : State) (hs : s.mems.wf = true) :
    NextWf (execSpawnRecordRead pid s) := by
  unfold execSpawnRecordRead
  split <;> simp [hs]

@[simp] theorem State.parkReleased_mems (s : State) (st : TaskState) : (s.parkReleased st).mems = s.mems := by
  simp [State.parkReleased]

@[simp] theorem State.parkTouch_mems (s : State) : (s.parkTouch).mems = s.mems := by simp [State.parkTouch]

theorem futureOp_nextWf (s : State) (op : FutOp) (w : Word) (release : Bool) (done : Word → Bool → State → State)
    (hdone : ∀ v b t, (done v b t).mems = t.mems) (hs : s.mems.wf = true) : NextWf (futureOp s op w release done) := by
  unfold futureOp
  dsimp only
  (repeat' split) <;> simp [hs, hdone]

theorem staleHandle_nextWf (s : State) (w : Word) (hs : s.mems.wf = true) :
    NextWf (staleHandle s w) := by simpa [staleHandle] using hs

theorem execTouch_nextWf (rd ra : BitVec 6) (pd : BitVec 4) (c : Bool) (s : State) (hs : s.mems.wf = true) :
    NextWf (execTouch rd ra pd c s) := by
  simp only [execTouch, nextWf_ite]
  split
  · exact futureOp_nextWf _ _ _ _ _ (fun v b t => by simp) hs
  · exact staleHandle_nextWf s _ hs

theorem execTouchq_nextWf (rd ra : BitVec 6) (s : State) (hs : s.mems.wf = true) : NextWf (execTouchq rd ra s) := by
  simp only [execTouchq, nextWf_ite]
  split
  · exact futureOp_nextWf _ _ _ _ _ (fun v b t => by simp) hs
  · simp [hs]

theorem execResolve_nextWf (ra rb : BitVec 6) (pd : BitVec 4) (s : State) (hs : s.mems.wf = true) :
    NextWf (execResolve ra rb pd s) := by
  simp only [execResolve, nextWf_ite]
  split
  · exact futureOp_nextWf _ _ _ _ _ (fun v b t => by simp) hs
  · exact staleHandle_nextWf s _ hs

theorem execCancel_nextWf (rd ra : BitVec 6) (s : State) (hs : s.mems.wf = true) : NextWf (execCancel rd ra s) := by
  simp only [execCancel, nextWf_ite]
  split
  · exact futureOp_nextWf _ _ _ _ _ (fun v b t => by simp) hs
  · exact staleHandle_nextWf s _ hs

theorem execFdrop_nextWf (ra : BitVec 6) (pd : BitVec 4) (s : State) (hs : s.mems.wf = true) :
    NextWf (execFdrop ra pd s) := by
  simp only [execFdrop, nextWf_ite]
  split
  · exact futureOp_nextWf _ _ _ _ _ (fun v b t => by simp) hs
  · exact staleHandle_nextWf s _ hs

@[simp] theorem State.abandonPrefetch_mems (s : State) (task : Nat) : (s.abandonPrefetch task).mems = s.mems := by
  simp [State.abandonPrefetch]

@[simp] theorem State.removeQueued_mems (s : State) (q : Nat) (t : Task) (st : FState) (v : Word) :
    (s.removeQueued q t st v).mems = s.mems := by
  simp [State.removeQueued]

@[simp] theorem State.cancelEntry_mems (s : State) (key : Nat) : (s.cancelEntry key).mems = s.mems := by
  unfold State.cancelEntry
  (repeat' split) <;> simp

@[simp] theorem State.currentOp_mems (s : State) (key : Nat) (a : Asker) (op : FutOp) :
    (s.currentOp key a op).1.mems = s.mems := by
  unfold State.currentOp
  cases op
  case touch | resolve | cancel | fdrop => dsimp only; split <;> simp
  all_goals rfl

@[simp] theorem State.spilledOp_mems (s : State) (tag : BitVec 10) (a : Asker) (op : FutOp) (h : Word) :
    (s.spilledOp tag a op h).1.mems = s.mems := by
  unfold State.spilledOp
  (repeat' split) <;> simp

@[simp] theorem State.entryOp_mems (s : State) (p : Packet) (op : FutOp) (h : Word) (out : Nat) :
    (s.entryOp p op h out).mems = s.mems := by
  unfold State.entryOp
  dsimp only
  (repeat' split) <;> simp

@[simp] theorem State.retireMessage_mems (s : State) (p : Packet) (h : Word) (out : Nat) (st : FState) (v : Word) :
    (s.retireMessage p h out st v).mems = s.mems := by
  simp [State.retireMessage]

@[simp] theorem State.takeFuture_mems (s : State) (p : Packet) : (s.takeFuture p).mems = s.mems := by
  unfold State.takeFuture
  dsimp only
  split
  · split
    · simp
    · rename_i op _ _ _ _
      cases op <;> simp
  · rfl

theorem State.checked_wf (take : State → Packet → State) (s : State) (p : Packet)
    (ht : (take s p).mems.wf = true) (hs : s.mems.wf = true) : (State.checked take s p).mems.wf = true := by
  unfold State.checked; split <;> simp [ht, hs]

theorem arrive_nextWf (s : State) (pid : Nat) (again : Instr) (park take : State → Packet → State)
    (hpark : ∀ t p, t.mems.wf = true → (park t p).mems.wf = true) (htake : ∀ t p, t.mems.wf = true → (take t p).mems.wf = true)
    (hs : s.mems.wf = true) : NextWf (arrive s pid again park take) := by
  unfold arrive
  split
  · simpa using hs
  · simp [hs, hpark, htake]

theorem execFutureEvent_nextWf (pid : Nat) (s : State) (hs : s.mems.wf = true) : NextWf (execFutureEvent pid s) :=
  arrive_nextWf _ _ _ _ _ (fun t p ht => by simp [ht]) (fun t p ht => by simp [ht]) hs

@[simp] theorem State.takeWake_mems (s : State) (p : Packet) : (s.takeWake p).mems = s.mems := by
  unfold State.takeWake
  split <;> simp

theorem execFutureWake_nextWf (pid : Nat) (s : State) (hs : s.mems.wf = true) : NextWf (execFutureWake pid s) := by
  unfold execFutureWake
  refine arrive_nextWf _ _ _ _ _ (fun t p ht => ?_)
    (fun t p ht => State.checked_wf State.takeWake t p (by simp [ht]) ht) hs
  split <;> simp [ht]

theorem execJoini_nextWf (rd ra rb : BitVec 6) (prio : BitVec 2) (s : State) (hs : s.mems.wf = true) :
    NextWf (execJoini rd ra rb prio s) := by
  unfold execJoini
  dsimp only
  split <;> simp [hs]

@[simp] theorem State.releaseContinuation_mems (s : State) (q : Nat) (cfut : Word) (go : Task → Nat → Task)
    (dst : Nat) : (s.releaseContinuation q cfut go dst).mems = s.mems := by
  unfold State.releaseContinuation
  split <;> simp

@[simp] theorem State.checkLaunches_mems (s : State) (tag : Nat) : (s.checkLaunches tag).mems = s.mems := by
  simp [State.checkLaunches]

@[simp] theorem State.decrement_wf (s : State) (p : Packet) (hs : s.mems.wf = true) :
    (s.decrement p).mems.wf = true := by
  unfold State.decrement
  split <;> simp [hs]

@[simp] theorem State.takeJoin_wf (s : State) (p : Packet) (hs : s.mems.wf = true) :
    (s.takeJoin p).mems.wf = true := by
  simp [State.takeJoin, hs]

theorem execJoinDecrement_nextWf (pid : Nat) (s : State) (hs : s.mems.wf = true) : NextWf (execJoinDecrement pid s) :=
  arrive_nextWf _ _ _ _ _ (fun t p ht => by simp [ht]) (fun t p ht => by simp [ht]) hs

@[simp] theorem State.endTask_mems (s : State) (keep : Bool) : (s.endTask keep).mems = s.mems := by
  simp [State.endTask]

theorem execRetire_nextWf (s : State) (hs : s.mems.wf = true) : NextWf (execRetire s) := by
  simpa [execRetire] using hs

theorem execWaitw_nextWf (s : State) (hs : s.mems.wf = true) : NextWf (execWaitw s) := by simpa [execWaitw] using hs

theorem execYield_nextWf (s : State) (hs : s.mems.wf = true) : NextWf (execYield s) := by simpa [execYield] using hs

theorem execWaitm_nextWf (rd : BitVec 6) (s : State) (hs : s.mems.wf = true) : NextWf (execWaitm rd s) := by
  simpa [execWaitm] using hs

theorem execSend_nextWf (ra rb : BitVec 6) (tag : BitVec 8) (sys : Bool) (s : State) (hs : s.mems.wf = true) :
    NextWf (execSend ra rb tag sys s) := by
  unfold execSend
  dsimp only
  split <;> simp [hs]

@[simp] theorem State.placeMail_mems (s : State) (fk : Nat) (dwords : List Word) :
    (s.placeMail fk dwords).mems = s.mems := by
  simp [State.placeMail]

@[simp] theorem State.sendAnswer_mems (s : State) (p : Packet) (out : Nat) (xpart : Bool) :
    (s.sendAnswer p out xpart).mems = s.mems := by
  simp [State.sendAnswer]

@[simp] theorem State.sendRetry_mems (s : State) (p : Packet) (out : Nat) : (s.sendRetry p out).mems = s.mems := by
  simp [State.sendRetry]

@[simp] theorem State.takeSend_mems (s : State) (p : Packet) : (s.takeSend p).mems = s.mems := by
  unfold State.takeSend
  split <;> simp

@[simp] theorem State.parkSend_wf (s : State) (p : Packet) (hs : s.mems.wf = true) :
    (s.parkSend p).mems.wf = true := by
  unfold State.parkSend
  split <;> simp [hs]

theorem execSendMessageArrival_nextWf (pid : Nat) (s : State) (hs : s.mems.wf = true) :
    NextWf (execSendMessageArrival pid s) :=
  arrive_nextWf _ _ _ _ _ (fun t p ht => by simp [ht]) (fun t p ht => by simp [ht]) hs

theorem execSendRetryResend_nextWf (pid : Nat) (s : State) (hs : s.mems.wf = true) :
    NextWf (execSendRetryResend pid s) := by
  unfold execSendRetryResend
  split <;> simp [hs]

/-! ### The port engine -/

@[simp] theorem State.accAnswer_mems (s : State) (p : Packet) (a : WordAcc) (data : Word)
    (oor xpart retry parked ecc : Bool) : (s.accAnswer p a data oor xpart retry parked ecc).mems = s.mems := by
  simp [State.accAnswer]

@[simp] theorem State.takeGeyserAccess_wf (s : State) (p : Packet) (a : WordAcc) (hs : s.mems.wf = true) :
    (s.takeGeyserAccess p a).mems.wf = true := by
  unfold State.takeGeyserAccess
  (repeat' split) <;> simp [hs]

@[simp] theorem State.takeBank_wf (s : State) (p : Packet) (a : WordAcc) (hs : s.mems.wf = true) :
    (s.takeBank p a).mems.wf = true := by
  simp [State.takeBank, hs]

@[simp] theorem State.takeCoreAccess_wf (s : State) (p : Packet) (a : WordAcc) (hs : s.mems.wf = true) :
    (s.takeCoreAccess p a).mems.wf = true := by
  unfold State.takeCoreAccess
  dsimp only
  split
  · simp [hs]
  · split <;> simp [hs]

@[simp] theorem State.takeJoini_wf (s : State) (p : Packet) (count : BitVec 32) (prio : BitVec 2) (lseq : Nat)
    (ptr : Word) (out : Nat) (hs : s.mems.wf = true) : (s.takeJoini p count prio lseq ptr out).mems.wf = true := by
  simp [State.takeJoini, hs]

@[simp] theorem State.takeExternal_wf (s : State) (p : Packet) (a : WordAcc) (hs : s.mems.wf = true) :
    (s.takeExternal p a).mems.wf = true := by
  unfold State.takeExternal
  dsimp only
  (repeat' split) <;> simp [hs]

@[simp] theorem State.takeAccess_wf (s : State) (p : Packet) (hs : s.mems.wf = true) :
    (s.takeAccess p).mems.wf = true := by
  unfold State.takeAccess
  split <;> simp [hs]

@[simp] theorem State.parkAccess_wf (s : State) (p : Packet) (hs : s.mems.wf = true) :
    (s.parkAccess p).mems.wf = true := by
  unfold State.parkAccess
  split <;> simp [hs]

theorem execPortEngineMessage_nextWf (pid : Nat) (s : State) (hs : s.mems.wf = true) :
    NextWf (execPortEngineMessage pid s) :=
  arrive_nextWf _ _ _ _ _ (fun t p ht => by simp [ht]) (fun t p ht => by simp [ht]) hs

@[simp] theorem State.keepRetry_mems (s : State) (p : Packet) (a : WordAcc) : (s.keepRetry p a).mems = s.mems := by
  simp [State.keepRetry]

@[simp] theorem State.endExternal_mems (s : State) (p : Packet) : (s.endExternal p).mems = s.mems := by
  unfold State.endExternal
  split <;> simp

@[simp] theorem State.takeResponse_mems (s : State) (p : Packet) : (s.takeResponse p).mems = s.mems := by
  unfold State.takeResponse
  split <;> simp

theorem execAccessResponse_nextWf (pid : Nat) (s : State) (hs : s.mems.wf = true) :
    NextWf (execAccessResponse pid s) := by
  have htake (t : State) (p : Packet) (ht : t.mems.wf = true) :
      ((t.endExternal p).checked State.takeResponse p).mems.wf = true :=
    State.checked_wf _ _ p (by simp [ht]) (by simp [ht])
  exact arrive_nextWf _ _ _ _ _ (fun t p ht => htake (t.dropPacket pid) p (by simpa using ht)) htake hs

theorem execDeferredRetryResend_nextWf (pid : Nat) (s : State) (hs : s.mems.wf = true) :
    NextWf (execDeferredRetryResend pid s) := by
  unfold execDeferredRetryResend
  split <;> simp [hs]

/-! ### Rings and causes -/

@[simp] theorem State.hostStore_wf (s : State) (tag va : Nat) (bs : List Byte) (hs : s.mems.wf = true) :
    (s.hostStore tag va bs).mems.wf = true := by
  simp [State.hostStore, hs, Mem.wf_setBytes]

@[simp] theorem State.ringDrop_mems (s : State) : (s.ringDrop).mems = s.mems := by simp [State.ringDrop]

@[simp] theorem State.askRing_mems (s : State) (vf rcb : Nat) : (s.askRing vf rcb).mems = s.mems := by
  simp [State.askRing]

@[simp] theorem State.serveCauses_mems (s : State) : (s.serveCauses).mems = s.mems := by simp [State.serveCauses]

@[simp] theorem State.raiseCause_mems (s : State) (kind vf cause : Nat) (detail : Word) (count : Nat) :
    (s.raiseCause kind vf cause detail count).mems = s.mems := by
  simp [State.raiseCause]

@[simp] theorem State.setRing_mems (s : State) (tag i : Nat) (r : Ring) : (s.setRing tag i r).mems = s.mems := by
  simp [State.setRing]

@[simp] theorem State.notice_mems (s : State) (tag i : Nat) : (s.notice tag i).mems = s.mems := by simp [State.notice]

@[simp] theorem State.countUpdate_mems (s : State) (tag i : Nat) : (s.countUpdate tag i).mems = s.mems := by
  simp [State.countUpdate]

@[simp] theorem State.rearmRing_mems (s : State) (tag i : Nat) : (s.rearmRing tag i).mems = s.mems := by
  simp [State.rearmRing]

theorem execRingUpdate_nextWf (tag i : Nat) (s : State) (hs : s.mems.wf = true) :
    NextWf (execRingUpdate tag i s) := by
  simpa [execRingUpdate] using hs

theorem execRingNoticeTimeout_nextWf (tag i : Nat) (s : State) (hs : s.mems.wf = true) :
    NextWf (execRingNoticeTimeout tag i s) := by
  simpa [execRingNoticeTimeout] using hs

@[simp] theorem State.ringPop_mems (s : State) (vf rcb : Nat) : (s.ringPop vf rcb).mems = s.mems := by
  simp [State.ringPop]

@[simp] theorem State.ringNext_mems (s : State) (vf rcb : Nat) : (s.ringNext vf rcb).mems = s.mems := by
  simp [State.ringNext]

@[simp] theorem State.ringWrite_wf (s : State) (vf rcb : Nat) (bs : List Byte) (hs : s.mems.wf = true) :
    (s.ringWrite vf rcb bs).mems.wf = true := by
  have hh := s.host_wf hs
  simp [State.ringWrite, hs, hh, Mem.wf_setBytes, Mem.wf_setDword]

@[simp] theorem State.routeHeld_mems (s : State) (tag : Nat) : (s.routeHeld tag).mems = s.mems := by
  simp [State.routeHeld]

@[simp] theorem State.ringDone_mems (s : State) (vf : Nat) : (s.ringDone vf).mems = s.mems := by simp [State.ringDone]

@[simp] theorem State.ringAnswer_wf (s : State) (vf rcb : Nat) (error : Bool) (hs : s.mems.wf = true) :
    (s.ringAnswer vf rcb error).mems.wf = true := by
  unfold State.ringAnswer
  (repeat' split) <;> simp [hs]

@[simp] theorem State.ringAts_wf (s : State) (key code : Nat) (hs : s.mems.wf = true) :
    (s.ringAts key code).mems.wf = true := by
  simp [State.ringAts, hs]

theorem execRingConsReread_nextWf (key : Nat) (s : State) (hs : s.mems.wf = true) :
    NextWf (execRingConsReread key s) := by
  simpa [execRingConsReread] using hs

theorem execTrapMessage_nextWf (id : Nat) (s : State) (hs : s.mems.wf = true) : NextWf (execTrapMessage id s) := by
  unfold execTrapMessage
  split <;> simp [hs]

/-! ### Copies -/

@[simp] theorem State.addCopy_mems (s : State) (id : Nat) (c : Copy) (delay : Nat) :
    (s.addCopy id c delay).mems = s.mems := by
  simp [State.addCopy]

theorem execCgo_nextWf (rd : BitVec 6) (s : State) (hs : s.mems.wf = true) : NextWf (execCgo rd s) := by
  unfold execCgo
  split <;> simp [hs]

@[simp] theorem State.updCopy_mems (s : State) (id : Nat) (h : Copy → Copy) : (s.updCopy id h).mems = s.mems := by
  unfold State.updCopy
  split <;> simp

@[simp] theorem State.sendBurst_mems (s0 : State) (id : Nat) (c : Copy) (b : Burst) :
    (s0.sendBurst id c b).mems = s0.mems := by
  simp [State.sendBurst]

@[simp] theorem State.startPush_mems (s : State) (id : Nat) (c : Copy) : (s.startPush id c).mems = s.mems := by
  simp [State.startPush]

theorem execCopyCommand_nextWf (id : Nat) (s : State) (hs : s.mems.wf = true) : NextWf (execCopyCommand id s) := by
  unfold execCopyCommand
  dsimp only
  (repeat' split) <;> simp [hs]

@[simp] theorem State.copyDrained_mems (s : State) (id : Nat) : (s.copyDrained id).mems = s.mems := by
  unfold State.copyDrained
  split <;> simp

@[simp] theorem State.pageFault_mems (s : State) (ch tag va : Nat) (write : Bool) (copy thread : Option Nat) :
    (s.pageFault ch tag va write copy thread).mems = s.mems := by
  simp [State.pageFault]

@[simp] theorem State.noteBurst_mems (s : State) (ch : Nat) (tag : BitVec 10) (va len : Nat) :
    (s.noteBurst ch tag va len).mems = s.mems := by
  simp [State.noteBurst]

@[simp] theorem State.failCopy_mems (s : State) (id : Nat) (code : Nat) : (s.failCopy id code).mems = s.mems := by
  simp [State.failCopy]

@[simp] theorem State.admitBurst_mems (s : State) (id r j va len : Nat) (t : Trans) (c : Copy) :
    (s.admitBurst id r j va len t c).mems = s.mems := by
  simp [State.admitBurst]

@[simp] theorem State.hostBurst_mems (s : State) (id r j va len : Nat) (t : Trans) (c : Copy) :
    (s.hostBurst id r j va len t c).mems = s.mems := by
  simp [State.hostBurst]

@[simp] theorem State.translateBurst_wf (s : State) (id r j va len : Nat) (c : Copy) (hs : s.mems.wf = true) :
    (s.translateBurst id r j va len c).mems.wf = true := by
  unfold State.translateBurst
  dsimp only
  (repeat' split) <;> simp [hs]

@[simp] theorem State.chargeBytes_mems (s : State) (ch tag n : Nat) : (s.chargeBytes ch tag n).mems = s.mems := by
  simp [State.chargeBytes]

theorem execBurstAdmission_nextWf (id : Nat) (s : State) (hs : s.mems.wf = true) :
    NextWf (execBurstAdmission id s) := by
  unfold execBurstAdmission
  (repeat' split) <;> simp [hs]

@[simp] theorem State.chargeCopy_mems (s : State) (c : Copy) (n : Nat) (device : Bool) :
    (s.chargeCopy c n device).mems = s.mems := by
  simp [State.chargeCopy]

@[simp] theorem State.issueLate_mems (s : State) (l : Late) : (s.issueLate l).mems = s.mems := by
  simp [State.issueLate]

@[simp] theorem State.fillWord_wf (s : State) (l : Late) (hs : s.mems.wf = true) : (s.fillWord l).mems.wf = true := by
  unfold State.fillWord
  split <;> simp [hs]

@[simp] theorem State.performLate_wf (s : State) (l : Late) (hs : s.mems.wf = true) :
    (s.performLate l).mems.wf = true := by
  unfold State.performLate
  dsimp only
  (repeat' split) <;> simp [hs]

@[simp] theorem State.loadPiece_wf (s : State) (id : Nat) (c : Copy) (b : Burst) (n : Nat) (hs : s.mems.wf = true) :
    (s.loadPiece id c b n).mems.wf = true := by
  unfold State.loadPiece
  split <;> simp [hs]

@[simp] theorem State.storePiece_wf (s : State) (id : Nat) (c : Copy) (b : Burst) (n : Nat) (hs : s.mems.wf = true) :
    (s.storePiece id c b n).mems.wf = true := by
  simp [State.storePiece, hs]

@[simp] theorem State.beginBurst_mems (s : State) (c : Copy) (b : Burst) : (s.beginBurst c b).mems = s.mems := by
  simp [State.beginBurst]

@[simp] theorem State.leaveBurst_mems (s : State) (id : Nat) (c : Copy) (b : Burst) :
    (s.leaveBurst id c b).mems = s.mems := by
  simp [State.leaveBurst]

@[simp] theorem State.nextReturned_mems (s : State) (id : Nat) : (s.nextReturned id).mems = s.mems := by
  unfold State.nextReturned
  split <;> simp

@[simp] theorem State.endBurst_mems (s : State) (id : Nat) (c : Copy) (b : Burst) :
    (s.endBurst id c b).mems = s.mems := by
  simp [State.endBurst]

@[simp] theorem State.hostErr_mems (s : State) (id : Nat) (c : Copy) (b : Burst) :
    (s.hostErr id c b).mems = s.mems := by
  simp [State.hostErr]

@[simp] theorem State.burstFails_mems (s : State) (id : Nat) (c : Copy) (b : Burst) (e : Nat × Bool) :
    (s.burstFails id c b e).mems = s.mems := by
  simp [State.burstFails]

@[simp] theorem State.burstPiece_wf (s0 : State) (id : Nat) (c : Copy) (b : Burst) (hs : s0.mems.wf = true) :
    (s0.burstPiece id c b).mems.wf = true := by
  simp [State.burstPiece, hs]

@[simp] theorem State.lateStep_wf (s : State) (l : Late) (hs : s.mems.wf = true) : (s.lateStep l).mems.wf = true := by
  simp [State.lateStep, hs]

theorem execBurstComplete_nextWf (id bid : Nat) (s : State) (hs : s.mems.wf = true) :
    NextWf (execBurstComplete id bid s) := by
  unfold execBurstComplete
  (repeat' split) <;> simp [hs]

@[simp] theorem State.gatherHeader_wf (s : State) (id : Nat) (c : Copy) (hs : s.mems.wf = true) :
    (s.gatherHeader id c).mems.wf = true := by
  have hw (k off : Nat) (x : Word) : ((s.poolWrite k off 8 x).setFull k off true).mems.wf = true := by simp [hs]
  unfold State.gatherHeader
  (repeat' split) <;> simp [hs, hw]

@[simp] theorem State.copyEngine_mems (s : State) (c : Copy) : (s.copyEngine c).mems = s.mems := by
  simp [State.copyEngine]

@[simp] theorem State.copyGone_mems (s : State) (id : Nat) (c : Copy) : (s.copyGone id c).mems = s.mems := by
  simp [State.copyGone]

@[simp] theorem State.parkRecord_wf (s : State) (id : Nat) (c : Copy) (hs : s.mems.wf = true) :
    (s.parkRecord id c).mems.wf = true := by
  simp [State.parkRecord, hs]

@[simp] theorem State.holdRecord_mems (s : State) (id : Nat) (c : Copy) : (s.holdRecord id c).mems = s.mems := by
  simp [State.holdRecord]

@[simp] theorem State.placeRecord_mems (s : State) (id : Nat) (c : Copy) : (s.placeRecord id c).mems = s.mems := by
  simp [State.placeRecord]

@[simp] theorem State.completeThreadCopy_wf (s : State) (id : Nat) (c : Copy) (hs : s.mems.wf = true) :
    (s.completeThreadCopy id c).mems.wf = true := by
  simp [State.completeThreadCopy, hs]

@[simp] theorem State.replayRecord_wf (s : State) (id : Nat) (hs : s.mems.wf = true) :
    (s.replayRecord id).mems.wf = true := by
  unfold State.replayRecord
  split <;> simp [hs]

@[simp] theorem State.postRecord_mems (s : State) (id : Nat) (c : Copy) : (s.postRecord id c).mems = s.mems := by
  simp [State.postRecord]

@[simp] theorem State.recordArrives_wf (s : State) (p : Packet) (id : Nat) (hs : s.mems.wf = true) :
    (s.recordArrives p id).mems.wf = true := by
  unfold State.recordArrives
  split <;> simp [hs]

theorem execCopyCompletion_nextWf (id : Nat) (s : State) (hs : s.mems.wf = true) :
    NextWf (execCopyCompletion id s) := by
  unfold execCopyCompletion
  (repeat' split) <;> simp [hs]

theorem execMailboxRecordPlace_nextWf (k : Nat) (s : State) (hs : s.mems.wf = true) :
    NextWf (execMailboxRecordPlace k s) := by
  unfold execMailboxRecordPlace
  (repeat' split) <;> simp [hs]

@[simp] theorem State.quietWalk_wf (s : State) (ch tag va : Nat) (hs : s.mems.wf = true) :
    (s.quietWalk ch tag va).1.mems.wf = true := by
  unfold State.quietWalk
  dsimp only
  (repeat' split) <;> simp [hs]

@[simp] theorem State.readAhead_wf (s : State) (ch tag va : Nat) (hs : s.mems.wf = true) :
    (s.readAhead ch tag va).mems.wf = true := by
  have hq := s.quietWalk_wf ch tag va hs
  unfold State.readAhead
  split <;> rename_i he <;> rw [he] at hq
  · dsimp only; (repeat' split) <;> simp [hq]
  · exact hq

theorem execGeyserPrefetch_nextWf (ch i : Nat) (s : State) (hs : s.mems.wf = true) :
    NextWf (execGeyserPrefetch ch i s) := by
  unfold execGeyserPrefetch
  split <;> simp [hs]

/-! ### The array -/

@[simp] theorem State.placeToken_mems (s : State) (a : ACmd) (status : Nat) :
    (s.placeToken a status).mems = s.mems := by
  simp [State.placeToken]

@[simp] theorem State.finishCmd_mems (s : State) (a : ACmd) (st status : Nat) :
    (s.finishCmd a st status).mems = s.mems := by
  simp [State.finishCmd]

@[simp] theorem State.endLease_mems (s : State) (q : Nat) : (s.endLease q).mems = s.mems := by simp [State.endLease]

@[simp] theorem State.closeLease_mems (s : State) (q : Nat) : (s.closeLease q).mems = s.mems := by
  unfold State.closeLease
  split <;> simp

@[simp] theorem State.stopLease_mems (s : State) (q fk : Nat) : (s.stopLease q fk).mems = s.mems := by
  unfold State.stopLease
  split <;> simp

@[simp] theorem State.countCmd_mems (s : State) (q : Nat) (a : ACmd) : (s.countCmd q a).mems = s.mems := by
  unfold State.countCmd
  split <;> simp

@[simp] theorem State.flushCmd_mems (s : State) (a : ACmd) : (s.flushCmd a).mems = s.mems := by simp [State.flushCmd]

@[simp] theorem State.eIssue_mems (s : State) (i : Instr) (ga gb : Word) (token : Bool) :
    (s.eIssue i ga gb token).mems = s.mems := by
  simp [State.eIssue]

@[simp] theorem eOp_nextWf (s : State) (i : Instr) (ga gb : Word) (scope : Nat) (token : Bool)
    (hs : s.mems.wf = true) : NextWf (eOp s i ga gb scope token) := by
  unfold eOp
  (repeat' split) <;> simp [hs]

@[simp] theorem aleaseAcquire_mems (s : State) (i : Instr) : (aleaseAcquire s i).mems = s.mems := by
  simp [aleaseAcquire]

theorem execAlease_nextWf (l : BitVec 6) (s : State) (hs : s.mems.wf = true) : NextWf (execAlease l s) := by
  simpa [execAlease] using hs

theorem execArel_nextWf (s : State) (hs : s.mems.wf = true) : NextWf (execArel s) := by simp [execArel, hs]

theorem execAset_nextWf (o : Ord) (t : Bool) (entry : BitVec 4) (p : BitVec 5) (sat skip rm : Bool) (s : State)
    (hs : s.mems.wf = true) : NextWf (execAset o t entry p sat skip rm s) := by
  simp [execAset, hs]

theorem execAldb_nextWf (o : Ord) (t : Bool) (view : View) (ga gb : BitVec 6) (rstr : BitVec 11) (n : BitVec 8)
    (k : BitVec 10) (s : State) (hs : s.mems.wf = true) : NextWf (execAldb o t view ga gb rstr n k s) := by
  simp [execAldb, hs]

theorem execAstr_nextWf (o : Ord) (t : Bool) (view : View) (ga : BitVec 6) (aoff : BitVec 14) (rstr m : BitVec 11)
    (s : State) (hs : s.mems.wf = true) : NextWf (execAstr o t view ga aoff rstr m s) := by
  simp [execAstr, hs]

theorem execAdrn_nextWf (o : Ord) (t : Bool) (view : View) (ga : BitVec 6) (aoff : BitVec 14) (n m : BitVec 8)
    (wd : BitVec 4) (clr tr : Bool) (mode : DrainMode) (s : State) (hs : s.mems.wf = true) :
    NextWf (execAdrn o t view ga aoff n m wd clr tr mode s) := by
  simp [execAdrn, hs]

theorem execAzero_nextWf (o : Ord) (t : Bool) (aoff : BitVec 14) (n m : BitVec 8) (s : State)
    (hs : s.mems.wf = true) : NextWf (execAzero o t aoff n m s) := by
  simp [execAzero, hs]

theorem execAmark_nextWf (acq : Bool) (scope : BitVec 3) (tag : BitVec 32) (s : State) (hs : s.mems.wf = true) :
    NextWf (execAmark acq scope tag s) := by
  simp [execAmark, hs]

theorem execQpush_nextWf (n : BitVec 3) (ga : BitVec 6) (s : State) (hs : s.mems.wf = true) :
    NextWf (execQpush n ga s) := by
  unfold execQpush
  split <;> simp [hs]

@[simp] theorem State.accWrite_wf (s : State) (q aoff nc m n x : Nat) (hs : s.mems.wf = true) :
    (s.accWrite q aoff nc m n x).mems.wf = true := s.memWf_accWrite q aoff nc m n x hs

@[simp] theorem State.updLease_mems (s : State) (q : Nat) (h : Lease → Lease) : (s.updLease q h).mems = s.mems := by
  simp [State.updLease]

@[simp] theorem foldl_astrRow_wf (q e : Nat) (sat : Bool) (p : Nat) (t : BTile) (aoff nc m : Nat) (row : ARow)
    (l : List Nat)
    (r : State × BitVec 32) (hr : r.1.mems.wf = true) : (l.foldl (astrRow q e sat p t aoff nc m row) r).1.mems.wf = true := by
  induction l generalizing r with
  | nil => exact hr
  | cons n l ih =>
    refine ih _ ?_
    unfold astrRow
    split
    · exact State.accWrite_wf _ _ _ _ _ _ _ hr
    · exact hr

@[simp] theorem astrRows_wf (vs : State) (q : Nat) (a : ACmd) (v : View) (cfg : Nat × Nat × Bool × Bool × Bool)
    (t : BTile)
    (rstr aoff cnt m : Nat) (r : ARes) (hr : r.st.mems.wf = true) :
    (astrRows vs q a v cfg t rstr aoff cnt m r).st.mems.wf = true := by
  induction cnt generalizing m r with
  | zero => exact hr
  | succ cnt ih =>
    simp only [astrRows]
    split
    · exact ih _ _ hr
    · split
      · exact hr
      · exact ih _ _ (foldl_astrRow_wf _ _ _ _ _ _ _ _ _ _ _ hr)

theorem regionFold_wf (m n : Nat) (f : State → Nat → Nat → State)
    (hf : ∀ s i j, s.mems.wf = true → (f s i j).mems.wf = true)
    (s : State) (hs : s.mems.wf = true) : (regionFold m n f s).mems.wf = true :=
  mems_wf_foldl (fun _ i ht => mems_wf_foldl (fun _ j hu => hf _ i j hu) _ _ ht) _ s hs

@[simp] theorem aEnd_st (s : State) (status cycles : Nat) : (aEnd s status cycles).st = s := rfl

/-- An array command keeps the canonical form: it writes accumulators, and its drained words as late writes. -/
@[simp] theorem aPerform_wf (s vs : State) (q : Nat) (l : Lease) (a : ACmd) (hs : s.mems.wf = true) :
    (aPerform s vs q l a).st.mems.wf = true := by
  have hz (aoff nc e m n : Nat) :
      (regionFold m n (fun s i j => s.accWrite q aoff nc i j (entIdent e)) s).mems.wf = true :=
    regionFold_wf m n _ (fun t i j ht => t.accWrite_wf _ _ _ _ _ _ ht) s hs
  unfold aPerform
  dsimp only
  split
  · simp [hs]
  · split <;> simp [hs]
  · simp [hs]
  · (repeat' split) <;> simp [hs]
  · split <;> simp [hs, hz]
  · (repeat' split) <;> simp [hs, hz]
  · simp [hs]

@[simp] theorem arrayHeads_mems (q : Nat) (s : State) (k n : Nat) : (arrayHeads q s k n).mems = s.mems := by
  induction n generalizing s with
  | zero => rfl
  | succ n ih => simp only [arrayHeads]; (repeat' split) <;> simp [ih]

@[simp] theorem State.askGrant_mems (s : State) (q : Nat) : (s.askGrant q).mems = s.mems := by simp [State.askGrant]

@[simp] theorem State.markHeads_mems (s : State) (q : Nat) : (s.markHeads q).mems = s.mems := by
  simp [State.markHeads]

@[simp] theorem State.arrayStart_mems (s : State) (q : Nat) : (s.arrayStart q).mems = s.mems := by
  unfold State.arrayStart
  (repeat' split) <;> simp

@[simp] theorem State.arrayTick_mems (s : State) (q : Nat) : (s.arrayTick q).mems = s.mems := by
  simp only [State.arrayTick, State.arrayStart_mems, State.markHeads_mems]
  exact mems_foldl (fun t k => arrayHeads_mems q t k _) _ s

@[simp] theorem State.flushTask_mems (s : State) (k fk : Nat) : (s.flushTask k fk).mems = s.mems := by
  simp [State.flushTask]

@[simp] theorem State.failCmd_mems (s : State) (a : ACmd) (status : Nat) : (s.failCmd a status).mems = s.mems := by
  simp [State.failCmd]

@[simp] theorem State.arraySound_mems (s : State) (q : Nat) (a : ACmd) (keys : List Nat) :
    (s.arraySound q a keys).1.mems = s.mems := by
  unfold State.arraySound; split <;> simp

@[simp] theorem State.arrayEnd_mems (s : State) (q : Nat) (l : Lease) (a : ACmd) (r : Nat × BitVec 32 × Nat × Nat) :
    (s.arrayEnd q l a r).mems = s.mems := by
  simp [State.arrayEnd]

theorem execArrayCommandComplete_nextWf (q : Nat) (s : State) (hs : s.mems.wf = true) :
    NextWf (execArrayCommandComplete q s) := by
  unfold execArrayCommandComplete
  dsimp only
  (repeat' split) <;> simp [hs]

theorem execLeaseExpiry_nextWf (q : Nat) (s : State) (hs : s.mems.wf = true) : NextWf (execLeaseExpiry q s) := by
  unfold execLeaseExpiry
  split <;> simp [hs]

@[simp] theorem State.replayLease_wf (s : State) (q : Nat) (r : LeaseRec) (hs : s.mems.wf = true) :
    (s.replayLease q r).mems.wf = true := by
  unfold State.replayLease
  extract_lets step s1
  have hstep (t : State) (a : Option ACmd) (ht : t.mems.wf = true) : (step t a).mems.wf = true := by
    simp only [step]
    split <;> simp [ht]
  simpa only [State.updLease_mems] using hstep _ _ (hstep _ _ (hstep _ _ hs))

theorem execLeaseGrant_nextWf (q : Nat) (s : State) (hs : s.mems.wf = true) : NextWf (execLeaseGrant q s) := by
  unfold execLeaseGrant
  dsimp only
  (repeat' split) <;> simp [hs]

/-! ### Interrupts -/

@[simp] theorem State.enterAtBoundary_mems (s : State) (sk fk : Nat) (t : TrapRec) :
    (s.enterAtBoundary sk fk t).mems = s.mems := by
  simp [State.enterAtBoundary]

theorem execEngineTrapEntry_nextWf (sk : Nat) (s : State) (hs : s.mems.wf = true) :
    NextWf (execEngineTrapEntry sk s) := by
  unfold execEngineTrapEntry
  (repeat' split) <;> simp [hs]

theorem execTimerExpiry_nextWf (core : Nat) (s : State) (hs : s.mems.wf = true) :
    NextWf (execTimerExpiry core s) := by
  unfold execTimerExpiry
  (repeat' split) <;> simp [hs]

theorem execMailInterrupt_nextWf (sk : Nat) (s : State) (hs : s.mems.wf = true) :
    NextWf (execMailInterrupt sk s) := by
  unfold execMailInterrupt
  split <;> simp [hs]

theorem execCancelInterrupt_nextWf (sk : Nat) (s : State) (hs : s.mems.wf = true) :
    NextWf (execCancelInterrupt sk s) := by
  unfold execCancelInterrupt
  (repeat' split) <;> simp [hs]

@[simp] theorem State.withdrawParked_mems (s : State) (sk fk : Nat) : (s.withdrawParked sk fk).mems = s.mems := by
  unfold State.withdrawParked
  split <;> simp

theorem execWatchdogExpiry_nextWf (fk : Nat) (s : State) (hs : s.mems.wf = true) :
    NextWf (execWatchdogExpiry fk s) := by
  unfold execWatchdogExpiry
  dsimp only
  (repeat' split) <;> simp [hs]

@[simp] theorem State.scrubWord_wf (s : State) (k i : Nat) (hs : s.mems.wf = true) :
    (s.scrubWord k i).mems.wf = true := by
  unfold State.scrubWord
  split
  · simp [hs, Mem.wf_writeLE]
  · exact State.serve_wf _ _ _ (by simp [hs])

@[simp] theorem State.scrubAcc_wf (s : State) (k : Nat) (hs : s.mems.wf = true) : (s.scrubAcc k).mems.wf = true :=
  s.memWf_pool _ (Mem.wf_clear _ _ _ (s.pool_wf hs)) hs

@[simp] theorem State.scrubTables_mems (s : State) (k : Nat) : (s.scrubTables k).mems = s.mems := by
  simp [State.scrubTables]

@[simp] theorem State.scrubNext_mems (s : State) (id : Nat) : (s.scrubNext id).mems = s.mems := by
  simp [State.scrubNext]

@[simp] theorem State.scrubEnd_wf (s : State) (c : CoreScrub) (hs : s.mems.wf = true) :
    (s.scrubEnd c).mems.wf = true := by
  simp [State.scrubEnd, hs]

theorem execScrubClearingEnd_nextWf (id : Nat) (s : State) (hs : s.mems.wf = true) :
    NextWf (execScrubClearingEnd id s) := by
  unfold execScrubClearingEnd
  split <;> simp [hs]

/-! ### Images of a partition -/

/-- A fold over writes that keep the form of a memory keeps it. -/
theorem Mem.wf_foldl {α : Type} (f : Mem → α → Mem) (hf : ∀ m x, m.wf = true → (f m x).wf = true) (l : List α) :
    ∀ m : Mem, m.wf = true → (l.foldl f m).wf = true := by
  induction l with
  | nil => exact fun m hm => hm
  | cons x l ih => exact fun m hm => ih _ (hf m x hm)

@[simp] theorem State.storeFrame_wf (s : State) (k f : Nat) (hs : s.mems.wf = true) :
    (s.storeFrame k f).mems.wf = true := by
  have hm (l : List Nat) := Mem.wf_foldl
    (fun m i => m.setDword (poolKey k (s.frameBase k f + 8 * i)) (s.frameImage k f i))
    (fun m i hm => Mem.wf_setDword _ _ m hm) l s.pool (s.pool_wf hs)
  rw [State.storeFrame, State.mems_mk, Mems.wf_mk, hm, State.gpool_wf s hs, State.dev_wf s hs, State.host_wf s hs]
  rfl

@[simp] theorem State.loadFrame_mems (s : State) (k f : Nat) : (s.loadFrame k f).mems = s.mems := by
  simp [State.loadFrame]

@[simp] theorem State.relayout_wf (s : State) (k : Nat) (w : BitVec 32) (hs : s.mems.wf = true) :
    (s.relayout k w).mems.wf = true := by
  unfold State.relayout
  dsimp only
  (repeat' split) <;> simp_all

@[simp] theorem State.loadSystem_mems (s : State) (k : Nat) (d : Nat → Word) : (s.loadSystem k d).mems = s.mems := by
  simp only [State.loadSystem, State.updCore_mems]
  exact mems_foldl (fun s n => s.updSlot_mems _ _) _ s

/-! ### External accesses -/

/-- A translation outcome that carries the state of a waiting thread carries memories in canonical form. -/
def XAddr.wf : XAddr → Prop
  | .wait s => s.mems.wf = true
  | _ => True

theorem State.xWait_wf (s : State) (code : Nat) (hs : s.mems.wf = true) : (s.xWait code).wf := by
  simp [State.xWait, XAddr.wf, hs]

theorem State.xHost_wf (s : State) (t : Trans) (write : Bool) (hs : s.mems.wf = true) : (s.xHost t write).wf := by
  have hw : ((s.askAts s.curTag t.addr write none (some s.cur.fk)).xWait 1).wf := State.xWait_wf _ _ (by simpa using hs)
  unfold State.xHost
  split
  · split <;> exact True.intro
  · split
    · exact True.intro
    · split
      · exact True.intro
      · exact hw

theorem State.xTranslate_snd_wf (s : State) (va : Word) (write : Bool) (hs : s.mems.wf = true) :
    (s.xTranslate va write).2.wf := by
  have ht := s.translate_wf s.curChannel s.curTag (va.toNat % 2 ^ 56) write hs
  unfold State.xTranslate
  dsimp only
  split
  · exact State.xHost_wf _ _ _ hs
  · split
    · exact True.intro
    · split
      · split
        · exact State.xHost_wf _ _ _ ht
        · exact True.intro
      · simpa [XAddr.wf] using ht
      · exact State.xWait_wf _ _ ht
      · split
        · exact State.xWait_wf _ _ (by simpa using ht)
        · exact True.intro

@[simp] theorem State.xCharge_mems (s : State) (i n : Nat) : (s.xCharge i n).1.mems = s.mems := by
  unfold State.xCharge
  dsimp only
  (repeat' split) <;> simp

@[simp] theorem State.xTranslate_wf (s : State) (va : Word) (write : Bool) (hs : s.mems.wf = true) :
    (s.xTranslate va write).1.mems.wf = true := by
  unfold State.xTranslate
  dsimp only
  (repeat' split) <;> simp [hs]

@[simp] theorem State.xSend_mems (s : State) (op : AccOp) (cls : AccClass) (va : Word) (t : Trans) (n : Nat)
    (data : Word) (dst : Option Nat) (o : Ord) : (s.xSend op cls va t n data dst o).mems = s.mems := by
  simp [State.xSend]

@[simp] theorem State.xHostErr_mems (s : State) (cls : AccClass) (kind : OutKind) (va : Word) (dst : Option Nat) :
    (s.xHostErr cls kind va dst).mems = s.mems := by
  simp [State.xHostErr]

@[simp] theorem State.xHostAccess_wf (s : State) (op : AccOp) (cls : AccClass) (va : Word) (t : Trans) (n : Nat)
    (data : Word) (dst : Option Nat) (o : Ord) (hs : s.mems.wf = true) :
    (s.xHostAccess op cls va t n data dst o).mems.wf = true := by
  simp [State.xHostAccess, hs]

@[simp] theorem State.xDone_mems (s : State) : (s.xDone).mems = s.mems := by simp [State.xDone]

theorem xAccess_nextWf (s : State) (op : AccOp) (am : AMode) (sum : Word) (n : Nat) (data : Word) (dst : Option Nat)
    (o : Ord) (hs : s.mems.wf = true) : NextWf (xAccess s op am sum n data dst o) := by
  have hc : (s.xCharge 0 n).1.mems.wf = true := by simpa using hs
  unfold xAccess
  extract_lets cls va
  have h1 := (s.xCharge 0 n).1.xTranslate_wf va (op == .store) hc
  have h2 := (s.xCharge 0 n).1.xTranslate_snd_wf va (op == .store) hc
  split
  · simp [hs]
  · split
    · simp [hs]
    · split
      · simpa using hc
      · split <;> rename_i he <;> rw [he] at h1 h2
        · simpa using h1
        · exact (nextWf_next _).2 h2
        · simpa using h1
        · simp [h1]

theorem execXld_nextWf (rt rb : BitVec 6) (am : AMode) (sz : Size) (o : Ord) (off : BitVec 32) (s : State)
    (hs : s.mems.wf = true) : NextWf (execXld rt rb am sz o off s) :=
  xAccess_nextWf _ _ _ _ _ _ _ _ hs

theorem execXst_nextWf (rt rb : BitVec 6) (am : AMode) (sz : Size) (o : Ord) (off : BitVec 32) (s : State)
    (hs : s.mems.wf = true) : NextWf (execXst rt rb am sz o off s) :=
  xAccess_nextWf _ _ _ _ _ _ _ _ hs

theorem Except.error_of_map_error {α β ε : Type} {f : α → β} {r : Except ε α} {x : ε} (hx : r.map f = .error x) :
    r = .error x := by
  cases r with
  | error y => exact congrArg _ (Except.error.inj hx)
  | ok a => cases hx

/-- `pushTranslate` over any address of a row: the sums of `rowAddress` are numerals that the kernel must not unfold. -/
def pushFrom (row : Word → Nat → Word) (s : State) (va : Word) (rowb i : Nat) :
    List (Nat × Nat × Nat) → State × Except XAddr (List Burst)
  | [] => (s, .ok [])
  | (r, off, len) :: ps =>
    let a := row va (r * rowb + off)
    let ch := s.xCharge i len
    if !ch.2 then (ch.1, .error (.wait ch.1.parkInPlace))
    else
      match ch.1.xTranslate a false with
      | (s1, .at_ t) =>
        let id := s1.fresh
        let b : Burst := { id := id.1, row := r, j := r, off, len, host := t.host, addr := t.addr, channel := s.curChannel,
                           entry := t.entry, ats := if t.host then s.atsEntry s.curTag t.addr else 0, c := t.c,
                           va := a.toNat % 2 ^ 56 }
        let x := pushFrom row id.2 va rowb (i + 1) ps
        (x.1, x.2.map (fun bs => b :: bs))
      | (s1, .trap code) => (s1.trap (pageRec a code), .error (.trap code))
      | (s1, .hostErr) => (s1.xHostErr .load .xpush a none, .error .hostErr)
      | (s1, .wait w) => (s1, .error (.wait w))

theorem pushTranslate_eq_pushFrom : pushTranslate = pushFrom rowAddress := by
  delta pushTranslate pushFrom
  delta pushTranslate._f pushFrom._f
  generalize rowAddress = row
  rfl

/-- The translation of a tile keeps the canonical form, and so does the state in which its thread waits. -/
theorem pushFrom_wf (row : Word → Nat → Word) (s : State) (va : Word) (rowb i : Nat) (ps : List (Nat × Nat × Nat))
    (hs : s.mems.wf = true) :
    (pushFrom row s va rowb i ps).1.mems.wf = true ∧ ∀ x, (pushFrom row s va rowb i ps).2 = .error x → x.wf := by
  induction ps generalizing s i with
  | nil => exact ⟨hs, fun x hx => by cases hx⟩
  | cons p ps ih =>
    obtain ⟨r, off, len⟩ := p
    have hc : (s.xCharge i len).1.mems.wf = true := by simpa using hs
    have hpark : (s.xCharge i len).1.parkInPlace.mems.wf = true := by simpa using hs
    have h1 := (s.xCharge i len).1.xTranslate_wf (row va (r * rowb + off)) false hc
    have h2 := (s.xCharge i len).1.xTranslate_snd_wf (row va (r * rowb + off)) false hc
    unfold pushFrom
    extract_lets a ch
    split
    · exact ⟨hc, fun x hx => Except.error.inj hx ▸ hpark⟩
    · split <;> rename_i he <;> rw [he] at h1 h2
      · rename_i s1 t
        have hx := ih s1.fresh.2 (i + 1) (by simpa using h1)
        exact ⟨hx.1, fun x h => hx.2 x (Except.error_of_map_error h)⟩
      · exact ⟨by simpa using h1, fun x hx => Except.error.inj hx ▸ True.intro⟩
      · exact ⟨by simpa using h1, fun x hx => Except.error.inj hx ▸ True.intro⟩
      · exact ⟨h1, fun x hx => Except.error.inj hx ▸ h2⟩

theorem pushTranslate_wf (s : State) (va : Word) (rowb i : Nat) (ps : List (Nat × Nat × Nat))
    (hs : s.mems.wf = true) : 
    (pushTranslate s va rowb i ps).1.mems.wf = true ∧ ∀ x, (pushTranslate s va rowb i ps).2 = .error x → x.wf :=
  pushTranslate_eq_pushFrom ▸ pushFrom_wf rowAddress s va rowb i ps hs

@[simp] theorem holdBurst_mems (s : State) (b : Burst) : (holdBurst s b).mems = s.mems := by simp [holdBurst]

@[simp] theorem State.startXpush_mems (s : State) (rt : BitVec 6) (sum tile : Word) (pool : Bool) (o : Ord)
    (bytes : List (Nat × Nat)) (bs : List Burst) : (s.startXpush rt sum tile pool o bytes bs).mems = s.mems := by
  simp [State.startXpush]

theorem execXpush_nextWf (rt rb rc : BitVec 6) (am : AMode) (o : Ord) (off : BitVec 32) (s : State)
    (hs : s.mems.wf = true) : 
    NextWf (execXpush rt rb rc am o off s) := by
  have hp := pushTranslate_wf s (s.accSum rb off) (puRowb (s.pg rc)) 0
    (tilePieces ((s.accSum rb off).toNat % 2 ^ 56) (puRowb (s.pg rc)) (puRows (s.pg rc))) hs
  unfold execXpush
  dsimp only
  split
  · simp [hs]
  · split
    · simp [hs]
    · split
      · simp [hs]
      · split
        · simp [hs]
        · split <;> rename_i he <;> rw [he] at hp
          · simpa using hp.1
          · simpa [XAddr.wf] using hp.2 _ rfl
          · simpa using hp.1
          · simpa using hp.1

theorem execXpref_nextWf (rb : BitVec 6) (am : AMode) (off : BitVec 32) (s : State) (hs : s.mems.wf = true) :
    NextWf (execXpref rb am off s) := by
  unfold execXpref
  dsimp only
  split <;> simp [hs]

@[simp] theorem State.atsInvalidate_mems (s : State) (vf va len : Nat) (whole : Bool) :
    (s.atsInvalidate vf va len whole).mems = s.mems := by
  simp [State.atsInvalidate]

@[simp] theorem State.startInval_mems (s : State) (tag : BitVec 10) (va len : Nat) (whole : Bool) (device : Bool)
    (frame : Option Nat) (out : Nat) (ats : Option Nat) :
    (s.startInval tag va len whole device frame out ats).mems = s.mems := by
  simp [State.startInval]

@[simp] theorem State.endInval_mems (s : State) (i : Inval) : (s.endInval i).mems = s.mems := by
  unfold State.endInval
  split <;> simp

@[simp] theorem State.markInval_mems (s : State) (i : Inval) (ch : Nat) : (s.markInval i ch).1.mems = s.mems := by
  simp [State.markInval]

theorem execTlbInvalidation_nextWf (id ch : Nat) (s : State) (hs : s.mems.wf = true) :
    NextWf (execTlbInvalidation id ch s) := by
  unfold execTlbInvalidation
  (repeat' split) <;> simp [hs]

theorem execXtlbi_nextWf (rt rb rc : BitVec 6) (am : AMode) (off : BitVec 32) (s : State) (hs : s.mems.wf = true) :
    NextWf (execXtlbi rt rb rc am off s) := by
  unfold execXtlbi
  dsimp only
  split <;> simp [hs]

theorem execXtlbiAll_nextWf (rt : BitVec 6) (_am : AMode) (s : State) (hs : s.mems.wf = true) :
    NextWf (execXtlbiAll rt _am s) := by
  unfold execXtlbiAll
  split <;> simp [hs]

/-! ### Page requests -/

@[simp] theorem State.dropReq_mems (s : State) (vf id : Nat) : (s.dropReq vf id).mems = s.mems := by
  simp [State.dropReq]

@[simp] theorem State.pageResume_mems (s : State) (fk : Nat) : (s.pageResume fk).mems = s.mems := by
  simp [State.pageResume]

@[simp] theorem State.contextFails_mems (s : State) (tag n : Nat) : (s.contextFails tag n).mems = s.mems := by
  simp [State.contextFails]

@[simp] theorem State.contextHost_mems (s : State) (tag code : Nat) (block : Option (Nat × List Byte)) :
    (s.contextHost tag code block).mems = s.mems := by
  unfold State.contextHost
  (repeat' split) <;> simp

@[simp] theorem State.waitersFail_mems (s : State) (host : Bool) (va : Nat) (copies threads : List Nat) :
    (s.waitersFail host va copies threads).mems = s.mems := by
  unfold State.waitersFail
  extract_lets one thread
  have hone (t : State) (id : Nat) : (one t id).mems = t.mems := by
    simp only [one]
    (repeat' split) <;> simp
  exact (mems_foldl (fun t fk => by simp [thread]) _ _).trans (mems_foldl hone _ _)

@[simp] theorem State.unitPage_wf (s : State) (unit code : Nat) (hs : s.mems.wf = true) :
    (s.unitPage unit code).mems.wf = true := by
  unfold State.unitPage
  (repeat' split) <;> simp [hs]

@[simp] theorem State.pageRetry_wf (s : State) (copies threads : List Nat) (units : List Nat)
    (hs : s.mems.wf = true) : (s.pageRetry copies threads units).mems.wf = true := by
  unfold State.pageRetry
  dsimp only
  simp_all

@[simp] theorem State.pageFail_wf (s : State) (host : Bool) (va : Nat) (copies threads units : List Nat)
    (hs : s.mems.wf = true) : 
    (s.pageFail host va copies threads units).mems.wf = true :=
  mems_wf_foldl (fun t u ht => t.unitPage_wf u 1 ht) _ _ (by simpa using hs)

@[simp] theorem State.failAll_wf (s : State) (vf : Nat) (hs : s.mems.wf = true) : (s.failAll vf).mems.wf = true := by
  unfold State.failAll
  dsimp only
  simp_all

@[simp] theorem State.requestPage_mems (s : State) (vf : Nat) (host : Bool) (va : Nat) (write : Bool)
    (copies threads : List Nat) (units : List Nat) :
    (s.requestPage vf host va write copies threads units).mems = s.mems := by
  simp [State.requestPage]

@[simp] theorem State.hubPageFault_wf (s : State) (m : TrapMsg) (hs : s.mems.wf = true) :
    (s.hubPageFault m).mems.wf = true := by
  simp [State.hubPageFault, hs]

@[simp] theorem State.hubLasting_mems (s : State) (m : TrapMsg) : (s.hubLasting m).mems = s.mems := by
  unfold State.hubLasting
  (repeat' split) <;> simp

@[simp] theorem State.hubMessage_wf (s : State) (m : TrapMsg) (hs : s.mems.wf = true) :
    (s.hubMessage m).mems.wf = true := by
  simp [State.hubMessage, hs]

theorem execHubTrapMessage_nextWf (beacon : Nat) (s : State) (hs : s.mems.wf = true) :
    NextWf (execHubTrapMessage beacon s) := by
  unfold execHubTrapMessage
  split <;> simp [hs]

theorem execPageRequestRecord_nextWf (id : Nat) (s : State) (hs : s.mems.wf = true) :
    NextWf (execPageRequestRecord id s) := by
  unfold execPageRequestRecord
  split <;> simp [hs]

@[simp] theorem State.staleResponse_mems (s : State) (vf : Nat) : (s.staleResponse vf).mems = s.mems := by
  simp [State.staleResponse]

@[simp] theorem State.answerReq_wf (s : State) (vf : Nat) (r : PageReq) (code : BitVec 2) (hs : s.mems.wf = true) :
    (s.answerReq vf r code).mems.wf = true := by
  simp [State.answerReq, hs]

@[simp] theorem State.respondPage_wf (s : State) (vf : Nat) (host : Bool) (rid : Nat) (gen : BitVec 16)
    (code : BitVec 2) (hs : s.mems.wf = true) : (s.respondPage vf host rid gen code).mems.wf = true := by
  unfold State.respondPage
  dsimp only
  split <;> simp [hs]

theorem execPageResponse_nextWf (vf : Nat) (rid : Word) (gen : BitVec 16) (code : BitVec 2) (s : State)
    (hs : s.mems.wf = true) : NextWf (execPageResponse vf rid gen code s) := by
  simp [execPageResponse, hs]

theorem execPageStaleClear_nextWf (vf : Nat) (bits : Word) (s : State) (hs : s.mems.wf = true) :
    NextWf (execPageStaleClear vf bits s) := by
  simpa [execPageStaleClear] using hs

theorem heldWrite_nextWf (s : State) (vf : Nat) (i : Instr) (go : State → State) (hgo : ∀ t, (go t).mems = t.mems)
    (hs : s.mems.wf = true) : NextWf (heldWrite s vf i go) := by
  simp [heldWrite, hgo, hs]

theorem execPrring_nextWf (vf : Nat) (ptr : Word) (s : State) (hs : s.mems.wf = true) :
    NextWf (execPrring vf ptr s) :=
  heldWrite_nextWf _ _ _ _ (fun t => by simp) hs

@[simp] theorem State.pageOutcome_mems (s : State) (copies threads : List Nat) (code : Nat) :
    (s.pageOutcome copies threads code).mems = s.mems := by
  simp [State.pageOutcome]

theorem execPriPageRequest_nextWf (req : PriAsk) (s : State) (hs : s.mems.wf = true) :
    NextWf (execPriPageRequest req s) := by
  unfold execPriPageRequest
  dsimp only
  (repeat' split) <;> simp [hs]

theorem execPrgResponse_nextWf (vf index : Nat) (gen : BitVec 16) (code : BitVec 2) (s : State)
    (hs : s.mems.wf = true) : NextWf (execPrgResponse vf index gen code s) := by
  simp [execPrgResponse, hs]

@[simp] theorem State.cacheAts_mems (s : State) (vf : Nat) (pasid : BitVec 20) (page : Nat) :
    (s.cacheAts vf pasid page).mems = s.mems := by
  simp [State.cacheAts]

@[simp] theorem State.endAts_wf (s : State) (q : HostReq) (error : Bool) (hs : s.mems.wf = true) :
    (s.endAts q error).mems.wf = true := by
  have hf (t : State) (l : List Nat) : (l.foldl (fun s id => s.failCopy id 6) t).mems = t.mems :=
    mems_foldl (fun t id => by simp) l t
  unfold State.endAts
  split
  · split <;> simp [hs]
  · split
    · dsimp only
      rw [mems_foldl (fun t fk => by simp), hf]
      exact hs
    · simp [hs]

@[simp] theorem State.endHostLoad_mems (s : State) (q : HostReq) (fk : Nat) (error : Bool) :
    (s.endHostLoad q fk error).mems = s.mems := by
  simp [State.endHostLoad]

@[simp] theorem State.endHostBurst_mems (s : State) (q : HostReq) (id bid : Nat) (error : Bool) :
    (s.endHostBurst q id bid error).mems = s.mems := by
  unfold State.endHostBurst
  split <;> simp

@[simp] theorem State.endUnitRead_mems (s : State) (q : HostReq) (error : Bool) :
    (s.endUnitRead q error).mems = s.mems := by
  unfold State.endUnitRead
  dsimp only
  split <;> simp

@[simp] theorem State.hostEnd_wf (s : State) (id : Nat) (error : Bool) (hs : s.mems.wf = true) :
    (s.hostEnd id error).mems.wf = true := by
  unfold State.hostEnd
  (repeat' split) <;> simp [hs]

theorem execHostCompletion_nextWf (id : Nat) (error : Bool) (s : State) (hs : s.mems.wf = true) :
    NextWf (execHostCompletion id error s) := by
  simp [execHostCompletion, hs]

theorem execHostCompletionTimeout_nextWf (id : Nat) (s : State) (hs : s.mems.wf = true) :
    NextWf (execHostCompletionTimeout id s) := by
  simp [execHostCompletionTimeout, hs]

theorem execAtsInvalidateRequest_nextWf (vf va len : Nat) (s : State) (hs : s.mems.wf = true) :
    NextWf (execAtsInvalidateRequest vf va len s) := by
  simpa [execAtsInvalidateRequest] using hs

theorem execAtsInvalidateCompletion_nextWf (id : Nat) (s : State) (hs : s.mems.wf = true) :
    NextWf (execAtsInvalidateCompletion id s) := by
  unfold execAtsInvalidateCompletion
  split <;> simp [hs]

/-! ### Launches and tasks -/

@[simp] theorem State.updLaunch_mems (s : State) (tag lseq : Nat) (h : Launch → Launch) :
    (s.updLaunch tag lseq h).mems = s.mems := by
  simp [State.updLaunch]

@[simp] theorem State.dropFailed_mems (s : State) (tag : Nat) : (s.dropFailed tag).mems = s.mems := by
  simp [State.dropFailed]

theorem execLaunchRecord_nextWf (vf : Nat) (whole : Bool) (dwords : List Word) (s : State) (hs : s.mems.wf = true) :
    NextWf (execLaunchRecord vf whole dwords s) := by
  simpa [execLaunchRecord] using hs

@[simp] theorem State.setDet_mems (s : State) (tag : Nat) (det : Bool) : (s.setDet tag det).mems = s.mems := by
  simp [State.setDet]

@[simp] theorem State.completeLaunch_mems (s : State) (tag : Nat) (l : Launch) (status : Nat) :
    (s.completeLaunch tag l status).mems = s.mems := by
  simp [State.completeLaunch]

theorem execLaunchCompletion_nextWf (tag lseq : Nat) (s : State) (hs : s.mems.wf = true) :
    NextWf (execLaunchCompletion tag lseq s) := by
  unfold execLaunchCompletion
  split <;> simp [hs]

@[simp] theorem State.giveRange_mems (s : State) (tag lseq q lo hi : Nat) :
    (s.giveRange tag lseq q lo hi).mems = s.mems := by
  simp [State.giveRange]

@[simp] theorem State.dispense_mems (tag lseq : Nat) (s : State) (q : Nat) :
    (State.dispense tag lseq s q).mems = s.mems := by
  unfold State.dispense
  split <;> simp

@[simp] theorem State.dispenseAll_mems (s : State) (tag : Nat) (l : Launch) :
    (s.dispenseAll tag l).mems = s.mems := by
  simp [State.dispenseAll]

@[simp] theorem State.setPword_wf (s : State) (tag : Nat) (w : BitVec 32) (hs : s.mems.wf = true) :
    (s.setPword tag w).mems.wf = true := mems_wf_foldl (fun t k ht => t.relayout_wf k w ht) _ s hs

@[simp] theorem State.setKeys_mems (s : State) (tag : Nat) : (s.setKeys tag).mems = s.mems := by simp [State.setKeys]

@[simp] theorem State.acceptLaunch_wf (s : State) (tag : Nat) (l : Launch) (first : Bool) (hs : s.mems.wf = true) :
    (s.acceptLaunch tag l first).mems.wf = true := by
  simp [State.acceptLaunch, hs]

theorem execLaunchCheck_nextWf (tag : Nat) (s : State) (hs : s.mems.wf = true) : NextWf (execLaunchCheck tag s) := by
  unfold execLaunchCheck
  dsimp only
  (repeat' split) <;> simp [hs]

theorem execLaunchRangeRequest_nextWf (tag lseq q : Nat) (s : State) (hs : s.mems.wf = true) :
    NextWf (execLaunchRangeRequest tag lseq q s) := by
  simpa [execLaunchRangeRequest] using hs

@[simp] theorem State.stepRange_mems (s : State) (q : Nat) (r : Range) : (s.stepRange q r).mems = s.mems := by
  simp [State.stepRange]

@[simp] theorem fillRange_wf (q tag lseq : Nat) (s : State) (n : Nat) (hs : s.mems.wf = true) :
    (fillRange q tag lseq s n).mems.wf = true := by
  induction n generalizing s with
  | zero => exact hs
  | succ n ih =>
    unfold fillRange
    split
    · exact hs
    · extract_lets count spilling
      split
      · exact hs
      · extract_lets lane mine s1 t s2
        have h1 : s1.mems.wf = true := by simpa [s1] using hs
        have ht : t.1.mems.wf = true := by simpa [t] using h1
        have h2 : s2.mems.wf = true := State.allocate_wf _ _ _ _ _ _ _ _ ht
        split
        · exact ih s1 h1
        · split
          · exact h2
          · exact ih s2 h2

@[simp] theorem State.askRange_mems (s : State) (q tag : Nat) (l : Launch) : (s.askRange q tag l).mems = s.mems := by
  simp [State.askRange]

@[simp] theorem State.fillLaunch_wf (q tag : Nat) (s : State) (l : Launch) (hs : s.mems.wf = true) :
    (State.fillLaunch q tag s l).mems.wf = true := by
  have hf := fillRange_wf q tag l.lseq s 1024 hs
  unfold State.fillLaunch
  dsimp only
  (repeat' split) <;> simp [hf]

@[simp] theorem State.fillCluster_wf (s : State) (q : Nat) (hs : s.mems.wf = true) :
    (s.fillCluster q).mems.wf = true := by
  refine mems_wf_foldl (fun t tag ht => ?_) _ s hs
  split
  · exact ht
  · exact mems_wf_foldl (fun u l hu => State.fillLaunch_wf q tag u l hu) _ t ht

@[simp] theorem State.drawFormats_mems (s : State) (t : Task) : (s.drawFormats t).1.mems = s.mems := by
  unfold State.drawFormats
  split <;> simp

@[simp] theorem State.bindProducer_mems (s : State) (t : Task) (fk : Nat) : (s.bindProducer t fk).mems = s.mems := by
  simp [State.bindProducer]

@[simp] theorem State.place_mems (s : State) (q : Nat) (t : Task) (p : Place) : (s.place q t p).mems = s.mems := by
  simp [State.place]

theorem execTaskDispatch_nextWf (q : Nat) (s : State) (hs : s.mems.wf = true) : NextWf (execTaskDispatch q s) := by
  unfold execTaskDispatch
  dsimp only
  (repeat' split) <;> simp [hs]

@[simp] theorem issueTiles_mems (q : Nat) (t : Task) (fk : Nat) (s : State) (ds : List (Word × Word)) :
    (issueTiles q t fk s ds).1.mems = s.mems := by
  induction ds generalizing s with
  | nil => rfl
  | cons d ds ih => simp [issueTiles, ih]

@[simp] theorem State.startPrefetch_mems (s : State) (q : Nat) (t : Task) (fk : Nat) :
    (s.startPrefetch q t fk).mems = s.mems := by
  simp [State.startPrefetch]

theorem execTilePrefetchStart_nextWf (q : Nat) (s : State) (hs : s.mems.wf = true) :
    NextWf (execTilePrefetchStart q s) := by
  unfold execTilePrefetchStart
  split <;> simp [hs]

@[simp] theorem State.dropCancelled_mems (s : State) (q : Nat) (t : Task) : (s.dropCancelled q t).mems = s.mems := by
  simp [State.dropCancelled]

theorem execPrefetchCompletion_nextWf (id : Nat) (s : State) (hs : s.mems.wf = true) :
    NextWf (execPrefetchCompletion id s) := by
  unfold execPrefetchCompletion
  dsimp only
  (repeat' split) <;> simp [hs]

@[simp] theorem State.steal_mems (s : State) (q v : Nat) (t : Task) : (s.steal q v t).mems = s.mems := by
  simp [State.steal]

theorem execStealRequest_nextWf (q : Nat) (s : State) (hs : s.mems.wf = true) : NextWf (execStealRequest q s) := by
  unfold execStealRequest
  split <;> simp [hs]

@[simp] theorem reportRefusals_mems (s : State) (x : Nat × (Nat × Bool)) : (reportRefusals s x).mems = s.mems := by
  simp [reportRefusals]

@[simp] theorem releasePackets_mems (s : State) (tag : Nat) : (releasePackets s tag).mems = s.mems := by
  simp [releasePackets]

@[simp] theorem State.endCharge_mems (s : State) (fk : Nat) : (s.endCharge fk).mems = s.mems := by
  simp [State.endCharge]

@[simp] theorem State.startPeriod_mems (s : State) : (s.startPeriod).mems = s.mems := by simp [State.startPeriod]

theorem execBudgetPeriod_nextWf (s : State) (hs : s.mems.wf = true) : NextWf (execBudgetPeriod s) := by
  simpa [execBudgetPeriod] using hs

/-! ### Multicast and collectives -/

@[simp] theorem State.setPort_mems (s : State) (r : Nat) (tag : BitVec 10) (mtag : BitVec 16) (port : Nat) :
    (s.setPort r tag mtag port).mems = s.mems := by
  simp [State.setPort]

@[simp] theorem State.clearPort_mems (s : State) (r : Nat) (tag : BitVec 10) (mtag : BitVec 16) (port : Nat) :
    (s.clearPort r tag mtag port).mems = s.mems := by
  simp [State.clearPort]

@[simp] theorem State.expectAcc_mems (s : State) (rd : BitVec 6) : (s.expectAcc rd).2.mems = s.mems := by
  simp [State.expectAcc]

@[simp] theorem State.subDone_mems (v : Word) (s : State) (x : Nat × Nat) : (State.subDone v s x).mems = s.mems := by
  simp [State.subDone]

@[simp] theorem State.replaceSub_mems (s : State) (k fk out : Nat) (tag : BitVec 10) (mtag : BitVec 16) (off : Nat) :
    (s.replaceSub k fk out tag mtag off).mems = s.mems := by
  simp [State.replaceSub]

theorem execCsub_nextWf (rd ra rb : BitVec 6) (s : State) (hs : s.mems.wf = true) : NextWf (execCsub rd ra rb s) := by
  unfold execCsub
  dsimp only
  split <;> simp [hs]

theorem execCunsub_nextWf (rd ra : BitVec 6) (s : State) (hs : s.mems.wf = true) : NextWf (execCunsub rd ra s) := by
  unfold execCunsub
  dsimp only
  split <;> simp [hs]

@[simp] theorem State.setJoin_mems (s : State) (id : Nat) (j : Option JoinReq) : (s.setJoin id j).mems = s.mems := by
  simp [State.setJoin]

@[simp] theorem State.joinOn_mems (s : State) (j : JoinReq) : (s.joinOn j).mems = s.mems := by simp [State.joinOn]

@[simp] theorem State.joinFails_mems (s : State) (j : JoinReq) : (s.joinFails j).mems = s.mems := by
  simp [State.joinFails]

theorem execMulticastJoin_nextWf (id : Nat) (s : State) (hs : s.mems.wf = true) :
    NextWf (execMulticastJoin id s) := by
  unfold execMulticastJoin
  split <;> simp [hs]

theorem execMulticastJoinAck_nextWf (id : Nat) (s : State) (hs : s.mems.wf = true) :
    NextWf (execMulticastJoinAck id s) := by
  unfold execMulticastJoinAck
  split <;> simp [hs]

@[simp] theorem State.setLeave_mems (s : State) (id : Nat) (l : Option LeaveReq) :
    (s.setLeave id l).mems = s.mems := by
  simp [State.setLeave]

theorem execMulticastLeave_nextWf (id : Nat) (s : State) (hs : s.mems.wf = true) :
    NextWf (execMulticastLeave id s) := by
  unfold execMulticastLeave
  split <;> simp [hs]

@[simp] theorem State.setTile_mems (s : State) (t : Tile) : (s.setTile t).mems = s.mems := by simp [State.setTile]

@[simp] theorem State.replicate_mems (s : State) (t : Tile) (r : Nat) : (s.replicate t r).1.mems = s.mems := by
  simp [State.replicate]

theorem execMulticastPush_nextWf (id r : Nat) (s : State) (hs : s.mems.wf = true) :
    NextWf (execMulticastPush id r s) := by
  unfold execMulticastPush
  (repeat' split) <;> simp [hs]

@[simp] theorem State.refuseTile_mems (s : State) (t : Tile) (k off : Nat) :
    (s.refuseTile t k off).mems = s.mems := by
  simp [State.refuseTile]

@[simp] theorem State.deliverPiece_mems (s : State) (t : Tile) (k off pos : Nat) :
    (s.deliverPiece t k off pos).mems = s.mems := by
  simp [State.deliverPiece]

@[simp] theorem leaveDone_mems (id k : Nat) (s : State) (l : LeaveReq) : (leaveDone id k s l).mems = s.mems := by
  simp [leaveDone]

theorem execMulticastDelivery_nextWf (id k : Nat) (s : State) (hs : s.mems.wf = true) :
    NextWf (execMulticastDelivery id k s) := by
  unfold execMulticastDelivery
  (repeat' split) <;> simp [hs]

@[simp] theorem State.refuseRows_mems (s : State) (c : Copy) (ptr stride : Word) :
    (s.refuseRows c ptr stride).mems = s.mems := by
  simp [State.refuseRows]

@[simp] theorem State.chargeSide_mems (s : State) (c : Copy) (ptr : Word) (n : Nat) :
    (s.chargeSide c ptr n).mems = s.mems := by
  simp [State.chargeSide]

@[simp] theorem writeRows_mems (id : Nat) (c : Copy) (data : List Byte) (s : State) (r n : Nat) :
    (writeRows id c data s r n).1.mems = s.mems := by
  induction n generalizing data s r with
  | zero => rfl
  | succ n ih => simp [writeRows, ih]

@[simp] theorem State.endReduce_mems (s : State) (id : Nat) (status : BitVec 8) :
    (s.endReduce id status).mems = s.mems := by
  simp [State.endReduce]

@[simp] theorem State.dropRound_mems (s : State) (num : Nat) (round : List Nat) :
    (s.dropRound num round).mems = s.mems := by
  simp [State.dropRound]

@[simp] theorem State.endRound_mems (s : State) (num : Nat) (cm : Comm) (round : List Nat) :
    (s.endRound num cm round).mems = s.mems := by
  unfold State.endRound
  dsimp only
  split
  · simp
  · split <;> simp

@[simp] theorem State.contribute_wf (s : State) (num : Nat) (cm : Comm) (round : List Nat) (hs : s.mems.wf = true) :
    (s.contribute num cm round).mems.wf = true := by
  simpa [State.contribute] using hs

@[simp] theorem State.readPiece_mems (s : State) (id : Nat) (c : Copy) : (s.readPiece id c).mems = s.mems := by
  unfold State.readPiece
  dsimp only
  (repeat' split) <;> simp

@[simp] theorem State.copyContribution_wf (s : State) (id : Nat) (c : Copy) (hs : s.mems.wf = true) :
    (s.copyContribution id c).mems.wf = true := by
  unfold State.copyContribution
  dsimp only
  (repeat' split) <;> simp [hs]

@[simp] theorem State.remoteContribution_wf (s : State) (p : Packet) (hs : s.mems.wf = true) :
    (s.remoteContribution p).mems.wf = true := by
  unfold State.remoteContribution
  dsimp only
  (repeat' split) <;> simp [hs]

theorem execReduceContribution_nextWf (id : Nat) (s : State) (hs : s.mems.wf = true) :
    NextWf (execReduceContribution id s) := by
  unfold execReduceContribution
  split <;> simp [hs]

/-! ### Preemption -/

@[simp] theorem State.stopThread_mems (s : State) (x : Nat × Nat) : (s.stopThread x).mems = s.mems := by
  simp [State.stopThread]

@[simp] theorem State.cancelActs_mems (s : State) (p : Instr → Bool) : (s.cancelActs p).mems = s.mems := by
  simp [State.cancelActs]

theorem execPreemptSlice_nextWf (tag : Nat) (s : State) (hs : s.mems.wf = true) :
    NextWf (execPreemptSlice tag s) := by
  simpa [execPreemptSlice] using hs

theorem execPreempt_nextWf (k : Nat) (s : State) (hs : s.mems.wf = true) : NextWf (execPreempt k s) := by
  unfold execPreempt
  dsimp only
  split <;> simp [hs]

@[simp] theorem State.putImage_wf (s : State) (tag : Nat) (im : Image) (hs : s.mems.wf = true) :
    (s.putImage tag im).mems.wf = true := by
  have hg : (im.gpool.foldl (fun m c => m.write c.1 c.2)
      ((s.myGeysers tag).foldl (fun m ch => m.clear (ch * 2 ^ 16) 0xC000) s.gpool)).wf = true :=
    Mem.wf_foldl _ (fun m x hm => Mem.wf_write _ _ m hm) _ _
      (Mem.wf_foldl _ (fun m x hm => Mem.wf_clear _ _ m hm) _ _ (s.gpool_wf hs))
  simpa [State.putImage, hs] using hg

@[simp] theorem State.askContext_mems (s : State) (tag va : Nat) (write : Bool) :
    (s.askContext tag va write).mems = s.mems := by
  simp [State.askContext]

@[simp] theorem State.contextBlock_wf (s : State) (tag off : Nat) (write : Bool) (hs : s.mems.wf = true) :
    (s.contextBlock tag off write).1.mems.wf = true := by
  unfold State.contextBlock
  dsimp only
  (repeat' split) <;> simp [hs]

theorem execContextSave_nextWf (tag : Nat) (s : State) (hs : s.mems.wf = true) : NextWf (execContextSave tag s) := by
  simpa [execContextSave] using hs

@[simp] theorem State.saved_mems (s : State) (tag : Nat) : (s.saved tag).mems = s.mems := by simp [State.saved]

theorem execContextSaveDone_nextWf (tag : Nat) (s : State) (hs : s.mems.wf = true) :
    NextWf (execContextSaveDone tag s) := by
  unfold execContextSaveDone
  split
  · simpa using hs
  · split
    · simpa using hs
    · rename_i off d _
      have hb := s.contextBlock_wf tag off true hs
      generalize s.contextBlock tag off true = r at hb ⊢
      obtain ⟨s1, e⟩ := r
      cases e with
      | code n => simpa using hb
      | dead => simpa using hb
      | asked => simpa using hb
      | at_ addr host c =>
        dsimp only at hb ⊢
        generalize s1.blockBytes d = bs
        have h2 : (if host then s1.hostStore tag addr bs else s1.devWrite tag addr bs c).mems.wf = true := by
          split <;> simp [hb]
        simpa using h2

theorem execResume_nextWf (tag : Nat) (s : State) (hs : s.mems.wf = true) : NextWf (execResume tag s) := by
  simpa [execResume] using hs

theorem restoreArea_wf (k lo : Nat) (d : Nat → Word) (m : Mem) (n : Nat) (hm : m.wf = true) :
    (restoreArea k lo d m n).wf = true := by
  induction n generalizing lo m with
  | zero => exact hm
  | succ n ih => exact ih _ _ (Mem.wf_setDword _ _ m hm)

@[simp] theorem State.restoreCore_wf (s : State) (k : Nat) (d : Nat → Word) (hs : s.mems.wf = true) :
    (s.restoreCore k d).mems.wf = true := by
  have hf (l : List Nat) (t : State) : (l.foldl (fun s f => s.loadFrame k f) t).mems = t.mems :=
    mems_foldl (fun t f => t.loadFrame_mems k f) l t
  have hr := restoreArea_wf k 0 d s.pool 16384 (s.pool_wf hs)
  rw [State.restoreCore, State.updCore_mems, State.loadSystem_mems, hf, State.mems_mk, Mems.wf_mk, hr,
    State.gpool_wf s hs, State.dev_wf s hs, State.host_wf s hs]
  rfl

theorem foldl_restoreCore_wf (d : Nat × Nat → Nat → Word) (l : List (Nat × Nat)) (s : State) (hs : s.mems.wf = true) :
    (l.foldl (fun t x => t.restoreCore x.2 (d x)) s).mems.wf = true := by
  induction l generalizing s with
  | nil => exact hs
  | cons x l ih => exact ih _ (s.restoreCore_wf x.2 (d x) hs)

@[simp] theorem State.restoreImages_wf (s : State) (tag : Nat) (hs : s.mems.wf = true) :
    (s.restoreImages tag).mems.wf = true := by
  unfold State.restoreImages
  extract_lets p s1 s2
  have h1 : s1.mems.wf = true := by
    simp only [s1]
    split <;> simp [hs]
  rw [State.updPart_mems]
  exact foldl_restoreCore_wf (fun x i => p.readback.dword (2 ^ 18 * x.1 + 8 * i)) _ _ h1

@[simp] theorem replayMessage_wf (s : State) (p : Packet) (hs : s.mems.wf = true) :
    (replayMessage s p).mems.wf = true := by
  unfold replayMessage
  split <;> simp [hs]

@[simp] theorem State.replayCore_wf (s : State) (k : Nat) (hs : s.mems.wf = true) :
    (s.replayCore k).mems.wf = true := by
  have h1 (l : List Packet) (t : State) (ht : t.mems.wf = true) : (l.foldl replayMessage t).mems.wf = true :=
    mems_wf_foldl (fun u p hu => replayMessage_wf u p hu) l t ht
  simp only [State.replayCore, State.mems_ite, State.later_mems, ite_self]
  rw [mems_foldl (fun t p => by simp)]
  exact h1 _ _ (by simpa using hs)

@[simp] theorem State.restoreThread_mems (s : State) (x : Nat × Nat) : (s.restoreThread x).mems = s.mems := by
  simp [State.restoreThread]

@[simp] theorem State.wakePart_mems (s : State) (tag : Nat) : (s.wakePart tag).mems = s.mems := by
  simp [State.wakePart]

@[simp] theorem State.restart_wf (s : State) (tag : Nat) (hs : s.mems.wf = true) :
    (s.restart tag).mems.wf = true := by
  have h2 (l : List Nat) (t : State) (ht : t.mems.wf = true) : (l.foldl State.replayCore t).mems.wf = true :=
    mems_wf_foldl (fun u k hu => u.replayCore_wf k hu) l t ht
  unfold State.restart
  extract_lets ks s1 s2 s3 s4
  have h1 : s1.mems = s.mems := mems_foldl (fun t k => by simp) _ _
  have h3 : s3.mems = s2.mems := mems_foldl (fun t k => by simp) _ _
  have hs2 : s2.mems.wf = true := h2 _ _ (h1 ▸ hs)
  simpa [s4, h3] using hs2

@[simp] theorem State.readBlock_mems (s : State) (tag off addr : Nat) (host c : Bool) :
    (s.readBlock tag off addr host c).mems = s.mems := by
  simp [State.readBlock]

theorem execRestoreDone_nextWf (tag : Nat) (s : State) (hs : s.mems.wf = true) : NextWf (execRestoreDone tag s) := by
  unfold execRestoreDone
  split
  · simpa using hs
  · split
    · simp [hs]
    · rename_i off _ _
      have hb := s.contextBlock_wf tag off false hs
      split <;> rename_i he <;> rw [he] at hb <;> simpa using hb

/-! ### Containment -/

@[simp] theorem State.setEpoch_mems (s : State) (tag : Nat) (e : BitVec 6) : (s.setEpoch tag e).mems = s.mems := by
  simp [State.setEpoch]

@[simp] theorem State.raiseGen_wf (s : State) (vf : Nat) (hs : s.mems.wf = true) :
    (s.raiseGen vf).mems.wf = true := by
  unfold State.raiseGen
  dsimp only
  simp_all

@[simp] theorem State.closeRounds_mems (s : State) (tag : Nat) : (s.closeRounds tag).mems = s.mems := by
  simp [State.closeRounds]

@[simp] theorem State.freeFrames'_mems (s : State) (tag : Nat) : (s.freeFrames' tag).mems = s.mems := by
  simp [State.freeFrames']

@[simp] theorem State.stopCore_mems (s : State) (k : Nat) : (s.stopCore k).mems = s.mems := by
  simp only [State.stopCore, State.updCore_mems]
  exact mems_foldl (fun s n => s.updSlot_mems _ _) _ s

@[simp] theorem State.idleThreads_mems (s : State) (ch : Nat) : (s.idleThreads ch).mems = s.mems := by
  simp only [State.idleThreads, State.updGeyser_mems]
  exact mems_foldl (fun s n => by simp only [State.updGeyser_mems, State.updSlot_mems]) _ s

@[simp] theorem State.abandonCopy_mems (s : State) (x : Nat × Copy) : (s.abandonCopy x).mems = s.mems := by
  unfold State.abandonCopy
  dsimp only
  split <;> simp

@[simp] theorem State.abandonLate_mems (s : State) (l : Late) : (s.abandonLate l).mems = s.mems := by
  simp [State.abandonLate]

@[simp] theorem State.abandonJoin_mems (s : State) (j : JoinReq) : (s.abandonJoin j).mems = s.mems := by
  simp [State.abandonJoin]

@[simp] theorem State.abandonHost_mems (s : State) (r : HostReq) : (s.abandonHost r).mems = s.mems := by
  simp [State.abandonHost]

@[simp] theorem State.abandonAll_mems (s : State) (tag : Nat) : (s.abandonAll tag).mems = s.mems := by
  simp [State.abandonAll]

@[simp] theorem State.freeQueues_mems (s : State) (tag : Nat) : (s.freeQueues tag).mems = s.mems := by
  simp [State.freeQueues]

@[simp] theorem State.dropWaits_mems (s : State) (tag : Nat) : (s.dropWaits tag).mems = s.mems := by
  simp [State.dropWaits]

@[simp] theorem State.dropLine_wf (ch : Nat) (s : State) (l : CLine) (hs : s.mems.wf = true) :
    (State.dropLine ch s l).mems.wf = true := by
  unfold State.dropLine
  dsimp only
  split
  · simp [hs, Mem.wf_setBytes]
  · exact hs

@[simp] theorem State.dropLines_wf (s : State) (tag : Nat) (hs : s.mems.wf = true) :
    (s.dropLines tag).mems.wf = true := by
  refine mems_wf_foldl (fun t ch ht => ?_) _ s hs
  simpa only [State.updGeyser_mems] using mems_wf_foldl (fun u l hu => State.dropLine_wf ch u l hu) _ t ht

@[simp] theorem State.dropLaunches_mems (s : State) (tag : Nat) : (s.dropLaunches tag).mems = s.mems := by
  simp [State.dropLaunches]

@[simp] theorem State.containReset_wf (s : State) (tag : Nat) (hs : s.mems.wf = true) :
    (s.containReset tag).mems.wf = true := by
  have h1 : ((((s.dropWaits tag).abandonAll tag).freeQueues tag).freeFrames' tag).mems.wf = true := by simpa using hs
  simp only [State.containReset, State.updPart_mems, State.removeFailed_mems]
  refine State.raiseGen_wf _ _ ?_
  simp only [State.setEpoch_mems, State.setDet_mems, State.dropLaunches_mems]
  refine State.dropLines_wf _ _ ?_
  rw [mems_foldl State.idleThreads_mems, mems_foldl State.stopCore_mems]
  exact h1

@[simp] theorem State.resetPart_wf (s : State) (tag : Nat) (cause : BitVec 8) (hs : s.mems.wf = true) :
    (s.resetPart tag cause).mems.wf = true := by
  simp only [State.resetPart, State.wakePart_mems, State.raiseCause_mems]
  exact s.containReset_wf tag hs

@[simp] theorem State.resetOrWait_wf (s : State) (tag : Nat) (cause : BitVec 8) (i : Instr) (hs : s.mems.wf = true) :
    (s.resetOrWait tag cause i).mems.wf = true := by
  simp [State.resetOrWait, hs]

theorem execContainmentReset_nextWf (tag : Nat) (cause : BitVec 8) (s : State) (hs : s.mems.wf = true) :
    NextWf (execContainmentReset tag cause s) := by
  simp [execContainmentReset, hs]

theorem execContainmentDelayExpiry_nextWf (tag : Nat) (s : State) (hs : s.mems.wf = true) :
    NextWf (execContainmentDelayExpiry tag s) := by
  simp [execContainmentDelayExpiry, hs]

theorem execPartitionResetRequest_nextWf (tag : Nat) (s : State) (hs : s.mems.wf = true) :
    NextWf (execPartitionResetRequest tag s) := by
  simp [execPartitionResetRequest, hs]

/-! ### Scrubs and certificates -/

@[simp] theorem State.scrubPool_wf (s : State) (k : Nat) (hs : s.mems.wf = true) :
    (s.scrubPool k).mems.wf = true := by
  simp [State.scrubPool, hs, Mem.wf_clear]

@[simp] theorem State.scrubPools_wf (s : State) (tag : Nat) (seed : Word) (hs : s.mems.wf = true) :
    (s.scrubPools tag seed).mems.wf = true := by
  unfold State.scrubPools
  dsimp only
  simp_all

@[simp] theorem State.scrubArray_mems (s : State) (tag : Nat) : (s.scrubArray tag).mems = s.mems := by
  simp [State.scrubArray]

@[simp] theorem State.scrubQueues_mems (s : State) (tag : Nat) : (s.scrubQueues tag).mems = s.mems := by
  simp [State.scrubQueues]

@[simp] theorem State.scrubLines_mems (s : State) (tag : Nat) : (s.scrubLines tag).mems = s.mems := by
  simp [State.scrubLines]

@[simp] theorem State.scrubFifos_mems (s : State) (tag : Nat) : (s.scrubFifos tag).mems = s.mems := by
  simp [State.scrubFifos]

@[simp] theorem State.scrubGeysers_wf (s : State) (tag : Nat) (hs : s.mems.wf = true) :
    (s.scrubGeysers tag).mems.wf = true := by
  simp only [State.scrubGeysers, State.mems_mk, State.mems_eta]
  refine mems_wf_foldl (fun t ch ht => ?_) _ s hs
  simp only [State.idleThreads_mems]
  exact t.memWf_gpool _ (Mem.wf_clear _ _ _ (t.gpool_wf ht)) ht

@[simp] theorem State.markTlb_mems (s : State) (tag : Nat) : (s.markTlb tag).mems = s.mems := by simp [State.markTlb]

@[simp] theorem State.scrubTlb_mems (s : State) (tag : Nat) : (s.scrubTlb tag).mems = s.mems := by
  simp [State.scrubTlb]

@[simp] theorem State.scrubStreams_mems (s : State) (tag : Nat) : (s.scrubStreams tag).mems = s.mems := by
  simp [State.scrubStreams]

@[simp] theorem State.scrubDecode_mems (s : State) (tag : Nat) : (s.scrubDecode tag).mems = s.mems := by
  simp [State.scrubDecode]

@[simp] theorem State.scrubGroups_mems (s : State) (tag : Nat) : (s.scrubGroups tag).mems = s.mems := by
  simp [State.scrubGroups]

@[simp] theorem State.scrubDevice_wf (s : State) (tag : Nat) (hs : s.mems.wf = true) :
    (s.scrubDevice tag).mems.wf = true :=
  s.memWf_scrubDevice tag hs

/-- One selected scope of a scrub. -/
theorem mems_wf_scope (h : State → State) (hh : ∀ t, t.mems.wf = true → (h t).mems.wf = true) (b : Bool) (s : State)
    (hs : s.mems.wf = true) : (if b then h s else s).mems.wf = true := by
  split
  · exact hh s hs
  · exact hs

@[simp] theorem State.scrubScopes_wf (s : State) (tag : Nat) (scope : BitVec 32) (seed : Word)
    (hs : s.mems.wf = true) : 
    (s.scrubScopes tag scope seed).mems.wf = true := by
  unfold State.scrubScopes
  extract_lets on
  have hon (b : Nat) (h : State → State) (hh : ∀ t, t.mems.wf = true → (h t).mems.wf = true) (t : State)
      (ht : t.mems.wf = true) : (on b h t).mems.wf = true := mems_wf_scope h hh _ t ht
  clear_value on
  repeat' refine hon _ _ (fun t ht => by simp [ht]) _ ?_
  exact hs

@[simp] theorem State.discardCert_mems (s : State) (tag : Nat) : (s.discardCert tag).mems = s.mems := by
  simp [State.discardCert]

@[simp] theorem State.startScrub_wf (s : State) (c : Scrub) (hs : s.mems.wf = true) :
    (s.startScrub c).mems.wf = true := by
  simp [State.startScrub, hs]

theorem execScrubCommand_nextWf (tag : Nat) (scope : BitVec 32) (assign : Bool) (seed : Word) (s : State)
    (hs : s.mems.wf = true) : NextWf (execScrubCommand tag scope assign seed s) := by
  simp [execScrubCommand, hs]

@[simp] theorem State.endScrub_wf (s : State) (c : Scrub) (hs : s.mems.wf = true) :
    (s.endScrub c).mems.wf = true := by
  simp [State.endScrub, hs]

@[simp] theorem State.afterScrub_wf (s : State) (tag : Nat) (hs : s.mems.wf = true) :
    (s.afterScrub tag).mems.wf = true := by
  unfold State.afterScrub
  dsimp only
  split <;> simp [hs]

theorem execScrubComplete_nextWf (tag : Nat) (s : State) (hs : s.mems.wf = true) :
    NextWf (execScrubComplete tag s) := by
  unfold execScrubComplete
  split
  · simpa using hs
  · split
    · simpa using hs
    · rename_i c _ _
      have h1 := s.scrubScopes_wf tag c.scope (s.scrubSeed c) hs
      generalize s.scrubScopes tag c.scope (s.scrubSeed c) = t at h1 ⊢
      have h2 : (t.endScrub c).draw.2.mems.wf = true := by simp [h1]
      rw [nextWf_next]
      exact State.afterScrub_wf _ _ h2

theorem execCertificateSigned_nextWf (tag : Nat) (s : State) (hs : s.mems.wf = true) :
    NextWf (execCertificateSigned tag s) := by
  unfold execCertificateSigned
  dsimp only
  (repeat' split) <;> simp [hs]

@[simp] theorem State.startCert_mems (s : State) (tag : Nat) (l : Launch) (bs : List Byte) :
    (s.startCert tag l bs).mems = s.mems := by
  simp [State.startCert]

@[simp] theorem State.certFails_mems (s : State) (tag code : Nat) : (s.certFails tag code).mems = s.mems := by
  simp [State.certFails]

@[simp] theorem State.certWritten_mems (s : State) (tag : Nat) (l : Launch) (bs : List Byte) :
    (s.certWritten tag l bs).mems = s.mems := by
  simp [State.certWritten]

@[simp] theorem State.certEnd_mems (s : State) (tag id : Nat) (c : Copy) (l : Launch) (bs : List Byte) :
    (s.certEnd tag id c l bs).mems = s.mems := by
  simp [State.certEnd]

theorem execCertificateWriteDone_nextWf (tag : Nat) (s : State) (hs : s.mems.wf = true) :
    NextWf (execCertificateWriteDone tag s) := by
  unfold execCertificateWriteDone
  (repeat' split) <;> simp [hs]

theorem execToken_nextWf (vf : Nat) (ptr : Word) (s : State) (hs : s.mems.wf = true) :
    NextWf (execToken vf ptr s) := by
  unfold execToken
  refine heldWrite_nextWf _ _ _ _ (fun t => ?_) hs
  dsimp only
  split <;> simp

/-! ### Transfers of control -/

@[simp] theorem transfer_nextWf (s : State) (t : Word) (link : State → State) (hs : s.mems.wf = true)
    (hlink : (link s).mems.wf = true) : NextWf (transfer s t link) := by
  unfold transfer
  split <;> simp [hs, hlink]

@[simp] theorem branch_nextWf (s : State) (taken : Bool) (t : Word) (hs : s.mems.wf = true) :
    NextWf (branch s taken t) := by
  simp [branch, hs]

theorem execBr_nextWf (p : BitVec 4) (inv : Bool) (delta : BitVec 22) (head : BitVec 5) (s : State)
    (hs : s.mems.wf = true) : NextWf (execBr p inv delta head s) := by
  simp [execBr, hs]

theorem execBrc_nextWf (p : BitVec 4) (inv : Bool) (delta : BitVec 22) (head : BitVec 5) (s : State)
    (hs : s.mems.wf = true) : NextWf (execBrc p inv delta head s) := by
  simp [execBrc, hs]

theorem execJmp_nextWf (delta : BitVec 22) (head : BitVec 5) (s : State) (hs : s.mems.wf = true) :
    NextWf (execJmp delta head s) := by
  simp [execJmp, hs]

theorem execJal_nextWf (delta : BitVec 22) (head : BitVec 5) (s : State) (hs : s.mems.wf = true) :
    NextWf (execJal delta head s) := by
  simp [execJal, hs]

theorem execJr_nextWf (ra : BitVec 6) (s : State) (hs : s.mems.wf = true) : NextWf (execJr ra s) := by
  simp [execJr, hs]

theorem execJalr_nextWf (rd ra : BitVec 6) (s : State) (hs : s.mems.wf = true) : NextWf (execJalr rd ra s) := by
  simp [execJalr, hs]

theorem execLoop_nextWf (rd ra : BitVec 6) (delta : BitVec 15) (head : BitVec 5) (s : State) (hs : s.mems.wf = true) :
    NextWf (execLoop rd ra delta head s) := by
  simp [execLoop, hs]

theorem execNop_nextWf (s : State) (hs : s.mems.wf = true) : NextWf (execNop s) := by simpa [execNop] using hs

/-! ### Scalar operations -/

theorem execAdd_nextWf (q : QFlags) (rd ra rb : BitVec 6) (s : State) (hs : s.mems.wf = true) :
    NextWf (execAdd q rd ra rb s) :=
  g3_nextWf _ _ _ _ _ _ _ _ (fun a b t => by simp) hs

theorem execSub_nextWf (q : QFlags) (rd ra rb : BitVec 6) (s : State) (hs : s.mems.wf = true) :
    NextWf (execSub q rd ra rb s) :=
  g3_nextWf _ _ _ _ _ _ _ _ (fun a b t => by simp) hs

theorem execMul_nextWf (q : QFlags) (rd ra rb : BitVec 6) (s : State) (hs : s.mems.wf = true) :
    NextWf (execMul q rd ra rb s) :=
  g3_nextWf _ _ _ _ _ _ _ _ (fun a b t => by simp) hs

theorem execMulh_nextWf (q : QFlags) (rd ra rb : BitVec 6) (s : State) (hs : s.mems.wf = true) :
    NextWf (execMulh q rd ra rb s) :=
  g3_nextWf _ _ _ _ _ _ _ _ (fun a b t => by simp) hs

theorem execMulhu_nextWf (q : QFlags) (rd ra rb : BitVec 6) (s : State) (hs : s.mems.wf = true) :
    NextWf (execMulhu q rd ra rb s) :=
  g3_nextWf _ _ _ _ _ _ _ _ (fun a b t => by simp) hs

@[simp] theorem idz_mems (a b : Word) (s : State) : (idz a b s).mems = s.mems := by simp [idz]

theorem execDiv_nextWf (q : QFlags) (rd ra rb : BitVec 6) (s : State) (hs : s.mems.wf = true) :
    NextWf (execDiv q rd ra rb s) :=
  g3_nextWf _ _ _ _ _ _ _ _ (fun a b t => by simp) hs

theorem execDivu_nextWf (q : QFlags) (rd ra rb : BitVec 6) (s : State) (hs : s.mems.wf = true) :
    NextWf (execDivu q rd ra rb s) :=
  g3_nextWf _ _ _ _ _ _ _ _ (fun a b t => by simp) hs

theorem execRem_nextWf (q : QFlags) (rd ra rb : BitVec 6) (s : State) (hs : s.mems.wf = true) :
    NextWf (execRem q rd ra rb s) :=
  g3_nextWf _ _ _ _ _ _ _ _ (fun a b t => by simp) hs

theorem execRemu_nextWf (q : QFlags) (rd ra rb : BitVec 6) (s : State) (hs : s.mems.wf = true) :
    NextWf (execRemu q rd ra rb s) :=
  g3_nextWf _ _ _ _ _ _ _ _ (fun a b t => by simp) hs

theorem execAnd_nextWf (q : QFlags) (rd ra rb : BitVec 6) (s : State) (hs : s.mems.wf = true) :
    NextWf (execAnd q rd ra rb s) :=
  g3_nextWf _ _ _ _ _ _ _ _ (fun a b t => by simp) hs

theorem execOr_nextWf (q : QFlags) (rd ra rb : BitVec 6) (s : State) (hs : s.mems.wf = true) :
    NextWf (execOr q rd ra rb s) :=
  g3_nextWf _ _ _ _ _ _ _ _ (fun a b t => by simp) hs

theorem execXor_nextWf (q : QFlags) (rd ra rb : BitVec 6) (s : State) (hs : s.mems.wf = true) :
    NextWf (execXor q rd ra rb s) :=
  g3_nextWf _ _ _ _ _ _ _ _ (fun a b t => by simp) hs

theorem execShl_nextWf (q : QFlags) (rd ra rb : BitVec 6) (s : State) (hs : s.mems.wf = true) :
    NextWf (execShl q rd ra rb s) :=
  g3_nextWf _ _ _ _ _ _ _ _ (fun a b t => by simp) hs

theorem execShr_nextWf (q : QFlags) (rd ra rb : BitVec 6) (s : State) (hs : s.mems.wf = true) :
    NextWf (execShr q rd ra rb s) :=
  g3_nextWf _ _ _ _ _ _ _ _ (fun a b t => by simp) hs

theorem execSar_nextWf (q : QFlags) (rd ra rb : BitVec 6) (s : State) (hs : s.mems.wf = true) :
    NextWf (execSar q rd ra rb s) :=
  g3_nextWf _ _ _ _ _ _ _ _ (fun a b t => by simp) hs

theorem execRol_nextWf (q : QFlags) (rd ra rb : BitVec 6) (s : State) (hs : s.mems.wf = true) :
    NextWf (execRol q rd ra rb s) :=
  g3_nextWf _ _ _ _ _ _ _ _ (fun a b t => by simp) hs

theorem execMin_nextWf (q : QFlags) (rd ra rb : BitVec 6) (s : State) (hs : s.mems.wf = true) :
    NextWf (execMin q rd ra rb s) :=
  g3_nextWf _ _ _ _ _ _ _ _ (fun a b t => by simp) hs

theorem execMax_nextWf (q : QFlags) (rd ra rb : BitVec 6) (s : State) (hs : s.mems.wf = true) :
    NextWf (execMax q rd ra rb s) :=
  g3_nextWf _ _ _ _ _ _ _ _ (fun a b t => by simp) hs

theorem execMinu_nextWf (q : QFlags) (rd ra rb : BitVec 6) (s : State) (hs : s.mems.wf = true) :
    NextWf (execMinu q rd ra rb s) :=
  g3_nextWf _ _ _ _ _ _ _ _ (fun a b t => by simp) hs

theorem execMaxu_nextWf (q : QFlags) (rd ra rb : BitVec 6) (s : State) (hs : s.mems.wf = true) :
    NextWf (execMaxu q rd ra rb s) :=
  g3_nextWf _ _ _ _ _ _ _ _ (fun a b t => by simp) hs

theorem execAdc_nextWf (q : QFlags) (rd ra rb : BitVec 6) (pc pd : BitVec 4) (s : State) (hs : s.mems.wf = true) :
    NextWf (execAdc q rd ra rb pc pd s) :=
  g3_nextWf _ _ _ _ _ _ _ _ (fun a b t => by simp) hs

theorem execSbc_nextWf (q : QFlags) (rd ra rb : BitVec 6) (pc pd : BitVec 4) (s : State) (hs : s.mems.wf = true) :
    NextWf (execSbc q rd ra rb pc pd s) :=
  g3_nextWf _ _ _ _ _ _ _ _ (fun a b t => by simp) hs

theorem execSel_nextWf (q : QFlags) (rd ra rb : BitVec 6) (ps : BitVec 4) (inv : Bool) (s : State)
    (hs : s.mems.wf = true) : NextWf (execSel q rd ra rb ps inv s) :=
  g3_nextWf _ _ _ _ _ _ _ _ (fun a b t => by simp) hs

theorem execCmp_nextWf (q : QFlags) (rd ra rb : BitVec 6) (pd : BitVec 4) (c : Cond) (s : State)
    (hs : s.mems.wf = true) : NextWf (execCmp q rd ra rb pd c s) :=
  g3_nextWf _ _ _ _ _ _ _ _ (fun a b t => by simp) hs

theorem execAddi_nextWf (rd ra : BitVec 6) (imm : BitVec 20) (s : State) (hs : s.mems.wf = true) :
    NextWf (execAddi rd ra imm s) := by
  simpa [execAddi] using hs

theorem execAndi_nextWf (rd ra : BitVec 6) (imm : BitVec 20) (s : State) (hs : s.mems.wf = true) :
    NextWf (execAndi rd ra imm s) := by
  simpa [execAndi] using hs

theorem execOri_nextWf (rd ra : BitVec 6) (imm : BitVec 20) (s : State) (hs : s.mems.wf = true) :
    NextWf (execOri rd ra imm s) := by
  simpa [execOri] using hs

theorem execXori_nextWf (rd ra : BitVec 6) (imm : BitVec 20) (s : State) (hs : s.mems.wf = true) :
    NextWf (execXori rd ra imm s) := by
  simpa [execXori] using hs

theorem execShli_nextWf (rd ra : BitVec 6) (sh : BitVec 6) (s : State) (hs : s.mems.wf = true) :
    NextWf (execShli rd ra sh s) := by
  simpa [execShli] using hs

theorem execShri_nextWf (rd ra : BitVec 6) (sh : BitVec 6) (s : State) (hs : s.mems.wf = true) :
    NextWf (execShri rd ra sh s) := by
  simpa [execShri] using hs

theorem execSari_nextWf (rd ra : BitVec 6) (sh : BitVec 6) (s : State) (hs : s.mems.wf = true) :
    NextWf (execSari rd ra sh s) := by
  simpa [execSari] using hs

theorem execCmpi_nextWf (rd ra : BitVec 6) (c : Cond) (pd : BitVec 4) (imm : BitVec 12) (s : State)
    (hs : s.mems.wf = true) : NextWf (execCmpi rd ra c pd imm s) := by
  simpa [execCmpi] using hs

theorem execLea_nextWf (rd : BitVec 6) (delta : BitVec 15) (head : BitVec 5) (s : State) (hs : s.mems.wf = true) :
    NextWf (execLea rd delta head s) := by
  simpa [execLea] using hs

theorem execClz_nextWf (rd ra : BitVec 6) (s : State) (hs : s.mems.wf = true) : NextWf (execClz rd ra s) := by
  simpa [execClz] using hs

theorem execCtz_nextWf (rd ra : BitVec 6) (s : State) (hs : s.mems.wf = true) : NextWf (execCtz rd ra s) := by
  simpa [execCtz] using hs

theorem execPopc_nextWf (rd ra : BitVec 6) (s : State) (hs : s.mems.wf = true) : NextWf (execPopc rd ra s) := by
  simpa [execPopc] using hs

theorem execMovpPredFromG_nextWf (pd : BitVec 4) (ra : BitVec 6) (s : State) (hs : s.mems.wf = true) :
    NextWf (execMovpPredFromG pd ra s) := by
  simpa [execMovpPredFromG] using hs

theorem execMovpGFromPred_nextWf (rd : BitVec 6) (pa : BitVec 4) (s : State) (hs : s.mems.wf = true) :
    NextWf (execMovpGFromPred rd pa s) := by
  simpa [execMovpGFromPred] using hs

theorem execMovpPredFromPred_nextWf (pd pa : BitVec 4) (s : State) (hs : s.mems.wf = true) :
    NextWf (execMovpPredFromPred pd pa s) := by
  simpa [execMovpPredFromPred] using hs

theorem execPand_nextWf (pd pa pb : BitVec 4) (s : State) (hs : s.mems.wf = true) : NextWf (execPand pd pa pb s) := by
  simpa [execPand] using hs

theorem execPor_nextWf (pd pa pb : BitVec 4) (s : State) (hs : s.mems.wf = true) : NextWf (execPor pd pa pb s) := by
  simpa [execPor] using hs

theorem execPxor_nextWf (pd pa pb : BitVec 4) (s : State) (hs : s.mems.wf = true) : NextWf (execPxor pd pa pb s) := by
  simpa [execPxor] using hs

theorem execPnot_nextWf (pd pa : BitVec 4) (s : State) (hs : s.mems.wf = true) : NextWf (execPnot pd pa s) := by
  simpa [execPnot] using hs

theorem execBfx_nextWf (q : QFlags) (rd ra rb : BitVec 6) (len : BitVec 6) (sgn : Bool) (s : State)
    (hs : s.mems.wf = true) : NextWf (execBfx q rd ra rb len sgn s) :=
  g3_nextWf _ _ _ _ _ _ _ _ (fun a b t => by simp) hs

theorem execBfi_nextWf (q : QFlags) (rd ra rb : BitVec 6) (len : BitVec 6) (s : State) (hs : s.mems.wf = true) :
    NextWf (execBfi q rd ra rb len s) := by
  unfold execBfi
  split
  · simpa using hs
  · exact g3_nextWf _ _ _ _ _ _ _ _ (fun a b t => by simp) hs

theorem execLi_nextWf (rd : BitVec 6) (zx : Bool) (imm : BitVec 48) (s : State) (hs : s.mems.wf = true) :
    NextWf (execLi rd zx imm s) := by
  simpa [execLi] using hs

theorem execLih_nextWf (rd : BitVec 6) (imm : BitVec 16) (s : State) (hs : s.mems.wf = true) :
    NextWf (execLih rd imm s) := by
  simpa [execLih] using hs

@[simp] theorem windowOp_nextWf (s : State) (rd : BitVec 6) (x : Word) (hs : s.mems.wf = true) :
    NextWf (windowOp s rd x) := by
  simpa [windowOp] using hs

theorem execGptrOwn_nextWf (rd ra : BitVec 6) (s : State) (hs : s.mems.wf = true) : NextWf (execGptrOwn rd ra s) := by
  simp [execGptrOwn, hs]

theorem execGptrBlk_nextWf (rd ra : BitVec 6) (s : State) (hs : s.mems.wf = true) : NextWf (execGptrBlk rd ra s) := by
  simp [execGptrBlk, hs]

theorem execGptrIlv_nextWf (rd ra : BitVec 6) (s : State) (hs : s.mems.wf = true) : NextWf (execGptrIlv rd ra s) := by
  simp [execGptrIlv, hs]

theorem execGwinCls_nextWf (rd ra : BitVec 6) (s : State) (hs : s.mems.wf = true) : NextWf (execGwinCls rd ra s) := by
  simp [execGwinCls, hs]

theorem execGwinLoc_nextWf (rd ra : BitVec 6) (s : State) (hs : s.mems.wf = true) : NextWf (execGwinLoc rd ra s) := by
  simp [execGwinLoc, hs]

/-! ### Vector operations -/

@[simp] theorem State.vOut_mems (s : State) (bits : Nat) (vd : BitVec 5) (gp : BitVec 4) (res : VWord) (lat : Nat) :
    (s.vOut bits vd gp res lat).mems = s.mems := by
  simp [State.vOut]

@[simp] theorem State.pOut_mems (s : State) (bits : Nat) (pd gp : BitVec 4) (res : Nat → Bool) (lat : Nat) :
    (s.pOut bits pd gp res lat).mems = s.mems := by
  simp [State.pOut]

@[simp] theorem State.flags_mems (s : State) (m : BitVec 32) (lat : Nat) : (s.flags m lat).mems = s.mems := by
  simp [State.flags]

@[simp] theorem State.advance_mems (s : State) (lat : Nat) : (s.advance lat).mems = s.mems := by simp [State.advance]

@[simp] theorem State.drawIf_mems (s : State) (m : Rnd) (lat : Nat) : (s.drawIf m lat).mems = s.mems := by
  simp [State.drawIf]

@[simp] theorem v3_nextWf (s : State) (bits : Nat) (vd va vb : BitVec 5) (gp : BitVec 4) (f : Nat → Nat → Nat)
    (hs : s.mems.wf = true) : NextWf (v3 s bits vd va vb gp f) := by
  simpa [v3] using hs

theorem execVadd_nextWf (lt : LaneType) (sat : Sat) (vd va vb : BitVec 5) (gp : BitVec 4) (s : State)
    (hs : s.mems.wf = true) : NextWf (execVadd lt sat vd va vb gp s) := by
  simp [execVadd, hs]

theorem execVsub_nextWf (lt : LaneType) (sat : Sat) (vd va vb : BitVec 5) (gp : BitVec 4) (s : State)
    (hs : s.mems.wf = true) : NextWf (execVsub lt sat vd va vb gp s) := by
  simp [execVsub, hs]

theorem execVmul_nextWf (lt : LaneType) (vd va vb : BitVec 5) (gp : BitVec 4) (s : State) (hs : s.mems.wf = true) :
    NextWf (execVmul lt vd va vb gp s) := by
  simp [execVmul, hs]

theorem execVmulh_nextWf (lt : LaneType) (u : Bool) (vd va vb : BitVec 5) (gp : BitVec 4) (s : State)
    (hs : s.mems.wf = true) : NextWf (execVmulh lt u vd va vb gp s) := by
  simp [execVmulh, hs]

theorem execVmin_nextWf (lt : LaneType) (u : Bool) (vd va vb : BitVec 5) (gp : BitVec 4) (s : State)
    (hs : s.mems.wf = true) : NextWf (execVmin lt u vd va vb gp s) := by
  simp [execVmin, hs]

theorem execVmax_nextWf (lt : LaneType) (u : Bool) (vd va vb : BitVec 5) (gp : BitVec 4) (s : State)
    (hs : s.mems.wf = true) : NextWf (execVmax lt u vd va vb gp s) := by
  simp [execVmax, hs]

theorem execVabs_nextWf (lt : LaneType) (vd va : BitVec 5) (gp : BitVec 4) (s : State) (hs : s.mems.wf = true) :
    NextWf (execVabs lt vd va gp s) := by
  simp [execVabs, hs]

theorem execVand_nextWf (lt : LaneType) (vd va vb : BitVec 5) (gp : BitVec 4) (s : State) (hs : s.mems.wf = true) :
    NextWf (execVand lt vd va vb gp s) := by
  simpa [execVand] using hs

theorem execVor_nextWf (lt : LaneType) (vd va vb : BitVec 5) (gp : BitVec 4) (s : State) (hs : s.mems.wf = true) :
    NextWf (execVor lt vd va vb gp s) := by
  simpa [execVor] using hs

theorem execVxor_nextWf (lt : LaneType) (vd va vb : BitVec 5) (gp : BitVec 4) (s : State) (hs : s.mems.wf = true) :
    NextWf (execVxor lt vd va vb gp s) := by
  simpa [execVxor] using hs

theorem execVshl_nextWf (lt : LaneType) (vd va vb : BitVec 5) (gp : BitVec 4) (s : State) (hs : s.mems.wf = true) :
    NextWf (execVshl lt vd va vb gp s) := by
  simp [execVshl, hs]

theorem execVshr_nextWf (lt : LaneType) (vd va vb : BitVec 5) (gp : BitVec 4) (s : State) (hs : s.mems.wf = true) :
    NextWf (execVshr lt vd va vb gp s) := by
  simp [execVshr, hs]

theorem execVsar_nextWf (lt : LaneType) (vd va vb : BitVec 5) (gp : BitVec 4) (s : State) (hs : s.mems.wf = true) :
    NextWf (execVsar lt vd va vb gp s) := by
  simp [execVsar, hs]

theorem execVmov_nextWf (lt : LaneType) (vd va : BitVec 5) (gp : BitVec 4) (s : State) (hs : s.mems.wf = true) :
    NextWf (execVmov lt vd va gp s) := by
  simpa [execVmov] using hs

@[simp] theorem vCarry_nextWf (s : State) (bits : Nat) (vd : BitVec 5) (pd gp : BitVec 4) (f : Nat → Nat × Bool)
    (lat : Nat) (hs : s.mems.wf = true) : NextWf (vCarry s bits vd pd gp f lat) := by
  simpa [vCarry] using hs

theorem execVadc_nextWf (lt : LaneType) (vd va vb : BitVec 5) (ps pd gp : BitVec 4) (s : State)
    (hs : s.mems.wf = true) : NextWf (execVadc lt vd va vb ps pd gp s) := by
  simp [execVadc, hs]

theorem execVsbc_nextWf (lt : LaneType) (vd va vb : BitVec 5) (ps pd gp : BitVec 4) (s : State)
    (hs : s.mems.wf = true) : NextWf (execVsbc lt vd va vb ps pd gp s) := by
  simp [execVsbc, hs]

theorem execVmadw_nextWf (lt : LaneType) (hi : Bool) (vd va vb vc : BitVec 5) (ps pd gp : BitVec 4) (s : State)
    (hs : s.mems.wf = true) : NextWf (execVmadw lt hi vd va vb vc ps pd gp s) := by
  simp [execVmadw, hs]

@[simp] theorem vCmpOut_mems (s : State) (bits : Nat) (nv : Bool) (vd : BitVec 5) (pd gp : BitVec 4)
    (res : Nat → Bool) : (vCmpOut s bits nv vd pd gp res).mems = s.mems := by
  simp [vCmpOut]

theorem execVcmp_nextWf (lt : LaneType) (c : Cond) (nv : Bool) (vd va vb : BitVec 5) (pd gp : BitVec 4) (s : State)
    (hs : s.mems.wf = true) : NextWf (execVcmp lt c nv vd va vb pd gp s) := by
  simpa [execVcmp] using hs

theorem execVsel_nextWf (lt : LaneType) (vd va vb : BitVec 5) (ps gp : BitVec 4) (s : State) (hs : s.mems.wf = true) :
    NextWf (execVsel lt vd va vb ps gp s) := by
  simpa [execVsel] using hs

theorem execVperm_nextWf (vd va vb : BitVec 5) (gp : BitVec 4) (s : State) (hs : s.mems.wf = true) :
    NextWf (execVperm vd va vb gp s) := by
  simpa [execVperm] using hs

theorem execVsplat_nextWf (lt : LaneType) (vd : BitVec 5) (g : BitVec 6) (gp : BitVec 4) (s : State)
    (hs : s.mems.wf = true) : NextWf (execVsplat lt vd g gp s) := by
  simpa [execVsplat] using hs

theorem execVextr_nextWf (lt : LaneType) (sgn : Bool) (g : BitVec 6) (va : BitVec 5) (idx : BitVec 4) (s : State)
    (hs : s.mems.wf = true) : NextWf (execVextr lt sgn g va idx s) := by
  simpa [execVextr] using hs

theorem execVins_nextWf (lt : LaneType) (vd : BitVec 5) (g : BitVec 6) (idx : BitVec 4) (gp : BitVec 4) (s : State)
    (hs : s.mems.wf = true) : NextWf (execVins lt vd g idx gp s) := by
  simpa [execVins] using hs

theorem execVred_nextWf (lt : LaneType) (op : RedOp) (m : Rnd) (vd va : BitVec 5) (gp : BitVec 4) (s : State)
    (hs : s.mems.wf = true) : NextWf (execVred lt op m vd va gp s) := by
  simpa [execVred] using hs

/-! ### Vector conversions -/

theorem execVcvt_nextWf (dst src : LaneType) (m : Rnd) (su du sat : Bool) (part : BitVec 2) (vd va : BitVec 5)
    (gp : BitVec 4) (s : State) (hs : s.mems.wf = true) : NextWf (execVcvt dst src m su du sat part vd va gp s) := by
  simpa [execVcvt] using hs

theorem execVdec_nextWf (b : Bool) (g : BitVec 5) (x : BitVec 4) (vd va vc : BitVec 5) (gp : BitVec 4) (s : State)
    (hs : s.mems.wf = true) : NextWf (execVdec b g x vd va vc gp s) := by
  unfold execVdec
  split <;> simp [hs]

theorem execVenc_nextWf (f19 : Bool) (b : Bool) (g : BitVec 5) (x : BitVec 4) (vd va vb vc : BitVec 5) (s : State)
    (hs : s.mems.wf = true) : NextWf (execVenc f19 b g x vd va vb vc s) := by
  unfold execVenc
  split <;> simp [hs]

theorem execVplaneScan_nextWf (f19 : Bool) (_m : Rnd) (vd va vc : BitVec 5) (s : State) (hs : s.mems.wf = true) :
    NextWf (execVplaneScan f19 _m vd va vc s) := by
  simpa [execVplaneScan] using hs

theorem execVplaneFix_nextWf (_m : Rnd) (w : BitVec 5) (vd va : BitVec 5) (s : State) (hs : s.mems.wf = true) :
    NextWf (execVplaneFix _m w vd va s) := by
  simpa [execVplaneFix] using hs

theorem execVplaneAlign_nextWf (f19 : Bool) (_m : Rnd) (q : BitVec 2) (kind : ByteKind) (vd va vb vc : BitVec 5)
    (s : State) (hs : s.mems.wf = true) : NextWf (execVplaneAlign f19 _m q kind vd va vb vc s) := by
  simpa [execVplaneAlign] using hs

theorem execVplaneTr_nextWf (_m : Rnd) (q : BitVec 2) (vd va vb vc : BitVec 5) (s : State) (hs : s.mems.wf = true) :
    NextWf (execVplaneTr _m q vd va vb vc s) := by
  simpa [execVplaneTr] using hs

theorem execVunplGather_nextWf (i16 : Bool) (g : BitVec 3) (r : BitVec 2) (h : Bool) (vd va vb : BitVec 5) (s : State)
    (hs : s.mems.wf = true) : NextWf (execVunplGather i16 g r h vd va vb s) := by
  simpa [execVunplGather] using hs

theorem execVunplVal_nextWf (i16 : Bool) (q : BitVec 2) (vd va vb vc : BitVec 5) (s : State) (hs : s.mems.wf = true) :
    NextWf (execVunplVal i16 q vd va vb vc s) := by
  simpa [execVunplVal] using hs

theorem execVquant_nextWf (half : Bool) (h : BitVec 5) (vd va vc : BitVec 5) (gp : BitVec 4) (s : State)
    (hs : s.mems.wf = true) : NextWf (execVquant half h vd va vc gp s) := by
  simpa [execVquant] using hs

theorem execVquantInv_nextWf (half : Bool) (h : BitVec 5) (vd va vb vc : BitVec 5) (gp : BitVec 4) (s : State)
    (hs : s.mems.wf = true) : NextWf (execVquantInv half h vd va vb vc gp s) := by
  simpa [execVquantInv] using hs

theorem execVrand_nextWf (lt : LaneType) (vd : BitVec 5) (gp : BitVec 4) (s : State) (hs : s.mems.wf = true) :
    NextWf (execVrand lt vd gp s) := by
  simpa [execVrand] using hs

/-! ### Vector float operations -/

@[simp] theorem vFloat_nextWf (s : State) (m : Rnd) (vd : BitVec 5) (gp : BitVec 4) (f : Nat → FRes) (lat : Nat)
    (hs : s.mems.wf = true) : NextWf (vFloat s m vd gp f lat) := by
  simpa [vFloat] using hs

theorem execVfadd_nextWf (f19 : Bool) (m : Rnd) (vd va vb : BitVec 5) (gp : BitVec 4) (s : State)
    (hs : s.mems.wf = true) : NextWf (execVfadd f19 m vd va vb gp s) := by
  simp [execVfadd, hs]

theorem execVfsub_nextWf (f19 : Bool) (m : Rnd) (vd va vb : BitVec 5) (gp : BitVec 4) (s : State)
    (hs : s.mems.wf = true) : NextWf (execVfsub f19 m vd va vb gp s) := by
  simp [execVfsub, hs]

theorem execVfmul_nextWf (f19 : Bool) (m : Rnd) (vd va vb : BitVec 5) (gp : BitVec 4) (s : State)
    (hs : s.mems.wf = true) : NextWf (execVfmul f19 m vd va vb gp s) := by
  simp [execVfmul, hs]

theorem execVfma_nextWf (f19 : Bool) (m : Rnd) (np nc : Bool) (vd va vb vc : BitVec 5) (gp : BitVec 4) (s : State)
    (hs : s.mems.wf = true) : NextWf (execVfma f19 m np nc vd va vb vc gp s) := by
  simp [execVfma, hs]

theorem execVfmin_nextWf (f19 : Bool) (vd va vb : BitVec 5) (gp : BitVec 4) (s : State) (hs : s.mems.wf = true) :
    NextWf (execVfmin f19 vd va vb gp s) := by
  simp [execVfmin, hs]

theorem execVfmax_nextWf (f19 : Bool) (vd va vb : BitVec 5) (gp : BitVec 4) (s : State) (hs : s.mems.wf = true) :
    NextWf (execVfmax f19 vd va vb gp s) := by
  simp [execVfmax, hs]

theorem execVfcmp_nextWf (f19 : Bool) (c : FCond) (nv : Bool) (vd va vb : BitVec 5) (pd gp : BitVec 4) (s : State)
    (hs : s.mems.wf = true) : NextWf (execVfcmp f19 c nv vd va vb pd gp s) := by
  simpa [execVfcmp] using hs

theorem execVsfu_nextWf (f19 : Bool) (m : Rnd) (fn : SfuFn) (vd va : BitVec 5) (gp : BitVec 4) (s : State)
    (hs : s.mems.wf = true) : NextWf (execVsfu f19 m fn vd va gp s) := by
  simp [execVsfu, hs]

/-! ### Checks before issue -/

@[simp] theorem State.ownIllegal_mems (s : State) (e : Option Word) : (s.ownIllegal e).mems = s.mems := by
  unfold State.ownIllegal
  split <;> simp

/-! ### Fetch -/

@[simp] theorem State.begin_mems (s : State) (sk fk : Nat) : (s.begin sk fk).mems = s.mems := by simp [State.begin]

@[simp] theorem State.missLine_mems (s : State) (sk fk va : Nat) : (s.missLine sk fk va).mems = s.mems := by
  simp [State.missLine]

@[simp] theorem State.hostLine_mems (s : State) (x : Fill) (addr : Nat) : (s.hostLine x addr).1.mems = s.mems := by
  unfold State.hostLine
  dsimp only
  (repeat' split) <;> simp

@[simp] theorem State.lineBytes_wf (s : State) (x : Fill) (hs : s.mems.wf = true) :
    (s.lineBytes x).1.mems.wf = true := by
  unfold State.lineBytes
  dsimp only
  (repeat' split) <;> simp [hs]

theorem execIstoreFill_nextWf (id : Nat) (s : State) (hs : s.mems.wf = true) : NextWf (execIstoreFill id s) := by
  unfold execIstoreFill
  split
  · simpa using hs
  · rename_i x _
    have hl := s.lineBytes_wf x hs
    extract_lets done run
    have hdone (t : State) : (done t).mems = t.mems := by simp [done]
    have hrun (t : State) : (run t).mems = t.mems := by simp [run]
    split
    · split <;> rename_i he <;> rw [he] at hl <;> simpa [hdone, hrun] using hl
    · simpa [hdone] using hs

@[simp] theorem State.chargeOps_mems (s : State) (is : List Instr) : (s.chargeOps is).mems = s.mems := by
  refine mems_foldl (fun s i => ?_) is s
  split <;> simp

@[simp] theorem State.startOps_mems (s : State) (is : List Instr) : (s.startOps is).mems = s.mems := by
  simp [State.startOps]

@[simp] theorem State.lineEcc_mems (s : State) : (s.lineEcc).mems = s.mems := by simp [State.lineEcc]

/-! ### The hub's tables -/

@[simp] theorem State.startThread_mems (s : State) (ch t : Nat) : (s.startThread ch t).mems = s.mems := by
  simp [State.startThread]

@[simp] theorem State.writeRun_mems (s : State) (tag ch t : Nat) (run priv : Bool) :
    (s.writeRun tag ch t run priv).mems = s.mems := by
  simp [State.writeRun]

theorem execRun_nextWf (vf k t word : Nat) (v : Word) (s : State) (hs : s.mems.wf = true) :
    NextWf (execRun vf k t word v s) := by
  unfold execRun
  dsimp only
  split
  · simpa using hs
  · split
    · simpa using hs
    · exact heldWrite_nextWf _ _ _ _ (fun u => by (repeat' split) <;> simp) hs

theorem execGeyserThreadStop_nextWf (sk : Nat) (s : State) (hs : s.mems.wf = true) :
    NextWf (execGeyserThreadStop sk s) := by
  simpa [execGeyserThreadStop] using hs

@[simp] theorem State.setGeyserTag_mems (s : State) (ch : Nat) : (s.setGeyserTag ch).mems = s.mems := by
  unfold State.setGeyserTag
  split <;> simp

theorem execChannelTableWrite_nextWf (ch k : Nat) (os : List Owner) (s : State) (hs : s.mems.wf = true) :
    NextWf (execChannelTableWrite ch k os s) := by
  simpa [execChannelTableWrite] using hs

theorem execSteeringTableWrite_nextWf (tag : Nat) (es : List Nat) (s : State) (hs : s.mems.wf = true) :
    NextWf (execSteeringTableWrite tag es s) := by
  simpa [execSteeringTableWrite] using hs

theorem execLogicalTableWrite_nextWf (tag : Nat) (es : List (BitVec 32)) (s : State) (hs : s.mems.wf = true) :
    NextWf (execLogicalTableWrite tag es s) := by
  simpa [execLogicalTableWrite] using hs

theorem execRouteTableWrite_nextWf (m : Nat) (entry : BitVec 32) (sched : Option (List (Nat × Nat × Nat))) (s : State)
    (hs : s.mems.wf = true) : NextWf (execRouteTableWrite m entry sched s) := by
  simpa [execRouteTableWrite] using hs

theorem execCommunicatorWrite_nextWf (num : Nat) (part : BitVec 10) (op : BitVec 2) (members : List Nat) (s : State)
    (hs : s.mems.wf = true) : NextWf (execCommunicatorWrite num part op members s) := by
  simpa [execCommunicatorWrite] using hs

theorem execGuestTimeOffsetWrite_nextWf (tag : Nat) (x : Word) (s : State) (hs : s.mems.wf = true) :
    NextWf (execGuestTimeOffsetWrite tag x s) := by
  simpa [execGuestTimeOffsetWrite] using hs

@[simp] theorem State.armSlice_mems (s : State) (tag : Nat) (v : Word) : (s.armSlice tag v).mems = s.mems := by
  simp [State.armSlice]

@[simp] theorem State.debugResume_mems (s : State) (sk : Nat) : (s.debugResume sk).mems = s.mems := by
  unfold State.debugResume
  dsimp only
  split <;> simp

@[simp] theorem State.hubWrite_wf (s : State) (w : HubWrite) (hs : s.mems.wf = true) :
    (s.hubWrite w).mems.wf = true := by
  cases w <;> dsimp only [State.hubWrite] <;> (repeat' split) <;> simp [hs, Mem.wf_setBytes]

theorem execHubTableWrite_nextWf (w : HubWrite) (s : State) (hs : s.mems.wf = true) :
    NextWf (execHubTableWrite w s) := by
  simp [execHubTableWrite, hs]

/-! ### The module -/

@[simp] theorem State.noteRetry_mems (s : State) (ps : List Packet) : (s.noteRetry ps).mems = s.mems := by
  simp [State.noteRetry]

@[simp] theorem State.flitPacket_mems (s : State) (k : Link) (p : Packet) : (s.flitPacket k p).mems = s.mems := by
  unfold State.flitPacket
  (repeat' split) <;> simp

theorem execFlitReceive_nextWf (l : Nat) (crcOk : Bool) (f : Flit) (s : State) (hs : s.mems.wf = true) :
    NextWf (execFlitReceive l crcOk f s) := by
  unfold execFlitReceive
  split <;> simp [hs]

@[simp] theorem State.breakComm_mems (s : State) (num : Nat) : (s.breakComm num).mems = s.mems := by
  simp [State.breakComm]

theorem execLinkDown_nextWf (l : Nat) (s : State) (hs : s.mems.wf = true) : NextWf (execLinkDown l s) := by
  simpa [execLinkDown] using hs

theorem execLinkRetrain_nextWf (l : Nat) (s : State) (hs : s.mems.wf = true) : NextWf (execLinkRetrain l s) := by
  simpa [execLinkRetrain] using hs

theorem execTimestampSync_nextWf (ppm : Int) (s : State) (hs : s.mems.wf = true) :
    NextWf (execTimestampSync ppm s) := by
  simpa [execTimestampSync] using hs

theorem execPowerSample_nextWf (x : PowerReadings) (s : State) (hs : s.mems.wf = true) :
    NextWf (execPowerSample x s) := by
  simpa [execPowerSample] using hs

theorem execAgeingMonitorRead_nextWf (die mv : Nat) (holds : Bool) (s : State) (hs : s.mems.wf = true) :
    NextWf (execAgeingMonitorRead die mv holds s) := by
  simpa [execAgeingMonitorRead] using hs

theorem execPatrolScrub_nextWf (device : Bool) (addr outcome : Nat) (s : State) (hs : s.mems.wf = true) :
    NextWf (execPatrolScrub device addr outcome s) := by
  unfold execPatrolScrub
  split <;> simp [hs]

theorem execModuleReset_nextWf (image : BootImage) (digest : BitVec 256) (s : State) (hs : s.mems.wf = true) :
    NextWf (execModuleReset image digest s) := by
  rw [execModuleReset, nextWf_next, State.mems_mk, Mems.wf_mk, s.host_wf hs]
  rfl

theorem execHostLinkChange_nextWf (up : Bool) (s : State) (hs : s.mems.wf = true) :
    NextWf (execHostLinkChange up s) := by
  simpa [execHostLinkChange] using hs

theorem execVirtualFunctionReset_nextWf (vf : Nat) (s : State) (hs : s.mems.wf = true) :
    NextWf (execVirtualFunctionReset vf s) := by
  simp [execVirtualFunctionReset, hs]

/-! ### Dispatch -/

/-- Every instruction and activity but the fetch of a bundle keeps the canonical form. -/
theorem exec_nextWf_of_ne_bundleFetch (i : Instr) (s : State) (hne : ∀ sk, i ≠ .bundleFetch sk)
    (hs : s.mems.wf = true) : 
    NextWf (exec i s) := by
  cases i with
  | add q rd ra rb => exact execAdd_nextWf q rd ra rb s hs
  | sub q rd ra rb => exact execSub_nextWf q rd ra rb s hs
  | mul q rd ra rb => exact execMul_nextWf q rd ra rb s hs
  | mulh q rd ra rb => exact execMulh_nextWf q rd ra rb s hs
  | mulhu q rd ra rb => exact execMulhu_nextWf q rd ra rb s hs
  | div q rd ra rb => exact execDiv_nextWf q rd ra rb s hs
  | divu q rd ra rb => exact execDivu_nextWf q rd ra rb s hs
  | rem q rd ra rb => exact execRem_nextWf q rd ra rb s hs
  | remu q rd ra rb => exact execRemu_nextWf q rd ra rb s hs
  | and q rd ra rb => exact execAnd_nextWf q rd ra rb s hs
  | or q rd ra rb => exact execOr_nextWf q rd ra rb s hs
  | xor q rd ra rb => exact execXor_nextWf q rd ra rb s hs
  | shl q rd ra rb => exact execShl_nextWf q rd ra rb s hs
  | shr q rd ra rb => exact execShr_nextWf q rd ra rb s hs
  | sar q rd ra rb => exact execSar_nextWf q rd ra rb s hs
  | rol q rd ra rb => exact execRol_nextWf q rd ra rb s hs
  | min q rd ra rb => exact execMin_nextWf q rd ra rb s hs
  | max q rd ra rb => exact execMax_nextWf q rd ra rb s hs
  | minu q rd ra rb => exact execMinu_nextWf q rd ra rb s hs
  | maxu q rd ra rb => exact execMaxu_nextWf q rd ra rb s hs
  | adc q rd ra rb pc pd => exact execAdc_nextWf q rd ra rb pc pd s hs
  | sbc q rd ra rb pc pd => exact execSbc_nextWf q rd ra rb pc pd s hs
  | sel q rd ra rb ps inv => exact execSel_nextWf q rd ra rb ps inv s hs
  | cmp q rd ra rb pd c => exact execCmp_nextWf q rd ra rb pd c s hs
  | addi rd ra imm => exact execAddi_nextWf rd ra imm s hs
  | andi rd ra imm => exact execAndi_nextWf rd ra imm s hs
  | ori rd ra imm => exact execOri_nextWf rd ra imm s hs
  | xori rd ra imm => exact execXori_nextWf rd ra imm s hs
  | shli rd ra sh => exact execShli_nextWf rd ra sh s hs
  | shri rd ra sh => exact execShri_nextWf rd ra sh s hs
  | sari rd ra sh => exact execSari_nextWf rd ra sh s hs
  | cmpi rd ra c pd imm => exact execCmpi_nextWf rd ra c pd imm s hs
  | lea rd delta head => exact execLea_nextWf rd delta head s hs
  | clz rd ra => exact execClz_nextWf rd ra s hs
  | ctz rd ra => exact execCtz_nextWf rd ra s hs
  | popc rd ra => exact execPopc_nextWf rd ra s hs
  | movpPredFromG pd ra => exact execMovpPredFromG_nextWf pd ra s hs
  | movpGFromPred rd pa => exact execMovpGFromPred_nextWf rd pa s hs
  | movpPredFromPred pd pa => exact execMovpPredFromPred_nextWf pd pa s hs
  | pand pd pa pb => exact execPand_nextWf pd pa pb s hs
  | por pd pa pb => exact execPor_nextWf pd pa pb s hs
  | pxor pd pa pb => exact execPxor_nextWf pd pa pb s hs
  | pnot pd pa => exact execPnot_nextWf pd pa s hs
  | bfx q rd ra rb len sgn => exact execBfx_nextWf q rd ra rb len sgn s hs
  | bfi q rd ra rb len => exact execBfi_nextWf q rd ra rb len s hs
  | li rd zx imm => exact execLi_nextWf rd zx imm s hs
  | lih rd imm => exact execLih_nextWf rd imm s hs
  | gptrOwn rd ra => exact execGptrOwn_nextWf rd ra s hs
  | gptrBlk rd ra => exact execGptrBlk_nextWf rd ra s hs
  | gptrIlv rd ra => exact execGptrIlv_nextWf rd ra s hs
  | gwinCls rd ra => exact execGwinCls_nextWf rd ra s hs
  | gwinLoc rd ra => exact execGwinLoc_nextWf rd ra s hs
  | br p inv delta head => exact execBr_nextWf p inv delta head s hs
  | brc p inv delta head => exact execBrc_nextWf p inv delta head s hs
  | jmp delta head => exact execJmp_nextWf delta head s hs
  | jal delta head => exact execJal_nextWf delta head s hs
  | jr ra => exact execJr_nextWf ra s hs
  | jalr rd ra => exact execJalr_nextWf rd ra s hs
  | loop rd ra delta head => exact execLoop_nextWf rd ra delta head s hs
  | nop => exact execNop_nextWf s hs
  | ld rt rb am sz off => exact execLd_nextWf rt rb am sz off s hs
  | st rt rb am sz off => exact execSt_nextWf rt rb am sz off s hs
  | vld vt rb am off => exact execVld_nextWf vt rb am off s hs
  | vst vt rb am off => exact execVst_nextWf vt rb am off s hs
  | lds rt rb am sz off => exact execLds_nextWf rt rb am sz off s hs
  | ldsp rt rb am sz off => exact execLdsp_nextWf rt rb am sz off s hs
  | sts rt rb am sz off => exact execSts_nextWf rt rb am sz off s hs
  | fesetFull rb am sz off => exact execFesetFull_nextWf rb am sz off s hs
  | fesetEmpty rb am sz off => exact execFesetEmpty_nextWf rb am sz off s hs
  | amo rt rb rc am dw op o off => exact execAmo_nextWf rt rb rc am dw op o off s hs
  | cas rt rb rc am dw o off => exact execCas_nextWf rt rb rc am dw o off s hs
  | fence o => exact execFence_nextWf o s hs
  | cgo rd => exact execCgo_nextWf rd s hs
  | csub rd ra rb => exact execCsub_nextWf rd ra rb s hs
  | cunsub rd ra => exact execCunsub_nextWf rd ra s hs
  | xld rt rb am sz o off => exact execXld_nextWf rt rb am sz o off s hs
  | xst rt rb am sz o off => exact execXst_nextWf rt rb am sz o off s hs
  | xpush rt rb rc am o off => exact execXpush_nextWf rt rb rc am o off s hs
  | xpref rb am off => exact execXpref_nextWf rb am off s hs
  | xtlbi rt rb rc am off => exact execXtlbi_nextWf rt rb rc am off s hs
  | xtlbiAll rt am => exact execXtlbiAll_nextWf rt am s hs
  | spawn rd ra rb pd t => exact execSpawn_nextWf rd ra rb pd t s hs
  | spawnr rd ra rb pd t => exact execSpawnr_nextWf rd ra rb pd t s hs
  | spawni rd ra rb pd t prio nt => exact execSpawni_nextWf rd ra rb pd t prio nt s hs
  | grow rd ra pd => exact execGrow_nextWf rd ra pd s hs
  | touch rd ra pd c => exact execTouch_nextWf rd ra pd c s hs
  | touchq rd ra => exact execTouchq_nextWf rd ra s hs
  | resolve ra rb pd => exact execResolve_nextWf ra rb pd s hs
  | cancel rd ra => exact execCancel_nextWf rd ra s hs
  | fdrop ra pd => exact execFdrop_nextWf ra pd s hs
  | joini rd ra rb prio => exact execJoini_nextWf rd ra rb prio s hs
  | retire => exact execRetire_nextWf s hs
  | waitw => exact execWaitw_nextWf s hs
  | waitm rd => exact execWaitm_nextWf rd s hs
  | yield => exact execYield_nextWf s hs
  | send ra rb tag sys => exact execSend_nextWf ra rb tag sys s hs
  | trap fn => exact execTrap_nextWf fn s hs
  | eret => exact execEret_nextWf s hs
  | crd rd num => exact execCrd_nextWf rd num s hs
  | cwr ra num => exact execCwr_nextWf ra num s hs
  | time rd => exact execTime_nextWf rd s hs
  | flushi line ra => exact execFlushi_nextWf line ra s hs
  | dbrk => exact execDbrk_nextWf s hs
  | halt => exact execHalt_nextWf s hs
  | scrub rd fn => exact execScrub_nextWf rd fn s hs
  | tabw fn x ra => exact execTabw_nextWf fn x ra s hs
  | tabr fn x rd => exact execTabr_nextWf fn x rd s hs
  | vadd lt sat vd va vb gp => exact execVadd_nextWf lt sat vd va vb gp s hs
  | vsub lt sat vd va vb gp => exact execVsub_nextWf lt sat vd va vb gp s hs
  | vadc lt vd va vb ps pd gp => exact execVadc_nextWf lt vd va vb ps pd gp s hs
  | vsbc lt vd va vb ps pd gp => exact execVsbc_nextWf lt vd va vb ps pd gp s hs
  | vmul lt vd va vb gp => exact execVmul_nextWf lt vd va vb gp s hs
  | vmulh lt u vd va vb gp => exact execVmulh_nextWf lt u vd va vb gp s hs
  | vmadw lt hi vd va vb vc ps pd gp => exact execVmadw_nextWf lt hi vd va vb vc ps pd gp s hs
  | vmin lt u vd va vb gp => exact execVmin_nextWf lt u vd va vb gp s hs
  | vmax lt u vd va vb gp => exact execVmax_nextWf lt u vd va vb gp s hs
  | vabs lt vd va gp => exact execVabs_nextWf lt vd va gp s hs
  | vand lt vd va vb gp => exact execVand_nextWf lt vd va vb gp s hs
  | vor lt vd va vb gp => exact execVor_nextWf lt vd va vb gp s hs
  | vxor lt vd va vb gp => exact execVxor_nextWf lt vd va vb gp s hs
  | vshl lt vd va vb gp => exact execVshl_nextWf lt vd va vb gp s hs
  | vshr lt vd va vb gp => exact execVshr_nextWf lt vd va vb gp s hs
  | vsar lt vd va vb gp => exact execVsar_nextWf lt vd va vb gp s hs
  | vcmp lt c nv vd va vb pd gp => exact execVcmp_nextWf lt c nv vd va vb pd gp s hs
  | vsel lt vd va vb ps gp => exact execVsel_nextWf lt vd va vb ps gp s hs
  | vperm vd va vb gp => exact execVperm_nextWf vd va vb gp s hs
  | vsplat lt vd g gp => exact execVsplat_nextWf lt vd g gp s hs
  | vextr lt sx g va idx => exact execVextr_nextWf lt sx g va idx s hs
  | vins lt vd g idx gp => exact execVins_nextWf lt vd g idx gp s hs
  | vred lt op r vd va gp => exact execVred_nextWf lt op r vd va gp s hs
  | vmov lt vd va gp => exact execVmov_nextWf lt vd va gp s hs
  | vfadd f19 r vd va vb gp => exact execVfadd_nextWf f19 r vd va vb gp s hs
  | vfsub f19 r vd va vb gp => exact execVfsub_nextWf f19 r vd va vb gp s hs
  | vfmul f19 r vd va vb gp => exact execVfmul_nextWf f19 r vd va vb gp s hs
  | vfma f19 r np nc vd va vb vc gp => exact execVfma_nextWf f19 r np nc vd va vb vc gp s hs
  | vfmin f19 vd va vb gp => exact execVfmin_nextWf f19 vd va vb gp s hs
  | vfmax f19 vd va vb gp => exact execVfmax_nextWf f19 vd va vb gp s hs
  | vfcmp f19 c nv vd va vb pd gp => exact execVfcmp_nextWf f19 c nv vd va vb pd gp s hs
  | vsfu f19 r fn vd va gp => exact execVsfu_nextWf f19 r fn vd va gp s hs
  | vcvt dst src r su du sat part vd va gp => exact execVcvt_nextWf dst src r su du sat part vd va gp s hs
  | vdec b g x vd va vc gp => exact execVdec_nextWf b g x vd va vc gp s hs
  | venc f19 b g x vd va vb vc => exact execVenc_nextWf f19 b g x vd va vb vc s hs
  | vplaneScan f19 r vd va vc => exact execVplaneScan_nextWf f19 r vd va vc s hs
  | vplaneFix r w vd va => exact execVplaneFix_nextWf r w vd va s hs
  | vplaneAlign f19 r q kind vd va vb vc => exact execVplaneAlign_nextWf f19 r q kind vd va vb vc s hs
  | vplaneTr r pair vd va vb vc => exact execVplaneTr_nextWf r pair vd va vb vc s hs
  | vunplGather i16 g r h vd va vb => exact execVunplGather_nextWf i16 g r h vd va vb s hs
  | vunplVal i16 q vd va vb vc => exact execVunplVal_nextWf i16 q vd va vb vc s hs
  | vquant half h vd va vc gp => exact execVquant_nextWf half h vd va vc gp s hs
  | vquantInv half h vd va vb vc gp => exact execVquantInv_nextWf half h vd va vb vc gp s hs
  | vrand lt vd gp => exact execVrand_nextWf lt vd gp s hs
  | alease l => exact execAlease_nextWf l s hs
  | arel => exact execArel_nextWf s hs
  | aset o t entry p sat skip rm => exact execAset_nextWf o t entry p sat skip rm s hs
  | aldb o t view ga gb rstr n k => exact execAldb_nextWf o t view ga gb rstr n k s hs
  | astr o t view ga aoff rstr m => exact execAstr_nextWf o t view ga aoff rstr m s hs
  | adrn o t view ga aoff n m wd clr tr mode => exact execAdrn_nextWf o t view ga aoff n m wd clr tr mode s hs
  | azero o t aoff n m => exact execAzero_nextWf o t aoff n m s hs
  | amark acq scope tag => exact execAmark_nextWf acq scope tag s hs
  | qpush n ga => exact execQpush_nextWf n ga s hs
  | bundleFetch sk => exact absurd rfl (hne sk)
  | istoreFill fill => exact execIstoreFill_nextWf fill s hs
  | portEngineMessage packet => exact execPortEngineMessage_nextWf packet s hs
  | deferredRetryResend packet => exact execDeferredRetryResend_nextWf packet s hs
  | accessResponse packet => exact execAccessResponse_nextWf packet s hs
  | scrubClearingEnd scrub => exact execScrubClearingEnd_nextWf scrub s hs
  | copyCommand copy => exact execCopyCommand_nextWf copy s hs
  | burstAdmission copy => exact execBurstAdmission_nextWf copy s hs
  | burstComplete copy burst => exact execBurstComplete_nextWf copy burst s hs
  | copyCompletion copy => exact execCopyCompletion_nextWf copy s hs
  | mailboxRecordPlace mailbox => exact execMailboxRecordPlace_nextWf mailbox s hs
  | tlbInvalidation inv channel => exact execTlbInvalidation_nextWf inv channel s hs
  | geyserPrefetch channel stream => exact execGeyserPrefetch_nextWf channel stream s hs
  | trapMessage msg => exact execTrapMessage_nextWf msg s hs
  | hubTrapMessage beacon => exact execHubTrapMessage_nextWf beacon s hs
  | pageRequestRecord req => exact execPageRequestRecord_nextWf req s hs
  | pageResponse vf rid gen code => exact execPageResponse_nextWf vf rid gen code s hs
  | priPageRequest req => exact execPriPageRequest_nextWf req s hs
  | prgResponse vf index gen code => exact execPrgResponse_nextWf vf index gen code s hs
  | hostCompletion req error => exact execHostCompletion_nextWf req error s hs
  | hostCompletionTimeout req => exact execHostCompletionTimeout_nextWf req s hs
  | atsInvalidateRequest vf va len => exact execAtsInvalidateRequest_nextWf vf va len s hs
  | atsInvalidateCompletion inv => exact execAtsInvalidateCompletion_nextWf inv s hs
  | multicastJoin join => exact execMulticastJoin_nextWf join s hs
  | multicastJoinAck join => exact execMulticastJoinAck_nextWf join s hs
  | multicastLeave leave => exact execMulticastLeave_nextWf leave s hs
  | multicastPush tile router => exact execMulticastPush_nextWf tile router s hs
  | multicastDelivery tile core => exact execMulticastDelivery_nextWf tile core s hs
  | reduceContribution copy => exact execReduceContribution_nextWf copy s hs
  | spawnRecordRead packet => exact execSpawnRecordRead_nextWf packet s hs
  | futureEvent packet => exact execFutureEvent_nextWf packet s hs
  | futureWake packet => exact execFutureWake_nextWf packet s hs
  | spillWriteCompletion spill => exact execSpillWriteCompletion_nextWf spill s hs
  | spillReadCompletion spill => exact execSpillReadCompletion_nextWf spill s hs
  | joinDecrement packet => exact execJoinDecrement_nextWf packet s hs
  | sendMessageArrival packet => exact execSendMessageArrival_nextWf packet s hs
  | sendRetryResend packet => exact execSendRetryResend_nextWf packet s hs
  | launchRecord vf whole dwords => exact execLaunchRecord_nextWf vf whole dwords s hs
  | launchCheck tag => exact execLaunchCheck_nextWf tag s hs
  | launchRangeRequest tag lseq cluster => exact execLaunchRangeRequest_nextWf tag lseq cluster s hs
  | launchCompletion tag lseq => exact execLaunchCompletion_nextWf tag lseq s hs
  | taskDispatch cluster => exact execTaskDispatch_nextWf cluster s hs
  | tilePrefetchStart cluster => exact execTilePrefetchStart_nextWf cluster s hs
  | prefetchCompletion copy => exact execPrefetchCompletion_nextWf copy s hs
  | stealRequest cluster => exact execStealRequest_nextWf cluster s hs
  | budgetPeriod => exact execBudgetPeriod_nextWf s hs
  | watchdogExpiry frame => exact execWatchdogExpiry_nextWf frame s hs
  | timerExpiry core => exact execTimerExpiry_nextWf core s hs
  | mailInterrupt slot => exact execMailInterrupt_nextWf slot s hs
  | engineTrapEntry slot => exact execEngineTrapEntry_nextWf slot s hs
  | cancelInterrupt slot => exact execCancelInterrupt_nextWf slot s hs
  | leaseGrant cluster => exact execLeaseGrant_nextWf cluster s hs
  | leaseExpiry cluster => exact execLeaseExpiry_nextWf cluster s hs
  | arrayCommandComplete cluster => exact execArrayCommandComplete_nextWf cluster s hs
  | preemptSlice tag => exact execPreemptSlice_nextWf tag s hs
  | preempt core => exact execPreempt_nextWf core s hs
  | contextSave tag => exact execContextSave_nextWf tag s hs
  | contextSaveDone tag => exact execContextSaveDone_nextWf tag s hs
  | resume tag => exact execResume_nextWf tag s hs
  | restoreDone tag => exact execRestoreDone_nextWf tag s hs
  | containmentDelayExpiry tag => exact execContainmentDelayExpiry_nextWf tag s hs
  | containmentReset tag cause => exact execContainmentReset_nextWf tag cause s hs
  | partitionResetRequest tag => exact execPartitionResetRequest_nextWf tag s hs
  | scrubCommand tag scope assign seed => exact execScrubCommand_nextWf tag scope assign seed s hs
  | scrubComplete tag => exact execScrubComplete_nextWf tag s hs
  | certificateSigned tag => exact execCertificateSigned_nextWf tag s hs
  | certificateWriteDone tag => exact execCertificateWriteDone_nextWf tag s hs
  | token vf ptr => exact execToken_nextWf vf ptr s hs
  | prring vf ptr => exact execPrring_nextWf vf ptr s hs
  | run vf k t word v => exact execRun_nextWf vf k t word v s hs
  | geyserThreadStop slot => exact execGeyserThreadStop_nextWf slot s hs
  | channelTableWrite channel k owners => exact execChannelTableWrite_nextWf channel k owners s hs
  | steeringTableWrite tag entries => exact execSteeringTableWrite_nextWf tag entries s hs
  | logicalTableWrite tag entries => exact execLogicalTableWrite_nextWf tag entries s hs
  | routeTableWrite module entry schedule => exact execRouteTableWrite_nextWf module entry schedule s hs
  | communicatorWrite num part op members => exact execCommunicatorWrite_nextWf num part op members s hs
  | guestTimeOffsetWrite tag x => exact execGuestTimeOffsetWrite_nextWf tag x s hs
  | hubTableWrite w => exact execHubTableWrite_nextWf w s hs
  | pageStaleClear vf bits => exact execPageStaleClear_nextWf vf bits s hs
  | ringUpdate tag ring => exact execRingUpdate_nextWf tag ring s hs
  | ringNoticeTimeout tag ring => exact execRingNoticeTimeout_nextWf tag ring s hs
  | ringConsReread rcb => exact execRingConsReread_nextWf rcb s hs
  | flitReceive link crcOk flit => exact execFlitReceive_nextWf link crcOk flit s hs
  | linkDown link => exact execLinkDown_nextWf link s hs
  | linkRetrain link => exact execLinkRetrain_nextWf link s hs
  | timestampSync ppm => exact execTimestampSync_nextWf ppm s hs
  | powerSample readings => exact execPowerSample_nextWf readings s hs
  | ageingMonitorRead die millivolts holds => exact execAgeingMonitorRead_nextWf die millivolts holds s hs
  | patrolScrub device addr outcome => exact execPatrolScrub_nextWf device addr outcome s hs
  | moduleReset image digest => exact execModuleReset_nextWf image digest s hs
  | hostLinkChange up => exact execHostLinkChange_nextWf up s hs
  | virtualFunctionReset vf => exact execVirtualFunctionReset_nextWf vf s hs

/-! ### Issue -/

@[simp] theorem State.tickTime_mems (s : State) : (s.tickTime).mems = s.mems := by simp [State.tickTime]

@[simp] theorem wdogTick_mems (n : Nat) (s : State) (fk : Nat) : (wdogTick n s fk).mems = s.mems := by simp [wdogTick]

@[simp] theorem State.staticCharges_mems (s : State) : (s.staticCharges).mems = s.mems := by
  simp [State.staticCharges]

@[simp] theorem State.tick_wf (s : State) (hs : s.mems.wf = true) : (s.tick).mems.wf = true := by
  simp [State.tick, hs]

@[simp] theorem State.atSwitch_mems (s : State) (sk fk : Nat) (bpc : Word) :
    (s.atSwitch sk fk bpc).mems = s.mems := by
  simp [State.atSwitch]

@[simp] theorem State.finishBundle_mems (s : State) : (s.finishBundle).mems = s.mems := by simp [State.finishBundle]

/-! ### The trials and the waits of a bundle -/

theorem tryOp_eq (i : Instr) (s : State) : tryOp i s = exec i s ∨ tryOp i s = .next s := by
  delta tryOp exec
  cases i <;> simp only [true_or, or_true]

theorem tryOp_nextWf (i : Instr) (s : State) (hs : s.mems.wf = true) : NextWf (tryOp i s) := by
  by_cases hb : ∃ sk, i = .bundleFetch sk
  · obtain ⟨sk, rfl⟩ := hb
    exact (nextWf_next s).2 hs
  · rcases tryOp_eq i s with he | he <;> rw [he]
    · exact exec_nextWf_of_ne_bundleFetch i s (fun sk hi => hb ⟨sk, hi⟩) hs
    · exact (nextWf_next s).2 hs

@[simp] theorem trial_wf (s : State) (i : Instr) (hs : s.mems.wf = true) : (trial s i).mems.wf = true := by
  have ht := tryOp_nextWf i s hs
  unfold trial
  split
  · rename_i he; exact ht _ he
  · exact hs

theorem trialTrap_wf (s : State) (i : Instr) (hazard : Bool) (hs : s.mems.wf = true) :
    ∀ x ∈ trialTrap s i hazard, x.2.mems.wf = true := by
  unfold trialTrap
  dsimp only
  split
  · split
    · simp
    · simp [hs]
  · simp

theorem regEcc_wf (s : State) (keys : List Nat) (hs : s.mems.wf = true) :
    ∀ x ∈ regEcc s keys, x.2.mems.wf = true := by
  unfold regEcc
  split <;> simp [hs]

/-- The state of every trap that an operation of a bundle would raise. -/
theorem opTraps_wf (s : State) (b : BundleOp) (hs : s.mems.wf = true) : ∀ x ∈ opTraps s b, x.2.mems.wf = true := by
  have hg := regEcc_wf s (s.guardWords b.guard) hs
  unfold opTraps
  split
  · simp [hs]
  · rename_i he; rw [he] at hg; exact hg
  · split
    · simp
    · split
      · simp
      · simp [hs]
      · rename_i i _
        split
        · simpa [hs] using trialTrap_wf s i true hs
        · exact fun x hx => (List.mem_append.1 hx).elim (regEcc_wf s _ hs x) (trialTrap_wf s i false hs x)

theorem firstTrap_mem {l : List (Nat × State)} {x : Nat × State} (hx : firstTrap l = some x) : x ∈ l := by
  induction l generalizing x with
  | nil => cases hx
  | cons y ys ih =>
    rw [firstTrap] at hx
    split at hx
    · cases hx; exact List.mem_cons_self
    · rename_i z hz
      split at hx <;> cases hx
      · exact List.mem_cons_of_mem _ (ih hz)
      · exact List.mem_cons_self

theorem acquireOp_wf (i : Instr) (s : State) (hs : s.mems.wf = true) : (acquireOp i s).mems.wf = true := by
  have hw (op : AccOp) (m : AMode) (sum : Word) (n : Nat) (data : Word) :
      (acquireOp.acquireWord s op m sum n data).mems.wf = true := by
    unfold acquireOp.acquireWord
    split <;> simp [hs]
  unfold acquireOp
  split <;> simp [hs, hw]

@[simp] theorem beginWaits_wf (s : State) (is : List Instr) (hs : s.mems.wf = true) :
    (beginWaits s is).mems.wf = true := by
  unfold beginWaits
  split
  · exact trial_wf s _ hs
  · have hl := mems_wf_foldl (fun t i ht => acquireOp_wf i t ht) (is.filter acquires) s hs
    dsimp only
    split <;> simp [hl]

/-! ### The bundle in issue and the steps -/

@[simp] theorem State.issueBundle_wf (s : State) (b : Bundle) (hs : s.mems.wf = true) :
    (s.issueBundle b).mems.wf = true := by
  unfold State.issueBundle
  split
  · rename_i t ht
    obtain ⟨l, hl, hx⟩ := List.mem_flatten.1 (firstTrap_mem ht)
    obtain ⟨o, -, rfl⟩ := List.mem_map.1 hl
    exact opTraps_wf s o hs t hx
  · have hw := beginWaits_wf s (s.liveOps b.ops) hs
    dsimp only
    (repeat' split) <;> simp [hs, hw]

@[simp] theorem State.issueLine_wf (s : State) (fk : Nat) (l : Line) (hs : s.mems.wf = true) :
    (s.issueLine fk l).mems.wf = true := by
  unfold State.issueLine
  dsimp only
  split <;> simp [hs]

theorem execBundleFetch_nextWf (sk : Nat) (s : State) (hs : s.mems.wf = true) : NextWf (execBundleFetch sk s) := by
  unfold execBundleFetch
  split
  · simpa using hs
  · dsimp only
    split <;> simp [hs]

theorem exec_nextWf (i : Instr) (s : State) (hs : s.mems.wf = true) : NextWf (exec i s) := by
  by_cases hb : ∃ sk, i = .bundleFetch sk
  · obtain ⟨sk, rfl⟩ := hb
    exact execBundleFetch_nextWf sk s hs
  · exact exec_nextWf_of_ne_bundleFetch i s (fun sk hi => hb ⟨sk, hi⟩) hs

theorem runOps_nextWf (is : List Instr) (s : State) (hs : s.mems.wf = true) : NextWf (runOps is s) := by
  induction is generalizing s with
  | nil => exact (nextWf_next s).2 hs
  | cons i is ih =>
    have hi := exec_nextWf i s hs
    rw [runOps]
    split
    · rename_i t ht
      have hw := hi t ht
      split
      · simpa using hw
      · exact ih t hw
    · exact hi

theorem issueBundle_nextWf (sk : Nat) (s : State) (hs : s.mems.wf = true) : NextWf (issueBundle sk s) := by
  have hf := exec_nextWf (.bundleFetch sk) s hs
  unfold issueBundle
  split
  · rename_i t ht
    have hw := hf t ht
    split
    · simpa using hw
    · have hr := runOps_nextWf t.cur.ops t hw
      split
      · rename_i u hu; simpa using hr u hu
      · exact hr
  · exact hf

/-- The state of a slot's turn. -/
def Turn.state : Turn → State
  | .quiet s | .take _ _ s | .bundle s => s

theorem State.boundary_mems (s : State) (sk : Nat) : (s.boundary sk).state.mems = s.mems := by
  unfold State.boundary
  dsimp only
  (repeat' split) <;> simp [Turn.state]

theorem issueTurn_nextWf (sk : Nat) (s : State) (hs : s.mems.wf = true) : NextWf (issueTurn sk s) := by
  have hb : (s.boundary sk).state.mems.wf = true := s.boundary_mems sk ▸ hs
  unfold issueTurn
  split <;> rename_i he <;> rw [he] at hb
  · exact (nextWf_next _).2 hb
  · rename_i i fk t
    have hi := exec_nextWf i t hb
    split
    · rename_i u hu
      split
      · exact issueBundle_nextWf sk u (hi u hu)
      · simpa using hi u hu
    · exact hi
  · exact issueBundle_nextWf sk _ hb

/-- The states that a plan gives to a step. -/
def Plan.Wf : Plan → Prop
  | .stuck => True
  | .run _ t | .issue _ t | .idle t => t.mems.wf = true

theorem State.takeEvent_wf (s : State) (k : Nat) (hs : s.mems.wf = true) : (s.takeEvent k).Wf := by
  unfold State.takeEvent
  (repeat' split) <;> exact hs

theorem State.takeIssue_wf (s : State) (hs : s.mems.wf = true) : s.takeIssue.Wf := by
  unfold State.takeIssue
  split
  · exact s.takeEvent_wf _ hs
  · split
    · exact hs
    · split
      · exact s.takeEvent_wf _ hs
      · exact s.tick_wf hs

theorem State.nextPlan_wf (s : State) (hs : s.mems.wf = true) : s.nextPlan.Wf := by
  unfold State.nextPlan
  split
  · (repeat' split)
    · exact True.intro
    · exact hs
    · exact hs
  · (repeat' split)
    · exact True.intro
    · exact State.takeEvent_wf _ _ hs
    · exact s.takeIssue_wf hs
  · split
    · exact True.intro
    · exact State.takeIssue_wf _ hs
  · (repeat' split)
    · exact True.intro
    · exact s.takeEvent_wf _ hs
    · exact s.takeIssue_wf hs

theorem step_nextWf (s : State) (hs : s.mems.wf = true) : NextWf (step s) := by
  have hp := s.nextPlan_wf hs
  unfold step
  split <;> rename_i he <;> rw [he] at hp
  · exact fun t ht => by cases ht
  · exact exec_nextWf _ _ hp
  · exact issueTurn_nextWf _ _ hp
  · exact (nextWf_next _).2 hp

/-- Settles O60: every function of the model leaves the four memories, or changes them by the writes of `Mem`. -/
theorem stepKeepsMemoryForm : Obligations.StepKeepsMemoryForm := by
  unfold Obligations.StepKeepsMemoryForm
  intro s t hs ht
  exact step_nextWf s (s.memWf_eq ▸ hs) t ht

end Sys2Proof.Machine

namespace Sys2Proof.Machine

/-! ## Transfers of control (R33, R235) -/

/-- The tag of a word takes its top eight bits whole. -/
theorem natBits_tag (w : Word) : natBits w.toNat 56 8 = w.toNat / 2 ^ 56 := by
  have hw := w.isLt
  unfold natBits
  omega

theorem targetOk_iff (t : Word) : targetOk t = true ↔ t.toNat / 2 ^ 56 = 0 ∧ t.getLsbD 5 = false := by
  simp only [targetOk, natBits_tag, Bool.and_eq_true, beq_iff_eq, Bool.not_eq_true']

theorem transfer_of_ok {s : State} {t : Word} {link : State → State} (h : targetOk t = true) :
    transfer s t link = .next ((link s).jump t) := if_pos h

theorem transfer_of_bad {s : State} {t : Word} {link : State → State} (h : t.toNat / 2 ^ 56 ≠ 0 ∨ t.getLsbD 5 = true) :
    transfer s t link = .next (s.trap { cause := 0x04, eval := t }) := by
  have hn : ¬ targetOk t = true := by
    rw [targetOk_iff]
    rintro ⟨htag, hbit⟩
    exact h.elim (fun hne => hne htag) (fun hb => Bool.noConfusion (hb.symm.trans hbit))
  exact if_neg hn

theorem branch_of_taken {s : State} {taken : Bool} {t : Word} (h : taken = true) : branch s taken t = transfer s t id :=
  if_pos h

theorem branch_of_not_taken {s : State} {taken : Bool} {t : Word} (h : taken = false) : branch s taken t = .next s := by
  rw [branch, h]; rfl

theorem exec_jal (d : BitVec 22) (h : BitVec 5) (s : State) :
    exec (.jal d h) s = transfer s (s.relTarget d h) (fun t => t.setG 63 s.cur.npc) := rfl

theorem exec_jalr (rd ra : BitVec 6) (s : State) :
    exec (.jalr rd ra) s = transfer s (s.pg ra) (fun t => t.setG rd s.cur.npc) := rfl

theorem execLoop_of_zero {s : State} {rd ra : BitVec 6} {d : BitVec 15} {h : BitVec 5} (hn : s.pg ra - 1 = 0) :
    exec (.loop rd ra d h) s = .next (s.setG rd 0) := by
  show (if s.pg ra - 1 = 0 then _ else _) = _
  rw [if_pos hn, hn]

theorem execLoop_of_ne {s : State} {rd ra : BitVec 6} {d : BitVec 15} {h : BitVec 5} (hn : s.pg ra - 1 ≠ 0) :
    exec (.loop rd ra d h) s = transfer s (s.relTarget d h) (fun t => t.setG rd (s.pg ra - 1)) := if_neg hn

theorem beq_eq_true_iff_bne (a b : Bool) : (a == b) = true ↔ (a != b) = false := by
  cases a <;> cases b <;> decide

/-- Settles O6. -/
theorem transfers : Obligations.Transfers := by
  unfold Obligations.Transfers
  refine ⟨fun s p inv d d15 h rd ra => ?_, fun s p inv d d15 h rd ra => ?_⟩
  · intro rel ok n
    have hok {t : Word} (ht : ok t) : targetOk t = true := (targetOk_iff t).2 ht
    refine ⟨rfl, fun hb => ?_, fun hb => ?_, fun hb ht => ?_, fun hb ht => ?_, fun ht => ⟨?_, ?_⟩, fun ht => ⟨?_, ?_⟩,
      fun hn => ?_, fun hn ht => ?_⟩
    · exact branch_of_not_taken ((beq_eq_true_iff_bne _ _).1 hb)
    · exact branch_of_not_taken ((beq_eq_true_iff_bne _ _).1 hb)
    · exact (branch_of_taken hb).trans (transfer_of_ok (hok ht))
    · exact (branch_of_taken hb).trans (transfer_of_ok (hok ht))
    · exact transfer_of_ok (hok ht)
    · exact (exec_jal d h s).trans (transfer_of_ok (hok ht))
    · exact transfer_of_ok (hok ht)
    · exact (exec_jalr rd ra s).trans (transfer_of_ok (hok ht))
    · exact execLoop_of_zero hn
    · exact (execLoop_of_ne hn).trans (transfer_of_ok (hok ht))
  · intro bad traps
    refine ⟨fun hb => ⟨transfer_of_bad hb, (exec_jalr rd ra s).trans (transfer_of_bad hb)⟩,
      fun hb => ⟨transfer_of_bad hb, (exec_jal d h s).trans (transfer_of_bad hb),
      fun ht => (branch_of_taken ht).trans (transfer_of_bad hb), fun ht => (branch_of_taken ht).trans (transfer_of_bad hb)⟩,
      fun hb hra => ?_⟩
    have hn : s.pg ra - 1 ≠ 0 := fun h0 => hra (by rwa [sub_eq_zero] at h0)
    exact (execLoop_of_ne hn).trans (transfer_of_bad hb)

end Sys2Proof.Machine

namespace Sys2Proof.Machine

/-! ## Windows and operands (R16, R23, R28, R29) -/

theorem alignDec_eq (view m q off n : Nat) : alignDec view m q off n = ⟨view, m, q, off / n * n, decide (off % n ≠ 0)⟩ := by
  have hoff : off - off % n = off / n * n := by
    have := Nat.div_add_mod' off n
    omega
  simp [alignDec, hoff, bne, beq_eq_decide]

theorem decodeOperand_of_core {s : State} (hg : s.onGeyser = false) (am : AMode) (sum : Word) (n : Nat) :
    s.decodeOperand am sum n = coreDecode s s.curCore am sum n := by simp [State.decodeOperand, hg]

/-- The window of a generic pointer on a compute core, by its tag. -/
theorem coreDecode_gen (s : State) (k : Nat) (sum : Word) (n : Nat) :
    let x := sum.toNat
    let tag := x / 2 ^ 56
    coreDecode s k .gen sum n =
      if tag = 0 ∨ tag = 1 then .error { cause := 0x03, eval := sum }
      else if tag = 0xF0 then .ok (alignDec 0 s.module.toNat (k / 16) (x % 2 ^ 17) n)
      else if tag = 0xF1 then .ok (alignDec 1 s.module.toNat (k / 16) (x % 2 ^ 21) n)
      else if tag = 0xF2 then .ok (alignDec 2 s.module.toNat (k / 16) (x % 2 ^ 21) n)
      else if tag = 0xF3 then
        if x / 2 ^ 17 % 2 ^ 14 ≠ 0 then .error { cause := 0x04, eval := sum }
        else .ok (alignDec (if x / 2 ^ 31 % 2 = 1 then 2 else 1) (x / 2 ^ 46 % 2 ^ 10) (x / 2 ^ 36 % 2 ^ 10)
          (x / 2 ^ 32 % 2 ^ 4 * 2 ^ 17 + x % 2 ^ 17) n)
      else .error { cause := 0x04, eval := sum } := by
  have ht : sum.toNat / 2 ^ 56 % 2 ^ 8 = sum.toNat / 2 ^ 56 := natBits_tag sum
  simp only [coreDecode, natBits, ht, pow_one]

/-- A plain access whose operand names no place traps. -/
theorem plainAccess_of_error {s : State} {am : AMode} {sum : Word} {n : Nat} {x : TrapRec}
    (he : s.decodeOperand am sum n = .error x) (op : AccOp) (cls : AccClass) (lo hi : Word) (dst : Option Nat) :
    plainAccess s op cls am sum n lo hi dst = .next (s.trap x) := by
  unfold plainAccess
  rw [he]

theorem feTrap_of_error {s : State} (hg : s.onGeyser = false) {am : AMode} {sum : Word} {n : Nat} {x : TrapRec}
    (he : s.decodeOperand am sum n = .error x) : feTrap s am sum n = some x := by simp [feTrap, hg, he]

theorem feAccess_of_trap {s : State} {am : AMode} {sum : Word} {n : Nat} {x : TrapRec} (hx : feTrap s am sum n = some x)
    (op : AccOp) (data : Word) (dst : Option (BitVec 6)) : feAccess s op am sum n data dst = .next (s.trap x) := by
  unfold feAccess
  rw [hx]

theorem feset_of_trap {s : State} {am : AMode} {sum : Word} {n : Nat} {x : TrapRec} (hx : feTrap s am sum n = some x)
    (op : AccOp) : feset s op am sum n = .next (s.trap x) := by
  unfold feset
  rw [hx]

theorem atomic_of_error {s : State} {am : AMode} {sum : Word} {n : Nat} {x : TrapRec} {o : Ord}
    (hsc : scopeTrap s (ordScope o) = none) (he : s.decodeOperand am sum n = .error x) (op : AccOp) (data expect : Word)
    (rt : BitVec 6) : atomic s op am sum n data expect rt o = .next (s.trap x) := by
  unfold atomic
  rw [hsc, he]

/-- Settles O8. -/
theorem addressDecode : Obligations.AddressDecode := by
  unfold Obligations.AddressDecode
  refine ⟨fun s sum n hg => ?_, fun s rt rb rc vt am sz off x => ?_⟩
  · intro x tag own view
    have hgen := coreDecode_gen s s.curCore sum n
    simp only [decodeOperand_of_core hg, hgen]
    refine ⟨?_, ?_, ?_, fun ht => ?_, fun ht => ?_, fun ht => ?_, fun ht => ?_, fun ht hz => ?_, fun ht => ?_, fun ht hz => ?_⟩
    · exact congrArg Except.ok (alignDec_eq _ _ _ _ _)
    · exact congrArg Except.ok (alignDec_eq _ _ _ _ _)
    · exact congrArg Except.ok (alignDec_eq _ _ _ _ _)
    · rw [show sum.toNat / 2 ^ 56 = 0xF0 from ht]
      exact congrArg Except.ok (alignDec_eq _ _ _ _ _)
    · rw [show sum.toNat / 2 ^ 56 = 0xF1 from ht]
      exact congrArg Except.ok (alignDec_eq _ _ _ _ _)
    · rw [show sum.toNat / 2 ^ 56 = 0xF2 from ht]
      exact congrArg Except.ok (alignDec_eq _ _ _ _ _)
    · exact if_pos ht
    · rw [show sum.toNat / 2 ^ 56 = 0xF3 from ht]
      exact if_pos hz
    · simp only [List.mem_cons, List.not_mem_nil, or_false, not_or] at ht
      obtain ⟨h0, h1, hF0, hF1, hF2, hF3⟩ := ht
      rw [if_neg (not_or.2 ⟨h0, h1⟩), if_neg hF0, if_neg hF1, if_neg hF2, if_neg hF3]
    · rw [show sum.toNat / 2 ^ 56 = 0xF3 from ht]
      exact ⟨_, if_neg (not_not.2 hz), by rw [alignDec_eq], rfl, rfl, by rw [alignDec_eq]⟩
  · intro sum
    refine ⟨fun he => ⟨plainAccess_of_error he _ _ _ _ _, plainAccess_of_error he _ _ _ _ _, fun hg => ?_⟩,
      fun he => ⟨plainAccess_of_error he _ _ _ _ _, plainAccess_of_error he _ _ _ _ _⟩,
      fun dw op o off hsc he => ⟨atomic_of_error hsc he _ _ _ _, atomic_of_error hsc he _ _ _ _⟩⟩
    have hx := feTrap_of_error hg he
    exact ⟨feAccess_of_trap hx _ _ _, feAccess_of_trap hx _ _ _, feAccess_of_trap hx _ _ _, feset_of_trap hx _,
      feset_of_trap hx _⟩

end Sys2Proof.Machine

namespace Sys2Proof.Machine

/-! ## A retry in a partition that is being scrubbed (R54, R403) -/

/-- An operation that core 0 keeps to send it again. -/
def keptRetry : Packet := ⟨7, 0, 1, 0, 0, 1, 0, [], 0, .access default⟩

/-- Core 0 keeps it while the partition is being scrubbed. -/
def scrubbedRetry : State :=
  { cores := [(0, { epoch := 1, retryBuf := [keptRetry] })], parts := [(0, { scrubbing := true })] }

theorem exec_sendRetryResend_scrubbedRetry :
    exec (.sendRetryResend 7) scrubbedRetry = .next (scrubbedRetry.again (.sendRetryResend 7)) := rfl

/-- Refutes O13: while its partition is being scrubbed a send retry sends nothing, and is tried again eight cycles later. -/
theorem not_accessResponse : ¬ Obligations.AccessResponse := by
  unfold Obligations.AccessResponse
  rintro ⟨⟨-, hretry⟩, -⟩
  obtain ⟨-, t, q, ht, hnet, -⟩ := hretry scrubbedRetry keptRetry 0 rfl rfl (by decide)
  have he : t = scrubbedRetry.again (.sendRetryResend 7) :=
    Host.Outcome.next.inj (ht.symm.trans exec_sendRetryResend_scrubbedRetry)
  rw [he] at hnet
  exact absurd hnet (by simp [State.again, State.later, scrubbedRetry])

end Sys2Proof.Machine

namespace Sys2Proof.Machine

/-! ## What an operation keeps of its thread -/

/-- The registers, the control registers and the pc of a frame are as before. -/
def Frame.Keeps (f g : Frame) : Prop := g.g = f.g ∧ g.v = f.v ∧ g.p = f.p ∧ g.pc = f.pc ∧ SameControl f g

theorem SameControl.refl (f : Frame) : SameControl f f := by simp [SameControl]

theorem SameControl.trans {f g h : Frame} (h1 : SameControl f g) (h2 : SameControl g h) : SameControl f h := by
  simp only [SameControl] at *
  grind

theorem Frame.Keeps.refl (f : Frame) : f.Keeps f := ⟨rfl, rfl, rfl, rfl, .refl f⟩

theorem Frame.Keeps.trans {f g h : Frame} (h1 : f.Keeps g) (h2 : g.Keeps h) : f.Keeps h := by
  obtain ⟨hg, hv, hp, hpc, hc⟩ := h1
  obtain ⟨kg, kv, kp, kpc, kc⟩ := h2
  exact ⟨kg.trans hg, kv.trans hv, kp.trans hp, kpc.trans hpc, hc.trans kc⟩

theorem Frame.Keeps.sameRegs {f g : Frame} (h : f.Keeps g) (keys : List Nat) : SameRegsBut keys f g := by
  obtain ⟨hg, hv, hp, -, -⟩ := h
  exact ⟨fun n _ _ => by simp [Frame.rg, hg], fun n _ _ => by simp [Frame.rv, hv], fun n _ _ => by simp [Frame.rp, hp]⟩

theorem Frame.keeps_setSticky (f : Frame) (b : Nat) : f.Keeps (f.setSticky b) := by
  simp [Frame.Keeps, SameControl, Frame.setSticky]

theorem Frame.keeps_setReady (f : Frame) (k c : Nat) : f.Keeps (f.setReady k c) := by
  obtain ⟨r, hr⟩ := f.setReady_eq k c
  simp [hr, Frame.Keeps, SameControl]

/-- Energy is counted in fields of its own. -/
theorem Frame.addEnergy_eq (f : Frame) (x : Nat) :
    ∃ e sat r, f.addEnergy x = { f with energy := e, energySat := sat, energyFrac := r } := by
  unfold Frame.addEnergy
  dsimp only
  split
  · exact ⟨_, f.energySat, _, rfl⟩
  · exact ⟨_, _, _, rfl⟩

theorem Frame.keeps_addEnergy (f : Frame) (x n : Nat) : f.Keeps { f.addEnergy x with energyFw := n } := by
  obtain ⟨e, sat, r, he⟩ := f.addEnergy_eq x
  simp [he, Frame.Keeps, SameControl]

/-- From s to t the thread in issue keeps its registers and its pc, and no memory changes. -/
structure State.Keeps (s t : State) : Prop where
  mems : t.mems = s.mems
  cur : t.cur = s.cur
  frame : s.cf.Keeps t.cf

theorem State.Keeps.refl (s : State) : s.Keeps s := ⟨rfl, rfl, .refl _⟩

theorem State.Keeps.trans {s t u : State} (h1 : s.Keeps t) (h2 : t.Keeps u) : s.Keeps u :=
  ⟨h2.mems.trans h1.mems, h2.cur.trans h1.cur, h1.frame.trans h2.frame⟩

theorem State.keeps_upd (s : State) (h : Frame → Frame) (hh : s.cf.Keeps (h s.cf)) : s.Keeps (s.upd h) :=
  ⟨s.upd_mems h, rfl, by rwa [State.cf_upd]⟩

/-- A state that differs in none of the frames and memories. -/
theorem State.keeps_of_eq {s t : State} (hm : t.mems = s.mems) (hc : t.cur = s.cur) (hf : t.frames = s.frames) : s.Keeps t :=
  ⟨hm, hc, by
    have : t.cf = s.cf := by simp [State.cf, State.frame, hc, hf]
    rw [this]
    exact .refl _⟩

theorem State.keeps_stickyIf (s : State) (c : Bool) (b : Nat) : s.Keeps (s.stickyIf c b) := by
  rcases s.stickyIf_eq c b with h | h <;> rw [h]
  · exact .refl s
  · exact s.keeps_upd _ (Frame.keeps_setSticky _ _)

theorem State.keeps_charge (s : State) (cls n : Nat) : s.Keeps (s.charge s.cur.fk cls n) :=
  s.keeps_upd _ (Frame.keeps_addEnergy _ _ _)

theorem State.keeps_chargeAcc (s : State) (own : Bool) (places : List (Nat × Nat)) : s.Keeps (s.chargeAcc own places) := by
  unfold State.chargeAcc
  split <;> exact s.keeps_charge _ _

theorem sameMemory_of_mems {s t : State} (h : t.mems = s.mems) : SameMemory s t := by
  obtain ⟨hp, hg, hd, hh, hf⟩ := Mems.mk.inj h
  exact ⟨fun a => by rw [hp], fun a => by rw [hg], fun a => by rw [hd], fun a => by rw [hh], hf⟩

theorem SameMemory.of_mems_left {s t u : State} (hm : t.mems = s.mems) (h : SameMemory t u) : SameMemory s u := by
  obtain ⟨hp, hg, hd, hh, hf⟩ := Mems.mk.inj hm
  obtain ⟨kp, kg, kd, kh, kf⟩ := h
  exact ⟨fun a => by rw [kp, hp], fun a => by rw [kg, hg], fun a => by rw [kd, hd], fun a => by rw [kh, hh], kf.trans hf⟩

theorem State.Keeps.sameMemory {s t : State} (h : s.Keeps t) : SameMemory s t := sameMemory_of_mems h.mems

/-! ## What an operation keeps of the units -/

theorem SameUnits.refl (s : State) : SameUnits s s := by simp [SameUnits]

theorem SameUnits.trans {s t u : State} (hc : t.cur = s.cur) (h1 : SameUnits s t) (h2 : SameUnits t u) : SameUnits s u := by
  obtain ⟨hk, h1⟩ := h1
  obtain ⟨kk, h2⟩ := h2
  refine ⟨fun k hne => (kk k (by rwa [hc])).trans (hk k hne), ?_⟩
  grind

theorem sameUnits_upd (s : State) (h : Frame → Frame) : SameUnits s (s.upd h) := by
  refine ⟨fun k hk => ?_, rfl, rfl, rfl, rfl, rfl, rfl, rfl, rfl, rfl, rfl⟩
  rw [State.frame_upd, if_neg hk]

theorem sameUnits_stickyIf (s : State) (c : Bool) (b : Nat) : SameUnits s (s.stickyIf c b) := by
  rcases s.stickyIf_eq c b with h | h <;> rw [h]
  · exact .refl s
  · exact sameUnits_upd s _

theorem sameUnits_chargeAcc (s : State) (own : Bool) (places : List (Nat × Nat)) : SameUnits s (s.chargeAcc own places) := by
  unfold State.chargeAcc
  split <;> exact sameUnits_upd s _

/-! ## The sticky bits of an issue -/

theorem State.estat_stickyIf (s : State) (c : Bool) (b : Nat) :
    (s.stickyIf c b).cf.estat = s.cf.estat ||| (if c then (1 : BitVec 32) <<< b else 0) := by
  cases c
  · simp [State.stickyIf]
  · simp [State.stickyIf, State.sticky, Frame.setSticky]

theorem State.estat_chargeAcc (s : State) (own : Bool) (places : List (Nat × Nat)) :
    (s.chargeAcc own places).cf.estat = s.cf.estat := by
  have h (cls n : Nat) : (s.charge s.cur.fk cls n).cf.estat = s.cf.estat := by
    obtain ⟨e, sat, r, he⟩ := s.cf.addEnergy_eq (n * weightOf (if isGeyserFrame s.cur.fk then
      (s.geyser (frameCore s.cur.fk)).ewt else (s.core (frameCore s.cur.fk)).ewt) cls)
    have hc : (s.charge s.cur.fk cls n).cf = _ := State.cf_upd s _
    rw [hc]
    simp [he]
  unfold State.chargeAcc
  split <;> exact h _ _

/-! ## The issue of an own-pool access (R250) -/

/-- The access that an issue to the own pool leaves to be performed a turn later. -/
def State.ownDelayed (s : State) (op : AccOp) (d : Dec) (n : Nat) (lo hi : Word) (dst : Option Nat) : Delayed :=
  ⟨s.cycle + 8, s.nextId, s.cur.fk, frameEnd s.cur.fk, wordAccs op (s.wordPlaces d n) n lo hi 0 s.nextId, s.ownGap d.off, dst⟩

@[simp] theorem State.stickyIf_frames (s : State) (c : Bool) (b : Nat) :
    (s.stickyIf c b).cycle = s.cycle ∧ (s.stickyIf c b).nextId = s.nextId ∧ (s.stickyIf c b).delayed = s.delayed ∧
      (s.stickyIf c b).cur = s.cur ∧ (s.stickyIf c b).net = s.net := by
  rcases s.stickyIf_eq c b with h | h <;> rw [h] <;> exact ⟨rfl, rfl, rfl, rfl, rfl⟩

@[simp] theorem State.chargeAcc_frames (s : State) (own : Bool) (places : List (Nat × Nat)) :
    (s.chargeAcc own places).cycle = s.cycle ∧ (s.chargeAcc own places).nextId = s.nextId ∧
      (s.chargeAcc own places).delayed = s.delayed ∧ (s.chargeAcc own places).cur = s.cur ∧
      (s.chargeAcc own places).net = s.net := by
  unfold State.chargeAcc
  split <;> exact ⟨rfl, rfl, rfl, rfl, rfl⟩

/-- An own-pool access has been charged and stands in the list of those to perform. -/
def State.ownCharged (s : State) (op : AccOp) (d : Dec) (n : Nat) (lo hi : Word) (dst : Option Nat) : State :=
  let s1 := ((s.stickyIf d.misal bitMisal).stickyIf (s.ownGap d.off) bitOor).chargeAcc true (s.wordPlaces d n)
  { s1.fresh.2 with delayed := s1.delayed ++ [s.ownDelayed op d n lo hi dst], unperf := s1.nextId :: s1.unperf }

theorem State.issueOwn_none (s : State) (op : AccOp) (d : Dec) (n : Nat) (lo hi : Word) :
    s.issueOwn op d n lo hi none = s.ownCharged op d n lo hi none := by
  simp [State.issueOwn, State.ownCharged, State.ownDelayed, State.fresh]

theorem State.issueOwn_some (s : State) (op : AccOp) (d : Dec) (n : Nat) (lo hi : Word) (k : Nat) :
    s.issueOwn op d n lo hi (some k) =
      (s.ownCharged op d n lo hi (some k)).upd (fun f => f.setReady k (s.cycle + 8)) := by
  simp [State.issueOwn, State.ownCharged, State.ownDelayed, State.fresh]

theorem State.ownCharged_issues (s : State) (op : AccOp) (d : Dec) (n : Nat) (lo hi : Word) (dst : Option Nat) :
    IssuesOwn s (s.ownCharged op d n lo hi dst) (s.ownDelayed op d n lo hi dst) d ∧ (s.ownCharged op d n lo hi dst).cur = s.cur := by
  let s1 := s.stickyIf d.misal bitMisal
  let s2 := s1.stickyIf (s.ownGap d.off) bitOor
  let s3 := s2.chargeAcc true (s.wordPlaces d n)
  have hk1 : s.Keeps s1 := s.keeps_stickyIf _ _
  have hk2 : s.Keeps s2 := hk1.trans (s1.keeps_stickyIf _ _)
  have hk3 : s.Keeps s3 := hk2.trans (s2.keeps_chargeAcc _ _)
  have hk4 : s.Keeps (s.ownCharged op d n lo hi dst) := hk3.trans (State.keeps_of_eq rfl rfl rfl)
  have hu : SameUnits s s3 := ((sameUnits_stickyIf s _ _).trans hk1.cur (sameUnits_stickyIf s1 _ _)).trans hk2.cur
    (sameUnits_chargeAcc s2 _ _)
  have hd : s3.delayed = s.delayed := by simp [s3, s2, s1]
  have he : s3.cf.estat = s.cf.estat ||| (if d.misal then 2 else 0) ||| (if s.ownGap d.off then 1 else 0) := by
    simp only [s3, s2, s1, State.estat_chargeAcc, State.estat_stickyIf]
    rfl
  obtain ⟨-, -, -, hpc, hc⟩ := hk4.frame
  exact ⟨⟨congrArg (· ++ _) hd, rfl, rfl, hk4.sameMemory, hu, hk4.frame.sameRegs _, hc, hpc, he⟩, hk4.cur⟩

theorem SameRegsBut.trans {keys : List Nat} {f g h : Frame} (h1 : SameRegsBut keys f g) (h2 : SameRegsBut keys g h) :
    SameRegsBut keys f h := by
  obtain ⟨hg, hv, hp⟩ := h1
  obtain ⟨kg, kv, kp⟩ := h2
  exact ⟨fun n hn hk => (kg n hn hk).trans (hg n hn hk), fun n hn hk => (kv n hn hk).trans (hv n hn hk),
    fun n hn hk => (kp n hn hk).trans (hp n hn hk)⟩

/-- A ready cycle is no part of what the issue of an own-pool access keeps. -/
theorem IssuesOwn.setReady {s t : State} {x : Delayed} {d : Dec} (h : IssuesOwn s t x d) (hcur : t.cur = s.cur) (k c : Nat) :
    IssuesOwn s (t.upd (fun f => f.setReady k c)) x d := by
  obtain ⟨hdel, hat, hfr, hmem, hun, hreg, hctl, hpc, hest⟩ := h
  have hk : t.cf.Keeps (t.upd (fun f => f.setReady k c)).cf := by
    rw [State.cf_upd]; exact Frame.keeps_setReady _ _ _
  have he : (t.upd (fun f => f.setReady k c)).cf.estat = t.cf.estat := by
    obtain ⟨r, hr⟩ := t.cf.setReady_eq k c
    rw [State.cf_upd, hr]
  have hkr := hk.sameRegs []
  obtain ⟨-, -, -, kpc, kctl⟩ := hk
  exact ⟨hdel, hat, hfr, hmem, hun.trans hcur (sameUnits_upd t _), hreg.trans hkr, hctl.trans kctl, kpc.trans hpc,
    he.trans hest⟩

theorem State.issueOwn_issues (s : State) (op : AccOp) (d : Dec) (n : Nat) (lo hi : Word) (dst : Option Nat) :
    IssuesOwn s (s.issueOwn op d n lo hi dst) (s.ownDelayed op d n lo hi dst) d := by
  obtain ⟨h, hcur⟩ := s.ownCharged_issues op d n lo hi dst
  cases dst with
  | none => exact s.issueOwn_none op d n lo hi ▸ h
  | some k => exact s.issueOwn_some op d n lo hi k ▸ h.setReady hcur k _

/-- The destination of a load is readable one turn after its issue. -/
theorem State.issueOwn_ready (s : State) (op : AccOp) (d : Dec) (n : Nat) (lo hi : Word) {k : Nat} (h0 : k ≠ 0) (hp : k ≠ 128) :
    (s.issueOwn op d n lo hi (some k)).cf.ready.getD k 0 = s.cycle + 8 := by
  rw [State.issueOwn_some]
  simp [Frame.setReady, h0, hp]

/-! ## The own pool of a frame (R20, R21) -/

/-- The bytes that hold a frame's own pool are replaced. -/
def State.setOwn (s : State) (fk : Nat) (m : Mem) : State :=
  if isGeyserFrame fk then { s with gpool := m } else { s with pool := m }

@[simp] theorem ownMem_setOwn (s : State) (fk : Nat) (m : Mem) : ownMem (s.setOwn fk m) fk = m := by
  by_cases h : isGeyserFrame fk = true <;> simp [State.setOwn, ownMem, h]

@[simp] theorem ownKey_setOwn (s : State) (fk off : Nat) (m : Mem) : ownKey (s.setOwn fk m) fk off = ownKey s fk off := by
  by_cases h : isGeyserFrame fk = true
  · simp [ownKey, h]
  · simp only [State.setOwn, ownKey, h]
    rfl

theorem sameOthers_setOwn (s : State) (fk : Nat) (m : Mem) : SameOthers fk s (s.setOwn fk m) := by
  by_cases h : isGeyserFrame fk <;> simp [State.setOwn, SameOthers, h]

@[simp] theorem setOwn_setOwn (s : State) (fk : Nat) (m k : Mem) : (s.setOwn fk m).setOwn fk k = s.setOwn fk k := by
  by_cases h : isGeyserFrame fk <;> simp [State.setOwn, h]

/-- The endpoint of a frame is its core, or its Geyser beyond all cores. -/
theorem frameEnd_eq (fk : Nat) : frameEnd fk = if isGeyserFrame fk then 2 ^ 20 + frameCore fk else frameCore fk := by
  by_cases h : isGeyserFrame fk <;> simp [frameEnd, frameCore, h]

theorem geyser_le_frameEnd (fk : Nat) : 2 ^ 20 ≤ frameEnd fk ↔ isGeyserFrame fk = true := by
  unfold frameEnd
  by_cases h : isGeyserFrame fk = true
  · simp [h]
  · have hlt : ¬ 2 ^ 20 ≤ fk := by simpa [isGeyserFrame] using h
    simp only [h, Bool.false_eq_true, if_false, iff_false]
    omega

/-- A word of a delayed access is performed at the bank of the frame's own pool. -/
theorem delayedWord_own {x : Delayed} {fk : Nat} (hx : x.at_end = frameEnd fk) (hgap : x.gap = false) (r : State × List Word)
    (a : WordAcc) :
    delayedWord x r a =
      let b := if isGeyserFrame fk then r.1.geyserBank (frameCore fk) a else r.1.bankServe (frameCore fk) a
      (b.1, r.2 ++ [b.2]) := by
  unfold delayedWord
  rw [hgap, hx]
  by_cases h : isGeyserFrame fk = true
  · rw [if_pos ((geyser_le_frameEnd fk).2 h), frameEnd_eq, if_pos h, if_pos h, Nat.add_sub_cancel_left]
    rfl
  · rw [if_neg (mt (geyser_le_frameEnd fk).1 h), frameEnd_eq, if_neg h, if_neg h]
    rfl

theorem delayedWord_load {x : Delayed} {fk : Nat} (hx : x.at_end = frameEnd fk) (hgap : x.gap = false) (r : State × List Word)
    (off n : Nat) (lo e : Word) (p out : Nat) :
    delayedWord x r ⟨.load, off, n, lo, e, p, out⟩ =
      (r.1, r.2 ++ [natWord ((ownMem r.1 fk).readLE (ownKey r.1 fk off) n)]) := by
  rw [delayedWord_own hx hgap]
  by_cases h : isGeyserFrame fk = true
  · simp only [h, if_true, ownMem, ownKey]
    rfl
  · simp only [h, ownMem, ownKey]
    rfl

theorem delayedWord_store {x : Delayed} {fk : Nat} (hx : x.at_end = frameEnd fk) (hgap : x.gap = false) (r : State × List Word)
    (off n : Nat) (lo e : Word) (p out : Nat) :
    delayedWord x r ⟨.store, off, n, lo, e, p, out⟩ =
      (r.1.setOwn fk ((ownMem r.1 fk).writeLE (ownKey r.1 fk off) n lo.toNat), r.2 ++ [0]) := by
  rw [delayedWord_own hx hgap]
  by_cases h : isGeyserFrame fk = true
  · simp only [h, if_true, ownMem, ownKey, State.setOwn]
    rfl
  · simp only [h, ownMem, ownKey, State.setOwn]
    rfl

theorem delayedWord_gap {x : Delayed} (hgap : x.gap = true) (r : State × List Word) (a : WordAcc) :
    delayedWord x r a = (r.1, r.2 ++ [0]) := by
  unfold delayedWord
  rw [if_pos hgap]

theorem Mem.readLE_writeLE_self (n a x : Nat) (m : Mem) (h : m.wf = true) : (m.writeLE a n x).readLE a n = x % 2 ^ (8 * n) := by
  induction n generalizing a x m with
  | zero => simp [Mem.readLE, Nat.mod_one]
  | succ n ih =>
    simp only [Mem.readLE, Mem.writeLE]
    rw [ih (a + 1) _ _ (Mem.wf_write _ _ _ h), Mem.read_writeLE_ne n (a + 1) a _ _ (by omega), Mem.read_write_self _ _ _ h]
    have hp : 2 ^ (8 * (n + 1)) = 2 ^ 8 * 2 ^ (8 * n) := by rw [← pow_add]; congr 1; omega
    simp only [hp, Nat.mod_mul, BitVec.toNat_ofNat, Nat.reducePow]

theorem Mem.readLE_writeLE_ne (n a k b x : Nat) (m : Mem) (h : a + n ≤ b ∨ b + k ≤ a) :
    (m.writeLE b k x).readLE a n = m.readLE a n := by
  induction n generalizing a with
  | zero => rfl
  | succ n ih =>
    simp only [Mem.readLE]
    rw [ih (a + 1) (by omega), Mem.read_writeLE_ne k b a x m (by omega)]

end Sys2Proof.Machine

namespace Sys2Proof.Machine

/-! ## Loads and stores of the own pool (R250, R251, R376, R429) -/

theorem szBytes_ne (z : Size) : szBytes z ≠ 16 := by cases z <;> decide

/-- An own-pool offset has 17 bits and is aligned. -/
theorem decodeOperand_own {s : State} {am : AMode} {sum : Word} {n : Nat} {d : Dec} (h : s.decodeOperand am sum n = .ok d)
    (hv : d.view = 0) : d.off < 2 ^ 17 ∧ n ∣ d.off := by
  have ha {m q x : Nat} (hx : x < 2 ^ 17) : (alignDec 0 m q x n).off < 2 ^ 17 ∧ n ∣ (alignDec 0 m q x n).off :=
    ⟨(Nat.sub_le _ _).trans_lt hx, Nat.dvd_sub_mod x⟩
  have h17 : sum.toNat % 2 ^ 17 < 2 ^ 17 := Nat.mod_lt _ (by norm_num)
  have h16 : sum.toNat % 2 ^ 16 < 2 ^ 17 := (Nat.mod_lt _ (by norm_num)).trans (by norm_num)
  unfold State.decodeOperand at h
  split at h
  · unfold geyserDecode at h
    cases am with
    | own => cases h; exact ha h16
    | blk => cases h
    | ilv => cases h
    | gen =>
      dsimp only at h
      split at h <;> cases h
      exact ha h16
  · unfold coreDecode at h
    cases am with
    | own => cases h; exact ha h17
    | blk => cases h; cases hv
    | ilv => cases h; cases hv
    | gen =>
      dsimp only at h
      (repeat' split at h) <;> cases h
      · exact ha h17
      · cases hv
      · cases hv
      · cases hv
      · cases hv

/-- The two words of an aligned 16-byte access do not share a byte. -/
theorem ownKey_hi (s : State) (fk : Nat) {off : Nat} (hlt : off < 2 ^ 17) (hal : 16 ∣ off) :
    ownKey s fk ((off + 8) % 2 ^ 17) = ownKey s fk off + 8 := by
  obtain ⟨j, rfl⟩ := hal
  unfold ownKey
  split
  · omega
  · simp only [poolKey, State.reduce, modulus]
    (repeat' split) <;> omega

theorem wordPlaces_own {s : State} {d : Dec} (hv : d.view = 0) (hlt : d.off < 2 ^ 17) {n : Nat} (hn : n ≠ 16) :
    s.wordPlaces d n = [(frameEnd s.cur.fk, d.off)] := by
  have hm : d.off % 131072 = d.off := Nat.mod_eq_of_lt hlt
  simp [State.wordPlaces, hv, hn, hm]

theorem wordPlaces_own_two {s : State} {d : Dec} (hv : d.view = 0) (hlt : d.off < 2 ^ 17) :
    s.wordPlaces d 16 = [(frameEnd s.cur.fk, d.off), (frameEnd s.cur.fk, (d.off + 8) % 2 ^ 17)] := by
  have hm : d.off % 131072 = d.off := Nat.mod_eq_of_lt hlt
  simp [State.wordPlaces, hv, hm]

@[simp] theorem ownMem_performed (s : State) (id fk : Nat) : ownMem (s.performed id) fk = ownMem s fk := rfl

theorem sameOthers_performed {fk : Nat} {s t : State} (h : SameOthers fk s t) (id : Nat) : SameOthers fk s (t.performed id) := h

/-- In the gap a delayed access changes no memory, and its words are zero. -/
theorem foldl_delayedWord_gap {x : Delayed} (hgap : x.gap = true) (l : List WordAcc) (r : State × List Word) :
    l.foldl (delayedWord x) r = (r.1, r.2 ++ List.replicate l.length 0) := by
  induction l generalizing r with
  | nil => simp
  | cons a l ih => rw [List.foldl_cons, ih, delayedWord_gap hgap]; simp [List.replicate_succ]

theorem performDelayed_gap {x : Delayed} (hgap : x.gap = true) (hdst : x.dst = none) (u : State) :
    u.performDelayed x = u.performed x.id := by
  unfold State.performDelayed
  rw [foldl_delayedWord_gap hgap, hdst]

theorem ownMem_wf {u : State} (hu : u.memWf = true) (fk : Nat) : (ownMem u fk).wf = true := by
  obtain ⟨hp, hgp, -, -⟩ := (State.memWf_iff u).1 hu
  unfold ownMem
  split
  · exact hgp
  · exact hp

theorem storesAt_ownDelayed {s : State} {d : Dec} {n : Nat} (hv : d.view = 0) (hlt : d.off < 2 ^ 17) (hn : n ≠ 16) (lo hi : Word) :
    StoresAt s (s.ownDelayed .store d n lo hi none) d.off n lo.toNat := by
  intro u hu
  by_cases hg : s.ownGap d.off = true
  · rw [if_pos hg, performDelayed_gap hg rfl]
    exact sameMemory_of_mems rfl
  · have hgf : s.ownGap d.off = false := by simpa using hg
    rw [if_neg hg]
    have he : u.performDelayed (s.ownDelayed .store d n lo hi none) =
        (u.setOwn s.cur.fk ((ownMem u s.cur.fk).writeLE (ownKey u s.cur.fk d.off) n lo.toNat)).performed s.nextId := by
      simp only [State.performDelayed, State.ownDelayed, wordPlaces_own hv hlt hn, wordAccs, List.foldl_cons, List.foldl_nil]
      rw [delayedWord_store rfl hgf]
    have hw := ownMem_wf hu s.cur.fk
    rw [he]
    refine ⟨?_, fun a ha => ?_, sameOthers_performed (sameOthers_setOwn u _ _) _⟩
    · rw [ownMem_performed, ownMem_setOwn, Mem.readLE_writeLE_self _ _ _ _ hw]
    · rw [ownMem_performed, ownMem_setOwn, Mem.read_writeLE_ne _ _ _ _ _ ha]

theorem sameRegsBut_wg (f : Frame) (r : Nat) (x : Word) : SameRegsBut [r] f (f.wg r x) := by
  obtain ⟨g, hg⟩ := f.wg_eq r x
  refine ⟨fun n _ hn => ?_, fun n _ _ => by simp [hg, Frame.rv], fun n _ _ => by simp [hg, Frame.rp]⟩
  rw [Frame.rg_wg, if_neg (List.ne_of_not_mem_cons hn)]
  by_cases h : n = 0 <;> simp [h, Frame.rg]

theorem sameRegsBut_wv (f : Frame) (r : Nat) (x : VWord) : SameRegsBut [64 + r] f (f.wv r x) := by
  refine ⟨fun n _ _ => rfl, fun n _ hn => ?_, fun n _ _ => rfl⟩
  rw [Frame.rv_wv, if_neg (fun h => List.ne_of_not_mem_cons hn (by rw [h]))]

/-- The word that a delayed load returns: zero in the gap, else the bytes of the own pool. -/
def State.loadedWord (s u : State) (gap off n : Nat) : Word :=
  if s.ownGap gap = true then 0 else natWord ((ownMem u s.cur.fk).readLE (ownKey u s.cur.fk off) n)

theorem delayedWord_loaded (s : State) (op : AccOp) (d : Dec) (m : Nat) (lo hi : Word) (dst : Option Nat) (r : State × List Word)
    (off n : Nat) (w e : Word) (p out : Nat) :
    delayedWord (s.ownDelayed op d m lo hi dst) r ⟨.load, off, n, w, e, p, out⟩ = (r.1, r.2 ++ [s.loadedWord r.1 d.off off n]) := by
  by_cases hg : s.ownGap d.off = true
  · rw [delayedWord_gap hg, State.loadedWord, if_pos hg]
  · have hgf : (s.ownDelayed op d m lo hi dst).gap = false := by simpa [State.ownDelayed] using hg
    rw [delayedWord_load (fk := s.cur.fk) rfl hgf, State.loadedWord, if_neg hg]

/-- A delayed load of one word writes its g register. -/
theorem loadsG_ownDelayed {s : State} {d : Dec} {n : Nat} (hv : d.view = 0) (hlt : d.off < 2 ^ 17) (hn : n ≠ 16) (lo hi : Word)
    (rt : BitVec 6) : LoadsG s (s.ownDelayed .load d n lo hi (some rt.toNat)) d.off n rt := by
  intro u
  have he : u.performDelayed (s.ownDelayed .load d n lo hi (some rt.toNat)) =
      (u.performed s.nextId).updFrame s.cur.fk (fun f => f.wg rt.toNat (s.loadedWord u d.off d.off n)) := by
    have ha : (s.ownDelayed .load d n lo hi (some rt.toNat)).accs = [⟨.load, d.off, n, lo, 0, 0, s.nextId⟩] := by
      simp only [State.ownDelayed, wordPlaces_own hv hlt hn, wordAccs]
    unfold State.performDelayed
    rw [ha, List.foldl_cons, List.foldl_nil, delayedWord_loaded]
    simp [State.ownDelayed, show rt.toNat < 64 from rt.isLt]
  rw [he]
  refine ⟨sameMemory_of_mems (by simp), ?_, ?_⟩ <;> rw [State.frame_updFrame, if_pos rfl]
  · exact sameRegsBut_wg _ _ _
  · rw [Frame.rg_wg, State.loadedWord]
    by_cases h0 : rt = 0
    · simp [h0]
    · have h0' : rt.toNat ≠ 0 := fun h => h0 (BitVec.eq_of_toNat_eq h)
      rw [if_neg h0', if_pos rfl]
      simp only [h0, false_or]

/-- A delayed load of two words writes its v register. -/
theorem loadsV_ownDelayed {s : State} {d : Dec} (hv : d.view = 0) (hlt : d.off < 2 ^ 17) (lo hi : Word) (vt : BitVec 5) :
    LoadsV s (s.ownDelayed .load d 16 lo hi (some (64 + vt.toNat))) d.off vt := by
  intro u
  have he : u.performDelayed (s.ownDelayed .load d 16 lo hi (some (64 + vt.toNat))) =
      (u.performed s.nextId).updFrame s.cur.fk (fun f =>
        f.wv vt.toNat (s.loadedWord u d.off ((d.off + 8) % 2 ^ 17) 8 ++ s.loadedWord u d.off d.off 8)) := by
    have ha : (s.ownDelayed .load d 16 lo hi (some (64 + vt.toNat))).accs =
        [⟨.load, d.off, 8, lo, 0, 0, s.nextId⟩, ⟨.load, (d.off + 8) % 2 ^ 17, 8, hi, 0, 1, s.nextId⟩] := by
      simp only [State.ownDelayed, wordPlaces_own_two hv hlt, wordAccs]
    unfold State.performDelayed
    rw [ha, List.foldl_cons, List.foldl_cons, List.foldl_nil, delayedWord_loaded, delayedWord_loaded]
    simp [State.ownDelayed]
  rw [he]
  refine ⟨sameMemory_of_mems (by simp), ?_, ?_⟩ <;> rw [State.frame_updFrame, if_pos rfl]
  · exact sameRegsBut_wv _ _ _
  · rw [Frame.rv_wv, if_pos rfl]
    unfold State.loadedWord
    split
    · rfl
    · rfl

/-- A delayed store of two words stores them at their two keys. -/
theorem performDelayed_store_two {s : State} {d : Dec} (hv : d.view = 0) (hlt : d.off < 2 ^ 17) (hg : s.ownGap d.off = false)
    (lo hi : Word) (u : State) :
    u.performDelayed (s.ownDelayed .store d 16 lo hi none) =
      (u.setOwn s.cur.fk (((ownMem u s.cur.fk).writeLE (ownKey u s.cur.fk d.off) 8 lo.toNat).writeLE
        (ownKey u s.cur.fk ((d.off + 8) % 2 ^ 17)) 8 hi.toNat)).performed s.nextId := by
  have ha : (s.ownDelayed .store d 16 lo hi none).accs =
      [⟨.store, d.off, 8, lo, 0, 0, s.nextId⟩, ⟨.store, (d.off + 8) % 2 ^ 17, 8, hi, 0, 1, s.nextId⟩] := by
    simp only [State.ownDelayed, wordPlaces_own_two hv hlt, wordAccs]
  unfold State.performDelayed
  rw [ha, List.foldl_cons, List.foldl_cons, List.foldl_nil, delayedWord_store (fk := s.cur.fk) rfl hg,
    delayedWord_store (fk := s.cur.fk) rfl hg, ownMem_setOwn, ownKey_setOwn, setOwn_setOwn]
  rfl

/-! ### Their issue -/

theorem plainAccess_own {s : State} {op : AccOp} {cls : AccClass} {am : AMode} {sum : Word} {n : Nat} {d : Dec}
    (he : s.decodeOperand am sum n = .ok d) (hv : d.view = 0) (hrx : s.cur.rx = false)
    (hst : s.accStalls .plain cls (s.placeBytes (s.wordPlaces d n) n) true = false) (herr : s.ownError op d n = none)
    (lo hi : Word) (dst : Option Nat) :
    plainAccess s op cls am sum n lo hi dst = .next (s.issueOwn op d n lo hi dst) := by
  have hown : s.isOwnPlain d = true := by simp [State.isOwnPlain, hv, hrx]
  unfold plainAccess
  simp [he, hown, hrx, hst, herr, State.heal]

theorem plainAccess_ecc {s : State} {op : AccOp} {cls : AccClass} {am : AMode} {sum : Word} {n key : Nat} {d : Dec}
    (he : s.decodeOperand am sum n = .ok d) (hv : d.view = 0) (hrx : s.cur.rx = false)
    (hst : s.accStalls .plain cls (s.placeBytes (s.wordPlaces d n) n) true = false) (herr : s.ownError op d n = some (key, true))
    (lo hi : Word) (dst : Option Nat) : plainAccess s op cls am sum n lo hi dst = .next (s.eccTrap key) := by
  have hown : s.isOwnPlain d = true := by simp [State.isOwnPlain, hv, hrx]
  unfold plainAccess
  simp [he, hown, hrx, hst, herr]

/-- A store reads neither its word nor its state, and meets no error. -/
theorem ownError_store (s : State) (d : Dec) (n : Nat) : s.ownError .store d n = none := by
  unfold State.ownError
  split
  · rfl
  · split
    · rfl
    · have hl (l : List (Nat × Nat)) : (l.map (fun p => accKeys .store
          (accWaits .store (s.isFull p.1 (s.reduce p.1 p.2))) p.1 (s.reduce p.1 p.2))).flatten = [] := by
        induction l with
        | nil => rfl
        | cons p l ih => simp [accKeys, accReadsWord, accReadsState]
      exact congrArg s.firstError (hl _)

theorem ownError_of_gap {s : State} {d : Dec} (hg : s.ownGap d.off = true) (op : AccOp) (n : Nat) : s.ownError op d n = none := by
  simp [State.ownError, hg]

theorem lowDword_toNat (v : VWord) : (v.extractLsb' 0 64).toNat % 2 ^ (8 * 8) = v.toNat % 2 ^ 64 := by
  rw [BitVec.extractLsb'_toNat, Nat.shiftRight_zero]
  omega

theorem highDword_toNat (v : VWord) : (v.extractLsb' 64 64).toNat % 2 ^ (8 * 8) = v.toNat / 2 ^ 64 := by
  have hv : v.toNat < 2 ^ 128 := v.isLt
  rw [BitVec.extractLsb'_toNat, Nat.shiftRight_eq_div_pow]
  omega

theorem keyOffset_lt (key : Nat) : keyOffset key < 2 ^ 56 := by
  unfold keyOffset
  split
  · omega
  · split <;> omega

theorem eccTrap_of_inPool (s : State) {key : Nat} (hk : keyInPool key = true) :
    s.eccTrap key = (s.lasting (keyEnd key) (s.frameTag s.cur.fk) (keyOffset key)).trap
      { cause := 0x12, eval := natWord (keyOffset key) } := by
  have hlt := keyOffset_lt key
  have hm : (natWord (keyOffset key)).toNat % 2 ^ 56 = keyOffset key := by
    rw [natWord, BitVec.toNat_ofNat]
    omega
  simp only [State.eccTrap, hk, if_true, hm]

/-- Settles O9. -/
theorem storesOwnPool : Obligations.StoresOwnPool := by
  unfold Obligations.StoresOwnPool
  refine ⟨fun s rt rb am sz off d he hv hrx hst => ?_, fun s vt rb am off d he hv hrx hst => ?_,
    fun s rt rb vt am sz off d hrx hv => ⟨fun he hst herr => ?_, fun he hst herr => ?_, fun key he hst herr hk => ?_⟩⟩
  · have hlt := (decodeOperand_own he hv).1
    exact ⟨_, _, plainAccess_own he hv hrx hst (ownError_store _ _ _) _ _ _, s.issueOwn_issues _ _ _ _ _ _,
      storesAt_ownDelayed hv hlt (szBytes_ne sz) _ _⟩
  · obtain ⟨hlt, hal⟩ := decodeOperand_own he hv
    refine ⟨_, _, plainAccess_own he hv hrx hst (ownError_store _ _ _) _ _ _, s.issueOwn_issues _ _ _ _ _ _, fun u hu => ?_⟩
    by_cases hg : s.ownGap d.off = true
    · rw [if_pos hg, performDelayed_gap hg rfl]
      exact sameMemory_of_mems rfl
    · rw [if_neg hg, performDelayed_store_two hv hlt (by simpa using hg)]
      intro lo hi
      have hw := ownMem_wf hu s.cur.fk
      have hhi : hi = lo + 8 := ownKey_hi u s.cur.fk hlt hal
      simp only [ownMem_performed, ownMem_setOwn]
      refine ⟨?_, ?_, fun a hlo hhi => ?_, sameOthers_performed (sameOthers_setOwn u _ _) _⟩
      · rw [Mem.readLE_writeLE_ne _ _ _ _ _ _ (Or.inl hhi.ge), Mem.readLE_writeLE_self _ _ _ _ hw]
        exact lowDword_toNat _
      · rw [Mem.readLE_writeLE_self _ _ _ _ (Mem.wf_writeLE _ _ _ _ hw)]
        exact highDword_toNat _
      · rw [Mem.read_writeLE_ne _ _ _ _ _ hhi, Mem.read_writeLE_ne _ _ _ _ _ hlo]
  · have hlt := (decodeOperand_own he hv).1
    have herr' : s.ownError .load d (szBytes sz) = none := herr.elim (fun hg => ownError_of_gap hg _ _) id
    refine ⟨_, _, plainAccess_own he hv hrx hst herr' _ _ _, s.issueOwn_issues _ _ _ _ _ _,
      loadsG_ownDelayed hv hlt (szBytes_ne sz) _ _ rt, fun h0 => ?_⟩
    have hrt : rt.toNat < 64 := rt.isLt
    exact s.issueOwn_ready _ _ _ _ _ (fun h => h0 (BitVec.eq_of_toNat_eq h)) (by omega)
  · have hlt := (decodeOperand_own he hv).1
    have herr' : s.ownError .load d 16 = none := herr.elim (fun hg => ownError_of_gap hg _ _) id
    have hvt : vt.toNat < 32 := vt.isLt
    exact ⟨_, _, plainAccess_own he hv hrx hst herr' _ _ _, s.issueOwn_issues _ _ _ _ _ _,
      loadsV_ownDelayed hv hlt _ _ vt, s.issueOwn_ready _ _ _ _ _ (by omega) (by omega)⟩
  · exact (plainAccess_ecc he hv hrx hst herr _ _ _).trans (congrArg _ (eccTrap_of_inPool s hk))

end Sys2Proof.Machine

namespace Sys2Proof.Machine

/-! ## Sending within the module (R146, R147) -/

/-- A packet to an endpoint of this module joins the list of packets, and DETMISS may be set in the task of its sender. -/
theorem State.send_eq (s : State) {dst : Nat} (hdst : dst < 2 ^ 23) (src vc : Nat) (tag : BitVec 10) (epoch : BitVec 6) (sender : Nat)
    (after : List Nat) (body : Body) :
    ∃ (p : Packet) (e : List Event) (fs : NMap Frame),
      s.send src dst vc tag epoch sender after body =
        { s with nextId := s.nextId + 1, net := s.net ++ [p], agenda := e, frames := fs } ∧
      p.src = src ∧ p.dst = dst ∧ p.tag = tag ∧ p.epoch = epoch ∧ p.sender = sender ∧ p.body = body ∧
      (fs = s.frames ∨ fs = s.frames.put sender ((s.frame sender).setSticky bitDetmiss)) := by
  have hlt : ¬ 2 ^ 23 ≤ dst := by omega
  unfold State.send
  dsimp only
  by_cases hd : ((s.endDet src tag && !s.scheduled src dst &&
      ((if bodyAnswers body then frameEnd sender == dst else frameEnd sender == src) && !noFlow src dst body)) = true)
  · rw [if_pos hd]
    cases after with
    | nil =>
      simp only [List.isEmpty_nil, if_true, State.dispatchPacket, hlt, if_false]
      exact ⟨_, _, _, rfl, rfl, rfl, rfl, rfl, rfl, rfl, .inr rfl⟩
    | cons a l => exact ⟨_, _, _, rfl, rfl, rfl, rfl, rfl, rfl, rfl, .inr rfl⟩
  · rw [if_neg hd]
    cases after with
    | nil =>
      simp only [List.isEmpty_nil, if_true, State.dispatchPacket, hlt, if_false]
      exact ⟨_, _, _, rfl, rfl, rfl, rfl, rfl, rfl, rfl, .inl rfl⟩
    | cons a l => exact ⟨_, _, _, rfl, rfl, rfl, rfl, rfl, rfl, rfl, .inl rfl⟩

/-- The outstanding results of a thread and their marks. -/
structure State.KeepsOuts (s t : State) : Prop extends s.Keeps t where
  outs : t.cf.outs = s.cf.outs
  pend : t.cf.pend = s.cf.pend

theorem State.KeepsOuts.refl (s : State) : s.KeepsOuts s := ⟨.refl s, rfl, rfl⟩

theorem State.KeepsOuts.trans {s t u : State} (h1 : s.KeepsOuts t) (h2 : t.KeepsOuts u) : s.KeepsOuts u :=
  ⟨h1.toKeeps.trans h2.toKeeps, h2.outs.trans h1.outs, h2.pend.trans h1.pend⟩

theorem State.keepsOuts_stickyIf (s : State) (c : Bool) (b : Nat) : s.KeepsOuts (s.stickyIf c b) := by
  refine ⟨s.keeps_stickyIf c b, ?_, ?_⟩ <;> rcases s.stickyIf_eq c b with h | h <;> simp [h, Frame.setSticky]

theorem State.keepsOuts_chargeAcc (s : State) (own : Bool) (places : List (Nat × Nat)) : s.KeepsOuts (s.chargeAcc own places) := by
  have h (cls n : Nat) : (s.charge s.cur.fk cls n).cf.outs = s.cf.outs ∧ (s.charge s.cur.fk cls n).cf.pend = s.cf.pend := by
    have hc : (s.charge s.cur.fk cls n).cf = _ := State.cf_upd s _
    obtain ⟨e, sat, r, he⟩ := s.cf.addEnergy_eq (n * weightOf (if isGeyserFrame s.cur.fk then
      (s.geyser (frameCore s.cur.fk)).ewt else (s.core (frameCore s.cur.fk)).ewt) cls)
    rw [hc]
    simp [he]
  refine ⟨s.keeps_chargeAcc own places, ?_, ?_⟩ <;> unfold State.chargeAcc <;> split
  · exact (h _ _).1
  · exact (h _ _).1
  · exact (h _ _).2
  · exact (h _ _).2

theorem State.keepsOuts_send (s : State) {dst : Nat} (hdst : dst < 2 ^ 23) (vc : Nat) (after : List Nat) (body : Body) :
    s.KeepsOuts (s.sendFrom s.cur.fk dst vc after body) ∧ ∃ p, (s.sendFrom s.cur.fk dst vc after body).net = s.net ++ [p] ∧
      p.src = frameEnd s.cur.fk ∧ p.dst = dst ∧ p.body = body := by
  obtain ⟨p, e, fs, he, hsrc, hd, -, -, -, hb, hfs⟩ :=
    s.send_eq hdst (frameEnd s.cur.fk) vc (s.frameTag s.cur.fk) (s.frameEpoch s.cur.fk) s.cur.fk after body
  unfold State.sendFrom
  rw [he]
  refine ⟨?_, p, rfl, hsrc, hd, hb⟩
  rcases hfs with rfl | rfl
  · exact ⟨State.keeps_of_eq rfl rfl rfl, rfl, rfl⟩
  · have hu : s.KeepsOuts (s.upd (fun f => f.setSticky bitDetmiss)) := s.keepsOuts_stickyIf true bitDetmiss
    exact hu.trans ⟨State.keeps_of_eq rfl rfl rfl, rfl, rfl⟩

/-- The words of an access are sent in order. -/
theorem foldl_sendWord (out : Nat) (after : List Nat) (xs : List ((Nat × Nat) × WordAcc)) (s : State)
    (hx : ∀ x ∈ xs, x.1.1 < 2 ^ 23) :
    s.KeepsOuts (xs.foldl (sendWord s.cur.fk out after) s) ∧
      ∃ ps : List Packet, (xs.foldl (sendWord s.cur.fk out after) s).net = s.net ++ ps ∧
        ps.map (fun p => (p.src, p.dst, p.body)) = xs.map (fun x => (frameEnd s.cur.fk, x.1.1, Body.access x.2)) := by
  induction xs generalizing s with
  | nil => exact ⟨.refl s, [], by simp, rfl⟩
  | cons x xs ih =>
    have hlt : ¬ 2 ^ 23 ≤ x.1.1 := by have := hx x List.mem_cons_self; omega
    have hstep : sendWord s.cur.fk out after s x = s.sendFrom s.cur.fk x.1.1 0 after (.access x.2) := by
      unfold sendWord
      exact if_neg (fun h => hlt (of_decide_eq_true (Bool.and_eq_true_iff.1 h).1))
    obtain ⟨hk, p, hn, hsrc, hd, hb⟩ := s.keepsOuts_send (hx x List.mem_cons_self) 0 after (.access x.2)
    have hcur := hk.cur
    rw [List.foldl_cons, hstep]
    generalize s.sendFrom s.cur.fk x.1.1 0 after (.access x.2) = t at hk hn hcur ⊢
    obtain ⟨hk', ps, hn', hps⟩ := ih t (fun y hy => hx y (List.mem_cons_of_mem _ hy))
    rw [hcur] at hk' hn' hps
    refine ⟨hk.trans hk', p :: ps, by rw [hn', hn]; simp, ?_⟩
    simp [hps, hsrc, hd, hb]

/-! ## Asynchronous accesses (R17, R250, R253, R254) -/

/-- The words of an access stand in this module. -/
theorem wordPlaces_lt {s : State} {d : Dec} (hfk : s.cur.fk < 2 ^ 20 + 4096) (hm : d.view = 0 ∨ d.module = s.module.toNat)
    (hq : d.view ≠ 0 → d.q < 1024) (n : Nat) : ∀ x ∈ s.wordPlaces d n, x.1 < 2 ^ 23 := by
  have hend : frameEnd s.cur.fk < 2 ^ 23 := by
    unfold frameEnd
    split <;> omega
  have hone (w : Nat) : ((d.route w).1) < 16 := by
    unfold Dec.route natBits
    dsimp only
    split <;> omega
  have hr0 := hone 0
  have hr1 := hone 1
  intro x hx
  by_cases hv : d.view = 0
  · simp only [State.wordPlaces, hv, if_true] at hx
    split at hx <;> simp only [List.mem_cons, List.not_mem_nil, or_false] at hx
    · rcases hx with rfl | rfl <;> exact hend
    · rw [hx]; exact hend
  · have hmod := hm.resolve_left hv
    have hq' := hq hv
    simp only [State.wordPlaces, hv, hmod, if_true, if_false] at hx
    split at hx <;> simp only [List.mem_cons, List.not_mem_nil, or_false] at hx
    · rcases hx with rfl | rfl <;> dsimp only <;> omega
    · rw [hx]; dsimp only; omega

/-- The state in which a remote access has its outstanding result, before its words are sent. -/
def State.outstanding (s : State) (kind : OutKind) (cls : AccClass) (d : Dec) (n : Nat) (dst : Option Nat) (acquire fe : Bool) : State :=
  let places := s.wordPlaces d n
  let r := ((s.stickyIf d.misal bitMisal).chargeAcc (d.view == 0) places).fresh
  let s1 := r.2.addOut { id := r.1, kind, cls, dst, need := places.length, bytes := s.placeBytes places n, fe }
  let s2 := { s1 with unperf := List.replicate places.length r.1 ++ s1.unperf }
  if acquire then s2.upd (fun f => { f with acquires := r.1 :: f.acquires }) else s2

/-- The accesses of a remote access as they travel: on a Geyser one in the gap of its own pool has no bytes. -/
def State.sentAccs (s : State) (op : AccOp) (d : Dec) (n : Nat) (lo hi expect : Word) : List ((Nat × Nat) × WordAcc) :=
  let accs := wordAccs op (s.wordPlaces d n) n lo hi expect s.nextId
  (s.wordPlaces d n).zip (if d.view == 0 && s.onGeyser && s.ownGap d.off then accs.map (fun a => { a with size := 0 }) else accs)

theorem State.issueRemote_eq (s : State) (op : AccOp) (kind : OutKind) (cls : AccClass) (d : Dec) (n : Nat)
    (lo hi expect : Word) (dst : Option Nat) (after : List Nat) (acquire fe : Bool) :
    s.issueRemote op kind cls d n lo hi expect dst after acquire fe =
      (s.sentAccs op d n lo hi expect).foldl (sendWord s.cur.fk s.nextId after) (s.outstanding kind cls d n dst acquire fe) := by
  have hid : ((s.stickyIf d.misal bitMisal).chargeAcc (d.view == 0) (s.wordPlaces d n)).nextId = s.nextId := by simp
  unfold State.issueRemote State.outstanding State.sentAccs
  simp only [State.fresh, hid]

theorem State.sentAccs_map (s : State) (op : AccOp) (d : Dec) (n : Nat) (lo hi expect : Word) (e : Nat) :
    (s.sentAccs op d n lo hi expect).map (fun x => (e, x.1.1, Body.access x.2)) =
      ((s.wordPlaces d n).zip (wordAccs op (s.wordPlaces d n) n lo hi expect s.nextId)).map (fun x => (e, x.1.1,
        Body.access (if d.view = 0 ∧ s.onGeyser = true ∧ s.ownGap d.off = true then { x.2 with size := 0 } else x.2))) := by
  unfold State.sentAccs
  by_cases hc : d.view = 0 ∧ s.onGeyser = true ∧ s.ownGap d.off = true
  · obtain ⟨hv, hg, ho⟩ := hc
    simp [hv, hg, ho, List.zip_map_right]
  · have hb : (d.view == 0 && s.onGeyser && s.ownGap d.off) = false := by
      rw [Bool.eq_false_iff]
      simpa [and_assoc] using hc
    simp [hb, hc]

/-- A frame with one more outstanding result. -/
theorem State.addOut_keeps (s : State) (o : Outst) (hd : o.dst ≠ some 128) :
    s.Keeps (s.addOut o) ∧ (s.addOut o).cf.outs = s.cf.outs ++ [o] ∧ (∀ k, o.dst = some k → k ≠ 0 → k ∈ (s.addOut o).cf.pend) := by
  have hcf : (s.addOut o).cf = _ := State.cf_upd s _
  cases ho : o.dst with
  | none =>
    rw [ho] at hcf
    refine ⟨s.keeps_upd _ ?_, by rw [hcf], fun k hk => by cases hk⟩
    simp [ho, Frame.Keeps, SameControl]
  | some k =>
    rw [ho] at hcf
    obtain ⟨r, hr⟩ := s.cf.setPend_eq k
    refine ⟨s.keeps_upd _ ?_, by rw [hcf], fun j hj h0 => ?_⟩
    · simp [ho, hr, Frame.Keeps, SameControl]
    · cases hj
      have h128 : k ≠ 128 := fun h => hd (by rw [ho, h])
      rw [hcf]
      simp [Frame.setPend, h0, h128]

/-- What stands in the thread's frame before the words are sent. -/
theorem State.outstanding_keeps (s : State) (kind : OutKind) (cls : AccClass) (d : Dec) (n : Nat) {dst : Option Nat}
    (hdst : dst ≠ some 128) (acquire fe : Bool) :
    let t := s.outstanding kind cls d n dst acquire fe
    s.Keeps t ∧ t.net = s.net ∧ (∀ k, dst = some k → k ≠ 0 → k ∈ t.cf.pend) ∧
      ∃ o, t.cf.outs = s.cf.outs ++ [o] ∧ o.id = s.nextId ∧ o.dst = dst ∧ o.need = (s.wordPlaces d n).length := by
  let s1 := (s.stickyIf d.misal bitMisal).chargeAcc (d.view == 0) (s.wordPlaces d n)
  let o : Outst := { id := s1.nextId, kind, cls, dst, need := (s.wordPlaces d n).length, bytes := s.placeBytes (s.wordPlaces d n) n, fe }
  let s2 := s1.fresh.2.addOut o
  let s3 : State := { s2 with unperf := List.replicate (s.wordPlaces d n).length s1.nextId ++ s2.unperf }
  have hk1 : s.KeepsOuts s1 := (s.keepsOuts_stickyIf _ _).trans (State.keepsOuts_chargeAcc _ _ _)
  have hid : s1.nextId = s.nextId := by simp [s1]
  have hnet : s1.net = s.net := by simp [s1]
  obtain ⟨hk2, houts, hpend⟩ := State.addOut_keeps s1.fresh.2 o hdst
  have hf : s1.Keeps s1.fresh.2 := State.keeps_of_eq rfl rfl rfl
  have hk3 : s.Keeps s3 := ((hk1.toKeeps.trans hf).trans hk2).trans (State.keeps_of_eq rfl rfl rfl)
  have ho3 : s3.cf.outs = s.cf.outs ++ [o] := houts.trans (congrArg (· ++ [o]) hk1.outs)
  have ht : s.outstanding kind cls d n dst acquire fe = if acquire then s3.upd (fun f => { f with acquires := s1.nextId :: f.acquires })
      else s3 := rfl
  intro t
  simp only [t, ht]
  cases acquire with
  | false => exact ⟨hk3, hnet, hpend, o, ho3, hid, rfl, rfl⟩
  | true =>
    have hcf := State.cf_upd s3 (fun f => { f with acquires := s1.nextId :: f.acquires })
    refine ⟨hk3.trans (s3.keeps_upd _ ?_), hnet, fun k hk h0 => ?_, o, ?_, hid, rfl, rfl⟩
    · simp [Frame.Keeps, SameControl]
    · simp only [if_true, hcf]; exact hpend k hk h0
    · simp only [if_true, hcf]; exact ho3

theorem State.issueRemote_sends (s : State) {op : AccOp} {kind : OutKind} {cls : AccClass} {d : Dec} {n : Nat}
    {lo hi expect : Word} {dst : Option Nat} {after : List Nat} {acquire fe : Bool} (hdst : dst ≠ some 128)
    (hpl : ∀ x ∈ s.wordPlaces d n, x.1 < 2 ^ 23) :
    SendsAccess s (s.issueRemote op kind cls d n lo hi expect dst after acquire fe) op d n lo hi expect dst := by
  obtain ⟨hk, hnet, hpend, o, houts, hid, hod, hneed⟩ := s.outstanding_keeps kind cls d n hdst acquire fe
  have hx : ∀ x ∈ s.sentAccs op d n lo hi expect, x.1.1 < 2 ^ 23 := fun x hx => hpl _ (List.of_mem_zip hx).1
  obtain ⟨hk', ps, hn', hps⟩ := foldl_sendWord s.nextId after _ (s.outstanding kind cls d n dst acquire fe) hx
  rw [hk.cur] at hk' hn' hps
  rw [State.issueRemote_eq]
  have hkeep := hk.trans hk'.toKeeps
  obtain ⟨-, -, -, hpc, hctl⟩ := hkeep.frame
  exact ⟨s.nextId, ps, o, hn'.trans (by rw [hnet]), hps.trans (s.sentAccs_map op d n lo hi expect _), hk'.outs.trans houts, hid, hod,
    hneed, fun k hk0 h0 => hk'.pend ▸ hpend k hk0 h0, hkeep.sameMemory, hkeep.frame.sameRegs _, hctl, hpc⟩

/-- A sticky bit set before is no part of what a remote access sends. -/
theorem SendsAccess.of_stickyIf {s t : State} {c : Bool} {b : Nat} {op : AccOp} {d : Dec} {n : Nat} {lo hi expect : Word}
    {dst : Option Nat} (h : SendsAccess (s.stickyIf c b) t op d n lo hi expect dst) : SendsAccess s t op d n lo hi expect dst := by
  have hk := s.keepsOuts_stickyIf c b
  have hp : (s.stickyIf c b).wordPlaces d n = s.wordPlaces d n ∧ (s.stickyIf c b).onGeyser = s.onGeyser ∧
      (s.stickyIf c b).ownGap d.off = s.ownGap d.off ∧ (s.stickyIf c b).net = s.net := by
    rcases s.stickyIf_eq c b with he | he <;> rw [he] <;> exact ⟨rfl, rfl, rfl, rfl⟩
  obtain ⟨hpl, hg, hgap, hnet⟩ := hp
  obtain ⟨id, ps, o, hn, hm, ho, hid, hod, hneed, hpend, hmem, hreg, hctl, hpc⟩ := h
  rw [hpl, hg, hgap, hk.cur] at hm
  obtain ⟨-, -, -, kpc, kctl⟩ := hk.frame
  refine ⟨id, ps, o, hnet ▸ hn, hm, hk.outs ▸ ho, hid, hod, hpl ▸ hneed, hpend, hmem.of_mems_left hk.mems, (hk.frame.sameRegs _).trans hreg,
    kctl.trans hctl, hpc.trans kpc⟩

/-! ### The operations -/

theorem plainAccess_remote {s : State} {op : AccOp} {cls : AccClass} {am : AMode} {sum : Word} {n : Nat} {d : Dec}
    (he : s.decodeOperand am sum n = .ok d) (hr : d.view ≠ 0 ∨ s.cur.rx = true)
    (hst : s.accStalls (if s.cur.rx then .rx else .plain) cls (s.placeBytes (s.wordPlaces d n) n) false = false)
    (herr : s.ownError op d n = none) (lo hi : Word) (dst : Option Nat) :
    plainAccess s op cls am sum n lo hi dst =
      .next (s.issueRemote op (if s.cur.rx then .rx else .plain) cls d n lo hi 0 dst [] false false) := by
  have hown : s.isOwnPlain d = false := by
    rcases hr with hv | hx
    · simp [State.isOwnPlain, hv]
    · simp [State.isOwnPlain, hx]
  unfold plainAccess
  simp [he, hown, hst, herr, State.heal]

theorem feAccess_remote {s : State} {op : AccOp} {am : AMode} {sum : Word} {n : Nat} {d : Dec} (hg : s.onGeyser = false)
    (he : s.decodeOperand am sum n = .ok d) (hv : d.view ≠ 0) (hsc : scopeTrap s (s.feScope d) = none)
    (hst : feStalls s op d n = false) (data : Word) (dst : Option (BitVec 6)) :
    feAccess s op am sum n data dst =
      .next ((s.clampScope (s.feScope d)).issueRemote op .plain (feClass op) d n data 0 0 (dst.map (·.toNat))
        (if op == .sts then s.accIds s.cur.fk else []) (op != .sts) true) := by
  have herr : s.ownError op d n = none := by simp [State.ownError, hv]
  unfold feAccess
  simp [feTrap, hg, he, hsc, herr, hst, hv]

theorem feset_remote {s : State} {op : AccOp} {am : AMode} {sum : Word} {n : Nat} {d : Dec} (hg : s.onGeyser = false)
    (he : s.decodeOperand am sum n = .ok d) :
    feset s op am sum n = plainAccess s op .store am sum n 0 0 none := by
  simp [feset, feTrap, hg, he]

theorem atomic_sends {s : State} {op : AccOp} {am : AMode} {sum : Word} {n : Nat} {d : Dec} {o : Ord}
    (hsc : scopeTrap s (ordScope o) = none) (he : s.decodeOperand am sum n = .ok d)
    (hst : s.accStalls (if s.cur.rx then .rx else .plain) .atomic (s.placeBytes (s.wordPlaces d n) n) false = false)
    (herr : s.ownError op d n = none) (data expect : Word) (rt : BitVec 6) :
    atomic s op am sum n data expect rt o =
      .next ((s.clampScope (ordScope o)).issueRemote op (if s.cur.rx then .rx else .plain) .atomic d n data 0 expect
        (some rt.toNat) (if o.rel then s.accIds s.cur.fk else []) o.acq false) := by
  unfold atomic
  simp [hsc, he, hst, herr, State.heal]

theorem gDst_ne (rt : BitVec 6) : some rt.toNat ≠ some 128 := by
  have : rt.toNat < 64 := rt.isLt
  simp only [ne_eq, Option.some.injEq]
  omega

theorem vDst_ne (vt : BitVec 5) : some (64 + vt.toNat) ≠ some 128 := by
  have : vt.toNat < 32 := vt.isLt
  simp only [ne_eq, Option.some.injEq]
  omega

/-- A remote access after its scope has been clamped. -/
theorem State.clampScope_sends (s : State) (sc : Nat) {op : AccOp} {kind : OutKind} {cls : AccClass} {d : Dec} {n : Nat}
    {lo hi expect : Word} {dst : Option Nat} {after : List Nat} {acquire fe : Bool} (hdst : dst ≠ some 128)
    (hpl : ∀ x ∈ s.wordPlaces d n, x.1 < 2 ^ 23) :
    SendsAccess s ((s.clampScope sc).issueRemote op kind cls d n lo hi expect dst after acquire fe) op d n lo hi expect dst := by
  have hp : (s.clampScope sc).wordPlaces d n = s.wordPlaces d n := by
    unfold State.clampScope
    rcases s.stickyIf_eq (s.scopeLimited sc) bitScopedem with he | he <;> rw [he]
    rfl
  exact SendsAccess.of_stickyIf (State.issueRemote_sends _ hdst (hp ▸ hpl))

/-- What a FENCE records, and for whom. -/
def fenceFrame (o : Ord) (ids : List Nat) (f : Frame) : Frame :=
  let g := if o.scope.toNat = 0 then f else { f with fenceEngine := ids ++ f.fenceEngine }
  if o.rel && !o.acq then { g with fenceStore := ids ++ g.fenceStore } else { g with fenceAll := ids ++ g.fenceAll }

theorem Frame.keeps_fenceFrame (o : Ord) (ids : List Nat) (f : Frame) : f.Keeps (fenceFrame o ids f) := by
  unfold fenceFrame
  (repeat' split) <;> simp [Frame.Keeps, SameControl]

theorem fenceFrame_engine (o : Ord) (ids : List Nat) (f : Frame) :
    (fenceFrame o ids f).fenceEngine = if o.scope.toNat = 0 then f.fenceEngine else ids ++ f.fenceEngine := by
  unfold fenceFrame
  (repeat' split) <;> rfl

/-- The accesses that later ones wait for after a FENCE. -/
def State.fenceIds (s : State) (o : Ord) : List Nat :=
  if o.acq && !o.rel then
    (((s.cf).outs.filter (fun x => x.cls == .load || x.cls == .atomic)).map (·.id)).filter (s.accIds s.cur.fk).contains
  else s.accIds s.cur.fk

theorem exec_fence {s : State} {o : Ord} (hsc : scopeTrap s o.scope.toNat = none) :
    exec (.fence o) s = .next ((s.clampScope o.scope.toNat).upd (fenceFrame o (s.fenceIds o))) := by
  show execFence o s = _
  unfold execFence
  rw [hsc]
  rfl

theorem State.clampScope_keeps (s : State) (n : Nat) : s.KeepsOuts (s.clampScope n) := s.keepsOuts_stickyIf _ _

/-- Settles O11. -/
theorem remoteAccesses : Obligations.RemoteAccesses := by
  unfold Obligations.RemoteAccesses
  refine ⟨fun s rt rb rc vt am sz off d hfk hm hq => ?_, fun s o hsc => ?_⟩
  · have hpl (n : Nat) := wordPlaces_lt hfk hm hq n
    refine ⟨fun he hr herr => ⟨fun hst => ?_, fun hst => ?_⟩, fun he hr herr => ⟨fun hst => ?_, fun hst => ?_⟩,
      fun hg he hv hsc => ⟨fun hst => ?_, fun hst => ?_, fun hst => ?_, fun hst => ⟨?_, ?_⟩⟩, fun dw op o off hsc he hst h1 h2 => ⟨?_, ?_⟩⟩
    · exact ⟨_, plainAccess_remote he hr hst herr _ _ _, s.issueRemote_sends (gDst_ne rt) (hpl _)⟩
    · exact ⟨_, plainAccess_remote he hr hst (ownError_store _ _ _) _ _ _, s.issueRemote_sends (by simp) (hpl _)⟩
    · exact ⟨_, plainAccess_remote he hr hst herr _ _ _, s.issueRemote_sends (vDst_ne vt) (hpl _)⟩
    · exact ⟨_, plainAccess_remote he hr hst (ownError_store _ _ _) _ _ _, s.issueRemote_sends (by simp) (hpl _)⟩
    · exact ⟨_, feAccess_remote hg he hv hsc hst _ _, s.clampScope_sends _ (gDst_ne rt) (hpl _)⟩
    · exact ⟨_, feAccess_remote hg he hv hsc hst _ _, s.clampScope_sends _ (gDst_ne rt) (hpl _)⟩
    · exact ⟨_, feAccess_remote hg he hv hsc hst _ _, s.clampScope_sends _ (by simp) (hpl _)⟩
    · have herr : s.ownError .fesetFull d (szBytes sz) = none := by simp [State.ownError, hv]
      exact ⟨_, (feset_remote hg he).trans (plainAccess_remote he (.inl hv) hst herr _ _ _), s.issueRemote_sends (by simp) (hpl _)⟩
    · have herr : s.ownError .fesetEmpty d (szBytes sz) = none := by simp [State.ownError, hv]
      exact ⟨_, (feset_remote hg he).trans (plainAccess_remote he (.inl hv) hst herr _ _ _), s.issueRemote_sends (by simp) (hpl _)⟩
    · exact ⟨_, atomic_sends hsc he hst h1 _ _ _, s.clampScope_sends _ (gDst_ne rt) (hpl _)⟩
    · exact ⟨_, atomic_sends hsc he hst h2 _ _ _, s.clampScope_sends _ (gDst_ne rt) (hpl _)⟩
  · have hk := s.clampScope_keeps o.scope.toNat
    generalize hu : s.clampScope o.scope.toNat = u at hk
    have hcf : (u.upd (fenceFrame o (s.fenceIds o))).cf = fenceFrame o (s.fenceIds o) u.cf := State.cf_upd _ _
    have hk2 : s.Keeps (u.upd (fenceFrame o (s.fenceIds o))) := hk.toKeeps.trans (u.keeps_upd _ (Frame.keeps_fenceFrame _ _ _))
    have hun : SameUnits s u := hu ▸ sameUnits_stickyIf s _ _
    refine ⟨_, (exec_fence hsc).trans (by rw [hu]), hk2.sameMemory, hun.trans hk.cur (sameUnits_upd u _), hk2.frame.sameRegs _, ?_⟩
    obtain ⟨-, -, -, hpc, hctl⟩ := hk2.frame
    refine ⟨hctl, hpc, ?_⟩
    have hen : u.cf.fenceEngine = s.cf.fenceEngine ∧ u.unperf = s.unperf := by
      rw [← hu]
      unfold State.clampScope
      rcases s.stickyIf_eq (s.scopeLimited o.scope.toNat) bitScopedem with he | he <;> rw [he] <;>
        simp [Frame.setSticky]
    obtain ⟨hen, hunp⟩ := hen
    have hun' : (u.upd (fenceFrame o (s.fenceIds o))).unperf = s.unperf := hunp
    have hids (h : o.rel = true ∨ o.acq = false) : s.fenceIds o = s.accIds s.cur.fk := by
      rcases h with h | h <;> simp [State.fenceIds, h]
    unfold State.engineAfter
    rw [hcf, hun']
    refine ⟨fun har a ha => ?_, fun hacq hrel a ha => ?_, fun hacq hrel x hx hcls hid => ?_, fun h0 => ?_, fun h0 har a ha => ?_⟩
    · have hi := hids (by cases hr : o.rel <;> simp [har, hr])
      simp [fenceFrame, har, hi, ha]
    · simp [fenceFrame, hacq, hrel, hids (.inl hrel), ha]
    · have hmem : x.id ∈ s.fenceIds o := by
        simp only [State.fenceIds, hacq, hrel, Bool.not_false, Bool.and_true, if_true, List.mem_filter, List.mem_map]
        refine ⟨⟨x, ⟨hx, ?_⟩, rfl⟩, by simpa using hid⟩
        rcases hcls with h | h <;> simp [h]
      simp [fenceFrame, hacq, hrel, hmem]
    · simp [fenceFrame_engine, h0, hen]
    · have hne : o.scope.toNat ≠ 0 := fun h => h0 (BitVec.eq_of_toNat_eq h)
      have hunperf : s.unperf.contains a = true := (List.mem_filter.1 ha).2
      rw [fenceFrame_engine, if_neg hne, hids har]
      exact List.mem_filter.2 ⟨List.mem_append_left _ ha, hunperf⟩

end Sys2Proof.Machine

namespace Sys2Proof.Machine

/-! ## What the answer to an access leaves (R135, R147) -/

/-- Cores, slots and errors are as before, and so is what every thread waits for. -/
structure State.SameWaits (s t : State) : Prop where
  cores : t.cores = s.cores
  slots : t.slots = s.slots
  bad : t.bad = s.bad
  cur : t.cur = s.cur
  waits : ∀ j, (t.frame j).waits = (s.frame j).waits

theorem State.SameWaits.refl (s : State) : s.SameWaits s := ⟨rfl, rfl, rfl, rfl, fun _ => rfl⟩

theorem State.SameWaits.trans {s t u : State} (h1 : s.SameWaits t) (h2 : t.SameWaits u) : s.SameWaits u :=
  ⟨h2.cores.trans h1.cores, h2.slots.trans h1.slots, h2.bad.trans h1.bad, h2.cur.trans h1.cur,
    fun j => (h2.waits j).trans (h1.waits j)⟩

theorem State.sameWaits_of_frames {s t : State} (hf : t.frames = s.frames) (hc : t.cores = s.cores) (hs : t.slots = s.slots)
    (hb : t.bad = s.bad) (hcur : t.cur = s.cur) : s.SameWaits t :=
  ⟨hc, hs, hb, hcur, fun j => by simp [State.frame, hf]⟩

/-- Also memories, wait queues and the hub are as before. -/
structure State.SameWords (s t : State) : Prop extends s.SameWaits t where
  mems : t.mems = s.mems
  waitq : t.waitq = s.waitq
  hub : t.hub = s.hub

theorem State.SameWords.trans {s t u : State} (h1 : s.SameWords t) (h2 : t.SameWords u) : s.SameWords u :=
  ⟨h1.toSameWaits.trans h2.toSameWaits, h2.mems.trans h1.mems, h2.waitq.trans h1.waitq, h2.hub.trans h1.hub⟩

theorem State.performedFor_eq (s : State) {src : Nat} (h : src < 2 ^ 23) (id : Nat) :
    s.performedFor src id = { s with unperf := s.unperf.erase id } := if_pos h

theorem State.sameWords_performed (s : State) (id : Nat) : s.SameWords { s with unperf := s.unperf.erase id } :=
  ⟨State.sameWaits_of_frames rfl rfl rfl rfl rfl, rfl, rfl, rfl⟩

/-- An answer is one packet to the endpoint that asked. -/
theorem State.respond_sent (s : State) (me : Nat) {src : Nat} (hsrc : src < 2 ^ 23) (sender : Nat) (tag : BitVec 10) (epoch : BitVec 6)
    (out part : Nat) (data : Word) (oor xpart retry parked ecc : Bool) (a : WordAcc) :
    let t := s.respond me src sender tag epoch out part data oor xpart retry parked ecc a
    s.SameWords t ∧ ∃ p, t.net = s.net ++ [p] ∧ p.dst = src ∧ p.body = .response out part data oor xpart retry parked ecc a := by
  obtain ⟨p, e, fs, he, -, hd, -, -, -, hb, hfs⟩ := s.send_eq hsrc me 1 tag epoch sender [] (.response out part data oor xpart retry parked ecc a)
  intro t
  have ht : t = { s with nextId := s.nextId + 1, net := s.net ++ [p], agenda := e, frames := fs } := he
  rw [ht]
  refine ⟨⟨?_, rfl, rfl, rfl⟩, p, rfl, hd, hb⟩
  rcases hfs with rfl | rfl
  · exact State.sameWaits_of_frames rfl rfl rfl rfl rfl
  · refine ⟨rfl, rfl, rfl, rfl, fun j => ?_⟩
    have hj : ((s.updFrame sender (fun f => f.setSticky bitDetmiss)).frame j).waits = (s.frame j).waits := by
      rw [State.frame_updFrame]
      split
      · rename_i h; rw [h]; rfl
      · rfl
    exact hj

/-! ## Words and their state (R49 to R52) -/

theorem State.reduce_of_cores {s t : State} (h : t.cores = s.cores) (k off : Nat) : t.reduce k off = s.reduce k off := by
  simp [State.reduce, State.poolS, State.core, h]

theorem State.isFull_setFull (s : State) {k o off : Nat} (h : wordKey k o = wordKey k off) (b : Bool) :
    (s.setFull k o b).isFull k off = b := by
  cases b <;> simp [State.isFull, State.setFull, h, NMap.get?_put, NMap.get?_del]

theorem State.bankAccess_sameWaits (s : State) (k : Nat) (a : WordAcc) : s.SameWaits (s.bankAccess k a).1 := by
  unfold State.bankAccess
  dsimp only
  split <;> split <;> exact State.sameWaits_of_frames rfl rfl rfl rfl rfl

theorem State.bankAccess_waitq (s : State) (k : Nat) (a : WordAcc) :
    (s.bankAccess k a).1.waitq = s.waitq ∧ (s.bankAccess k a).1.net = s.net ∧ (s.bankAccess k a).1.hub = s.hub := by
  unfold State.bankAccess
  dsimp only
  split <;> split <;> exact ⟨rfl, rfl, rfl⟩

/-- Without a stored error no access meets one. -/
theorem State.firstError_of_bad {s : State} (h : s.bad = []) (keys : List Nat) : s.firstError keys = none := by
  have he (k : Nat) : s.errorAt k = none := by simp [State.errorAt, h, NMap.get?]
  simp [State.firstError, he]

theorem serveWalk_congr {s t : State} (h : t.cores = s.cores) (k : Nat) (m : Mem) (full : Bool) (ws : List Waiter) :
    serveWalk t k m full ws = serveWalk s k m full ws := by
  induction ws generalizing m full with
  | nil => rfl
  | cons w ws ih => cases ho : w.op <;> cases full <;> simp [serveWalk, ho, ih, State.reduce_of_cores h]

/-- The walk stops at an operation that the word's state does not allow. -/
theorem serveWalk_of_waits {s : State} {k : Nat} {m : Mem} {full : Bool} {w : Waiter} {ws : List Waiter}
    (hw : accWaits w.op full = true) : serveWalk s k m full (w :: ws) = ([], w :: ws, m, full) := by
  cases ho : w.op <;> cases full <;> simp [accWaits, ho] at hw <;> simp [serveWalk, ho]

/-- The walk performs an operation that the state allows as the bank does. -/
theorem serveWalk_of_goes {s : State} {k off : Nat} {w : Waiter} {ws : List Waiter} (hop : w.op = .lds ∨ w.op = .ldsp ∨ w.op = .sts)
    (hkey : wordKey k (s.reduce k w.off) = wordKey k off) (hw : accWaits w.op (s.isFull k off) = false) :
    let b := s.bankAccess k ⟨w.op, w.off, w.size, w.data, 0, 0, 0⟩
    serveWalk s k s.pool (s.isFull k off) (w :: ws) =
      ((w, b.2) :: (serveWalk s k b.1.pool (b.1.isFull k off) ws).1, (serveWalk s k b.1.pool (b.1.isFull k off) ws).2) := by
  rcases hop with ho | ho | ho <;> simp only [ho, accWaits, Bool.not_eq_false'] at hw <;>
    simp [serveWalk, ho, hw, State.bankAccess, accEffect, State.poolRead, State.isFull_setFull _ hkey]
  · exact ⟨rfl, rfl⟩
  · exact ⟨rfl, rfl⟩

/-- The head of a queue that the state allows is performed at the bank, answered, and leaves the queue. -/
def State.served (s : State) (k off : Nat) (w : Waiter) (ws : List Waiter) : State :=
  let b := s.bankAccess k ⟨w.op, w.off, w.size, w.data, 0, 0, 0⟩
  (b.1.setWaiters (wordKey k off) ws).answerWaiter k w b.2

theorem State.feServe_of_waits {s : State} {k off n : Nat} {w : Waiter} {ws : List Waiter}
    (hq : s.waitq.getD (wordKey k off) [] = w :: ws) (hw : accWaits w.op (s.isFull k off) = true) :
    s.feServe k off (n + 1) = s := by
  simp [State.feServe, hq, hw]

theorem State.feServe_of_goes {s : State} {k off n : Nat} {w : Waiter} {ws : List Waiter} (hb : s.bad = [])
    (hq : s.waitq.getD (wordKey k off) [] = w :: ws) (hw : accWaits w.op (s.isFull k off) = false) :
    s.feServe k off (n + 1) = (s.served k off w ws).feServe k off n := by
  have he : s.accError w.op k off = none := State.firstError_of_bad hb _
  simp [State.feServe, hq, hw, he, State.healAt, State.served]

theorem State.setWaiters_getD (s : State) (key j : Nat) (ws : List Waiter) :
    (s.setWaiters key ws).waitq.getD j [] = if j = key then ws else s.waitq.getD j [] := by
  unfold State.setWaiters
  cases ws with
  | nil => simp only [List.isEmpty_nil, if_true, NMap.getD, NMap.get?_del]; split <;> rfl
  | cons w ws => simp [NMap.getD_put]

theorem State.setWaiters_sameWaits (s : State) (key : Nat) (ws : List Waiter) : s.SameWaits (s.setWaiters key ws) :=
  State.sameWaits_of_frames rfl rfl rfl rfl rfl

theorem State.answerWaiter_remote (s : State) (k : Nat) {w : Waiter} {src sender : Nat} {tag : BitVec 10} {epoch : BitVec 6}
    {out part : Nat} (hw : w.who = .remote src sender tag epoch out part) (v : Word) :
    s.answerWaiter k w v = (s.performedFor src w.id).respond k src sender tag epoch out part v false false false false false default := by
  unfold State.answerWaiter
  rw [hw]

/-- A remote waiter that is served is answered with its value. -/
theorem State.served_remote {s : State} {k off : Nat} {w : Waiter} {ws : List Waiter} {src sender : Nat} {tag : BitVec 10}
    {epoch : BitVec 6} {out part : Nat} (hw : w.who = .remote src sender tag epoch out part) (hsrc : src < 2 ^ 23) :
    let b := s.bankAccess k ⟨w.op, w.off, w.size, w.data, 0, 0, 0⟩
    let t := s.served k off w ws
    s.SameWaits t ∧ t.mems = b.1.mems ∧ (∀ j, t.waitq.getD j [] = if j = wordKey k off then ws else s.waitq.getD j []) ∧
      ∃ p, t.net = s.net ++ [p] ∧ p.dst = src ∧ p.body = .response out part b.2 false false false false false default := by
  intro b t
  obtain ⟨hwq, hnet, -⟩ := s.bankAccess_waitq k ⟨w.op, w.off, w.size, w.data, 0, 0, 0⟩
  let u := b.1.setWaiters (wordKey k off) ws
  have ht : t = { u with unperf := u.unperf.erase w.id }.respond k src sender tag epoch out part b.2 false false false false false
      default := by
    rw [← State.performedFor_eq u hsrc]
    exact u.answerWaiter_remote k hw b.2
  obtain ⟨hs, p, hn, hd, hb⟩ := State.respond_sent { u with unperf := u.unperf.erase w.id } k hsrc sender tag epoch out part b.2 false
    false false false false default
  rw [← ht] at hs hn
  have hu : s.SameWaits u := (s.bankAccess_sameWaits k _).trans (State.setWaiters_sameWaits _ _ _)
  refine ⟨hu.trans ((State.sameWords_performed u w.id).toSameWaits.trans hs.toSameWaits), hs.mems, fun j => ?_, p, ?_, hd, hb⟩
  · rw [hs.waitq]
    exact (b.1.setWaiters_getD _ j ws).trans (by rw [hwq])
  · rw [hn]
    exact congrArg (· ++ [p]) hnet

theorem RemoteWaiters.congr {s t : State} {k off : Nat} {ws : List Waiter} (h : RemoteWaiters s k off ws) (hc : t.cores = s.cores) :
    RemoteWaiters t k off ws := by
  intro w hw
  obtain ⟨hop, hkey, hwho⟩ := h w hw
  exact ⟨hop, by rw [State.reduce_of_cores hc, hkey], hwho⟩

theorem State.isFull_of_mems {s t : State} (h : t.mems = s.mems) (k off : Nat) : t.isFull k off = s.isFull k off := by
  obtain ⟨-, -, -, -, hf⟩ := Mems.mk.inj h
  simp [State.isFull, hf]

/-- FE_SERVE with room for all waiters serves the queue of a word as the walk says (R52). -/
theorem State.feServe_serves (n : Nat) (s : State) (k off : Nat) (hb : s.bad = [])
    (hlen : (s.waitq.getD (wordKey k off) []).length ≤ n) (hr : RemoteWaiters s k off (s.waitq.getD (wordKey k off) [])) :
    Serves s (s.feServe k off n) k off ∧ s.SameWaits (s.feServe k off n) := by
  induction n generalizing s with
  | zero =>
    have hq : s.waitq.getD (wordKey k off) [] = [] := List.eq_nil_of_length_eq_zero (Nat.le_zero.1 hlen)
    refine ⟨?_, .refl s⟩
    simp [Serves, hq, serveWalk, State.feServe]
  | succ n ih =>
    cases hq : s.waitq.getD (wordKey k off) [] with
    | nil =>
      have hf : s.feServe k off (n + 1) = s := by simp [State.feServe, hq]
      rw [hf]
      refine ⟨?_, .refl s⟩
      simp [Serves, hq, serveWalk]
    | cons w ws =>
      rw [hq] at hr hlen
      obtain ⟨hop, hkey, src, sender, tag, epoch, out, part, hwho, hsrc⟩ := hr w List.mem_cons_self
      cases hw : accWaits w.op (s.isFull k off) with
      | true =>
        rw [State.feServe_of_waits hq hw]
        refine ⟨?_, .refl s⟩
        simp [Serves, hq, serveWalk_of_waits hw]
      | false =>
        obtain ⟨hsw, hm, hwq, p, hn, hd, hbody⟩ := s.served_remote (k := k) (off := off) (ws := ws) hwho hsrc
        rw [State.feServe_of_goes hb hq hw]
        generalize s.served k off w ws = t at hsw hm hwq hn ⊢
        have htq : t.waitq.getD (wordKey k off) [] = ws := by rw [hwq, if_pos rfl]
        obtain ⟨hs, hsw2⟩ := ih t (hsw.bad.trans hb) (by rw [htq]; exact Nat.le_of_succ_le_succ hlen)
          (by rw [htq]; exact RemoteWaiters.congr (fun v hv => hr v (List.mem_cons_of_mem _ hv)) hsw.cores)
        refine ⟨?_, hsw.trans hsw2⟩
        have hwalk := serveWalk_of_goes (ws := ws) hop hkey hw
        have hpool : t.pool = (s.bankAccess k ⟨w.op, w.off, w.size, w.data, 0, 0, 0⟩).1.pool := (Mems.mk.inj hm).1
        simp only [Serves, htq, hpool, State.isFull_of_mems hm, serveWalk_congr hsw.cores] at hs
        obtain ⟨h1, h2, h3, h4, ps, h5, h6, h7⟩ := hs
        simp only [Serves, hq, hwalk]
        refine ⟨h1, h2, h3, fun j hj => (h4 j hj).trans (by rw [hwq, if_neg hj]), p :: ps, by rw [h5, hn]; simp, by simp [h6], ?_⟩
        intro i hi src' sender' tag' epoch' out' part' hwho'
        cases i with
        | zero =>
          rw [List.getD_cons_zero, hwho] at hwho'
          cases hwho'
          exact ⟨hd, hbody⟩
        | succ i => exact h7 i (Nat.lt_of_succ_lt_succ hi) _ _ _ _ _ _ hwho'

theorem State.serve_serves {s : State} {k off : Nat} (hb : s.bad = [])
    (hr : RemoteWaiters s k off (s.waitq.getD (wordKey k off) [])) :
    Serves s (s.serve k off) k off ∧ s.SameWaits (s.serve k off) := s.feServe_serves _ k off hb le_rfl hr

end Sys2Proof.Machine

namespace Sys2Proof.Machine

/-! ## A word access at its core (R25, R26, R54, R135, R383, R429) -/

theorem exec_portEngineMessage {s : State} {p : Packet} (h : Arrives s p) :
    exec (.portEngineMessage p.id) s = .next ((s.dropPacket p.id).takeAccess p) := by
  obtain ⟨hp, harr, hscr, hpre⟩ := h
  have hpark : (decide (p.dst < 2 ^ 20) && (s.core p.dst).preempted && (s.core p.dst).tag == p.tag) = false := by
    by_cases hd : p.dst < 2 ^ 20
    · simp [hpre hd]
    · simp only [hd, decide_false, Bool.false_and]
  show execPortEngineMessage p.id s = _
  unfold execPortEngineMessage arrive
  simp only [hp, harr, hscr, hpark]
  rfl

theorem takeAccess_core {s : State} {p : Packet} {a : WordAcc} (hbody : p.body = .access a) (hpart : a.part < 2)
    (hdst : p.dst < 2 ^ 14) (hend : s.coreOf p.dst p.tag p.epoch = true) : s.takeAccess p = s.takeCoreAccess p a := by
  have hlt : p.dst < 2 ^ 20 := by omega
  have hge : ¬ 2 ^ 20 ≤ p.dst := by omega
  have hpt : ¬ 2 ≤ a.part := by omega
  have he : s.endOf p.dst p.tag p.epoch = true := by rw [State.endOf, if_pos hlt, hend]
  unfold State.takeAccess
  rw [hbody]
  simp only [he, Bool.not_true, Bool.false_eq_true, if_neg hpt, if_neg hge, if_false]

theorem takeAccess_refused {s : State} {p : Packet} {a : WordAcc} (hbody : p.body = .access a) (hpart : a.part < 2)
    (hend : s.endOf p.dst p.tag p.epoch = false) :
    s.takeAccess p = ((s.refuse p.dst p.tag).performedFor p.src a.out).accAnswer p a 0 false true false false false := by
  have hpt : ¬ 2 ≤ a.part := by omega
  unfold State.takeAccess
  rw [hbody]
  simp only [hend, Bool.not_false, if_neg hpt, if_true]

/-- The answer to an access that its core performs or refuses. -/
theorem State.accAnswer_sent (s : State) {p : Packet} (hsrc : p.src < 2 ^ 23) (a : WordAcc) (data : Word)
    (oor xpart retry parked ecc : Bool) :
    let t := (s.performedFor p.src a.out).accAnswer p a data oor xpart retry parked ecc
    s.SameWords t ∧ ∃ r : Packet, t.net = s.net ++ [r] ∧ r.dst = p.src ∧
      r.body = .response a.out a.part data oor xpart retry parked ecc a := by
  intro t
  obtain ⟨hs, r, hn, hd, hb⟩ := State.respond_sent (s.performedFor p.src a.out) p.dst hsrc p.sender p.tag p.epoch a.out a.part data
    oor xpart retry parked ecc a
  have hp : s.SameWords (s.performedFor p.src a.out) := s.performedFor_eq hsrc a.out ▸ s.sameWords_performed a.out
  have hnet : (s.performedFor p.src a.out).net = s.net := by rw [s.performedFor_eq hsrc]
  exact ⟨hp.trans hs, r, hn.trans (by rw [hnet]), hd, hb⟩

theorem State.SameWords.pool_full {s t : State} (h : s.SameWords t) : t.pool = s.pool ∧ t.full = s.full := by
  obtain ⟨hp, -, -, -, hf⟩ := Mems.mk.inj h.mems
  exact ⟨hp, hf⟩

theorem State.lasting_net (s : State) (e : Nat) (tag : BitVec 10) (va : Nat) :
    (s.lasting e tag va).net = s.net ∧ (s.lasting e tag va).pool = s.pool ∧ (s.lasting e tag va).full = s.full := by
  simp [State.lasting, State.trapMsg, State.fresh]

/-- A bank access that nobody waits behind. -/
theorem State.bankServe_of_nil {s : State} {k : Nat} {a : WordAcc} (hq : s.waitq.getD (wordKey k (s.reduce k a.off)) [] = []) :
    s.bankServe k a = s.bankAccess k a := by
  have hq' : (s.bankAccess k a).1.waitq.getD (wordKey k (s.reduce k a.off)) [] = [] := by rw [(s.bankAccess_waitq k a).1, hq]
  have hs : (s.bankAccess k a).1.serve k (s.reduce k a.off) = (s.bankAccess k a).1 := by simp [State.serve, hq', State.feServe]
  unfold State.bankServe
  dsimp only
  split <;> simp [hs]

/-- What the bank does depends on the cores and the memories alone. -/
theorem State.bankAccess_congr {s t : State} (hc : t.cores = s.cores) (hm : t.mems = s.mems) (k : Nat) (a : WordAcc) :
    (t.bankAccess k a).1.mems = (s.bankAccess k a).1.mems ∧ (t.bankAccess k a).2 = (s.bankAccess k a).2 := by
  have hr := State.reduce_of_cores hc k a.off
  obtain ⟨hp, hg, hd, hh, hf⟩ := Mems.mk.inj hm
  have he : accEffect a (t.poolRead k (t.reduce k a.off) a.size) = accEffect a (s.poolRead k (s.reduce k a.off) a.size) := by
    simp [State.poolRead, hr, hp]
  unfold State.bankAccess
  dsimp only
  rw [he, hr]
  generalize accEffect a (s.poolRead k (s.reduce k a.off) a.size) = e
  obtain ⟨x, v, b⟩ := e
  constructor
  · cases x <;> cases b <;> exact Mems.mk.injEq .. ▸ ⟨by simp [State.poolWrite, State.setFull, hp], hg, hd, hh, by simp [State.poolWrite, State.setFull, hf]⟩
  · cases x <;> cases b <;> rfl

theorem takeCoreAccess_gap {s : State} {p : Packet} {a : WordAcc} (hg : s.inGap p.dst a.off = true) :
    s.takeCoreAccess p a = (s.performedFor p.src a.out).accAnswer p a 0 true false false false false := by
  simp [State.takeCoreAccess, hg]

theorem takeCoreAccess_lasting {s : State} {p : Packet} {a : WordAcc} {key : Nat} (hg : s.inGap p.dst a.off = false)
    (he : s.accError a.op p.dst (s.reduce p.dst a.off) = some (key, true)) :
    s.takeCoreAccess p a = ((s.lasting p.dst p.tag (s.reduce p.dst a.off)).performedFor p.src a.out).accAnswer p a
      (natWord (s.reduce p.dst a.off)) false false false false true := by
  simp [State.takeCoreAccess, hg, he]

theorem takeCoreAccess_sound {s : State} {p : Packet} {a : WordAcc} (hg : s.inGap p.dst a.off = false)
    (he : s.accError a.op p.dst (s.reduce p.dst a.off) = none) : s.takeCoreAccess p a = s.takeBank p a := by
  simp [State.takeCoreAccess, hg, he]

theorem takeBank_goes {s : State} {p : Packet} {a : WordAcc} (hw : accWaits a.op (s.isFull p.dst (s.reduce p.dst a.off)) = false) :
    s.takeBank p a = ((s.bankServe p.dst a).1.performedFor p.src a.out).accAnswer p a (s.bankServe p.dst a).2 false false false false
      false := by
  simp [State.takeBank, hw]

theorem takeBank_waits {s : State} {p : Packet} {a : WordAcc} (hw : accWaits a.op (s.isFull p.dst (s.reduce p.dst a.off)) = true)
    (hn : s.deferredCount p.dst < 16) :
    s.takeBank p a = s.enqueueWaiter p.dst (s.reduce p.dst a.off)
      ⟨.remote p.src p.sender p.tag p.epoch a.out a.part, a.op, a.off, a.size, a.data, a.out⟩ := by
  simp [State.takeBank, hw, Nat.not_le.2 hn]

theorem takeBank_retry {s : State} {p : Packet} {a : WordAcc} (hw : accWaits a.op (s.isFull p.dst (s.reduce p.dst a.off)) = true)
    (hn : 16 ≤ s.deferredCount p.dst) : s.takeBank p a = s.accAnswer p a 0 false false true false false := by
  simp [State.takeBank, hw, hn]

theorem takeBank_goes_of_nil {s : State} {p : Packet} {a : WordAcc} (hsrc : p.src < 2 ^ 23)
    (hq : s.waitq.getD (wordKey p.dst (s.reduce p.dst a.off)) [] = [])
    (hw : accWaits a.op (s.isFull p.dst (s.reduce p.dst a.off)) = false) :
    (s.takeBank p a).pool = (s.bankAccess p.dst a).1.pool ∧ (s.takeBank p a).full = (s.bankAccess p.dst a).1.full ∧
      ∃ r : Packet, (s.takeBank p a).net = s.net ++ [r] ∧ r.dst = p.src ∧
        r.body = .response a.out a.part (s.bankAccess p.dst a).2 false false false false false a := by
  obtain ⟨hs, r, hn, hd, hb⟩ := (s.bankAccess p.dst a).1.accAnswer_sent hsrc a (s.bankAccess p.dst a).2 false false false false false
  rw [takeBank_goes hw, State.bankServe_of_nil hq]
  exact ⟨hs.pool_full.1, hs.pool_full.2, r, by rw [hn, (s.bankAccess_waitq p.dst a).2.1], hd, hb⟩

theorem State.trapMsg_keeps (s : State) (e : Nat) (m : TrapMsg) :
    (s.trapMsg e m).mems = s.mems ∧ (s.trapMsg e m).waitq = s.waitq ∧ (s.trapMsg e m).net = s.net ∧
      (s.trapMsg e m).hub.refusals = s.hub.refusals := ⟨rfl, rfl, rfl, rfl⟩

theorem State.trapMsg_beacons (s : State) (e : Nat) (m : TrapMsg) :
    ∃ m' : TrapMsg, (s.trapMsg e m).hub.beacons = s.hub.beacons ++ [m'] ∧ m'.kind = m.kind ∧ m'.part = m.part :=
  ⟨_, rfl, rfl, rfl⟩

theorem State.refuse_again {s : State} {agent : Nat} {tag : BitVec 10} {n : Nat}
    (h : s.hub.refusals.getD (agent * 1024 + tag.toNat) (0, false) = (n, true)) :
    s.refuse agent tag = s.updHub (fun h => { h with refusals := h.refusals.put (agent * 1024 + tag.toNat) (n + 1, true) }) := by
  simp only [State.refuse, h, if_true]

/-- The first refusal of a period sends a trap message of kind 2. -/
theorem State.refuse_first {s : State} {agent : Nat} {tag : BitVec 10} {n : Nat}
    (h : s.hub.refusals.getD (agent * 1024 + tag.toNat) (0, false) = (n, false)) :
    ∃ m : TrapMsg, m.kind = 2 ∧ m.part = tag ∧ s.refuse agent tag =
      (s.updHub (fun h => { h with refusals := h.refusals.put (agent * 1024 + tag.toNat) (n, true) })).trapMsg agent m := by
  simp only [State.refuse, h, Bool.false_eq_true, if_false]
  exact ⟨_, rfl, rfl, rfl⟩

/-- The refusal of an access, with its count and, the first of a period, its trap message. -/
theorem State.refuse_counts (s : State) (agent : Nat) (tag : BitVec 10) :
    let key := agent * 1024 + tag.toNat
    let c := s.hub.refusals.getD key (0, false)
    let t := s.refuse agent tag
    t.mems = s.mems ∧ t.waitq = s.waitq ∧ t.net = s.net ∧
      t.hub.refusals.getD key (0, false) = (if c.2 then c.1 + 1 else c.1, true) ∧
      (c.2 = true → t.hub.beacons = s.hub.beacons) ∧
      (c.2 = false → ∃ m : TrapMsg, t.hub.beacons = s.hub.beacons ++ [m] ∧ m.kind = 2 ∧ m.part = tag) := by
  intro key c t
  obtain ⟨n, b, hc⟩ : ∃ n b, c = (n, b) := ⟨c.1, c.2, rfl⟩
  rw [hc]
  cases b with
  | true =>
    have ht : t = _ := State.refuse_again hc
    rw [ht]
    exact ⟨rfl, rfl, rfl, NMap.getD_put_self _ _ _ _, fun _ => rfl, nofun⟩
  | false =>
    obtain ⟨m, hk, hp, ht⟩ := State.refuse_first hc
    change t = _ at ht
    rw [ht]
    obtain ⟨h1, h2, h3, h4⟩ := State.trapMsg_keeps
      (s.updHub (fun h => { h with refusals := h.refusals.put key (n, true) })) agent m
    obtain ⟨m', hb, hk', hp'⟩ := State.trapMsg_beacons
      (s.updHub (fun h => { h with refusals := h.refusals.put key (n, true) })) agent m
    refine ⟨h1, h2, h3, ?_, nofun, fun _ => ⟨m', hb, hk'.trans hk, hp'.trans hp⟩⟩
    rw [h4]
    exact NMap.getD_put_self _ _ _ _

theorem Serves.congr {s s' u : State} {k off : Nat} (h : Serves s u k off) (hc : s'.cores = s.cores) (hm : s'.mems = s.mems)
    (hw : s'.waitq = s.waitq) (hn : s'.net = s.net) : Serves s' u k off := by
  have hpool : s'.pool = s.pool := (Mems.mk.inj hm).1
  unfold Serves at h ⊢
  rw [hpool, State.isFull_of_mems hm, hw, hn, serveWalk_congr hc]
  exact h

/-- An operation that can change the state of a word serves those that wait there. -/
theorem State.bankServe_serves {s : State} {k : Nat} {a : WordAcc} (hb : s.bad = [])
    (hop : a.op = .lds ∨ a.op = .sts ∨ a.op = .fesetFull ∨ a.op = .fesetEmpty)
    (hr : RemoteWaiters s k (s.reduce k a.off) (s.waitq.getD (wordKey k (s.reduce k a.off)) [])) :
    Serves (s.bankAccess k a).1 (s.bankServe k a).1 k (s.reduce k a.off) ∧ (s.bankServe k a).2 = (s.bankAccess k a).2 ∧
      s.SameWaits (s.bankServe k a).1 := by
  have hsw := s.bankAccess_sameWaits k a
  have hs : s.bankServe k a = ((s.bankAccess k a).1.serve k (s.reduce k a.off), (s.bankAccess k a).2) := by
    unfold State.bankServe
    rcases hop with h | h | h | h <;> simp only [h]
  obtain ⟨h1, h2⟩ := State.serve_serves (s := (s.bankAccess k a).1) (k := k) (off := s.reduce k a.off) (hsw.bad.trans hb)
    (by rw [(s.bankAccess_waitq k a).1]; exact hr.congr hsw.cores)
  rw [hs]
  exact ⟨h1, rfl, hsw.trans h2⟩

end Sys2Proof.Machine

namespace Sys2Proof.Machine

/-! ## Port-engine messages over a state that differs in its network alone -/

/-- The packet that arrives leaves the network; words, queues and cores are as before. -/
theorem State.dropPacket_sameWords (s : State) (id : Nat) : s.SameWords (s.dropPacket id) :=
  ⟨State.sameWaits_of_frames rfl rfl rfl rfl rfl, rfl, rfl, rfl⟩

/-- A word access that its core performs where nobody waits, or does not perform (R25, R54, R376, R429). -/
theorem takeCoreAccess_answered {s : State} {p : Packet} {a : WordAcc} (hsrc : p.src < 2 ^ 23)
    (hq : s.waitq.getD (wordKey p.dst (s.reduce p.dst a.off)) [] = []) :
    let off := s.reduce p.dst a.off
    let t := s.takeCoreAccess p a
    (s.inGap p.dst a.off = true → t.pool = s.pool ∧ t.full = s.full ∧
      ∃ r : Packet, t.net = s.net ++ [r] ∧ r.dst = p.src ∧ r.body = .response a.out a.part 0 true false false false false a) ∧
    (s.inGap p.dst a.off = false → s.accError a.op p.dst off = none → accWaits a.op (s.isFull p.dst off) = false →
      t.pool = (s.bankAccess p.dst a).1.pool ∧ t.full = (s.bankAccess p.dst a).1.full ∧
      ∃ r : Packet, t.net = s.net ++ [r] ∧ r.dst = p.src ∧
        r.body = .response a.out a.part (s.bankAccess p.dst a).2 false false false false false a) ∧
    (s.inGap p.dst a.off = false → s.accError a.op p.dst off = none → accWaits a.op (s.isFull p.dst off) = true →
      t.pool = s.pool ∧ t.full = s.full ∧
      (s.deferredCount p.dst < 16 → ∃ w : Waiter, t.waitq.getD (wordKey p.dst off) [] = [w] ∧ w.op = a.op ∧
        w.data = a.data ∧ w.who = .remote p.src p.sender p.tag p.epoch a.out a.part) ∧
      (16 ≤ s.deferredCount p.dst → t.waitq = s.waitq ∧
        ∃ r : Packet, t.net = s.net ++ [r] ∧ r.dst = p.src ∧ r.body = .response a.out a.part 0 false false true false false a)) ∧
    (∀ key : Nat, s.inGap p.dst a.off = false → s.accError a.op p.dst off = some (key, true) →
      t.pool = s.pool ∧ t.full = s.full ∧
      ∃ r : Packet, t.net = s.net ++ [r] ∧ r.dst = p.src ∧
        r.body = .response a.out a.part (natWord off) false false false false true a) := by
  intro off t
  refine ⟨fun hg => ?_, fun hg he hw => ?_, fun hg he hw => ?_, fun key hg he => ?_⟩
  · have ht : t = _ := takeCoreAccess_gap hg
    obtain ⟨hs, r, hr⟩ := s.accAnswer_sent hsrc a 0 true false false false false
    rw [ht]
    exact ⟨hs.pool_full.1, hs.pool_full.2, r, hr⟩
  · have ht : t = _ := takeCoreAccess_sound hg he
    rw [ht]
    exact takeBank_goes_of_nil hsrc hq hw
  · have ht : t = _ := takeCoreAccess_sound hg he
    rw [ht]
    rcases Nat.lt_or_ge (s.deferredCount p.dst) 16 with hn | hn
    · rw [takeBank_waits hw hn]
      refine ⟨rfl, rfl, fun _ => ⟨⟨.remote p.src p.sender p.tag p.epoch a.out a.part, a.op, a.off, a.size, a.data, a.out⟩, ?_, rfl,
        rfl, rfl⟩, fun h => absurd hn (Nat.not_lt.2 h)⟩
      rw [State.enqueueWaiter, hq]
      exact NMap.getD_put_self _ _ _ _
    · rw [takeBank_retry hw hn]
      obtain ⟨hs, r, hr⟩ := State.respond_sent s p.dst hsrc p.sender p.tag p.epoch a.out a.part 0 false false true false false a
      exact ⟨hs.pool_full.1, hs.pool_full.2, fun h => absurd h (Nat.not_lt.2 hn), fun _ => ⟨hs.waitq, r, hr⟩⟩
  · have ht : t = _ := takeCoreAccess_lasting hg he
    obtain ⟨hs, r, hn, hr⟩ := (s.lasting p.dst p.tag off).accAnswer_sent hsrc a (natWord off) false false false false true
    obtain ⟨hnet, hpool, hfull⟩ := s.lasting_net p.dst p.tag off
    rw [ht]
    exact ⟨hs.pool_full.1.trans hpool, hs.pool_full.2.trans hfull, r, by rw [hn, hnet], hr⟩

/-- A word access that its core performs serves those that wait at the word (R52). -/
theorem takeCoreAccess_serves {s : State} {p : Packet} {a : WordAcc} (hsrc : p.src < 2 ^ 23) (hg : s.inGap p.dst a.off = false)
    (hb : s.bad = []) (hop : a.op = .lds ∨ a.op = .sts ∨ a.op = .fesetFull ∨ a.op = .fesetEmpty)
    (hw : accWaits a.op (s.isFull p.dst (s.reduce p.dst a.off)) = false)
    (hr : RemoteWaiters s p.dst (s.reduce p.dst a.off) (s.waitq.getD (wordKey p.dst (s.reduce p.dst a.off)) [])) :
    let t := s.takeCoreAccess p a
    ∃ (u : State) (r : Packet), Serves (s.bankAccess p.dst a).1 u p.dst (s.reduce p.dst a.off) ∧
      t.pool = u.pool ∧ t.full = u.full ∧ t.waitq = u.waitq ∧ t.net = u.net ++ [r] ∧ r.dst = p.src ∧
      r.body = .response a.out a.part (s.bankAccess p.dst a).2 false false false false false a := by
  intro t
  obtain ⟨hs, hv, -⟩ := State.bankServe_serves hb hop hr
  obtain ⟨hk, r, hn, hd, hbody⟩ := (s.bankServe p.dst a).1.accAnswer_sent hsrc a (s.bankServe p.dst a).2 false false false false false
  have ht : t = _ := (takeCoreAccess_sound hg (State.firstError_of_bad hb _)).trans (takeBank_goes hw)
  rw [hv] at hbody
  rw [ht]
  exact ⟨_, r, hs, hk.pool_full.1, hk.pool_full.2, hk.waitq, hn, hd, hbody⟩

/-! ## An operation of the own core (R51, R52) -/

theorem State.upd_sameWords (s : State) (h : Frame → Frame) (hw : (h s.cf).waits = s.cf.waits) : s.SameWords (s.upd h) := by
  refine ⟨⟨rfl, rfl, rfl, rfl, fun j => ?_⟩, s.upd_mems h, rfl, rfl⟩
  rw [State.frame_upd]
  split
  · rename_i hj; rw [hj]; exact hw
  · rfl

theorem State.stickyIf_sameWords (s : State) (c : Bool) (b : Nat) : s.SameWords (s.stickyIf c b) := by
  rcases s.stickyIf_eq c b with h | h <;> rw [h]
  · exact ⟨.refl s, rfl, rfl, rfl⟩
  · exact s.upd_sameWords _ rfl

theorem State.chargeAcc_sameWords (s : State) (own : Bool) (places : List (Nat × Nat)) : s.SameWords (s.chargeAcc own places) := by
  have h (cls n : Nat) : s.SameWords (s.charge s.cur.fk cls n) := by
    refine s.upd_sameWords _ ?_
    obtain ⟨e, sat, r, he⟩ := s.cf.addEnergy_eq (n * weightOf (if isGeyserFrame s.cur.fk then
      (s.geyser (frameCore s.cur.fk)).ewt else (s.core (frameCore s.cur.fk)).ewt) cls)
    have hw := congrArg Frame.waits he
    exact hw
  unfold State.chargeAcc
  split <;> exact h _ _

theorem State.setG_sameWords (s : State) (r : BitVec 6) (x : Word) : s.SameWords (s.setG r x) := by
  refine s.upd_sameWords _ ?_
  obtain ⟨y, hy⟩ := (s.cf.wg r.toNat x).setReady_eq r.toNat (s.cycle + 8 * 1)
  rw [hy]
  unfold Frame.wg
  split <;> rfl

theorem State.ownError_of_bad (s : State) (h : s.bad = []) (op : AccOp) (d : Dec) (n : Nat) : s.ownError op d n = none := by
  simp [State.ownError, State.firstError_of_bad h]

/-- An LDS or STS of the own core that the word's state allows is performed at once, and serves those that wait there. -/
theorem feAcquire_serves {s : State} {op : AccOp} {d : Dec} {n : Nat} {data : Word} (hb : s.bad = []) (hop : op = .lds ∨ op = .sts)
    (hv : d.view = 0) (hwait : s.waitStands 0 = false) (hrel : op = .sts → s.accIds s.cur.fk = [])
    (hg : s.inGap s.curCore d.off = false) (hw : accWaits op (s.isFull s.curCore (s.reduce s.curCore d.off)) = false)
    (hr : RemoteWaiters s s.curCore (s.reduce s.curCore d.off) (s.waitq.getD (wordKey s.curCore (s.reduce s.curCore d.off)) [])) :
    let t := feAcquire s op d n data
    ∃ u : State, Serves (s.bankAccess s.curCore ⟨op, d.off, n, data, 0, 0, 0⟩).1 u s.curCore (s.reduce s.curCore d.off) ∧
      u.SameWords t ∧ t.net = u.net ∧ t.acquired = s.acquired := by
  intro t
  let a : WordAcc := ⟨op, d.off, n, data, 0, 0, 0⟩
  let s0 := ((s.heal (s.ownError op d n)).stickyIf d.misal bitMisal).chargeAcc true [(s.curCore, d.off)]
  have herr := s.ownError_of_bad hb op d n
  have h0 : s.SameWords s0 := by
    have hh : s.heal (s.ownError op d n) = s := by rw [herr]; rfl
    simp only [s0, hh]
    exact (s.stickyIf_sameWords _ _).trans (State.chargeAcc_sameWords _ _ _)
  have hstall : (op == .sts && s.releaseStalls) = false := by
    rcases hop with rfl | rfl
    · rfl
    · simp [State.releaseStalls, hrel rfl]
  have ht : t = (s0.bankServe s.curCore a).1.hold 0 (s0.bankServe s.curCore a).2 := by
    simp only [t, feAcquire, hwait, hv, hstall, hg, hw, bne_self_eq_false, Bool.or_self, Bool.false_eq_true, if_false]
    rfl
  have hred : s0.reduce s.curCore d.off = s.reduce s.curCore d.off := State.reduce_of_cores h0.cores _ _
  obtain ⟨hs, -, hsw⟩ := State.bankServe_serves (s := s0) (k := s.curCore) (a := a) (h0.bad.trans hb)
    (by rcases hop with rfl | rfl <;> simp [a]) (by rw [hred, h0.waitq]; exact hr.congr h0.cores)
  rw [hred] at hs
  refine ⟨(s0.bankServe s.curCore a).1, hs.congr (s := (s0.bankAccess s.curCore a).1) ?_ ?_ ?_ ?_, ?_, ?_, ?_⟩
  · exact (s.bankAccess_sameWaits _ a).cores.trans (h0.cores.symm.trans (s0.bankAccess_sameWaits _ a).cores.symm)
  · exact (State.bankAccess_congr h0.cores h0.mems _ _).1.symm
  · rw [(s.bankAccess_waitq _ _).1, (s0.bankAccess_waitq _ _).1, h0.waitq]
  · rw [(s.bankAccess_waitq _ _).2.1, (s0.bankAccess_waitq _ _).2.1]
    simp [s0, herr, State.heal]
  · rw [ht]
    exact State.upd_sameWords _ _ rfl
  · rw [ht]
    rfl
  · have hh : (s0.bankServe s.curCore a).1.SameWords t := by rw [ht]; exact State.upd_sameWords _ _ rfl
    have hall := (h0.toSameWaits.trans hsw).trans hh.toSameWaits
    simp only [State.acquired, State.cf]
    rw [hall.cur, hall.waits]

/-- An operation of the own core whose bundle has no wait left completes at once. -/
theorem feAccess_own {s : State} {op : AccOp} {am : AMode} {sum : Word} {n : Nat} {d : Dec} {data : Word} {dst : Option (BitVec 6)}
    (hg : s.onGeyser = false) (he : s.decodeOperand am sum n = .ok d) (hv : d.view = 0) (hb : s.bad = [])
    (hst : feStalls s op d n = false) (hacq : (feAcquire s op d n data).acquired = true) :
    ∃ t, feAccess s op am sum n data dst = .next t ∧ (feAcquire s op d n data).SameWords t ∧ t.net = (feAcquire s op d n data).net := by
  have hsc : scopeTrap s (s.feScope d) = none := by simp [scopeTrap, State.scopeLimited, State.feScope, hv]
  have herr := s.ownError_of_bad hb op d n
  have hn : feAccess s op am sum n data dst = .next ((dst.map (fun rt =>
      (feAcquire s op d n data).setG rt ((feAcquire s op d n data).heldValue 0))).getD (feAcquire s op d n data)) := by
    unfold feAccess
    simp only [feTrap, hg, he, hsc, herr, hst, hv, hacq, ite_self, Bool.false_eq_true, if_false, if_true]
    cases dst <;> rfl
  refine ⟨_, hn, ?_⟩
  cases dst with
  | none => exact ⟨⟨.refl _, rfl, rfl, rfl⟩, rfl⟩
  | some rt => exact ⟨State.setG_sameWords _ _ _, rfl⟩

theorem feAccess_own_serves {s : State} {op : AccOp} {am : AMode} {sum : Word} {n : Nat} {d : Dec} {data : Word}
    {dst : Option (BitVec 6)} (hgey : s.onGeyser = false) (he : s.decodeOperand am sum n = .ok d) (hv : d.view = 0)
    (hst : feStalls s op d n = false) (hacq : s.acquired = true)
    (hb : s.bad = []) (hop : op = .lds ∨ op = .sts) (hwait : s.waitStands 0 = false) (hrel : op = .sts → s.accIds s.cur.fk = [])
    (hg : s.inGap s.curCore d.off = false) (hw : accWaits op (s.isFull s.curCore (s.reduce s.curCore d.off)) = false)
    (hr : RemoteWaiters s s.curCore (s.reduce s.curCore d.off) (s.waitq.getD (wordKey s.curCore (s.reduce s.curCore d.off)) [])) :
    ∃ (t u : State), feAccess s op am sum n data dst = .next t ∧
      Serves (s.bankAccess s.curCore ⟨op, d.off, n, data, 0, 0, 0⟩).1 u s.curCore (s.reduce s.curCore d.off) ∧
      t.pool = u.pool ∧ t.full = u.full ∧ t.waitq = u.waitq ∧ t.net = u.net := by
  obtain ⟨u, hs, hk, hn, ha⟩ := feAcquire_serves (data := data) (n := n) hb hop hv hwait hrel hg hw hr
  obtain ⟨t, ht, hk2, hn2⟩ := feAccess_own (dst := dst) hgey he hv hb hst (ha.trans hacq)
  have hall := hk.trans hk2
  refine ⟨t, u, ht, hs, hall.pool_full.1, hall.pool_full.2, hall.waitq, hn2.trans hn⟩

/-! ## A delayed FESET (R50, R250) -/

/-- The turn of an FESET serves those that wait at its word. -/
theorem performDelayed_serves {s : State} {x : Delayed} {a : WordAcc} (haccs : x.accs = [a]) (hgap : x.gap = false)
    (hdst : x.dst = none) (hend : x.at_end < 2 ^ 14) (hop : a.op = .fesetFull ∨ a.op = .fesetEmpty) (hb : s.bad = [])
    (hr : RemoteWaiters s x.at_end (s.reduce x.at_end a.off) (s.waitq.getD (wordKey x.at_end (s.reduce x.at_end a.off)) [])) :
    ∃ u : State, Serves (s.bankAccess x.at_end a).1 u x.at_end (s.reduce x.at_end a.off) ∧ (s.performDelayed x).pool = u.pool ∧
      (s.performDelayed x).full = u.full ∧ (s.performDelayed x).waitq = u.waitq ∧ (s.performDelayed x).net = u.net := by
  have he : s.performDelayed x = (s.bankServe x.at_end a).1.performed x.id := by
    have hlt : ¬ 2 ^ 20 ≤ x.at_end := by omega
    simp only [State.performDelayed, haccs, hdst, delayedWord, hgap, List.foldl_cons, List.foldl_nil, if_neg hlt,
      Bool.false_eq_true, if_false]
  obtain ⟨hs, -, -⟩ := State.bankServe_serves hb (by tauto) hr
  rw [he]
  exact ⟨_, hs, rfl, rfl, rfl, rfl⟩

/-! ## A thread that waits in place (R51, R52) -/

/-- A thread whose last wait in place is over re-enters the rotation. -/
theorem State.giveWait_last {s : State} {fk sk : Nat} (hslot : s.slotOf fk = some sk) (hst : (s.slot sk).state = .inPlace)
    (hw : (s.frame fk).waits = [0]) (v : Word) :
    let t := s.giveWait fk 0 v
    (t.frame fk).held.get? 0 = some v ∧ (t.frame fk).waits = [] ∧ (t.slot sk).state = .run ∧ t.waitq = s.waitq := by
  intro t
  let s1 := s.updFrame fk (fun f => { f with held := f.held.put 0 v, waits := f.waits.erase 0 })
  have hf : s1.frame fk = { s.frame fk with held := (s.frame fk).held.put 0 v, waits := [] } := by
    simp [s1, State.frame_updFrame, hw]
  have hrel : s1.releaseOver fk = false := by simp [State.releaseOver, hf]
  have ht : t = s1.updSlot sk (fun r => { r with state := .run }) := by
    have hs1 : s1.slotOf fk = some sk := hslot
    have hst1 : (s1.slot sk).state = .inPlace := hst
    show s1.resume fk = _
    simp [State.resume, hs1, hst1, hrel, hf]
  have hft : t.frame fk = s1.frame fk := by rw [ht]; rfl
  refine ⟨?_, ?_, ?_, ?_⟩
  · rw [hft, hf]
    simp [NMap.get?_put]
  · rw [hft, hf]
  · rw [ht, State.slot_updSlot, if_pos rfl]
  · rw [ht]; rfl

/-- The thread whose operation is at the head of a word's queue receives its value and re-enters the rotation. -/
theorem State.serve_thread {s : State} {k off : Nat} {w : Waiter} {fk sk : Nat} (hb : s.bad = [])
    (hq : s.waitq.getD (wordKey k off) [] = [w]) (hwho : w.who = .thread fk) (hw : accWaits w.op (s.isFull k off) = false)
    (hpre : (s.core k).preempted = false) (hslot : s.slotOf fk = some sk) (hst : (s.slot sk).state = .inPlace)
    (hwait : (s.frame fk).waits = [0]) :
    let t := s.serve k off
    (t.frame fk).held.get? 0 = some (s.bankAccess k ⟨w.op, w.off, w.size, w.data, 0, 0, 0⟩).2 ∧
      (t.frame fk).waits = [] ∧ (t.slot sk).state = .run ∧ t.waitq.getD (wordKey k off) [] = [] := by
  intro t
  let b := s.bankAccess k ⟨w.op, w.off, w.size, w.data, 0, 0, 0⟩
  let u := (b.1.setWaiters (wordKey k off) []).performed w.id
  have hu : s.SameWaits u := (s.bankAccess_sameWaits k _).trans
    ((State.setWaiters_sameWaits _ _ _).trans (State.sameWords_performed _ w.id).toSameWaits)
  have ht : t = u.giveWait fk 0 b.2 := by
    have h1 : t = s.served k off w [] := by
      show s.feServe k off _ = _
      rw [hq]
      exact State.feServe_of_goes hb hq hw
    have hp : (u.core k).preempted = false := by rw [← hpre]; simp [State.core, hu.cores]
    rw [h1]
    unfold State.served State.answerWaiter
    rw [hwho]
    exact if_neg (ne_true_of_eq_false hp)
  obtain ⟨h1, h2, h3, h4⟩ := State.giveWait_last (s := u) (by rw [← hslot]; simp [State.slotOf, hu.slots])
    (by rw [← hst]; simp [State.slot, hu.slots]) ((hu.waits fk).trans hwait) b.2
  rw [ht]
  refine ⟨h1, h2, h3, ?_⟩
  have h5 := b.1.setWaiters_getD (wordKey k off) (wordKey k off) []
  rw [if_pos rfl] at h5
  rw [h4]
  exact h5

/-! ## Settling O12 -/

/-- Settles O12: the core's access and refusal clauses, then FE_SERVE by its walk over the queue (`State.feServe_serves`), reached
from an access of another core, one of the own core, the turn of an FESET, and for a thread that waits in place. -/
theorem portEngineAccess : Obligations.PortEngineAccess := by
  unfold Obligations.PortEngineAccess
  refine ⟨⟨?_, ?_⟩, ?_, ?_, ?_, ?_, ?_⟩
  · intro s p a harr hbody hpart hdst hsrc hend off hq
    refine ⟨_, (exec_portEngineMessage harr).trans (congrArg _ (takeAccess_core hbody hpart hdst hend)), ?_⟩
    obtain ⟨hgap, hgoes, hwaits, hlast⟩ := takeCoreAccess_answered (s := s.dropPacket p.id) (hsrc.trans (by norm_num)) hq
    obtain ⟨hm, hv⟩ := State.bankAccess_congr (s.dropPacket_sameWords p.id).cores (s.dropPacket_sameWords p.id).mems p.dst a
    refine ⟨hgap, fun hg he hw => ?_, hwaits, hlast⟩
    obtain ⟨hpool, hfull, r, hn, hd, hb⟩ := hgoes hg he hw
    obtain ⟨hp, -, -, -, hf⟩ := Mems.mk.inj hm
    exact ⟨hpool.trans hp, hfull.trans hf, r, hn, hd, hb.trans (by rw [hv])⟩
  · intro s p a harr hbody hpart hsrc hend key c
    obtain ⟨hm, hw, hn, hr, hb1, hb2⟩ := (s.dropPacket p.id).refuse_counts p.dst p.tag
    obtain ⟨hs, r, hnet, hd, hb⟩ := ((s.dropPacket p.id).refuse p.dst p.tag).accAnswer_sent hsrc a 0 false true false false false
    refine ⟨_, r, (exec_portEngineMessage harr).trans (congrArg _ (takeAccess_refused hbody hpart hend)), ?_, hs.waitq.trans hw,
      hnet.trans (by rw [hn]; rfl), hd, hb, ?_, ?_, ?_⟩
    · exact sameMemory_of_mems (hs.mems.trans hm)
    · rw [hs.hub]; exact hr
    · rw [hs.hub]; exact hb1
    · rw [hs.hub]; exact hb2
  · intro s k off hb hr
    exact (State.serve_serves hb hr).1
  · intro s p a harr hbody hpart hdst hsrc hend hg hb hop k off hw hr b
    obtain ⟨u, r, h⟩ := takeCoreAccess_serves (s := s.dropPacket p.id) (hsrc.trans (by norm_num)) hg hb hop hw
      (hr.congr (s.dropPacket_sameWords p.id).cores)
    exact ⟨_, u, r, (exec_portEngineMessage harr).trans (congrArg _ (takeAccess_core hbody hpart hdst hend)), h⟩
  · intro s rt rb am sz off d hgey he hv hacq hwait hg hb k r n hr
    refine ⟨fun hst hf => ?_, fun hst hf hrel => ?_⟩
    · exact feAccess_own_serves (op := .lds) hgey he hv hst hacq hb (.inl rfl) hwait nofun hg (congrArg (!·) hf) hr
    · exact feAccess_own_serves (op := .sts) hgey he hv hst hacq hb (.inr rfl) hwait (fun _ => hrel) hg hf hr
  · intro s x a haccs hgap hdst hend hop hb off hr
    exact performDelayed_serves haccs hgap hdst hend hop hb hr
  · intro s k off w fk sk hb hq hwho _ hw hpre hslot hst hwait
    exact State.serve_thread hb hq hwho hw hpre hslot hst hwait

end Sys2Proof.Machine

namespace Sys2Proof.Machine

/-! ## What a walk of the page tables leaves (R82 to R85, R429) -/

/-- The state with other caches, errors, tables and reports. -/
def State.reread (s : State) (gs : NMap Geyser) (b : NMap Err) (d : Mem) (e : NMap Errors) (bs : List TrapMsg) (ag : List Event)
    (n : Nat) : State :=
  { s with geysers := gs, bad := b, dev := d, agenda := ag, nextId := n, hub := { s.hub with errors := e, beacons := bs } }

/-- From s to t reads of device memory have touched caches, reported errors and set bits in tables, and nothing else. -/
structure State.AfterReads (s t : State) : Prop where
  shape : ∃ gs b d e bs ag n, t = s.reread gs b d e bs ag n
  bad : s.bad = [] → t.bad = []
  agenda : s.agenda ⊆ t.agenda
  streams : ∀ ch, (t.geyser ch).streams = (s.geyser ch).streams

theorem State.AfterReads.refl (s : State) : s.AfterReads s := ⟨⟨_, _, _, _, _, _, _, rfl⟩, id, fun _ h => h, fun _ => rfl⟩

theorem State.AfterReads.trans {s t u : State} (h1 : s.AfterReads t) (h2 : t.AfterReads u) : s.AfterReads u := by
  refine ⟨?_, fun h => h2.bad (h1.bad h), fun e h => h2.agenda (h1.agenda h), fun ch => (h2.streams ch).trans (h1.streams ch)⟩
  obtain ⟨_, _, _, _, _, _, _, rfl⟩ := h1.shape
  obtain ⟨gs, b, d, e, bs, ag, n, rfl⟩ := h2.shape
  exact ⟨gs, b, d, e, bs, ag, n, rfl⟩

theorem State.afterReads_transient (s : State) (die key : Nat) : s.AfterReads (s.transient die key) := by
  refine ⟨⟨_, _, _, _, _, _, _, rfl⟩, fun h => ?_, fun _ h => h, fun _ => rfl⟩
  show s.bad.del key = []
  rw [h]
  rfl

theorem State.afterReads_trapMsg (s : State) (e : Nat) (m : TrapMsg) : s.AfterReads (s.trapMsg e m) :=
  ⟨⟨_, _, _, _, _, _, _, rfl⟩, id, List.subset_append_left _ _, fun _ => rfl⟩

theorem State.afterReads_lasting (s : State) (e : Nat) (tag : BitVec 10) (va : Nat) (page : Option Nat) :
    s.AfterReads (s.lasting e tag va page) := by
  have h (x : NMap Errors) : s.AfterReads (s.updHub (fun h => { h with errors := x })) :=
    ⟨⟨_, _, _, _, _, _, _, rfl⟩, id, fun _ h => h, fun _ => rfl⟩
  exact (h _).trans (State.afterReads_trapMsg _ _ _)

theorem State.afterReads_deviceSound (s : State) (tag : BitVec 10) (pa n va : Nat) : s.AfterReads (s.deviceSound tag pa n va).1 := by
  unfold State.deviceSound
  split
  · exact s.afterReads_transient _ _
  · exact s.afterReads_lasting _ _ _ _
  · exact .refl s

theorem State.afterReads_evict (s : State) (tag pa : Nat) (c : Bool) : s.AfterReads (s.evict tag pa c) := by
  unfold State.evict
  dsimp only
  split
  · exact .refl s
  · rename_i h
    have hb : s.bad ≠ [] := fun hb => by simp [hb] at h
    split
    · exact ⟨⟨_, _, _, _, _, _, _, rfl⟩, fun h => absurd h hb, fun _ h => h, fun _ => rfl⟩
    · exact .refl s

theorem State.afterReads_updGeyser (s : State) (ch : Nat) {h : Geyser → Geyser} (hh : ∀ g, (h g).streams = g.streams) :
    s.AfterReads (s.updGeyser ch h) := by
  refine ⟨⟨_, _, _, _, _, _, _, rfl⟩, id, fun _ h => h, fun j => ?_⟩
  rw [State.geyser_updGeyser]
  split
  · rename_i hj; rw [hh, hj]
  · rfl

theorem State.afterReads_cacheTouch (s : State) (tag pa : Nat) (c w : Bool) : s.AfterReads (s.cacheTouch tag pa c w) := by
  refine (s.afterReads_evict tag pa c).trans ?_
  unfold State.cacheTouch
  dsimp only
  split
  · exact State.afterReads_updGeyser _ _ (fun _ => rfl)
  · split
    · exact State.afterReads_updGeyser _ _ (fun _ => rfl)
    · exact .refl _

theorem afterReads_walkLeaf (s : State) (tag va : Nat) (write quiet : Bool) (level ea pte : Nat) :
    s.AfterReads (walkLeaf s tag va write quiet level ea pte).1 := by
  have hset (x : Word) : s.AfterReads { s.cacheTouch tag ea true true with dev := (s.cacheTouch tag ea true true).dev.setDword ea x } :=
    (s.afterReads_cacheTouch tag ea true true).trans
      ⟨⟨_, _, _, _, _, _, _, rfl⟩, id, fun _ h => h, fun _ => rfl⟩
  unfold walkLeaf
  extract_lets want s0 s1 base off block
  have h1 : s.AfterReads s1 := by
    simp only [s1]
    split
    · exact .refl s
    · exact hset _
  split
  · exact .refl s
  · split
    · exact .refl s
    · split
      · exact .refl s
      · split
        · exact h1
        · split
          · exact h1
          · split <;> exact h1

theorem afterReads_walkFrom (s : State) (tag va : Nat) (write quiet : Bool) (table level n : Nat) :
    s.AfterReads (walkFrom s tag va write quiet table level n).1 := by
  induction n generalizing s table level with
  | zero => exact .refl s
  | succ n ih =>
    unfold walkFrom
    extract_lets ea x pte s1
    have hx : s.AfterReads x.1 := by
      simp only [x]
      split
      · exact s.afterReads_deviceSound _ _ _ _
      · exact .refl s
    have h1 : s.AfterReads s1 := hx.trans (State.afterReads_cacheTouch _ _ _ _ _)
    split
    · exact hx
    · split
      · split
        · exact h1
        · split
          · exact h1
          · split
            · split
              · exact h1
              · exact h1.trans (ih _ _ _)
            · exact h1.trans (afterReads_walkLeaf _ _ _ _ _ _ _ _)
      · exact .refl s

theorem State.afterReads_walk (s : State) (tag va : Nat) (write quiet : Bool) : s.AfterReads (s.walk tag va write quiet).1 :=
  afterReads_walkFrom s tag _ write quiet _ 0 3

theorem State.afterReads_devRead (s : State) (tag pa n : Nat) (c : Bool) : s.AfterReads (s.devRead tag pa n c).1 := by
  have hf (ls : List Nat) (t : State) : t.AfterReads (ls.foldl (fun s l => s.cacheTouch tag (l * 64) c false) t) := by
    induction ls generalizing t with
    | nil => exact .refl t
    | cons l ls ih => exact (t.afterReads_cacheTouch tag (l * 64) c false).trans (ih _)
  unfold State.devRead
  dsimp only
  split
  · exact .refl s
  · exact hf _ s

/-- Without a stored error no read of device memory meets one. -/
theorem State.deviceError_of_bad {s : State} (h : s.bad = []) (tag pa n : Nat) : s.deviceError tag pa n = none := by
  have he : s.lineError tag = fun _ => none := by
    funext l
    simp [State.lineError, h]
  simp [State.deviceError, he]

theorem State.AfterReads.fields {s t : State} (h : s.AfterReads t) :
    t.frames = s.frames ∧ t.slots = s.slots ∧ t.clusters = s.clusters ∧ t.cur = s.cur ∧ t.cores = s.cores := by
  obtain ⟨_, _, _, _, _, _, _, rfl⟩ := h.shape
  exact ⟨rfl, rfl, rfl, rfl, rfl⟩

end Sys2Proof.Machine

namespace Sys2Proof.Machine

/-! ## A bundle fetch by its cases (R32 to R34, R155) -/

theorem codeLine_eq (pc : Word) : codeLine pc = pc.toNat / 2 ^ 6 % 2 ^ 50 * 64 := by
  simp [codeLine, natBits]

theorem istoreOf_eq (fk : Nat) : istoreOf fk = if isGeyserFrame fk then 1024 + frameCore fk else fk / 1024 := by
  unfold istoreOf
  by_cases h : isGeyserFrame fk = true
  · rw [if_pos h, if_pos h]
  · rw [if_neg h, if_neg h, frameCore, if_neg h, Nat.div_div_eq_div_mul]

theorem exec_bundleFetch_miss {s : State} {sk fk : Nat} (h : (s.slot sk).frame = some fk)
    (hl : (s.begin sk fk).storedLine fk (codeLine (s.frame fk).pc) = none) :
    exec (.bundleFetch sk) s = .next ((s.begin sk fk).missLine sk fk (codeLine (s.frame fk).pc)) := by
  change execBundleFetch sk s = _
  have hl' : (s.begin sk fk).storedLine fk (codeLine (s.begin sk fk).cur.bpc) = none := hl
  unfold execBundleFetch
  simp only [h, hl']
  rfl

theorem exec_bundleFetch_lasting {s : State} {sk fk : Nat} {l : Line} (h : (s.slot sk).frame = some fk)
    (hl : (s.begin sk fk).storedLine fk (codeLine (s.frame fk).pc) = some l) (he : s.errorAt (istoreErrKey (istoreOf fk)) = some true) :
    exec (.bundleFetch sk) s = .next (s.begin sk fk).lineEcc := by
  change execBundleFetch sk s = _
  have hl' : (s.begin sk fk).storedLine fk (codeLine (s.begin sk fk).cur.bpc) = some l := hl
  have he' : (s.begin sk fk).errorAt (istoreErrKey (istoreOf fk)) = some true := he
  unfold execBundleFetch
  simp only [h, hl', he']

/-- The state in which a line of the store is issued: its transient error is corrected. -/
def State.fetched (s : State) (sk fk : Nat) : State :=
  (s.begin sk fk).healAt (keyEnd (istoreErrKey (istoreOf fk)))
    ((s.errorAt (istoreErrKey (istoreOf fk))).map (fun b => (istoreErrKey (istoreOf fk), b)))

theorem exec_bundleFetch_line {s : State} {sk fk : Nat} {l : Line} (h : (s.slot sk).frame = some fk)
    (hl : (s.begin sk fk).storedLine fk (codeLine (s.frame fk).pc) = some l) (he : s.errorAt (istoreErrKey (istoreOf fk)) ≠ some true) :
    exec (.bundleFetch sk) s = .next ((s.fetched sk fk).issueLine fk l) := by
  change execBundleFetch sk s = _
  have hl' : (s.begin sk fk).storedLine fk (codeLine (s.begin sk fk).cur.bpc) = some l := hl
  have he' : (s.begin sk fk).errorAt (istoreErrKey (istoreOf fk)) = s.errorAt (istoreErrKey (istoreOf fk)) := rfl
  unfold execBundleFetch State.fetched
  rcases hc : s.errorAt (istoreErrKey (istoreOf fk)) with _ | b
  · simp only [h, hl', he', hc]
  · cases b
    · simp only [h, hl', he', hc]
    · exact absurd hc he

theorem State.afterReads_healAt (s : State) (e : Nat) (err : Option (Nat × Bool)) : s.AfterReads (s.healAt e err) := by
  unfold State.healAt
  split
  · exact s.afterReads_transient _ _
  · exact .refl s

theorem State.afterReads_heal (s : State) (err : Option (Nat × Bool)) : s.AfterReads (s.heal err) := by
  unfold State.heal
  split
  · exact s.afterReads_transient _ _
  · exact .refl s

/-- The thread in issue stands at its bundle. -/
structure AtBundle (s : State) (sk fk : Nat) (u : State) : Prop where
  cur : u.cur = (s.begin sk fk).cur
  frames : u.frames = s.frames
  mems : u.mems = s.mems

theorem AtBundle.frame {s u : State} {sk fk : Nat} (h : AtBundle s sk fk u) (k : Nat) : u.frame k = s.frame k := by
  simp [State.frame, h.frames]

theorem AtBundle.ready {s u : State} {sk fk : Nat} (h : AtBundle s sk fk u) :
    u.cur.sk = sk ∧ u.cur.fk = fk ∧ u.cur.bpc = (s.frame fk).pc ∧ u.cur.pre = s.frame fk ∧ u.cur.slot = s.slot sk := by
  rw [h.cur]
  exact ⟨rfl, rfl, rfl, rfl, rfl⟩

theorem State.fetched_atBundle (s : State) (sk fk : Nat) : AtBundle s sk fk (s.fetched sk fk) := by
  obtain ⟨hf, -, -, hc, -⟩ := ((s.begin sk fk).afterReads_healAt (keyEnd (istoreErrKey (istoreOf fk)))
    ((s.errorAt (istoreErrKey (istoreOf fk))).map (fun b => (istoreErrKey (istoreOf fk), b)))).fields
  exact ⟨hc, hf, by simp [State.fetched]⟩

/-- A lasting error of the instruction store: the trap of its fetch. -/
theorem State.lineEcc_traps (s : State) (sk fk : Nat) :
    ∃ u : State, (s.begin sk fk).lineEcc = u.trap { cause := 0x12, detail := 2, eval := natWord (codeLine (s.frame fk).pc) } ∧
      AtBundle s sk fk u := by
  refine ⟨_, rfl, ?_⟩
  obtain ⟨hf, -, -, hc, -⟩ := ((s.begin sk fk).afterReads_lasting (keyEnd (istoreErrKey (istoreOf fk))) (s.frameTag fk)
    (codeLine (s.frame fk).pc) none).fields
  exact ⟨hc, hf, by simp⟩

/-! ## The issue of a bundle (R51, R157, R158, R163) -/

theorem State.issueBundle_traps {u : State} {b : Bundle} {x : Nat × State} (h : firstTrap (b.ops.map (opTraps u)).flatten = some x) :
    u.issueBundle b = x.2 := by
  simp only [State.issueBundle, h]

theorem State.issueBundle_stalls {u : State} {b : Bundle} (h : firstTrap (b.ops.map (opTraps u)).flatten = none)
    (hs : (u.liveOps b.ops).any (fun i => fateOf i (trial u i) == .stall) = true) : u.issueBundle b = u.retry := by
  simp only [State.issueBundle, h, hs, if_true]

/-- Operations that wait for nothing begin no wait. -/
theorem beginWaits_none {u : State} {is : List Instr} (h : ∀ i ∈ is, acquires i = false ∧ fateOf i (trial u i) = .go)
    (hw : u.cf.waits = []) : beginWaits u is = u := by
  have h1 : is.find? (fun i => !acquires i && fateOf i (trial u i) == .wait) = none := by
    simp only [List.find?_eq_none]
    intro i hi
    simp [(h i hi).2]
  have h2 : is.filter acquires = [] := by
    simp only [List.filter_eq_nil_iff]
    intro i hi
    simp [(h i hi).1]
  simp [beginWaits, h1, h2, State.acquired, hw]

theorem State.keeps_chargeOps (u : State) (is : List Instr) : u.Keeps (u.chargeOps is) := by
  unfold State.chargeOps
  induction is generalizing u with
  | nil => exact .refl u
  | cons i is ih =>
    rw [List.foldl_cons]
    refine .trans ?_ (ih _)
    split
    · exact u.keeps_charge _ _
    · exact .refl u

theorem State.keeps_healOps (u : State) (is : List Instr) : u.Keeps (is.foldl (fun s i => s.heal (s.firstError (s.regWords i))) u) := by
  induction is generalizing u with
  | nil => exact .refl u
  | cons i is ih =>
    rw [List.foldl_cons]
    refine .trans ?_ (ih _)
    obtain ⟨hf, -, -, hc, -⟩ := (u.afterReads_heal (u.firstError (u.regWords i))).fields
    exact State.keeps_of_eq (by simp) hc hf

/-- The operations that are left to execute, from the pc of the next bundle. -/
theorem State.startOps_starts (u : State) {is : List Instr} (h : ∀ i ∈ is, leaves i = false) :
    let t := u.startOps is
    t.cur.ops = is ∧ t.cur.stopped = u.cur.stopped ∧ (t.frame u.cur.fk).pc = u.cur.npc ∧
      SameRegsBut [] (u.frame u.cur.fk) (t.frame u.cur.fk) ∧ SameControl (u.frame u.cur.fk) (t.frame u.cur.fk) ∧ SameMemory u t := by
  intro t
  let s0 := is.foldl (fun s i => s.heal (s.firstError (s.regWords i))) u
  have hk : u.Keeps (s0.chargeOps is) := (u.keeps_healOps is).trans (State.keeps_chargeOps _ _)
  have hops : is.filter (fun i => !leaves i) ++ is.filter leaves = is := by
    rw [List.filter_eq_self.2 (fun i hi => by simp [h i hi]), List.filter_eq_nil_iff.2 (fun i hi => by simp [h i hi]), List.append_nil]
  let s1 := (s0.chargeOps is).upd (fun f => { f with pc := u.cur.npc })
  have hcur : t.cur = { u.cur with ops := is } := by
    have h1 : t.cur = { s1.cur with ops := is.filter (fun i => !leaves i) ++ is.filter leaves } := rfl
    rw [h1, hops]
    exact congrArg (fun c : Cur => { c with ops := is }) hk.cur
  have hf : t.frame u.cur.fk = { (s0.chargeOps is).cf with pc := u.cur.npc } := by
    have h1 : t.frame u.cur.fk = s1.frame u.cur.fk := rfl
    rw [h1, State.frame_upd, hk.cur, if_pos rfl]
  have hs1 : s1.mems = (s0.chargeOps is).mems := State.upd_mems _ _
  have hm : t.mems = u.mems := hs1.trans hk.mems
  obtain ⟨-, -, -, -, hc⟩ := hk.frame
  refine ⟨by rw [hcur], by rw [hcur], by rw [hf], ?_, ?_, sameMemory_of_mems hm⟩ <;> rw [hf]
  · exact (hk.frame.sameRegs []).trans ⟨fun _ _ _ => rfl, fun _ _ _ => rfl, fun _ _ _ => rfl⟩
  · exact hc

/-- A bundle without traps, stalls and waits leaves its operations to execute. -/
theorem State.issueBundle_goes {u : State} {b : Bundle} (h : firstTrap (b.ops.map (opTraps u)).flatten = none)
    (hs : (u.liveOps b.ops).any (fun i => fateOf i (trial u i) == .stall) = false)
    (hi : ∀ i ∈ u.liveOps b.ops, acquires i = false ∧ fateOf i (trial u i) = .go) (hw : u.cf.waits = [])
    (hst : u.cur.stopped = false) : u.issueBundle b = u.startOps (u.liveOps b.ops) := by
  simp only [State.issueBundle, h, hs, Bool.false_eq_true, if_false, beginWaits_none hi hw, hst]

/-! ## A fill of the instruction store (R34, R376, R428) -/

/-- The fill is over, and its thread back in the rotation. -/
def State.endFill (s : State) (x : Fill) : State :=
  (s.updHub (fun h => { h with fills := h.fills.filter (fun y => y.id != x.id) })).updSlot x.slot (fun r => { r with state := .run })

theorem exec_istoreFill {s : State} {x : Fill} {fk : Nat} (hx : s.hub.fills.find? (fun y => y.id == x.id) = some x)
    (hst : (s.slot x.slot).state = .line) (hf : (s.slot x.slot).frame = some fk) :
    (∀ t, (s.lineBytes x).2 = .trap t → exec (.istoreFill x.id) s = .next ((((s.lineBytes x).1.endFill x).begin x.slot fk).trap t)) ∧
    ((s.lineBytes x).2 = .wait → exec (.istoreFill x.id) s = .next (s.lineBytes x).1) ∧
    (∀ bs, (s.lineBytes x).2 = .line bs → exec (.istoreFill x.id) s = .next (((s.lineBytes x).1.endFill x).updCluster x.cluster
      (fun c => { c with icache := addLine c.icache ⟨x.va, x.tag, x.epoch, BitVec.ofNat 512 (bytesNat bs)⟩ }))) := by
  have he : exec (.istoreFill x.id) s = execIstoreFill x.id s := rfl
  rw [he]
  unfold execIstoreFill
  simp only [hx, hst, hf]
  generalize s.lineBytes x = r
  obtain ⟨s1, e⟩ := r
  refine ⟨fun t ht => ?_, fun ht => ?_, fun bs ht => ?_⟩ <;> (dsimp only at ht; subst ht)
  · rfl
  · rfl
  · rfl

theorem State.lineBytes_done {s : State} {x : Fill} {bs : List Byte} {code : Nat} (h : x.done = some (bs, code)) (hc : code ≠ 0) :
    s.lineBytes x = (s, .trap (fetchPage x.va code)) := by
  simp [State.lineBytes, h, hc]

section
variable {s : State} {x : Fill} (h : x.done = none)
include h

theorem State.lineBytes_ecc (hw : (s.walk x.tag.toNat x.va false false).2 = .ecc) :
    s.lineBytes x = ((s.walk x.tag.toNat x.va false false).1, .wait) := by
  simp [State.lineBytes, h, hw]

theorem State.lineBytes_host {addr : Nat} {c wr d b : Bool} (hw : (s.walk x.tag.toNat x.va false false).2 = .ok addr true c wr d b) :
    s.lineBytes x = (s.walk x.tag.toNat x.va false false).1.hostLine x addr := by
  simp [State.lineBytes, h, hw]

theorem State.lineBytes_device {addr : Nat} {c wr d b : Bool} (hw : (s.walk x.tag.toNat x.va false false).2 = .ok addr false c wr d b) :
    s.lineBytes x =
      let y := (s.walk x.tag.toNat x.va false false).1.deviceSound x.tag addr 64 x.va
      if y.2 then ((y.1.devRead x.tag.toNat addr 64 c).1, .line (y.1.devRead x.tag.toNat addr 64 c).2)
      else (y.1, .trap { cause := 0x12, detail := 2, eval := natWord x.va }) := by
  simp [State.lineBytes, h, hw]

theorem State.lineBytes_page {w : WalkEnd} (hw : (s.walk x.tag.toNat x.va false false).2 = w)
    (hk : (∃ code, w = .bad code) ∨ w = .notPresent) :
    s.lineBytes x = ((s.walk x.tag.toNat x.va false false).1.reportIsol hubEnd x.tag.toNat w, .trap (fetchPage x.va w.code)) := by
  rcases hk with ⟨code, rfl⟩ | rfl <;> simp [State.lineBytes, h, hw]

end

/-- Threads, slots and instruction stores are as before. -/
structure State.SameFetch (s t : State) : Prop where
  frames : t.frames = s.frames
  slots : t.slots = s.slots
  clusters : t.clusters = s.clusters

theorem State.AfterReads.sameFetch {s t : State} (h : s.AfterReads t) : s.SameFetch t := by
  obtain ⟨hf, hs, hc, -, -⟩ := h.fields
  exact ⟨hf, hs, hc⟩

theorem State.SameFetch.trans {s t u : State} (h1 : s.SameFetch t) (h2 : t.SameFetch u) : s.SameFetch u :=
  ⟨h2.frames.trans h1.frames, h2.slots.trans h1.slots, h2.clusters.trans h1.clusters⟩

theorem State.sameFetch_refuse (s : State) (agent : Nat) (tag : BitVec 10) : s.SameFetch (s.refuse agent tag) := by
  obtain ⟨n, b, hc⟩ : ∃ n b, s.hub.refusals.getD (agent * 1024 + tag.toNat) (0, false) = (n, b) := ⟨_, _, rfl⟩
  cases b with
  | true => rw [State.refuse_again hc]; exact ⟨rfl, rfl, rfl⟩
  | false =>
    obtain ⟨m, -, -, h⟩ := State.refuse_first hc
    have h1 (g : Hub → Hub) : s.SameFetch (s.updHub g) := ⟨rfl, rfl, rfl⟩
    rw [h]
    exact (h1 _).trans (State.afterReads_trapMsg _ _ _).sameFetch

theorem State.sameFetch_reportIsol (s : State) (agent tag : Nat) (w : WalkEnd) : s.SameFetch (s.reportIsol agent tag w) := by
  unfold State.reportIsol
  split
  · exact s.sameFetch_refuse _ _
  · exact ⟨rfl, rfl, rfl⟩

/-- The fetch of a fill that ends with a trap. -/
theorem fill_traps {s : State} {x : Fill} {sk fk : Nat} (hx : s.hub.fills.find? (fun y => y.id == x.id) = some x)
    (hsk : x.slot = sk) (hst : (s.slot sk).state = .line) (hf : (s.slot sk).frame = some fk) {t : TrapRec}
    (ht : (s.lineBytes x).2 = .trap t) (hk : s.SameFetch (s.lineBytes x).1) :
    ∃ u : State, exec (.istoreFill x.id) s = .next (u.trap t) ∧ u.cur.sk = sk ∧ u.cur.fk = fk ∧ u.cur.bpc = (s.frame fk).pc ∧
      u.cur.pre = s.frame fk ∧ u.clusters = s.clusters := by
  subst hsk
  have hfr : ((s.lineBytes x).1.endFill x).frame fk = s.frame fk := by
    have h1 : ((s.lineBytes x).1.endFill x).frame fk = (s.lineBytes x).1.frame fk := rfl
    rw [h1]
    simp [State.frame, hk.frames]
  exact ⟨_, (exec_istoreFill hx hst hf).1 t ht, rfl, rfl, congrArg Frame.pc hfr, hfr, hk.clusters⟩

/-- The fill of a sound device line. -/
theorem State.lineBytes_sound {s : State} {x : Fill} (h : x.done = none) {addr : Nat} {c wr d b : Bool}
    (hw : (s.walk x.tag.toNat x.va false false).2 = .ok addr false c wr d b) (hb : s.bad = []) :
    let w := (s.walk x.tag.toNat x.va false false).1
    s.lineBytes x = ((w.devRead x.tag.toNat addr 64 c).1, .line (w.dev.bytes addr 64)) := by
  intro w
  have hwb : w.bad = [] := (s.afterReads_walk _ _ _ _).bad hb
  have hy : w.deviceSound x.tag addr 64 x.va = (w, true) := by
    simp [State.deviceSound, State.deviceError_of_bad hwb]
  rw [State.lineBytes_device h hw]
  simp only [w, hy, if_true] at *
  rfl

theorem State.lineBytes_lasting {s : State} {x : Fill} (h : x.done = none) {addr key : Nat} {c wr d b : Bool}
    (hw : (s.walk x.tag.toNat x.va false false).2 = .ok addr false c wr d b)
    (he : (s.walk x.tag.toNat x.va false false).1.deviceError x.tag.toNat addr 64 = some (key, true)) :
    s.SameFetch (s.lineBytes x).1 ∧ (s.lineBytes x).2 = .trap { cause := 0x12, detail := 2, eval := natWord x.va } := by
  have hy : (s.walk x.tag.toNat x.va false false).1.deviceSound x.tag addr 64 x.va =
      ((s.walk x.tag.toNat x.va false false).1.lasting (2 ^ 20 + paChannel addr) x.tag x.va (some (addr / 2 ^ 16)), false) := by
    simp only [State.deviceSound, he]
  rw [State.lineBytes_device h hw, hy]
  exact ⟨((s.afterReads_walk _ _ _ _).trans (State.afterReads_lasting _ _ _ _ _)).sameFetch, rfl⟩

/-- A line in host memory whose function needs no translation is asked of the host. -/
theorem State.hostLine_asks {w : State} {x : Fill} {addr : Nat} (hup : w.hub.hostUp = true)
    (hbme : (w.vf (x.tag.toNat + 1)).bme = true) (hats : (w.vf (x.tag.toNat + 1)).ats = false) :
    ∃ (t : State) (r : HostReq), w.hostLine x addr = (t, .wait) ∧ t.hub.hostReqs = w.hub.hostReqs ++ [r] ∧
      r.vf = x.tag.toNat + 1 ∧ r.va = addr ∧ r.len = 64 ∧ r.unit = x.id ∧ r.ats = false ∧ w.SameFetch t := by
  have h1 : w.hostCanWrite x.tag.toNat = true := by simp [State.hostCanWrite, hup, hbme]
  have h2 : w.hostReady x.tag.toNat addr = true := by simp [State.hostReady, hats]
  simp only [State.hostLine, h1, h2, Bool.not_true, Bool.false_eq_true, if_false, if_true]
  exact ⟨_, _, rfl, rfl, rfl, rfl, rfl, rfl, rfl, rfl, rfl, rfl⟩

theorem State.hostLine_refused {w : State} {x : Fill} {addr : Nat} (h : w.hub.hostUp = false ∨ (w.vf (x.tag.toNat + 1)).bme = false) :
    w.hostLine x addr = (w, .trap (fetchPage x.va 6)) := by
  have h1 : w.hostCanWrite x.tag.toNat = false := by
    rcases h with h | h <;> simp [State.hostCanWrite, h]
  simp [State.hostLine, h1]

end Sys2Proof.Machine

namespace Sys2Proof.Machine

/-! ## Settling O46 -/

/-- A miss sends the line's fill, and its thread waits. -/
theorem State.missLine_fills (s : State) (sk fk va : Nat) :
    ∃ (t : State) (x : Fill), (s.begin sk fk).missLine sk fk va = t ∧ t.hub.fills = s.hub.fills ++ [x] ∧ x.va = va ∧
      x.tag = s.frameTag fk ∧ x.epoch = s.frameEpoch fk ∧ x.slot = sk ∧ (t.slot sk).state = .line ∧
      (∀ k : Nat, t.frame k = s.frame k) ∧ t.cur.stopped = true ∧ ∃ n : Nat, ⟨n, .istoreFill x.id⟩ ∈ t.agenda := by
  refine ⟨_, ⟨s.nextId, istoreOf fk, va, s.frameTag fk, s.frameEpoch fk, sk, none⟩, rfl, rfl, rfl, rfl, rfl, rfl, ?_, fun _ => rfl, rfl,
    _, List.mem_append_right _ (List.mem_singleton_self _)⟩
  show ((State.updSlot _ sk (fun r => { r with state := .line })).slot sk).state = _
  rw [State.slot_updSlot, if_pos rfl]

/-- The bundle of a line that is held and sound is issued from the state with the next bundle's address. -/
def State.atBundle (s : State) (sk fk : Nat) (l : Line) (b : Bundle) : State :=
  { s.fetched sk fk with cur := { (s.fetched sk fk).cur with npc := nextBundle (s.frame fk).pc l.heads b.len, rx := b.ops.any (·.rx), sw := b.sw } }

theorem State.issueLine_illegal {s : State} {sk fk : Nat} {l : Line} {e : Nat × Nat}
    (h : fetchBundle l ((s.frame fk).pc.toNat % 32) (isGeyserFrame fk) = .error e) :
    (s.fetched sk fk).issueLine fk l = (s.fetched sk fk).trap { cause := 0x01, eval := illegalEval e.2 e.1 } := by
  have hb : (s.fetched sk fk).cur.bpc = (s.frame fk).pc := by rw [(s.fetched_atBundle sk fk).cur]; rfl
  unfold State.issueLine
  simp only [hb, codeHead, h, State.illegal]

theorem State.issueLine_bundle {s : State} {sk fk : Nat} {l : Line} {b : Bundle}
    (h : fetchBundle l ((s.frame fk).pc.toNat % 32) (isGeyserFrame fk) = .ok b) :
    (s.fetched sk fk).issueLine fk l = (s.atBundle sk fk l b).issueBundle b := by
  have hb : (s.fetched sk fk).cur.bpc = (s.frame fk).pc := by rw [(s.fetched_atBundle sk fk).cur]; rfl
  unfold State.issueLine
  simp only [hb, codeHead, h, State.atBundle]

theorem State.atBundle_ready (s : State) (sk fk : Nat) (l : Line) (b : Bundle) :
    let u := s.atBundle sk fk l b
    (u.cur.sk = sk ∧ u.cur.fk = fk ∧ u.cur.bpc = (s.frame fk).pc ∧ u.cur.pre = s.frame fk ∧ u.cur.slot = s.slot sk) ∧
      u.cur.npc = nextBundle (s.frame fk).pc l.heads b.len ∧ u.cur.sw = b.sw ∧ u.cur.stopped = false ∧
      (∀ k : Nat, u.frame k = s.frame k) ∧ u.mems = s.mems := by
  intro u
  have h := s.fetched_atBundle sk fk
  have hst : u.cur.stopped = (s.fetched sk fk).cur.stopped := rfl
  refine ⟨h.ready, rfl, rfl, ?_, h.frame, h.mems⟩
  rw [hst, h.cur]
  rfl

/-- A bundle of a sound line: its first trap, its stall, or its operations from the next bundle's pc. -/
theorem State.issueBundle_atBundle {s : State} {sk fk : Nat} {l : Line} {b : Bundle} {u : State} (hu : u = s.atBundle sk fk l b) :
    (∀ x : Nat × State, firstTrap (b.ops.map (opTraps u)).flatten = some x → u.issueBundle b = x.2) ∧
    (firstTrap (b.ops.map (opTraps u)).flatten = none →
      ((u.liveOps b.ops).any (fun i => fateOf i (trial u i) == .stall) = true →
        ((u.issueBundle b).frame fk).pc = (s.frame fk).pc ∧ (u.issueBundle b).cur.stopped = true) ∧
      ((u.liveOps b.ops).any (fun i => fateOf i (trial u i) == .stall) = false →
        (∀ i ∈ u.liveOps b.ops, acquires i = false ∧ fateOf i (trial u i) = .go ∧ leaves i = false) → (s.frame fk).waits = [] →
        (u.issueBundle b).cur.ops = u.liveOps b.ops ∧ (u.issueBundle b).cur.stopped = false ∧
        ((u.issueBundle b).frame fk).pc = nextBundle (s.frame fk).pc l.heads b.len ∧
        SameRegsBut [] (s.frame fk) ((u.issueBundle b).frame fk) ∧ SameControl (s.frame fk) ((u.issueBundle b).frame fk) ∧
        SameMemory s (u.issueBundle b))) := by
  obtain ⟨⟨-, hfk, hbpc, -, -⟩, hnpc, -, hstop, hfr, hm⟩ := s.atBundle_ready sk fk l b
  rw [← hu] at hfk hbpc hnpc hstop hfr hm
  refine ⟨fun x hx => State.issueBundle_traps hx, fun hn => ⟨fun hs => ?_, fun hs hi hw => ?_⟩⟩
  · rw [State.issueBundle_stalls hn hs]
    have hp : (u.retry.frame fk).pc = u.cur.bpc := by
      have h1 : u.retry.frame fk = (u.upd (fun f => { f with pc := u.cur.bpc })).frame fk := rfl
      rw [h1, State.frame_upd, if_pos hfk.symm]
    exact ⟨hp.trans hbpc, rfl⟩
  · have hcf : u.cf = s.frame fk := by rw [State.cf, hfk, hfr]
    rw [State.issueBundle_goes hn hs (fun i h => ⟨(hi i h).1, (hi i h).2.1⟩) (by rw [hcf]; exact hw) hstop]
    obtain ⟨h1, h2, h3, h4, h5, h6⟩ := u.startOps_starts (is := u.liveOps b.ops) (fun i h => (hi i h).2.2)
    rw [hfk] at h3 h4 h5
    rw [hfr] at h4 h5
    exact ⟨h1, h2.trans hstop, h3.trans hnpc, h4, h5, h6.of_mems_left hm⟩

theorem State.addLine_endFill {s u : State} {x : Fill} (hc : u.clusters = s.clusters) (hlen : (s.cluster x.cluster).icache.length < 2048)
    (l : ILine) :
    (((u.endFill x).updCluster x.cluster (fun c => { c with icache := addLine c.icache l })).cluster x.cluster).icache =
      (s.cluster x.cluster).icache ++ [l] := by
  have hcl : (u.endFill x).cluster x.cluster = s.cluster x.cluster := by
    show u.cluster x.cluster = _
    simp only [State.cluster, hc]
  rw [State.cluster_updCluster, if_pos rfl, hcl]
  show addLine _ l = _
  rw [addLine, if_pos hlen]

/-- A sound device line enters the store, and its thread is back in the rotation. -/
theorem fill_enters {s : State} {x : Fill} {fk : Nat} (hx : s.hub.fills.find? (fun y => y.id == x.id) = some x)
    (hst : (s.slot x.slot).state = .line) (hf : (s.slot x.slot).frame = some fk) {bs : List Byte} {u : State}
    (hl : s.lineBytes x = (u, .line bs)) (hu : s.SameFetch u) (hlen : (s.cluster x.cluster).icache.length < 2048) :
    ∃ t : State, exec (.istoreFill x.id) s = .next t ∧ (t.slot x.slot).state = .run ∧ (∀ k : Nat, t.frame k = s.frame k) ∧
      (t.cluster x.cluster).icache = (s.cluster x.cluster).icache ++ [⟨x.va, x.tag, x.epoch, BitVec.ofNat 512 (bytesNat bs)⟩] ∧
      t.dev = u.dev := by
  have he := (exec_istoreFill hx hst hf).2.2 bs (congrArg Prod.snd hl)
  rw [hl] at he
  refine ⟨_, he, ?_, fun k => ?_, State.addLine_endFill hu.clusters hlen _, rfl⟩
  · show ((State.updSlot _ x.slot (fun r => { r with state := .run })).slot x.slot).state = _
    rw [State.slot_updSlot, if_pos rfl]
  · show u.frame k = _
    simp only [State.frame, hu.frames]

theorem State.devRead_dev (s : State) (tag pa n : Nat) (c : Bool) : (s.devRead tag pa n c).1.dev = s.dev := by
  obtain ⟨-, -, h, -⟩ := Mems.mk.inj (s.devRead_mems tag pa n c)
  exact h

/-- Settles O46: the fetch by whether its line is held, sound and well formed; then the bundle's trap, stall or issue; then the fill
by what its walk, which leaves threads and instruction stores (`State.afterReads_walk`), has found. -/
theorem fetching : Obligations.Fetching := by
  unfold Obligations.Fetching
  intro s sk fk hsf f pc q va mine ready
  have hva : codeLine pc = va := codeLine_eq pc
  have hq : istoreOf fk = q := istoreOf_eq fk
  have hline : (s.begin sk fk).storedLine fk (codeLine pc) = ((s.cluster q).icache.find? mine).map (·.data) := by
    rw [hva, ← hq]
    rfl
  rw [← hq]
  rw [← hq] at hline
  refine ⟨fun hl => ?_, fun l hl he => ?_, fun l hl he => ⟨fun e hb => ?_, fun b hb => ?_⟩, fun x hx hsk hst => ?_⟩
  · rw [hl] at hline
    obtain ⟨t, x, ht, h⟩ := s.missLine_fills sk fk va
    exact ⟨t, x, (exec_bundleFetch_miss hsf hline).trans (congrArg _ (hva ▸ ht)), h⟩
  · rw [hl] at hline
    obtain ⟨u, hu, ha⟩ := s.lineEcc_traps sk fk
    refine ⟨u, ?_, ha.ready, ha.frame⟩
    rw [exec_bundleFetch_lasting hsf hline he, hu]
    exact congrArg (fun v => Host.Outcome.next (u.trap { cause := 0x12, detail := 2, eval := natWord v })) hva
  · rw [hl] at hline
    refine ⟨s.fetched sk fk, ?_, (s.fetched_atBundle sk fk).ready, (s.fetched_atBundle sk fk).frame⟩
    rw [exec_bundleFetch_line hsf hline he, State.issueLine_illegal hb]
  · rw [hl] at hline
    have hnext : nextBundle pc l.data.heads b.len = (if pc.toNat % 32 + b.len < l.data.heads then natWord (va + pc.toNat % 32 + b.len)
        else natWord ((va + 64) % 2 ^ 56)) := by
      unfold nextBundle codeHead
      rw [hva, Nat.add_assoc]
    have hexec : exec (.bundleFetch sk) s = .next ((s.atBundle sk fk l.data b).issueBundle b) := by
      rw [exec_bundleFetch_line hsf hline he, State.issueLine_bundle hb]
    obtain ⟨hr, hnpc, hsw, -, hfr, -⟩ := s.atBundle_ready sk fk l.data b
    obtain ⟨htrap, hrest⟩ := State.issueBundle_atBundle (u := s.atBundle sk fk l.data b) rfl
    refine ⟨s.atBundle sk fk l.data b, hr, hnpc.trans hnext, hsw, hfr, fun x hx => ?_, fun hn => ?_⟩
    · rw [hexec, htrap x hx]
    · obtain ⟨hstall, hgo⟩ := hrest hn
      refine ⟨fun hs => ⟨_, hexec, hstall hs⟩, fun hs hi hw => ?_⟩
      obtain ⟨h1, h2, h3, h4⟩ := hgo hs hi hw
      exact ⟨_, hexec, h1, h2, h3.trans hnext, h4⟩
  · intro w fails
    have hst' : (s.slot x.slot).state = .line := by rw [hsk]; exact hst
    have hsf' : (s.slot x.slot).frame = some fk := by rw [hsk]; exact hsf
    have hw : s.AfterReads w.1 := s.afterReads_walk _ _ _ _
    have hslot (t : State) (h : s.SameFetch t) : (t.slot sk).state = .line := by
      rw [← hst]; simp [State.slot, h.slots]
    refine ⟨fun bs code hd hc => ?_, fun hd addr key c wr d b hok he => ?_, fun hd he => ?_, fun hd addr c wr d b hok hbad hlen => ?_,
      fun hd addr c wr d b hok => ?_, fun hd code hc => ?_⟩
    · have hl := State.lineBytes_done (s := s) hd hc
      exact fill_traps hx hsk hst hsf (congrArg Prod.snd hl) (by rw [hl]; exact ⟨rfl, rfl, rfl⟩)
    · obtain ⟨hk, ht⟩ := State.lineBytes_lasting hd hok he
      exact fill_traps hx hsk hst hsf ht hk
    · have hl := State.lineBytes_ecc hd he
      refine ⟨w.1, ?_, hslot _ hw.sameFetch⟩
      rw [(exec_istoreFill hx hst' hsf').2.1 (congrArg Prod.snd hl), hl]
    · have hl := State.lineBytes_sound hd hok hbad
      obtain ⟨t, ht, hr, hfr, hc, hdev⟩ := fill_enters hx hst' hsf' hl
        (hw.trans (State.afterReads_devRead w.1 x.tag.toNat addr 64 c)).sameFetch hlen
      exact ⟨t, ht, hsk ▸ hr, hfr, hc, hdev.trans (State.devRead_dev _ _ _ _ _)⟩
    · intro v
      have hl := State.lineBytes_host hd hok
      refine ⟨fun h => ?_, fun hup hbme hats => ?_⟩
      · rw [State.hostLine_refused h] at hl
        exact fill_traps hx hsk hst hsf (congrArg Prod.snd hl) (by rw [hl]; exact hw.sameFetch)
      · obtain ⟨t, r, hh, hreq, h1, h2, h3, h4, h5, hk⟩ := State.hostLine_asks (x := x) (addr := addr) hup hbme hats
        rw [hh] at hl
        have hkt := hw.sameFetch.trans hk
        refine ⟨t, r, ?_, hreq, h1, h2, h3, h4, h5, hslot t hkt, hkt.clusters⟩
        rw [(exec_istoreFill hx hst' hsf').2.1 (congrArg Prod.snd hl), hl]
    · have hl := State.lineBytes_page hd (w := w.2) rfl (by
        rcases hc with hc | ⟨hc, -⟩
        · exact .inl ⟨code, hc⟩
        · exact .inr hc)
      have hcode : w.2.code = code := by
        rcases hc with hc | ⟨hc, rfl⟩ <;> rw [hc] <;> rfl
      rw [hcode] at hl
      exact fill_traps hx hsk hst hsf (congrArg Prod.snd hl) (by
        rw [hl]; exact hw.sameFetch.trans (State.sameFetch_reportIsol _ _ _ _))

end Sys2Proof.Machine

namespace Sys2Proof.Machine

/-! ## What stands beside a copy's own fields -/

/-- Copies, writes on their way, cores, partitions, the cycle and the network are as before, and nothing leaves the agenda. -/
structure State.Beside (s t : State) : Prop where
  copies : t.copies = s.copies
  late : t.late = s.late
  cores : t.cores = s.cores
  parts : t.parts = s.parts
  cycle : t.cycle = s.cycle
  net : t.net = s.net
  agenda : s.agenda ⊆ t.agenda

theorem State.Beside.refl (s : State) : s.Beside s := ⟨rfl, rfl, rfl, rfl, rfl, rfl, fun _ h => h⟩

theorem State.Beside.trans {s t u : State} (h1 : s.Beside t) (h2 : t.Beside u) : s.Beside u :=
  ⟨h2.copies.trans h1.copies, h2.late.trans h1.late, h2.cores.trans h1.cores, h2.parts.trans h1.parts, h2.cycle.trans h1.cycle,
    h2.net.trans h1.net, fun _ h => h2.agenda (h1.agenda h)⟩

theorem State.AfterReads.beside {s t : State} (h : s.AfterReads t) : s.Beside t := by
  have ha := h.agenda
  obtain ⟨_, _, _, _, _, _, _, rfl⟩ := h.shape
  exact ⟨rfl, rfl, rfl, rfl, rfl, rfl, ha⟩

theorem State.beside_later (s : State) (n : Nat) (i : Instr) : s.Beside (s.later n i) :=
  ⟨rfl, rfl, rfl, rfl, rfl, rfl, List.subset_append_left _ _⟩

theorem State.mem_later (s : State) (n : Nat) (i : Instr) : ⟨s.cycle + n, i⟩ ∈ (s.later n i).agenda :=
  List.mem_append_right _ (List.mem_singleton_self _)

theorem State.beside_fresh (s : State) : s.Beside s.fresh.2 := ⟨rfl, rfl, rfl, rfl, rfl, rfl, fun _ h => h⟩

theorem State.beside_updHub (s : State) (h : Hub → Hub) : s.Beside (s.updHub h) := ⟨rfl, rfl, rfl, rfl, rfl, rfl, fun _ h => h⟩

theorem State.beside_updGeyser (s : State) (ch : Nat) (h : Geyser → Geyser) : s.Beside (s.updGeyser ch h) :=
  ⟨rfl, rfl, rfl, rfl, rfl, rfl, fun _ h => h⟩

theorem State.beside_updFrame (s : State) (fk : Nat) (h : Frame → Frame) : s.Beside (s.updFrame fk h) :=
  ⟨rfl, rfl, rfl, rfl, rfl, rfl, fun _ h => h⟩

theorem State.beside_refuse (s : State) (agent : Nat) (tag : BitVec 10) : s.Beside (s.refuse agent tag) := by
  obtain ⟨n, b, hc⟩ : ∃ n b, s.hub.refusals.getD (agent * 1024 + tag.toNat) (0, false) = (n, b) := ⟨_, _, rfl⟩
  cases b with
  | true => rw [State.refuse_again hc]; exact s.beside_updHub _
  | false =>
    obtain ⟨m, -, -, h⟩ := State.refuse_first hc
    rw [h]
    exact (s.beside_updHub _).trans (State.afterReads_trapMsg _ _ _).beside

theorem State.beside_reportIsol (s : State) (agent tag : Nat) (w : WalkEnd) : s.Beside (s.reportIsol agent tag w) := by
  unfold State.reportIsol
  split
  · exact s.beside_refuse _ _
  · exact .refl s

theorem State.beside_foldl {α : Type} {f : State → α → State} (hf : ∀ (s : State) x, s.Beside (f s x)) (l : List α) (s : State) :
    s.Beside (l.foldl f s) := by
  induction l generalizing s with
  | nil => exact .refl s
  | cons x l ih => exact (hf s x).trans (ih _)

theorem State.beside_refuseWords (s : State) (k0 : Nat) (tag : BitVec 10) (epoch : BitVec 6) (ptr : Word) (off n : Nat) :
    s.Beside (s.refuseWords k0 tag epoch ptr off n) := by
  unfold State.refuseWords
  split
  · exact .refl s
  · exact State.beside_foldl (fun s a => s.beside_refuse a tag) _ s

theorem State.beside_noteFlow (s : State) (fk src dst : Nat) (tag : BitVec 10) : s.Beside (s.noteFlow fk src dst tag) := by
  unfold State.noteFlow
  split
  · exact s.beside_updFrame _ _
  · exact .refl s

theorem State.beside_charge (s : State) (fk cls n : Nat) : s.Beside (s.charge fk cls n) :=
  ⟨rfl, rfl, rfl, rfl, rfl, rfl, fun _ h => h⟩

theorem State.beside_chargeCopy (s : State) (c : Copy) (n : Nat) (device : Bool) : s.Beside (s.chargeCopy c n device) := by
  unfold State.chargeCopy
  dsimp only
  split
  · exact .refl s
  · split
    · exact (s.beside_charge _ _ _).trans (State.beside_charge _ _ _ _)
    · exact s.beside_charge _ _ _

theorem State.beside_useEntry (s : State) (ch id : Nat) (up : Bool) : s.Beside (s.useEntry ch id up) :=
  ⟨rfl, rfl, rfl, rfl, rfl, rfl, fun _ h => h⟩

theorem State.beside_useAts (s : State) (id : Nat) (up : Bool) : s.Beside (s.useAts id up) :=
  ⟨rfl, rfl, rfl, rfl, rfl, rfl, fun _ h => h⟩

theorem State.beside_noteBurst (s : State) (ch : Nat) (tag : BitVec 10) (va len : Nat) : s.Beside (s.noteBurst ch tag va len) :=
  (s.beside_updGeyser _ _).trans (State.beside_later _ _ _)

theorem State.beside_translate (s : State) (ch tag va : Nat) (write : Bool) : s.Beside (s.translate ch tag va write).1 := by
  have hw := (s.afterReads_walk tag va write false).beside
  unfold State.translate
  split
  · extract_lets off
    split
    · exact .refl s
    · dsimp only
      exact s.beside_reportIsol _ _ _
  · extract_lets r
    split
    · extract_lets _ _
      split
      · dsimp only
        exact hw.trans ((State.beside_fresh _).trans (State.beside_updGeyser _ _ _))
      · exact hw
    · dsimp only
      exact hw.trans (State.beside_reportIsol _ _ _ _)

/-! ## Updates of a copy -/

theorem State.updCopy_eq {s : State} {id : Nat} {c : Copy} (h : s.copies.get? id = some c) (g : Copy → Copy) :
    s.updCopy id g = { s with copies := s.copies.put id (g c) } := by
  simp only [State.updCopy, h]

/-- From s to t the copy of an identifier becomes d; beside the copies nothing has changed. -/
structure State.Updates (s : State) (id : Nat) (d : Copy) (t : State) : Prop where
  copy : t.copies.get? id = some d
  late : t.late = s.late
  cores : t.cores = s.cores
  parts : t.parts = s.parts
  cycle : t.cycle = s.cycle
  net : t.net = s.net
  agenda : s.agenda ⊆ t.agenda

theorem State.Updates.beside {s t u : State} {id : Nat} {d : Copy} (h1 : s.Updates id d t) (h2 : t.Beside u) : s.Updates id d u :=
  ⟨by rw [h2.copies]; exact h1.copy, h2.late.trans h1.late, h2.cores.trans h1.cores, h2.parts.trans h1.parts,
    h2.cycle.trans h1.cycle, h2.net.trans h1.net, fun e h => h2.agenda (h1.agenda h)⟩

theorem State.Beside.updates {s t : State} {id : Nat} {c : Copy} (h : s.Beside t) (hc : s.copies.get? id = some c) :
    s.Updates id c t :=
  ⟨by rw [h.copies]; exact hc, h.late, h.cores, h.parts, h.cycle, h.net, h.agenda⟩

theorem State.Updates.upd {s t : State} {id : Nat} {d : Copy} (h : s.Updates id d t) (g : Copy → Copy) :
    s.Updates id (g d) (t.updCopy id g) := by
  rw [State.updCopy_eq h.copy]
  exact ⟨by simp [NMap.get?_put], h.late, h.cores, h.parts, h.cycle, h.net, h.agenda⟩

/-- A copy whose last burst has ended completes; its rows, its bursts and its counts stay. -/
theorem State.Updates.copyDrained {s t : State} {id : Nat} {d : Copy} (h : s.Updates id d t) :
    ∃ e : Copy, s.Updates id e (t.copyDrained id) ∧
      (e = d ∨ e = { d with ended := true, status := some (if d.cancelled then 7 else d.status.getD 0) }) := by
  unfold State.copyDrained State.copy?
  rw [h.copy]
  dsimp only
  split
  · have hl (p : Prop) [Decidable p] (g : Copy → Copy) (i j : Instr) :
        s.Updates id (g d) (if p then (t.updCopy id g).later 1 i else (t.updCopy id g).later 1 j) := by
      split
      · exact (h.upd g).beside (State.beside_later _ _ _)
      · exact (h.upd g).beside (State.beside_later _ _ _)
    exact ⟨_, hl _ (fun c => { c with ended := true, status := some (if c.cancelled then 7 else c.status.getD 0) }) _ _, .inr rfl⟩
  · exact ⟨d, h, .inl rfl⟩

/-- A final outcome other than OK is the copy's status, if it has none. -/
theorem State.Updates.failCopy {s t : State} {id : Nat} {d : Copy} (h : s.Updates id d t) (hc : d.cancelled = false) (code : Nat) :
    ∃ e : Copy, s.Updates id e (t.failCopy id code) ∧ e.status = some (d.status.getD (BitVec.ofNat 8 code)) ∧ e.rows = d.rows ∧
      e.bursts = d.bursts ∧ e.dead = d.dead ∧ e.bytes = d.bytes := by
  obtain ⟨e, he, hd⟩ := (h.upd (fun c => { c with status := some (c.status.getD (BitVec.ofNat 8 code)), stalled := none })).copyDrained
  refine ⟨e, he, ?_⟩
  rcases hd with rfl | rfl
  · exact ⟨rfl, rfl, rfl, rfl, rfl⟩
  · refine ⟨?_, rfl, rfl, rfl, rfl⟩
    simp [hc]

end Sys2Proof.Machine

namespace Sys2Proof.Machine

/-! ## The rows of a copy (R108, R110) -/

theorem rangeFrom_eq (a n : Nat) : rangeFrom a n = List.range' a n := by
  induction n generalizing a with
  | zero => rfl
  | succ n ih => rw [rangeFrom, ih, List.range'_succ]

theorem rangeFrom_zero (n : Nat) : rangeFrom 0 n = List.range n := by
  rw [rangeFrom_eq, List.range_eq_range']

/-- The rows that a mask selects among those from r, numbered from j in order. -/
theorem mem_maskRows (m r j n x y : Nat) :
    (x, y) ∈ maskRows m r j n ↔ r ≤ x ∧ x < r + n ∧ m.testBit x = true ∧
      y = j + ((List.range' r (x - r)).filter (fun i => m.testBit i)).length := by
  induction n generalizing r j with
  | zero =>
    simp only [maskRows, List.not_mem_nil, false_iff]
    omega
  | succ n ih =>
    have hstep (h : r < x) : (List.range' r (x - r)).filter (fun i => m.testBit i) =
        (if m.testBit r then [r] else []) ++ (List.range' (r + 1) (x - (r + 1))).filter (fun i => m.testBit i) := by
      have hx : x - r = (x - (r + 1)) + 1 := by omega
      rw [hx, List.range'_succ, List.filter_cons]
      split <;> rfl
    by_cases hr : m.testBit r = true
    · simp only [maskRows, hr, if_true, List.mem_cons, Prod.mk.injEq, ih]
      constructor
      · rintro (⟨rfl, rfl⟩ | ⟨h1, h2, h3, rfl⟩)
        · simp [hr]
        · refine ⟨by omega, by omega, h3, ?_⟩
          rw [hstep (by omega), if_pos hr, List.length_append]
          simp only [List.length_singleton]
          omega
      · rintro ⟨h1, h2, h3, rfl⟩
        rcases Nat.eq_or_lt_of_le h1 with rfl | h
        · exact .inl ⟨rfl, by simp⟩
        · refine .inr ⟨by omega, by omega, h3, ?_⟩
          rw [hstep h, if_pos hr, List.length_append]
          simp only [List.length_singleton]
          omega
    · have hrf : ¬ m.testBit r = true := hr
      simp only [maskRows, if_neg hrf, ih]
      constructor
      · rintro ⟨h1, h2, h3, rfl⟩
        refine ⟨by omega, by omega, h3, ?_⟩
        rw [hstep (by omega), if_neg hrf, List.nil_append]
      · rintro ⟨h1, h2, h3, rfl⟩
        have h : r < x := by
          rcases Nat.eq_or_lt_of_le h1 with rfl | h
          · exact absurd h3 hrf
          · exact h
        refine ⟨by omega, by omega, h3, ?_⟩
        rw [hstep h, if_neg hrf, List.nil_append]

theorem Copy.masked_iff (c : Copy) : c.masked = true ↔ shType c.shape = 1 ∨ shType c.shape = 2 := by
  simp [Copy.masked]

theorem copyMask_of_unmasked {c : Copy} (s : State) (h : c.masked = false) : copyMask s c = ([], false, false) := by
  simp [copyMask, h]

theorem copyMask_of_masked {c : Copy} (s : State) (h : c.masked = true) :
    copyMask s c = engineRead s c.core c.tag c.epoch c.mask (scratchOff c.mask) ((shRows c.shape + 7) / 8) := by
  simp [copyMask, h]

theorem copyRows_of_unmasked {c : Copy} (s : State) (h : c.masked = false) :
    copyRows s c = (List.range (shRows c.shape)).map (fun r => (r, r)) := by
  simp [copyRows, h, rangeFrom_zero]

theorem mem_copyRows {c : Copy} (s : State) (h : c.masked = true) (r j : Nat) :
    (r, j) ∈ copyRows s c ↔ r < shRows c.shape ∧ (bytesNat (copyMask s c).1).testBit r = true ∧
      j = ((List.range r).filter (fun i => (bytesNat (copyMask s c).1).testBit i)).length := by
  simp only [copyRows, h, if_true, mem_maskRows, Nat.zero_le, true_and, Nat.zero_add, Nat.sub_zero, List.range_eq_range']

/-! ## A command at its Geyser (R108, R110, R116, R429) -/

theorem poolError_of_bad {s : State} (h : s.bad = []) (k0 : Nat) (tag : BitVec 10) (epoch : BitVec 6) (ptr : Word) (off n : Nat) :
    poolError s k0 tag epoch ptr off n = none := State.firstError_of_bad h _

section
variable {s : State} {id : Nat} {c : Copy} (hc : s.copies.get? id = some c)
include hc

theorem copyCommand_waits (h : ∃ a ∈ c.after, a ∈ s.unperf) : exec (.copyCommand id) s = .next (s.later 8 (.copyCommand id)) := by
  have hany : c.after.any s.unperf.contains = true := by simpa using h
  have he : exec (.copyCommand id) s = execCopyCommand id s := rfl
  rw [he]
  simp only [execCopyCommand, State.copy?, hc, hany, if_true]
  rfl

variable (hp : c.purpose = .thread) (h : ∀ a ∈ c.after, a ∉ s.unperf)
include hp h

/-- A released command knows its rows, and marks a mask in a gap or refused. -/
theorem copyCommand_goes (hm : c.masked = false ∨ s.bad = []) :
    ∃ (t : State) (full : Nat), exec (.copyCommand id) s = .next t ∧ t.mems = s.mems ∧
      s.Updates id { c with rows := some (if shRowb c.shape == 0 then [] else copyRows s c), fullRows := full,
                            gap := c.gap || (copyMask s c).2.1, refused := c.refused || (copyMask s c).2.2 } t ∧
      ⟨s.cycle + 1, .burstAdmission id⟩ ∈ t.agenda := by
  have hany : c.after.any s.unperf.contains = false := by simpa using h
  have hpush : c.isPush = false := by simp [Copy.isPush, hp]
  have herr : (if c.masked then poolError s c.core c.tag c.epoch c.mask (scratchOff c.mask) ((shRows c.shape + 7) / 8) else none) =
      none := by
    rcases hm with hm | hb
    · simp [hm]
    · simp [poolError_of_bad hb]
  let s1 := if c.masked then s.refuseWords c.core c.tag c.epoch c.mask (scratchOff c.mask) ((shRows c.shape + 7) / 8) else s
  have hs1 : s.Beside s1 := by
    simp only [s1]
    split
    · exact s.beside_refuseWords _ _ _ _ _ _
    · exact .refl s
  have hm1 : s1.mems = s.mems := by
    simp only [s1]
    split <;> simp
  have he : exec (.copyCommand id) s = .next ((s1.updCopy id (fun c' => { c' with
      rows := some (if shRowb c.shape == 0 then [] else copyRows s c),
      fullRows := if shRowb c.shape == 0 && c.masked then (copyRows s c).length else 0,
      gap := c'.gap || (copyMask s c).2.1, refused := c'.refused || (copyMask s c).2.2 })).later 1 (.burstAdmission id)) := by
    show execCopyCommand id s = _
    simp only [execCopyCommand, State.copy?, hc, hany, hpush, herr, Bool.false_eq_true, if_false]
    rfl
  have hu := (hs1.updates hc).upd (fun c' => { c' with
    rows := some (if shRowb c.shape == 0 then [] else copyRows s c),
    fullRows := if shRowb c.shape == 0 && c.masked then (copyRows s c).length else 0,
    gap := c'.gap || (copyMask s c).2.1, refused := c'.refused || (copyMask s c).2.2 })
  refine ⟨_, _, he, by simp [hm1], hu.beside (State.beside_later _ _ _), ?_⟩
  rw [← hu.cycle]
  exact State.mem_later _ _ _

/-- A lasting error of the mask is reported, and the copy stops. -/
theorem copyCommand_lasting (hm : c.masked = true) {key : Nat}
    (he : poolError s c.core c.tag c.epoch c.mask (scratchOff c.mask) ((shRows c.shape + 7) / 8) = some (key, true)) :
    exec (.copyCommand id) s = .next (s.lasting (keyEnd key) c.tag (keyOffset key)) := by
  have hany : c.after.any s.unperf.contains = false := by simpa using h
  have hpush : c.isPush = false := by simp [Copy.isPush, hp]
  show execCopyCommand id s = _
  simp only [execCopyCommand, State.copy?, hc, hany, hpush, hm, he, Bool.false_eq_true, if_false, if_true]

end

/-- A lasting error is reported by a trap message of kind 4. -/
theorem State.lasting_reports (s : State) (e : Nat) (tag : BitVec 10) (va : Nat) (page : Option Nat) :
    ∃ y ∈ (s.lasting e tag va page).hub.beacons, y.kind = 4 ∧ y.cause = 0x12 ∧ y.part = tag ∧ y.va = va ∧ y.page = page := by
  unfold State.lasting
  extract_lets die x x1 m
  exact ⟨_, List.mem_append_right _ (List.mem_singleton_self _), rfl, rfl, rfl, rfl, rfl⟩

end Sys2Proof.Machine

namespace Sys2Proof.Machine

/-! ## The admission of a burst (R80, R87, R90, R91) -/

/-- A copy past the budget check, its next burst charged. -/
def State.burstCharged (s : State) (id : Nat) (c : Copy) (len : Nat) : State :=
  (s.updGeyser c.channel (fun g => { g with bytes := g.bytes.put c.tag.toNat (g.bytes.getD c.tag.toNat 0 + len) })).updCopy id
    (fun y => { y with charged := true })

theorem State.burstCharged_updates {s : State} {id : Nat} {c : Copy} (hc : s.copies.get? id = some c) (len : Nat) :
    s.Updates id { c with charged := true } (s.burstCharged id c len) :=
  ((s.beside_updGeyser c.channel _).updates hc).upd (fun y => { y with charged := true })

theorem burstAdmission_charges {s : State} {id r j : Nat} {c : Copy} {rest : List (Nat × Nat)} (hc : s.copies.get? id = some c)
    (hrows : c.rows = some ((r, j) :: rest)) (hcan : c.cancelled = false) (hst : c.status = none) (hstall : c.stalled = none)
    (hch : c.charged = false) (hscr : (s.part c.tag.toNat).scrubbing = false)
    (hbud : (s.part c.tag.toNat).budget0.toNat % 2 ^ 32 = 0) :
    exec (.burstAdmission id) s = .next ((s.burstCharged id c (c.nextBurst r j).2).translateBurst id r j (c.nextBurst r j).1
      (c.nextBurst r j).2 c) := by
  have hover : s.overBytes c.channel c.tag.toNat = false := by
    have hn : natBits (s.part c.tag.toNat).budget0.toNat 0 32 = 0 := by rw [natBits, pow_zero, Nat.div_one, hbud]
    simp [State.overBytes, hn]
  show execBurstAdmission id s = _
  simp only [execBurstAdmission, State.copy?, hc, hrows, hcan, hst, hstall, hch, hscr, hover, Option.isSome_none, Bool.or_self,
    Bool.false_eq_true, if_false]
  rfl

theorem translateBurst_of_device {u u2 : State} {id r j va len : Nat} {c : Copy} {e : Except WalkEnd Trans} (hext : ptrTag c.external = 0)
    (ht : u.translate c.channel c.tag.toNat va (!c.isLoad) = (u2, e)) :
    (∀ x, e = .ok x → x.host = false → u.translateBurst id r j va len c = u2.admitBurst id r j va len x c) ∧
    (e = .error .full → u.translateBurst id r j va len c = u2.later 8 (.burstAdmission id)) ∧
    (∀ w, e = .error w → w ≠ .full → w ≠ .ecc → (u.part c.tag.toNat).pageReq = false →
      u.translateBurst id r j va len c = u2.failCopy id w.code) := by
  have h0 : ptrTag c.external ≠ 1 := by omega
  refine ⟨fun x he hx => ?_, fun he => ?_, fun w he hf hecc hpr => ?_⟩ <;> subst he
  · simp only [State.translateBurst, if_neg h0, ht, hx, Bool.false_eq_true, if_false]
  · simp only [State.translateBurst, if_neg h0, ht]
    rfl
  · have hreq : u.canRequestPage c.tag.toNat false = false := by simp [State.canRequestPage, hpr]
    simp only [State.translateBurst, if_neg h0, ht, hreq, Bool.and_false, Bool.false_eq_true, if_false]

theorem State.sendBurst_device (s : State) (id : Nat) (c : Copy) {b : Burst} (h : b.host = false) :
    s.Beside (s.sendBurst id c b) ∧ ∃ m : Nat, ⟨m, .burstComplete id b.id⟩ ∈ (s.sendBurst id c b).agenda := by
  let s1 := if b.host || paChannel b.addr == c.channel then s
    else s.noteFlow c.frame (2 ^ 20 + c.channel) (2 ^ 20 + paChannel b.addr) c.tag
  have hs1 : s.Beside s1 := by
    simp only [s1]
    split
    · exact .refl s
    · exact s.beside_noteFlow _ _ _ _
  have he : s.sendBurst id c b = s1.later (s1.delay (2 ^ 20 + c.channel) (2 ^ 20 + paChannel b.addr) + 8) (.burstComplete id b.id) := by
    simp only [State.sendBurst, s1, h, Bool.false_eq_true, if_false]
  rw [he]
  exact ⟨hs1.trans (State.beside_later _ _ _), _, State.mem_later _ _ _⟩

/-- The burst that a translated place of device memory admits. -/
def State.deviceBurst (s : State) (r j va len : Nat) (x : Trans) (c : Copy) : Burst :=
  { id := s.nextId, row := r, j, off := c.off, len, host := x.host, addr := x.addr, channel := c.channel, entry := x.entry,
    ats := if x.host then s.atsEntry c.tag.toNat x.addr else 0, c := x.c, va }

theorem State.admitBurst_device {s u : State} {id r j va len : Nat} {x : Trans} {c d : Copy} (hu : s.Updates id d u)
    (hx : x.host = false) :
    let b := u.deviceBurst r j va len x c
    let t := u.admitBurst id r j va len x c
    s.Updates id (d.advance b) t ∧ (∃ m : Nat, ⟨m, .burstComplete id b.id⟩ ∈ t.agenda) ∧ ⟨s.cycle + 1, .burstAdmission id⟩ ∈ t.agenda := by
  intro b t
  let s1 := ((u.fresh.2.updCopy id (fun c => c.advance b)).useEntry c.channel x.entry true).useAts b.ats true
  let s2 := s1.noteBurst c.channel c.tag va len
  have h2 : s.Updates id (d.advance b) s2 :=
    ((((hu.beside (State.beside_fresh u)).upd (fun c => c.advance b)).beside (State.beside_useEntry _ _ _ _)).beside
      (State.beside_useAts _ _ _)).beside (State.beside_noteBurst _ _ _ _ _)
  obtain ⟨h3, m, hm⟩ := s2.sendBurst_device id c (b := b) hx
  have ht : t = (s2.sendBurst id c b).later 1 (.burstAdmission id) := by
    obtain ⟨addr, host, cacheable, entry⟩ := x
    cases hx
    rfl
  have hl := (s2.sendBurst id c b).beside_later 1 (.burstAdmission id)
  rw [ht]
  refine ⟨(h2.beside h3).beside hl, ⟨m, hl.agenda hm⟩, ?_⟩
  rw [← (h2.beside h3).cycle]
  exact State.mem_later _ _ _

/-- A burst that is admitted runs to the end of its row or of a 4 KiB page, and is the copy's last (R87). -/
theorem burstAdmission_admits {s : State} {id r j : Nat} {c : Copy} {rest : List (Nat × Nat)} (hc : s.copies.get? id = some c)
    (hrows : c.rows = some ((r, j) :: rest)) {va len : Nat} {u2 : State} {x : Trans}
    (hu : (s.burstCharged id c len).Beside u2) (hx : x.host = false) :
    ∃ (t : State) (d : Copy) (b : Burst), u2.admitBurst id r j va len x c = t ∧ t.copies.get? id = some d ∧
      d.bursts = c.bursts ++ [b] ∧ b.row = r ∧ b.j = j ∧ b.off = c.off ∧ b.len = len ∧ b.moved = 0 ∧ b.addr = x.addr ∧
      b.host = false ∧ b.entry = x.entry ∧ b.c = x.c ∧ b.va = va ∧ d.charged = false ∧
      (d.off, d.rows) = (if c.off + len < shRowb c.shape then (c.off + len, c.rows) else (0, some rest)) ∧
      (∃ m : Nat, ⟨m, .burstComplete id b.id⟩ ∈ t.agenda) ∧ ⟨s.cycle + 1, .burstAdmission id⟩ ∈ t.agenda := by
  obtain ⟨hd, hb, ha⟩ := State.admitBurst_device (r := r) (j := j) (va := va) (len := len) (c := c)
    ((s.burstCharged_updates hc len).beside hu) hx
  refine ⟨_, _, u2.deviceBurst r j va len x c, rfl, hd.copy, ?_, rfl, rfl, rfl, rfl, rfl, rfl, hx, rfl, rfl, rfl, ?_, ?_, hb, ha⟩
  · unfold Copy.advance
    dsimp only
    split <;> rfl
  · unfold Copy.advance
    dsimp only
    split <;> rfl
  · have hl : (u2.deviceBurst r j va len x c).len = len := rfl
    unfold Copy.advance
    dsimp only
    rw [hl]
    split
    · rfl
    · rw [hrows]
      rfl

/-- A failing translation is the copy's status. -/
theorem burstAdmission_fails {s u2 : State} {id : Nat} {c : Copy} {len : Nat} (hc : s.copies.get? id = some c)
    (hu : (s.burstCharged id c len).Beside u2) (hcan : c.cancelled = false) (hst : c.status = none) (code : Nat) :
    ∃ (t : State) (d : Copy), u2.failCopy id code = t ∧ t.copies.get? id = some d ∧
      d.status = some (BitVec.ofNat 8 code) ∧ d.rows = c.rows := by
  obtain ⟨e, he, h1, h2, -⟩ := ((s.burstCharged_updates hc len).beside hu).failCopy hcan code
  refine ⟨_, e, rfl, he.copy, ?_, h2⟩
  rw [h1]
  simp [hst]

end Sys2Proof.Machine

namespace Sys2Proof.Machine

/-! ## Engines at the own window of a core (R18, R21, R27) -/

theorem scratchOff_own {ptr : Word} (h : ptrTag ptr = 0xF0) : scratchOff ptr = ptr.toNat % 2 ^ 17 := by
  have h' : natBits ptr.toNat 56 8 = 0xF0 := h
  simp only [scratchOff, h', if_true]

theorem scratchByte_own {ptr : Word} (h : ptrTag ptr = 0xF0) (s : State) (k off : Nat) :
    scratchByte s k ptr off = some (k, off % 2 ^ 17) := by
  have h' : natBits ptr.toNat 56 8 = 0xF0 := h
  simp only [scratchByte, h', if_true]

/-- The byte that an engine reads at an offset of a core's own window. -/
def State.ownByte (s : State) (k off : Nat) : Byte :=
  if s.inGap k (off % 2 ^ 17) then 0 else s.pool.read (poolKey k (s.reduce k (off % 2 ^ 17)))

theorem engineRead_own {s : State} {k : Nat} {tag : BitVec 10} {epoch : BitVec 6} {ptr : Word} (hp : ptrTag ptr = 0xF0)
    (hk : s.coreOf k tag epoch = true) (off n : Nat) :
    engineRead s k tag epoch ptr off n = ((List.range n).map (fun i => s.ownByte k (off + i)),
      (List.range n).any (fun i => s.inGap k ((off + i) % 2 ^ 17)), false) := by
  induction n generalizing off with
  | zero => rfl
  | succ n ih =>
    have hmap : (List.range (n + 1)).map (fun i => s.ownByte k (off + i)) =
        s.ownByte k off :: (List.range n).map (fun i => s.ownByte k (off + 1 + i)) := by
      rw [List.range_succ_eq_map, List.map_cons, List.map_map]
      simp only [Function.comp_def, Nat.add_zero, Nat.succ_eq_add_one, Nat.add_assoc, Nat.add_comm 1]
    have hany : (List.range (n + 1)).any (fun i => s.inGap k ((off + i) % 2 ^ 17)) =
        (s.inGap k (off % 2 ^ 17) || (List.range n).any (fun i => s.inGap k ((off + 1 + i) % 2 ^ 17))) := by
      rw [List.range_succ_eq_map, List.any_cons, List.any_map]
      simp only [Function.comp_def, Nat.add_zero, Nat.succ_eq_add_one, Nat.add_assoc, Nat.add_comm 1]
    rw [hmap, hany, engineRead, ih, scratchByte_own hp]
    cases hg : s.inGap k (off % 2 ^ 17) <;>
      simp only [hk, hg, State.ownByte, if_true, if_false, Bool.false_eq_true, Bool.true_or, Bool.false_or]

/-- What an engine reads of the own window depends on cores, partitions and the pool alone. -/
theorem engineRead_congr {s t : State} {ptr : Word} (hp : ptrTag ptr = 0xF0) (hc : t.cores = s.cores) (hpt : t.parts = s.parts)
    (hm : t.pool = s.pool) (k : Nat) (tag : BitVec 10) (epoch : BitVec 6) (off n : Nat) :
    engineRead t k tag epoch ptr off n = engineRead s k tag epoch ptr off n := by
  have hcore : t.coreOf k tag epoch = s.coreOf k tag epoch := by simp [State.coreOf, State.core, State.part, hc, hpt]
  have hred (x : Nat) : t.reduce k x = s.reduce k x := State.reduce_of_cores hc k x
  have hS : t.poolS k = s.poolS k := by simp only [State.poolS, State.core, hc]
  have hgap (x : Nat) : t.inGap k x = s.inGap k x := by simp only [State.inGap, hS, hred]
  induction n generalizing off with
  | zero => rfl
  | succ n ih => simp only [engineRead, ih, scratchByte_own hp, hcore, hred, hgap, hm]

theorem engineWrite_flags {s : State} {k : Nat} {tag : BitVec 10} {epoch : BitVec 6} {ptr : Word} (hp : ptrTag ptr = 0xF0)
    (hk : s.coreOf k tag epoch = true) (off : Nat) (bs : List Byte) :
    (engineWrite s k tag epoch ptr off bs).2 = ((List.range bs.length).any (fun i => s.inGap k ((off + i) % 2 ^ 17)), false) := by
  induction bs generalizing s off with
  | nil => rfl
  | cons b bs ih =>
    have hany : (List.range (bs.length + 1)).any (fun i => s.inGap k ((off + i) % 2 ^ 17)) =
        (s.inGap k (off % 2 ^ 17) || (List.range bs.length).any (fun i => s.inGap k ((off + 1 + i) % 2 ^ 17))) := by
      rw [List.range_succ_eq_map, List.any_cons, List.any_map]
      simp only [Function.comp_def, Nat.add_zero, Nat.succ_eq_add_one, Nat.add_assoc, Nat.add_comm 1]
    rw [List.length_cons, hany, engineWrite]
    rw [scratchByte_own hp]
    cases hg : s.inGap k (off % 2 ^ 17) with
    | true => simp only [hk, hg, ih hk, if_true, Bool.true_or]
    | false =>
      simp only [hk, hg, if_true, Bool.false_eq_true, if_false, Bool.false_or]
      exact @ih { s with pool := s.pool.write (poolKey k (s.reduce k (off % 2 ^ 17))) b } hk (off + 1)

/-! ## The place of a burst's bytes (R108, R129) -/

theorem Copy.scratchRow_own {c : Copy} {ptr stride : Word} (hptr : (if c.isLoad then c.dst else c.src) = ptr)
    (hstr : (if c.isLoad then c.dstr else c.sstr) = stride) (hty : shType c.shape ≠ 1) (hp : ptrTag ptr = 0xF0) (j off : Nat) :
    c.scratchRow j off = (ptr, (ptr.toNat + j * stride.toNat + off) % 2 ^ 17) := by
  unfold Copy.scratchRow
  simp only [hptr, hstr, hty, hp, if_true, if_false, scratchOff_own hp, Prod.mk.injEq, true_and]
  generalize j * stride.toNat = x
  omega

theorem Copy.piece_own {c : Copy} {b : Burst} {ptr : Word} {x : Nat} (h : c.scratchRow b.j b.off = (ptr, x % 2 ^ 17)) :
    c.piece b = min (b.len - b.moved) (min (8 - (x + b.moved) % 8) (64 - (b.addr + b.moved) % 64)) := by
  have hx : (x % 2 ^ 17 + b.moved) % 8 = (x + b.moved) % 8 := by omega
  simp only [Copy.piece, h, hx]

theorem Copy.abroad_own {c : Copy} {ptr : Word} (hptr : (if c.isLoad then c.dst else c.src) = ptr) (hp : ptrTag ptr = 0xF0) (s : State) :
    c.abroad s = false := by
  simp [Copy.abroad, hptr, hp]

end Sys2Proof.Machine

namespace Sys2Proof.Machine

/-! ## A burst's turn (R129) -/

theorem State.late_find_none {s : State} {id bid : Nat} (h : ∀ l ∈ s.late, l.id ≠ bid) :
    s.late.find? (fun l => l.id == bid && l.owner == id) = none := by
  simp only [List.find?_eq_none]
  intro l hl
  simp [h l hl]

section
variable {s : State} {id : Nat} {c : Copy} {b : Burst} {rest : List Burst} (hc : s.copies.get? id = some c)
  (hbs : c.bursts = b :: rest)
include hc hbs

/-- A burst that is not the copy's first waits for its turn. -/
theorem burstComplete_later {x : Burst} (hx : x ∈ rest) (hne : x.id ≠ b.id) (hhost : x.host = false)
    (hl : ∀ l ∈ s.late, l.id ≠ x.id) :
    exec (.burstComplete id x.id) s = .next (s.later 8 (.burstComplete id x.id)) := by
  have hany : c.bursts.any (fun y => y.id == x.id && !y.awaited c) = true := by
    rw [hbs, List.any_eq_true]
    exact ⟨x, List.mem_cons_of_mem _ hx, by simp [Burst.awaited, hhost]⟩
  have hne' : b.id ≠ x.id := fun h => hne h.symm
  show execBurstComplete id x.id s = _
  unfold execBurstComplete
  rw [State.late_find_none hl]
  simp only [State.copy?, hc]
  rw [hany, hbs]
  simp only [ne_eq, hne', not_false_eq_true, if_true]
  rfl

variable (hl : ∀ l ∈ s.late, l.id ≠ b.id) (haw : b.awaited c = false)
include hl haw

/-- A burst with HOSTERR, or a device burst behind one, moves nothing. -/
theorem burstComplete_hostErr (h : b.err = true ∨ c.dead = true) : exec (.burstComplete id b.id) s = .next (s.hostErr id c b) := by
  have hb : (b.err || c.dead || (b.host && !c.isLoad && !s.hostCanWrite c.tag.toNat)) = true := by
    rcases h with h | h <;> simp [h]
  show execBurstComplete id b.id s = _
  unfold execBurstComplete
  rw [State.late_find_none hl]
  simp only [State.copy?, hc, hbs, haw, hb, ne_eq, not_true_eq_false, Bool.false_eq_true, if_false, if_true]

variable (herr : b.err = false) (hdead : c.dead = false) (habroad : c.abroad s = false)
  (hhost : b.host = true → c.isLoad = true ∨ s.hostCanWrite c.tag.toNat = true)
include herr hdead habroad hhost

/-- The first burst of a copy moves its next piece, or meets the error of its storage. -/
theorem burstComplete_first :
    (∀ e, s.burstError c b = some e → exec (.burstComplete id b.id) s = .next (s.burstFails id c b e)) ∧
    (s.burstError c b = none → exec (.burstComplete id b.id) s = .next (s.burstPiece id c b)) := by
  have hb : (b.err || c.dead || (b.host && !c.isLoad && !s.hostCanWrite c.tag.toNat)) = false := by
    rw [herr, hdead]
    cases hh : b.host
    · rfl
    · rcases hhost hh with h | h <;> simp [h]
  have he : exec (.burstComplete id b.id) s = execBurstComplete id b.id s := rfl
  rw [he]
  unfold execBurstComplete
  rw [State.late_find_none hl]
  simp only [State.copy?, hc, hbs, haw, hb, habroad, ne_eq, not_true_eq_false, Bool.false_and, Bool.false_eq_true, if_false]
  refine ⟨fun e h => ?_, fun h => ?_⟩ <;> rw [h]

end

/-! ## The parts of a piece -/

theorem State.beside_beginBurst {s : State} {c : Copy} (h : c.abroad s = false) (b : Burst) : s.Beside (s.beginBurst c b) := by
  have h1 (p : Bool) (x : Nat) (w : Word) (y n : Nat) : s.Beside (if p then s else s.refuseWords x c.tag c.epoch w y n) := by
    split
    · exact .refl s
    · exact s.beside_refuseWords _ _ _ _ _ _
  unfold State.beginBurst
  simp only [h, Bool.false_and, Bool.false_eq_true, if_false]
  exact (h1 _ _ _ _ _).trans (State.beside_foldl (fun s k => s.beside_noteFlow _ _ _ _) _ _)

/-- A write that is issued stands at the end of the list, with a step of its own. -/
theorem State.issueLate_issues (t : State) (l : Late) :
    let u := t.issueLate l
    u.copies = t.copies ∧ u.late = t.late ++ [{ l with id := t.nextId }] ∧ u.cycle = t.cycle ∧ t.agenda ⊆ u.agenda ∧
      ⟨t.cycle, .burstComplete l.owner t.nextId⟩ ∈ u.agenda := by
  unfold State.issueLate
  extract_lets r s1
  have h1 : t.Beside s1 := by
    simp only [s1]
    split
    · exact (t.beside_fresh).trans (State.beside_useEntry _ _ _ _)
    · exact t.beside_fresh
  refine ⟨h1.copies, congrArg (· ++ _) h1.late, h1.cycle, fun e he => List.mem_append_left _ (h1.agenda he), ?_⟩
  rw [← h1.cycle]
  exact List.mem_append_right _ (List.mem_singleton_self _)

theorem State.Updates.leaveBurst {s t : State} {id : Nat} {d : Copy} (h : s.Updates id d t) (c : Copy) (b : Burst) :
    s.Updates id { d with bursts := d.bursts.drop 1 } (t.leaveBurst id c b) :=
  ((h.upd (fun c => { c with bursts := c.bursts.drop 1 })).beside (State.beside_useEntry _ _ _ _)).beside (State.beside_useAts _ _ _)

theorem State.beside_nextReturned (s : State) (id : Nat) : s.Beside (s.nextReturned id) := by
  unfold State.nextReturned
  split
  · split
    · exact s.beside_later _ _
    · exact .refl s
  · exact .refl s

/-- The end of a burst counts its bytes and takes it out of the copy. -/
theorem State.Updates.endBurst {s t : State} {id : Nat} {d : Copy} (h : s.Updates id d t) (c : Copy) (b : Burst) :
    ∃ e : Copy, s.Updates id e (t.endBurst id c b) ∧ e.bursts = d.bursts.drop 1 ∧ e.bytes = d.bytes + b.len ∧ e.gap = d.gap := by
  unfold State.endBurst
  extract_lets rowDone s1
  have h1 : s.Updates id _ s1 := h.upd _
  obtain ⟨e, he, hd⟩ := (((h1.leaveBurst c b).beside (State.beside_chargeCopy _ c b.len (!b.host))).beside
    (State.beside_nextReturned _ id)).copyDrained
  refine ⟨e, he, ?_⟩
  rcases hd with rfl | rfl <;> exact ⟨rfl, rfl, rfl⟩

theorem State.Updates.hostErr {s : State} {id : Nat} {c : Copy} (h : s.copies.get? id = some c) (hp : c.isPush = false)
    (hcan : c.cancelled = false) (b : Burst) :
    ∃ e : Copy, s.Updates id e (s.hostErr id c b) ∧ e.bursts = c.bursts.drop 1 ∧ e.dead = true ∧ e.bytes = c.bytes ∧
      e.status = some (if c.dead then c.status.getD 6 else 6) := by
  unfold State.hostErr
  simp only [hp, Bool.false_and, Bool.false_eq_true, if_false]
  have h1 := (((State.Beside.refl s).updates h).leaveBurst c b).upd
    (fun y => { y with status := if y.dead then y.status else some 6, dead := true })
  obtain ⟨e, he, hst, -, hbs, hdead, hbytes⟩ := h1.failCopy hcan 6
  refine ⟨e, he.beside (State.beside_nextReturned _ _), hbs, hdead, hbytes, ?_⟩
  rw [hst]
  cases c.dead <;> rfl

end Sys2Proof.Machine

namespace Sys2Proof.Machine

/-! ## A piece of a burst (R21, R68, R108, R109, R129) -/

/-- A piece of a copy's first burst: its write is on its way. -/
structure PieceIssued (s : State) (id : Nat) (d : Copy) (l : Late) (t : State) : Prop where
  copy : t.copies.get? id = some d
  late : t.late = s.late ++ [l]
  cycle : t.cycle = s.cycle
  agenda : s.agenda ⊆ t.agenda
  event : ⟨s.cycle, .burstComplete id l.id⟩ ∈ t.agenda
  mems : t.mems = s.mems

theorem State.Updates.issueLate {s t : State} {id : Nat} {d : Copy} (h : s.Updates id d t) (hm : t.mems = s.mems) {l : Late}
    (hl : l.owner = id) : PieceIssued s id d { l with id := t.nextId } (t.issueLate l) := by
  obtain ⟨hc, hlate, hcyc, hag, hev⟩ := t.issueLate_issues l
  refine ⟨by rw [hc]; exact h.copy, by rw [hlate, h.late], hcyc.trans h.cycle, fun e he => hag (h.agenda he), ?_, by simp [hm]⟩
  rw [h.cycle, hl] at hev
  exact hev

/-- The last piece ends its burst; another one is followed by the next. -/
theorem PieceIssued.step {s t : State} {id : Nat} {c d : Copy} {l : Late} {b : Burst} {rest : List Burst} {n : Nat}
    (h : PieceIssued s id d l t) (hd : d.bursts = { b with moved := b.moved + n } :: rest) (hbytes : d.bytes = c.bytes)
    (hle : b.moved + n ≤ b.len) :
    let u := if b.len ≤ b.moved + n then t.endBurst id c b else t.later 0 (.burstComplete id b.id)
    ∃ e : Copy, u.copies.get? id = some e ∧ u.mems = s.mems ∧
      (b.moved + n < b.len → e.bursts = { b with moved := b.moved + n } :: rest ∧ e.bytes = c.bytes ∧
        ⟨s.cycle, .burstComplete id b.id⟩ ∈ u.agenda) ∧
      (b.moved + n = b.len → e.bursts = rest ∧ e.bytes = c.bytes + b.len) ∧ e.gap = d.gap ∧ u.late = s.late ++ [l] ∧
      ⟨s.cycle, .burstComplete id l.id⟩ ∈ u.agenda := by
  intro u
  rcases Nat.lt_or_eq_of_le hle with hlt | heq
  · have hu : u = t.later 0 (.burstComplete id b.id) := if_neg (by omega)
    have hm : ⟨t.cycle + 0, .burstComplete id b.id⟩ ∈ u.agenda := hu ▸ t.mem_later 0 _
    rw [h.cycle] at hm
    refine ⟨d, hu ▸ h.copy, hu ▸ h.mems, fun _ => ⟨hd, hbytes, hm⟩, fun h => absurd h (by omega), rfl, hu ▸ h.late, ?_⟩
    rw [hu]
    exact (t.beside_later _ _).agenda h.event
  · have hu : u = t.endBurst id c b := if_pos (by omega)
    obtain ⟨e, he, h1, h2, h3⟩ := ((State.Beside.refl t).updates h.copy).endBurst c b
    rw [hu]
    exact ⟨e, he.copy, by simp [h.mems], fun h => absurd h (by omega), fun _ => ⟨by rw [h1, hd]; rfl, by rw [h2, hbytes]⟩, h3,
      he.late.trans h.late, he.agenda h.event⟩

theorem State.later_foldl_mems {α : Type} (f : α → Instr) (l : List α) (s : State) :
    (l.foldl (fun s x => s.later 1 (f x)) s).mems = s.mems := by
  induction l generalizing s with
  | nil => rfl
  | cons x l ih => rw [List.foldl_cons, ih]; rfl

theorem State.hostStore_stores (s : State) (tag va : Nat) (bs : List Byte) :
    s.Beside (s.hostStore tag va bs) ∧ (s.hostStore tag va bs).pool = s.pool ∧ (s.hostStore tag va bs).dev = s.dev ∧
      (s.hostStore tag va bs).host = s.host.setBytes (hostKey tag va) bs := by
  let s1 : State := { s with host := s.host.setBytes (hostKey tag va) bs }
  have hs1 : s.Beside s1 := ⟨rfl, rfl, rfl, rfl, rfl, rfl, fun _ h => h⟩
  have h : s1.Beside (s.hostStore tag va bs) ∧ (s.hostStore tag va bs).mems = s1.mems := by
    unfold State.hostStore
    split
    · exact ⟨State.beside_foldl (fun s i => s.beside_later 1 _) _ _, State.later_foldl_mems _ _ _⟩
    · exact ⟨.refl _, rfl⟩
  obtain ⟨hp, -, hd, hh, -⟩ := Mems.mk.inj h.2
  exact ⟨hs1.trans h.1, hp, hd, hh⟩

/-- The write of a piece of a load. -/
def Copy.loadLate (c : Copy) (id : Nat) (ptr : Word) (off : Nat) (data : List Byte) : Late :=
  { owner := id, tag := c.tag, epoch := c.epoch, core := c.core, ptr, off, data }

/-- The write of a piece of a store. -/
def Copy.storeLate (c : Copy) (id : Nat) (b : Burst) (data : List Byte) : Late :=
  { owner := id, tag := c.tag, epoch := c.epoch, off := b.addr + b.moved, data, device := true, c := b.c, channel := c.channel,
    entry := b.entry }

section
variable {s : State} {id : Nat} {c : Copy} {b : Burst} {rest : List Burst} {ptr : Word} {x : Nat}
  (hc : s.copies.get? id = some c) (hbs : c.bursts = b :: rest) (hrow : c.scratchRow b.j b.off = (ptr, x % 2 ^ 17))
include hc hbs hrow

/-- The bytes that a piece of a load moves. -/
def State.loadData (s : State) (b : Burst) (n : Nat) : List Byte :=
  if b.host then ((b.got.getD []).drop b.moved).take n else s.dev.bytes (b.addr + b.moved) n

/-- A piece of a load is read at its external side and written to the own pool by a step of its own. -/
theorem loadPiece_issues (hp : ptrTag ptr = 0xF0) (hty : shType c.shape ≠ 3) (hcan : c.cancelled = false) (hk : s.coreOf c.core c.tag c.epoch = true) (n : Nat) :
    ∃ (d : Copy) (l : Late), PieceIssued s id d l (s.loadPiece id c b n) ∧
      d.bursts = { b with moved := b.moved + n } :: rest ∧ d.bytes = c.bytes ∧
      d.gap = (c.gap || (List.range (s.loadData b n).length).any (fun i => s.inGap c.core ((x % 2 ^ 17 + b.moved + i) % 2 ^ 17))) ∧
      l.owner = id ∧ l.tag = c.tag ∧ l.full = false ∧ l.last = false ∧ l.device = false ∧ l.data = s.loadData b n ∧ l.core = c.core ∧
      l.epoch = c.epoch ∧ l.ptr = ptr ∧ l.off = x % 2 ^ 17 + b.moved := by
  let r := if b.host then (s, ((b.got.getD []).drop b.moved).take n) else s.devRead c.tag.toNat (b.addr + b.moved) n b.c
  have hr1 : s.Beside r.1 ∧ r.1.mems = s.mems ∧ r.2 = s.loadData b n := by
    simp only [r, State.loadData]
    cases b.host
    · exact ⟨(s.afterReads_devRead _ _ _ _).beside, by simp, rfl⟩
    · exact ⟨.refl s, rfl, rfl⟩
  obtain ⟨hb, hm, hdata⟩ := hr1
  let s1 := r.1.updCopy id (fun c => c.updBurst (fun b => { b with moved := b.moved + n }))
  have h1 : s.Updates id _ s1 := (hb.updates hc).upd _
  let w := (engineWrite s1 c.core c.tag c.epoch ptr (x % 2 ^ 17 + b.moved) r.2).2
  have hk1 : s1.coreOf c.core c.tag c.epoch = true := by
    rw [← hk]
    simp [State.coreOf, State.core, State.part, h1.cores, h1.parts]
  have hw : w = ((List.range (s.loadData b n).length).any (fun i => s.inGap c.core ((x % 2 ^ 17 + b.moved + i) % 2 ^ 17)), false) := by
    have hgap (o : Nat) : s1.inGap c.core o = s.inGap c.core o := by
      have hS : s1.poolS c.core = s.poolS c.core := by simp only [State.poolS, State.core, h1.cores]
      simp only [State.inGap, hS, State.reduce_of_cores h1.cores]
    simp only [w, engineWrite_flags hp hk1, hdata, hgap]
  have h2 : s.Updates id _ (s1.updCopy id (fun c => { c with gap := c.gap || w.1, refused := c.refused || w.2 })) := h1.upd _
  have h3 := h2.issueLate (by simp [s1, hm]) (l := c.loadLate id ptr (x % 2 ^ 17 + b.moved) r.2) rfl
  have he : s.loadPiece id c b n = (s1.updCopy id (fun c => { c with gap := c.gap || w.1, refused := c.refused || w.2 })).issueLate
      (c.loadLate id ptr (x % 2 ^ 17 + b.moved) r.2) := by
    unfold State.loadPiece
    rw [hrow]
    simp only [if_neg hty, hcan, Bool.false_eq_true, if_false]
    rfl
  refine ⟨_, _, he ▸ h3, ?_, ?_, ?_, rfl, rfl, rfl, rfl, rfl, hdata, rfl, rfl, rfl, rfl⟩
  · simp [Copy.updBurst, hbs]
  · simp [Copy.updBurst, hbs]
  · simp [Copy.updBurst, hbs, hw]

/-- A piece of a store is read from the own pool and written to device memory by a step of its own. -/
theorem storePiece_issues (hcert : c.isCert = false) (hhost : b.host = false) (n : Nat) :
    let r := engineRead s c.core c.tag c.epoch ptr (x % 2 ^ 17 + b.moved) n
    ∃ (d : Copy) (l : Late), PieceIssued s id d l (s.storePiece id c b n) ∧
      d.bursts = { b with moved := b.moved + n } :: rest ∧ d.bytes = c.bytes ∧ d.gap = (c.gap || r.2.1) ∧
      l.owner = id ∧ l.tag = c.tag ∧ l.full = false ∧ l.last = false ∧ l.device = true ∧ l.data = r.1 ∧ l.off = b.addr + b.moved ∧
      l.c = b.c ∧ l.entry = b.entry := by
  intro r
  have h1 := ((State.Beside.refl s).updates hc).upd (fun c => { c.updBurst (fun b => { b with moved := b.moved + n }) with
    gap := c.gap || r.2.1, refused := c.refused || r.2.2 })
  have h3 := h1.issueLate (by simp) (l := c.storeLate id b r.1) rfl
  have he : s.storePiece id c b n = (s.updCopy id (fun c => { c.updBurst (fun b => { b with moved := b.moved + n }) with
      gap := c.gap || r.2.1, refused := c.refused || r.2.2 })).issueLate (c.storeLate id b r.1) := by
    unfold State.storePiece
    rw [hrow]
    simp only [hcert, hhost, Bool.false_eq_true, if_false]
    rfl
  refine ⟨_, _, he ▸ h3, ?_, ?_, ?_, rfl, rfl, rfl, rfl, rfl, rfl, rfl, rfl, rfl⟩
  · simp [Copy.updBurst, hbs]
  · simp [Copy.updBurst, hbs]
  · rfl

/-- A piece of a host write joins what has been collected; the last one is sent with all of it. -/
theorem storePiece_host (hcert : c.isCert = false) (hhost : b.host = true) (n : Nat) :
    let r := engineRead s c.core c.tag c.epoch ptr (x % 2 ^ 17 + b.moved) n
    let t := s.storePiece id c b n
    ∃ d : Copy, s.Updates id d t ∧ d.bytes = c.bytes ∧ d.gap = (c.gap || r.2.1) ∧ d.bursts.drop 1 = rest ∧
      t.pool = s.pool ∧ t.dev = s.dev ∧
      (b.moved + n < b.len → d.bursts = { b with moved := b.moved + n, got := some (b.got.getD [] ++ r.1) } :: rest ∧ t.host = s.host) ∧
      (b.moved + n = b.len → t.host = s.host.setBytes (hostKey c.tag.toNat b.addr) (b.got.getD [] ++ r.1)) := by
  intro r t
  let s1 := s.updCopy id (fun c => { c.updBurst (fun b => { b with moved := b.moved + n }) with
    gap := c.gap || r.2.1, refused := c.refused || r.2.2 })
  have h1 : s.Updates id _ s1 := ((State.Beside.refl s).updates hc).upd _
  have he : t = if b.len ≤ b.moved + n then s1.hostStore c.tag.toNat b.addr (b.got.getD [] ++ r.1)
      else s1.updCopy id (fun c => c.updBurst (fun y => { y with got := some (b.got.getD [] ++ r.1) })) := by
    simp only [t]
    unfold State.storePiece
    rw [hrow]
    simp only [hcert, hhost, Bool.false_eq_true, if_false, if_true]
    rfl
  have hm1 : s1.mems = s.mems := by simp [s1]
  obtain ⟨hpool, -, hdev, hhst, -⟩ := Mems.mk.inj hm1
  by_cases hle : b.len ≤ b.moved + n
  · rw [he, if_pos hle]
    obtain ⟨hb, hpl, hdv, hh⟩ := s1.hostStore_stores c.tag.toNat b.addr (b.got.getD [] ++ r.1)
    refine ⟨_, h1.beside hb, ?_, ?_, ?_, hpl.trans hpool, hdv.trans hdev, fun h => absurd h (by omega), fun _ => by rw [hh, hhst]⟩
    all_goals simp [Copy.updBurst, hbs]
  · rw [he, if_neg hle]
    have hm2 (g : Copy → Copy) : (s1.updCopy id g).mems = s.mems := by simp [hm1]
    obtain ⟨hpool2, -, hdev2, hhst2, -⟩ := Mems.mk.inj (hm2 (fun c => c.updBurst (fun y => { y with got := some (b.got.getD [] ++ r.1) })))
    refine ⟨_, h1.upd _, ?_, ?_, ?_, hpool2, hdev2, fun _ => ⟨?_, hhst2⟩, fun h => absurd h (by omega)⟩
    all_goals simp [Copy.updBurst, hbs]

end

end Sys2Proof.Machine

namespace Sys2Proof.Machine

theorem Mem.length_bytes (m : Mem) (a n : Nat) : (m.bytes a n).length = n := by
  induction n generalizing a with
  | zero => rfl
  | succ n ih => rw [Mem.bytes, List.length_cons, ih]

theorem Mem.getD_bytes (m : Mem) (a n i : Nat) (h : i < n) : (m.bytes a n).getD i 0 = m.read (a + i) := by
  induction n generalizing a i with
  | zero => omega
  | succ n ih =>
    cases i with
    | zero => rfl
    | succ i => rw [Mem.bytes, List.getD_cons_succ, ih _ _ (by omega), Nat.add_assoc, Nat.add_comm 1]

/-- What a load's piece moves: the host's answer, or the bytes of the device line. -/
theorem State.loadData_eq {s : State} {b : Burst} {n : Nat} (hn : b.moved + n ≤ b.len)
    (hgot : b.host = true → ∃ bs : List Byte, b.got = some bs ∧ bs.length = b.len) :
    (s.loadData b n).length = n ∧ ∀ i : Nat, i < n → (s.loadData b n).getD i 0 =
      if b.host then (b.got.getD []).getD (b.moved + i) 0 else s.dev.read (b.addr + b.moved + i) := by
  unfold State.loadData
  cases hh : b.host with
  | true =>
    obtain ⟨bs, hbs, hl⟩ := hgot hh
    simp only [hbs, Option.getD_some, if_true]
    refine ⟨by rw [List.length_take, List.length_drop]; omega, fun i hi => ?_⟩
    simp [List.getD_eq_getElem?_getD, hi]
  | false =>
    simp only [Bool.false_eq_true, if_false]
    exact ⟨Mem.length_bytes _ _ _, fun i hi => Mem.getD_bytes _ _ _ _ hi⟩

/-- The state in which a piece moves: its burst has begun. -/
def State.begun (s : State) (c : Copy) (b : Burst) : State := if b.moved = 0 then s.beginBurst c b else s

theorem State.begun_beside {s : State} {c : Copy} (h : c.abroad s = false) (b : Burst) :
    s.Beside (s.begun c b) ∧ (s.begun c b).mems = s.mems := by
  unfold State.begun
  split
  · exact ⟨State.beside_beginBurst h b, by simp⟩
  · exact ⟨.refl s, rfl⟩

/-- The next piece of a dense copy between external memory and the own pool of its core. -/
theorem burstPiece_moves {s : State} {id : Nat} {c : Copy} {b : Burst} {rest : List Burst} {ptr stride : Word}
    (hc : s.copies.get? id = some c) (hbs : c.bursts = b :: rest) (hth : c.purpose = .thread) (hty : shType c.shape = 0)
    (hgot : b.host = true → isExternal c.src = true ∧ ∃ bs : List Byte, b.got = some bs ∧ bs.length = b.len)
    (hcan : c.cancelled = false) (hmv : b.moved < b.len) (hk : s.coreOf c.core c.tag c.epoch = true)
    (hptr : (if c.isLoad then c.dst else c.src) = ptr) (hstr : (if c.isLoad then c.dstr else c.sstr) = stride)
    (hp : ptrTag ptr = 0xF0) :
    let k := c.core
    let load := isExternal c.src
    let place (i : Nat) : Nat := (ptr.toNat + b.j * stride.toNat + b.off + b.moved + i) % 2 ^ 17
    let n := min (b.len - b.moved) (min (8 - place 0 % 8) (64 - (b.addr + b.moved) % 64))
    ∃ (d : Copy) (l : Late), let t := s.burstPiece id c b
      t.copies.get? id = some d ∧ SameMemory s t ∧
      (b.moved + n < b.len → d.bursts = { b with moved := b.moved + n } :: rest ∧ d.bytes = c.bytes ∧
        ⟨s.cycle, .burstComplete id b.id⟩ ∈ t.agenda) ∧
      (b.moved + n = b.len → d.bursts = rest ∧ d.bytes = c.bytes + b.len) ∧
      d.gap = (c.gap || (List.range n).any (fun i => s.inGap k (place i))) ∧
      t.late = s.late ++ [l] ∧ l.owner = id ∧ l.tag = c.tag ∧ l.full = false ∧ l.last = false ∧ l.device = !load ∧
      l.data.length = n ∧ ⟨s.cycle, .burstComplete id l.id⟩ ∈ t.agenda ∧
      (load = true → l.core = k ∧ l.epoch = c.epoch ∧ l.ptr = ptr ∧ l.off % 2 ^ 17 = place 0 ∧
        ∀ i : Nat, i < n → l.data.getD i 0 =
          if b.host then (b.got.getD []).getD (b.moved + i) 0 else s.dev.read (b.addr + b.moved + i)) ∧
      (load = false → l.off = b.addr + b.moved ∧ l.c = b.c ∧ l.entry = b.entry ∧
        ∀ i : Nat, i < n → l.data.getD i 0 = if s.inGap k (place i) then 0 else s.pool.read (poolKey k (s.reduce k (place i)))) := by
  intro k load place n
  have hrow := c.scratchRow_own hptr hstr (by omega) hp b.j b.off
  have hpiece : c.piece b = n := by
    rw [Copy.piece_own hrow]
    have h8 : (ptr.toNat + b.j * stride.toNat + b.off + b.moved) % 8 = place 0 % 8 := by
      simp only [place]
      generalize b.j * stride.toNat = x
      omega
    simp only [n, h8]
  have hn : b.moved + n ≤ b.len := by
    have : n ≤ b.len - b.moved := Nat.min_le_left _ _
    omega
  have hplace (i : Nat) : ((ptr.toNat + b.j * stride.toNat + b.off) % 2 ^ 17 + b.moved + i) % 2 ^ 17 = place i := by
    simp only [place]
    generalize b.j * stride.toNat = x
    omega
  obtain ⟨hb, hm⟩ := State.begun_beside (c.abroad_own hptr hp s) b
  have hcert : c.isCert = false := by simp [Copy.isCert, hth]
  have he : s.burstPiece id c b = if b.len ≤ b.moved + n then
      (if c.isLoad then (s.begun c b).loadPiece id c b n else (s.begun c b).storePiece id c b n).endBurst id c b
      else (if c.isLoad then (s.begun c b).loadPiece id c b n else (s.begun c b).storePiece id c b n).later 0 (.burstComplete id b.id) := by
    rw [← hpiece]
    rfl
  have hc' : (s.begun c b).copies.get? id = some c := by rw [hb.copies]; exact hc
  have hk' : (s.begun c b).coreOf c.core c.tag c.epoch = true := by
    rw [← hk]
    simp [State.coreOf, State.core, State.part, hb.cores, hb.parts]
  have hgap (o : Nat) : (s.begun c b).inGap k o = s.inGap k o := by
    have hS : (s.begun c b).poolS k = s.poolS k := by simp only [State.poolS, State.core, hb.cores]
    simp only [State.inGap, hS, State.reduce_of_cores hb.cores]
  obtain ⟨hpool, -, hdev, -, -⟩ := Mems.mk.inj hm
  have hl : load = c.isLoad := rfl
  rw [he, hl]
  cases hload : c.isLoad with
  | true =>
    obtain ⟨d, l, hi, h1, h2, h3, hown, htag, hfull, hlast, hdv, hdata, hcore, hep, hpt, hoff⟩ :=
      loadPiece_issues hc' hbs hrow hp (by omega) hcan hk' n
    obtain ⟨hlen, hbytes⟩ := (s.begun c b).loadData_eq hn (fun h => (hgot h).2)
    obtain ⟨e, e1, e2, e3, e4, e5, e6, e7⟩ := hi.step h1 h2 hn
    rw [hb.cycle] at e3 e7
    rw [hb.late] at e6
    simp only [if_true]
    refine ⟨e, l, e1, sameMemory_of_mems (e2.trans hm), e3, e4, ?_, e6, hown, htag, hfull, hlast, hdv, by rw [hdata, hlen], e7,
      fun _ => ⟨hcore, hep, hpt, ?_, fun i h => ?_⟩, nofun⟩
    · rw [e5, h3, hlen]
      simp only [hgap, hplace, k]
    · rw [hoff, ← hplace 0, Nat.add_zero]
    · rw [hdata, hbytes i h, hdev]
  | false =>
    have hhost : b.host = false := by
      rw [← Bool.not_eq_true]
      intro h
      have h1 : c.isLoad = true := (hgot h).1
      rw [hload] at h1
      cases h1
    obtain ⟨d, l, hi, h1, h2, h3, hown, htag, hfull, hlast, hdv, hdata, hoff, hlc, hent⟩ := storePiece_issues hc' hbs hrow hcert hhost n
    obtain ⟨e, e1, e2, e3, e4, e5, e6, e7⟩ := hi.step h1 h2 hn
    rw [engineRead_congr hp hb.cores hb.parts hpool, engineRead_own hp hk] at h3 hdata
    rw [hb.cycle] at e3 e7
    rw [hb.late] at e6
    simp only [Bool.false_eq_true, if_false]
    refine ⟨e, l, e1, sameMemory_of_mems (e2.trans hm), e3, e4, ?_, e6, hown, htag, hfull, hlast, hdv, ?_, e7, nofun,
      fun _ => ⟨hoff, hlc, hent, fun i h => ?_⟩⟩
    · rw [e5, h3]
      simp only [hplace, k]
    · rw [hdata, List.length_map, List.length_range]
    · have hi : l.data.getD i 0 = s.ownByte k ((ptr.toNat + b.j * stride.toNat + b.off) % 2 ^ 17 + b.moved + i) := by
        rw [hdata, List.getD_eq_getElem?_getD, List.getElem?_map, List.getElem?_range h, Option.map_some, Option.getD_some]
      rw [hi, State.ownByte, hplace]

/-- The next piece of a host write: it is collected, and the last one sends the burst whole. -/
theorem burstPiece_host {s : State} {id : Nat} {c : Copy} {b : Burst} {rest : List Burst}
    (hc : s.copies.get? id = some c) (hbs : c.bursts = b :: rest) (hth : c.purpose = .thread) (hty : shType c.shape = 0)
    (hhost : b.host = true) (hext : isExternal c.src = false) (hmv : b.moved < b.len) (hp : ptrTag c.src = 0xF0) :
    let n := min (b.len - b.moved) (min (8 - (c.src.toNat + b.j * c.sstr.toNat + b.off + b.moved) % 8) (64 - (b.addr + b.moved) % 64))
    let x := engineRead s c.core c.tag c.epoch c.src ((c.src.toNat + b.j * c.sstr.toNat + b.off) % 2 ^ 17 + b.moved) n
    let all := b.got.getD [] ++ x.1
    let t := s.burstPiece id c b
    ∃ d : Copy, t.copies.get? id = some d ∧ t.late = s.late ∧ d.gap = (c.gap || x.2.1) ∧ t.pool = s.pool ∧ t.dev = s.dev ∧
      (b.moved + n < b.len → d.bursts = { b with moved := b.moved + n, got := some all } :: rest ∧ d.bytes = c.bytes ∧ t.host = s.host ∧
        ⟨s.cycle, .burstComplete id b.id⟩ ∈ t.agenda) ∧
      (b.moved + n = b.len → d.bursts = rest ∧ d.bytes = c.bytes + b.len ∧
        t.host = s.host.setBytes (hostKey c.tag.toNat b.addr) all) := by
  intro n x all t
  have hload : c.isLoad = false := hext
  have hrow := c.scratchRow_own (ptr := c.src) (stride := c.sstr) (by simp [hload]) (by simp [hload]) (by omega) hp b.j b.off
  have hpiece : c.piece b = n := Copy.piece_own hrow
  have hn : b.moved + n ≤ b.len := by
    have : n ≤ b.len - b.moved := Nat.min_le_left _ _
    omega
  obtain ⟨hb, hm⟩ := State.begun_beside (c.abroad_own (ptr := c.src) (by simp [hload]) hp s) b
  obtain ⟨hpool, -, hdev, hhst, -⟩ := Mems.mk.inj hm
  have hcert : c.isCert = false := by simp [Copy.isCert, hth]
  have he : t = if b.len ≤ b.moved + n then ((s.begun c b).storePiece id c b n).endBurst id c b
      else ((s.begun c b).storePiece id c b n).later 0 (.burstComplete id b.id) := by
    rw [← hpiece]
    simp only [t, State.burstPiece, State.begun, hload, Bool.false_eq_true, if_false]
  have hc' : (s.begun c b).copies.get? id = some c := by rw [hb.copies]; exact hc
  obtain ⟨d, hu, hbytes, hgap, hdrop, hpl, hdv, hlt, heq⟩ := storePiece_host hc' hbs hrow hcert hhost n
  rw [engineRead_congr hp hb.cores hb.parts hpool] at hgap hlt heq
  rcases Nat.lt_or_eq_of_le hn with h | h
  · rw [he, if_neg (by omega)]
    obtain ⟨h1, h2⟩ := hlt h
    have hev := State.mem_later ((s.begun c b).storePiece id c b n) 0 (.burstComplete id b.id)
    rw [hu.cycle, hb.cycle] at hev
    exact ⟨d, hu.copy, hu.late.trans hb.late, hgap, hpl.trans hpool, hdv.trans hdev, fun _ => ⟨h1, hbytes, h2.trans hhst, hev⟩,
      fun h' => absurd h' (by omega)⟩
  · rw [he, if_pos (by omega)]
    obtain ⟨e, h1, h2, h3, h4⟩ := hu.endBurst c b
    have hme : (((s.begun c b).storePiece id c b n).endBurst id c b).mems = ((s.begun c b).storePiece id c b n).mems := by simp
    obtain ⟨kpool, -, kdev, khost, -⟩ := Mems.mk.inj hme
    refine ⟨e, h1.copy, h1.late.trans hb.late, h4.trans hgap, kpool.trans (hpl.trans hpool), kdev.trans (hdv.trans hdev),
      fun h' => absurd h' (by omega), fun _ => ⟨h2.trans hdrop, by rw [h3, hbytes], ?_⟩⟩
    rw [khost, heq h, hhst]

/-- A burst that fails: a transient error is corrected and the burst tried again, a lasting one reported. -/
theorem burstFails_transient (s : State) (id : Nat) (c : Copy) (b : Burst) (w : Nat) :
    let t := s.burstFails id c b (w, false)
    t.copies = s.copies ∧ SameMemory s t ∧ t.bad = s.bad.del w ∧ ⟨s.cycle + 1, .burstComplete id b.id⟩ ∈ t.agenda := by
  intro t
  let die := if 2 ^ 30 ≤ w then paChannel b.addr / 128 else (endPos (keyEnd w)).1
  have ht : t = (s.transient die w).later 1 (.burstComplete id b.id) := rfl
  have hb := (s.afterReads_transient die w).beside
  rw [ht]
  refine ⟨hb.copies, sameMemory_of_mems (by simp), rfl, ?_⟩
  rw [← hb.cycle]
  exact State.mem_later _ _ _

theorem burstFails_lasting (s : State) (id : Nat) (c : Copy) (b : Burst) (w : Nat) :
    let t := s.burstFails id c b (w, true)
    ∃ y : TrapMsg, t.copies = s.copies ∧ SameMemory s t ∧ y ∈ t.hub.beacons ∧ y.kind = 4 ∧ y.cause = 0x12 ∧ y.part = c.tag ∧
      (2 ^ 30 ≤ w → y.va = b.va ∧ y.page = some (b.addr / 2 ^ 16)) := by
  intro t
  by_cases hw : 2 ^ 30 ≤ w
  · have ht : t = s.lasting (2 ^ 20 + paChannel b.addr) c.tag b.va (some (b.addr / 2 ^ 16)) := if_pos hw
    obtain ⟨y, hy, h1, h2, h3, h4, h5⟩ := s.lasting_reports (2 ^ 20 + paChannel b.addr) c.tag b.va (some (b.addr / 2 ^ 16))
    rw [ht]
    exact ⟨y, (s.afterReads_lasting _ _ _ _).beside.copies, sameMemory_of_mems (by simp), hy, h1, h2, h3, fun _ => ⟨h4, h5⟩⟩
  · have ht : t = s.lasting (keyEnd w) c.tag (keyOffset w) none := if_neg hw
    obtain ⟨y, hy, h1, h2, h3, h4, h5⟩ := s.lasting_reports (keyEnd w) c.tag (keyOffset w) none
    rw [ht]
    exact ⟨y, (s.afterReads_lasting _ _ _ _).beside.copies, sameMemory_of_mems (by simp), hy, h1, h2, h3, fun h => absurd h hw⟩

end Sys2Proof.Machine

namespace Sys2Proof.Machine

/-! ## Writes to the own window (R21, R27) -/

/-- The pool after an engine's write of bytes at an offset of a core's own window. -/
def State.ownWrites (s : State) (k : Nat) : Nat → List Byte → Mem → Mem
  | _, [], m => m
  | off, b :: bs, m =>
    s.ownWrites k (off + 1) bs (if s.inGap k (off % 2 ^ 17) then m else m.write (poolKey k (s.reduce k (off % 2 ^ 17))) b)

/-- One byte of an engine's write to the own window. -/
theorem engineWrite_cons_own (s : State) {k : Nat} {tag : BitVec 10} {epoch : BitVec 6} {ptr : Word} (hp : ptrTag ptr = 0xF0)
    (hk : s.coreOf k tag epoch = true) (off : Nat) (b : Byte) (bs : List Byte) :
    (engineWrite s k tag epoch ptr off (b :: bs)).1 =
      (engineWrite { s with pool := if s.inGap k (off % 2 ^ 17) then s.pool else s.pool.write (poolKey k (s.reduce k (off % 2 ^ 17))) b } k tag epoch ptr (off + 1) bs).1 := by
  rw [engineWrite, scratchByte_own hp]
  generalize off % 2 ^ 17 = o
  cases hg : s.inGap k o with
  | true => simp only [hk, hg, if_true]
  | false => simp only [hk, hg, if_true, Bool.false_eq_true, if_false]

theorem engineWrite_own (s : State) {k : Nat} {tag : BitVec 10} {epoch : BitVec 6} {ptr : Word} (hp : ptrTag ptr = 0xF0)
    (hk : s.coreOf k tag epoch = true) (off : Nat) (bs : List Byte) (m : Mem) :
    (engineWrite { s with pool := m } k tag epoch ptr off bs).1 = { s with pool := s.ownWrites k off bs m } := by
  induction bs generalizing off m with
  | nil => rfl
  | cons b bs ih =>
    have hk' : ({ s with pool := m } : State).coreOf k tag epoch = true := hk
    rw [engineWrite_cons_own _ hp hk', State.ownWrites]
    generalize off % 2 ^ 17 = o
    exact ih _ _

theorem modulus_mod_eight (n : Nat) : modulus n % 8 = 0 := by
  unfold modulus
  repeat' split
  all_goals rfl

/-- Reduction keeps the place of a byte in its word (R21). -/
theorem poolKey_reduce_mod (s : State) (k o : Nat) : poolKey k (s.reduce k (o % 2 ^ 17)) % 8 = o % 8 := by
  have hdvd : 8 ∣ modulus (s.poolS k) := Nat.dvd_of_mod_eq_zero (modulus_mod_eight _)
  have hr : s.reduce k (o % 2 ^ 17) % 8 = o % 2 ^ 17 % 8 := Nat.mod_mod_of_dvd _ hdvd
  unfold poolKey
  omega

theorem State.read_ownWrites_ne (s : State) (k off : Nat) (bs : List Byte) (m : Mem) (a : Nat)
    (h : ∀ i : Nat, i < bs.length → s.inGap k ((off + i) % 2 ^ 17) = false → a ≠ poolKey k (s.reduce k ((off + i) % 2 ^ 17))) :
    (s.ownWrites k off bs m).read a = m.read a := by
  induction bs generalizing off m with
  | nil => rfl
  | cons b bs ih =>
    rw [State.ownWrites, ih]
    · cases hg : s.inGap k (off % 2 ^ 17) with
      | true => rfl
      | false => exact Mem.read_write_ne _ _ _ _ (h 0 (by simp) hg)
    · intro i hi hg
      have h1 : off + 1 + i = off + (i + 1) := by omega
      rw [h1] at hg ⊢
      exact h (i + 1) (by simpa using hi) hg

theorem State.read_ownWrites_self (s : State) (k off : Nat) (bs : List Byte) (m : Mem) (hm : m.wf = true) (hw : off % 8 + bs.length ≤ 8)
    (i : Nat) (hi : i < bs.length) (hg : s.inGap k ((off + i) % 2 ^ 17) = false) :
    (s.ownWrites k off bs m).read (poolKey k (s.reduce k ((off + i) % 2 ^ 17))) = bs.getD i 0 := by
  induction bs generalizing off m i with
  | nil => simp at hi
  | cons b bs ih =>
    rw [List.length_cons] at hw hi
    rw [State.ownWrites]
    cases i with
    | zero =>
      rw [State.read_ownWrites_ne]
      · rw [Nat.add_zero] at hg ⊢
        simp only [hg, Bool.false_eq_true, if_false]
        exact Mem.read_write_self _ _ _ hm
      · intro j hj _ heq
        have h1 := congrArg (· % 8) heq
        simp only [poolKey_reduce_mod] at h1
        omega
    | succ i =>
      have h1 : off + (i + 1) = off + 1 + i := by omega
      rw [h1] at hg ⊢
      refine ih (off + 1) _ ?_ (by omega) i (by omega) hg
      split
      · exact hm
      · exact Mem.wf_write _ _ _ hm

theorem Mem.read_setBytes_self (bs : List Byte) (a : Nat) (m : Mem) (hm : m.wf = true) (i : Nat) (hi : i < bs.length) :
    (m.setBytes a bs).read (a + i) = bs.getD i 0 := by
  induction bs generalizing a m i with
  | nil => simp at hi
  | cons b bs ih =>
    rw [Mem.setBytes]
    cases i with
    | zero => rw [Nat.add_zero, Mem.read_setBytes_ne _ _ _ _ (by omega), Mem.read_write_self _ _ _ hm]; rfl
    | succ i =>
      have h1 : a + (i + 1) = a + 1 + i := by omega
      rw [h1, ih (a + 1) _ (Mem.wf_write _ _ _ hm) i (by simpa using hi), List.getD_cons_succ]

/-- A write to device memory changes its bytes and no other memory. -/
theorem State.devWrite_writes (s : State) (tag pa : Nat) (bs : List Byte) (c : Bool) :
    let t := s.devWrite tag pa bs c
    t.pool = s.pool ∧ t.gpool = s.gpool ∧ t.host = s.host ∧ t.full = s.full ∧ t.dev = s.dev.setBytes pa bs := by
  unfold State.devWrite
  extract_lets n lines s1 s2
  have hm : s2.mems = s.mems := by
    have h1 : s1.mems = s.mems := by
      simp only [s1]
      split
      · rfl
      · exact mems_foldl (fun s l => s.cacheTouch_mems _ _ _ _) _ _
    simp only [s2]
    split
    · exact h1
    · exact (mems_foldl (fun s l => s.writeThrough_mems _ _ _ _) _ _).trans h1
  obtain ⟨hp, hg, hd, hh, hf⟩ := Mems.mk.inj hm
  exact ⟨hp, hg, hh, hf, congrArg (fun m => Mem.setBytes m pa bs) hd⟩

theorem State.devWrite_late (s : State) (tag pa : Nat) (bs : List Byte) (c : Bool) : (s.devWrite tag pa bs c).late = s.late := by
  have hthrough (t : State) (l : Nat) : t.Beside (t.writeThrough tag pa bs l) := by
    unfold State.writeThrough
    split
    · extract_lets new
      split
      · exact t.beside_updGeyser _ _
      · exact .refl t
    · exact .refl t
  unfold State.devWrite
  extract_lets n lines s1 s2
  have h1 : s.Beside s1 := by
    simp only [s1]
    split
    · exact .refl s
    · exact State.beside_foldl (fun s l => (s.afterReads_cacheTouch _ _ _ _).beside) _ _
  have h2 : s1.Beside s2 := by
    simp only [s2]
    split
    · exact .refl s1
    · exact State.beside_foldl hthrough _ _
  exact (h1.trans h2).late

/-! ## A write on its way is performed (R109, R129) -/

section
variable {s : State} {pre post : List Late} {l : Late} (hs : s.late = pre ++ l :: post) (hid : ∀ x ∈ pre ++ post, x.id ≠ l.id)
include hs hid

theorem State.late_find : s.late.find? (fun x => x.id == l.id && x.owner == l.owner) = some l := by
  have hpre : pre.find? (fun x => x.id == l.id && x.owner == l.owner) = none := by
    simp only [List.find?_eq_none]
    intro x hx
    simp [hid x (List.mem_append_left _ hx)]
  rw [hs, List.find?_append, hpre, Option.none_or, List.find?_cons_of_pos]
  simp

theorem exec_late : exec (.burstComplete l.owner l.id) s = .next (s.lateStep l) := by
  show execBurstComplete l.owner l.id s = _
  unfold execBurstComplete
  rw [State.late_find hs hid]

theorem State.lateWaits_iff (hlast : l.last = false) :
    s.lateWaits l = true ↔ ∃ x ∈ pre, x.owner = l.owner ∧ s.lateBank x = s.lateBank l := by
  have htake : s.late.takeWhile (fun x => x.id != l.id) = pre := by
    have hpre : ∀ x ∈ pre, (x.id != l.id) = true := fun x hx => by simp [hid x (List.mem_append_left _ hx)]
    rw [hs, List.takeWhile_append_of_pos hpre, List.takeWhile_cons_of_neg (by simp), List.append_nil]
  simp [State.lateWaits, htake, hlast]

theorem State.late_filter : s.late.filter (fun x => x.id != l.id) = pre ++ post := by
  have hall : ∀ x ∈ pre ++ post, (x.id != l.id) = true := fun x hx => by simp [hid x hx]
  rw [hs, List.filter_append, List.filter_cons_of_neg (by simp), ← List.filter_append, List.filter_eq_self.2 hall]

/-- A write to device memory. -/
theorem performLate_device (hdev : l.device = true) (hm : s.memWf = true) :
    let t := s.performLate l
    t.late = pre ++ post ∧ t.pool = s.pool ∧ t.gpool = s.gpool ∧ t.host = s.host ∧ t.full = s.full ∧
      (∀ i : Nat, i < l.data.length → t.dev.read (l.off + i) = l.data.getD i 0) ∧
      ∀ a : Nat, a < l.off ∨ l.off + l.data.length ≤ a → t.dev.read a = s.dev.read a := by
  intro t
  let s1 : State := { s with late := s.late.filter (fun x => x.id != l.id) }
  have ht : t = (s1.devWrite l.tag.toNat l.off l.data l.c).useEntry l.channel l.entry false := if_pos hdev
  obtain ⟨h1, h2, h3, h4, h5⟩ := s1.devWrite_writes l.tag.toNat l.off l.data l.c
  have h6 : t.dev = s.dev.setBytes l.off l.data := by rw [ht]; exact h5
  refine ⟨?_, by rw [ht]; exact h1, by rw [ht]; exact h2, by rw [ht]; exact h3, by rw [ht]; exact h4, fun i hi => ?_, fun a ha => ?_⟩
  · rw [ht]
    exact (s1.devWrite_late _ _ _ _).trans (State.late_filter hs hid)
  · obtain ⟨-, -, hdwf, -⟩ := (State.memWf_iff s).1 hm
    rw [h6, Mem.read_setBytes_self _ _ _ hdwf i hi]
  · rw [h6, Mem.read_setBytes_ne _ _ _ _ ha]

/-- A write to the own window of its core. -/
theorem performLate_own (hdev : l.device = false) (hp : ptrTag l.ptr = 0xF0) (hk : s.coreOf l.core l.tag l.epoch = true)
    (hfull : l.full = false) (hw : l.off % 8 + l.data.length ≤ 8) (hcan : ∀ c : Copy, s.copies.get? l.owner = some c → c.cancelled = false)
    (hm : s.memWf = true) :
    let place (i : Nat) : Nat := (l.off + i) % 2 ^ 17
    let key (i : Nat) : Nat := poolKey l.core (s.reduce l.core (place i))
    let t := s.performLate l
    t.late = pre ++ post ∧ t.dev = s.dev ∧ t.gpool = s.gpool ∧ t.host = s.host ∧ t.full = s.full ∧
      (∀ i : Nat, i < l.data.length → s.inGap l.core (place i) = false → t.pool.read (key i) = l.data.getD i 0) ∧
      ∀ a : Nat, (∀ i : Nat, i < l.data.length → s.inGap l.core (place i) = false → a ≠ key i) → t.pool.read a = s.pool.read a := by
  intro place key t
  let s1 : State := { s with late := s.late.filter (fun x => x.id != l.id) }
  have hdead : ((s1.copy? l.owner).map (·.cancelled)).getD false = false := by
    have hcp : s1.copy? l.owner = s.copies.get? l.owner := rfl
    rw [hcp]
    cases hcc : s.copies.get? l.owner with
    | none => rfl
    | some c => exact hcan c hcc
  have hk1 : s1.coreOf l.core l.tag l.epoch = true := hk
  have ht : t = { s1 with pool := s1.ownWrites l.core l.off l.data s.pool } := by
    have h1 : t = (engineWrite s1 l.core l.tag l.epoch l.ptr l.off l.data).1 := by
      simp only [t, State.performLate, hdev, Bool.false_eq_true, if_false, hfull]
      exact if_neg (by rw [hdead]; decide)
    rw [h1]
    exact engineWrite_own s1 hp hk1 l.off l.data s.pool
  obtain ⟨hpwf, -⟩ := (State.memWf_iff s).1 hm
  rw [ht]
  exact ⟨State.late_filter hs hid, rfl, rfl, rfl, rfl, fun i hi hg => s1.read_ownWrites_self _ _ _ _ hpwf hw i hi hg,
    fun a ha => s1.read_ownWrites_ne _ _ _ _ _ ha⟩

end

end Sys2Proof.Machine

namespace Sys2Proof.Machine

/-! ## The completion of a copy (R111, R113, R117) -/

theorem State.lateOf_iff (s : State) (id : Nat) : s.lateOf id = true ↔ ∃ l ∈ s.late, l.owner = id := by
  simp [State.lateOf]

/-- The writes of a thread's copy need no waiting: there are none, or nobody acquires them. -/
theorem State.writesDone_iff (s : State) (id : Nat) {c : Copy} (hth : c.purpose = .thread) (others : Bool) :
    s.writesDone id c others = true ↔ ¬ (∃ l ∈ s.late, l.owner = id) ∨ shType c.shape = 3 ∨
      (shType c.shape ≠ 4 ∧ (c.flags.getLsbD 0 = false ∨ (others = true ∧ flScope c.flags = 0))) := by
  rw [← State.lateOf_iff]
  simp [State.writesDone, hth, flAcq]
  tauto

section
variable {s : State} {id : Nat} {c : Copy} (hc : s.copies.get? id = some c) (hend : c.ended = true) (hth : c.purpose = .thread)
  (hord : c.order = none) (hpark : c.parked = false)
include hc hend hth hord hpark

theorem exec_copyCompletion :
    (shType c.shape = 1 → c.header = false →
      (s.writesDone id c true = false → exec (.copyCompletion id) s = .next (s.later 1 (.copyCompletion id))) ∧
      (s.writesDone id c true = true → exec (.copyCompletion id) s =
        .next (((s.updCopy id (fun c => { c with header := true })).gatherHeader id c).later 0 (.copyCompletion id)))) ∧
    (shType c.shape ≠ 1 ∨ c.header = true →
      (s.writesDone id c false = false → exec (.copyCompletion id) s = .next (s.later 1 (.copyCompletion id))) ∧
      (s.writesDone id c false = true → exec (.copyCompletion id) s = .next (s.postRecord id c))) := by
  have h0 : (!c.ended || c.order.isSome || c.parked) = false := by simp [hend, hord, hpark]
  have he : exec (.copyCompletion id) s = execCopyCompletion id s := rfl
  rw [he]
  unfold execCopyCompletion
  simp only [State.copy?, hc, h0, hth, Bool.false_eq_true, if_false]
  refine ⟨fun hty hhd => ?_, fun h => ?_⟩
  · have h1 : shType c.shape = 1 ∧ (!c.header) = true := ⟨hty, by rw [hhd]; rfl⟩
    rw [if_pos h1]
    exact ⟨fun hw => if_neg (ne_true_of_eq_false hw), fun hw => if_pos hw⟩
  · have h1 : ¬ (shType c.shape = 1 ∧ (!c.header) = true) := by
      rintro ⟨h1, h2⟩
      rcases h with h | h
      · exact h h1
      · simp [h] at h2
    rw [if_neg h1]
    refine ⟨fun hw => ?_, fun hw => ?_⟩ <;> rw [hw] <;> rfl

end

/-- A gather's header in the own pool of its core: the packed count, and the word is full. -/
theorem gatherHeader_own {s : State} {id : Nat} {c : Copy} (hp : ptrTag c.dst = 0xF0) (hk : s.coreOf c.core c.tag c.epoch = true) {l : Nat}
    (hl : l = c.dst.toNat % 2 ^ 17) (hg : s.inGap c.core (s.reduce c.core l) = false)
    (hq : s.waitq.getD (wordKey c.core (s.reduce c.core l)) [] = []) :
    s.gatherHeader id c = (s.poolWrite c.core (s.reduce c.core l) 8 (natWord c.fullRows)).setFull c.core (s.reduce c.core l) true := by
  have hg' : s.inGap c.core l = false := by
    rw [← hg]
    have hr : s.reduce c.core (s.reduce c.core l) = s.reduce c.core l := Nat.mod_mod _ _
    simp only [State.inGap, hr]
  have hb : scratchByte s c.core c.dst (scratchOff c.dst) = some (c.core, l) := by
    rw [scratchByte_own hp, scratchOff_own hp, Nat.mod_mod, hl]
  unfold State.gatherHeader
  rw [hb]
  simp only [hk, hg', Bool.not_true, Bool.false_eq_true, if_false]
  generalize s.reduce c.core l = off at hq
  have hq' : ((s.poolWrite c.core off 8 (natWord c.fullRows)).setFull c.core off true).waitq.getD (wordKey c.core off) [] = [] := hq
  simp only [State.serve, hq', List.length_nil, State.feServe]

theorem copyCompletion_header {s : State} {id : Nat} {c : Copy} (hc : s.copies.get? id = some c) (hp : ptrTag c.dst = 0xF0)
    (hk : s.coreOf c.core c.tag c.epoch = true) {l : Nat} (hl : l = c.dst.toNat % 2 ^ 17)
    (hg : s.inGap c.core (s.reduce c.core l) = false) (hm : s.memWf = true)
    (hq : s.waitq.getD (wordKey c.core (s.reduce c.core l)) [] = []) :
    let off := s.reduce c.core l
    let t := ((s.updCopy id (fun c => { c with header := true })).gatherHeader id c).later 0 (.copyCompletion id)
    t.isFull c.core off = true ∧ t.copies.get? id = some { c with header := true } ∧ ⟨s.cycle, .copyCompletion id⟩ ∈ t.agenda ∧
      t.pool.readLE (poolKey c.core off) 8 = c.fullRows % 2 ^ 64 ∧
      ∀ a : Nat, a < poolKey c.core off ∨ poolKey c.core off + 8 ≤ a → t.pool.read a = s.pool.read a := by
  intro off t
  let s1 := s.updCopy id (fun c => { c with header := true })
  have hs1 : s1 = { s with copies := s.copies.put id { c with header := true } } := State.updCopy_eq hc _
  have hr : s1.reduce c.core l = off := State.reduce_of_cores (by rw [hs1]) _ _
  have hh := gatherHeader_own (s := s1) (id := id) hp (by rw [hs1]; exact hk) hl (by rw [hs1]; exact hg) (by rw [hs1]; exact hq)
  rw [hr] at hh
  have ht : t = ((s1.poolWrite c.core off 8 (natWord c.fullRows)).setFull c.core off true).later 0 (.copyCompletion id) := by
    rw [← hh]
  have hpool : t.pool = s.pool.writeLE (poolKey c.core off) 8 (natWord c.fullRows).toNat := by
    rw [ht, hs1]
    rfl
  obtain ⟨hpwf, -⟩ := (State.memWf_iff s).1 hm
  refine ⟨?_, ?_, ?_, ?_, fun a ha => ?_⟩
  · rw [ht]
    exact State.isFull_setFull _ rfl true
  · rw [ht, hs1]
    exact (NMap.get?_put _ _ _ _).trans (if_pos rfl)
  · rw [ht, hs1]
    exact State.mem_later _ _ _
  · rw [hpool, Mem.readLE_writeLE_self _ _ _ _ hpwf]
    have : (natWord c.fullRows).toNat = c.fullRows % 2 ^ 64 := by simp [natWord]
    rw [this]
    exact Nat.mod_mod _ _
  · rw [hpool, Mem.read_writeLE_ne _ _ _ _ _ ha]

/-! ## The record on its way (R113, R147) -/

/-- A packet without a release to wait for is sent at once, on its channel where its source is not deterministic. -/
theorem State.send_now (s : State) {dst : Nat} (hdst : dst < 2 ^ 23) (src vc : Nat) (tag : BitVec 10) (epoch : BitVec 6) (sender : Nat)
    (body : Body) :
    let t := s.send src dst vc tag epoch sender [] body
    ∃ p : Packet, t.net = s.net ++ [p] ∧ p.src = src ∧ p.dst = dst ∧ p.tag = tag ∧ p.body = body ∧
      (s.endDet src tag = false → p.vc = vc) ∧ (∃ m : Nat, ⟨m, packetStep p⟩ ∈ t.agenda) ∧ t.copies = s.copies ∧ t.cores = s.cores := by
  have hlt : ¬ 2 ^ 23 ≤ dst := by omega
  intro t
  let p : Packet := ⟨s.nextId, src, dst, if s.endDet src tag && s.scheduled src dst then 5 else vc, tag, epoch, sender, [], s.cycle, body⟩
  let marks := s.endDet src tag && !s.scheduled src dst &&
    ((if bodyAnswers body then frameEnd sender == dst else frameEnd sender == src) && !noFlow src dst body)
  let s1 := if marks then s.fresh.2.updFrame sender (fun f => f.setSticky bitDetmiss) else s.fresh.2
  have hs1 : s.Beside s1 := by
    simp only [s1]
    split
    · exact (s.beside_fresh).trans (State.beside_updFrame _ _ _)
    · exact s.beside_fresh
  have hd : t = s1.dispatchPacket p := rfl
  rw [hd, State.dispatchPacket, if_neg hlt]
  refine ⟨_, congrArg (· ++ _) hs1.net, rfl, rfl, rfl, rfl, fun h => ?_, ⟨_, State.mem_later _ _ _⟩, hs1.copies, hs1.cores⟩
  exact if_neg (by simp [h])

end Sys2Proof.Machine

namespace Sys2Proof.Machine

theorem State.noteFlow_eq (s : State) (fk src dst : Nat) (tag : BitVec 10) :
    s.noteFlow fk src dst tag = s ∨ s.noteFlow fk src dst tag = s.updFrame fk (fun f => f.setSticky bitDetmiss) := by
  unfold State.noteFlow
  split
  · exact .inr rfl
  · exact .inl rfl

theorem Copy.wantsRecord_iff {c : Copy} (h : c.retired = false) :
    c.wantsRecord = true ↔ flTarget c.flags = 0 ∨ c.status.getD 0 ≠ 0 := by
  simp [Copy.wantsRecord, h]

/-- A record that is wanted travels to the core. -/
theorem postRecord_sends {s : State} {id : Nat} {c : Copy} (hc : s.copies.get? id = some c) (hw : c.wantsRecord = true)
    (hk : c.core < 2 ^ 23) :
    let t := s.postRecord id c
    ∃ (d : Copy) (p : Packet), t.copies.get? id = some d ∧ d.order ≠ none ∧ t.net = s.net ++ [p] ∧
      p.src = (if shType c.shape = 4 then hubEnd else 2 ^ 20 + c.channel) ∧ p.dst = c.core ∧
      (s.endDet p.src c.tag = false → p.vc = 2) ∧ p.tag = c.tag ∧ p.body = .copyRecord c.frame c.record id ∧
      (∃ m : Nat, ⟨m, .copyCompletion p.id⟩ ∈ t.agenda) ∧ t.cores = s.cores ∧ SameMemory s t := by
  intro t
  let src := if shType c.shape = 4 then hubEnd else 2 ^ 20 + c.channel
  let s0 := s.fresh.2.updCopy id (fun c => { c with order := some s.nextId })
  let s1 := s0.noteFlow c.frame src c.core c.tag
  have hu0 : s.Updates id { c with order := some s.nextId } s0 := 
    ((s.beside_fresh).updates hc).upd (fun c => { c with order := some s.nextId })
  have hu : s.Updates id { c with order := some s.nextId } s1 := hu0.beside (State.beside_noteFlow _ _ _ _ _)
  have ht : t = s1.send src c.core 2 c.tag c.epoch c.frame [] (.copyRecord c.frame c.record id) := by
    have hw' : (!c.wantsRecord) = false := by rw [hw]; rfl
    simp only [t, State.postRecord, hw', Bool.false_eq_true, if_false]
    rfl
  have hdet : s1.endDet src c.tag = s.endDet src c.tag := by
    have h0 : s0.endDet src c.tag = s.endDet src c.tag := by
      have hc' : s.fresh.2.copies.get? id = some c := hc
      simp only [s0]
      rw [State.updCopy_eq hc']
      rfl
    have hupd (g : Frame → Frame) : (s0.updFrame c.frame g).endDet src c.tag = s0.endDet src c.tag := rfl
    rcases s0.noteFlow_eq c.frame src c.core c.tag with h | h
    · exact (congrArg (fun u : State => u.endDet src c.tag) h).trans h0
    · exact (congrArg (fun u : State => u.endDet src c.tag) h).trans ((hupd _).trans h0)
  obtain ⟨p, hnet, hsrc, hdst, htag, hbody, hvc, hag, hcop, hcor⟩ := s1.send_now hk src 2 c.tag c.epoch c.frame
    (.copyRecord c.frame c.record id)
  have hstep : packetStep p = .copyCompletion p.id := by
    unfold packetStep
    rw [hbody]
  rw [hstep] at hag
  rw [ht]
  refine ⟨_, p, by rw [hcop]; exact hu.copy, Option.some_ne_none _, by rw [hnet, hu.net], hsrc, hdst, fun h => hvc ?_, htag, hbody, hag,
    hcor.trans hu.cores, sameMemory_of_mems ?_⟩
  · rw [hdet, ← hsrc]
    exact h
  · simp [s1, s0]

/-- What a copy that is no longer outstanding leaves. -/
theorem copyGone_leaves (s : State) (id : Nat) {c : Copy} (hr : c.retired = false) :
    let st := c.status.getD 0
    let t := s.copyGone id c
    t.copies = s.copies.del id ∧ t.net = s.net ∧ t.cores = s.cores ∧ t.mems = s.mems ∧
      (t.frame c.frame).copies = (s.frame c.frame).copies.erase id ∧
      (st ≠ 0 → st ≠ 7 → (t.frame c.frame).due = (s.frame c.frame).due ++ [⟨0x0B, st, st.setWidth 64, 1#1 ++ c.tid, true⟩]) ∧
      (st = 0 ∨ st = 7 → (t.frame c.frame).due = (s.frame c.frame).due) := by
  intro st t
  let s1 := { s with copies := s.copies.del id }.updFrame c.frame (fun f => { f with copies := f.copies.erase id })
  have hf1 : s1.frame c.frame = { s.frame c.frame with copies := (s.frame c.frame).copies.erase id } := by
    simp only [s1]
    rw [State.frame_updFrame, if_pos rfl]
    rfl
  have hm1 : s1.mems = s.mems := by simp [s1]
  by_cases h : st = 0 ∨ st = 7
  · have he : s1.copyEngine c = s1 := if_pos (by tauto)
    have ht : t = (s1.later 1 (.taskDispatch (c.core / 16))).later 1 (.tilePrefetchStart (c.core / 16)) := by
      rw [← he]
      rfl
    have hft : t.frame c.frame = s1.frame c.frame := by rw [ht]; rfl
    have hmt : t.mems = s1.mems := by rw [ht]; simp
    refine ⟨by rw [ht]; rfl, by rw [ht]; rfl, by rw [ht]; rfl, hmt.trans hm1, by rw [hft, hf1], fun h0 h7 => ?_, fun _ => by rw [hft, hf1]⟩
    exact absurd h (by tauto)
  · let s2 := s1.updFrame c.frame (fun f => { f with due := f.due ++ [⟨0x0B, st, st.setWidth 64, 1#1 ++ c.tid, true⟩] })
    have he : s1.copyEngine c = s2 := if_neg (by simp only [hr]; tauto)
    have ht : t = (s2.later 1 (.taskDispatch (c.core / 16))).later 1 (.tilePrefetchStart (c.core / 16)) := by
      rw [← he]
      rfl
    have hft : t.frame c.frame = { s1.frame c.frame with
        due := (s1.frame c.frame).due ++ [⟨0x0B, st, st.setWidth 64, 1#1 ++ c.tid, true⟩] } := by
      have h1 : t.frame c.frame = s2.frame c.frame := by rw [ht]; rfl
      rw [h1]
      simp only [s2]
      rw [State.frame_updFrame, if_pos rfl]
    have hmt : t.mems = s1.mems := by rw [ht]; simp [s2]
    refine ⟨by rw [ht]; rfl, by rw [ht]; rfl, by rw [ht]; rfl, hmt.trans hm1, by rw [hft, hf1], fun _ _ => by rw [hft, hf1],
      fun h' => absurd h' h⟩

/-! ## The record in the mailbox (R113, R127) -/

/-- From s to t a thread has gone on: its copies stay, and what was due at its marker may have become due. -/
structure State.GoesOn (s : State) (fk : Nat) (t : State) : Prop where
  copies : t.copies = s.copies
  net : t.net = s.net
  cores : t.cores = s.cores
  mems : t.mems = s.mems
  kept : (t.frame fk).copies = (s.frame fk).copies
  due : ∀ e ∈ (t.frame fk).due, e ∈ (s.frame fk).due ++ (s.frame fk).dueMark

theorem State.GoesOn.refl (s : State) (fk : Nat) : s.GoesOn fk s := ⟨rfl, rfl, rfl, rfl, rfl, fun _ h => List.mem_append_left _ h⟩

theorem State.GoesOn.updSlot {s t : State} {fk : Nat} (h : s.GoesOn fk t) (sk : Nat) (g : Slot → Slot) : s.GoesOn fk (t.updSlot sk g) :=
  ⟨h.copies, h.net, h.cores, by simp [h.mems], h.kept, h.due⟩

theorem State.goesOn_updFrame (s : State) (fk : Nat) {g : Frame → Frame} (hk : (g (s.frame fk)).copies = (s.frame fk).copies)
    (hd : ∀ e ∈ (g (s.frame fk)).due, e ∈ (s.frame fk).due ++ (s.frame fk).dueMark) : s.GoesOn fk (s.updFrame fk g) := by
  have hf : (s.updFrame fk g).frame fk = g (s.frame fk) := by rw [State.frame_updFrame, if_pos rfl]
  exact ⟨rfl, rfl, rfl, by simp, by rw [hf, hk], by rw [hf]; exact hd⟩

theorem State.goesOn_resume (s : State) (fk : Nat) : s.GoesOn fk (s.resume fk) := by
  have hmark := s.goesOn_updFrame fk (g := fun f => { f with pend := [], due := f.due ++ f.dueMark, dueMark := [] }) rfl (fun _ h => h)
  have hwait := s.goesOn_updFrame fk (g := fun f => { f with waits := f.waits.erase 11 }) rfl (fun _ h => List.mem_append_left _ h)
  unfold State.resume
  split
  · exact .refl s fk
  · extract_lets f s1
    split
    · split
      · exact hmark.updSlot _ _
      · exact .refl s fk
    · have h1 : s.GoesOn fk s1 := by
        simp only [s1]
        split
        · exact hwait
        · exact .refl s fk
      split
      · exact h1.updSlot _ _
      · exact h1
    · exact .refl s fk

theorem State.charge_leaves (s : State) (fk cls n : Nat) :
    ((s.charge fk cls n).frame fk).copies = (s.frame fk).copies ∧ ((s.charge fk cls n).frame fk).due = (s.frame fk).due := by
  obtain ⟨x, hx⟩ : ∃ x : Nat, ((s.charge fk cls n).frame fk).copies = ((s.frame fk).addEnergy x).copies ∧
      ((s.charge fk cls n).frame fk).due = ((s.frame fk).addEnergy x).due := by
    unfold State.charge
    rw [State.frame_updFrame, if_pos rfl]
    exact ⟨_, rfl, rfl⟩
  obtain ⟨e, sat, r, he⟩ := (s.frame fk).addEnergy_eq x
  rw [he] at hx
  exact hx

/-- A record is placed in the mailbox of its core, and the copy is no longer outstanding. -/
theorem placeRecord_places {s : State} {id : Nat} {c : Copy} (hr : c.retired = false) (hf : c.frame < 2 ^ 20)
    (hwait : (s.frame c.frame).waitMail = none) (hrun : (s.frame c.frame).state = .running) :
    let st := c.status.getD 0
    let t := s.placeRecord id c
    t.cores = s.cores.put (frameCore c.frame) { s.core (frameCore c.frame) with
      mail := (s.core (frameCore c.frame)).mail ++ [⟨c.frame, c.record.take 3 ++ [natWord s.time]⟩] } ∧
    t.copies = s.copies.del id ∧ (t.frame c.frame).copies = (s.frame c.frame).copies.erase id ∧
    (st ≠ 0 → st ≠ 7 → ⟨0x0B, st, st.setWidth 64, 1#1 ++ c.tid, true⟩ ∈ (t.frame c.frame).due) ∧
    (st = 0 ∨ st = 7 → ∀ e ∈ (t.frame c.frame).due, e ∈ (s.frame c.frame).due ++ (s.frame c.frame).dueMark) ∧
    t.mems = s.mems ∧ t.net = s.net := by
  intro st t
  have hgey : isGeyserFrame c.frame = false := by simpa [isGeyserFrame] using hf
  let s1 := s.setMail c.frame (s.mailOf c.frame ++ [⟨c.frame, c.record.take 3 ++ [natWord s.time]⟩])
  have hs1 : s1 = s.updCore (frameCore c.frame) (fun x => { x with
      mail := (s.core (frameCore c.frame)).mail ++ [⟨c.frame, c.record.take 3 ++ [natWord s.time]⟩] }) := by
    simp only [s1, State.setMail, State.mailOf, hgey, Bool.false_eq_true, if_false]
  have hf1 : s1.frame c.frame = s.frame c.frame := by rw [hs1]; rfl
  have hm1 : s1.mems = s.mems := by rw [hs1]; simp
  let s2 := s1.updFrame c.frame (fun f => { f with waits := f.waits.erase 7 })
  have hplace : s.placeMail c.frame c.record = s2.resume c.frame := by
    have hwake : s1.wakeMail c.frame = s1 := by
      unfold State.wakeMail
      rw [hf1, hwait]
    have hst : ((s1.frame c.frame).state == TaskState.waitm) = false := by rw [hf1, hrun]; rfl
    show (if ((s1.wakeMail c.frame).frame c.frame).state == .waitm then _ else _) = _
    rw [hwake, hst]
    rfl
  let u := s2.resume c.frame
  have hu : s2.GoesOn c.frame u := s2.goesOn_resume c.frame
  have hf2 : s2.frame c.frame = { s.frame c.frame with waits := (s.frame c.frame).waits.erase 7 } := by
    simp only [s2]
    rw [State.frame_updFrame, if_pos rfl, hf1]
  have ht : t = (u.charge c.frame 11 1).copyGone id c := by
    simp only [t, State.placeRecord, hplace, u]
  obtain ⟨hcop, hnet, hcor, hmem, hfc, hdue, hold⟩ := copyGone_leaves (u.charge c.frame 11 1) id hr
  rw [← ht] at hcop hnet hcor hmem hfc hdue hold
  obtain ⟨hch1, hch2⟩ := u.charge_leaves c.frame 11 1
  rw [hch1, hu.kept, hf2] at hfc
  rw [hch2] at hdue hold
  have hd : ∀ e ∈ (u.frame c.frame).due, e ∈ (s.frame c.frame).due ++ (s.frame c.frame).dueMark := by
    have h := hu.due
    rw [hf2] at h
    exact h
  refine ⟨?_, ?_, hfc, fun h0 h7 => ?_, fun h e he => ?_, ?_, ?_⟩
  · rw [hcor]
    have h1 : (u.charge c.frame 11 1).cores = u.cores := rfl
    have h2 : s2.cores = s1.cores := rfl
    rw [h1, hu.cores, h2, hs1]
    rfl
  · rw [hcop]
    have h1 : (u.charge c.frame 11 1).copies = u.copies := rfl
    have h2 : s2.copies = s1.copies := rfl
    rw [h1, hu.copies, h2, hs1]
    rfl
  · rw [hdue h0 h7]
    exact List.mem_append_right _ (List.mem_singleton_self _)
  · rw [hold h] at he
    exact hd e he
  · rw [hmem, State.charge_mems, hu.mems]
    simp [s2, hm1]
  · rw [hnet]
    have h1 : (u.charge c.frame 11 1).net = u.net := rfl
    have h2 : s2.net = s1.net := rfl
    rw [h1, hu.net, h2, hs1]
    rfl

end Sys2Proof.Machine

namespace Sys2Proof.Machine

/-! ## A record at its core (R113, R127) -/

theorem NMap.mem_of_get? {α : Type} {k : Nat} {v : α} {m : NMap α} (h : m.get? k = some v) : (k, v) ∈ m := by
  induction m with
  | nil => cases h
  | cons x m ih =>
    obtain ⟨a, w⟩ := x
    simp only [NMap.get?] at h
    split at h
    · cases h
      simp_all
    · exact List.mem_cons_of_mem _ (ih h)

/-- The record of a copy has a mailbox entry at its core, and the copy is no longer outstanding. -/
structure State.Placed (s : State) (id : Nat) (c : Copy) (t : State) : Prop where
  mail : (t.core c.core).mail = (s.core c.core).mail ++ [⟨c.frame, c.record.take 3 ++ [natWord s.time]⟩]
  held : (t.core c.core).heldRecords = (s.core c.core).heldRecords
  copies : t.copies = s.copies.del id
  kept : (t.frame c.frame).copies = (s.frame c.frame).copies.erase id
  engine : c.status.getD 0 ≠ 0 → c.status.getD 0 ≠ 7 →
    ⟨0x0B, c.status.getD 0, (c.status.getD 0).setWidth 64, 1#1 ++ c.tid, true⟩ ∈ (t.frame c.frame).due
  quiet : c.status.getD 0 = 0 ∨ c.status.getD 0 = 7 → ∀ e ∈ (t.frame c.frame).due, e ∈ (s.frame c.frame).due ++ (s.frame c.frame).dueMark
  mems : t.mems = s.mems
  net : t.net = s.net

theorem State.placed_placeRecord {s : State} {id : Nat} {c : Copy} (hr : c.retired = false) (hf : c.frame < 2 ^ 20)
    (hk : c.core = frameCore c.frame) (hwait : (s.frame c.frame).waitMail = none) (hrun : (s.frame c.frame).state = .running) : s.Placed id c (s.placeRecord id c) := by
  obtain ⟨hcor, hcop, hkept, he, hq, hm, hn⟩ := placeRecord_places (id := id) hr hf hwait hrun
  rw [← hk] at hcor
  have hcore : (s.placeRecord id c).core c.core = { s.core c.core with
      mail := (s.core c.core).mail ++ [⟨c.frame, c.record.take 3 ++ [natWord s.time]⟩] } := by
    have h := congrArg (fun m : NMap Core => m.getD c.core {}) hcor
    exact h.trans ((NMap.getD_put _ _ _ _ _).trans (if_pos rfl))
  exact ⟨by rw [hcore], by rw [hcore], hcop, hkept, he, hq, hm, hn⟩

/-- The mailbox of a core's task is full from 32 entries. -/
theorem State.mailFull_iff (s : State) {fk : Nat} (hf : fk < 2 ^ 20) : s.mailFull fk = true ↔ 32 ≤ (s.core (frameCore fk)).mail.length := by
  have hgey : isGeyserFrame fk = false := by simpa [isGeyserFrame] using hf
  simp [State.mailFull, State.mailOf, hgey]

/-- A record that arrives waits behind an earlier one of its task; otherwise it leaves the network and is placed or held. -/
theorem exec_recordArrives {s : State} {p : Packet} (ha : Arrives s p) (hn : s.copies.get? p.id = none) {fk id : Nat} {r : List Word}
    (hb : p.body = .copyRecord fk r id) {c : Copy} (hc : s.copies.get? id = some c) :
    (s.recordBehind c = true → exec (.copyCompletion p.id) s = .next (s.later 8 (.copyCompletion p.id))) ∧
    (s.recordBehind c = false → exec (.copyCompletion p.id) s = .next ((s.dropPacket p.id).completeThreadCopy id c)) := by
  obtain ⟨hp, hcan, -, -⟩ := ha
  have he : exec (.copyCompletion p.id) s = .next (if !s.canArrive p || s.recordBehind c then s.again (.copyCompletion p.id)
      else (s.dropPacket p.id).completeThreadCopy id c) := by
    show execCopyCompletion p.id s = _
    simp only [execCopyCompletion, State.copy?, hn, hp, hb, State.recordArrives, hc]
  rw [he, hcan]
  exact ⟨fun h => by rw [h]; rfl, fun h => by rw [h]; rfl⟩

theorem State.recordBehind_of_earlier {s : State} {c x : Copy} {i a b : Nat} {y : Packet} (hx : s.copies.get? i = some x)
    (hk : x.core = c.core) (hf : x.frame = c.frame) (ha : x.order = some a) (hb : c.order = some b) (hab : a < b) (hy : y ∈ s.net)
    (hyb : y.body = .copyRecord x.frame x.record i) : s.recordBehind c = true := by
  refine List.any_eq_true.2 ⟨(i, x), NMap.mem_of_get? hx, ?_⟩
  have hnet : s.net.any (fun p => match p.body with | .copyRecord _ _ j => j == i | _ => false) = true :=
    List.any_eq_true.2 ⟨y, hy, by rw [hyb]; exact beq_self_eq_true i⟩
  have h : (x.core == c.core && x.frame == c.frame && decide (x.order.getD 0 < c.order.getD 0) && x.order.isSome) = true := by
    simp [hk, hf, ha, hb, hab]
  exact Bool.and_eq_true_iff.2 ⟨h, hnet⟩

/-- At a core that runs, a wanted record is placed, or held behind earlier ones. -/
theorem completeThreadCopy_eq {s : State} {id : Nat} {c : Copy} (hw : c.wantsRecord = true) (hp : (s.core c.core).preempted = false)
    (hf : c.frame < 2 ^ 20) (hk : c.core = frameCore c.frame) :
    ((s.core c.core).mail.length < 32 → (s.core c.core).heldRecords = [] → s.completeThreadCopy id c = s.placeRecord id c) ∧
    (32 ≤ (s.core c.core).mail.length ∨ (s.core c.core).heldRecords ≠ [] → s.completeThreadCopy id c = s.holdRecord id c) := by
  have hfull := s.mailFull_iff hf
  rw [← hk] at hfull
  have he : s.completeThreadCopy id c =
      if s.mailFull c.frame || !(s.core c.core).heldRecords.isEmpty then s.holdRecord id c else s.placeRecord id c := by
    simp [State.completeThreadCopy, hw, hp]
  rw [he]
  refine ⟨fun hl hh => if_neg ?_, fun h => if_pos ?_⟩
  · simp only [Bool.or_eq_true, hfull, hh]
    simp only [List.isEmpty_nil, Bool.not_true, Bool.false_eq_true, or_false]
    omega
  · rw [Bool.or_eq_true, hfull]
    exact h.imp_right (by simp)

theorem holdRecord_holds (s : State) (id : Nat) (c : Copy) :
    let t := s.holdRecord id c
    (t.core c.core).heldRecords = (s.core c.core).heldRecords ++ [id] ∧ (t.core c.core).mail = (s.core c.core).mail ∧
      t.copies = s.copies ∧ t.mems = s.mems := by
  intro t
  have h := (State.core_updCore s c.core c.core (fun x => { x with heldRecords := x.heldRecords ++ [id] })).trans (if_pos rfl)
  have hh := congrArg Core.heldRecords h
  have hm := congrArg Core.mail h
  exact ⟨hh, hm, rfl, by simp [t, State.holdRecord]⟩

theorem State.putDwords_keeps (s : State) (k off : Nat) (ds : List (Word → Word)) :
    (s.putDwords k off ds).cores = s.cores ∧ (s.putDwords k off ds).copies = s.copies := by
  induction ds generalizing s off with
  | nil => exact ⟨rfl, rfl⟩
  | cons d ds ih => exact ih _ _

/-- A message that is parked changes no mailbox, no record held and no copy. -/
theorem State.parkMessage_keeps (s : State) (k : Nat) (p : Packet) :
    ((s.parkMessage k p).core k).mail = (s.core k).mail ∧ ((s.parkMessage k p).core k).heldRecords = (s.core k).heldRecords ∧
      (s.parkMessage k p).copies = s.copies := by
  have hupd (g : Core → Core) (hm : (g (s.core k)).mail = (s.core k).mail) (hh : (g (s.core k)).heldRecords = (s.core k).heldRecords) :
      (((s.dropPacket p.id).updCore k g).core k).mail = (s.core k).mail ∧
        (((s.dropPacket p.id).updCore k g).core k).heldRecords = (s.core k).heldRecords := by
    rw [State.core_updCore, if_pos rfl]
    exact ⟨hm, hh⟩
  unfold State.parkMessage
  extract_lets s1 c
  split
  · obtain ⟨hc, hcop⟩ := State.putDwords_keeps (s1.updCore k (fun c => { c with inbox := c.inbox ++ [p] })) k
      (s1.poolS k + 32 * inboxCount c.inbox) (msgDwords p)
    obtain ⟨h1, h2⟩ := hupd (fun c => { c with inbox := c.inbox ++ [p] }) rfl rfl
    have hcore := congrArg (fun m : NMap Core => m.getD k {}) hc
    exact ⟨(congrArg Core.mail hcore).trans h1, (congrArg Core.heldRecords hcore).trans h2, hcop⟩
  · obtain ⟨h1, h2⟩ := hupd (fun c => { c with overflow := c.overflow ++ [p] }) rfl rfl
    exact ⟨h1, h2, rfl⟩

theorem parkRecord_parks {s : State} {id : Nat} {c d : Copy} (hc : s.copies.get? id = some d) :
    let t := s.parkRecord id c
    (t.core c.core).mail = (s.core c.core).mail ∧ (t.core c.core).heldRecords = (s.core c.core).heldRecords ∧
      t.copies.get? id = some { d with parked := true } := by
  intro t
  let p : Packet := ⟨s.nextId, hubEnd, c.core, 2, c.tag, c.epoch, c.frame, [], s.cycle, .copyRecord c.frame c.record id⟩
  obtain ⟨hm, hh, hcop⟩ := s.fresh.2.parkMessage_keeps c.core p
  have hd : (s.fresh.2.parkMessage c.core p).copies.get? id = some d := by rw [hcop]; exact hc
  have ht : t = { s.fresh.2.parkMessage c.core p with
      copies := (s.fresh.2.parkMessage c.core p).copies.put id { d with parked := true } } := State.updCopy_eq hd _
  rw [ht]
  exact ⟨hm, hh, (NMap.get?_put _ _ _ _).trans (if_pos rfl)⟩

/-- The oldest record held for a core is placed; where its mailbox is full it stays, or is parked at a pre-empted core. -/
theorem exec_mailboxRecordPlace {s : State} {id : Nat} {c : Copy} {l : List Nat} {k : Nat} (hc : s.copies.get? id = some c)
    (hw : c.wantsRecord = true) (hf : c.frame < 2 ^ 20) (hk : k = frameCore c.frame) (hl : (s.core k).heldRecords = id :: l) :
    let s1 := s.updCore k (fun x => { x with heldRecords := l })
    let step := Instr.mailboxRecordPlace k
    ((s.core k).mail.length < 32 → exec step s = .next ((s1.placeRecord id c).later 1 step)) ∧
    (32 ≤ (s.core k).mail.length → (s.core k).preempted = false → exec step s = .next (s.later 8 step)) ∧
    (32 ≤ (s.core k).mail.length → (s.core k).preempted = true → exec step s = .next ((s1.parkRecord id c).later 1 step)) := by
  intro s1 step
  have hfull := s.mailFull_iff hf
  rw [← hk] at hfull
  have hw' : (!c.wantsRecord) = false := by rw [hw]; rfl
  have he : exec step s = if s.mailFull c.frame then
        (if (s.core k).preempted then .next ((s1.parkRecord id c).later 1 step) else .next (s.again step))
      else .next ((s1.placeRecord id c).later 1 step) := by
    show execMailboxRecordPlace k s = _
    simp only [execMailboxRecordPlace, hl, State.copy?, hc, hw', Bool.false_eq_true, if_false]
    rfl
  rw [he]
  refine ⟨fun h => if_neg ?_, fun h hp => ?_, fun h hp => ?_⟩
  · rw [hfull]
    omega
  · rw [if_pos (hfull.2 h), hp]
    rfl
  · rw [if_pos (hfull.2 h), hp]
    rfl

/-! ## The prefetcher (R96) -/

theorem walkLeaf_quiet_mems (s : State) (tag va : Nat) (write : Bool) (level ea pte : Nat) :
    (walkLeaf s tag va write true level ea pte).1.mems = s.mems := by
  unfold walkLeaf
  simp only [or_true, if_true]
  repeat' split
  all_goals rfl

theorem walkFrom_quiet_mems (s : State) (tag va : Nat) (write : Bool) (table level n : Nat) :
    (walkFrom s tag va write true table level n).1.mems = s.mems := by
  induction n generalizing s table level with
  | zero => rfl
  | succ n ih =>
    unfold walkFrom
    extract_lets ea x pte s1
    have hx : x.1.mems = s.mems := by
      simp only [x]
      split
      · exact s.deviceSound_mems _ _ _ _
      · rfl
    have h1 : s1.mems = s.mems := (State.cacheTouch_mems _ _ _ _ _).trans hx
    split
    · exact hx
    · split
      · split
        · exact h1
        · split
          · exact h1
          · split
            · split
              · exact h1
              · exact (ih _ _ _).trans h1
            · exact (walkLeaf_quiet_mems _ _ _ _ _ _ _).trans h1
      · rfl

theorem State.quietWalk_leaves (s : State) (ch tag va : Nat) :
    s.AfterReads (s.quietWalk ch tag va).1 ∧ (s.quietWalk ch tag va).1.mems = s.mems := by
  have hw : s.AfterReads (s.walk tag va false true).1 ∧ (s.walk tag va false true).1.mems = s.mems :=
    ⟨s.afterReads_walk _ _ _ _, walkFrom_quiet_mems _ _ _ _ _ _ _⟩
  unfold State.quietWalk
  split
  · exact ⟨.refl s, rfl⟩
  · dsimp only
    split <;> exact hw

theorem State.readAhead_leaves (s : State) (ch tag va : Nat) : s.AfterReads (s.readAhead ch tag va) ∧ (s.readAhead ch tag va).mems = s.mems := by
  obtain ⟨hw, hm⟩ := s.quietWalk_leaves ch tag va
  unfold State.readAhead
  split
  · rename_i s1 addr host c hq
    rw [hq] at hw hm
    extract_lets x
    have hx : s.AfterReads x.1 := hw.trans (s1.afterReads_deviceSound _ _ _ _)
    have hxm : x.1.mems = s.mems := (s1.deviceSound_mems _ _ _ _).trans hm
    split
    · split
      · exact ⟨hx.trans (State.afterReads_cacheTouch _ _ _ _ _), (State.cacheTouch_mems _ _ _ _ _).trans hxm⟩
      · exact ⟨hx, hxm⟩
    · exact ⟨hw, hm⟩
  · rename_i s1 hq
    rw [hq] at hw hm
    exact ⟨hw, hm⟩

/-- A prefetch reads at most 4 KiB ahead of its stream. -/
theorem exec_geyserPrefetch {s : State} {ch i : Nat} {x : PStream} (hx : (s.geyser ch).streams[i]? = some x) :
    ∃ t : State, exec (.geyserPrefetch ch i) s = .next t ∧ t.mems = s.mems ∧ t.frames = s.frames ∧ t.copies = s.copies ∧
      (4096 ≤ x.ahead → t = s) ∧
      (x.ahead < 4096 → (t.geyser ch).streams = (s.geyser ch).streams.set i { x with ahead := x.ahead + 64 }) := by
  have he : exec (.geyserPrefetch ch i) s = execGeyserPrefetch ch i s := rfl
  rw [he]
  simp only [execGeyserPrefetch, hx]
  split
  · rename_i h
    exact ⟨s, rfl, rfl, rfl, rfl, fun _ => rfl, fun h' => absurd h (by omega)⟩
  · rename_i h
    obtain ⟨hr, hm⟩ := s.readAhead_leaves ch x.tag.toNat (if x.down then x.lo - x.ahead - 64 else x.hi + x.ahead)
    refine ⟨_, rfl, (State.updGeyser_mems _ _ _).trans hm, hr.fields.1, hr.beside.copies, fun h' => absurd h' h, fun _ => ?_⟩
    rw [State.geyser_updGeyser, if_pos rfl, hr.streams]

end Sys2Proof.Machine

namespace Sys2Proof.Machine

/-- A copy between the own pool and host memory meets no error where none is stored. -/
theorem burstError_of_bad {s : State} (hb : s.bad = []) {c : Copy} {b : Burst} (hl : c.isLoad = false) (hh : b.host = true) :
    s.burstError c b = none := by
  simp [State.burstError, hl, hh, poolError_of_bad hb]

/-- Settles O35: the command's rows and its next burst, the pieces of a dense copy, its writes one by one, and its record; each
part by the rule of the step that does it. -/
theorem copyProgress : Obligations.CopyProgress := by
  unfold Obligations.CopyProgress
  refine ⟨?_, ?_, ?_, ?_, ?_, ?_⟩
  · intro s id c hc hp ty n rowb base stride tag
    have hun (h : ¬ (ty = 1 ∨ ty = 2)) : c.masked = false := by
      rw [← Bool.not_eq_true, Copy.masked_iff]; exact h
    refine ⟨copyCommand_waits hc, fun h => ⟨fun hm => ?_, fun hm key he => ?_⟩, fun r j rest hrows hcan hst hstall hch hscr hbud htag hoff => ?_⟩
    · obtain ⟨t, full, ht, hmem, hu, ha⟩ := copyCommand_goes hc hp h (hm.imp_left hun)
      refine ⟨t, _, ht, hu.copy, sameMemory_of_mems hmem, fun h0 => ?_, fun hn => ⟨?_, ?_, fun h0 => ?_⟩,
        fun hn => ⟨?_, ?_, fun h0 => ?_⟩, ha⟩
      · simp [show shRowb c.shape = 0 from h0]
      · simp [copyMask_of_unmasked s (hun hn)]
      · simp [copyMask_of_unmasked s (hun hn)]
      · simp [show shRowb c.shape ≠ 0 from h0, copyRows_of_unmasked s (hun hn), n]
      · simp only [copyMask_of_masked s (c.masked_iff.2 hn)]
        rfl
      · simp only [copyMask_of_masked s (c.masked_iff.2 hn)]
        rfl
      · refine ⟨copyRows s c, by simp [show shRowb c.shape ≠ 0 from h0], fun r j => ?_⟩
        rw [mem_copyRows s (c.masked_iff.2 hn), copyMask_of_masked s (c.masked_iff.2 hn)]
    · have ht := copyCommand_lasting hc hp h (c.masked_iff.2 hm) he
      obtain ⟨y, hy, h1, h2, h3, -⟩ := s.lasting_reports (keyEnd key) c.tag (keyOffset key) none
      exact ⟨_, y, ht, (s.afterReads_lasting _ _ _ _).beside.copies, sameMemory_of_mems (by simp), hy, h1, h2, h3⟩
    · intro va len u
      have he := burstAdmission_charges hc hrows hcan hst hstall hch hscr hbud
      have hb {u2 : State} {e : Except WalkEnd Machine.Trans} (h : u.translate c.channel tag va (!isExternal c.src) = (u2, e)) :
          (s.burstCharged id c len).Beside u2 := by
        have h1 := u.beside_translate c.channel tag va (!isExternal c.src)
        rw [h] at h1
        exact h1
      refine ⟨fun u2 x ht hx => ?_, fun u2 ht => ?_, fun u2 w ht hf hecc hpr => ?_⟩
      · obtain ⟨t, d, b, h1, h2⟩ := burstAdmission_admits (j := j) hc hrows (va := va) (hb ht) hx
        have h3 := (translateBurst_of_device (id := id) (r := r) (j := j) (len := len) htag ht).1 x rfl hx
        exact ⟨t, d, b, he.trans (congrArg _ (h3.trans h1)), h2⟩
      · exact he.trans (congrArg _ ((translateBurst_of_device htag ht).2.1 rfl))
      · obtain ⟨t, d, h1, h2⟩ := burstAdmission_fails hc (hb ht) hcan hst w.code
        have hpr' : (u.part c.tag.toNat).pageReq = false := by
          have hu : u.parts = s.parts := (s.burstCharged_updates hc len).parts
          rw [← hpr]
          simp only [State.part, hu]
          rfl
        have h3 := (translateBurst_of_device (id := id) (r := r) (j := j) (len := len) htag ht).2.2 w rfl hf hecc hpr'
        exact ⟨t, d, he.trans (congrArg _ (h3.trans h1)), h2⟩
  · intro s id c b rest hc hbs hth hty hgot hcan hdead herr _ hmv hm hk hl k load ptr stride place done n hp
    have hptr : (if c.isLoad then c.dst else c.src) = ptr := rfl
    have haw : b.awaited c = false := by
      cases hh : b.host with
      | false => simp [Burst.awaited, hh]
      | true =>
        obtain ⟨-, bs, hbs', -⟩ := hgot hh
        simp [Burst.awaited, hbs']
    obtain ⟨hfail, hpiece⟩ := burstComplete_first hc hbs hl haw herr hdead (Copy.abroad_own hptr hp s) (fun hh => .inl (hgot hh).1)
    refine ⟨fun x hx hne hxh hxl => burstComplete_later hc hbs hx hne hxh hxl, fun w hw => ?_, fun w hw => ?_, fun h0 => ?_⟩
    · exact ⟨_, hfail _ hw, burstFails_transient s id c b w⟩
    · obtain ⟨y, hy⟩ := burstFails_lasting s id c b w
      exact ⟨_, y, hfail _ hw, hy⟩
    · obtain ⟨d, l, h⟩ := burstPiece_moves hc hbs hth hty hgot hcan hmv hk hptr rfl hp
      exact ⟨_, d, l, hpiece h0, h⟩
  · intro s id c b rest hc hbs hth hty hhost hext hcw hcan hdead herr hmv hm hbad hl hp n x all
    have hptr : (if c.isLoad then c.dst else c.src) = c.src := if_neg (ne_true_of_eq_false hext)
    have haw : b.awaited c = false := by simp [Burst.awaited, Copy.isLoad, hext]
    obtain ⟨-, hpiece⟩ := burstComplete_first hc hbs hl haw herr hdead (Copy.abroad_own hptr hp s) (fun _ => .inr hcw)
    obtain ⟨d, h⟩ := burstPiece_host hc hbs hth hty hhost hext hmv hp
    exact ⟨_, d, hpiece (burstError_of_bad hbad hext hhost), h⟩
  · intro s id c b rest hc hbs hth hcan hl h
    have haw : b.awaited c = false := by
      rcases h with h | ⟨-, h⟩ <;> simp [Burst.awaited, h]
    obtain ⟨d, hu, hb, hd, hby, hst⟩ := State.Updates.hostErr hc (by simp [Copy.isPush, hth]) hcan b
    exact ⟨_, d, burstComplete_hostErr hc hbs hl haw (h.imp_right And.left), hu.copy, sameMemory_of_mems (by simp), hu.late,
      by rw [hb, hbs]; rfl, hd, hby, hst⟩
  · intro s pre post l hs hid hlast hm step
    have he : exec step s = .next (s.lateStep l) := exec_late hs hid
    have hw := State.lateWaits_iff hs hid hlast
    refine ⟨fun h => ?_, fun h => ?_⟩
    · rw [he, State.lateStep, if_pos (hw.2 h)]
    · have hgo : exec step s = .next (s.performLate l) := by
        rw [he, State.lateStep, if_neg (fun h' => ?_)]
        obtain ⟨x, hx, ho, hb⟩ := hw.1 h'
        exact h x hx ho hb
      exact ⟨fun hdev => ⟨_, hgo, performLate_device hs hid hdev hm⟩,
        fun hdev hp hk hf hwd hcan => ⟨_, hgo, performLate_own hs hid hdev hp hk hf hwd hcan hm⟩⟩
  · intro s id c hc hend hth hr hf hk ty st k count rec0 record entry wanted engine off acq writing end_ places
    have hwant : c.wantsRecord = true ↔ wanted := Copy.wantsRecord_iff hr
    have hlt : c.core < 2 ^ 20 := by
      have hgey : isGeyserFrame c.frame = false := by simpa [isGeyserFrame] using hf
      rw [hk, frameCore, hgey, if_neg Bool.false_ne_true]
      omega
    refine ⟨fun hord hpark => ?_, fun p ha hdst hbody hnone hw => ?_, fun l hheld hw => ?_, fun ch i x hx => ?_⟩
    · obtain ⟨hhead, hpost⟩ := exec_copyCompletion hc hend hth hord hpark
      have hacq : flAcq c.flags = acq := rfl
      have hwaits (others : Bool) (h : ¬ s.writesDone id c others = true) : s.writesDone id c others = false := Bool.eq_false_iff.2 h
      have hdone := s.writesDone_iff id hth
      refine ⟨fun hty hh hwr ha hsc => (hhead hty hh).1 (hwaits _ ?_), fun hty hh hwr hp hco hg hm hq => ?_,
        fun hh => ⟨fun hwr h3 h4 => (hpost hh).1 (hwaits _ ?_), fun hwr hw => ?_, fun hwr hw => ?_⟩⟩
      · rw [hdone]
        simp only [show shType c.shape = 1 from hty, show c.flags.getLsbD 0 = true from ha, hsc]
        simpa using hwr
      · obtain ⟨h1, h2, h3, h4, h5⟩ := copyCompletion_header hc hp hco rfl hg hm hq
        have hgo := (hhead hty hh).2 ((hdone true).2 (hwr.imp_right fun h => .inr ⟨?_, h.imp_right (⟨rfl, ·⟩)⟩))
        · exact ⟨_, _, hgo, h1, h2, rfl, h3, h4, h5⟩
        · rw [show shType c.shape = 1 from hty]
          decide
      · rw [hdone]
        rintro (h | h | ⟨h, h' | ⟨h', -⟩⟩)
        · exact h hwr
        · exact h3 h
        · rcases h4 with h4 | h4
          · exact h h4
          · rw [show c.flags.getLsbD 0 = true from h4] at h'
            cases h'
        · cases h'
      · have hgo := (hpost hh).2 ((hdone false).2 (hwr.imp_right (Or.imp_right (And.imp_right .inl))))
        obtain ⟨d, p, h⟩ := postRecord_sends hc (hwant.2 hw) (hlt.trans (by decide))
        exact ⟨_, d, p, hgo, h⟩
      · have hgo := (hpost hh).2 ((hdone false).2 (hwr.imp_right (Or.imp_right (And.imp_right .inl))))
        obtain ⟨h1, h2, h3, h4, h5, -⟩ := copyGone_leaves s id hr
        have hpost' : s.postRecord id c = s.copyGone id c := if_pos (by simpa using fun h => hw (hwant.1 h))
        exact ⟨_, hgo.trans (congrArg _ hpost'), h1, h2, h3, h5, sameMemory_of_mems h4⟩
    · intro arrives
      have hpre : (s.core c.core).preempted = false := by
        have h := ha.2.2.2
        rw [hdst] at h
        exact h hlt
      obtain ⟨hbehind, hfree⟩ := exec_recordArrives ha hnone hbody hc
      let s1 := s.dropPacket p.id
      obtain ⟨hplace, hhold⟩ := completeThreadCopy_eq (s := s1) (id := id) (hwant.2 hw) hpre hf hk
      refine ⟨fun i a b x y hx hxk hxf hxa hca hab hy hyb => hbehind (State.recordBehind_of_earlier hx hxk hxf hxa hca hab hy hyb),
        fun hb => ⟨fun hl hh hwt hrun => ?_, fun h => ?_⟩⟩
      · have hp := State.placed_placeRecord (s := s1) (id := id) hr hf hk hwt hrun
        exact ⟨_, (hfree hb).trans (congrArg _ (hplace hl hh)), hp.mail, hp.copies, hp.kept, hp.engine, hp.quiet,
          sameMemory_of_mems (hp.mems.trans (s.dropPacket_mems _)), hp.net⟩
      · obtain ⟨h1, h2, h3, h4⟩ := holdRecord_holds s1 id c
        exact ⟨_, (hfree hb).trans (congrArg _ (hhold h)), h1, h2, h3, sameMemory_of_mems (h4.trans (s.dropPacket_mems _))⟩
    · obtain ⟨hplace, hagain, hpark⟩ := exec_mailboxRecordPlace hc (hwant.2 hw) hf hk hheld
      let s1 := s.updCore c.core (fun x => { x with heldRecords := l })
      have hcore : s1.core c.core = { s.core c.core with heldRecords := l } := by
        simp only [s1]
        rw [State.core_updCore, if_pos rfl]
      have hmail := congrArg Core.mail hcore
      have hrest := congrArg Core.heldRecords hcore
      refine ⟨fun hl hwt hrun => ?_, hagain, fun hl hp => ?_⟩
      · have hp := State.placed_placeRecord (s := s1) (id := id) hr hf hk hwt hrun
        exact ⟨_, hplace hl, hp.mail.trans (congrArg (· ++ _) hmail), hp.copies, hp.kept, hp.engine, hp.quiet,
          sameMemory_of_mems (by simp [hp.mems, s1]), hp.held.trans hrest⟩
      · obtain ⟨h1, h2, h3⟩ := parkRecord_parks (s := s1) (c := c) hc
        exact ⟨_, _, hpark hl hp, h2.trans hrest, h3, rfl, h1.trans hmail⟩
    · obtain ⟨t, h1, h2, h3⟩ := exec_geyserPrefetch hx
      exact ⟨t, h1, sameMemory_of_mems h2, h3⟩

end Sys2Proof.Machine

namespace Sys2Proof.Machine

theorem Frame.initial_eq (k : Nat) : Frame.initial k = { status := if isGeyserFrame k = true ∧ frameNum k = 0 then 2 else 0 } := by
  by_cases hg : isGeyserFrame k = true <;> by_cases hn : k % 4 = 0 <;> simp [Frame.initial, frameNum, hg, hn]

/-- Settles O56: every map of the reset state is empty, so that each register reads its default. -/
theorem reset : Obligations.Reset := by
  unfold Obligations.Reset
  refine ⟨rfl, rfl, rfl, rfl, rfl, rfl, rfl, fun k => ?core, fun k => ?frame, fun ch t => ⟨rfl, rfl, rfl, rfl, rfl⟩,
    fun p => ⟨rfl, rfl, rfl, rfl, rfl, rfl, fun i => ⟨rfl, rfl, rfl, rfl⟩⟩, fun v => ⟨rfl, rfl, rfl, rfl, rfl, rfl, rfl, rfl⟩,
    rfl, rfl, rfl, rfl, fun m => rfl, fun n => ⟨rfl, rfl⟩⟩
  case core => exact ⟨rfl, rfl, rfl, rfl, rfl, rfl, rfl, rfl, rfl, fun i _ => rfl, fun i => rfl⟩
  case frame =>
    have hf : State.reset.frame k = { status := if isGeyserFrame k = true ∧ frameNum k = 0 then 2 else 0 } :=
      Frame.initial_eq k
    rw [hf]
    exact ⟨rfl, rfl, rfl, rfl, rfl, rfl, rfl, rfl, rfl, rfl⟩

end Sys2Proof.Machine

namespace Sys2Proof.Machine

/-! ## Canonical memories are equal when they read alike -/

theorem Mem.readLE_lt (m : Mem) (a n : Nat) : m.readLE a n < 2 ^ (8 * n) := by
  induction n generalizing a with
  | zero => simp [Mem.readLE]
  | succ n ih =>
    have hb := (m.read a).isLt
    have hr := ih (a + 1)
    have hp : 2 ^ (8 * (n + 1)) = 2 ^ 8 * 2 ^ (8 * n) := by rw [← pow_add]; congr 1; omega
    simp only [Mem.readLE, hp]
    omega

/-- The cell at the head of a canonical memory reads as its byte, which is not zero. -/
theorem Mem.read_cons_of_wf {c lo : Nat} {v : Byte} {m : Mem} (h : Mem.wfAbove lo ((c, v) :: m) = true) :
    Mem.read c ((c, v) :: m) = v ∧ v ≠ 0 ∧ m.wfAbove (c + 1) = true := by
  simp only [Mem.wfAbove, Bool.and_eq_true, decide_eq_true_eq, bne_iff_ne] at h
  exact ⟨by simp [Mem.read], h.1.2, h.2⟩

theorem Mem.read_cons_of_lt {c a : Nat} {v : Byte} {m : Mem} (hm : m.wfAbove (c + 1) = true) (h : a < c) :
    Mem.read a ((c, v) :: m) = 0 := by
  simp [Mem.read, show c ≠ a by omega, Mem.read_of_wfAbove a (c + 1) m hm (by omega)]

/-- The first cells of two canonical memories that read alike stand at one address: else the lower of the two would read as
zero in the other memory. -/
theorem Mem.head_eq {c d lo : Nat} {v w : Byte} {m k : Mem} (hm : Mem.wfAbove lo ((c, v) :: m) = true)
    (hk : Mem.wfAbove lo ((d, w) :: k) = true) (h : ∀ a, Mem.read a ((c, v) :: m) = Mem.read a ((d, w) :: k)) : c = d := by
  obtain ⟨hv, hv0, hm'⟩ := Mem.read_cons_of_wf hm
  obtain ⟨hw, hw0, hk'⟩ := Mem.read_cons_of_wf hk
  rcases Nat.lt_trichotomy c d with hlt | heq | hlt
  · exact absurd ((hv.symm.trans (h c)).trans (Mem.read_cons_of_lt hk' hlt)) hv0
  · exact heq
  · exact absurd ((hw.symm.trans (h d).symm).trans (Mem.read_cons_of_lt hm' hlt)) hw0

theorem Mem.eq_of_read {m k : Mem} {lo : Nat} (hm : m.wfAbove lo = true) (hk : k.wfAbove lo = true)
    (h : ∀ a, m.read a = k.read a) : m = k := by
  induction m generalizing k lo with
  | nil =>
    cases k with
    | nil => rfl
    | cons y k =>
      obtain ⟨hw, hw0, -⟩ := Mem.read_cons_of_wf hk
      exact absurd (hw.symm.trans (h y.1).symm) hw0
  | cons x m ih =>
    obtain ⟨c, v⟩ := x
    obtain ⟨hv, hv0, hm'⟩ := Mem.read_cons_of_wf hm
    cases k with
    | nil => exact absurd (hv.symm.trans (h c)) hv0
    | cons y k =>
      obtain ⟨d, w⟩ := y
      obtain ⟨hw, -, hk'⟩ := Mem.read_cons_of_wf hk
      obtain rfl := Mem.head_eq hm hk h
      have hvw : v = w := hv.symm.trans ((h c).trans hw)
      have htail (a : Nat) : Mem.read a m = Mem.read a k := by
        by_cases hac : c = a
        · rw [← hac, Mem.read_of_wfAbove c _ m hm' (by omega), Mem.read_of_wfAbove c _ k hk' (by omega)]
        · simpa [Mem.read, hac] using h a
      rw [hvw, ih hm' hk' htail]

/-! ## A word access at its bank (R50, R253, R254) -/

/-- An access whose effect writes a word stores its low bytes and leaves every other byte. -/
theorem Mem.writeLE_stores {m : Mem} (hm : m.wf = true) (a n x : Nat) :
    (m.writeLE a n x).readLE a n = x % 2 ^ (8 * n) ∧ ∀ b : Nat, b < a ∨ a + n ≤ b → (m.writeLE a n x).read b = m.read b :=
  ⟨Mem.readLE_writeLE_self n a x m hm, fun b hb => Mem.read_writeLE_ne n a b x m hb⟩

/-- The expected value of a CAS is compared with the stored bytes as numbers of that many bytes. -/
theorem lowBytes_eq_natWord_iff {n old : Nat} (hn : n ≤ 8) (hold : old < 2 ^ (8 * n)) (x : Word) :
    lowBytes n x = natWord old ↔ x.toNat % 2 ^ (8 * n) = old := by
  have hle : 2 ^ (8 * n) ≤ 2 ^ 64 := Nat.pow_le_pow_right (by decide) (by omega)
  have hx : x.toNat % 2 ^ (8 * n) < 2 ^ (8 * n) := Nat.mod_lt _ (by positivity)
  rw [lowBytes, ← BitVec.toNat_inj, BitVec.toNat_ofNat, BitVec.toNat_ofNat,
    Nat.mod_eq_of_lt (show x.toNat % 2 ^ (8 * n) < 2 ^ 64 by omega), Nat.mod_eq_of_lt (show old < 2 ^ 64 by omega)]

theorem State.bankAccess_store {s : State} {k : Nat} {a : WordAcc} {x : Word}
    (h : (accEffect a (s.poolRead k (s.reduce k a.off) a.size)).1 = some x) :
    (s.bankAccess k a).1.pool = s.pool.writeLE (poolKey k (s.reduce k a.off)) a.size x.toNat := by
  unfold State.bankAccess
  simp only [h]
  split <;> rfl

theorem State.bankAccess_keeps_pool {s : State} {k : Nat} {a : WordAcc}
    (h : (accEffect a (s.poolRead k (s.reduce k a.off) a.size)).1 = none) : (s.bankAccess k a).1.pool = s.pool := by
  unfold State.bankAccess
  simp only [h]
  split <;> rfl

theorem State.bankAccess_isFull {s : State} {k : Nat} {a : WordAcc} {b : Bool}
    (h : (accEffect a (s.poolRead k (s.reduce k a.off) a.size)).2.2 = some b) :
    (s.bankAccess k a).1.isFull k (s.reduce k a.off) = b := by
  unfold State.bankAccess
  simp only [h]
  exact State.isFull_setFull _ rfl b

theorem State.bankAccess_keeps_full {s : State} {k : Nat} {a : WordAcc}
    (h : (accEffect a (s.poolRead k (s.reduce k a.off) a.size)).2.2 = none) : (s.bankAccess k a).1.full = s.full := by
  unfold State.bankAccess
  simp only [h]
  split <;> rfl

/-! ## The combining table of AMO (R253) -/

theorem amoCombine_eight (old b : Word) :
    ∀ x ∈ [(AmoOp.swap, b), (.add, old + b), (.and, old &&& b), (.or, old ||| b), (.xor, old ^^^ b),
        (.min, if b.toInt < old.toInt then b else old), (.max, if old.toInt < b.toInt then b else old),
        (.minu, if b.toNat < old.toNat then b else old), (.maxu, if old.toNat < b.toNat then b else old)],
      amoCombine x.1 8 old b = x.2 := by
  simp [amoCombine, minS, maxS, minU, maxU, BitVec.slt, BitVec.ult]

theorem amoCombine_four (o c : BitVec 32) :
    ∀ x ∈ [(AmoOp.swap, c), (.add, o + c), (.and, o &&& c), (.or, o ||| c), (.xor, o ^^^ c),
          (.min, if c.toInt < o.toInt then c else o), (.max, if o.toInt < c.toInt then c else o),
          (.minu, if c.toNat < o.toNat then c else o), (.maxu, if o.toNat < c.toNat then c else o)],
        amoCombine x.1 4 (o.setWidth 64) (c.setWidth 64) = x.2.setWidth 64 := by
  simp [amoCombine, minS, maxS, minU, maxU, BitVec.slt, BitVec.ult]

/-- Settles O7: the little-endian laws of a memory, `Mem.eq_of_read`, and what `accEffect` gives for each operation. -/
theorem memoryReadsBack : Obligations.MemoryReadsBack := by
  unfold Obligations.MemoryReadsBack
  refine ⟨fun m a n x hm => ⟨Mem.readLE_writeLE_self n a x m hm, Mem.wf_writeLE n a x m hm,
      fun b hb => Mem.read_writeLE_ne n a b x m hb⟩, fun m k hm hk h => Mem.eq_of_read hm hk h,
    fun s k a hs => ?bank, fun old b => ⟨amoCombine_eight old b, amoCombine_four⟩⟩
  case bank =>
    intro off key old r stores
    have hstores {x : Word} (h : (accEffect a (natWord old)).1 = some x) : stores x.toNat := by
      simp only [stores, r, State.bankAccess_store h]
      exact Mem.writeLE_stores hs key a.size x.toNat
    have hvalue : r.2 = (accEffect a (natWord old)).2.1 := rfl
    refine ⟨fun h => ?_, fun h => ?_, fun h => ?_, fun h => ?_, fun h => ?_, fun h => ?_, fun h => ?_, fun op h => ?_, fun h => ?_⟩
    · simp [r, State.bankAccess, accEffect, h, State.poolRead, old, key, off]
    · exact ⟨hstores (by simp [accEffect, h]), State.bankAccess_keeps_full (by simp [accEffect, h])⟩
    · exact ⟨by rw [hvalue]; simp [accEffect, h], State.bankAccess_keeps_pool (by simp [accEffect, h]),
        State.bankAccess_isFull (by simp [accEffect, h])⟩
    · simp [r, State.bankAccess, accEffect, h, State.poolRead, old, key, off]
    · exact ⟨hstores (by simp [accEffect, h]), State.bankAccess_isFull (by simp [accEffect, h])⟩
    · exact ⟨State.bankAccess_keeps_pool (by simp [accEffect, h]), State.bankAccess_isFull (by simp [accEffect, h])⟩
    · exact ⟨State.bankAccess_keeps_pool (by simp [accEffect, h]), State.bankAccess_isFull (by simp [accEffect, h])⟩
    · exact ⟨by rw [hvalue]; simp [accEffect, h], State.bankAccess_keeps_full (by simp [accEffect, h]),
        hstores (by simp [accEffect, h])⟩
    · have heq (hn : a.size ≤ 8) : lowBytes a.size a.expect = natWord old ↔ a.expect.toNat % 2 ^ (8 * a.size) = old :=
        lowBytes_eq_natWord_iff hn (Mem.readLE_lt s.pool key a.size) a.expect
      refine ⟨by rw [hvalue]; simp [accEffect, h], State.bankAccess_keeps_full (by simp [accEffect, h]), fun hn he => ?_,
        fun hn he => ?_⟩
      · exact hstores (by simp only [accEffect, h]; exact if_pos ((heq hn).2 he))
      · exact State.bankAccess_keeps_pool (by simp only [accEffect, h]; exact if_neg (mt (heq hn).1 he))

end Sys2Proof.Machine

namespace Sys2Proof.Machine

/-! ## What a write of one unit leaves (R394) -/

theorem sameMemory_of_fields {s t : State} (hp : t.pool = s.pool) (hg : t.gpool = s.gpool) (hd : t.dev = s.dev)
    (hh : t.host = s.host) (hf : t.full = s.full) : SameMemory s t :=
  ⟨fun a => by rw [hp], fun a => by rw [hg], fun a => by rw [hd], fun a => by rw [hh], hf⟩

theorem SameMemory.refl (s : State) : SameMemory s s := sameMemory_of_fields rfl rfl rfl rfl rfl

/-- From s to t only one partition's record changes among frames, hub, functions and partitions. -/
def State.SetsPart (s : State) (tag : Nat) (q : Part) (t : State) : Prop :=
  t.part tag = q ∧ (∀ u : Nat, u ≠ tag → t.part u = s.part u) ∧ SameMemory s t ∧ t.frames = s.frames ∧ t.hub = s.hub ∧
    t.vfs = s.vfs

def State.SetsVf (s : State) (n : Nat) (g : Vf) (t : State) : Prop :=
  t.vf n = g ∧ (∀ u : Nat, u ≠ n → t.vf u = s.vf u) ∧ SameMemory s t ∧ t.frames = s.frames ∧ t.hub = s.hub ∧ t.parts = s.parts

def State.SetsHub (s : State) (g : Hub) (t : State) : Prop :=
  t.hub = g ∧ SameMemory s t ∧ t.frames = s.frames ∧ t.vfs = s.vfs ∧ t.parts = s.parts

theorem State.setsPart_updPart (s : State) (tag : Nat) (g : Part → Part) : s.SetsPart tag (g (s.part tag)) (s.updPart tag g) :=
  ⟨by rw [State.part_updPart, if_pos rfl], fun u hu => by rw [State.part_updPart, if_neg hu],
    sameMemory_of_fields rfl rfl rfl rfl rfl, rfl, rfl, rfl⟩

theorem State.setsPart_self (s : State) (tag : Nat) : s.SetsPart tag (s.part tag) s :=
  ⟨rfl, fun _ _ => rfl, .refl s, rfl, rfl, rfl⟩

theorem State.setsVf_updVf (s : State) (n : Nat) (g : Vf → Vf) : s.SetsVf n (g (s.vf n)) (s.updVf n g) :=
  ⟨by rw [State.vf_updVf, if_pos rfl], fun u hu => by rw [State.vf_updVf, if_neg hu],
    sameMemory_of_fields rfl rfl rfl rfl rfl, rfl, rfl, rfl⟩

theorem State.setsHub_updHub (s : State) (g : Hub → Hub) : s.SetsHub (g s.hub) (s.updHub g) :=
  ⟨rfl, sameMemory_of_fields rfl rfl rfl rfl rfl, rfl, rfl, rfl⟩

theorem State.setsHub_self (s : State) : s.SetsHub s.hub s := ⟨rfl, .refl s, rfl, rfl, rfl⟩

/-! ## Writes of the hub's tables (R394) -/

theorem exec_hubTableWrite (w : HubWrite) (s : State) : exec (.hubTableWrite w) s = .next (s.hubWrite w) := rfl

theorem State.noLaunch_iff (s : State) (tag : Nat) : s.noLaunch tag = true ↔ ∀ x ∈ (s.part tag).launches, x.running = false := by
  simp [State.noLaunch]

theorem State.hubWrite_root_aligned (s : State) (tag : Nat) {v : Word} (h : v.toNat % 2 ^ 17 = 0) :
    s.hubWrite (.root tag v) = s.updPart tag (fun p => { p with root := v.toNat }) := if_pos h

theorem State.hubWrite_root_unaligned (s : State) (tag : Nat) {v : Word} (h : v.toNat % 2 ^ 17 ≠ 0) :
    s.hubWrite (.root tag v) = s := if_neg h

theorem State.hubWrite_spillBase_idle (s : State) {tag : Nat} {v : Word} (hi : s.noLaunch tag = true) (hv : v.toNat % 2 ^ 30 = 0) :
    s.hubWrite (.spillBase tag v) = s.updPart tag (fun p => { p with spill := v.toNat }) :=
  if_pos (by rw [hi, hv]; rfl)

theorem State.hubWrite_spillBase_running (s : State) {tag : Nat} (v : Word) (hi : s.noLaunch tag ≠ true) :
    s.hubWrite (.spillBase tag v) = s := if_neg (by simp [hi])

theorem State.hubWrite_powerLimit_accepted (s : State) {n : Nat} (h : 1000 ≤ n ∧ n ≤ 3600) :
    s.hubWrite (.powerLimit n) = s.updHub (fun h => { h with powerLimit := n }) := if_pos h

theorem State.hubWrite_powerLimit_discarded (s : State) {n : Nat} (h : n < 1000 ∨ 3600 < n) : s.hubWrite (.powerLimit n) = s :=
  if_neg (by omega)

/-! ## Ring registrations (R414, R415) -/

theorem State.hubWrite_ring_beyond (s : State) (tag w : Nat) {m : Nat} (v : Word) (h : 64 ≤ m) : s.hubWrite (.ring tag m w v) = s :=
  if_neg (by omega)

/-- A rewritten ring that is off, has nothing pending, or neither reaches its count nor has a time, gives no notice. -/
theorem State.rearmRing_quiet {s : State} {tag i : Nat} {r : Ring} (hr : s.ringOf tag i = r)
    (h : r.en = false ∨ r.pending = 0 ∨ (r.pending < max r.ccount.toNat 1 ∧ r.ctime = 0)) : s.rearmRing tag i = s := by
  unfold State.rearmRing
  rw [hr]
  rcases h with h | h | ⟨h, hc⟩
  · rw [if_pos (by simp [h])]
  · rw [if_pos (by simp [h])]
  · by_cases h0 : (!r.en || r.pending == 0) = true
    · rw [if_pos h0]
    · rw [if_neg h0, if_neg (by omega), if_pos hc]

theorem State.rearmRing_timed {s : State} {tag i : Nat} {r : Ring} (hr : s.ringOf tag i = r) (he : r.en = true) (hp : 0 < r.pending)
    (hc : r.pending < max r.ccount.toNat 1) (ht : r.ctime ≠ 0) :
    s.rearmRing tag i = s.later (nsCycles (r.oldest + r.ctime.toNat - s.time)) (.ringNoticeTimeout tag i) := by
  unfold State.rearmRing
  rw [hr, if_neg (by simp [he]; omega), if_neg (by omega), if_neg ht]

theorem State.rearmRing_due {s : State} {tag i : Nat} {r : Ring} (hr : s.ringOf tag i = r) (he : r.en = true) (hp : 0 < r.pending)
    (hc : max r.ccount.toNat 1 ≤ r.pending) : s.rearmRing tag i = s.notice tag i := by
  unfold State.rearmRing
  rw [hr, if_neg (by simp [he]; omega), if_pos hc]

/-- Asking for a control block changes neither partitions nor the cause table. -/
theorem State.askRing_keeps (s : State) (vf rcb : Nat) :
    (s.askRing vf rcb).parts = s.parts ∧ (s.askRing vf rcb).hub.causes = s.hub.causes ∧ (s.askRing vf rcb).hub.crcb = s.hub.crcb := by
  unfold State.askRing
  dsimp only
  split
  · exact ⟨rfl, rfl, rfl⟩
  · split <;> exact ⟨rfl, rfl, rfl⟩

theorem State.serveCauses_keeps (s : State) :
    s.serveCauses.parts = s.parts ∧ s.serveCauses.hub.causes = s.hub.causes ∧ s.serveCauses.hub.crcb = s.hub.crcb := by
  unfold State.serveCauses
  split
  · exact ⟨rfl, rfl, rfl⟩
  · exact s.askRing_keeps _ _

/-- While the hub holds no entries back an event takes a place of its own. -/
theorem State.raiseCause_enters {s : State} (h : s.causesHeld = false) (kind vf cause : Nat) (detail : Word) (count : Nat) :
    (s.raiseCause kind vf cause detail count).parts = s.parts ∧
      (s.raiseCause kind vf cause detail count).hub.causes = s.hub.causes ++
        [⟨BitVec.ofNat 8 kind, BitVec.ofNat 11 vf, BitVec.ofNat 8 cause, BitVec.ofNat 32 count, detail, natWord s.time⟩] := by
  unfold State.raiseCause
  rw [if_neg (by simp [h]), if_pos (by simp [State.causeRoom, h])]
  obtain ⟨hp, hc, -⟩ := State.serveCauses_keeps (s.updHub (fun x => { x with causes := x.causes ++
    [⟨BitVec.ofNat 8 kind, BitVec.ofNat 11 vf, BitVec.ofNat 8 cause, BitVec.ofNat 32 count, detail, natWord s.time⟩] }))
  exact ⟨hp, hc⟩

/-- The notice of a partition's ring: its count is zero again, and the cause table has an entry of kind 5. -/
theorem State.notice_enters {s : State} {tag i : Nat} {r : Ring} (hr : s.ringOf tag i = r) (ht : tag ≠ 1024)
    (h : s.causesHeld = false) :
    (s.notice tag i).part tag = { s.part tag with rings := (s.part tag).rings.put i { r with pending := 0 } } ∧
      (s.notice tag i).hub.causes = s.hub.causes ++
        [⟨5, BitVec.ofNat 11 (tag + 1), 0, BitVec.ofNat 32 r.pending, 0, natWord s.time⟩] := by
  unfold State.notice
  simp only [hr, if_neg ht]
  have hset : s.setRing tag i { r with pending := 0 } =
      s.updPart tag (fun p => { p with rings := p.rings.put i { r with pending := 0 } }) := if_neg ht
  rw [hset]
  obtain ⟨hp, hc⟩ := State.raiseCause_enters (s := s.updPart tag (fun p => { p with rings := p.rings.put i { r with pending := 0 } }))
    h 5 (tag + 1) 0 0 r.pending
  refine ⟨?_, hc⟩
  rw [State.part, hp]
  exact (s.part_updPart tag tag _).trans (if_pos rfl)

/-- A write of a partition's ring within its table. -/
theorem State.hubWrite_ring (s : State) {tag m : Nat} (w : Nat) (v : Word) (ht : tag < 1024) (hm : m < 64) :
    s.hubWrite (.ring tag m w v) = (s.updPart tag (fun p => { p with
      rings := p.rings.put m (((s.part tag).rings.getD m {}).write w v) })).rearmRing tag m := by
  have ht' : tag ≠ 1024 := by omega
  have h : s.hubWrite (.ring tag m w v) = (s.setRing tag m ((s.ringOf tag m).write w v)).rearmRing tag m := if_pos hm
  rw [h, State.setRing, if_neg ht', State.ringOf, if_neg ht']

theorem State.ringOf_updPart (s : State) {tag m : Nat} (r : Ring) (ht : tag < 1024) :
    (s.updPart tag (fun p => { p with rings := p.rings.put m r })).ringOf tag m = r := by
  rw [State.ringOf, if_neg (by omega), State.part_updPart, if_pos rfl]
  simp

/-- The registration of the cause ring's notices. -/
theorem State.hubWrite_coalesce (s : State) (v : Word) :
    s.hubWrite (.coalesce v) = (s.updHub (fun h => { h with ccoal := s.hub.ccoal.write 1 v })).rearmRing 1024 0 := rfl

/-! ## The pre-emption slice, and a halted thread (R246, R384) -/

theorem State.armSlice_zero (s : State) (tag : Nat) :
    (s.armSlice tag 0).part tag = { s.part tag with slice := 0 } ∧ (∀ e ∈ (s.armSlice tag 0).agenda, e.act ≠ .preemptSlice tag) ∧
      SameMemory s (s.armSlice tag 0) := by
  have h : s.armSlice tag 0 = (s.cancelActs (fun i => decide (i = .preemptSlice tag))).updPart tag (fun p => { p with slice := 0 }) := rfl
  rw [h]
  refine ⟨by rw [State.part_updPart, if_pos rfl]; rfl, fun e he => ?_, sameMemory_of_fields rfl rfl rfl rfl rfl⟩
  have he' : e ∈ (s.cancelActs (fun i => decide (i = .preemptSlice tag))).agenda := he
  simpa using (List.mem_filter.1 he').2

theorem State.armSlice_ne_zero (s : State) (tag : Nat) {v : Word} (hv : v ≠ 0) :
    (s.armSlice tag v).part tag = { s.part tag with slice := v.toNat } ∧ SameMemory s (s.armSlice tag v) ∧
      ∀ e ∈ (s.armSlice tag v).agenda, e.act = .preemptSlice tag → e.notBefore = s.cycle + ((v.toNat - s.time) * 7 + 9) / 10 := by
  let s1 := (s.cancelActs (fun i => decide (i = .preemptSlice tag))).updPart tag (fun p => { p with slice := v.toNat })
  have h : s.armSlice tag v = s1.later (nsCycles (v.toNat - s.time)) (.preemptSlice tag) := if_neg hv
  rw [h]
  refine ⟨?_, sameMemory_of_fields rfl rfl rfl rfl rfl, fun e he hact => ?_⟩
  · have hp : s1.part tag = { s.part tag with slice := v.toNat } := by
      simp only [s1]
      rw [State.part_updPart, if_pos rfl]
      rfl
    exact hp
  · have he' : e ∈ (s.cancelActs (fun i => decide (i = .preemptSlice tag))).agenda ++
        [⟨s.cycle + nsCycles (v.toNat - s.time), .preemptSlice tag⟩] := he
    rcases List.mem_append.1 he' with hold | hnew
    · exact absurd hact (by simpa using (List.mem_filter.1 hold).2)
    · rw [List.mem_singleton.1 hnew]
      rfl

theorem State.debugResume_eq {s : State} {n fk : Nat} (hf : (s.slot n).frame = some fk) (hst : (s.slot n).state = .halted) :
    s.hubWrite (.debugResume n) = if (s.frame fk).atMarker then (s.setSlot n { s.slot n with state := .marker }).resume fk
      else s.setSlot n { s.slot n with state := .run } := by
  have h : s.hubWrite (.debugResume n) = s.debugResume n := rfl
  rw [h]
  unfold State.debugResume
  simp [hf, hst]

theorem State.debugResume_not_halted {s : State} {n : Nat} (hst : (s.slot n).state ≠ .halted) : s.hubWrite (.debugResume n) = s := by
  have h : s.hubWrite (.debugResume n) = s.debugResume n := rfl
  rw [h]
  unfold State.debugResume
  dsimp only
  split
  · rfl
  · rw [if_pos (by simpa using hst)]

/-- The first entry that a condition picks keeps its key when that key's entry is written with a value that meets it too. -/
theorem NMap.find?_put {α : Type} {p : α → Bool} {k : Nat} {v : α} (hv : p v = true) :
    ∀ m : NMap α, (m.find? (fun x => p x.2)).map (·.1) = some k → ((m.put k v).find? (fun x => p x.2)).map (·.1) = some k
  | [], h => by simp at h
  | (a, w) :: m, h => by
    simp only [NMap.put]
    split
    · simp [hv]
    · split
      · simp [hv]
      · rename_i hne
        cases hw : p w with
        | true =>
          rw [List.find?_cons_of_pos (by simpa using hw)] at h
          exact absurd (by simpa using h) hne
        | false =>
          rw [List.find?_cons_of_neg (by simp [hw])] at h ⊢
          exact NMap.find?_put hv m h

theorem State.slotOf_setSlot {s : State} {fk sk : Nat} {r : Slot} (h : s.slotOf fk = some sk) (hr : r.frame = some fk) :
    (s.setSlot sk r).slotOf fk = some sk :=
  NMap.find?_put (p := fun x : Slot => x.frame == some fk) (by simp [hr]) s.slots h

/-- A thread halted at a marker runs when its results have returned, and else waits there for them. -/
theorem State.resume_marker {s : State} {fk sk : Nat} (h : s.slotOf fk = some sk) (hst : (s.slot sk).state = .marker) :
    ((s.resume fk).slot sk).state = if (s.frame fk).outs = [] then .run else .marker := by
  unfold State.resume
  simp only [h, hst, List.isEmpty_iff]
  by_cases ho : (s.frame fk).outs = []
  · rw [if_pos ho, if_pos ho, State.slot_updSlot, if_pos rfl]
  · rw [if_neg ho, if_neg ho, hst]

/-! ## Invalidations and host bytes (R88, R99) -/

theorem State.foldl_later_hub (f : Nat → Nat) (i : Nat → Instr) (l : List Nat) (s : State) :
    (l.foldl (fun s x => s.later (s.delay hubEnd (f x) + 8) (i x)) s).hub = s.hub ∧
      SameMemory s (l.foldl (fun s x => s.later (s.delay hubEnd (f x) + 8) (i x)) s) := by
  induction l generalizing s with
  | nil => exact ⟨rfl, .refl s⟩
  | cons x l ih =>
    obtain ⟨hh, hm⟩ := ih (s.later (s.delay hubEnd (f x) + 8) (i x))
    exact ⟨hh, hm⟩

/-- The invalidation that a register of the hub begins. -/
def State.hubInval (s : State) (tag : BitVec 10) (va len : Nat) (whole : Bool) : Inval :=
  ⟨s.nextId, tag, va, len, whole, s.partChannels tag.toNat, none, 0, none, []⟩

theorem State.startInval_enters (s : State) (tag : BitVec 10) (va len : Nat) (whole : Bool) :
    (s.startInval tag va len whole true none 0 none).hub.invals = s.hub.invals ++ [s.hubInval tag va len whole] ∧
      SameMemory s (s.startInval tag va len whole true none 0 none) := by
  unfold State.startInval
  simp only [if_true]
  split
  · exact ⟨rfl, sameMemory_of_fields rfl rfl rfl rfl rfl⟩
  · obtain ⟨hh, hm⟩ := State.foldl_later_hub (fun ch => 2 ^ 20 + ch) (.tlbInvalidation s.nextId) (s.partChannels tag.toNat)
      (s.fresh.2.updHub (fun h => { h with invals := h.invals ++ [s.hubInval tag va len whole] }))
    exact ⟨congrArg Hub.invals hh, hm⟩

/-- Bytes written to a memory are read back. -/
theorem Mem.bytes_setBytes {m : Mem} (hm : m.wf = true) (a : Nat) (bs : List Byte) :
    (m.setBytes a bs).bytes a bs.length = bs := by
  refine List.ext_getElem (Mem.length_bytes _ _ _) fun i h1 h2 => ?_
  have h := Mem.getD_bytes (m.setBytes a bs) a bs.length i h2
  rw [Mem.read_setBytes_self bs a m hm i h2, List.getD_eq_getElem _ _ h1, List.getD_eq_getElem _ _ h2] at h
  exact h

/-- Settles O53: the written register by register, each as an update of one partition, one function or the hub. -/
theorem hubRegisters : Obligations.HubRegisters := by
  unfold Obligations.HubRegisters
  intro s tag n m v b32 en en2 l p f h gives part vf hub idle
  have hpart (w : HubWrite) (q : Part) (hw : s.SetsPart tag q (s.hubWrite w)) : part w q := ⟨_, exec_hubTableWrite w s, hw⟩
  have hvf (w : HubWrite) (g : Vf) (hw : s.SetsVf n g (s.hubWrite w)) : vf w g := ⟨_, exec_hubTableWrite w s, hw⟩
  have hhub (w : HubWrite) (g : Hub) (hw : s.SetsHub g (s.hubWrite w)) : hub w g := ⟨_, exec_hubTableWrite w s, hw⟩
  have hidle : s.noLaunch tag = true ↔ idle := s.noLaunch_iff tag
  refine ⟨fun w => ⟨_, exec_hubTableWrite w s⟩, fun ha => hpart _ _ ?_, fun ha => hpart _ _ ?_, fun hi ha => hpart _ _ ?_,
    fun hi => hpart _ _ ?_, hpart _ _ (s.setsPart_updPart tag _), hpart _ _ (s.setsPart_updPart tag _),
    hpart _ _ (s.setsPart_updPart tag _), hpart _ _ (s.setsPart_updPart tag _), hpart _ _ (s.setsPart_updPart tag _),
    hpart _ _ (s.setsPart_updPart tag _), hpart _ _ (s.setsPart_updPart tag _), hpart _ _ (s.setsPart_updPart tag _),
    hpart _ _ ?context, hpart _ _ (s.setsPart_updPart tag _), fun hm w => ?_, fun ht hm w r hw hr => ?ring,
    fun hv => ?_, fun hv => ?_, fun ht hm => ?fifo, ?cause, fun r hr => ?coalesce, hhub _ _ (s.setsHub_updHub _),
    hhub _ _ (s.setsHub_updHub _), hhub _ _ (s.setsHub_updHub _), hhub _ _ (s.setsHub_updHub _), fun h1 h2 => hhub _ _ ?_,
    fun hn => hhub _ _ ?_, ⟨hhub _ _ (s.setsHub_updHub _), hhub _ _ (s.setsHub_updHub _), hhub _ _ (s.setsHub_updHub _)⟩,
    hvf _ _ (s.setsVf_updVf n _), hvf _ _ (s.setsVf_updVf n _), hvf _ _ (s.setsVf_updVf n _), hvf _ _ (s.setsVf_updVf n _),
    fun va bs hwf => ?host, fun ht va len => ?inval, fun fk hf hst => ⟨fun hm => ?run, fun hm hs _ => ?marker⟩, fun hst => ?_,
    ⟨_, rfl, rfl⟩, hhub _ _ (s.setsHub_updHub _)⟩
  · rw [s.hubWrite_root_aligned tag ha]; exact s.setsPart_updPart tag _
  · rw [s.hubWrite_root_unaligned tag ha]; exact s.setsPart_self tag
  · rw [s.hubWrite_spillBase_idle (hidle.2 hi) ha]; exact s.setsPart_updPart tag _
  · rw [s.hubWrite_spillBase_running v (mt hidle.1 hi)]; exact s.setsPart_self tag
  case context =>
    have h0 : natBits v.toNat 0 56 = v.toNat % 2 ^ 56 := by simp [natBits]
    rw [← h0]
    exact s.setsPart_updPart tag _
  · rw [exec_hubTableWrite, s.hubWrite_ring_beyond tag w v hm]
  case ring =>
    intro old q
    let s1 := s.updPart tag (fun p => { p with rings := p.rings.put m r })
    have hwr : s.hubWrite (.ring tag m w v) = s1.rearmRing tag m := by rw [s.hubWrite_ring w v ht hm, ← hr]
    have hof : s1.ringOf tag m = r := s.ringOf_updPart r ht
    have hset : s.SetsPart tag q s1 := s.setsPart_updPart tag _
    refine ⟨fun h0 => by rw [hr, h0]; rfl, fun h1 => by rw [hr, h1]; rfl, fun hq => hpart _ _ ?_, fun he hp hc hct => ?_,
      fun he hp hc hh => ?_⟩
    · rw [hwr, State.rearmRing_quiet hof hq]
      exact hset
    · refine ⟨_, exec_hubTableWrite _ s, ?_⟩
      rw [hwr, State.rearmRing_timed hof he hp hc hct]
      obtain ⟨hq, -⟩ := hset
      exact ⟨hq, List.mem_append_right _ (List.mem_singleton.2 rfl)⟩
    · refine ⟨_, exec_hubTableWrite _ s, ?_⟩
      rw [hwr, State.rearmRing_due hof he hp hc]
      obtain ⟨hn, hcs⟩ := State.notice_enters (s := s1) hof (by omega) hh
      obtain ⟨hq, -⟩ := hset
      rw [hq] at hn
      exact ⟨hn, hcs⟩
  · subst hv
    exact ⟨_, exec_hubTableWrite _ s, s.armSlice_zero tag⟩
  · exact ⟨_, exec_hubTableWrite _ s, s.armSlice_ne_zero tag hv⟩
  case fifo =>
    have hw : s.hubWrite (.fifoOwner n m (some tag)) = s.updFifo (n * 64 + m) (fun f => { f with owner := some (BitVec.ofNat 10 tag) }) := by
      have h : s.hubWrite (.fifoOwner n m (some tag)) = s.updFifo (n * 64 + m % 64) (fun f => { f with owner := some (BitVec.ofNat 10 tag) }) := rfl
      rw [h, Nat.mod_eq_of_lt hm]
    refine ⟨_, exec_hubTableWrite _ s, ?_⟩
    rw [hw]
    exact ⟨by rw [State.fifo_updFifo, if_pos rfl], fun u hu => by rw [State.fifo_updFifo, if_neg hu],
      sameMemory_of_fields rfl rfl rfl rfl rfl⟩
  case cause =>
    let s1 := s.updHub (fun h => { h with crcb := v })
    obtain ⟨-, hc, hv⟩ := s1.serveCauses_keeps
    refine ⟨_, exec_hubTableWrite _ s, hv, hc, sameMemory_of_mems s1.serveCauses_mems, fun hq => ?_⟩
    have hs : s.hubWrite (.causeRing v) = s1 := if_pos (hq.imp_right List.isEmpty_iff.2)
    rw [hs]
    rfl
  case coalesce =>
    have hw : s.hubWrite (.coalesce v) = (s.updHub (fun h => { h with ccoal := r })).rearmRing 1024 0 := by
      rw [s.hubWrite_coalesce, hr]
    have hof : (s.updHub (fun h => { h with ccoal := r })).ringOf 1024 0 = r := rfl
    refine ⟨fun hq => hhub _ _ ?_, fun he hp hc => hhub _ _ ?_⟩
    · rw [hw, State.rearmRing_quiet hof (hq.imp_right .inl), hr]
      exact s.setsHub_updHub _
    · rw [hw, State.rearmRing_due hof he hp hc]
      exact ⟨rfl, sameMemory_of_fields rfl rfl rfl rfl rfl, rfl, rfl, rfl⟩
  · rw [s.hubWrite_powerLimit_accepted ⟨h1, h2⟩]; exact s.setsHub_updHub _
  · rw [s.hubWrite_powerLimit_discarded hn]; exact s.setsHub_self
  case host =>
    exact ⟨_, exec_hubTableWrite _ s, Mem.bytes_setBytes hwf _ bs, fun a ha => Mem.read_setBytes_ne bs _ a s.host ha, rfl⟩
  case inval =>
    have htag : (BitVec.ofNat 10 tag).toNat = tag := by rw [BitVec.toNat_ofNat, Nat.mod_eq_of_lt ht]
    obtain ⟨hi, hm⟩ := s.startInval_enters (BitVec.ofNat 10 tag) va len en
    refine ⟨_, exec_hubTableWrite _ s, s.hubInval (BitVec.ofNat 10 tag) va len en, hi, htag, rfl, rfl, rfl, ?_, rfl, hm⟩
    rw [State.hubInval, htag]
  case run =>
    refine ⟨_, exec_hubTableWrite _ s, ?_⟩
    rw [State.debugResume_eq hf hst, if_neg (by simp [hm])]
    exact ⟨by rw [State.slot_setSlot, if_pos rfl], fun u hu => by rw [State.slot_setSlot, if_neg hu], rfl,
      sameMemory_of_fields rfl rfl rfl rfl rfl⟩
  case marker =>
    refine ⟨_, exec_hubTableWrite _ s, ?_⟩
    rw [State.debugResume_eq hf hst, if_pos hm]
    refine State.resume_marker (State.slotOf_setSlot hs hf) ?_
    rw [State.slot_setSlot, if_pos rfl]
  · rw [exec_hubTableWrite, State.debugResume_not_halted hst]

end Sys2Proof.Machine

namespace Sys2Proof.Machine

/-! ## A value that a wait receives (R51) -/

theorem State.keeps_updFrame (s : State) (fk : Nat) (h : Frame → Frame) (hh : (s.frame fk).Keeps (h (s.frame fk))) :
    s.Keeps (s.updFrame fk h) := by
  refine ⟨s.updFrame_mems fk h, rfl, ?_⟩
  show (s.frame s.cur.fk).Keeps ((s.updFrame fk h).frame s.cur.fk)
  rw [State.frame_updFrame]
  split
  · next hk => rw [hk]; exact hh
  · exact .refl _

/-- From s to t a frame of a thread may have gone on: its registers stay, and so do the FIFOs, the other frames and what the
frame holds. -/
structure State.Resumes (s : State) (fk : Nat) (t : State) : Prop where
  keeps : s.Keeps t
  fifos : t.fifos = s.fifos
  cycle : t.cycle = s.cycle
  others : ∀ k : Nat, k ≠ fk → t.frame k = s.frame k
  held : (t.frame fk).held = (s.frame fk).held
  waits : (s.frame fk).waits = [] → (t.frame fk).waits = []

theorem State.Resumes.refl (s : State) (fk : Nat) : s.Resumes fk s := ⟨.refl s, rfl, rfl, fun _ _ => rfl, rfl, id⟩

theorem State.Resumes.updSlot {s t : State} {fk : Nat} (h : s.Resumes fk t) (sk : Nat) (g : Slot → Slot) :
    s.Resumes fk (t.updSlot sk g) :=
  ⟨h.keeps.trans (State.keeps_of_eq (t.updSlot_mems sk g) rfl rfl), h.fifos, h.cycle, h.others, h.held, h.waits⟩

theorem State.resumes_updFrame (s : State) (fk : Nat) {g : Frame → Frame} (hk : (s.frame fk).Keeps (g (s.frame fk)))
    (hh : (g (s.frame fk)).held = (s.frame fk).held) (hw : (s.frame fk).waits = [] → (g (s.frame fk)).waits = []) :
    s.Resumes fk (s.updFrame fk g) := by
  have hf : (s.updFrame fk g).frame fk = g (s.frame fk) := by rw [State.frame_updFrame, if_pos rfl]
  exact ⟨s.keeps_updFrame fk g hk, rfl, rfl, fun k hne => by rw [State.frame_updFrame, if_neg hne], by rw [hf, hh],
    fun h => by rw [hf]; exact hw h⟩

theorem State.resumes_resume (s : State) (fk : Nat) : s.Resumes fk (s.resume fk) := by
  have hmark := s.resumes_updFrame fk (g := fun f => { f with pend := [], due := f.due ++ f.dueMark, dueMark := [] })
    ⟨rfl, rfl, rfl, rfl, .refl _⟩ rfl id
  have hwait := s.resumes_updFrame fk (g := fun f => { f with waits := f.waits.erase 11 }) ⟨rfl, rfl, rfl, rfl, .refl _⟩ rfl
    (fun h => by simp [h])
  unfold State.resume
  split
  · exact .refl s fk
  · extract_lets f s1
    split
    · split
      · exact hmark.updSlot _ _
      · exact .refl s fk
    · have h1 : s.Resumes fk s1 := by
        simp only [s1]
        split
        · exact hwait
        · exact .refl s fk
      split
      · exact h1.updSlot _ _
      · exact h1
    · exact .refl s fk

/-- A wait of a frame's bundle is met with a value. -/
structure State.Gives (s : State) (fk wait : Nat) (v : Word) (t : State) : Prop where
  keeps : s.Keeps t
  fifos : t.fifos = s.fifos
  cycle : t.cycle = s.cycle
  others : ∀ k : Nat, k ≠ fk → t.frame k = s.frame k
  held : (t.frame fk).held.get? wait = some v
  waits : (s.frame fk).waits = [wait] → (t.frame fk).waits = []

theorem State.gives_giveWait (s : State) (fk wait : Nat) (v : Word) : s.Gives fk wait v (s.giveWait fk wait v) := by
  let s1 := s.updFrame fk (fun f => { f with held := f.held.put wait v, waits := f.waits.erase wait })
  have hf : s1.frame fk = { s.frame fk with held := (s.frame fk).held.put wait v, waits := (s.frame fk).waits.erase wait } := by
    simp [s1, State.frame_updFrame]
  have hr : s1.Resumes fk (s.giveWait fk wait v) := s1.resumes_resume fk
  refine ⟨(s.keeps_updFrame fk _ ⟨rfl, rfl, rfl, rfl, .refl _⟩).trans hr.keeps, hr.fifos, hr.cycle, fun k hk => ?_, ?_, fun hw => ?_⟩
  · rw [hr.others k hk, State.frame_updFrame, if_neg hk]
  · rw [hr.held, hf]
    simp [NMap.get?_put]
  · exact hr.waits (by rw [hf]; simp [hw])

/-! ## A FIFO's waiting operations (R65) -/

/-- The thread in issue has put its pop or push into a FIFO. -/
theorem State.updFifo_self (s : State) (n : Nat) (g : Fifo → Fifo) : (s.updFifo n g).fifo n = g (s.fifo n) := by
  rw [State.fifo_updFifo, if_pos rfl]

theorem State.keeps_updFifo (s : State) (n : Nat) (g : Fifo → Fifo) : s.Keeps (s.updFifo n g) :=
  State.keeps_of_eq (s.updFifo_mems n g) rfl rfl

theorem State.frame_updFifo (s : State) (n k : Nat) (g : Fifo → Fifo) : (s.updFifo n g).frame k = s.frame k := rfl

theorem State.fifo_of_fifos {s t : State} (h : t.fifos = s.fifos) (n : Nat) : t.fifo n = s.fifo n := by simp [State.fifo, h]

/-- A FIFO is rewritten and a thread receives what it waited for there: FIFO n becomes f. -/
structure State.Serves1 (s : State) (n : Nat) (f : Fifo) (fk wait : Nat) (v : Word) (t : State) : Prop where
  keeps : s.Keeps t
  fifo : t.fifo n = f
  cycle : t.cycle = s.cycle
  others : ∀ k : Nat, k ≠ fk → t.frame k = s.frame k
  held : (t.frame fk).held.get? wait = some v
  waits : (s.frame fk).waits = [wait] → (t.frame fk).waits = []

theorem State.serves1_giveWait (s : State) (n : Nat) (f : Fifo) (fk wait : Nat) (v : Word) :
    s.Serves1 n f fk wait v ((s.updFifo n (fun _ => f)).giveWait fk wait v) := by
  have h := (s.updFifo n (fun _ => f)).gives_giveWait fk wait v
  refine ⟨(s.keeps_updFifo n _).trans h.keeps, ?_, h.cycle, h.others, h.held, h.waits⟩
  rw [State.fifo_of_fifos h.fifos, State.updFifo_self]

theorem fifoLeave_serves (s : State) (n : Nat) (o : FifoWaiter) (x : Word) (xs : List Word) :
    s.Serves1 n { s.fifo n with items := xs, waiting := (s.fifo n).waiting.erase o, poppedAt := some s.cycle } o.frame o.wait x
      (fifoLeave s n o x xs) := s.serves1_giveWait n _ _ _ _

theorem fifoEnter_serves (s : State) (n : Nat) (u : FifoWaiter) :
    s.Serves1 n { s.fifo n with items := (s.fifo n).items ++ [u.value.getD 0], waiting := (s.fifo n).waiting.erase u, pushedAt := some s.cycle }
      u.frame u.wait 0 (fifoEnter s n u) := s.serves1_giveWait n _ _ _ _

/-- A FIFO after an operation has joined its waiting ones. -/
def Fifo.joined (f : Fifo) (w : FifoWaiter) : Fifo := { f with waiting := f.waiting ++ [w] }

theorem State.fifoJoin_eq (s : State) (n : Nat) (w : FifoWaiter) :
    s.fifoJoin n w = fifoStep (s.updFifo n (fun f => f.joined w)) n := rfl

section
variable {s : State} {n fk wait : Nat}

/-- A pop of a FIFO that nobody waits at takes the head. -/
theorem State.fifoJoin_pop {y : Word} {ys : List Word} (hi : (s.fifo n).items = y :: ys) (hw : (s.fifo n).waiting = [])
    (hp : (s.fifo n).poppedAt ≠ some s.cycle) :
    s.fifoJoin n ⟨fk, wait, none⟩ = fifoLeave (s.updFifo n (fun f => f.joined ⟨fk, wait, none⟩)) n ⟨fk, wait, none⟩ y ys := by
  rw [State.fifoJoin_eq, fifoStep, State.updFifo_self]
  simp [Fifo.joined, hi, hw, hp]

/-- A pop of a full FIFO takes the head and lets the push that waits there in. -/
theorem State.fifoJoin_pop_push {y z : Word} {ys : List Word} {g w : Nat} (hi : (s.fifo n).items = y :: ys)
    (hw : (s.fifo n).waiting = [⟨g, w, some z⟩]) (hp : (s.fifo n).poppedAt ≠ some s.cycle) (hq : (s.fifo n).pushedAt ≠ some s.cycle) :
    s.fifoJoin n ⟨fk, wait, none⟩ =
      fifoEnter (fifoLeave (s.updFifo n (fun f => f.joined ⟨fk, wait, none⟩)) n ⟨fk, wait, none⟩ y ys) n ⟨g, w, some z⟩ := by
  rw [State.fifoJoin_eq, fifoStep, State.updFifo_self]
  simp [Fifo.joined, hi, hw, hp, hq]

/-- A pop of an empty FIFO waits. -/
theorem State.fifoJoin_pop_empty (hi : (s.fifo n).items = []) (hw : (s.fifo n).waiting = []) :
    s.fifoJoin n ⟨fk, wait, none⟩ = s.updFifo n (fun f => f.joined ⟨fk, wait, none⟩) := by
  rw [State.fifoJoin_eq, fifoStep, State.updFifo_self]
  simp only [Fifo.joined, hi, hw]
  by_cases hp : (s.fifo n).poppedAt = some s.cycle <;> simp [hp]

/-- A push enters while there is space, and waits at a full FIFO. -/
theorem State.fifoJoin_push {v : Word} (hw : (s.fifo n).waiting = []) (hq : (s.fifo n).pushedAt ≠ some s.cycle) :
    s.fifoJoin n ⟨fk, wait, some v⟩ =
      if (s.fifo n).items.length < 16 then fifoEnter (s.updFifo n (fun f => f.joined ⟨fk, wait, some v⟩)) n ⟨fk, wait, some v⟩
      else s.updFifo n (fun f => f.joined ⟨fk, wait, some v⟩) := by
  rw [State.fifoJoin_eq, fifoStep, State.updFifo_self]
  simp [Fifo.joined, hw, hq]

/-- A push to an empty FIFO goes to the pop that waits there. -/
theorem State.fifoJoin_push_pop {v : Word} {g w : Nat} (hi : (s.fifo n).items = []) (hw : (s.fifo n).waiting = [⟨g, w, none⟩])
    (hp : (s.fifo n).poppedAt ≠ some s.cycle) (hq : (s.fifo n).pushedAt ≠ some s.cycle) :
    s.fifoJoin n ⟨fk, wait, some v⟩ =
      fifoPass (s.updFifo n (fun f => f.joined ⟨fk, wait, some v⟩)) n ⟨fk, wait, some v⟩ ⟨g, w, none⟩ := by
  rw [State.fifoJoin_eq, fifoStep, State.updFifo_self]
  simp [Fifo.joined, hi, hw, hp, hq]

end

/-! ## What a pop and a push of a queue register do (R64 to R66, R310, R355) -/

/-- A wait of the bundle has its value, and none is left. -/
structure State.Holds (s : State) (wait : Nat) (v : Word) (t : State) : Prop where
  keeps : s.Keeps t
  held : t.cf.held.get? wait = some v
  waits : t.cf.waits = []

/-- The only wait of the bundle is met. -/
theorem State.Serves1.holds {s t : State} {n wait : Nat} {f : Fifo} {v : Word} (h : s.Serves1 n f s.cur.fk wait v t)
    (hw : s.cf.waits = [wait]) : s.Holds wait v t := by
  have hcf : t.cf = t.frame s.cur.fk := by rw [State.cf, h.keeps.cur]
  exact ⟨h.keeps, by rw [hcf, h.held], by rw [hcf, h.waits hw]⟩

/-- What another thread receives changes nothing of this one. -/
theorem State.Holds.of_serves_other {s t u : State} {n wait g w : Nat} {f : Fifo} {v x : Word} (h : s.Holds wait v t)
    (hu : t.Serves1 n f g w x u) (hg : g ≠ s.cur.fk) : s.Holds wait v u := by
  have hcf : u.cf = t.cf := by
    rw [State.cf, State.cf, hu.keeps.cur, h.keeps.cur, hu.others _ hg.symm]
  exact ⟨h.keeps.trans hu.keeps, by rw [hcf, h.held], by rw [hcf, h.waits]⟩

theorem State.Holds.of_keeps {s t u : State} {wait : Nat} {v : Word} (hk : s.Keeps t) (h : t.Holds wait v u) : s.Holds wait v u :=
  ⟨hk.trans h.keeps, h.held, h.waits⟩

theorem State.cf_hold (s : State) (wait : Nat) (v : Word) : (s.hold wait v).cf = { s.cf with held := s.cf.held.put wait v } :=
  State.cf_upd s _

theorem State.holds_hold {s t : State} {wait : Nat} (v : Word) (h : s.Keeps t) (hw : t.cf.waits = []) : s.Holds wait v (t.hold wait v) := by
  exact ⟨h.trans (t.keeps_upd _ ⟨rfl, rfl, rfl, rfl, .refl _⟩), by rw [State.cf_hold]; simp [NMap.get?_put],
    by rw [State.cf_hold, hw]⟩

theorem State.keeps_addWait (s : State) (w : Nat) : s.Keeps (s.addWait w) := s.keeps_upd _ ⟨rfl, rfl, rfl, rfl, .refl _⟩

theorem State.addWait_waits {s : State} (h : s.acquired = true) (w : Nat) : (s.addWait w).cf.waits = [w] := by
  have h' : s.cf.waits = [] := by simpa [State.acquired] using h
  simp [State.addWait, h']

theorem State.acquired_iff (s : State) : s.acquired = true ↔ s.cf.waits = [] := by simp [State.acquired]

/-- The FIFO that a queue register of the thread in issue is bound to. -/
def State.fifoKey (s : State) (n : Nat) : Nat := s.curCore / 16 * 64 + (qField s.cur.slot.qbind n).1

/-- The FIFO belongs to the thread's partition. -/
def State.ownsFifo (s : State) (k : Nat) : Prop := (s.fifo k).owner = some (s.frameTag s.cur.fk)

/-- The state in which the thread's operation has joined its FIFO. -/
def State.atFifo (s : State) (k : Nat) (w : FifoWaiter) : State := (s.addWait w.wait).updFifo k (fun f => f.joined w)

theorem State.keeps_atFifo (s : State) (k : Nat) (w : FifoWaiter) : s.Keeps (s.atFifo k w) :=
  (s.keeps_addWait _).trans (State.keeps_updFifo _ _ _)

theorem State.atFifo_fifo (s : State) (k : Nat) (w : FifoWaiter) : (s.atFifo k w).fifo k = (s.fifo k).joined w :=
  State.updFifo_self _ _ _

theorem State.atFifo_waits {s : State} (h : s.acquired = true) (k : Nat) (w : FifoWaiter) : (s.atFifo k w).cf.waits = [w.wait] :=
  State.addWait_waits h _

theorem State.fifoOp_own {s : State} {wait n : Nat} {v : Option Word} (h : s.ownsFifo (s.fifoKey n)) :
    s.fifoOp wait n v = (s.addWait wait).fifoJoin (s.fifoKey n) ⟨s.cur.fk, wait, v⟩ := if_pos h

/-- A FIFO of another partition: XPART, zero, and nothing taken. -/
theorem State.fifoOp_foreign {s : State} {wait n : Nat} {v : Option Word} (hacq : s.acquired = true) (h : ¬ s.ownsFifo (s.fifoKey n)) :
    s.Holds wait 0 (s.fifoOp wait n v) ∧ (s.fifoOp wait n v).fifos = s.fifos ∧
      (s.fifoOp wait n v).cf.estat = s.cf.estat ||| 4 := by
  let s1 := s.sticky bitXpart
  let s2 := s1.refuse (lampEnd (s.curCore / 16)) (s.frameTag s.cur.fk)
  have he : s.fifoOp wait n v = s2.hold wait 0 := if_neg h
  have hs2 : s2.frames = s1.frames ∧ s2.cur = s1.cur ∧ s2.fifos = s.fifos := by
    simp only [s2, State.refuse]
    split <;> exact ⟨rfl, rfl, rfl⟩
  obtain ⟨hf, hc, hq⟩ := hs2
  have hk1 : s.Keeps s1 := s.keeps_upd _ (Frame.keeps_setSticky _ _)
  have hk2 : s1.Keeps s2 := State.keeps_of_eq (s1.refuse_mems _ _) hc hf
  have hcf : s2.cf = s.cf.setSticky bitXpart := by
    have h1 : s2.cf = s1.cf := by simp [State.cf, State.frame, hf, hc]
    rw [h1]
    exact State.cf_upd s _
  have hw : s2.cf.waits = [] := by rw [hcf]; exact (s.acquired_iff).1 hacq
  rw [he]
  refine ⟨State.holds_hold 0 (hk1.trans hk2) hw, hq, ?_⟩
  rw [State.cf_hold, hcf]
  rfl

section
variable {s : State} {wait n : Nat}

theorem State.acquirePop_mail (h : s.waitStands wait = false) : s.acquirePop wait 0 =
    match s.popMail s.cur.fk with
    | some (v, s1) => s1.hold wait v
    | none => (s.addWait wait).upd (fun f => { f with waitMail := some wait }) := by
  simp only [State.acquirePop, h, Bool.false_eq_true, if_false, if_true] <;> rfl

theorem State.acquirePop_token (h : s.waitStands wait = false) : s.acquirePop wait 1 =
    match s.popToken s.cur.fk with
    | some (v, s1) => s1.hold wait v
    | none => (s.addWait wait).upd (fun f => { f with waitTok := some wait }) := by
  simp only [State.acquirePop, h, Bool.false_eq_true, if_false, if_true, Nat.one_ne_zero] <;> rfl

theorem State.acquirePop_fifo (h : s.waitStands wait = false) (hn : 2 ≤ n) : s.acquirePop wait n = s.fifoOp wait n none := by
  simp only [State.acquirePop, h, Bool.false_eq_true, if_false]
  rw [if_neg (by omega), if_neg (by omega)]

/-- The oldest entry addressed to a frame is the first of its mailbox. -/
theorem State.popMail_eq {fk : Nat} {e : MailEntry} {pre post : List MailEntry} (hm : s.mailOf fk = pre ++ e :: post)
    (he : e.frame = fk) (hp : ∀ x ∈ pre, x.frame ≠ fk) :
    s.popMail fk = if (s.frame fk).mpos < 3 then
        some (e.dwords.getD (s.frame fk).mpos 0, s.updFrame fk (fun f => { f with mpos := (s.frame fk).mpos + 1 }))
      else some (e.dwords.getD (s.frame fk).mpos 0, (s.setMail fk (pre ++ post)).updFrame fk (fun f => { f with mpos := 0 })) := by
  have hfind : (s.mailOf fk).find? (fun e => e.frame == fk) = some e := by
    rw [hm, List.find?_append, List.find?_eq_none.2 (by simpa using hp)]
    simp [he]
  have hrem : removeFirst (fun e : MailEntry => e.frame == fk) (s.mailOf fk) = pre ++ post := by
    rw [hm]
    clear hm hfind
    induction pre with
    | nil => simp [removeFirst, he]
    | cons x pre ih =>
      have hx : x.frame ≠ fk := hp x List.mem_cons_self
      simp only [List.cons_append, removeFirst, beq_iff_eq, hx, if_false]
      rw [ih fun y hy => hp y (List.mem_cons_of_mem _ hy)]
  unfold State.popMail
  simp only [hfind, hrem]

end

theorem State.popMail_none {s : State} {fk : Nat} (h : ∀ e ∈ s.mailOf fk, e.frame ≠ fk) : s.popMail fk = none := by
  have hfind : (s.mailOf fk).find? (fun e => e.frame == fk) = none := List.find?_eq_none.2 (by simpa using h)
  unfold State.popMail
  simp only [hfind]

theorem State.mailOf_setMail (s : State) (fk : Nat) (m : List MailEntry) : (s.setMail fk m).mailOf fk = m := by
  unfold State.setMail State.mailOf
  by_cases h : isGeyserFrame fk = true
  · simp [h, State.geyser_updGeyser]
  · simp [h, State.core_updCore]

theorem State.frames_setMail (s : State) (fk : Nat) (m : List MailEntry) :
    (s.setMail fk m).frames = s.frames ∧ (s.setMail fk m).cur = s.cur := by
  unfold State.setMail
  split <;> exact ⟨rfl, rfl⟩

/-! ## The oldest token of a frame (R310) -/

/-- The older of a token and what has been found so far. -/
def olderToken (b : Option Token) (t : Token) : Option Token :=
  match b with | some u => if t.order < u.order then some t else b | none => some t

theorem oldestToken_eq (fk : Nat) (ts : List Token) :
    oldestToken fk ts = (ts.filter (fun t => t.frame == fk && t.placed)).foldl olderToken none := rfl

theorem foldl_olderToken_mem (l : List Token) (b : Option Token) :
    l.foldl olderToken b = b ∨ ∃ x ∈ l, l.foldl olderToken b = some x := by
  induction l generalizing b with
  | nil => exact .inl rfl
  | cons t l ih =>
    rw [List.foldl_cons]
    have hstep : olderToken b t = b ∨ olderToken b t = some t := by
      cases b with
      | none => exact .inr rfl
      | some u =>
        by_cases ho : t.order < u.order
        · exact .inr (if_pos ho)
        · exact .inl (if_neg ho)
    rcases ih (olderToken b t) with h | ⟨x, hx, h⟩
    · rcases hstep with hb | hb
      · exact .inl (h.trans hb)
      · exact .inr ⟨t, List.mem_cons_self, h.trans hb⟩
    · exact .inr ⟨x, List.mem_cons_of_mem _ hx, h⟩

theorem foldl_olderToken_keeps {u : Token} {l : List Token} (h : ∀ x ∈ l, u.order < x.order) : l.foldl olderToken (some u) = some u := by
  induction l with
  | nil => rfl
  | cons t l ih =>
    have ht := h t List.mem_cons_self
    have hstep : olderToken (some u) t = some u := if_neg (by omega)
    rw [List.foldl_cons, hstep, ih fun x hx => h x (List.mem_cons_of_mem _ hx)]

theorem oldestToken_of_least {fk : Nat} {u : Token} {pre post : List Token} (hf : u.frame = fk) (hp : u.placed = true)
    (h : ∀ x ∈ pre ++ post, x.frame = fk → x.placed = true → u.order < x.order) : oldestToken fk (pre ++ u :: post) = some u := by
  have hleast (l : List Token) (hl : l ⊆ pre ++ post) : ∀ x ∈ l.filter (fun t => t.frame == fk && t.placed), u.order < x.order := by
    intro x hx
    obtain ⟨hm, hc⟩ := List.mem_filter.1 hx
    simp only [Bool.and_eq_true, beq_iff_eq] at hc
    exact h x (hl hm) hc.1 hc.2
  have hstep : olderToken ((pre.filter (fun t => t.frame == fk && t.placed)).foldl olderToken none) u = some u := by
    rcases foldl_olderToken_mem (pre.filter (fun t => t.frame == fk && t.placed)) none with h0 | ⟨x, hx, h0⟩
    · rw [h0]
      rfl
    · rw [h0]
      exact if_pos (hleast pre (List.subset_append_left _ _) x hx)
  rw [oldestToken_eq, List.filter_append, List.filter_cons_of_pos (by simp [hf, hp]), List.foldl_append, List.foldl_cons, hstep,
    foldl_olderToken_keeps (hleast post (List.subset_append_right _ _))]

theorem oldestToken_none {fk : Nat} {ts : List Token} (h : ∀ u ∈ ts, u.frame = fk → u.placed = false) : oldestToken fk ts = none := by
  have hnil : ts.filter (fun t => t.frame == fk && t.placed) = [] := by
    rw [List.filter_eq_nil_iff]
    intro u hu
    simp only [Bool.and_eq_true, beq_iff_eq, not_and, Bool.not_eq_true]
    exact h u hu
  rw [oldestToken_eq, hnil]
  rfl

theorem State.popToken_eq {s : State} {fk : Nat} {u : Token} {pre post : List Token} (ht : (s.core (frameCore fk)).tokens = pre ++ u :: post)
    (hf : u.frame = fk) (hp : u.placed = true) (h : ∀ x ∈ pre ++ post, x.frame = fk → x.placed = true → u.order < x.order) :
    s.popToken fk = some (u.value, s.updCore (frameCore fk) (fun c => { c with tokens := c.tokens.erase u })) ∧
      (pre ++ u :: post).erase u = pre ++ post := by
  have hnot : u ∉ pre := fun hm => absurd (h u (List.mem_append_left _ hm) hf hp) (Nat.lt_irrefl _)
  refine ⟨?_, by rw [List.erase_append_right _ hnot, List.erase_cons_head]⟩
  unfold State.popToken
  rw [ht, oldestToken_of_least hf hp h]

theorem State.popToken_none {s : State} {fk : Nat} (h : ∀ u ∈ (s.core (frameCore fk)).tokens, u.frame = fk → u.placed = false) :
    s.popToken fk = none := by
  unfold State.popToken
  rw [oldestToken_none h]

/-! ## What a G3 operation does with its queue operands (R64, R208) -/

theorem exec_intOp (q : QFlags) (rd ra rb : BitVec 6) (s : State) :
    ∀ x ∈ intOps, exec (x.1 q rd ra rb) s = g3 s q rd ra rb 1 x.2 noEff := by
  simp only [intOps, List.forall_mem_cons]
  exact ⟨rfl, rfl, rfl, rfl, rfl, rfl, rfl, rfl, rfl, rfl, rfl, rfl, rfl, rfl, rfl, rfl, fun _ h => absurd h List.not_mem_nil⟩

theorem exec_divOp (q : QFlags) (rd ra rb : BitVec 6) (s : State) :
    ∀ x ∈ divOps, exec (x.1 q rd ra rb) s = g3 s q rd ra rb 3 x.2 idz := by
  simp only [divOps, List.forall_mem_cons]
  exact ⟨rfl, rfl, rfl, rfl, fun _ h => absurd h List.not_mem_nil⟩

theorem g3_held {s : State} {q : QFlags} {rd ra rb : BitVec 6} {lat : Nat} {res : Word → Word → Word}
    {eff : Word → Word → State → State} (ht : g3Trap s q rd ra rb = none) (hq : queueHeld s q = true) :
    g3 s q rd ra rb lat res eff = .next s.retry := by
  simp only [g3, ht, hq, if_true]

theorem g3_completes {s t : State} {q : QFlags} {rd ra rb : BitVec 6} {lat : Nat} {res : Word → Word → Word}
    {eff : Word → Word → State → State} (ht : g3Trap s q rd ra rb = none) (hq : queueHeld s q = false)
    (h : t = g3Acquire s q rd ra rb res) (ha : t.acquired = true) :
    g3 s q rd ra rb lat res eff = .next (eff (opA t q ra) (opB t q rb)
      (if q.qd then t else t.setG rd (res (opA t q ra) (opB t q rb)) lat)) := by
  simp only [g3, ht, hq, ← h, ha, if_true, Bool.false_eq_true, if_false]

theorem g3_waits {s t : State} {q : QFlags} {rd ra rb : BitVec 6} {lat : Nat} {res : Word → Word → Word}
    {eff : Word → Word → State → State} (ht : g3Trap s q rd ra rb = none) (hq : queueHeld s q = false)
    (h : g3Acquire s q rd ra rb res = t) (ha : t.acquired = false) : g3 s q rd ra rb lat res eff = .next t.parkInPlace := by
  simp only [g3, ht, hq, h, ha, Bool.false_eq_true, if_false]

/-- A result leaves the frame but for its registers and their ready cycles. -/
theorem State.setG_cf (s : State) (r : BitVec 6) (x : Word) (lat : Nat) :
    ∃ g y, (s.setG r x lat).cf = { s.cf with g := g, ready := y } := by
  obtain ⟨g, hg⟩ := s.cf.wg_eq r.toNat x
  obtain ⟨y, hy⟩ := (s.cf.wg r.toNat x).setReady_eq r.toNat (s.cycle + 8 * lat)
  exact ⟨g, y, by rw [State.cf_setG, hy, hg]⟩

theorem State.rg_setG (s : State) (r : BitVec 6) (x : Word) (lat : Nat) (h : r ≠ 0) : (s.setG r x lat).cf.rg r.toNat = x := by
  have hr : r.toNat ≠ 0 := fun h0 => h (BitVec.eq_of_toNat_eq h0)
  obtain ⟨y, hy⟩ := (s.cf.wg r.toNat x).setReady_eq r.toNat (s.cycle + 8 * lat)
  rw [State.cf_setG, hy]
  show (s.cf.wg r.toNat x).rg r.toNat = x
  rw [Frame.rg_wg, if_neg hr, if_pos rfl]

theorem State.setG_regs (s : State) (r : BitVec 6) (x : Word) (lat : Nat) : SameRegsBut [r.toNat] s.cf (s.setG r x lat).cf := by
  rw [State.cf_setG]
  exact (sameRegsBut_wg _ _ _).trans ((Frame.keeps_setReady _ _ _).sameRegs _)

/-- An operation whose pop of ra gives v completes: v stands for g[ra]. -/
theorem exec_pop {s t : State} {rd ra rb : BitVec 6} {v : Word} (htrap : s.queueTrap false (ra.toNat % 8) = none)
    (hfence : s.fenceHolds .load = false) (h : s.acquirePop 1 (ra.toNat % 8) = t) (ht : s.Holds 1 v t) :
    ∀ x ∈ intOps, exec (x.1 ⟨false, true, false⟩ rd ra rb) s = .next (t.setG rd (x.2 v (s.pg rb)) 1) := by
  intro x hx
  have hacq : t = g3Acquire s ⟨false, true, false⟩ rd ra rb x.2 := by simp [g3Acquire, g3Pops, h]
  have hA : opA t ⟨false, true, false⟩ ra = v := by simp [opA, State.heldValue, NMap.getD, ht.held]
  have hB : opB t ⟨false, true, false⟩ rb = s.pg rb := by simp [opB, State.pg, ht.keeps.cur]
  rw [exec_intOp _ _ _ _ _ x hx, g3_completes (by simp [g3Trap, htrap]) (by simp [queueHeld, hfence]) hacq
    ((t.acquired_iff).2 ht.waits), hA, hB]
  rfl

/-- A completed pop writes rd alone. -/
theorem State.Holds.pops {s t : State} {v : Word} (ht : s.Holds 1 v t) (rd : BitVec 6) (x : Word) :
    (rd ≠ 0 → (t.setG rd x 1).cf.rg rd.toNat = x) ∧ SameRegsBut [rd.toNat] s.cf (t.setG rd x 1).cf ∧ SameMemory s (t.setG rd x 1) :=
  ⟨fun h => t.rg_setG rd x 1 h, (ht.keeps.frame.sameRegs _).trans (t.setG_regs rd x 1), ht.keeps.sameMemory⟩

/-- An operation that waits in place at a queue: its bundle is undone. -/
theorem State.parkInPlace_waits {s t : State} (h : s.Keeps t) :
    t.parkInPlace.cf = { t.cf with pc := s.cur.bpc } ∧ (t.parkInPlace.slot s.cur.sk).state = .inPlace ∧
      SameRegsBut [] s.cf t.parkInPlace.cf ∧ SameMemory s t.parkInPlace := by
  have hcf : t.parkInPlace.cf = { t.cf with pc := s.cur.bpc } := by
    have h0 : t.parkInPlace.cf = (t.upd (fun f => { f with pc := t.cur.bpc })).cf := rfl
    rw [← h.cur, h0, State.cf_upd]
  refine ⟨hcf, ?_, ?_, ?_⟩
  · have hs : (t.parkInPlace.slot t.cur.sk).state = .inPlace := by
      unfold State.parkInPlace
      rw [State.slot_updSlot]
      exact congrArg Slot.state (if_pos rfl)
    rwa [h.cur] at hs
  · rw [hcf]
    exact (h.frame.sameRegs []).trans ⟨fun _ _ _ => rfl, fun _ _ _ => rfl, fun _ _ _ => rfl⟩
  · exact sameMemory_of_mems ((by simp : t.parkInPlace.mems = t.mems).trans h.mems)

/-- What an operation with one queue operand finds where it must wait. -/
structure State.Parks (s : State) (w : Nat) (t : State) : Prop where
  keeps : s.Keeps t
  waits : w ∈ t.cf.waits

theorem State.Parks.not_acquired {s t : State} {w : Nat} (h : s.Parks w t) : t.acquired = false := by
  have hm := h.waits
  cases hw : t.cf.waits with
  | nil => rw [hw] at hm; cases hm
  | cons x l => simp [State.acquired, hw]

theorem State.Parks.standsInPlace {s t : State} {w : Nat} (h : s.Parks w t) :
    w ∈ t.parkInPlace.cf.waits ∧ t.parkInPlace.cf.pc = s.cur.bpc ∧ (t.parkInPlace.slot s.cur.sk).state = .inPlace ∧
      SameRegsBut [] s.cf t.parkInPlace.cf ∧ SameMemory s t.parkInPlace := by
  obtain ⟨hcf, hs, hr, hm⟩ := State.parkInPlace_waits h.keeps
  exact ⟨by rw [hcf]; exact h.waits, by rw [hcf], hs, hr, hm⟩

theorem exec_pop_waits {s t : State} {rd ra rb : BitVec 6} (htrap : s.queueTrap false (ra.toNat % 8) = none)
    (hfence : s.fenceHolds .load = false) (h : s.acquirePop 1 (ra.toNat % 8) = t) (ht : s.Parks 1 t) :
    ∀ x ∈ intOps, exec (x.1 ⟨false, true, false⟩ rd ra rb) s = .next t.parkInPlace := by
  intro x hx
  rw [exec_intOp _ _ _ _ _ x hx]
  exact g3_waits (by simp [g3Trap, htrap]) (by simp [queueHeld, hfence]) (by simp [g3Acquire, g3Pops, h]) ht.not_acquired

theorem exec_push {s t : State} {rd ra rb : BitVec 6} (htrap : s.queueTrap true (rd.toNat % 8) = none)
    (hfence : s.fenceHolds .store = false) {x : G3Op × (Word → Word → Word)} (hx : x ∈ intOps)
    (h : s.acquirePush 3 (rd.toNat % 8) (x.2 (s.pg ra) (s.pg rb)) = t) :
    (t.acquired = true → exec (x.1 ⟨true, false, false⟩ rd ra rb) s = .next t) ∧
      (t.acquired = false → exec (x.1 ⟨true, false, false⟩ rd ra rb) s = .next t.parkInPlace) := by
  have hacq : g3Acquire s ⟨true, false, false⟩ rd ra rb x.2 = t := by simp [g3Acquire, g3Pops, g3Ready, opA, opB, h]
  have ht : g3Trap s ⟨true, false, false⟩ rd ra rb = none := by simp [g3Trap, htrap]
  have hq : queueHeld s ⟨true, false, false⟩ = false := by simp [queueHeld, hfence]
  rw [exec_intOp _ _ _ _ _ x hx]
  exact ⟨fun ha => g3_completes ht hq hacq.symm ha, fun ha => g3_waits ht hq hacq ha⟩

/-! ## The pops and the push case by case -/

section
variable {s : State} (hacq : s.acquired = true)
include hacq

/-- A read of q0 takes the next dword of the oldest entry, which leaves with its fourth. -/
theorem State.acquirePop_takes_mail (hst : s.waitStands 1 = false) {e : MailEntry} {pre post : List MailEntry}
    (hm : s.mailOf s.cur.fk = pre ++ e :: post) (he : e.frame = s.cur.fk) (hp : ∀ x ∈ pre, x.frame ≠ s.cur.fk) :
    s.Holds 1 (e.dwords.getD s.cf.mpos 0) (s.acquirePop 1 0) ∧
      (s.acquirePop 1 0).cf.mpos = (if s.cf.mpos < 3 then s.cf.mpos + 1 else 0) ∧
      (s.acquirePop 1 0).mailOf s.cur.fk = if s.cf.mpos < 3 then s.mailOf s.cur.fk else pre ++ post := by
  have hw : s.cf.waits = [] := (s.acquired_iff).1 hacq
  have hpop := State.popMail_eq hm he hp
  rw [State.acquirePop_mail hst, hpop]
  have hcur : s.frame s.cur.fk = s.cf := rfl
  by_cases h3 : s.cf.mpos < 3
  · simp only [hcur, h3, if_true]
    let s1 := s.updFrame s.cur.fk (fun f => { f with mpos := s.cf.mpos + 1 })
    have hcf : s1.cf = { s.cf with mpos := s.cf.mpos + 1 } := State.cf_upd s _
    have hk : s.Keeps s1 := s.keeps_upd _ ⟨rfl, rfl, rfl, rfl, .refl _⟩
    have hh : (s1.hold 1 (e.dwords.getD s.cf.mpos 0)).cf.mpos = s1.cf.mpos := by rw [State.cf_hold]
    exact ⟨State.holds_hold _ hk (by rw [hcf, ← hw]), by rw [hh, hcf], rfl⟩
  · simp only [hcur, h3, if_false]
    let s0 := s.setMail s.cur.fk (pre ++ post)
    obtain ⟨hf0, hc0⟩ := s.frames_setMail s.cur.fk (pre ++ post)
    let s1 := s0.updFrame s.cur.fk (fun f => { f with mpos := 0 })
    have hs1 : s1 = s0.upd (fun f => { f with mpos := 0 }) := by rw [State.upd, hc0]
    have hcf0 : s0.cf = s.cf := by simp only [State.cf, State.frame, s0, hf0, hc0]
    have hcf : s1.cf = { s.cf with mpos := 0 } := by rw [hs1, State.cf_upd, hcf0]
    have hk0 : s.Keeps s0 := State.keeps_of_eq (s.setMail_mems _ _) hc0 hf0
    have hk : s.Keeps s1 := by
      rw [hs1]
      exact hk0.trans (s0.keeps_upd _ ⟨rfl, rfl, rfl, rfl, .refl _⟩)
    have hh : (s1.hold 1 (e.dwords.getD s.cf.mpos 0)).cf.mpos = s1.cf.mpos := by rw [State.cf_hold]
    exact ⟨State.holds_hold _ hk (by rw [hcf, ← hw]), by rw [hh, hcf], s.mailOf_setMail _ _⟩

/-- A read of q1 takes the oldest placed token. -/
theorem State.acquirePop_takes_token (hst : s.waitStands 1 = false) {u : Token} {pre post : List Token}
    (ht : (s.core (frameCore s.cur.fk)).tokens = pre ++ u :: post) (hf : u.frame = s.cur.fk) (hp : u.placed = true)
    (h : ∀ x ∈ pre ++ post, x.frame = s.cur.fk → x.placed = true → u.order < x.order) :
    s.Holds 1 u.value (s.acquirePop 1 1) ∧ ((s.acquirePop 1 1).core (frameCore s.cur.fk)).tokens = pre ++ post := by
  obtain ⟨hpop, herase⟩ := State.popToken_eq ht hf hp h
  let s1 := s.updCore (frameCore s.cur.fk) (fun c => { c with tokens := c.tokens.erase u })
  have hk : s.Keeps s1 := State.keeps_of_eq (s.updCore_mems _ _) rfl rfl
  have hc : (s1.core (frameCore s.cur.fk)).tokens = pre ++ post := by
    simp only [s1, State.core_updCore, if_true, ht, herase]
  rw [State.acquirePop_token hst, hpop]
  exact ⟨State.holds_hold _ hk ((s.acquired_iff).1 hacq), hc⟩

/-- A read of a FIFO of the partition that nobody waits at takes the head. -/
theorem State.acquirePop_takes_head (hst : s.waitStands 1 = false) {n : Nat} (hn : 2 ≤ n) (hown : s.ownsFifo (s.fifoKey n))
    {y : Word} {ys : List Word} (hi : (s.fifo (s.fifoKey n)).items = y :: ys) (hw : (s.fifo (s.fifoKey n)).waiting = [])
    (hp : (s.fifo (s.fifoKey n)).poppedAt ≠ some s.cycle) :
    s.Holds 1 y (s.acquirePop 1 n) ∧ ((s.acquirePop 1 n).fifo (s.fifoKey n)).items = ys ∧
      ((s.acquirePop 1 n).fifo (s.fifoKey n)).waiting = [] := by
  let o : FifoWaiter := ⟨s.cur.fk, 1, none⟩
  have he : s.acquirePop 1 n = fifoLeave (s.atFifo (s.fifoKey n) o) (s.fifoKey n) o y ys := by
    rw [State.acquirePop_fifo hst hn, State.fifoOp_own hown]
    exact State.fifoJoin_pop (s := s.addWait 1) hi hw hp
  have hs := fifoLeave_serves (s.atFifo (s.fifoKey n) o) (s.fifoKey n) o y ys
  rw [he]
  refine ⟨.of_keeps (s.keeps_atFifo _ o) (hs.holds (s.atFifo_waits hacq _ o)), by rw [hs.fifo], ?_⟩
  rw [hs.fifo]
  simp [State.atFifo_fifo, Fifo.joined, hw]

/-- A read of a full FIFO takes the head, and the push that waits there enters. -/
theorem State.acquirePop_takes_head_of_full (hst : s.waitStands 1 = false) {n : Nat} (hn : 2 ≤ n) (hown : s.ownsFifo (s.fifoKey n))
    {y z : Word} {ys : List Word} {g w : Nat} (hg : g ≠ s.cur.fk) (hi : (s.fifo (s.fifoKey n)).items = y :: ys)
    (hw : (s.fifo (s.fifoKey n)).waiting = [⟨g, w, some z⟩]) (hp : (s.fifo (s.fifoKey n)).poppedAt ≠ some s.cycle)
    (hq : (s.fifo (s.fifoKey n)).pushedAt ≠ some s.cycle) :
    let t := s.acquirePop 1 n
    s.Holds 1 y t ∧ (t.fifo (s.fifoKey n)).items = ys ++ [z] ∧ (t.fifo (s.fifoKey n)).waiting = [] ∧
      ((t.frame g).held.get? w).isSome = true := by
  intro t
  let o : FifoWaiter := ⟨s.cur.fk, 1, none⟩
  let s1 := fifoLeave (s.atFifo (s.fifoKey n) o) (s.fifoKey n) o y ys
  have he : t = fifoEnter s1 (s.fifoKey n) ⟨g, w, some z⟩ := by
    simp only [t]
    rw [State.acquirePop_fifo hst hn, State.fifoOp_own hown]
    exact State.fifoJoin_pop_push (s := s.addWait 1) hi hw hp hq
  have hs1 := fifoLeave_serves (s.atFifo (s.fifoKey n) o) (s.fifoKey n) o y ys
  have hs2 := fifoEnter_serves s1 (s.fifoKey n) ⟨g, w, some z⟩
  have hh1 : s.Holds 1 y s1 := .of_keeps (s.keeps_atFifo _ o) (hs1.holds (s.atFifo_waits hacq _ o))
  have hf1 : (s1.fifo (s.fifoKey n)).items = ys ∧ (s1.fifo (s.fifoKey n)).waiting = [⟨g, w, some z⟩] := by
    rw [hs1.fifo]
    simp [State.atFifo_fifo, Fifo.joined, hw, o, hg]
  rw [he]
  refine ⟨hh1.of_serves_other hs2 hg, ?_, ?_, by rw [hs2.held]; rfl⟩ <;> rw [hs2.fifo] <;> simp [hf1]

/-- A read of an empty FIFO waits there. -/
theorem State.acquirePop_parks_fifo (hst : s.waitStands 1 = false) {n : Nat} (hn : 2 ≤ n) (hown : s.ownsFifo (s.fifoKey n))
    (hi : (s.fifo (s.fifoKey n)).items = []) (hw : (s.fifo (s.fifoKey n)).waiting = []) :
    s.Parks 1 (s.acquirePop 1 n) ∧ ((s.acquirePop 1 n).fifo (s.fifoKey n)).waiting = [⟨s.cur.fk, 1, none⟩] := by
  have he : s.acquirePop 1 n = s.atFifo (s.fifoKey n) ⟨s.cur.fk, 1, none⟩ := by
    rw [State.acquirePop_fifo hst hn, State.fifoOp_own hown]
    exact State.fifoJoin_pop_empty (s := s.addWait 1) hi hw
  rw [he]
  refine ⟨⟨s.keeps_atFifo _ _, by rw [s.atFifo_waits hacq]; exact List.mem_singleton.2 rfl⟩, ?_⟩
  rw [State.atFifo_fifo]
  simp [Fifo.joined, hw]

omit hacq in
theorem State.parks_addWait {w : Nat} {h : Frame → Frame} (hk : ∀ f : Frame, f.Keeps (h f)) (hw : ∀ f : Frame, (h f).waits = f.waits) :
    s.Parks w ((s.addWait w).upd h) ∧ ((s.addWait w).upd h).cf = h (s.addWait w).cf := by
  have hcf := State.cf_upd (s.addWait w) h
  refine ⟨⟨(s.keeps_addWait w).trans ((s.addWait w).keeps_upd h (hk _)), ?_⟩, hcf⟩
  rw [hcf, hw]
  simp [State.addWait]

omit hacq in
theorem State.acquirePop_parks_mail (hst : s.waitStands 1 = false) (h : ∀ e ∈ s.mailOf s.cur.fk, e.frame ≠ s.cur.fk) :
    s.Parks 1 (s.acquirePop 1 0) ∧ (s.acquirePop 1 0).cf.waitMail = some 1 := by
  rw [State.acquirePop_mail hst, State.popMail_none h]
  obtain ⟨hp, hcf⟩ := s.parks_addWait (w := 1) (h := fun f => { f with waitMail := some 1 }) (fun _ => ⟨rfl, rfl, rfl, rfl, .refl _⟩) (fun _ => rfl)
  exact ⟨hp, congrArg Frame.waitMail hcf⟩

omit hacq in
theorem State.acquirePop_parks_token (hst : s.waitStands 1 = false)
    (h : ∀ u ∈ (s.core (frameCore s.cur.fk)).tokens, u.frame = s.cur.fk → u.placed = false) :
    s.Parks 1 (s.acquirePop 1 1) ∧ (s.acquirePop 1 1).cf.waitTok = some 1 := by
  rw [State.acquirePop_token hst, State.popToken_none h]
  obtain ⟨hp, hcf⟩ := s.parks_addWait (w := 1) (h := fun f => { f with waitTok := some 1 }) (fun _ => ⟨rfl, rfl, rfl, rfl, .refl _⟩) (fun _ => rfl)
  exact ⟨hp, congrArg Frame.waitTok hcf⟩

/-- A push is a release: it waits for the thread's earlier accesses before it joins its FIFO. -/
theorem State.acquirePush_parks_release (hst : s.waitStands 3 = false) (h : s.accIds s.cur.fk ≠ []) (n : Nat) (v : Word) :
    s.Parks 11 (s.acquirePush 3 n v) ∧ (s.acquirePush 3 n v).fifos = s.fifos := by
  have hw : s.cf.waits = [] := (s.acquired_iff).1 hacq
  have he : s.acquirePush 3 n v = s.addWait 11 := by
    simp [State.acquirePush, hst, State.releaseStalls, h, State.awaitRelease, hw]
  rw [he]
  exact ⟨⟨s.keeps_addWait 11, by rw [State.addWait_waits hacq]; exact List.mem_singleton.2 rfl⟩, rfl⟩

omit hacq in
theorem State.acquirePush_released (hst : s.waitStands 3 = false) (h : s.accIds s.cur.fk = []) (n : Nat) (v : Word) :
    s.acquirePush 3 n v = s.fifoOp 3 n (some v) := by
  simp [State.acquirePush, hst, State.releaseStalls, h]

/-- A push enters its FIFO while there is space, and waits at a full one. -/
theorem State.fifoOp_enters {n : Nat} (v : Word) (hown : s.ownsFifo (s.fifoKey n)) (hw : (s.fifo (s.fifoKey n)).waiting = [])
    (hq : (s.fifo (s.fifoKey n)).pushedAt ≠ some s.cycle) :
    let f := s.fifo (s.fifoKey n)
    let t := s.fifoOp 3 n (some v)
    (f.items.length < 16 → s.Holds 3 0 t ∧ (t.fifo (s.fifoKey n)).items = f.items ++ [v] ∧ (t.fifo (s.fifoKey n)).waiting = []) ∧
      (16 ≤ f.items.length → s.Parks 3 t ∧ (t.fifo (s.fifoKey n)).items = f.items ∧
        (t.fifo (s.fifoKey n)).waiting = [⟨s.cur.fk, 3, some v⟩]) := by
  intro f t
  let u : FifoWaiter := ⟨s.cur.fk, 3, some v⟩
  have he : t = if f.items.length < 16 then fifoEnter (s.atFifo (s.fifoKey n) u) (s.fifoKey n) u else s.atFifo (s.fifoKey n) u := by
    simp only [t]
    rw [State.fifoOp_own hown]
    exact State.fifoJoin_push (s := s.addWait 3) hw hq
  have hf : (s.atFifo (s.fifoKey n) u).fifo (s.fifoKey n) = { f with waiting := [u] } := by
    rw [State.atFifo_fifo]
    simp [Fifo.joined, hw, f]
  refine ⟨fun hlt => ?_, fun hge => ?_⟩
  · have hs := fifoEnter_serves (s.atFifo (s.fifoKey n) u) (s.fifoKey n) u
    rw [he, if_pos hlt]
    refine ⟨.of_keeps (s.keeps_atFifo _ u) (hs.holds (s.atFifo_waits hacq _ u)), ?_, ?_⟩ <;> rw [hs.fifo, hf] <;> simp [u]
  · rw [he, if_neg (by omega), hf]
    exact ⟨⟨s.keeps_atFifo _ u, by rw [s.atFifo_waits hacq]; exact List.mem_singleton.2 rfl⟩, rfl, rfl⟩

/-- A push to an empty FIFO goes to the pop that waits there. -/
theorem State.fifoOp_passes {n : Nat} (v : Word) (hown : s.ownsFifo (s.fifoKey n)) {g w : Nat} (hg : g ≠ s.cur.fk)
    (hi : (s.fifo (s.fifoKey n)).items = []) (hw : (s.fifo (s.fifoKey n)).waiting = [⟨g, w, none⟩])
    (hp : (s.fifo (s.fifoKey n)).poppedAt ≠ some s.cycle) (hq : (s.fifo (s.fifoKey n)).pushedAt ≠ some s.cycle) :
    let t := s.fifoOp 3 n (some v)
    s.Holds 3 0 t ∧ (t.fifo (s.fifoKey n)).items = [] ∧ (t.fifo (s.fifoKey n)).waiting = [] ∧ (t.frame g).held.get? w = some v := by
  intro t
  let u : FifoWaiter := ⟨s.cur.fk, 3, some v⟩
  let o : FifoWaiter := ⟨g, w, none⟩
  let s0 := s.atFifo (s.fifoKey n) u
  let f1 : Fifo := { s0.fifo (s.fifoKey n) with
    waiting := ((s0.fifo (s.fifoKey n)).waiting.erase u).erase o, pushedAt := some s0.cycle, poppedAt := some s0.cycle }
  let s1 := (s0.updFifo (s.fifoKey n) (fun _ => f1)).giveWait g w v
  have he : t = s1.giveWait s.cur.fk 3 0 := by
    simp only [t]
    rw [State.fifoOp_own hown]
    exact State.fifoJoin_push_pop (s := s.addWait 3) hi hw hp hq
  have hs1 : s0.Serves1 (s.fifoKey n) f1 g w v s1 := s0.serves1_giveWait _ _ _ _ _
  have hk1 : s.Keeps s1 := (s.keeps_atFifo _ u).trans hs1.keeps
  have hg2 := s1.gives_giveWait s.cur.fk 3 0
  have hw1 : (s1.frame s.cur.fk).waits = [3] := by
    rw [hs1.others _ hg.symm]
    exact s.atFifo_waits hacq _ u
  have hcf : t.cf = (s1.giveWait s.cur.fk 3 0).frame s.cur.fk := by rw [he, State.cf, hg2.keeps.cur, hk1.cur]
  have hf : t.fifo (s.fifoKey n) = f1 := by rw [he, State.fifo_of_fifos hg2.fifos, hs1.fifo]
  have hf1 : f1.items = [] ∧ f1.waiting = [] := by
    simp [f1, s0, State.atFifo_fifo, Fifo.joined, hi, hw, u, o, hg]
  rw [hf]
  refine ⟨⟨?_, by rw [hcf, hg2.held], by rw [hcf, hg2.waits hw1]⟩, hf1.1, hf1.2, ?_⟩
  · rw [he]
    exact hk1.trans hg2.keeps
  · rw [he, hg2.others g hg, hs1.held]

end

/-! ## Settling O2 -/

/-- Without queue operands, and with them once the bundle has no wait left, an operation of the integer group writes its table's
result. -/
theorem intOps_complete :
    (∀ (s : State) (rd ra rb : BitVec 6), s.acquired = true →
     (∀ x ∈ intOps,
       exec (x.1 ⟨false, false, false⟩ rd ra rb) s = .next (s.setG rd (x.2 (s.pg ra) (s.pg rb)) 1)) ∧
     (∀ x ∈ divOps,
       exec (x.1 ⟨false, false, false⟩ rd ra rb) s =
         .next ((s.setG rd (x.2 (s.pg ra) (s.pg rb)) 3).stickyIf (s.pg rb == 0) bitIdz))) ∧
    (∀ (s : State) (q : QFlags) (rd ra rb : BitVec 6), g3Trap s q rd ra rb = none →
     (queueHeld s q = true → ∀ x ∈ intOps, exec (x.1 q rd ra rb) s = .next s.retry) ∧
     (queueHeld s q = false → ∀ x ∈ intOps, ∀ t : State, t = g3Acquire s q rd ra rb x.2 → t.acquired = true →
       exec (x.1 q rd ra rb) s = .next (if q.qd then t else t.setG rd (x.2 (opA t q ra) (opB t q rb)) 1)) ∧
     (queueHeld s q = false → ∀ x ∈ divOps, ∀ t : State, t = g3Acquire s q rd ra rb x.2 → t.acquired = true →
       exec (x.1 q rd ra rb) s =
         .next ((if q.qd then t else t.setG rd (x.2 (opA t q ra) (opB t q rb)) 3).stickyIf (opB t q rb == 0) bitIdz))) := by
  refine ⟨fun s rd ra rb ha => ⟨fun x hx => ?_, fun x hx => ?_⟩,
    fun s q rd ra rb ht => ⟨fun hq x hx => ?_, fun hq x hx t h ha => ?_, fun hq x hx t h ha => ?_⟩⟩
  · rw [exec_intOp _ _ _ _ _ x hx, g3_plain _ _ _ _ _ _ _ ha]
    rfl
  · rw [exec_divOp _ _ _ _ _ x hx, g3_plain _ _ _ _ _ _ _ ha]
    rfl
  · rw [exec_intOp _ _ _ _ _ x hx, g3_held ht hq]
  · rw [exec_intOp _ _ _ _ _ x hx, g3_completes ht hq h ha]
    rfl
  · rw [exec_divOp _ _ _ _ _ x hx, g3_completes ht hq h ha]
    rfl

/-- Settles O2: the table by `g3`'s cases; then, for one queue operand, what `acquirePop` and `acquirePush` find at a mailbox, a
token list and a FIFO. -/
theorem integerResults : Obligations.IntegerResults := by
  unfold Obligations.IntegerResults
  refine ⟨intOps_complete, fun s rd ra rb hacq => ?_⟩
  intro fk n fifoKey mine pops waits
  have hpops {v : Word} {t : State} {P : State → Prop} (htrap : s.queueTrap false n = none) (hf : s.fenceHolds .load = false)
      (ht : s.Holds 1 v t) (h : s.acquirePop 1 n = t) (hP : ∀ x : Word, P (t.setG rd x 1)) : pops v P := fun x hx => by
    obtain ⟨hrd, hregs, hmem⟩ := ht.pops rd (x.2 v (s.pg rb))
    exact ⟨_, exec_pop htrap hf h ht x hx, hrd, hregs, hmem, hP _⟩
  have hwaits {i : Instr} {w : Nat} {t : State} {P : State → Prop} (ht : s.Parks w t) (h : exec i s = .next t.parkInPlace)
      (hP : P t.parkInPlace) : waits i w P := by
    obtain ⟨hw, hpc, hs, hr, hm⟩ := ht.standsInPlace
    exact ⟨_, h, hw, hpc, hs, hr, hm, hP⟩
  refine ⟨fun hst hf htrap => ⟨?mail, ?token, fun y ys hn hown hi hp => ⟨fun hw => ?head, fun g w z hg hw hq => ?full⟩, fun hn hown => ?foreign,
    fun x hx => ⟨fun hn hm => ?noMail, fun hn hm => ?noToken, fun hn hown hi hw => ?empty⟩⟩, fun hst hf htrap x hx => ?push⟩
  case mail =>
    intro e pre post hn hm he hp
    obtain ⟨ht, hpos, hmail⟩ := State.acquirePop_takes_mail hacq hst hm he hp
    refine hpops htrap hf ht (by rw [hn]) fun x => ⟨?_, hmail⟩
    obtain ⟨g, y, hcf⟩ := (s.acquirePop 1 0).setG_cf rd x 1
    rw [hcf]
    exact hpos
  case token =>
    intro u pre post hn ht hu hp h
    obtain ⟨hh, htok⟩ := State.acquirePop_takes_token hacq hst ht hu hp h
    exact hpops htrap hf hh (by rw [hn]) fun x => htok
  case head =>
    obtain ⟨hh, hitems, hwait⟩ := State.acquirePop_takes_head hacq hst hn hown hi hw hp
    exact hpops htrap hf hh rfl fun x => ⟨hitems, hwait⟩
  case full =>
    obtain ⟨hh, hitems, hwait, hheld⟩ := State.acquirePop_takes_head_of_full hacq hst hn hown hg hi hw hp hq
    refine hpops htrap hf hh rfl fun x => ⟨hitems, hwait, ?_⟩
    have hfr : ((s.acquirePop 1 n).setG rd x 1).frame g = (s.acquirePop 1 n).frame g := by
      rw [State.setG_frame, if_neg (by rw [hh.keeps.cur]; exact hg)]
    rw [hfr]
    exact hheld
  case foreign =>
    obtain ⟨hh, hfifos, hest⟩ := State.fifoOp_foreign (wait := 1) (v := none) hacq hown
    refine hpops htrap hf hh (State.acquirePop_fifo hst hn) fun x => ⟨hfifos, ?_⟩
    obtain ⟨g, y, hcf⟩ := (s.fifoOp 1 n none).setG_cf rd x 1
    rw [hcf]
    exact hest
  case noMail =>
    obtain ⟨hp, hw⟩ := State.acquirePop_parks_mail hst hm
    refine hwaits hp (exec_pop_waits htrap hf (by rw [← hn]) hp x hx) ?_
    rw [(State.parkInPlace_waits hp.keeps).1]
    exact hw
  case noToken =>
    obtain ⟨hp, hw⟩ := State.acquirePop_parks_token hst hm
    refine hwaits hp (exec_pop_waits htrap hf (by rw [← hn]) hp x hx) ?_
    rw [(State.parkInPlace_waits hp.keeps).1]
    exact hw
  case empty =>
    obtain ⟨hp, hwait⟩ := State.acquirePop_parks_fifo hacq hst hn hown hi hw
    exact hwaits hp (exec_pop_waits htrap hf rfl hp x hx) hwait
  case push =>
    intro i v k f
    obtain ⟨hgo, hpark⟩ := exec_push (rb := rb) htrap hf hx rfl
    have hdone {t : State} (hh : s.Holds 3 0 t) (h : s.acquirePush 3 (rd.toNat % 8) v = t) : exec i s = .next t := by
      rw [← h] at hh ⊢
      exact hgo ((State.acquired_iff _).2 hh.waits)
    have hstand {t : State} {w : Nat} (hh : s.Parks w t) (h : s.acquirePush 3 (rd.toNat % 8) v = t) : exec i s = .next t.parkInPlace := by
      rw [← h] at hh ⊢
      exact hpark hh.not_acquired
    refine ⟨fun hne => ?_, fun hno hown hq => ⟨fun hw hlt => ?_, fun hw hge => ?_, fun g w hg hi hw hp => ?_⟩, fun hno hown => ?_⟩
    · obtain ⟨hp, hfifos⟩ := State.acquirePush_parks_release hacq hst hne (rd.toNat % 8) v
      exact hwaits hp (hstand hp rfl) hfifos
    · obtain ⟨hh, hitems, hwait⟩ := (State.fifoOp_enters hacq v hown hw hq).1 hlt
      exact ⟨_, hdone hh (State.acquirePush_released hst hno _ v), hitems, hwait, hh.keeps.frame.sameRegs _, hh.keeps.sameMemory⟩
    · obtain ⟨hp, hitems, hwait⟩ := (State.fifoOp_enters hacq v hown hw hq).2 hge
      exact hwaits hp (hstand hp (State.acquirePush_released hst hno _ v)) ⟨hitems, hwait⟩
    · obtain ⟨hh, hitems, hwait, hheld⟩ := State.fifoOp_passes hacq v hown hg hi hw hp hq
      exact ⟨_, hdone hh (State.acquirePush_released hst hno _ v), hitems, hwait, hheld, hh.keeps.frame.sameRegs _,
        hh.keeps.sameMemory⟩
    · obtain ⟨hh, hfifos, hest⟩ := State.fifoOp_foreign (wait := 3) (v := some v) hacq hown
      have he := State.acquirePush_released hst hno (rd.toNat % 8) v
      have h3 : s.Holds 3 0 (s.fifoOp 3 (rd.toNat % 8) (some v)) := hh
      exact ⟨_, hdone h3 he, hfifos, hest, hh.keeps.frame.sameRegs _, hh.keeps.sameMemory⟩

end Sys2Proof.Machine

namespace Sys2Proof.Machine

/-! ## An own-pool LDS, LDSP or STS begins (R51, R52, R140) -/

/-- The state of an own-pool full/empty operation at its word: its sticky bit and its charge. -/
def State.atWord (s : State) (d : Dec) : State := (s.stickyIf d.misal bitMisal).chargeAcc true [(s.curCore, d.off)]

theorem State.keeps_atWord (s : State) (d : Dec) : s.Keeps (s.atWord d) :=
  (s.keeps_stickyIf _ _).trans (State.keeps_chargeAcc _ _ _)

theorem State.sameWords_atWord (s : State) (d : Dec) : s.SameWords (s.atWord d) :=
  (s.stickyIf_sameWords _ _).trans (State.chargeAcc_sameWords _ _ _)

theorem feTrap_of_ok {s : State} {am : AMode} {sum : Word} {n : Nat} {d : Dec} (hg : s.onGeyser = false)
    (he : s.decodeOperand am sum n = .ok d) : feTrap s am sum n = none := by simp [feTrap, hg, he]

theorem feTrap_of_geyser {s : State} (hg : s.onGeyser = true) (am : AMode) (sum : Word) (n : Nat) :
    feTrap s am sum n = some { cause := 0x01, eval := 0 } := by simp [feTrap, hg]

/-- An operation at the thread's own pool synchronises at cluster scope, which nothing limits. -/
theorem scopeTrap_own (s : State) {d : Dec} (hv : d.view = 0) : scopeTrap s (s.feScope d) = none := by
  simp [scopeTrap, State.scopeLimited, State.feScope, hv]

theorem State.heal_none (s : State) : s.heal none = s := rfl

section
variable {s : State} {op : AccOp} {am : AMode} {sum : Word} {n : Nat} {d : Dec} {data : Word} {dst : Option (BitVec 6)}
  (hg : s.onGeyser = false) (he : s.decodeOperand am sum n = .ok d) (hv : d.view = 0)
include hg he hv

/-- An operation of the own pool that meets no error and is not held completes when its bundle has no wait left, and waits in place
else. -/
theorem feAccess_begins (herr : s.ownError op d n = none) (hst : feStalls s op d n = false) :
    feAccess s op am sum n data dst = .next (if (feAcquire s op d n data).acquired then
        (match dst with
          | some rt => (feAcquire s op d n data).setG rt ((feAcquire s op d n data).heldValue 0)
          | none => feAcquire s op d n data)
      else (feAcquire s op d n data).parkInPlace) := by
  unfold feAccess
  simp only [feTrap_of_ok hg he, he, scopeTrap_own s hv, herr, hst, hv, ite_self, Bool.false_eq_true, if_false, if_true]
  split <;> rfl

theorem feAccess_ecc {key : Nat} (hw : s.waitStands 0 = false) (herr : s.ownError op d n = some (key, true)) :
    feAccess s op am sum n data dst = .next (s.eccTrap key) := by
  unfold feAccess
  simp only [feTrap_of_ok hg he, he, scopeTrap_own s hv, herr, hw, Bool.false_eq_true, if_false]

end

section
variable {s : State} {op : AccOp} {n : Nat} {d : Dec} {data : Word} (hv : d.view = 0) (hwait : s.waitStands 0 = false)
include hv hwait

/-- An STS waits for the thread's earlier accesses before it comes to its word. -/
theorem feAcquire_released (hrel : s.accIds s.cur.fk ≠ []) : feAcquire s .sts d n data = s.awaitRelease := by
  simp [feAcquire, hwait, hv, State.releaseStalls, hrel]

variable (herr : s.ownError op d n = none) (hrel : op = .sts → s.accIds s.cur.fk = []) (hg : s.inGap s.curCore d.off = false)
include herr hrel hg

theorem feAcquire_atWord : feAcquire s op d n data =
    if accWaits op (s.isFull s.curCore (s.reduce s.curCore d.off)) then
      ({ (s.atWord d).fresh.2 with unperf := (s.atWord d).nextId :: (s.atWord d).unperf }.addWait 0).enqueueWaiter s.curCore
        (s.reduce s.curCore d.off) ⟨.thread s.cur.fk, op, d.off, n, data, (s.atWord d).nextId⟩
    else ((s.atWord d).bankServe s.curCore ⟨op, d.off, n, data, 0, 0, 0⟩).1.hold 0
      ((s.atWord d).bankServe s.curCore ⟨op, d.off, n, data, 0, 0, 0⟩).2 := by
  have hstall : ¬ (op == .sts && s.releaseStalls) = true := by
    by_cases h : op = .sts
    · simp [State.releaseStalls, hrel h]
    · simp [h]
  unfold feAcquire
  rw [if_neg (by simp [hwait, hv]), if_neg hstall, herr, State.heal_none]
  simp only [hg, Bool.false_eq_true, if_false]
  rfl

end

theorem State.bankAccess_frames (s : State) (k : Nat) (a : WordAcc) :
    (s.bankAccess k a).1.frames = s.frames ∧ (s.bankAccess k a).1.cur = s.cur := by
  unfold State.bankAccess
  dsimp only
  split <;> split <;> exact ⟨rfl, rfl⟩

/-- From s to t an operation of the own pool has been performed at its word as the bank does it, and its value is held. -/
structure State.Performs (s : State) (a : WordAcc) (t : State) : Prop where
  cur : t.cur = s.cur
  frame : s.cf.Keeps t.cf
  pool : t.pool = (s.bankAccess s.curCore a).1.pool
  full : t.full = (s.bankAccess s.curCore a).1.full
  value : t.heldValue 0 = (s.bankAccess s.curCore a).2
  waits : t.cf.waits = s.cf.waits

/-- An operation that its word's state allows and behind which nobody waits is performed at once. -/
theorem feAcquire_performs {s : State} {op : AccOp} {n : Nat} {d : Dec} {data : Word} (hv : d.view = 0)
    (hwait : s.waitStands 0 = false) (herr : s.ownError op d n = none) (hrel : op = .sts → s.accIds s.cur.fk = [])
    (hg : s.inGap s.curCore d.off = false) (hw : accWaits op (s.isFull s.curCore (s.reduce s.curCore d.off)) = false)
    (hq : s.waitq.getD (wordKey s.curCore (s.reduce s.curCore d.off)) [] = []) :
    s.Performs ⟨op, d.off, n, data, 0, 0, 0⟩ (feAcquire s op d n data) := by
  let a : WordAcc := ⟨op, d.off, n, data, 0, 0, 0⟩
  let b := (s.atWord d).bankAccess s.curCore a
  have hsw := s.sameWords_atWord d
  have hk := s.keeps_atWord d
  have hserve : (s.atWord d).bankServe s.curCore a = b := State.bankServe_of_nil (by
    rw [State.reduce_of_cores hsw.cores, hsw.waitq]
    exact hq)
  have ht : feAcquire s op d n data = b.1.hold 0 b.2 := by
    rw [feAcquire_atWord hv hwait herr hrel hg, if_neg (by simp [hw]), hserve]
  obtain ⟨hm, hval⟩ := State.bankAccess_congr hsw.cores hsw.mems s.curCore a
  obtain ⟨hpool, -, -, -, hfull⟩ := Mems.mk.inj hm
  obtain ⟨hf, hc⟩ := (s.atWord d).bankAccess_frames s.curCore a
  have hcf : b.1.cf = (s.atWord d).cf := by simp only [State.cf, State.frame, b, hf, hc]
  have hcur : b.1.cur = s.cur := hc.trans hk.cur
  have hwaits : (s.atWord d).cf.waits = s.cf.waits := by
    rw [State.cf, hk.cur]
    exact hsw.waits _
  have hhold : s.cf.Keeps { b.1.cf with held := b.1.cf.held.put 0 b.2 } := by
    rw [hcf]
    exact hk.frame.trans ⟨rfl, rfl, rfl, rfl, .refl _⟩
  rw [ht]
  refine ⟨hcur, by rw [State.cf_hold]; exact hhold, hpool, hfull, ?_, by rw [State.cf_hold, hcf, ← hwaits]⟩
  rw [← hval, State.heldValue, State.cf_hold]
  exact NMap.getD_put_self _ _ _ _

/-- An operation that its word's state holds back stands at the tail of the word's queue. -/
theorem feAcquire_enqueues {s : State} {op : AccOp} {n : Nat} {d : Dec} {data : Word} (hv : d.view = 0)
    (hwait : s.waitStands 0 = false) (herr : s.ownError op d n = none) (hrel : op = .sts → s.accIds s.cur.fk = [])
    (hg : s.inGap s.curCore d.off = false) (hw : accWaits op (s.isFull s.curCore (s.reduce s.curCore d.off)) = true) :
    let t := feAcquire s op d n data
    let key := wordKey s.curCore (s.reduce s.curCore d.off)
    s.Parks 0 t ∧ ∃ w : Waiter, t.waitq.getD key [] = s.waitq.getD key [] ++ [w] ∧ w.who = .thread s.cur.fk ∧ w.op = op := by
  intro t key
  let s0 := s.atWord d
  let w : Waiter := ⟨.thread s.cur.fk, op, d.off, n, data, s0.nextId⟩
  let s1 : State := { s0.fresh.2 with unperf := s0.nextId :: s0.unperf }
  have ht : t = (s1.addWait 0).enqueueWaiter s.curCore (s.reduce s.curCore d.off) w := by
    simp only [t]
    rw [feAcquire_atWord hv hwait herr hrel hg, if_pos hw]
  have hk1 : s.Keeps s1 := (s.keeps_atWord d).trans (State.keeps_of_eq rfl rfl rfl)
  have hk2 : s.Keeps (s1.addWait 0) := hk1.trans (s1.keeps_addWait 0)
  have hcf : t.cf = (s1.addWait 0).cf := by rw [ht]; rfl
  refine ⟨⟨?_, ?_⟩, w, ?_, rfl, rfl⟩
  · rw [ht]
    exact hk2.trans (State.keeps_of_eq (by simp) rfl rfl)
  · rw [hcf]
    simp [State.addWait]
  · have hq : s0.waitq = s.waitq := (s.sameWords_atWord d).waitq
    have he : t.waitq = s0.waitq.put key (s0.waitq.getD key [] ++ [w]) := by rw [ht]; rfl
    rw [he, hq, NMap.getD_put_self]

/-! ## FESET one turn later (R50, R250, R252) -/

theorem ownError_feset (s : State) {op : AccOp} (hop : op = .fesetFull ∨ op = .fesetEmpty) (d : Dec) (n : Nat) :
    s.ownError op d n = none := by
  have hword : accReadsWord op = false := by rcases hop with rfl | rfl <;> rfl
  have hstate : accReadsState op = false := by rcases hop with rfl | rfl <;> rfl
  have hl (l : List (Nat × Nat)) : (l.map (fun p => accKeys op
      (accWaits op (s.isFull p.1 (s.reduce p.1 p.2))) p.1 (s.reduce p.1 p.2))).flatten = [] := by
    induction l with
    | nil => rfl
    | cons p l ih => simp [accKeys, hword, hstate]
  unfold State.ownError
  rw [hword]
  split
  · rfl
  · split
    · rfl
    · exact congrArg s.firstError (hl _)

/-- A delayed access of one word at a core's bank, where nobody waits. -/
theorem performDelayed_one {u : State} {x : Delayed} {a : WordAcc} {fk : Nat} (hx : x.accs = [a]) (hgap : x.gap = false)
    (hdst : x.dst = none) (hend : x.at_end = frameEnd fk) (hfk : isGeyserFrame fk = false)
    (hq : u.waitq.getD (wordKey (frameCore fk) (u.reduce (frameCore fk) a.off)) [] = []) :
    u.performDelayed x = (u.bankAccess (frameCore fk) a).1.performed x.id := by
  have hw := delayedWord_own hend hgap (u, []) a
  simp only [hfk, Bool.false_eq_true, if_false, State.bankServe_of_nil hq] at hw
  simp only [State.performDelayed, hx, hdst, List.foldl_cons, List.foldl_nil, hw]

theorem State.bankAccess_gpool (s : State) (k : Nat) (a : WordAcc) : (s.bankAccess k a).1.gpool = s.gpool := by
  unfold State.bankAccess
  dsimp only
  split <;> split <;> rfl

theorem State.bankAccess_feset (s : State) (k : Nat) {a : WordAcc} {b : Bool} (h : (accEffect a 0).2.2 = some b)
    (hop : a.op = .fesetFull ∨ a.op = .fesetEmpty) :
    (s.bankAccess k a).1.isFull k (s.reduce k a.off) = b ∧ (s.bankAccess k a).1.pool = s.pool := by
  refine ⟨State.bankAccess_isFull ?_, State.bankAccess_keeps_pool ?_⟩
  · rcases hop with hop | hop <;> simpa [accEffect, hop] using h
  · rcases hop with hop | hop <;> simp [accEffect, hop]

/-- FESET of an own-pool word issues as a plain access; its turn sets the word's state and no byte. -/
theorem feset_own {s : State} {op : AccOp} {am : AMode} {sum : Word} {n : Nat} {d : Dec} {b : Bool} (hg : s.onGeyser = false)
    (he : s.decodeOperand am sum n = .ok d) (hv : d.view = 0) (hn : n ≠ 16) (hrx : s.cur.rx = false)
    (hst : s.accStalls .plain .store (s.placeBytes (s.wordPlaces d n) n) true = false)
    (hop : op = .fesetFull ∨ op = .fesetEmpty) (hb : ∀ a : WordAcc, a.op = op → (accEffect a 0).2.2 = some b) :
    ∃ (t : State) (x : Delayed), feset s op am sum n = .next t ∧ IssuesOwn s t x d ∧
      ∀ u : State, s.ownGap d.off = false →
        u.waitq.getD (wordKey s.curCore (u.reduce s.curCore d.off)) [] = [] →
        (u.performDelayed x).isFull s.curCore (u.reduce s.curCore d.off) = b ∧
        (u.performDelayed x).pool = u.pool ∧ (u.performDelayed x).gpool = u.gpool := by
  let a : WordAcc := ⟨op, d.off, n, 0, 0, 0, s.nextId⟩
  obtain ⟨hlt, -⟩ := decodeOperand_own he hv
  refine ⟨_, s.ownDelayed op d n 0 0 none, ?_, s.issueOwn_issues op d n 0 0 none, fun u hgap hq => ?_⟩
  · simp only [feset, feTrap_of_ok hg he]
    exact plainAccess_own he hv hrx hst (ownError_feset s hop d n) 0 0 none
  · have haccs : (s.ownDelayed op d n 0 0 none).accs = [a] := by
      simp only [State.ownDelayed, wordPlaces_own hv hlt hn]
      rfl
    have hp : u.performDelayed (s.ownDelayed op d n 0 0 none) = (u.bankAccess s.curCore a).1.performed s.nextId :=
      performDelayed_one haccs hgap rfl rfl hg hq
    obtain ⟨hf, hpool⟩ := u.bankAccess_feset s.curCore (a := a) (hb a rfl) hop
    rw [hp]
    exact ⟨hf, hpool, u.bankAccess_gpool _ _⟩

/-! ## Settling O10 -/

section
variable {s : State} {rt rb : BitVec 6} {am : AMode} {sz : Size} {off : BitVec 16} {d : Dec} (hg : s.onGeyser = false)
  (he : s.decodeOperand am (s.pg rb + off.signExtend 64) (szBytes sz) = .ok d) (hv : d.view = 0)
include hg he hv

theorem exec_lds_begins (op : AccOp) (i : Instr)
    (hi : exec i s = feAccess s op am (s.pg rb + off.signExtend 64) (szBytes sz) 0 (some rt))
    (herr : s.ownError op d (szBytes sz) = none) (hst : feStalls s op d (szBytes sz) = false) :
    ((feAcquire s op d (szBytes sz) 0).acquired = true → exec i s =
      .next ((feAcquire s op d (szBytes sz) 0).setG rt ((feAcquire s op d (szBytes sz) 0).heldValue 0))) ∧
    ((feAcquire s op d (szBytes sz) 0).acquired = false → exec i s = .next (feAcquire s op d (szBytes sz) 0).parkInPlace) := by
  rw [hi, feAccess_begins hg he hv herr hst]
  exact ⟨fun ha => by rw [if_pos ha], fun ha => by rw [ha]; rfl⟩

theorem exec_sts_begins (herr : s.ownError .sts d (szBytes sz) = none) (hst : feStalls s .sts d (szBytes sz) = false) :
    ((feAcquire s .sts d (szBytes sz) (s.pg rt)).acquired = true →
      exec (.sts rt rb am sz off) s = .next (feAcquire s .sts d (szBytes sz) (s.pg rt))) ∧
    ((feAcquire s .sts d (szBytes sz) (s.pg rt)).acquired = false →
      exec (.sts rt rb am sz off) s = .next (feAcquire s .sts d (szBytes sz) (s.pg rt)).parkInPlace) := by
  have hi : exec (.sts rt rb am sz off) s = feAccess s .sts am (s.pg rb + off.signExtend 64) (szBytes sz) (s.pg rt) none := rfl
  rw [hi, feAccess_begins hg he hv herr hst]
  exact ⟨fun ha => by rw [if_pos ha], fun ha => by rw [ha]; rfl⟩

end

/-- Settles O10: at its word an operation is performed (`feAcquire_performs`), waits for its release, or joins the queue
(`feAcquire_enqueues`); FESET by its delayed access. -/
theorem fullEmptyOwnPool : Obligations.FullEmptyOwnPool := by
  unfold Obligations.FullEmptyOwnPool
  refine ⟨fun s rt rb am sz off d hg he hv hacq hwait hgap hwf hq => ?_, fun s rt rb am sz off d hg he hv hwait hgap => ?_,
    fun s rt rb am sz off d => ⟨fun hg he hv hrx hst => ?_, fun hg => ?_⟩⟩
  · intro r key n
    obtain ⟨-, -, hmem, -⟩ := memoryReadsBack
    have hw0 : s.cf.waits = [] := (s.acquired_iff).1 hacq
    have hgoes {op : AccOp} {data : Word} (herr : s.ownError op d n = none) (hrel : op = .sts → s.accIds s.cur.fk = [])
        (hw : accWaits op (s.isFull s.curCore r) = false) :
        s.Performs ⟨op, d.off, n, data, 0, 0, 0⟩ (feAcquire s op d n data) ∧ (feAcquire s op d n data).acquired = true := by
      have hp := feAcquire_performs (data := data) hv hwait herr hrel hgap hw hq
      exact ⟨hp, (State.acquired_iff _).2 (hp.waits.trans hw0)⟩
    have hreads {op : AccOp} {t : State} (hp : s.Performs ⟨op, d.off, n, 0, 0, 0, 0⟩ t)
        (hval : (s.bankAccess s.curCore ⟨op, d.off, n, 0, 0, 0, 0⟩).2 = natWord (s.pool.readLE key n)) :
        (rt ≠ 0 → (t.setG rt (t.heldValue 0)).cf.rg rt.toNat = natWord (s.pool.readLE key n)) ∧
          SameRegsBut [rt.toNat] s.cf (t.setG rt (t.heldValue 0)).cf := by
      rw [hp.value, hval]
      exact ⟨fun h0 => t.rg_setG rt _ 1 h0, (hp.frame.sameRegs _).trans (t.setG_regs rt _ 1)⟩
    refine ⟨fun hfull => ⟨fun hst herr => ?_, fun hst herr => ?_⟩, fun hempty hst herr hno => ?_, fun hst herr hne => ?_,
      fun key h => feAccess_ecc hg he hv hwait h, fun key h => feAccess_ecc hg he hv hwait h, fun key h => feAccess_ecc hg he hv hwait h⟩
    · obtain ⟨hp, ha⟩ := hgoes (op := .lds) (data := 0) herr nofun (by simp [accWaits, hfull])
      obtain ⟨-, -, hlds, -⟩ := hmem s s.curCore ⟨.lds, d.off, n, 0, 0, 0, 0⟩ hwf
      obtain ⟨hval, hpool, hstate⟩ := hlds rfl
      refine ⟨_, (exec_lds_begins hg he hv .lds _ rfl herr hst).1 ha, ?_, hp.pool.trans hpool, hreads hp hval⟩
      rw [← hstate]
      exact congrArg (fun m : NMap Unit => (m.get? (wordKey s.curCore r)).isSome) hp.full
    · obtain ⟨hp, ha⟩ := hgoes (op := .ldsp) (data := 0) herr nofun (by simp [accWaits, hfull])
      obtain ⟨-, -, -, hldsp, -⟩ := hmem s s.curCore ⟨.ldsp, d.off, n, 0, 0, 0, 0⟩ hwf
      have hb : s.bankAccess s.curCore ⟨.ldsp, d.off, n, 0, 0, 0, 0⟩ = (s, natWord (s.pool.readLE key n)) := hldsp rfl
      refine ⟨_, (exec_lds_begins hg he hv .ldsp _ rfl herr hst).1 ha, ?_, ?_, hreads hp (by rw [hb])⟩
      · have hf := hp.full
        rw [hb] at hf
        exact hf
      · have hf := hp.pool
        rw [hb] at hf
        exact hf
    · obtain ⟨hp, ha⟩ := hgoes (op := .sts) (data := s.pg rt) herr (fun _ => hno) (by simp [accWaits, hempty])
      obtain ⟨-, -, -, -, hsts, -⟩ := hmem s s.curCore ⟨.sts, d.off, n, s.pg rt, 0, 0, 0⟩ hwf
      obtain ⟨⟨hread, hothers⟩, hstate⟩ := hsts rfl
      refine ⟨_, (exec_sts_begins hg he hv herr hst).1 ha, ?_, ?_, fun b hb => ?_, hp.frame.sameRegs _⟩
      · rw [← hstate]
        exact congrArg (fun m : NMap Unit => (m.get? (wordKey s.curCore r)).isSome) hp.full
      · rw [hp.pool]
        exact hread
      · rw [hp.pool]
        exact hothers b hb
    · have ht : feAcquire s .sts d n (s.pg rt) = s.addWait 11 := by
        rw [feAcquire_released hv hwait hne, State.awaitRelease, hw0]
        rfl
      have hp : s.Parks 11 (feAcquire s .sts d n (s.pg rt)) := by
        rw [ht]
        exact ⟨s.keeps_addWait 11, by rw [State.addWait_waits hacq]; exact List.mem_singleton.2 rfl⟩
      obtain ⟨hm, hpc, hs, hr, hmm⟩ := hp.standsInPlace
      exact ⟨_, (exec_sts_begins hg he hv herr hst).2 hp.not_acquired, hm, hpc, hs, hmm, hr⟩
  · intro r waits
    have hwaits {i : Instr} {op : AccOp} {data : Word} (hrel : op = .sts → s.accIds s.cur.fk = [])
        (hw : accWaits op (s.isFull s.curCore r) = true)
        (hi : s.ownError op d (szBytes sz) = none → feStalls s op d (szBytes sz) = false →
          (feAcquire s op d (szBytes sz) data).acquired = false → exec i s = .next (feAcquire s op d (szBytes sz) data).parkInPlace) :
        waits i op := fun hst herr => by
      obtain ⟨hp, w, hq, hwho, hop⟩ := feAcquire_enqueues (data := data) hv hwait herr hrel hgap hw
      obtain ⟨-, hpc, hs, hr, hm⟩ := hp.standsInPlace
      exact ⟨_, w, hi herr hst hp.not_acquired, hq, hwho, hop, hm, hpc, hs, hr⟩
    refine ⟨fun hempty => ⟨hwaits nofun (by simp [accWaits, hempty]) fun herr hst => (exec_lds_begins hg he hv .lds _ rfl herr hst).2,
      hwaits nofun (by simp [accWaits, hempty]) fun herr hst => (exec_lds_begins hg he hv .ldsp _ rfl herr hst).2⟩,
      fun hfull hno => hwaits (fun _ => hno) (by simp [accWaits, hfull]) fun herr hst => (exec_sts_begins hg he hv herr hst).2⟩
  · have hn := szBytes_ne sz
    exact ⟨feset_own hg he hv hn hrx hst (.inl rfl) fun a ha => by simp [accEffect, ha],
      feset_own hg he hv hn hrx hst (.inr rfl) fun a ha => by simp [accEffect, ha]⟩
  · simp only [List.forall_mem_cons]
    have hx := feTrap_of_geyser hg am (s.pg rb + off.signExtend 64) (szBytes sz)
    exact ⟨feAccess_of_trap hx .lds 0 (some rt), feAccess_of_trap hx .ldsp 0 (some rt), feAccess_of_trap hx .sts (s.pg rt) none,
      feset_of_trap hx .fesetFull, feset_of_trap hx .fesetEmpty, fun _ h => absurd h List.not_mem_nil⟩

end Sys2Proof.Machine


namespace Sys2Proof.Machine

/-! ## A queue push behind a fence (R139, R323) -/

/-- Frame 0 has FIFO 0 bound as its queue 2, and its FENCE still waits for a store that has not been performed. -/
def fencedPush : State :=
  { frames := [(0, { fenceStore := [7] })], unperf := [7], cur := { slot := { qbind := 64 } } }

theorem exec_qpush_fencedPush : exec (.qpush 2 0) fencedPush = .next fencedPush.retry := rfl

/-- Refutes O44: a FENCE holds a QPUSH to a FIFO of another partition, which has then not set XPART. -/
theorem not_arrayIssue : ¬ Obligations.ArrayIssue := by
  unfold Obligations.ArrayIssue
  intro h
  obtain ⟨-, -, -, -, -, -, hforeign, -⟩ := h fencedPush default false false false false false false false 0 0 0 default
    0 0 0 0 0 0 0 0 0 default 0 0 2 (by decide) (by decide)
  obtain ⟨t, ht, -, hxpart, -⟩ := hforeign (by decide) (by decide) (by decide) (by decide) (by decide)
  have he : t = fencedPush.retry := Host.Outcome.next.inj (ht.symm.trans exec_qpush_fencedPush)
  rw [he] at hxpart
  exact absurd hxpart (by decide)

end Sys2Proof.Machine


namespace Sys2Proof.Machine

/-! ## What messages and wakes leave: the cycle and the future entries -/

/-- The cycle and the future entries of a state. -/
structure Still where
  cycle : Nat
  futures : NMap Future

def State.still (s : State) : Still := ⟨s.cycle, s.futures⟩

theorem State.cycle_of_still {s t : State} (h : t.still = s.still) : t.cycle = s.cycle := congrArg Still.cycle h
theorem State.future_of_still {s t : State} (h : t.still = s.still) (k : Nat) : t.future k = s.future k :=
  congrArg (fun x => x.futures.getD k {}) h

@[simp] theorem State.still_eta (s : State) : Still.mk s.cycle s.futures = s.still := rfl

@[simp] theorem State.still_mk (cycle time : Nat) (frac slew : Int) (module : BitVec 10) (thisCycle : List Nat) (cur : Cur)
    (frames : NMap Frame) (slots : NMap Slot) (cores : NMap Core) (fifos : NMap Fifo) (futures : NMap Future)
    (clusters : NMap Cluster) (leaseRecs : NMap LeaseRec) (geysers : NMap Geyser) (parts : NMap Part) (vfs : NMap Vf)
    (routers : NMap Router) (hub : Hub) (pool gpool dev host : Mem) (full : NMap Unit) (waitq : NMap (List Waiter))
    (bad : NMap Err) (delayed : List Delayed) (tabWrites : List TabWrite) (net : List Packet) (unperf : List Nat)
    (copies : NMap Copy) (late : List Late) (agenda : List Event) (tape : List Move) (nextId free : Nat) :
    (State.mk cycle time frac slew module thisCycle cur frames slots cores fifos futures clusters leaseRecs geysers parts
      vfs routers hub pool gpool dev host full waitq bad delayed tabWrites net unperf copies late agenda tape nextId
      free).still = ⟨cycle, futures⟩ := rfl

@[simp] theorem State.still_ite (c : Prop) [Decidable c] (s t : State) :
    (if c then s else t).still = if c then s.still else t.still := apply_ite State.still c s t

@[simp] theorem still_foldl {α : Type} {f : State → α → State} (hf : ∀ s x, (f s x).still = s.still) (l : List α) (s : State) :
    (l.foldl f s).still = s.still := by
  induction l generalizing s with
  | nil => rfl
  | cons x l ih => exact (ih _).trans (hf s x)

@[simp] theorem State.updFrame_still (s : State) (fk : Nat) (h : Frame → Frame) : (s.updFrame fk h).still = s.still := rfl
@[simp] theorem State.setFrame_still (s : State) (fk : Nat) (f : Frame) : (s.setFrame fk f).still = s.still := rfl
@[simp] theorem State.updSlot_still (s : State) (sk : Nat) (h : Slot → Slot) : (s.updSlot sk h).still = s.still := rfl
@[simp] theorem State.updCore_still (s : State) (k : Nat) (h : Core → Core) : (s.updCore k h).still = s.still := rfl
@[simp] theorem State.updCluster_still (s : State) (q : Nat) (h : Cluster → Cluster) : (s.updCluster q h).still = s.still := rfl
@[simp] theorem State.updPart_still (s : State) (n : Nat) (h : Part → Part) : (s.updPart n h).still = s.still := rfl
@[simp] theorem State.updHub_still (s : State) (h : Hub → Hub) : (s.updHub h).still = s.still := rfl
@[simp] theorem State.later_still (s : State) (n : Nat) (i : Instr) : (s.later n i).still = s.still := rfl
@[simp] theorem State.fresh_still (s : State) : s.fresh.2.still = s.still := rfl
@[simp] theorem State.draw_still (s : State) : s.draw.2.still = s.still := rfl
@[simp] theorem State.performed_still (s : State) (id : Nat) : (s.performed id).still = s.still := rfl

@[simp] theorem State.charge_still (s : State) (fk cls n : Nat) : (s.charge fk cls n).still = s.still := rfl

@[simp] theorem State.chargeFabric_still (s : State) (n k : Nat) : (s.chargeFabric n k).still = s.still := rfl

@[simp] theorem State.trapMsg_still (s : State) (e : Nat) (m : TrapMsg) : (s.trapMsg e m).still = s.still := rfl

@[simp] theorem State.refuse_still (s : State) (agent : Nat) (tag : BitVec 10) : (s.refuse agent tag).still = s.still := by
  simp [State.refuse]

@[simp] theorem State.refusePacket_still (s : State) (p : Packet) : (s.refusePacket p).still = s.still := by
  unfold State.refusePacket
  split <;> simp

@[simp] theorem State.toLink_still (s : State) (p : Packet) : (s.toLink p).still = s.still := by simp [State.toLink]

@[simp] theorem State.dispatchPacket_still (s : State) (p : Packet) : (s.dispatchPacket p).still = s.still := by
  simp [State.dispatchPacket]

@[simp] theorem State.send_still (s : State) (src dst vc : Nat) (tag : BitVec 10) (epoch : BitVec 6) (sender : Nat)
    (after : List Nat) (body : Body) : (s.send src dst vc tag epoch sender after body).still = s.still := by
  simp [State.send]

@[simp] theorem State.resume_still (s : State) (fk : Nat) : (s.resume fk).still = s.still := by
  unfold State.resume
  (repeat' split) <;> simp

@[simp] theorem State.giveReply_still (s : State) (fk : Nat) (r : Reply) : (s.giveReply fk r).still = s.still := by
  simp [State.giveReply]

@[simp] theorem State.makeResumable_still (s : State) (fk : Nat) : (s.makeResumable fk).still = s.still := by
  simp [State.makeResumable]

@[simp] theorem State.wakeThread_still (s : State) (fk out : Nat) (r : Reply) : (s.wakeThread fk out r).still = s.still := by
  simp [State.wakeThread]

@[simp] theorem wakeOne_still (q : Nat) (tag : BitVec 10) (r : Reply) (s : State) (a : Asker) :
    (wakeOne q tag r s a).still = s.still := by
  simp [wakeOne]

@[simp] theorem State.noteFinal_still (s : State) (p : Producer) (h : Word) (st : FState) :
    (s.noteFinal p h st).still = s.still := by
  unfold State.noteFinal
  split <;> simp

@[simp] theorem State.countLive_still (s : State) (tag : BitVec 10) (lseq : Nat) : (s.countLive tag lseq).still = s.still := rfl

@[simp] theorem State.countEnd_still (s : State) (tag : BitVec 10) (lseq : Nat) (st : FState) :
    (s.countEnd tag lseq st).still = s.still := rfl

@[simp] theorem State.sendJoin_still (s : State) (src : Nat) (tag : BitVec 10) (epoch : BitVec 6) (sender : Nat)
    (join : Word) (final : FState) (lane : Option Nat) :
    (s.sendJoin src tag epoch sender join final lane).still = s.still := by
  simp [State.sendJoin]

/-! ## The end of a queued task at its future -/

/-- An entry that leaves PENDING, and is not dropped, has its state and its value. -/
theorem State.settle_future {s : State} {key : Nat} (hd : (s.future key).dropped = false) (st : FState) (v : Word) :
    ((s.settle key st v).future key).state = st ∧ ((s.settle key st v).future key).value = v := by
  have hs : ∀ u : State, u.still = (s.updFuture key (fun _ => { s.future key with state := st, value := v, waiters := [], age := s.cycle, producer := .none })).still →
      (u.future key).state = st ∧ (u.future key).value = v := fun u hu => by
    rw [State.future_of_still hu, State.future_updFuture, if_pos rfl]
    exact ⟨rfl, rfl⟩
  exact hs _ (by simp [State.settle, hd])

/-- A task that ends at a PENDING future of its own cluster leaves it with the state and the value of its end. -/
theorem State.endFuture_future {s : State} {q : Nat} {fut : Word} (hm : handleModule fut = s.module.toNat)
    (hq : handleCluster fut = q) (hp : (s.future (handleKey fut)).state = .pending)
    (hdist : handleDist (s.future (handleKey fut)) fut = 0) (hd : (s.future (handleKey fut)).dropped = false)
    (src : Nat) (tag : BitVec 10) (epoch : BitVec 6) (sender : Nat) (join : Word) (lane : Option Nat) (lseq : Nat)
    (noted : Option FState) (st : FState) (v : Word) :
    let u := s.endFuture src q tag epoch sender fut join lane lseq noted st v
    (u.future (handleKey fut)).state = st ∧ (u.future (handleKey fut)).value = v := by
  have hu : (s.endFuture src q tag epoch sender fut join lane lseq noted st v).still = (s.settle (handleKey fut) st v).still := by
    simp [State.endFuture, State.retireEntry, handleCurrent, hm, hq, hp, hdist]
  intro u
  rw [State.future_of_still hu]
  exact State.settle_future hd st v

end Sys2Proof.Machine

namespace Sys2Proof.Machine

/-! ## The placement of a task (R165, R366) -/

theorem foldl_put_rangeFrom {α : Type} (h : Nat → α) (d : α) (j n : Nat) : ∀ (a : Nat) (m : NMap α),
    ((rangeFrom a n).foldl (fun m i => m.put i (h i)) m).getD j d = if a ≤ j ∧ j < a + n then h j else m.getD j d := by
  induction n with
  | zero => intro a m; rw [if_neg (by omega)]; rfl
  | succ n ih =>
    intro a m
    rw [rangeFrom, List.foldl_cons, ih, NMap.getD_put]
    rcases Nat.lt_trichotomy j a with hj | rfl | hj
    · rw [if_neg (by omega), if_neg (by omega), if_neg (by omega)]
    · rw [if_neg (by omega), if_pos rfl, if_pos (by omega)]
    · by_cases hlt : j < a + 1 + n
      · rw [if_pos (by omega), if_pos (by omega)]
      · rw [if_neg (by omega), if_neg (by omega), if_neg (by omega)]

/-- The offset that a new task finds for its tile i. -/
def Task.tileOffset (x : Task) (i : Nat) : Word :=
  match x.tiles[i]? with
  | some d => if tilePresent d then natWord (tileExtent d).1 else 0
  | none => 0

/-- What the registers g1 to g11 of a new task hold. -/
def Task.firstG (x : Task) (i : Nat) : Word :=
  if i ≤ 6 then x.args.getD (i - 1) 0 else if i = 7 then x.g7 else x.tileOffset (i - 8)

theorem dispatchFrame_rg (f : Frame) (x : Task) (st : State) (fk ss : Nat) {i : Nat} (h1 : 1 ≤ i) (h2 : i ≤ 11) :
    (dispatchFrame f x st fk ss 0).rg i = x.firstG i := by
  have hg := foldl_put_rangeFrom x.firstG 0 i 11 1 f.g
  rw [if_pos (by omega)] at hg
  rw [Frame.rg, if_neg (by omega), ← hg]
  exact (NMap.getD_put 62 i _ _ _).trans (if_neg (by omega))

theorem dispatchFrame_rg_sp (f : Frame) (x : Task) (st : State) (fk ss : Nat) : (dispatchFrame f x st fk ss 0).rg 62 =
    if ss = 0 then 0 else natWord (st.poolS (frameCore fk) - frameNum fk * ss) :=
  NMap.getD_put_self 62 _ _ _

/-- The formats of a task are drawn where it leaves them open; nothing else of the task changes. -/
theorem State.drawFormats_task (s : State) (x : Task) : ∃ (a b c : BitVec 21) (d : BitVec 32),
    (s.drawFormats x).2 = { x with fmta := a, fmtb := b, scale := c, rowmask := d } := by
  unfold State.drawFormats
  split
  · exact ⟨_, _, _, _, rfl⟩
  · exact ⟨x.fmta, x.fmtb, x.scale, x.rowmask, rfl⟩

/-- Of what a placement reads, a draw of formats leaves everything. -/
theorem State.drawFormats_state (s : State) (x : Task) : (s.drawFormats x).1.frames = s.frames ∧
    (s.drawFormats x).1.slots = s.slots ∧ (s.drawFormats x).1.clusters = s.clusters ∧
    (s.drawFormats x).1.cores = s.cores ∧ (s.drawFormats x).1.parts = s.parts := by
  unfold State.drawFormats
  split <;> simp [State.draw]

theorem State.drawFormats_fixed (s : State) {x : Task} (h : x.freeFormats = false) : s.drawFormats x = (s, x) := by
  simp [State.drawFormats, h]

theorem State.bindProducer_state (s : State) (x : Task) (fk : Nat) : (s.bindProducer x fk).frames = s.frames ∧
    (s.bindProducer x fk).slots = s.slots ∧ (s.bindProducer x fk).clusters = s.clusters := by
  unfold State.bindProducer
  split <;> exact ⟨rfl, rfl, rfl⟩

/-- What a cluster keeps of itself when one of its tasks is placed. -/
def Cluster.placed (c : Cluster) (x : Task) (cycle : Nat) : Cluster := { c with
  tasks := c.tasks.filter (fun y => y.id != x.id), placedAt := some cycle,
  dispatched := c.dispatched.put x.tag.toNat (c.dispatched.getD x.tag.toNat 0 + 1) }

/-- The state in which a task has left its cluster's queue for its place. -/
def State.unqueued (s : State) (q : Nat) (x : Task) : State := s.updCluster q (fun c => c.placed x s.cycle)

/-- The frame of a new task before it is charged for its dispatch. -/
def State.newFrame (s : State) (q : Nat) (x : Task) (p : Place) : Frame :=
  dispatchFrame (s.frame p.frame) ((s.unqueued q x).drawFormats x).2 s p.frame
    (((s.launch x.tag.toNat x.lseq).map Launch.ss).getD 0) p.kind

theorem dispatchFrame_congr {s t : State} (hc : t.cores = s.cores) (hp : t.parts = s.parts) (f : Frame) (x : Task)
    (fk ss kind : Nat) : dispatchFrame f x t fk ss kind = dispatchFrame f x s fk ss kind := by
  simp only [dispatchFrame, State.poolS, State.core, State.part, hc, hp]

theorem State.place_new (s : State) (q : Nat) (x : Task) {p : Place} (hk : p.kind ≠ 2) : s.place q x p =
    (((((s.unqueued q x).drawFormats x).1.setFrame p.frame (s.newFrame q x p)).bindProducer x p.frame).updSlot p.slot
      (fun r => bindSlot r p.frame (s.newFrame q x p).tiles)).charge p.frame 12 1 := by
  obtain ⟨hfr, -, -, hco, hpa⟩ := (s.unqueued q x).drawFormats_state x
  have hf : dispatchFrame (((s.unqueued q x).drawFormats x).1.frame p.frame) ((s.unqueued q x).drawFormats x).2
      ((s.unqueued q x).drawFormats x).1 p.frame ((((s.unqueued q x).launch x.tag.toNat x.lseq).map Launch.ss).getD 0) p.kind =
      s.newFrame q x p := by
    rw [dispatchFrame_congr hco hpa, State.frame, hfr]
    rfl
  rw [← hf]
  unfold State.place
  dsimp only
  rw [if_neg hk]
  rfl

theorem State.place_clusters (s : State) (q : Nat) (x : Task) (p : Place) :
    (s.place q x p).clusters = (s.unqueued q x).clusters := by
  unfold State.place
  dsimp only
  split
  · rfl
  · exact (State.bindProducer_state _ x p.frame).2.2.trans (State.drawFormats_state _ x).2.2.1

theorem State.cluster_place (s : State) (q : Nat) (x : Task) (p : Place) :
    (s.place q x p).cluster q = (s.cluster q).placed x s.cycle := by
  rw [State.cluster, s.place_clusters q x p]
  exact NMap.getD_put_self q _ _ _

/-- The charge of a dispatch. -/
def Frame.dispatchCharged (f : Frame) (w : Nat) : Frame :=
  { f.addEnergy (1 * w) with energyFw := f.energyFw + 1 * (Config.energyWeight 12).toNat }

/-- A charge counts energy and changes nothing else. -/
theorem Frame.dispatchCharged_eq (f : Frame) (w : Nat) : f.dispatchCharged w = { f with
    energy := (f.dispatchCharged w).energy, energySat := (f.dispatchCharged w).energySat,
    energyFrac := (f.dispatchCharged w).energyFrac, energyFw := (f.dispatchCharged w).energyFw } := by
  simp only [Frame.dispatchCharged, Frame.addEnergy]
  split <;> rfl

theorem Frame.dispatchCharged_state (f : Frame) (w : Nat) : (f.dispatchCharged w).state = f.state := by
  rw [f.dispatchCharged_eq w]

theorem State.frame_charge (s : State) (fk : Nat) : ∃ w, (s.charge fk 12 1).frame fk = (s.frame fk).dispatchCharged w :=
  ⟨_, (s.frame_updFrame fk fk _).trans (if_pos rfl)⟩

theorem State.frame_place_new (s : State) (q : Nat) (x : Task) {p : Place} (hk : p.kind ≠ 2) :
    ∃ w, (s.place q x p).frame p.frame = (s.newFrame q x p).dispatchCharged w := by
  rw [s.place_new q x hk]
  obtain ⟨w, hw⟩ := State.frame_charge _ p.frame
  refine ⟨w, hw.trans (congrArg (Frame.dispatchCharged · w) ?_)⟩
  change State.frame (State.bindProducer _ x p.frame) p.frame = _
  rw [State.frame, (State.bindProducer_state _ x p.frame).1]
  exact (State.frame_setFrame _ p.frame p.frame _).trans (if_pos rfl)

theorem State.slot_place_new (s : State) (q : Nat) (x : Task) {p : Place} (hk : p.kind ≠ 2) :
    (s.place q x p).slot p.slot = bindSlot (s.slot p.slot) p.frame (s.newFrame q x p).tiles := by
  rw [s.place_new q x hk]
  refine (NMap.getD_put_self p.slot _ _ _).trans ?_
  rw [State.slot, (State.bindProducer_state _ x p.frame).2.1]
  exact congrArg (fun r : NMap Slot => bindSlot (r.getD p.slot {}) p.frame (s.newFrame q x p).tiles)
    ((s.unqueued q x).drawFormats_state x).2.1

/-- The state with a resumed task in its slot. -/
def State.replaced (s : State) (q : Nat) (x : Task) (p : Place) : State :=
  ((s.unqueued q x).updFrame p.frame (fun f => { f with state := .running })).updSlot p.slot
    (fun r => bindSlot r p.frame (((s.unqueued q x).updFrame p.frame (fun f => { f with state := .running })).frame p.frame).tiles)

theorem State.place_resumed (s : State) (q : Nat) (x : Task) {p : Place} (hk : p.kind = 2) :
    s.place q x p = (s.replaced q x p).charge p.frame 12 1 := by
  unfold State.place
  dsimp only
  rw [if_pos hk]
  rfl

/-- A placed task runs in its slot and its frame. -/
theorem State.place_runs (s : State) (q : Nat) (x : Task) (p : Place) : ((s.place q x p).slot p.slot).frame = some p.frame ∧
    ((s.place q x p).slot p.slot).state = .run ∧ ((s.place q x p).frame p.frame).state = .running := by
  by_cases hk : p.kind = 2
  · have hs : ((s.replaced q x p).charge p.frame 12 1).slot p.slot = bindSlot (s.slot p.slot) p.frame
        (((s.unqueued q x).updFrame p.frame (fun f => { f with state := .running })).frame p.frame).tiles := by
      change (s.replaced q x p).slot p.slot = _
      rw [State.replaced, State.slot_updSlot, if_pos rfl]
      rfl
    have hf : ((s.replaced q x p).frame p.frame).state = .running := by
      change (State.frame ((s.unqueued q x).updFrame p.frame (fun f => { f with state := .running })) p.frame).state = _
      rw [State.frame_updFrame, if_pos rfl]
    obtain ⟨w, hw⟩ := State.frame_charge (s.replaced q x p) p.frame
    rw [s.place_resumed q x hk, hw, hs, Frame.dispatchCharged_state]
    exact ⟨rfl, rfl, hf⟩
  · obtain ⟨w, hw⟩ := s.frame_place_new q x hk
    rw [hw, s.slot_place_new q x hk, Frame.dispatchCharged_state]
    exact ⟨rfl, rfl, rfl⟩

/-- The frame of a task newly placed at p holds the values of R165. -/
theorem State.place_new_frame (s : State) (q : Nat) (x : Task) {p : Place} (hk : p.kind = 0) :
    let f := (s.place q x p).frame p.frame
    let ss := ((s.launch x.tag.toNat x.lseq).map Launch.ss).getD 0
    (∀ i : Nat, 1 ≤ i → i ≤ 11 → f.rg i = x.firstG i) ∧
    f.rg 62 = (if ss = 0 then 0 else natWord (s.poolS (frameCore p.frame) - frameNum p.frame * ss)) ∧
    f.pc = x.entry ∧ f.status = 0 ∧ f.estat = 0 ∧ f.ecause = 0 ∧ f.fut = x.fut ∧ f.join = x.join ∧ f.prio = x.prio ∧
    f.index = x.index ∧ f.task = x.entry ∧ f.wdogCount = 0 ∧ f.wdogLimit = (s.part x.tag.toNat).wdog ∧
    (x.freeFormats = false → f.fmta = x.fmta ∧ f.fmtb = x.fmtb ∧ f.scale = x.scale ∧ f.rowmask = x.rowmask) := by
  obtain ⟨w, hw⟩ := s.frame_place_new q x (p := p) (by omega)
  obtain ⟨fa, fb, sc, rm, hx⟩ := (s.unqueued q x).drawFormats_task x
  intro f ss
  have hf : f = (s.newFrame q x p).dispatchCharged w := hw
  rw [Frame.dispatchCharged_eq] at hf
  have hrg : ∀ i, f.rg i = (s.newFrame q x p).rg i := fun i => by rw [hf]; rfl
  have hnew : s.newFrame q x p =
      dispatchFrame (s.frame p.frame) { x with fmta := fa, fmtb := fb, scale := sc, rowmask := rm } s p.frame ss 0 := by
    rw [State.newFrame, hk, hx]
  refine ⟨fun i h1 h2 => ?_, ?_, ?_⟩
  · rw [hrg, hnew, dispatchFrame_rg _ _ _ _ _ h1 h2]
    rfl
  · rw [hrg, hnew, dispatchFrame_rg_sp]
  · rw [hf, hnew]
    refine ⟨rfl, rfl, rfl, rfl, rfl, rfl, rfl, rfl, rfl, rfl, rfl, fun hff => ?_⟩
    rw [State.drawFormats_fixed _ hff] at hx
    exact ⟨congrArg Task.fmta hx.symm, congrArg Task.fmtb hx.symm, congrArg Task.scale hx.symm, congrArg Task.rowmask hx.symm⟩

/-! ## Where a task can be placed (R365) -/

theorem State.freeSlot_spec {s : State} {k sk : Nat} (h : s.freeSlot k = some sk) :
    (s.slot sk).state = .free ∧ sk / 8 = k := by
  have hf := List.find?_some h
  have hm := List.mem_of_find?_eq_some h
  rw [rangeFrom_eq, List.mem_range'_1] at hm
  exact ⟨by simpa using hf, by omega⟩

theorem State.freeFrames_spec {s : State} {k fk : Nat} (h : fk ∈ s.freeFrames k) :
    s.frameFree fk = true ∧ k * 64 ≤ fk ∧ fk < k * 64 + 64 := by
  obtain ⟨hm, hf⟩ := List.mem_filter.1 h
  have hF : pwF (s.core k).pword < 64 := Nat.mod_lt _ (by decide)
  rw [rangeFrom_eq, List.mem_range'_1] at hm
  exact ⟨hf, by omega, by omega⟩

theorem frameCore_of_lt {k fk : Nat} (hk : k < 2 ^ 14) (h1 : k * 64 ≤ fk) (h2 : fk < k * 64 + 64) : frameCore fk = k := by
  simp only [frameCore, isGeyserFrame, decide_eq_true_eq]
  rw [if_neg (by omega)]
  omega

theorem leastCore_mem {m : Nat → Nat} {ks : List Nat} {k : Nat} (h : leastCore m ks = some k) : k ∈ ks := by
  induction ks generalizing k with
  | nil => cases h
  | cons j ks ih =>
    unfold leastCore at h
    split at h
    · cases h
      exact List.mem_cons_self
    · rename_i i hi
      split at h <;> cases h
      · exact List.mem_cons_of_mem _ (ih hi)
      · exact List.mem_cons_self

theorem State.mem_clusterCores {s : State} {q tag k : Nat} (h : k ∈ s.clusterCores q tag) : k / 16 = q := by
  have hk := (List.mem_filter.1 h).2
  simp only [Bool.and_eq_true, beq_iff_eq] at hk
  exact hk.1.1

/-- A new place is a free slot of its frame's core, and a free frame where the task has no tiles and takes a new frame. -/
theorem State.newPlace_spec {s : State} {q : Nat} (hq : q < 1024) {x : Task} {cores : List Nat}
    (hc : ∀ k ∈ cores, k / 16 = q) {pl : Place} (h : s.newPlace q x cores none = some pl) :
    (s.slot pl.slot).state = .free ∧ pl.slot / 8 = frameCore pl.frame ∧
      (pl.kind = 0 → x.present = [] → s.frameFree pl.frame = true) := by
  have hmap : ∀ (fk kind : Nat), (s.freeSlot (frameCore fk)).map (fun sk => (⟨sk, fk, kind⟩ : Place)) = some pl →
      (s.slot pl.slot).state = .free ∧ pl.slot / 8 = frameCore pl.frame ∧ pl.kind = kind := by
    intro fk kind hs
    obtain ⟨sk, hsk, rfl⟩ := Option.map_eq_some_iff.1 hs
    exact ⟨(State.freeSlot_spec hsk).1, (State.freeSlot_spec hsk).2, rfl⟩
  unfold State.newPlace at h
  dsimp only at h
  split at h
  · cases h
  split at h
  · obtain ⟨h1, h2, h3⟩ := hmap _ _ h
    exact ⟨h1, h2, fun h0 => by omega⟩
  split at h
  · split at h
    · cases h
    rename_i k hk
    split at h
    · rename_i sk fk hsk hfk
      cases h
      have hk14 : k < 2 ^ 14 := by
        have := hc k (List.mem_filter.1 (leastCore_mem hk)).1
        omega
      obtain ⟨hfree, h1, h2⟩ := State.freeFrames_spec (List.mem_of_mem_head? hfk)
      obtain ⟨hs, hslot⟩ := State.freeSlot_spec hsk
      exact ⟨hs, hslot.trans (frameCore_of_lt hk14 h1 h2).symm, fun _ _ => hfree⟩
    · cases h
  · rename_i hpres
    split at h
    · split at h
      · obtain ⟨h1, h2, -⟩ := hmap _ _ h
        exact ⟨h1, h2, fun _ he => absurd he (by simpa using hpres)⟩
      · cases h
    · cases h

/-- The place of a task without a lane. -/
theorem State.placeOf_spec {s : State} {q : Nat} (hq : q < 1024) {x : Task} (hl : x.lane = none) {pl : Place}
    (h : s.placeOf q x = some pl) : (s.slot pl.slot).state = .free ∧ pl.slot / 8 = frameCore pl.frame ∧
      (pl.kind = 0 → x.present = [] → s.frameFree pl.frame = true) := by
  unfold State.placeOf at h
  dsimp only at h
  split at h
  · cases h
  rw [hl] at h
  split at h
  · obtain ⟨sk, hsk, rfl⟩ := Option.map_eq_some_iff.1 h
    exact ⟨(State.freeSlot_spec hsk).1, (State.freeSlot_spec hsk).2, fun h0 => nomatch h0⟩
  · rename_i hlane
    cases hlane
  · exact State.newPlace_spec hq (fun _ hk => State.mem_clusterCores hk) h
  · rename_i hlane
    cases hlane

/-! ## The choice (R364) -/

/-- The highest priority that holds a placeable task decides. -/
theorem below_top {cs : List (Task × Place)} {c : Task × Place} {m : Nat} (hm : ofPrio cs m = some c) :
    ∀ {p : Nat}, m < p → (∀ x ∈ cs, x.1.prio.toNat < p → x.1.prio.toNat ≤ m) → below cs p = some c := by
  intro p
  induction p with
  | zero => intro h; omega
  | succ p ih =>
    intro hlt hall
    unfold below
    by_cases he : p = m
    · rw [he, hm]
    · have hnone : ofPrio cs p = none := by
        have hf : cs.filter (fun c => c.1.prio.toNat == p) = [] := by
          rw [List.filter_eq_nil_iff]
          intro x hx hp
          have := hall x hx (by have := beq_iff_eq.1 hp; omega)
          have := beq_iff_eq.1 hp
          omega
        rw [ofPrio, hf]
        rfl
      rw [hnone]
      exact ih (by omega) (fun x hx h => hall x hx (by omega))

theorem below_none {cs : List (Task × Place)} : ∀ {p : Nat}, (∀ x ∈ cs, p ≤ x.1.prio.toNat) → below cs p = none := by
  intro p
  induction p with
  | zero => intro _; rfl
  | succ p ih =>
    intro hall
    have hf : cs.filter (fun c => c.1.prio.toNat == p) = [] := by
      rw [List.filter_eq_nil_iff]
      intro x hx hp
      have := hall x hx
      have := beq_iff_eq.1 hp
      omega
    unfold below
    rw [ofPrio, hf]
    exact ih (fun x hx => by have := hall x hx; omega)

theorem choose_single (x : Task) (px : Place) (n : Nat) : choose [(x, px)] n = some ((x, px), 0) := by
  have hm : ofPrio [(x, px)] x.prio.toNat = some (x, px) := by simp [ofPrio, oldest]
  have hb := below_top hm (p := 4) (by omega) (by simp)
  have hn : below [(x, px)] x.prio.toNat = none := below_none (by simp)
  simp only [choose, hb, hn]

theorem choose_older {x y : Task} (px py : Place) (n : Nat) (ho : x.order < y.order) (hp : x.prio = y.prio) :
    choose [(x, px), (y, py)] n = some ((x, px), 0) := by
  have hm : ofPrio [(x, px), (y, py)] x.prio.toNat = some (x, px) := by
    simp [ofPrio, oldest, hp, show ¬ y.order < x.order by omega]
  have hb := below_top hm (p := 4) (by omega) (by simp [hp])
  have hn : below [(x, px), (y, py)] x.prio.toNat = none := below_none (by simp [hp])
  simp only [choose, hb, hn]

theorem choose_higher {x y : Task} (px py : Place) (n : Nat) (hp : x.prio.toNat < y.prio.toNat) :
    choose [(x, px), (y, py)] n = some (if n = 32 then ((x, px), 0) else ((y, py), n + 1)) := by
  have hy : ofPrio [(x, px), (y, py)] y.prio.toNat = some (y, py) := by
    simp [ofPrio, oldest, show ¬ x.prio.toNat = y.prio.toNat by omega]
  have hx : ofPrio [(x, px), (y, py)] x.prio.toNat = some (x, px) := by
    simp [ofPrio, oldest, show ¬ y.prio.toNat = x.prio.toNat by omega]
  have hb := below_top hy (p := 4) (by omega) (by simp; omega)
  have hn := below_top hx hp (by simp)
  simp only [choose, hb, hn]
  split <;> rfl

/-! ## The dispatch of a cycle (R363, R364) -/

/-- The tasks of a cluster that can be placed now, with their places. -/
def State.placeable (s : State) (q : Nat) : List (Task × Place) :=
  (s.cluster q).tasks.filterMap (fun x => (s.placeOf q x).map (fun p => (x, p)))

/-- The state of a dispatch that picks a task, with the new count of tasks passed over. -/
def State.dispatched (s : State) (q : Nat) (x : Task) (p : Place) (n : Nat) : State :=
  (((s.place q x p).updCluster q (fun c => { c with passed := n })).later 1 (.taskDispatch q)).later 1 (.tilePrefetchStart q)

section
variable {s : State} {q : Nat} (hfill : s.fillCluster q = s)
include hfill

theorem exec_taskDispatch_again (h : (s.cluster q).placedAt = some s.cycle) :
    exec (.taskDispatch q) s = .next (s.later 1 (.taskDispatch q)) := by
  change execTaskDispatch q s = _
  unfold execTaskDispatch
  dsimp only
  rw [hfill, if_pos h]

theorem exec_taskDispatch_picks (h : (s.cluster q).placedAt ≠ some s.cycle)
    (hlane : ∀ c ∈ s.placeable q, c.1.lane = none) {x : Task} {p : Place} {n : Nat}
    (hc : choose (s.placeable q) (s.cluster q).passed = some ((x, p), n)) :
    exec (.taskDispatch q) s = .next (s.dispatched q x p n) := by
  have hno : (s.placeable q).filter (fun c => c.1.lane.isSome) = [] := by
    rw [List.filter_eq_nil_iff]
    intro c hcm
    simp [hlane c hcm]
  change execTaskDispatch q s = _
  unfold execTaskDispatch
  dsimp only
  rw [hfill, if_neg h]
  rw [show (s.cluster q).tasks.filterMap (fun t => (s.placeOf q t).map (fun p => (t, p))) = s.placeable q from rfl, hno]
  simp only [oldest]
  rw [hc]
  rfl

end

/-- What a dispatch that picks a task leaves of the cluster, the slot and the frame. -/
theorem State.dispatched_picks (s : State) (q : Nat) (x : Task) (p : Place) (n : Nat) :
    let t := s.dispatched q x p n
    (t.cluster q).tasks = (s.cluster q).tasks.filter (fun y => y.id ≠ x.id) ∧ (t.cluster q).passed = n ∧
      (t.cluster q).placedAt = some s.cycle ∧ (t.slot p.slot).frame = some p.frame ∧ (t.slot p.slot).state = .run ∧
      (t.frame p.frame).state = .running := by
  intro t
  have hc : t.cluster q = { (s.cluster q).placed x s.cycle with passed := n } := by
    rw [← s.cluster_place q x p]
    exact ((s.place q x p).cluster_updCluster q q (fun c => { c with passed := n })).trans (if_pos rfl)
  obtain ⟨hfr, hst, hrun⟩ := s.place_runs q x p
  rw [hc]
  exact ⟨List.filter_congr (fun y _ => by simp [bne, beq_eq_decide]), rfl, rfl, hfr, hst, hrun⟩

/-! ## Tile prefetch (R126, R367) -/

theorem State.nextPrefetch_free {s : State} {q fk : Nat} {x : Task} (h : s.nextPrefetch q = some (x, fk)) :
    s.frameFree fk = true := by
  obtain ⟨y, -, hy⟩ := List.exists_of_findSome?_eq_some h
  split at hy
  · cases hy
  · obtain ⟨fk', hfk, he⟩ := Option.map_eq_some_iff.1 hy
    cases he
    unfold State.prefetchFrame at hfk
    obtain ⟨k, -, hk⟩ := Option.bind_eq_some_iff.1 hfk
    exact (State.freeFrames_spec (List.mem_of_mem_head? hk)).1

/-- The operands of a tile's copy, field by field of its descriptor. -/
theorem tileCopy_fields (s : State) (q : Nat) (x : Task) (fk : Nat) (d : Word × Word) (tid : BitVec 16) :
    let k := tileCopy s q x fk d tid
    k.src = natWord (d.1.toNat % 2 ^ 56) ∧ k.dst = natWord (0xF0 * 2 ^ 56 + d.2.toNat / 2 ^ 42 % 2 ^ 17) ∧
      k.shape = natWord (d.2.toNat % 2 ^ 10 + 1 + d.2.toNat / 2 ^ 10 % 2 ^ 12 * 8 * 2 ^ 16) ∧
      k.sstr = natWord (d.2.toNat / 2 ^ 22 % 2 ^ 20 * 8) ∧ k.dstr = natWord (d.2.toNat / 2 ^ 10 % 2 ^ 12 * 8) := by
  simp [tileCopy, natBits]

/-- The state in which the copy of a task's only tile has been issued. -/
def State.tileIssued (s : State) (q fk : Nat) (x : Task) (d : Word × Word) : State :=
  let tid := nextTid (s.prefetchTids q) (s.cluster q).prefetchNext 257
  let c := tileCopy s.fresh.2 q x fk d tid
  (s.fresh.2.updCluster q (fun x => { x with prefetches := x.prefetches + 1, prefetchNext := afterTid tid })).addCopy
    s.nextId c (s.delay (lampEnd q) (2 ^ 20 + c.channel) + 8)

theorem State.startPrefetch_one (s : State) (q fk : Nat) {x : Task} {d : Word × Word} (hx : x.present = [d]) :
    s.startPrefetch q x fk = (s.tileIssued q fk x d).updCluster q (fun c => { c with
      tasks := c.tasks.map (fun y => if y.id == x.id then
        { x with target := some fk, regions := [tileExtent d], prefetching := [s.nextId] } else y) }) := by
  simp only [State.startPrefetch, hx, issueTiles]
  rfl

theorem State.tileIssued_cluster (s : State) (q fk : Nat) (x : Task) (d : Word × Word) :
    ((s.tileIssued q fk x d).cluster q).tasks = (s.cluster q).tasks ∧
      ((s.tileIssued q fk x d).cluster q).prefetches = (s.cluster q).prefetches + 1 := by
  have h : (s.tileIssued q fk x d).cluster q = { s.cluster q with
      prefetches := (s.cluster q).prefetches + 1
      prefetchNext := afterTid (nextTid (s.prefetchTids q) (s.cluster q).prefetchNext 257) } :=
    (State.cluster_updCluster s.fresh.2 q q (fun x => { x with
      prefetches := x.prefetches + 1
      prefetchNext := afterTid (nextTid (s.prefetchTids q) (s.cluster q).prefetchNext 257) })).trans (if_pos rfl)
  rw [h]
  exact ⟨rfl, rfl⟩

theorem exec_tilePrefetchStart {s : State} {q fk : Nat} {x : Task}
    (hroom : ((s.cluster q).tasks.filter (fun t => t.target.isSome && !t.cancelled)).length < 64)
    (hnext : s.nextPrefetch q = some (x, fk)) (hcopies : (s.cluster q).prefetches + x.present.length ≤ 256) :
    exec (.tilePrefetchStart q) s = .next ((s.startPrefetch q x fk).later 1 (.tilePrefetchStart q)) := by
  change execTilePrefetchStart q s = _
  unfold execTilePrefetchStart
  dsimp only
  rw [if_neg (by omega), hnext]
  exact if_neg (by omega)

/-- A prefetch copy has ended: its entry is free, and the cluster goes on. -/
def State.prefetchEnded (s : State) (id q : Nat) : State :=
  ((({ s with copies := s.copies.del id }.updCluster q (fun x => { x with prefetches := x.prefetches - 1 })).later 1
    (.taskDispatch q)).later 1 (.tilePrefetchStart q))

theorem State.cluster_updCluster_self (s : State) (q : Nat) (h : Cluster → Cluster) :
    (s.updCluster q h).cluster q = h (s.cluster q) :=
  (s.cluster_updCluster q q h).trans (if_pos rfl)

theorem State.cluster_prefetchEnded (s : State) (id q : Nat) :
    (s.prefetchEnded id q).cluster q = { s.cluster q with prefetches := (s.cluster q).prefetches - 1 } :=
  State.cluster_updCluster_self { s with copies := s.copies.del id } q (fun x => { x with prefetches := x.prefetches - 1 })

section
variable {s : State} {id q n : Nat} {k : Copy} {x : Task} (hk : s.copies.get? id = some k) (hp : k.purpose = .prefetch q n)
  (he : k.ended = true) (hx : (s.cluster q).tasks.find? (fun t => t.id == n) = some x) (hc : x.cancelled = false)
include hk hp he hx hc

theorem exec_prefetchCompletion : exec (.prefetchCompletion id) s = .next
    (if (k.status.getD 0).toNat = 0 then (s.prefetchEnded id q).updCluster q (fun c => { c with
        tasks := c.tasks.map (fun y => if y.id == n then { x with prefetching := x.prefetching.erase id } else y) })
      else (s.prefetchEnded id q).removeQueued q { x with prefetching := x.prefetching.erase id } .faulted
        (natWord (0x0B + (k.status.getD 0).toNat * 2 ^ 8))) := by
  have hx' : ((s.prefetchEnded id q).cluster q).tasks.find? (fun t => t.id == n) = some x := by
    rw [s.cluster_prefetchEnded]
    exact hx
  change execPrefetchCompletion id s = _
  unfold execPrefetchCompletion
  rw [State.copy?, hk]
  dsimp only
  rw [hp]
  dsimp only
  rw [he, if_neg (by decide)]
  change (match ((s.prefetchEnded id q).cluster q).tasks.find? (fun t => t.id == n) with | none => _ | some _ => _) = _
  rw [hx']
  dsimp only
  rw [hc, if_neg (by decide)]
  split <;> rfl

end

end Sys2Proof.Machine

namespace Sys2Proof.Machine

theorem State.abandonPrefetch_cluster (s : State) (n q : Nat) : (s.abandonPrefetch n).cluster q = s.cluster q := rfl

/-- A queued task without prefetch copies that ends leaves its cluster, and its future in the state of its end. -/
theorem State.removeQueued_ends {u : State} {q : Nat} {x : Task} (hpre : x.prefetching = [])
    (hm : handleModule x.fut = u.module.toNat) (hq : handleCluster x.fut = q)
    (hp : (u.future (handleKey x.fut)).state = .pending) (hdist : handleDist (u.future (handleKey x.fut)) x.fut = 0)
    (hd : (u.future (handleKey x.fut)).dropped = false) (st : FState) (v : Word) :
    let t := u.removeQueued q x st v
    (∀ y ∈ (t.cluster q).tasks, y.id ≠ x.id) ∧ (t.future (handleKey x.fut)).state = st ∧
      (t.future (handleKey x.fut)).value = v := by
  have ht : u.removeQueued q x st v = (u.endQueued q x st v).abandonPrefetch x.id := by simp [State.removeQueued, hpre]
  intro t
  have ht' : t = (u.endQueued q x st v).abandonPrefetch x.id := ht
  have hlive : (if x.reservedOnly then u.countLive x.tag x.lseq else u).still = u.still := by simp
  have hmod : (if x.reservedOnly then u.countLive x.tag x.lseq else u).module = u.module := by split <;> rfl
  rw [ht']
  refine ⟨fun y hy => ?_, ?_⟩
  · rw [State.abandonPrefetch_cluster, State.endQueued, State.cluster_updCluster_self] at hy
    simpa [bne] using (List.mem_filter.1 hy).2
  · have hf := State.future_of_still hlive (handleKey x.fut)
    exact State.endFuture_future (hm.trans (by rw [hmod])) hq (by rw [hf]; exact hp) (by rw [hf]; exact hdist)
      (by rw [hf]; exact hd) _ _ _ _ _ _ _ _ _ _

/-! ## Theft (R368) -/

theorem oldest_mem {cs : List (Task × Place)} {c : Task × Place} (h : oldest cs = some c) : c ∈ cs := by
  induction cs generalizing c with
  | nil => cases h
  | cons x xs ih =>
    unfold oldest at h
    split at h
    · cases h
      exact List.mem_cons_self
    · rename_i y hy
      split at h <;> cases h
      · exact List.mem_cons_of_mem _ (ih hy)
      · exact List.mem_cons_self

theorem below_mem {cs : List (Task × Place)} {c : Task × Place} {p : Nat} (h : below cs p = some c) : c ∈ cs := by
  induction p with
  | zero => cases h
  | succ p ih =>
    unfold below at h
    split at h
    · rename_i c' hc
      cases h
      exact (List.mem_filter.1 (oldest_mem hc)).1
    · exact ih h

/-- What a theft finds is a task that waits in another queue without a frame. -/
theorem State.findTheft_spec {s : State} {q v : Nat} {x : Task} (h : s.findTheft q = some (v, x)) :
    x ∈ (s.cluster v).tasks ∧ x.resume = none ∧ x.target = none := by
  obtain ⟨tag, -, ht⟩ := List.exists_of_findSome?_eq_some h
  split at ht
  · cases ht
  obtain ⟨dom, -, hd⟩ := List.exists_of_findSome?_eq_some ht
  obtain ⟨v', -, hv⟩ := List.exists_of_findSome?_eq_some hd
  obtain ⟨y, hy, he⟩ := Option.map_eq_some_iff.1 hv
  cases he
  obtain ⟨c, hc, rfl⟩ := Option.map_eq_some_iff.1 hy
  obtain ⟨z, hz, rfl⟩ := List.mem_map.1 (below_mem hc)
  obtain ⟨hmem, hs⟩ := List.mem_filter.1 hz
  simp only [Task.stealable, Bool.and_eq_true, Option.isNone_iff_eq_none] at hs
  exact ⟨hmem, hs.1.1.1.2, hs.1.1.2⟩

theorem foldl_max_ge (l : List Nat) (a : Nat) : a ≤ l.foldl max a ∧ ∀ x ∈ l, x ≤ l.foldl max a := by
  induction l generalizing a with
  | nil => exact ⟨Nat.le_refl a, by simp⟩
  | cons y l ih =>
    obtain ⟨h1, h2⟩ := ih (max a y)
    refine ⟨by simp only [List.foldl_cons]; omega, fun x hx => ?_⟩
    rcases List.mem_cons.1 hx with rfl | hx
    · simp only [List.foldl_cons]; omega
    · exact h2 x hx

theorem Cluster.order_lt_nextOrder {c : Cluster} {x : Task} (h : x ∈ c.tasks) : x.order < c.nextOrder :=
  Nat.lt_succ_of_le ((foldl_max_ge (c.tasks.map (·.order)) 0).2 _ (List.mem_map_of_mem h))

theorem State.later_cluster (s : State) (n : Nat) (i : Instr) (q : Nat) : (s.later n i).cluster q = s.cluster q := rfl

theorem State.steal_clusters {s : State} {q v : Nat} (hv : v ≠ q) (x : Task) :
    ((s.steal q v x).cluster v).tasks = (s.cluster v).tasks.filter (fun z => z.id ≠ x.id) ∧
      ((s.steal q v x).cluster q).tasks = (s.cluster q).tasks ++ [{ x with order := (s.cluster q).nextOrder }] := by
  have hq : (s.updCluster v (fun c => { c with tasks := c.tasks.filter (fun y => y.id != x.id) })).cluster q = s.cluster q := by
    rw [State.cluster_updCluster, if_neg (Ne.symm hv)]
  constructor
  · rw [State.steal, State.later_cluster, State.later_cluster, State.cluster_updCluster, if_neg hv,
      State.cluster_updCluster_self]
    exact List.filter_congr (fun y _ => by simp [bne, beq_eq_decide])
  · rw [State.steal, State.later_cluster, State.later_cluster, State.cluster_updCluster_self, hq]

section
variable {s : State} {q : Nat} (hno : ∀ x ∈ (s.cluster q).tasks, s.placeOf q x = none)
include hno

theorem exec_stealRequest_idle : exec (.stealRequest q) s = match s.findTheft q with
    | some (v, t) => .next (s.steal q v t)
    | none => .next (if s.mayStealAny q then s.later 64 (.stealRequest q) else s) := by
  have hp : (s.cluster q).tasks.any (fun t => (s.placeOf q t).isSome) = false := by
    rw [List.any_eq_false]
    intro x hx
    simp [hno x hx]
  change execStealRequest q s = _
  unfold execStealRequest
  dsimp only
  rw [hp]
  rfl

end

theorem exec_stealRequest_busy {s : State} {q : Nat} (h : ∃ x ∈ (s.cluster q).tasks, (s.placeOf q x).isSome) :
    exec (.stealRequest q) s = .next (s.later 1 (.taskDispatch q)) := by
  change execStealRequest q s = _
  unfold execStealRequest
  dsimp only
  rw [List.any_eq_true.2 h]
  rfl

/-- Settles O43: a dispatch by the choice and the placement that it makes, the rest by the events' branches. -/
theorem dispatching : Obligations.Dispatching := by
  unfold Obligations.Dispatching
  intro s q hq
  refine ⟨fun hfill => ⟨exec_taskDispatch_again hfill, fun hat => ⟨fun x pl htasks hlane hplace => ?_,
    fun x y px py htasks hid hxl hyl hord hpx hpy => ?_⟩⟩, fun x fk d hroom hnext hpres hcopies => ?_,
    fun id k n hk hpurp hend x hx hcanc => ⟨fun hst => ?_, fun hst hpre hm hcl hpend hdist hdrop => ?_⟩,
    fun hno => ⟨fun v x hth hv => ?_, fun hth hmay => ?_, fun hth hmay => ?_⟩, exec_stealRequest_busy⟩
  · have hcs : s.placeable q = [(x, pl)] := by simp [State.placeable, htasks, hplace]
    obtain ⟨hfree, hcore, hnew⟩ := State.placeOf_spec hq hlane hplace
    refine ⟨hfree, hcore, _, exec_taskDispatch_picks hfill hat (by simp [hcs, hlane])
      (by rw [hcs]; exact choose_single x pl _), s.dispatched_picks q x pl 0, fun hk => ⟨hnew hk, ?_⟩⟩
    have hf : (s.dispatched q x pl 0).frame pl.frame = (s.place q x pl).frame pl.frame := rfl
    have hss : (s.launch x.tag.toNat x.lseq).map (fun l => 16 * ((l.dwords.getD 7 0).toNat / 2 ^ 50 % 2 ^ 11)) =
        (s.launch x.tag.toNat x.lseq).map Launch.ss := rfl
    obtain ⟨hg, hsp, hpc, hstatus, hestat, hecause, hfut, hjoin, hprio, hindex, htask, hcount, hlimit, hformats⟩ :=
      s.place_new_frame q x hk
    have hslot := s.slot_place_new q x (p := pl) (by omega)
    rw [hf]
    intro f ss
    refine ⟨fun i h1 h2 => ?_, ?_, fun i hi => ?_, fun hs0 => ?_, fun hs0 => ?_, hpc, hstatus, hestat, hecause, hfut, hjoin,
      hprio, hindex, htask, hcount, hlimit, hformats, ?_⟩
    · exact (hg i h1 (by omega)).trans (if_pos h2)
    · exact hg 7 (by decide) (by decide)
    · refine (hg (8 + i) (by omega) (by omega)).trans ?_
      rw [Task.firstG, if_neg (by omega), if_neg (by omega), Nat.add_sub_cancel_left]
      rfl
    · exact hsp.trans (if_neg hs0)
    · exact hsp.trans (if_pos hs0)
    · have hs : (s.dispatched q x pl 0).slot pl.slot = (s.place q x pl).slot pl.slot := rfl
      rw [hs, hslot]
      exact ⟨rfl, rfl, rfl⟩
  · have hcs : s.placeable q = [(x, px), (y, py)] := by simp [State.placeable, htasks, hpx, hpy]
    have hl : ∀ c ∈ s.placeable q, c.1.lane = none := by simp [hcs, hxl, hyl]
    refine ⟨fun hp => ?_, fun hp hn => ?_, fun hp hn => ?_⟩
    · exact ⟨_, exec_taskDispatch_picks hfill hat hl (by rw [hcs]; exact choose_older px py _ hord hp),
        s.dispatched_picks q x px 0⟩
    · exact ⟨_, exec_taskDispatch_picks hfill hat hl (by rw [hcs, choose_higher px py _ hp, if_neg hn]),
        s.dispatched_picks q y py _⟩
    · exact ⟨_, exec_taskDispatch_picks hfill hat hl (by rw [hcs, choose_higher px py _ hp, if_pos hn]),
        s.dispatched_picks q x px 0⟩
  · obtain ⟨htasks, hcount⟩ := s.tileIssued_cluster q fk x d
    obtain ⟨hsrc, hdst, hshape, hsstr, hdstr⟩ :=
      tileCopy_fields s.fresh.2 q x fk d (nextTid (s.prefetchTids q) (s.cluster q).prefetchNext 257)
    refine ⟨_, s.nextId, _, (exec_tilePrefetchStart hroom hnext (by rw [hpres]; exact hcopies)).trans
      (by rw [s.startPrefetch_one q fk hpres]), rfl, rfl, rfl, rfl, rfl, hsrc, hdst, hshape, hsstr, hdstr,
      State.nextPrefetch_free hnext, ?_, ?_⟩
    · rw [State.later_cluster, State.cluster_updCluster_self]
      exact hcount
    · rw [State.later_cluster, State.cluster_updCluster_self]
      simp only [htasks, beq_iff_eq]
  · refine ⟨_, (exec_prefetchCompletion hk hpurp hend hx hcanc).trans (by rw [if_pos (by rw [hst]; rfl)]), rfl, ?_, ?_⟩
    · rw [State.cluster_updCluster_self, s.cluster_prefetchEnded]
    · rw [State.cluster_updCluster_self, s.cluster_prefetchEnded]
      simp only [beq_iff_eq]
  · have hid : x.id = n := by simpa using List.find?_some hx
    obtain ⟨hleft, hstate, hvalue⟩ := State.removeQueued_ends (u := s.prefetchEnded id q) (q := q)
      (x := { x with prefetching := x.prefetching.erase id }) (by simp [hpre]) hm hcl hpend hdist hdrop .faulted
      (natWord (0x0B + (k.status.getD 0).toNat * 2 ^ 8))
    have h0 : ¬ (k.status.getD 0).toNat = 0 := fun h0 => hst (BitVec.eq_of_toNat_eq h0)
    exact ⟨_, (exec_prefetchCompletion hk hpurp hend hx hcanc).trans (by rw [if_neg h0]), fun y hy => hid ▸ hleft y hy, hstate, hvalue⟩
  · obtain ⟨hmem, hres, htgt⟩ := State.findTheft_spec hth
    obtain ⟨h1, h2⟩ := State.steal_clusters hv x
    refine ⟨hmem, hres, htgt, s.steal q v x, _, ?_, h1, h2, rfl, fun z hz => Cluster.order_lt_nextOrder hz⟩
    rw [exec_stealRequest_idle hno, hth]
  · rw [exec_stealRequest_idle hno, hth, hmay]
    rfl
  · rw [exec_stealRequest_idle hno, hth, hmay]
    rfl

end Sys2Proof.Machine


namespace Sys2Proof.Machine

/-! ## The header of a flit at a link (R418) -/

/-- The flits of a replay buffer. -/
def replayFlits (r : List (Nat × Packet)) : Nat := (r.map (fun y => packetFlits y.2)).sum

theorem packetFlits_pos (p : Packet) : 0 < packetFlits p := by
  unfold packetFlits
  split <;> omega

/-- What a link sends leaves its state, its counts of the neighbour's flits and its unanswered requests. -/
theorem Link.pump_keeps (k : Link) (n : Nat) :
    (k.pump n).up = k.up ∧ (k.pump n).received = k.received ∧ (k.pump n).unanswered = k.unanswered := by
  induction n generalizing k with
  | zero => exact ⟨rfl, rfl, rfl⟩
  | succ n ih =>
    unfold Link.pump
    split
    · exact ⟨rfl, rfl, rfl⟩
    · exact ih _

/-- A link sends only what its replay buffer of 512 flits has room for. -/
theorem Link.pump_room (k : Link) (n : Nat) (h : replayFlits k.replay ≤ 512) : replayFlits (k.pump n).replay ≤ 512 := by
  induction n generalizing k with
  | zero => exact h
  | succ n ih =>
    unfold Link.pump
    split
    · exact h
    · rename_i p hp
      refine ih _ ?_
      have hs := List.find?_some hp
      simp only [Link.sendable, Bool.and_eq_true, decide_eq_true_eq] at hs
      simpa [replayFlits] using hs.2

theorem Link.pump_replay {k : Link} {n : Nat} {y : Nat × Packet} (h : y ∈ (k.pump n).replay) :
    y ∈ k.replay ∨ y.2 ∈ k.waiting := by
  induction n generalizing k with
  | zero => exact .inl h
  | succ n ih =>
    unfold Link.pump at h
    split at h
    · exact .inl h
    · rename_i p hp
      rcases ih h with h | h
      · rcases List.mem_append.1 h with h | h
        · exact .inl h
        · rw [List.mem_singleton.1 h]
          exact .inr (List.mem_of_find?_eq_some hp)
      · exact .inr (List.mem_of_mem_erase h)

/-- A packet alone in its link's queue leaves while its channel has credits and the replay buffer has room. -/
theorem Link.pump_single (k : Link) {y : Packet} (hw : k.waiting = [y]) :
    k.pump 1 = if packetFlits y ≤ k.credit y.vc ∧ replayFlits k.replay + packetFlits y ≤ 512 then
      { k with waiting := [], replay := k.replay ++ [(k.sent, y)], sent := k.sent + packetFlits y
               credits := k.credits.put y.vc (k.credit y.vc - packetFlits y) } else k := by
  have hs : k.sendable y = decide (packetFlits y ≤ k.credit y.vc ∧ replayFlits k.replay + packetFlits y ≤ 512) := by
    rw [Bool.eq_iff_iff, decide_eq_true_iff]
    simp [Link.sendable, hw, replayFlits]
  unfold Link.pump
  rw [hw, List.find?_singleton, hs]
  by_cases hc : packetFlits y ≤ k.credit y.vc ∧ replayFlits k.replay + packetFlits y ≤ 512
  · simp [hc, Link.pump]
  · simp [hc]

theorem foldl_credits (cs : List (Nat × Nat)) (vc : Nat) : ∀ m : NMap Nat,
    (cs.foldl (fun (m : NMap Nat) (x : Nat × Nat) => m.put x.1 (m.getD x.1 (Config.linkCredits x.1) + x.2)) m).getD vc
      (Config.linkCredits vc) = m.getD vc (Config.linkCredits vc) + ((cs.filter (fun y => y.1 == vc)).map (·.2)).sum := by
  induction cs with
  | nil => intro m; rfl
  | cons c cs ih =>
    intro m
    rw [List.foldl_cons, ih, NMap.getD_put, List.filter_cons]
    by_cases hc : c.1 = vc
    · simp [hc, Nat.add_assoc]
    · simp [hc, Ne.symm hc]

/-- What the header of a flit leaves of a link that is up. -/
def Link.Heads (k : Link) (h : FlitHead) (m : Link) : Prop :=
  m.up = true ∧ (replayFlits k.replay ≤ 512 → replayFlits m.replay ≤ 512) ∧
  (k.waiting = [] → m.waiting = [] ∧ m.sent = k.sent ∧
    m.replay = k.replay.filter (fun y => decide (h.ack < y.1 + packetFlits y.2)) ∧
    (∀ vc : Nat, m.credit vc = k.credit vc + ((h.credits.filter (fun y => y.1 == vc)).map (·.2)).sum)) ∧
  (∀ y : Packet, k.waiting = [y] → h.ack = 0 → h.credits = [] →
    if packetFlits y ≤ k.credit y.vc ∧ replayFlits k.replay + packetFlits y ≤ 512 then
      m.waiting = [] ∧ m.replay = k.replay ++ [(k.sent, y)] ∧ m.sent = k.sent + packetFlits y ∧
        m.credit y.vc = k.credit y.vc - packetFlits y
    else m.waiting = [y] ∧ m.replay = k.replay)

theorem replayFlits_filter_le (p : Nat × Packet → Bool) (r : List (Nat × Packet)) : replayFlits (r.filter p) ≤ replayFlits r := by
  induction r with
  | nil => exact Nat.le_refl _
  | cons y r ih =>
    simp only [replayFlits, List.filter_cons] at *
    split <;> simp <;> omega

/-- A link without a waiting packet only takes what the header acknowledges and grants. -/
theorem Link.head_idle {k : Link} (hw : k.waiting = []) (h : FlitHead) : k.head h = { k with
    replay := k.replay.filter (fun x => decide (h.ack < x.1 + packetFlits x.2))
    credits := h.credits.foldl (fun (m : NMap Nat) (x : Nat × Nat) => m.put x.1 (m.getD x.1 (Config.linkCredits x.1) + x.2)) k.credits } := by
  unfold Link.head
  rw [hw]
  rfl

/-- A header that acknowledges and grants nothing lets the link send. -/
theorem Link.head_pump (k : Link) {h : FlitHead} (hack : h.ack = 0) (hcr : h.credits = []) :
    k.head h = k.pump k.waiting.length := by
  have hall : k.replay.filter (fun x => decide (h.ack < x.1 + packetFlits x.2)) = k.replay := by
    rw [List.filter_eq_self]
    intro x _
    have := packetFlits_pos x.2
    simp only [hack, decide_eq_true_eq]
    omega
  unfold Link.head
  rw [hall, hcr]
  rfl

theorem Link.heads_head {k : Link} (hup : k.up = true) (h : FlitHead) : k.Heads h (k.head h) := by
  refine ⟨(Link.pump_keeps _ _).1.trans hup, fun hr => Link.pump_room _ _ ((replayFlits_filter_le _ _).trans hr), fun hw => ?_,
    fun y hw hack hcr => ?_⟩
  · rw [Link.head_idle hw]
    exact ⟨hw, rfl, rfl, fun vc => foldl_credits h.credits vc k.credits⟩
  · rw [k.head_pump hack hcr, hw, List.length_singleton, k.pump_single hw]
    split
    · exact ⟨rfl, rfl, rfl, NMap.getD_put_self _ _ _ _⟩
    · exact ⟨hw, rfl⟩

/-! ## A flit at a link (R418, R420, R421) -/

/-- What a flit with a header leaves of a link, before its packet. -/
def State.headed (s : State) (l : Nat) (h : FlitHead) : State :=
  s.updHub (fun x => { x with links := x.links.put l ((s.hub.links.getD l {}).head h) })

/-- The link after the packet of a flit has been taken. -/
def Link.taken (k : Link) (h : FlitHead) (p : Packet) : Link := { k.head h with
  unanswered := removeFirst (answers p) (k.head h).unanswered, received := k.received + packetFlits p }

/-- The state in which a link has taken the packet of a flit. -/
def State.took (s : State) (l : Nat) (h : FlitHead) (p : Packet) : State :=
  (s.headed l h).updHub (fun x => { x with links := x.links.put l ((s.hub.links.getD l {}).taken h p) })

theorem Frame.setSticky_setSticky (f : Frame) (b : Nat) : (f.setSticky b).setSticky b = f.setSticky b := by
  simp [Frame.setSticky, BitVec.or_assoc]

/-- Packets that are sent again set at most DETMISS in the threads that sent them (R153). -/
theorem State.noteRetry_frame (s : State) (ps : List Packet) (fk : Nat) : (s.noteRetry ps).frame fk = s.frame fk ∨
    ((s.noteRetry ps).frame fk = (s.frame fk).setSticky bitDetmiss ∧ ∃ p ∈ ps, p.vc = 5 ∧ p.sender = fk) := by
  have key : ∀ (qs : List Packet) (u : State), (qs.foldl (fun s p =>
      let r := s.draw
      if r.1.getLsbD 0 then r.2.updFrame p.sender (fun f => f.setSticky bitDetmiss) else r.2) u).frame fk = u.frame fk ∨
      ((qs.foldl (fun s p =>
        let r := s.draw
        if r.1.getLsbD 0 then r.2.updFrame p.sender (fun f => f.setSticky bitDetmiss) else r.2) u).frame fk =
        (u.frame fk).setSticky bitDetmiss ∧ ∃ p ∈ qs, p.sender = fk) := by
    intro qs
    induction qs with
    | nil => exact fun u => .inl rfl
    | cons p qs ih =>
      intro u
      rw [List.foldl_cons]
      set v : State := if u.draw.1.getLsbD 0 then u.draw.2.updFrame p.sender (fun f => f.setSticky bitDetmiss) else u.draw.2
        with hv
      have hstep : v.frame fk = u.frame fk ∨ (v.frame fk = (u.frame fk).setSticky bitDetmiss ∧ p.sender = fk) := by
        rw [hv]
        split
        · rw [State.frame_updFrame]
          split
          · rename_i hfk
            exact .inr ⟨by rw [hfk]; rfl, hfk.symm⟩
          · exact .inl rfl
        · exact .inl rfl
      rcases hstep with hs | ⟨hs, hp⟩ <;> rcases ih v with h | ⟨h, z, hz, hzf⟩
      · exact .inl (h.trans hs)
      · exact .inr ⟨h.trans (by rw [hs]), z, List.mem_cons_of_mem _ hz, hzf⟩
      · exact .inr ⟨h.trans hs, p, List.mem_cons_self, hp⟩
      · exact .inr ⟨h.trans (by rw [hs, Frame.setSticky_setSticky]), p, List.mem_cons_self, hp⟩
  rcases key (ps.filter (fun p => p.vc == 5 && decide (p.src < 2 ^ 20) && !bodyAnswers p.body)) s with h | ⟨h, p, hp, hfk⟩
  · exact .inl h
  · obtain ⟨hmem, hf⟩ := List.mem_filter.1 hp
    simp only [Bool.and_eq_true, beq_iff_eq] at hf
    exact .inr ⟨h, p, hmem, hf.1.1, hfk⟩

theorem State.noteRetry_hub (s : State) (ps : List Packet) : (s.noteRetry ps).hub = s.hub := by
  have key : ∀ (qs : List Packet) (u : State), (qs.foldl (fun s p =>
      let r := s.draw
      if r.1.getLsbD 0 then r.2.updFrame p.sender (fun f => f.setSticky bitDetmiss) else r.2) u).hub = u.hub := by
    intro qs
    induction qs with
    | nil => exact fun u => rfl
    | cons p qs ih =>
      intro u
      rw [List.foldl_cons, ih]
      dsimp only
      split <;> rfl
  exact key _ s

theorem execFlitReceive_dropped {s : State} {l : Nat} {ok : Bool} (h : ok = false ∨ (s.hub.links.getD l {}).up = false)
    (f : Flit) : exec (.flitReceive l ok f) s = .next s := by
  change execFlitReceive l ok f s = _
  unfold execFlitReceive
  dsimp only
  rw [if_pos (by rcases h with h | h <;> simp [h])]

section
variable {s : State} {l : Nat} {h : FlitHead} (hup : (s.hub.links.getD l {}).up = true)
include hup

theorem exec_flitReceive_empty : exec (.flitReceive l true ⟨h, none⟩) s =
    .next (if h.again then (s.headed l h).noteRetry (((s.hub.links.getD l {}).head h).replay.map (·.2)) else s.headed l h) := by
  change execFlitReceive l true ⟨h, none⟩ s = _
  unfold execFlitReceive
  dsimp only
  rw [if_neg (by simp [hup])]
  rfl

theorem exec_flitReceive_packet (hag : h.again = false) (p : Packet) : exec (.flitReceive l true ⟨h, some p⟩) s =
    if h.seq ≠ (s.hub.links.getD l {}).received % 1024 then .next (s.headed l h)
    else .next ((s.took l h p).flitPacket (s.hub.links.getD l {}) p) := by
  have hr : ((s.hub.links.getD l {}).head h).received = (s.hub.links.getD l {}).received := (Link.pump_keeps _ _).2.1
  change execFlitReceive l true ⟨h, some p⟩ s = _
  unfold execFlitReceive
  dsimp only
  rw [if_neg (by simp [hup]), hag, hr]
  simp only [Bool.false_eq_true, if_false]
  rfl

end

theorem removeFirst_none {α : Type} {p : α → Bool} {l : List α} (h : ∀ x ∈ l, p x = false) : removeFirst p l = l := by
  induction l with
  | nil => rfl
  | cons x l ih => simp [removeFirst, h x List.mem_cons_self, ih (fun y hy => h y (List.mem_cons_of_mem _ hy))]

theorem removeFirst_first {α : Type} {p : α → Bool} {l1 : List α} {r : α} (l2 : List α) (h : ∀ x ∈ l1, p x = false)
    (hr : p r = true) : removeFirst p (l1 ++ r :: l2) = l1 ++ l2 := by
  induction l1 with
  | nil => simp [removeFirst, hr]
  | cons x l ih => simp [removeFirst, h x List.mem_cons_self, ih (fun y hy => h y (List.mem_cons_of_mem _ hy))]

theorem State.headed_link (s : State) (l : Nat) (h : FlitHead) : ((s.headed l h).hub.links.getD l {}) = (s.hub.links.getD l {}).head h :=
  NMap.getD_put_self _ _ _ _

theorem State.headed_others (s : State) {l : Nat} (h : FlitHead) {j : Nat} (hj : j ≠ l) :
    (s.headed l h).hub.links.get? j = s.hub.links.get? j := (NMap.get?_put _ _ _ _).trans (if_neg hj)

theorem State.took_link (s : State) (l : Nat) (h : FlitHead) (p : Packet) :
    (s.took l h p).hub.links.getD l {} = (s.hub.links.getD l {}).taken h p := NMap.getD_put_self _ _ _ _

theorem State.took_others (s : State) {l : Nat} (h : FlitHead) (p : Packet) {j : Nat} (hj : j ≠ l) :
    (s.took l h p).hub.links.get? j = s.hub.links.get? j :=
  ((NMap.get?_put _ _ _ _).trans (if_neg hj)).trans (s.headed_others h hj)

theorem Link.heads_taken {k : Link} (hup : k.up = true) (h : FlitHead) (p : Packet) : k.Heads h (k.taken h p) :=
  Link.heads_head hup h

theorem Link.taken_received (k : Link) (h : FlitHead) (p : Packet) : (k.taken h p).received = k.received + packetFlits p := rfl

theorem Link.taken_unanswered (k : Link) (h : FlitHead) (p : Packet) :
    (k.taken h p).unanswered = removeFirst (answers p) k.unanswered := by
  rw [Link.taken, Link.head, (Link.pump_keeps _ _).2.2]

/-- The cycles from the hub to the execution of a packet at its target. -/
def restTime (p : Packet) : Nat := 2 * hubHops (endPos p.dst) + (match p.body with | .access _ => 0 | _ => 8)

/-- A packet that a link has brought, as it joins the module's network. -/
def State.landing (u : State) (p : Packet) : Packet :=
  { p with id := u.nextId, after := [], notBefore := u.cycle + restTime p }

/-- The state in which it has joined. -/
def State.landed (u : State) (p : Packet) : State :=
  { u.fresh.2 with net := u.net ++ [u.landing p] }.later (restTime p) (packetStep (u.landing p))

theorem State.flitPacket_here {k : Link} {p : Packet} (hd : p.dst < 2 ^ 23) (hr : retriedSend k.unanswered p = none) (u : State) :
    u.flitPacket k p = u.landed p := by
  unfold State.flitPacket
  rw [if_neg (by omega)]
  dsimp only
  rw [hr]
  rfl

/-- The state that keeps a SEND which a retry response answers. -/
def State.keptSend (u : State) (p q : Packet) : State :=
  (u.fresh.2.updCore (tabKey q.sender) (fun c => { c with retryBuf := c.retryBuf ++ [q] })).later (restTime p + 64)
    (.sendRetryResend q.id)

theorem State.flitPacket_retry {k : Link} {p q : Packet} (hd : p.dst < 2 ^ 23) (hr : retriedSend k.unanswered p = some q) (u : State) :
    u.flitPacket k p = u.keptSend p q := by
  unfold State.flitPacket
  rw [if_neg (by omega)]
  dsimp only
  rw [hr]
  rfl

/-- A retry response is no access. -/
theorem restTime_retry {ps : List Packet} {p q : Packet} (h : retriedSend ps p = some q) :
    restTime p = 2 * hubHops (endPos p.dst) + 8 := by
  unfold retriedSend at h
  split at h
  · rename_i hb
    simp [restTime, hb]
  · cases h

/-- A link with a packet that it forwards. -/
def Link.forwards (k : Link) (p : Packet) : Link :=
  ({ k with unanswered := if (refusedBody p).isSome then k.unanswered ++ [p] else k.unanswered } : Link).add p

/-- The state in which a packet has been charged and given to a link. -/
def State.passed (u : State) (p : Packet) (j : Nat) (k : Link) : State :=
  (u.chargeFabric p.tag.toNat (packetFlits p)).updHub (fun h => { h with links := h.links.put j (k.forwards p) })

/-- A packet that another module sends through this one leaves on its link at once while the link can take it. -/
theorem State.toLink_passes {u : State} {p : Packet} {j : Nat} (hj : u.linkTo (p.dst - 2 ^ 23) p.vc = j)
    (hup : (u.hub.links.getD j {}).up = true) (hsrc : 2 ^ 23 ≤ p.src) (hheld : u.fabricHolds p.tag.toNat = false) :
    u.toLink p = u.passed p j (u.hub.links.getD j {}) := by
  unfold State.toLink
  dsimp only
  have hc : (bodyAnswers p.body || decide (2 ^ 23 ≤ p.src)) = true := by rw [decide_eq_true hsrc, Bool.or_true]
  rw [hj, if_neg (by simp [hup]), if_neg (by simp [hheld]), if_pos hc]
  rfl

theorem Link.add_idle {k : Link} {p : Packet} (hw : k.waiting = []) (hc : packetFlits p ≤ k.credit p.vc)
    (hroom : replayFlits k.replay + packetFlits p ≤ 512) :
    (k.add p).replay = k.replay ++ [(k.sent, p)] ∧ (k.add p).sent = k.sent + packetFlits p := by
  unfold Link.add
  rw [Link.pump_single { k with waiting := k.waiting ++ [p] } (y := p) (by simp [hw]), if_pos ⟨hc, hroom⟩]
  exact ⟨rfl, rfl⟩

/-! ## A link that goes down (R419, R421) -/

/-- From s to t only refusals are counted, reported and answered. -/
structure State.OnlyRefuses (s t : State) : Prop where
  links : t.hub.links = s.hub.links
  msix : t.hub.msix = s.hub.msix
  lup : t.hub.lup = s.hub.lup
  ldown : t.hub.ldown = s.hub.ldown
  comms : t.hub.comms = s.hub.comms
  copies : t.copies = s.copies
  mems : t.mems = s.mems
  net : ∀ r ∈ s.net, r ∈ t.net

theorem State.OnlyRefuses.refl (s : State) : s.OnlyRefuses s := ⟨rfl, rfl, rfl, rfl, rfl, rfl, rfl, fun _ h => h⟩

theorem State.OnlyRefuses.trans {s t u : State} (h : s.OnlyRefuses t) (k : t.OnlyRefuses u) : s.OnlyRefuses u :=
  ⟨k.links.trans h.links, k.msix.trans h.msix, k.lup.trans h.lup, k.ldown.trans h.ldown, k.comms.trans h.comms,
    k.copies.trans h.copies, k.mems.trans h.mems, fun r hr => k.net r (h.net r hr)⟩

theorem State.onlyRefuses_trapMsg (s : State) (e : Nat) (m : TrapMsg) : s.OnlyRefuses (s.trapMsg e m) :=
  ⟨rfl, rfl, rfl, rfl, rfl, rfl, rfl, fun _ h => h⟩

theorem State.onlyRefuses_refusals (s : State) (m : NMap (Nat × Bool)) :
    s.OnlyRefuses (s.updHub (fun h => { h with refusals := m })) := ⟨rfl, rfl, rfl, rfl, rfl, rfl, rfl, fun _ h => h⟩

theorem State.onlyRefuses_refuse (s : State) (e : Nat) (tag : BitVec 10) : s.OnlyRefuses (s.refuse e tag) := by
  unfold State.refuse
  dsimp only
  split
  · exact s.onlyRefuses_refusals _
  · exact (s.onlyRefuses_refusals _).trans (State.onlyRefuses_trapMsg _ _ _)

/-- The refused answer of a packet comes from the hub. -/
theorem State.refusePacket_answers (s : State) {p : Packet} (hp : p.src < 2 ^ 23) : s.OnlyRefuses (s.refusePacket p) ∧
    ∀ b, refusedBody p = some b → ∃ r ∈ (s.refusePacket p).net, r.dst = p.src ∧ r.body = b := by
  have h := s.onlyRefuses_refuse p.src p.tag
  unfold State.refusePacket
  dsimp only
  split
  · rename_i hb
    exact ⟨⟨h.links, h.msix, h.lup, h.ldown, h.comms, h.copies, h.mems, h.net⟩, fun b hb' => by rw [hb] at hb'; cases hb'⟩
  · rename_i b hb
    rw [if_neg (by omega)]
    refine ⟨⟨h.links, h.msix, h.lup, h.ldown, h.comms, h.copies, h.mems, fun r hr => List.mem_append_left _ (h.net r hr)⟩,
      fun b' hb' => ⟨_, List.mem_append_right _ List.mem_cons_self, rfl, ?_⟩⟩
    rw [hb] at hb'
    exact Option.some.inj hb'

theorem State.refuseAll_answers (ps : List Packet) : ∀ s : State, (∀ p ∈ ps, p.src < 2 ^ 23) →
    s.OnlyRefuses (ps.foldl State.refusePacket s) ∧ ∀ p ∈ ps, ∀ b, refusedBody p = some b →
      ∃ r ∈ (ps.foldl State.refusePacket s).net, r.dst = p.src ∧ r.body = b := by
  induction ps with
  | nil => exact fun s _ => ⟨.refl s, by simp⟩
  | cons p ps ih =>
    intro s hsrc
    obtain ⟨h1, hp⟩ := s.refusePacket_answers (hsrc p List.mem_cons_self)
    obtain ⟨h2, hps⟩ := ih (s.refusePacket p) (fun x hx => hsrc x (List.mem_cons_of_mem _ hx))
    refine ⟨h1.trans h2, fun x hx b hb => ?_⟩
    rcases List.mem_cons.1 hx with rfl | hx
    · obtain ⟨r, hr, hd, hbody⟩ := hp b hb
      exact ⟨r, h2.net r hr, hd, hbody⟩
    · exact hps x hx b hb

/-- A copy of a reduce has ended with ISOL. -/
def State.Isolated (s : State) (id : Nat) : Prop := ∃ z, s.copies.get? id = some z ∧ z.ended = true ∧ z.status = some 5

/-- From s to t copies end with ISOL, and nothing else that a link's loss speaks of changes, but for the communicators. -/
structure State.Isolates (s t : State) : Prop where
  links : t.hub.links = s.hub.links
  msix : t.hub.msix = s.hub.msix
  lup : t.hub.lup = s.hub.lup
  ldown : t.hub.ldown = s.hub.ldown
  net : t.net = s.net
  mems : t.mems = s.mems
  copies : ∀ id y, s.copies.get? id = some y → ∃ z, t.copies.get? id = some z
  isolated : ∀ id, s.Isolated id → t.Isolated id

theorem State.Isolates.refl (s : State) : s.Isolates s :=
  ⟨rfl, rfl, rfl, rfl, rfl, rfl, fun _ y h => ⟨y, h⟩, fun _ h => h⟩

theorem State.Isolates.trans {s t u : State} (h : s.Isolates t) (k : t.Isolates u) : s.Isolates u :=
  ⟨k.links.trans h.links, k.msix.trans h.msix, k.lup.trans h.lup, k.ldown.trans h.ldown, k.net.trans h.net,
    k.mems.trans h.mems, fun id y hy => by obtain ⟨z, hz⟩ := h.copies id y hy; exact k.copies id z hz,
    fun id hi => k.isolated id (h.isolated id hi)⟩

theorem State.endReduce_isolates (s : State) (id : Nat) : s.Isolates (s.endReduce id 5) ∧
    (s.endReduce id 5).hub.comms = s.hub.comms ∧ ∀ y, s.copies.get? id = some y → (s.endReduce id 5).Isolated id := by
  unfold State.endReduce State.updCopy
  cases hc : s.copies.get? id with
  | none => exact ⟨⟨rfl, rfl, rfl, rfl, rfl, rfl, fun _ y h => ⟨y, h⟩, fun _ h => h⟩, rfl, fun y hy => nomatch hy⟩
  | some c =>
    have hget : ∀ j, (s.copies.put id { c with ended := true, status := some 5 }).get? j =
        if j = id then some { c with ended := true, status := some 5 } else s.copies.get? j := fun j => NMap.get?_put _ _ _ _
    refine ⟨⟨rfl, rfl, rfl, rfl, rfl, rfl, fun j y hy => ?_, fun j ⟨z, hz, he, hs⟩ => ?_⟩, rfl, fun y _ => ?_⟩
    · by_cases hj : j = id
      · exact ⟨_, (hget j).trans (if_pos hj)⟩
      · exact ⟨y, (hget j).trans ((if_neg hj).trans hy)⟩
    · by_cases hj : j = id
      · exact ⟨_, (hget j).trans (if_pos hj), rfl, rfl⟩
      · exact ⟨z, (hget j).trans ((if_neg hj).trans hz), he, hs⟩
    · exact ⟨_, (hget id).trans (if_pos rfl), rfl, rfl⟩

theorem State.endReduces_isolate (ids : List Nat) : ∀ s : State,
    s.Isolates (ids.foldl (fun s id => s.endReduce id 5) s) ∧
    (ids.foldl (fun s id => s.endReduce id 5) s).hub.comms = s.hub.comms ∧
    ∀ id ∈ ids, ∀ y, s.copies.get? id = some y → (ids.foldl (fun s id => s.endReduce id 5) s).Isolated id := by
  induction ids with
  | nil => exact fun s => ⟨.refl s, rfl, by simp⟩
  | cons i ids ih =>
    intro s
    obtain ⟨h1, hc1, hi⟩ := s.endReduce_isolates i
    obtain ⟨h2, hc2, his⟩ := ih (s.endReduce i 5)
    refine ⟨h1.trans h2, hc2.trans hc1, fun id hid y hy => ?_⟩
    rcases List.mem_cons.1 hid with rfl | hid
    · exact h2.isolated id (hi y hy)
    · obtain ⟨z, hz⟩ := h1.copies id y hy
      exact his id hid z hz

/-- A communicator that broke. -/
def Comm.Broken (c : Comm) : Prop := c.state = 2 ∧ c.rounds = [] ∧ c.remote = []

/-- What the end of a communicator does to itself, to the others, and to the copies of its open rounds. -/
theorem State.breakComm_breaks (s : State) (n : Nat) : s.Isolates (s.breakComm n) ∧
    ((s.breakComm n).hub.comms.getD n {}).Broken ∧
    (∀ j, j ≠ n → (s.breakComm n).hub.comms.getD j {} = s.hub.comms.getD j {}) ∧
    ∀ r ∈ (s.hub.comms.getD n {}).rounds, ∀ id ∈ r, ∀ y, s.copies.get? id = some y → (s.breakComm n).Isolated id := by
  obtain ⟨h, hc, hi⟩ := State.endReduces_isolate (s.hub.comms.getD n {}).rounds.flatten s
  have hcomms : (s.breakComm n).hub.comms = s.hub.comms.put n { s.hub.comms.getD n {} with state := 2, rounds := [], remote := [] } := by
    rw [State.breakComm]
    exact congrArg (NMap.put n _) hc
  refine ⟨⟨h.links, h.msix, h.lup, h.ldown, h.net, h.mems, h.copies, h.isolated⟩, ?_, fun j hj => ?_, fun r hr id hid => ?_⟩
  · rw [hcomms, NMap.getD_put_self]
    exact ⟨rfl, rfl, rfl⟩
  · rw [hcomms, NMap.getD_put, if_neg hj]
  · exact hi id (List.mem_flatten.2 ⟨r, hr, hid⟩)

theorem State.breakComms_break (ns : List Nat) : ∀ s : State, s.Isolates (ns.foldl State.breakComm s) ∧
    (∀ n, n ∈ ns ∨ (s.hub.comms.getD n {}).Broken → ((ns.foldl State.breakComm s).hub.comms.getD n {}).Broken) ∧
    (∀ n, n ∉ ns → (ns.foldl State.breakComm s).hub.comms.getD n {} = s.hub.comms.getD n {}) ∧
    ∀ n ∈ ns, ∀ r ∈ (s.hub.comms.getD n {}).rounds, ∀ id ∈ r, ∀ y, s.copies.get? id = some y →
      (ns.foldl State.breakComm s).Isolated id := by
  induction ns with
  | nil => exact fun s => ⟨.refl s, by simp, fun _ _ => rfl, by simp⟩
  | cons m ns ih =>
    intro s
    obtain ⟨h1, hm, hoth, hcop⟩ := s.breakComm_breaks m
    obtain ⟨h2, hbr, hno, hcops⟩ := ih (s.breakComm m)
    refine ⟨h1.trans h2, fun n hn => hbr n ?_, fun n hn => ?_, fun n hn r hr id hid y hy => ?_⟩
    · by_cases he : n = m
      · exact .inr (he ▸ hm)
      · rw [hoth n he]
        exact hn.imp_left (fun h => (List.mem_cons.1 h).resolve_left he)
    · rw [List.foldl_cons, hno n (fun h => hn (List.mem_cons_of_mem _ h)), hoth n (fun h => hn (h ▸ List.mem_cons_self))]
    · by_cases he : n = m
      · subst he
        exact h2.isolated id (hcop r hr id hid y hy)
      · obtain ⟨z, hz⟩ := h1.copies id y hy
        exact hcops n ((List.mem_cons.1 hn).resolve_left he) r (by rw [hoth n he]; exact hr) id hid z hz

/-! ## Power (R424) -/

theorem NMap.get?_map {α β : Type} (g : Nat → α → β) (u : Nat) (m : NMap α) :
    NMap.get? u (m.map (fun p => (p.1, g p.1 p.2))) = (NMap.get? u m).map (g u) := by
  induction m with
  | nil => rfl
  | cons p m ih =>
    simp only [List.map_cons, NMap.get?]
    by_cases h : p.1 = u
    · subst h; simp
    · simpa [h] using ih

theorem foldl_min_spec (l : List Nat) (a : Nat) :
    l.foldl min a ≤ a ∧ (∀ x ∈ l, l.foldl min a ≤ x) ∧ (l.foldl min a = a ∨ l.foldl min a ∈ l) := by
  induction l generalizing a with
  | nil => exact ⟨Nat.le_refl a, by simp, .inl rfl⟩
  | cons y l ih =>
    obtain ⟨h1, h2, h3⟩ := ih (min a y)
    rw [List.foldl_cons]
    refine ⟨by omega, fun x hx => ?_, ?_⟩
    · rcases List.mem_cons.1 hx with rfl | hx
      · omega
      · exact h2 x hx
    · rcases h3 with h3 | h3
      · rcases Nat.le_total a y with h | h
        · exact .inl (h3.trans (Nat.min_eq_left h))
        · exact .inr (by rw [h3, Nat.min_eq_right h]; exact List.mem_cons_self)
      · exact .inr (List.mem_cons_of_mem _ h3)

/-- The factor that this module's own measurements give a partition. -/
def State.ownK (s : State) (rs : List (Nat × Nat)) (tag : Nat) : Nat :=
  if rs.any s.overLimit || s.onSlowDie tag then throttleK s.hub.powerLimit rs else 16

theorem State.ownK_range (s : State) (rs : List (Nat × Nat)) (tag : Nat) : 8 ≤ s.ownK rs tag ∧ s.ownK rs tag ≤ 16 := by
  unfold State.ownK throttleK
  split <;> omega

theorem State.ownK_within {s : State} {rs : List (Nat × Nat)} {tag : Nat}
    (hr : ∀ r ∈ rs, r.1 = 0 ∧ r.2 ≤ s.hub.powerLimit) (hd : ∀ c ∈ s.partCores tag, c / 2048 ∉ s.hub.slowDies) :
    s.ownK rs tag = 16 := by
  have h1 : rs.any s.overLimit = false := by
    rw [List.any_eq_false]
    intro r hm
    obtain ⟨h0, hle⟩ := hr r hm
    simp [State.overLimit, h0, Nat.not_lt.2 hle]
  have h2 : s.onSlowDie tag = false := by
    unfold State.onSlowDie
    rw [List.any_eq_false]
    intro k hk
    simpa using hd k hk
  simp [State.ownK, h1, h2]

/-- The lowest factor of the other modules of a partition is at most that of each, and that of one or 16. -/
theorem State.otherK_spec {s : State} {tag : Nat} {p : Part} (hp : s.part tag = p) (others : List (Nat × Nat)) :
    let tells (x : Nat × Nat) : Prop :=
      x ∈ others ∧ x.1 ≠ s.module.toNat ∧ ∃ e ∈ p.logical, e.toNat / 2 ^ 14 % 2 ^ 10 = x.1
    (∀ x, tells x → s.otherK tag others ≤ x.2) ∧ (s.otherK tag others = 16 ∨ ∃ x, tells x ∧ s.otherK tag others = x.2) := by
  intro tells
  have hmem : ∀ x, x ∈ others.filter (fun x => x.1 != s.module.toNat && (s.part tag).logical.any (fun e => tableModule e == x.1)) ↔
      tells x := by
    intro x
    simp [tells, hp, tableModule, natBits]
  obtain ⟨-, h2, h3⟩ := foldl_min_spec ((others.filter (fun x => x.1 != s.module.toNat &&
    (s.part tag).logical.any (fun e => tableModule e == x.1))).map (·.2)) 16
  refine ⟨fun x hx => h2 x.2 (List.mem_map_of_mem ((hmem x).2 hx)), h3.imp id fun h => ?_⟩
  obtain ⟨x, hx, he⟩ := List.mem_map.1 h
  exact ⟨x, (hmem x).1 hx, he.symm⟩

theorem exec_powerSample (s : State) (rs others : List (Nat × Nat)) : exec (.powerSample ⟨rs, others⟩) s = .next { s with
    parts := s.parts.map (fun p => (p.1, { p.2 with kNext := min (s.ownK rs p.1) (s.otherK p.1 others) })) } := rfl

/-! ## The patrol scrub (R428, R429) -/

theorem satAdd_one (x : BitVec 32) : satAdd x 1 = if x = -1 then x else x + 1 := by
  unfold satAdd
  by_cases h : x = -1
  · subst h; rfl
  · have : x.toNat ≠ 2 ^ 32 - 1 := fun he => h (BitVec.eq_of_toNat_eq he)
    rw [if_pos (by have := x.isLt; omega), if_neg h]
    rfl

/-- What a patrol's report leaves alone. -/
def State.PatrolSame (s t : State) : Prop := SameMemory s t ∧ t.frames = s.frames ∧ t.cores = s.cores ∧ t.parts = s.parts

theorem State.patrolSame_bad (s : State) (b : NMap Err) : s.PatrolSame { s with bad := b } :=
  ⟨sameMemory_of_mems rfl, rfl, rfl, rfl⟩

theorem State.patrolSame_hub (s : State) (b : NMap Err) (h : Hub → Hub) :
    s.PatrolSame (State.updHub { s with bad := b } h) := ⟨sameMemory_of_mems rfl, rfl, rfl, rfl⟩

theorem State.trapMsg_listed (s : State) (e : Nat) (m : TrapMsg) :
    (s.trapMsg e m).hub.beacons = s.hub.beacons ++ [{ m with id := s.nextId, beacon := beaconOf e }] := rfl

theorem State.trapMsg_patrol (s : State) (e : Nat) (m : TrapMsg) :
    (s.trapMsg e m).hub.errors = s.hub.errors ∧ (s.trapMsg e m).bad = s.bad ∧ s.PatrolSame (s.trapMsg e m) :=
  ⟨rfl, rfl, sameMemory_of_mems (s.trapMsg_mems e m), rfl, rfl, rfl⟩

/-- A lasting error is counted by its die and reported. -/
theorem State.lasting_report (s : State) (e : Nat) (tag : BitVec 10) (va : Nat) (page : Option Nat) (noPart : Bool) :
    let t := s.lasting e tag va page noPart
    t.hub.errors.getD (endPos e).1 {} = { s.hub.errors.getD (endPos e).1 {} with last := satOne (s.hub.errors.getD (endPos e).1 {}).last } ∧
      t.bad = s.bad ∧ s.PatrolSame t ∧
      ∃ m : TrapMsg, t.hub.beacons = s.hub.beacons ++ [m] ∧ m.kind = 4 ∧ m.cause = 0x12 ∧ m.die = (endPos e).1 ∧ m.page = page ∧
        m.noPart = noPart ∧ m.part = tag := by
  intro t
  have ht : t = State.lasting s e tag va page noPart := rfl
  unfold State.lasting at ht
  dsimp only at ht
  obtain ⟨herr, hbad, hmem, hfr, hco, hpa⟩ := State.trapMsg_patrol (s.updHub (fun h => { h with
    errors := h.errors.put (endPos e).1 { s.hub.errors.getD (endPos e).1 {} with last := satOne (s.hub.errors.getD (endPos e).1 {}).last } }))
    e { kind := 4, part := tag, die := (endPos e).1, cause := 0x12, src := BitVec.ofNat 32 (s.position e), va := va, page,
        pool := if e < 2 ^ 20 ∧ page.isNone then some e else none, noPart }
  rw [← ht] at herr hbad hmem hfr hco hpa
  refine ⟨by rw [herr]; exact NMap.getD_put_self _ _ _ _, hbad, ⟨hmem, hfr, hco, hpa⟩, ?_⟩
  rw [ht]
  exact ⟨_, State.trapMsg_listed _ _ _, rfl, rfl, rfl, rfl, rfl, rfl⟩

section
variable {s : State} {dev : Bool} {addr key d : Nat} (hk : (patrolPlace dev addr).1 = key)
  (hd : (endPos (patrolPlace dev addr).2).1 = d)

include hd in
theorem exec_patrolScrub_corrected : exec (.patrolScrub dev addr 1) s = .next (s.updHub (fun h => { h with
    errors := h.errors.put d { s.hub.errors.getD d {} with corr := satAdd (s.hub.errors.getD d {}).corr 1 } })) := by
  rw [← hd]
  rfl

include hk hd in
theorem exec_patrolScrub_transient : exec (.patrolScrub dev addr 2) s =
    .next (({ s with bad := s.bad.put key .transient } : State).transient d key) := by
  rw [← hd, ← hk]
  rfl

include hk in
theorem exec_patrolScrub_lasting : exec (.patrolScrub dev addr 3) s =
    .next (({ s with bad := s.bad.put key .lasting } : State).lasting (patrolPlace dev addr).2 ((s.patrolTag dev addr).getD 0)
      (patrolVa dev addr) (if dev then some (addr % 2 ^ 42 / 2 ^ 16) else none) (s.patrolTag dev addr).isNone) := by
  rw [← hk]
  rfl

include hk hd in
/-- The outcomes of a patrol at a place whose key and die are known. -/
theorem patrolScrub_outcomes {tg : Option (BitVec 10)} (ht : s.patrolTag dev addr = tg) :
    let e := s.hub.errors.getD d {}
    let up (n : BitVec 32) : BitVec 32 := if n = -1 then n else n + 1
    exec (.patrolScrub dev addr 0) s = .next s ∧
    (∃ t : State, exec (.patrolScrub dev addr 1) s = .next t ∧ t.hub.errors.getD d {} = { e with corr := up e.corr } ∧
      s.PatrolSame t ∧ t.bad = s.bad) ∧
    (∃ t : State, exec (.patrolScrub dev addr 2) s = .next t ∧ t.hub.errors.getD d {} = { e with trans := up e.trans } ∧
      s.PatrolSame t ∧ t.bad.get? key = none) ∧
    (∃ (t : State) (m : TrapMsg), exec (.patrolScrub dev addr 3) s = .next t ∧
      t.hub.errors.getD d {} = { e with last := up e.last } ∧ s.PatrolSame t ∧
      t.bad.get? key = some .lasting ∧ t.hub.beacons = s.hub.beacons ++ [m] ∧ m.kind = 4 ∧ m.cause = 0x12 ∧ m.die = d ∧
      m.page = (if dev then some (addr % 2 ^ 42 / 2 ^ 16) else none) ∧ m.noPart = tg.isNone ∧
      ∀ b : BitVec 10, tg = some b → m.part = b) ∧
    (∀ (i : Nat) (x : Err), (i = 4 ∧ x = .transient) ∨ (i = 5 ∧ x = .lasting) ∨ (i = 6 ∧ x = .correctable) →
      ∃ t : State, exec (.patrolScrub dev addr i) s = .next t ∧ t.bad.get? key = some x ∧ t.hub = s.hub ∧ s.PatrolSame t) := by
  subst hd
  intro e up
  have hmark : ∀ x, NMap.get? key (s.bad.put (patrolPlace dev addr).1 x) = some x := fun x => by
    rw [hk, NMap.get?_put, if_pos rfl]
  obtain ⟨hlast, hlbad, hlsame, m, hbeacons, hkind, hcause, hdie, hpage, hno, hpart⟩ :=
    State.lasting_report { s with bad := s.bad.put key .lasting } (patrolPlace dev addr).2 ((s.patrolTag dev addr).getD 0)
      (patrolVa dev addr) (if dev then some (addr % 2 ^ 42 / 2 ^ 16) else none) (s.patrolTag dev addr).isNone
  refine ⟨rfl, ⟨_, exec_patrolScrub_corrected rfl, ?_, s.patrolSame_hub s.bad _, rfl⟩,
    ⟨_, exec_patrolScrub_transient hk rfl, ?_, s.patrolSame_hub _ _, (NMap.get?_del _ _ _).trans (if_pos rfl)⟩,
    ⟨_, m, exec_patrolScrub_lasting hk, hlast, hlsame, ?_, hbeacons, hkind, hcause, hdie, hpage, ht ▸ hno,
      fun b hb => ?_⟩, ?_⟩
  · exact (NMap.getD_put_self _ _ _ _).trans (by rw [satAdd_one])
  · have hb : ({ s with bad := s.bad.put key .transient } : State).bad.get? key ≠ some .correctable := by
      simp [NMap.get?_put]
    unfold State.transient
    dsimp only
    rw [if_neg hb]
    exact NMap.getD_put_self _ _ _ _
  · rw [hlbad, NMap.get?_put, if_pos rfl]
  · rw [hpart, ht, hb]
    rfl
  · rintro i x (⟨rfl, rfl⟩ | ⟨rfl, rfl⟩ | ⟨rfl, rfl⟩)
    · exact ⟨_, rfl, hmark _, rfl, s.patrolSame_bad _⟩
    · exact ⟨_, rfl, hmark _, rfl, s.patrolSame_bad _⟩
    · exact ⟨_, rfl, hmark _, rfl, s.patrolSame_bad _⟩

end

end Sys2Proof.Machine

namespace Sys2Proof.Machine

theorem endPos_die_core {k : Nat} (h : k < 2 ^ 20) : (endPos k).1 = k / 2048 := by
  rw [endPos, if_pos h]

theorem endPos_die_geyser {c : Nat} (h : c < 2 ^ 20) : (endPos (2 ^ 20 + c)).1 = c / 128 := by
  rw [endPos, if_neg (by omega), if_pos (by omega)]
  exact congrArg (· / 128) (Nat.add_sub_cancel_left ..)

/-- The places of a patrol of device memory and of the caches. -/
theorem patrolPlace_device {addr : Nat} (h : addr < 2 ^ 42) :
    (patrolPlace true addr).1 = 2 ^ 30 + addr / 64 ∧ (endPos (patrolPlace true addr).2).1 = addr / 2 ^ 32 / 128 := by
  have hp : patrolPlace true addr = (2 ^ 30 + addr / 64, 2 ^ 20 + paChannel addr) := by
    rw [patrolPlace, if_pos rfl, if_pos h]
  have hc : paChannel addr = addr / 2 ^ 32 := Nat.mod_eq_of_lt (by omega)
  rw [hp, hc]
  exact ⟨rfl, endPos_die_geyser (by omega)⟩

theorem patrolPlace_cache {n : Nat} (h : n < 2 ^ 42) :
    (patrolPlace true (2 ^ 42 + n)).1 = 2 ^ 40 + n / 64 ∧ (endPos (patrolPlace true (2 ^ 42 + n)).2).1 = n / 2 ^ 32 / 128 := by
  have hp : patrolPlace true (2 ^ 42 + n) = (sliceKey (n / 64), 2 ^ 20 + paChannel (2 ^ 42 + n)) := by
    rw [patrolPlace, if_pos rfl, if_neg (by omega), Nat.add_sub_cancel_left]
  have hc : paChannel (2 ^ 42 + n) = n / 2 ^ 32 := by
    unfold paChannel
    omega
  rw [hp, hc]
  exact ⟨rfl, endPos_die_geyser (by omega)⟩

/-- The place of a word of a pool, of metadata or of a Geyser pool. -/
theorem patrolPlace_word {addr k off : Nat} (h : addr < 2 ^ 33) (hw : patrolWord addr = (k, off)) : patrolPlace false addr =
    (if addr < 2 ^ 31 then wordKey k off else if addr < 2 ^ 32 then metaKey k off else geyserKey (k - 2 ^ 20) off, k) := by
  rw [patrolPlace, if_neg (by decide), if_neg (by omega)]
  dsimp only
  rw [hw]

/-- The places of a patrol of a module's pools, and the partition whose storage they are. -/
theorem patrolPlace_pool (s : State) {addr : Nat} (h : addr < 2 ^ 31) : (patrolPlace false addr).1 = addr / 8 ∧
    (endPos (patrolPlace false addr).2).1 = addr / 2 ^ 28 ∧ s.patrolTag false addr = s.ownerOf (addr / 2 ^ 17) := by
  have hk : wordKey (addr / 2 ^ 17) (addr % 2 ^ 17) = addr / 8 := by
    unfold wordKey
    omega
  have hp : patrolPlace false addr = (addr / 8, addr / 2 ^ 17) := by
    rw [patrolPlace_word (by omega) ((if_pos h : patrolWord addr = _)), if_pos h, hk]
  refine ⟨by rw [hp], by rw [hp]; exact (endPos_die_core (by omega)).trans (Nat.div_div_eq_div_mul ..), ?_⟩
  rw [State.patrolTag, hp, if_neg (by decide), if_neg (by omega), if_neg (by omega), if_neg (by omega), if_neg (by omega)]

theorem patrolPlace_meta (s : State) {n : Nat} (h : n < 2 ^ 22) : (patrolPlace false (2 ^ 31 + n)).1 = 2 ^ 29 + n ∧
    (endPos (patrolPlace false (2 ^ 31 + n)).2).1 = n / 2 ^ 19 ∧ s.patrolTag false (2 ^ 31 + n) = s.ownerOf (n / 2 ^ 8) := by
  have hw : patrolWord (2 ^ 31 + n) = (n / 2 ^ 8, n % 2 ^ 8 * 512) := by
    rw [patrolWord, if_neg (by omega), if_pos (by omega), Nat.add_sub_cancel_left]
    rfl
  have hk : metaKey (n / 2 ^ 8) (n % 2 ^ 8 * 512) = 2 ^ 29 + n := by
    unfold metaKey wordKey
    omega
  have hp : patrolPlace false (2 ^ 31 + n) = (2 ^ 29 + n, n / 2 ^ 8) := by
    rw [patrolPlace_word (by omega) hw, if_neg (by omega), if_pos (by omega), hk]
  refine ⟨by rw [hp], by rw [hp]; exact (endPos_die_core (by omega)).trans (Nat.div_div_eq_div_mul ..), ?_⟩
  rw [State.patrolTag, hp, if_neg (by decide), if_neg (by omega), if_neg (by omega), if_neg (by omega), if_neg (by omega)]

theorem patrolPlace_geyser (s : State) {n : Nat} (h : n < 2 ^ 26) : (patrolPlace false (2 ^ 32 + n)).1 = 2 ^ 28 + n / 8 ∧
    (endPos (patrolPlace false (2 ^ 32 + n)).2).1 = n / 2 ^ 23 ∧
    s.patrolTag false (2 ^ 32 + n) = s.ownerOf (2 ^ 20 + n / 2 ^ 16) := by
  have hw : patrolWord (2 ^ 32 + n) = (2 ^ 20 + n / 2 ^ 16, n % 2 ^ 16) := by
    have hmod : (2 ^ 32 + n) % 2 ^ 16 = n % 2 ^ 16 := by omega
    rw [patrolWord, if_neg (by omega), if_neg (by omega), Nat.add_sub_cancel_left, hmod]
  have hk : geyserKey (2 ^ 20 + n / 2 ^ 16 - 2 ^ 20) (n % 2 ^ 16) = 2 ^ 28 + n / 8 := by
    unfold geyserKey
    omega
  have hp : patrolPlace false (2 ^ 32 + n) = (2 ^ 28 + n / 8, 2 ^ 20 + n / 2 ^ 16) := by
    rw [patrolPlace_word (by omega) hw, if_neg (by omega), if_neg (by omega), hk]
  refine ⟨by rw [hp], by rw [hp]; exact (endPos_die_geyser (by omega)).trans (Nat.div_div_eq_div_mul ..), ?_⟩
  rw [State.patrolTag, hp, if_neg (by decide), if_neg (by omega), if_neg (by omega), if_neg (by omega), if_neg (by omega)]

theorem patrolPlace_other (key : Nat) : patrolPlace false (2 ^ 33 + key) = (key, keyEnd key) := by
  rw [patrolPlace, if_neg (by decide), if_pos (by omega), Nat.add_sub_cancel_left]

theorem State.ownerOf_core (s : State) {k : Nat} (h : k < 2 ^ 20) :
    s.ownerOf k = if (s.core k).epoch = 0 then none else some (s.core k).tag := by
  rw [State.ownerOf, if_pos h]

theorem State.ownerOf_geyser (s : State) (ch : Nat) : s.ownerOf (2 ^ 20 + ch) =
    if (s.hub.owners.getD ch []).length = 1 then some (s.geyser ch).tag else none := by
  rw [State.ownerOf, if_neg (by omega), Nat.add_sub_cancel_left]

/-! ## The links' statement -/

/-- The bit of a link in the hub's registers. -/
def linkBit (l : Nat) : BitVec 18 := 1 <<< l

theorem linkBit_getLsbD (l : Nat) {j : Nat} (hj : j < 18) : (linkBit l).getLsbD j = (j == l) := by
  unfold linkBit
  rw [BitVec.natCast_eq_ofNat, BitVec.getLsbD_ofNat, Nat.one_shiftLeft, Nat.testBit_two_pow, decide_eq_true hj, Bool.true_and,
    beq_eq_decide]
  exact decide_eq_decide.2 eq_comm

theorem exec_linkDown {s : State} {l : Nat} (hup : (s.hub.links.getD l {}).up = true) : exec (.linkDown l) s =
    .next (((s.hub.comms.filter (fun c => c.2.state == 1 && s.commUses c.2 l)).map (·.1)).foldl State.breakComm
      ((s.hub.links.getD l {}).unanswered.foldl State.refusePacket (s.updHub (fun h => { h with
        links := h.links.put l {}, lup := h.lup &&& ~~~ linkBit l, ldown := h.ldown ||| linkBit l, msix := h.msix ++ [1] })))) := by
  change execLinkDown l s = _
  unfold execLinkDown
  dsimp only
  rw [hup, if_neg (by decide)]
  rfl

end Sys2Proof.Machine

namespace Sys2Proof.Machine

/-- What the loss of a link leaves of the module. -/
theorem linkDown_leaves {s : State} {l : Nat} (hup : (s.hub.links.getD l {}).up = true)
    (hsrc : ∀ y ∈ (s.hub.links.getD l {}).unanswered, y.src < 2 ^ 23) : ∃ t : State, exec (.linkDown l) s = .next t ∧
    t.hub.links = s.hub.links.put l {} ∧ t.hub.msix = s.hub.msix ++ [1] ∧ t.hub.lup = s.hub.lup &&& ~~~ linkBit l ∧
    t.hub.ldown = s.hub.ldown ||| linkBit l ∧ SameMemory s t ∧
    (∀ y ∈ (s.hub.links.getD l {}).unanswered, ∀ b, refusedBody y = some b → ∃ r ∈ t.net, r.dst = y.src ∧ r.body = b) ∧
    ∀ (n : Nat) (c : Comm), s.hub.comms.get? n = some c → c.state = 1 →
      (s.commUses c l = true → (t.hub.comms.getD n {}).Broken ∧
        ∀ r ∈ c.rounds, ∀ id ∈ r, ∀ y, s.copies.get? id = some y → t.Isolated id) ∧
      (s.commUses c l = false → (∀ e ∈ s.hub.comms, e.1 = n → e.2 = c) → t.hub.comms.getD n {} = c) := by
  obtain ⟨hr, hans⟩ := State.refuseAll_answers (s.hub.links.getD l {}).unanswered (s.updHub (fun h => { h with
    links := h.links.put l {}, lup := h.lup &&& ~~~ linkBit l, ldown := h.ldown ||| linkBit l, msix := h.msix ++ [1] })) hsrc
  obtain ⟨hb, hbroken, hother, hcopies⟩ := State.breakComms_break
    ((s.hub.comms.filter (fun c => c.2.state == 1 && s.commUses c.2 l)).map (·.1))
    ((s.hub.links.getD l {}).unanswered.foldl State.refusePacket (s.updHub (fun h => { h with
      links := h.links.put l {}, lup := h.lup &&& ~~~ linkBit l, ldown := h.ldown ||| linkBit l, msix := h.msix ++ [1] })))
  refine ⟨_, exec_linkDown hup, hb.links.trans hr.links, hb.msix.trans hr.msix, hb.lup.trans hr.lup, hb.ldown.trans hr.ldown,
    sameMemory_of_mems (hb.mems.trans hr.mems), fun y hy b hyb => by rw [hb.net]; exact hans y hy b hyb,
    fun n c hn hst => ?_⟩
  have hc := hr.comms
  have hget : s.hub.comms.getD n {} = c := by rw [NMap.getD, hn]; rfl
  refine ⟨fun huse => ?_, fun huse hall => ?_⟩
  · have hmem : n ∈ (s.hub.comms.filter (fun c => c.2.state == 1 && s.commUses c.2 l)).map (·.1) :=
      List.mem_map.2 ⟨(n, c), List.mem_filter.2 ⟨NMap.mem_of_get? hn, by simp [hst, huse]⟩, rfl⟩
    refine ⟨hbroken n (.inl hmem), fun r hr' id hid y hy => hcopies n hmem r ?_ id hid y (by rw [hr.copies]; exact hy)⟩
    rw [hc]
    exact hget ▸ hr'
  · have hno : n ∉ (s.hub.comms.filter (fun c => c.2.state == 1 && s.commUses c.2 l)).map (·.1) := by
      intro hm
      obtain ⟨e, he, hen⟩ := List.mem_map.1 hm
      obtain ⟨hec, hef⟩ := List.mem_filter.1 he
      rw [hall e hec hen, huse, Bool.and_false] at hef
      cases hef
    rw [hother n hno, hc]
    exact hget

@[simp] theorem State.took_mems (s : State) (l : Nat) (h : FlitHead) (p : Packet) : (s.took l h p).mems = s.mems := by
  simp [State.took, State.headed]

/-- What the module's network takes of a packet that a link has brought. -/
theorem State.landed_fields (u : State) (p : Packet) : (u.landed p).hub = u.hub ∧ (u.landed p).frames = u.frames ∧
    (u.landed p).net = u.net ++ [u.landing p] ∧ ⟨u.cycle + restTime p, packetStep (u.landing p)⟩ ∈ (u.landed p).agenda ∧
    (u.landed p).mems = u.mems :=
  ⟨rfl, rfl, rfl, List.mem_append_right _ List.mem_cons_self, rfl⟩

theorem State.keptSend_fields (u : State) (p q : Packet) :
    ((u.keptSend p q).core (tabKey q.sender)).retryBuf = (u.core (tabKey q.sender)).retryBuf ++ [q] ∧
    (u.keptSend p q).net = u.net ∧ ⟨u.cycle + (restTime p + 64), .sendRetryResend q.id⟩ ∈ (u.keptSend p q).agenda ∧
    (u.keptSend p q).mems = u.mems := by
  refine ⟨?_, rfl, List.mem_append_right _ List.mem_cons_self, rfl⟩
  change (State.core (State.updCore u.fresh.2 (tabKey q.sender) (fun c => { c with retryBuf := c.retryBuf ++ [q] }))
    (tabKey q.sender)).retryBuf = _
  rw [State.core_updCore, if_pos rfl]
  rfl

theorem State.passed_fields (u : State) (p : Packet) (j : Nat) (k : Link) : (u.passed p j k).net = u.net ∧
    (u.passed p j k).frames = u.frames ∧ (u.passed p j k).hub.links = u.hub.links.put j (k.forwards p) ∧
    (u.passed p j k).mems = u.mems := ⟨rfl, rfl, rfl, rfl⟩

theorem State.took_fields (s : State) (l : Nat) (h : FlitHead) (p : Packet) : (s.took l h p).frames = s.frames ∧
    (s.took l h p).net = s.net ∧ (s.took l h p).cycle = s.cycle ∧ (s.took l h p).nextId = s.nextId ∧
    (s.took l h p).cores = s.cores := ⟨rfl, rfl, rfl, rfl, rfl⟩

section
variable {s : State} {l : Nat} {h : FlitHead} {x : Packet} (hup : (s.hub.links.getD l {}).up = true)
  (hag : h.again = false) (hseq : h.seq = (s.hub.links.getD l {}).received % 1024)
include hup hag hseq

theorem flitReceive_takes : exec (.flitReceive l true ⟨h, some x⟩) s =
    .next ((s.took l h x).flitPacket (s.hub.links.getD l {}) x) := by
  rw [exec_flitReceive_packet hup hag, if_neg (not_not_intro hseq)]

/-- The packet of a flit for this module joins its network. -/
theorem flitReceive_here (hd : x.dst < 2 ^ 23) (hr : retriedSend (s.hub.links.getD l {}).unanswered x = none) :
    exec (.flitReceive l true ⟨h, some x⟩) s = .next ((s.took l h x).landed x) := by
  rw [flitReceive_takes hup hag hseq, State.flitPacket_here hd hr]

/-- A retry response keeps the SEND that it answers. -/
theorem flitReceive_retry (hd : x.dst < 2 ^ 23) {q : Packet} (hr : retriedSend (s.hub.links.getD l {}).unanswered x = some q) :
    exec (.flitReceive l true ⟨h, some x⟩) s = .next ((s.took l h x).keptSend x q) := by
  rw [flitReceive_takes hup hag hseq, State.flitPacket_retry hd hr]

/-- A packet for a module further on leaves on the link toward it. -/
theorem flitReceive_forward {j : Nat} (hd : 2 ^ 23 ≤ x.dst) (hsrc : 2 ^ 23 ≤ x.src) (hj : s.linkTo (x.dst - 2 ^ 23) x.vc = j)
    (hjl : j ≠ l) (hjup : (s.hub.links.getD j {}).up = true) (hheld : s.fabricHolds x.tag.toNat = false) :
    exec (.flitReceive l true ⟨h, some x⟩) s = .next ((s.took l h x).passed x j (s.hub.links.getD j {})) := by
  have hlink : (s.took l h x).hub.links.getD j {} = s.hub.links.getD j {} := by
    rw [NMap.getD, s.took_others h x hjl]
    rfl
  have hgo : (s.took l h x).flitPacket (s.hub.links.getD l {}) x = (s.took l h x).toLink x := by
    unfold State.flitPacket
    rw [if_pos hd]
  rw [flitReceive_takes hup hag hseq, hgo, State.toLink_passes (u := s.took l h x) (j := j) hj (by rw [hlink]; exact hjup) hsrc hheld,
    hlink]

end

theorem Link.forwards_idle {k : Link} {p : Packet} (hw : k.waiting = []) (hc : packetFlits p ≤ k.credit p.vc)
    (hroom : replayFlits k.replay + packetFlits p ≤ 512) :
    (k.forwards p).replay = k.replay ++ [(k.sent, p)] ∧ (k.forwards p).sent = k.sent + packetFlits p :=
  Link.add_idle (k := { k with unanswered := if (refusedBody p).isSome then k.unanswered ++ [p] else k.unanswered }) hw hc hroom

section
variable {s : State} {l : Nat} {h : FlitHead} (hup : (s.hub.links.getD l {}).up = true)
include hup

/-- A flit without a packet acts by its header alone. -/
theorem flit_header (hag : h.again = false) : ∃ t : State, exec (.flitReceive l true ⟨h, none⟩) s = .next t ∧
    t = { s with hub := t.hub } ∧ (s.hub.links.getD l {}).Heads h (t.hub.links.getD l {}) ∧
    (∀ j : Nat, j ≠ l → t.hub.links.get? j = s.hub.links.get? j) ∧
    (t.hub.links.getD l {}).received = (s.hub.links.getD l {}).received ∧
    (t.hub.links.getD l {}).unanswered = (s.hub.links.getD l {}).unanswered := by
  refine ⟨s.headed l h, (exec_flitReceive_empty hup).trans (by rw [hag]; rfl), rfl, ?_, fun j hj => s.headed_others h hj, ?_, ?_⟩
  · rw [s.headed_link]
    exact Link.heads_head hup h
  · exact (congrArg Link.received (s.headed_link l h)).trans (Link.pump_keeps _ _).2.1
  · exact (congrArg Link.unanswered (s.headed_link l h)).trans (Link.pump_keeps _ _).2.2

/-- A packet out of its order is not taken. -/
theorem flit_unexpected (hag : h.again = false) (x : Packet) (hseq : h.seq ≠ (s.hub.links.getD l {}).received % 1024) :
    exec (.flitReceive l true ⟨h, some x⟩) s = exec (.flitReceive l true ⟨h, none⟩) s := by
  rw [exec_flitReceive_packet hup hag, if_pos hseq, exec_flitReceive_empty hup, hag]
  rfl

/-- A flit that asks for packets again sets at most DETMISS. -/
theorem flit_again (hag : h.again = true) : ∃ t : State, exec (.flitReceive l true ⟨h, none⟩) s = .next t ∧
    (s.hub.links.getD l {}).Heads h (t.hub.links.getD l {}) ∧ (∀ j : Nat, j ≠ l → t.hub.links.get? j = s.hub.links.get? j) ∧
    SameMemory s t ∧ ∀ fk : Nat, t.frame fk = s.frame fk ∨ (t.frame fk = (s.frame fk).setSticky bitDetmiss ∧
      ∃ y ∈ (s.hub.links.getD l {}).replay ++ (s.hub.links.getD l {}).waiting.map (fun y => (0, y)), y.2.vc = 5 ∧ y.2.sender = fk) := by
  have hhub := (s.headed l h).noteRetry_hub (((s.hub.links.getD l {}).head h).replay.map (·.2))
  refine ⟨_, (exec_flitReceive_empty hup).trans (by rw [if_pos hag]), ?_, fun j hj => ?_,
    sameMemory_of_mems (by simp [State.headed]), fun fk => ?_⟩
  · rw [hhub, s.headed_link]
    exact Link.heads_head hup h
  · rw [hhub]
    exact s.headed_others h hj
  · refine (State.noteRetry_frame _ _ fk).imp id fun ⟨hf, p, hp, hvc, hfk⟩ => ⟨hf, ?_⟩
    obtain ⟨y, hy, rfl⟩ := List.mem_map.1 hp
    rcases Link.pump_replay hy with hm | hm
    · exact ⟨y, List.mem_append_left _ (List.mem_filter.1 hm).1, hvc, hfk⟩
    · exact ⟨(0, y.2), List.mem_append_right _ (List.mem_map_of_mem hm), hvc, hfk⟩

variable (hag : h.again = false) {x : Packet} (hseq : h.seq = (s.hub.links.getD l {}).received % 1024)
include hag hseq

theorem flit_packet_here (hd : x.dst < 2 ^ 23) (hr : retriedSend (s.hub.links.getD l {}).unanswered x = none) :
    ∃ (t : State) (y : Packet),
      let due := s.cycle + 2 * hubHops (endPos x.dst) + (match x.body with | .access _ => 0 | _ => 8)
      exec (.flitReceive l true ⟨h, some x⟩) s = .next t ∧ t.net = s.net ++ [y] ∧
      y = { x with id := s.nextId, after := [], notBefore := due } ∧ ⟨due, packetStep y⟩ ∈ t.agenda ∧
      (t.hub.links.getD l {}).received = (s.hub.links.getD l {}).received + packetFlits x ∧
      (s.hub.links.getD l {}).Heads h (t.hub.links.getD l {}) ∧ (∀ j : Nat, j ≠ l → t.hub.links.get? j = s.hub.links.get? j) ∧
      SameMemory s t ∧ t.frames = s.frames ∧
      (t.hub.links.getD l {}).unanswered = removeFirst (answers x) (s.hub.links.getD l {}).unanswered := by
  obtain ⟨hhub, hfr, hnet, hagenda, hmem⟩ := (s.took l h x).landed_fields x
  obtain ⟨tfr, tnet, tcyc, tid, -⟩ := s.took_fields l h x
  have hdue : s.cycle + 2 * hubHops (endPos x.dst) + (match x.body with | .access _ => 0 | _ => 8) = s.cycle + restTime x :=
    Nat.add_assoc _ _ _
  have hy : (s.took l h x).landing x = { x with id := s.nextId, after := [], notBefore := s.cycle + restTime x } := by
    rw [State.landing, tid, tcyc]
  refine ⟨_, (s.took l h x).landing x, flitReceive_here hup hag hseq hd hr, ?_, ?_, ?_, ?_, ?_, fun j hj => ?_,
    sameMemory_of_mems (hmem.trans (s.took_mems l h x)), hfr.trans tfr, ?_⟩
  · rw [hnet, tnet]
  · rw [hdue]
    exact hy
  · rw [hdue, ← tcyc]
    exact hagenda
  · rw [hhub, s.took_link]
    rfl
  · rw [hhub, s.took_link]
    exact Link.heads_taken hup h x
  · rw [hhub]
    exact s.took_others h x hj
  · rw [hhub, s.took_link]
    exact Link.taken_unanswered _ h x

theorem flit_packet_retry (hd : x.dst < 2 ^ 23) {q : Packet} (hr : retriedSend (s.hub.links.getD l {}).unanswered x = some q) :
    ∃ t : State, exec (.flitReceive l true ⟨h, some x⟩) s = .next t ∧
      (t.core (tabKey q.sender)).retryBuf = (s.core (tabKey q.sender)).retryBuf ++ [q] ∧ t.net = s.net ∧ SameMemory s t ∧
      ⟨s.cycle + 2 * hubHops (endPos x.dst) + 8 + 64, .sendRetryResend q.id⟩ ∈ t.agenda := by
  obtain ⟨hbuf, hnet, hagenda, hmem⟩ := (s.took l h x).keptSend_fields x q
  obtain ⟨-, tnet, tcyc, -, tcores⟩ := s.took_fields l h x
  refine ⟨_, flitReceive_retry hup hag hseq hd hr, ?_, hnet.trans tnet, sameMemory_of_mems (hmem.trans (s.took_mems l h x)), ?_⟩
  · rw [hbuf, State.core, tcores]
    rfl
  · rw [tcyc, restTime_retry hr] at hagenda
    simpa [Nat.add_assoc] using hagenda

theorem flit_packet_forward {j : Nat} (hd : 2 ^ 23 ≤ x.dst) (hsrc : 2 ^ 23 ≤ x.src) (hj : s.linkTo (x.dst - 2 ^ 23) x.vc = j)
    (hjl : j ≠ l) (hjup : (s.hub.links.getD j {}).up = true) (hw : (s.hub.links.getD j {}).waiting = [])
    (hc : packetFlits x ≤ (s.hub.links.getD j {}).credit x.vc)
    (hroom : replayFlits (s.hub.links.getD j {}).replay + packetFlits x ≤ 512) (hheld : s.fabricHolds x.tag.toNat = false) :
    ∃ t : State, exec (.flitReceive l true ⟨h, some x⟩) s = .next t ∧ t.net = s.net ∧ SameMemory s t ∧ t.frames = s.frames ∧
      (t.hub.links.getD l {}).received = (s.hub.links.getD l {}).received + packetFlits x ∧
      (t.hub.links.getD j {}).replay = (s.hub.links.getD j {}).replay ++ [((s.hub.links.getD j {}).sent, x)] ∧
      (t.hub.links.getD j {}).sent = (s.hub.links.getD j {}).sent + packetFlits x := by
  obtain ⟨hnet, hfr, hlinks, hmem⟩ := (s.took l h x).passed_fields x j (s.hub.links.getD j {})
  obtain ⟨tfr, tnet, -⟩ := s.took_fields l h x
  obtain ⟨hrep, hsent⟩ := Link.forwards_idle hw hc hroom
  refine ⟨_, flitReceive_forward hup hag hseq hd hsrc hj hjl hjup hheld, hnet.trans tnet,
    sameMemory_of_mems (hmem.trans (s.took_mems l h x)), hfr.trans tfr, ?_, ?_, ?_⟩
  · rw [hlinks, NMap.getD_put, if_neg (Ne.symm hjl), s.took_link]
    rfl
  · rw [hlinks, NMap.getD_put_self, hrep]
  · rw [hlinks, NMap.getD_put_self, hsent]

end

theorem exec_linkDown_down {s : State} {l : Nat} (hdown : (s.hub.links.getD l {}).up = false) : exec (.linkDown l) s = .next s := by
  change execLinkDown l s = _
  unfold execLinkDown
  dsimp only
  rw [hdown]
  rfl

/-- A link that has been retrained is up. -/
theorem linkRetrain_up (s : State) (l : Nat) : ∃ t : State, exec (.linkRetrain l) s = .next t ∧
    t.hub.links = s.hub.links.put l { s.hub.links.getD l {} with up := true } ∧ t.hub.lup = s.hub.lup ||| linkBit l ∧
    t.hub.ldown = s.hub.ldown ∧ SameMemory s t :=
  ⟨_, rfl, rfl, rfl, rfl, sameMemory_of_mems rfl⟩

/-- A die's supply stays within 320 to 420 mV, and a die that cannot hold its clock at 420 mV is reported. -/
theorem ageingMonitorRead_plans (s : State) (die mv : Nat) (holds : Bool) :
    ∃ t : State, exec (.ageingMonitorRead die mv holds) s = .next t ∧ 320 ≤ t.hub.supply.getD die 0 ∧
      t.hub.supply.getD die 0 ≤ 420 ∧ (320 ≤ mv → mv ≤ 420 → t.hub.supply.getD die 0 = mv) ∧
      (∀ d : Nat, d ≠ die → t.hub.supply.get? d = s.hub.supply.get? d ∧ (d ∈ t.hub.slowDies ↔ d ∈ s.hub.slowDies)) ∧
      (die ∈ t.hub.slowDies ↔ 420 ≤ mv ∧ holds = false) ∧
      t.hub.msix = s.hub.msix ++ (if 420 ≤ mv ∧ holds = false then [1] else []) ∧ SameMemory s t := by
  have hslow : (max 320 (min 420 mv) == 420 && !holds) = decide (420 ≤ mv ∧ holds = false) := by
    rw [Bool.eq_iff_iff, decide_eq_true_iff, Bool.and_eq_true, beq_iff_eq, Bool.not_eq_true']
    exact and_congr_left' (by omega)
  have hv : (s.hub.supply.put die (max 320 (min 420 mv))).getD die 0 = max 320 (min 420 mv) := NMap.getD_put_self _ _ _ _
  have he : exec (.ageingMonitorRead die mv holds) s = .next (s.updHub (fun h => { h with
      supply := h.supply.put die (max 320 (min 420 mv))
      msix := if decide (420 ≤ mv ∧ holds = false) then h.msix ++ [1] else h.msix
      slowDies := (h.slowDies.filter (· != die)) ++ (if decide (420 ≤ mv ∧ holds = false) then [die] else []) })) := by
    change execAgeingMonitorRead die mv holds s = _
    unfold execAgeingMonitorRead
    dsimp only
    rw [hslow]
  refine ⟨_, he, ?_, ?_, fun h1 h2 => ?_, fun d hd => ⟨(NMap.get?_put _ _ _ _).trans (if_neg hd), ?_⟩, ?_, ?_, sameMemory_of_mems rfl⟩
  · exact (by omega : 320 ≤ max 320 (min 420 mv)).trans_eq hv.symm
  · exact hv.trans_le (by omega)
  · exact hv.trans (by omega)
  · by_cases hc : 420 ≤ mv ∧ holds = false <;> simp [State.updHub, hc, hd]
  · by_cases hc : 420 ≤ mv ∧ holds = false <;> simp [State.updHub, hc]
  · by_cases hc : 420 ≤ mv ∧ holds = false <;> simp [State.updHub, hc]

/-- The timestamp counts 10/7 ns a cycle, and its slew. -/
theorem tickTime_counts {s : State} (hslew : -1000000 ≤ s.slew) (hfrac : 0 ≤ s.frac) : let t := s.tickTime
    ((t.time : Int) - s.time) * 7000000 + t.frac = s.frac + 10 * (1000000 + s.slew) ∧ s.time ≤ t.time ∧ 0 ≤ t.frac ∧
      t.frac < 7000000 := by
  intro t
  have htime : t.time = s.time + ((s.frac + 10 * (1000000 + s.slew)) / 7000000).toNat := rfl
  have hfr : t.frac = (s.frac + 10 * (1000000 + s.slew)) % 7000000 := rfl
  rw [htime, hfr]
  omega

/-- Settles O54: the clauses on flits, on the loss and the return of a link, on time, power and patrol, each by its lemma. -/
theorem links : Obligations.Links := by
  unfold Obligations.Links
  refine ⟨fun s l h x hl => ?_, fun s ppm rs others die mv addr dev => ⟨?_, tickTime_counts, ?_, ageingMonitorRead_plans s die mv,
    fun key d tg => ?_⟩⟩
  · intro k link bit others flits head
    refine ⟨fun ok p hdrop => execFlitReceive_dropped hdrop _,
      fun hup hag => ⟨flit_header hup hag, flit_unexpected hup hag x⟩, flit_again,
      fun hup hag hseq => ⟨fun hd hr => ?_, fun q hd => flit_packet_retry hup hag hseq hd, fun j r hd hsrc hj hjl hr hrup hrw hrc hroom hheld => ?_⟩,
      exec_linkDown_down, fun hup hsrc => ?_, ?_⟩
    · obtain ⟨t, y, ht, hnet, hy, hagenda, hrec, hheads, hoth, hmem, hfr, hun⟩ := flit_packet_here hup hag hseq hd hr
      exact ⟨t, y, ht, hnet, hy, hagenda, hrec, hheads, hoth, hmem, hfr, fun hno => hun.trans (removeFirst_none hno),
        fun l1 r l2 hk hno hans => hun.trans ((congrArg (removeFirst (answers x)) hk).trans (removeFirst_first l2 hno hans))⟩
    · subst hr
      exact flit_packet_forward hup hag hseq hd hsrc hj.symm hjl hrup hrw hrc hroom hheld
    · obtain ⟨t, ht, hlinks, hmsix, hlup, hldown, hmem, hans, hcomms⟩ := linkDown_leaves hup hsrc
      refine ⟨t, ht, ?_, fun j hj => ?_, hmsix, fun j hj => ⟨?_, ?_⟩, hmem, fun y hy a ha => hans y hy _ ?_,
        fun n c hn hst => ⟨fun huse => ?_, (hcomms n c hn hst).2⟩⟩
      · simp only [link, hlinks, NMap.getD_put_self]
      · rw [hlinks, NMap.get?_put, if_neg hj]
      · rw [hlup, BitVec.getLsbD_and, BitVec.getLsbD_not, linkBit_getLsbD l hj]
        simp [hj, bne]
      · rw [hldown, BitVec.getLsbD_or, linkBit_getLsbD l hj]
      · simp [refusedBody, ha]
      · obtain ⟨⟨hstate, hrounds, hremote⟩, hends⟩ := (hcomms n c hn hst).1 huse
        exact ⟨hstate, hrounds, hremote, hends⟩
    · obtain ⟨t, ht, hlinks, hlup, hldown, hmem⟩ := linkRetrain_up s l
      refine ⟨t, ht, ?_, ?_, hldown, fun j hj => ?_, fun j hj => ?_, hmem⟩
      · simp only [link, hlinks, NMap.getD_put_self]
        rfl
      · rw [hlup]
        simp only [bit, BitVec.getLsbD_or, linkBit_getLsbD l hl, beq_self_eq_true, Bool.or_true]
      · rw [hlinks, NMap.get?_put, if_neg hj]
      · rw [hlup, BitVec.getLsbD_or]
        by_cases hj18 : j < 18
        · rw [linkBit_getLsbD l hj18, beq_false_of_ne hj, Bool.or_false]
        · rw [BitVec.getLsbD_of_ge _ _ (Nat.le_of_not_lt hj18), BitVec.getLsbD_of_ge _ _ (Nat.le_of_not_lt hj18), Bool.or_false]
  · refine ⟨_, rfl, rfl, ?_, ?_, fun h1 h2 => ?_⟩
    · dsimp only
      split
      · omega
      · split <;> omega
    · dsimp only
      split
      · omega
      · split <;> omega
    · dsimp only
      rw [if_neg (by omega), if_neg (by omega)]
  · refine ⟨_, exec_powerSample s rs others, sameMemory_of_mems rfl, rfl, fun u p hp => ?_⟩
    have hpart : s.part u = p := by rw [State.part, NMap.getD, hp]; rfl
    obtain ⟨h1, h2⟩ := State.otherK_spec hpart others
    refine ⟨s.ownK rs u, min (s.ownK rs u) (s.otherK u others), ?_, (s.ownK_range rs u).1, (s.ownK_range rs u).2,
      Nat.min_le_left _ _, fun x hx => (Nat.min_le_right _ _).trans (h1 x hx), ?_, State.ownK_within⟩
    · refine (NMap.get?_map (fun i q => { q with kNext := min (s.ownK rs i) (s.otherK i others) }) u s.parts).trans ?_
      rw [hp]
      rfl
    · have := (s.ownK_range rs u).2
      rcases Nat.le_total (s.ownK rs u) (s.otherK u others) with hle | hle
      · exact .inl (Nat.min_eq_left hle)
      · rw [Nat.min_eq_right hle]
        rcases h2 with h16 | h2
        · exact .inl (by omega)
        · exact .inr h2
  · intro owner hcase
    have hplace : (patrolPlace dev addr).1 = key ∧ (endPos (patrolPlace dev addr).2).1 = d ∧ s.patrolTag dev addr = tg := by
      rcases hcase with ⟨rfl, ha, rfl, rfl, rfl⟩ | ⟨n, rfl, hn, rfl, rfl, rfl, rfl⟩ | ⟨rfl, ha, rfl, rfl, rfl⟩ |
        ⟨n, rfl, hn, rfl, rfl, rfl, rfl⟩ | ⟨n, rfl, hn, rfl, rfl, rfl, rfl⟩ | ⟨rfl, rfl, rfl, rfl⟩
      · exact ⟨(patrolPlace_device ha).1, (patrolPlace_device ha).2, rfl⟩
      · exact ⟨(patrolPlace_cache hn).1, (patrolPlace_cache hn).2, rfl⟩
      · obtain ⟨h1, h2, h3⟩ := patrolPlace_pool s ha
        exact ⟨h1, h2, h3.trans (s.ownerOf_core (by omega))⟩
      · obtain ⟨h1, h2, h3⟩ := patrolPlace_meta s hn
        exact ⟨h1, h2, h3.trans (s.ownerOf_core (by omega))⟩
      · obtain ⟨h1, h2, h3⟩ := patrolPlace_geyser s hn
        exact ⟨h1, h2, h3.trans (s.ownerOf_geyser _)⟩
      · rw [patrolPlace_other]
        exact ⟨rfl, rfl, rfl⟩
    obtain ⟨hk, hd, ht⟩ := hplace
    exact patrolScrub_outcomes hk hd ht

end Sys2Proof.Machine


namespace Sys2Proof.Machine

/-! ## Lanes of a v register -/

theorem natBits_testBit (x lo n i : Nat) : (natBits x lo n).testBit i = (decide (i < n) && x.testBit (lo + i)) := by
  rw [natBits, Nat.testBit_mod_two_pow, Nat.testBit_div_two_pow, Nat.add_comm]

theorem lane_testBit (bits : Nat) (v : VWord) (k i : Nat) :
    (lane bits v k).testBit i = (decide (i < bits) && v.getLsbD (bits * k + i)) := natBits_testBit ..

theorem lane_lt (bits : Nat) (v : VWord) (k : Nat) : lane bits v k < 2 ^ bits := Nat.mod_lt _ (Nat.two_pow_pos bits)

/-- The number of a list of lanes. -/
theorem foldr_lanes_lt (B : Nat) (hB : 0 < B) (l : List Nat) : l.foldr (fun x a => x % B + B * a) 0 < B ^ l.length := by
  induction l with
  | nil => simp
  | cons x l ih =>
    have hx := Nat.mod_lt x hB
    have := Nat.mul_le_mul_left B (Nat.succ_le_of_lt ih)
    rw [List.foldr_cons, List.length_cons, Nat.pow_succ, Nat.mul_comm (B ^ l.length)]
    rw [Nat.mul_succ] at this
    omega

theorem foldr_lanes_digit (B : Nat) (hB : 0 < B) (l : List Nat) (k : Nat) :
    l.foldr (fun x a => x % B + B * a) 0 / B ^ k % B = l.getD k 0 % B := by
  induction l generalizing k with
  | nil => simp
  | cons x l ih =>
    have hx := Nat.mod_lt x hB
    rw [List.foldr_cons]
    cases k with
    | zero => simp
    | succ k =>
      have hdiv : (x % B + B * l.foldr (fun x a => x % B + B * a) 0) / B = l.foldr (fun x a => x % B + B * a) 0 := by
        rw [Nat.add_mul_div_left _ _ hB, Nat.div_eq_of_lt hx, Nat.zero_add]
      rw [Nat.pow_succ, Nat.mul_comm (B ^ k), ← Nat.div_div_eq_div_mul, hdiv, ih]
      rfl

theorem lane_ofLanes {bits : Nat} {l : List Nat} (h : bits * l.length ≤ 128) (k : Nat) :
    lane bits (ofLanes bits l) k = l.getD k 0 % 2 ^ bits := by
  have hlt : l.foldr (fun x a => x % 2 ^ bits + 2 ^ bits * a) 0 < 2 ^ 128 :=
    (foldr_lanes_lt _ (Nat.two_pow_pos bits) l).trans_le (by rw [← Nat.pow_mul]; exact Nat.pow_le_pow_right (by decide) h)
  rw [lane, natBits, ofLanes, BitVec.toNat_ofNat, Nat.mod_eq_of_lt hlt, Nat.pow_mul]
  exact foldr_lanes_digit _ (Nat.two_pow_pos bits) l k

theorem laneIdx_length (bits : Nat) : (laneIdx bits).length = 128 / bits := by
  rw [laneIdx, rangeFrom_zero, List.length_range]

/-- The lanes of a register built lane by lane. -/
theorem lane_ofLanes_map {bits k : Nat} (h : k < 128 / bits) (f : Nat → Nat) :
    lane bits (ofLanes bits ((laneIdx bits).map f)) k = f k % 2 ^ bits := by
  rw [lane_ofLanes (by rw [List.length_map, laneIdx_length]; exact Nat.mul_div_le 128 bits), laneIdx, rangeFrom_zero]
  simp [List.getD, h]

theorem lane_blend_ones {bits k : Nat} {m : VWord} (h : lane bits m k = 2 ^ bits - 1) (old new : VWord) :
    lane bits (blend m old new) k = lane bits new k := by
  apply Nat.eq_of_testBit_eq
  intro i
  have hm := lane_testBit bits m k i
  rw [h, Nat.testBit_two_pow_sub_one] at hm
  rw [lane_testBit, lane_testBit]
  by_cases hi : i < bits
  · have hm' : m.getLsbD (bits * k + i) = true := by simpa [hi] using hm.symm
    by_cases hj : bits * k + i < 128
    · simp [blend, hm', hi]
    · rw [BitVec.getLsbD_of_ge _ _ (Nat.le_of_not_lt hj)] at hm'
      cases hm'
  · simp [hi]

theorem lane_blend_zeros {bits k : Nat} {m : VWord} (h : lane bits m k = 0) (old new : VWord) :
    lane bits (blend m old new) k = lane bits old k := by
  apply Nat.eq_of_testBit_eq
  intro i
  have hm := lane_testBit bits m k i
  rw [h, Nat.zero_testBit] at hm
  rw [lane_testBit, lane_testBit]
  by_cases hi : i < bits
  · have hm' : m.getLsbD (bits * k + i) = false := by simpa [hi] using hm.symm
    by_cases hj : bits * k + i < 128
    · rw [blend, BitVec.getLsbD_or, BitVec.getLsbD_and, BitVec.getLsbD_and, BitVec.getLsbD_not, hm']
      simp only [hj, decide_true, Bool.not_false, Bool.and_true, Bool.and_false, Bool.or_false]
    · rw [BitVec.getLsbD_of_ge _ _ (Nat.le_of_not_lt hj), BitVec.getLsbD_of_ge _ _ (Nat.le_of_not_lt hj)]
  · simp [hi]

theorem lane_or (bits : Nat) (a b : VWord) (k : Nat) : lane bits (a ||| b) k = lane bits a k ||| lane bits b k := by
  apply Nat.eq_of_testBit_eq
  intro i
  rw [Nat.testBit_or, lane_testBit, lane_testBit, lane_testBit, BitVec.getLsbD_or, Bool.and_or_distrib_left]

theorem lane_guardMask {bits k : Nat} (h : k < 128 / bits) (p : PWord) :
    lane bits (guardMask bits p) k = if pbit bits p k then 2 ^ bits - 1 else 0 := by
  rw [guardMask, lane_ofLanes_map h]
  have := Nat.two_pow_pos bits
  split
  · exact Nat.mod_eq_of_lt (by omega)
  · exact Nat.zero_mod _

theorem lane_blend_guard {bits k : Nat} (h : k < 128 / bits) (p : PWord) (old new : VWord) :
    lane bits (blend (guardMask bits p) old new) k = if pbit bits p k then lane bits new k else lane bits old k := by
  have hm := lane_guardMask h p
  split
  · rename_i hp
    exact lane_blend_ones (hm.trans (if_pos hp)) old new
  · rename_i hp
    exact lane_blend_zeros (hm.trans (if_neg hp)) old new

theorem toNat_lane32 (v : VWord) (k : Nat) : (lane32 v k).toNat = lane 32 v k := by
  rw [lane32, lane, natBits, BitVec.extractLsb'_toNat, Nat.shiftRight_eq_div_pow]

/-! ## VQUANT (R198, R296) -/

theorem clampInt_eq {lo hi : Int} (h : lo ≤ hi) (x : Int) : clampInt lo hi x = max lo (min hi x) := by
  unfold clampInt
  split
  · omega
  · split <;> omega

/-- The fixed-point value of one element, and the sticky bit that it sets. -/
theorem quantElem_eq (h e : Nat) (x : BitVec 32) :
    let y := (rneAt (f32Int x) ((e : Int) - 127 - 62 + h)).1
    let c := max (-(2 ^ 63 - 1)) (min (2 ^ 63 - 1) y)
    (quantElem h e x).1 = (if f32Fin x then c else 0) ∧
      (quantElem h e x).2 = (if f32Fin x then (if c = y then 0 else 0x400) else 0x20) := by
  intro y c
  have hc : clampInt (-(2 ^ 63 - 1)) (2 ^ 63 - 1) y = c := clampInt_eq (by decide) y
  unfold quantElem
  by_cases hf : f32Fin x = true
  · rw [if_pos hf, if_pos hf, if_pos hf]
    dsimp only
    rw [hc]
    refine ⟨rfl, ?_⟩
    change stickIf (c != y) bitSatc = _
    by_cases he : c = y
    · rw [if_pos he, he, bne_self_eq_false]
      rfl
    · rw [if_neg he, bne_iff_ne.2 he]
      rfl
  · rw [if_neg hf, if_neg hf, if_neg hf]
    exact ⟨rfl, rfl⟩

theorem vquant_result (s : State) (half : Bool) (h vd va vc : BitVec 5) (gp : BitVec 4) :
    let r (j : Nat) := quantElem h.toNat ((s.pv vc).toNat % 256) (lane32 (s.pv va) (2 * half.toNat + j))
    VRes s (.vquant half h vd va vc gp) 64 vd gp 1 (fun t => t.flags (activeFlags 64 (s.pp gp) (fun j => (r j).2)))
      (fun j => (r j).1) := by
  intro r
  have he : lane 8 (s.pv vc) 0 = (s.pv vc).toNat % 256 := by simp [lane, natBits]
  refine ⟨blend (guardMask 64 (s.pp gp)) (s.pv vd) (ofLanes 64 ((laneIdx 64).map (fun j => wrapInt 64 (r j).1))), ?_, fun k hk => ?_⟩
  · change execVquant half h vd va vc gp s = _
    unfold execVquant
    rw [he]
    rfl
  · rw [lane_blend_guard hk, lane_ofLanes_map hk]
    split
    · have h1 := Int.emod_nonneg (r k).1 (show (2 : Int) ^ 64 ≠ 0 by decide)
      have h2 := Int.emod_lt_of_pos (r k).1 (show (0 : Int) < 2 ^ 64 by decide)
      change ((((r k).1 % 2 ^ 64).toNat % 2 ^ 64 : Nat) : Int) = (r k).1 % 2 ^ 64
      omega
    · rfl

theorem vquantInv_result (s : State) (half : Bool) (h vd va vb vc : BitVec 5) (gp : BitVec 4) :
    let back (k : Nat) := scaleToF (sInt 64 (lane 64 (s.pv va) (k % 2))) ((((s.pv vc).toNat % 256 : Nat) : Int) - 127 - 62 + h.toNat)
    ∃ v : VWord, exec (.vquantInv half h vd va vb vc gp) s =
        .next ((s.setV vd v).flags (activeFlags 32 (s.pp gp) (fun k => if k / 2 = half.toNat then (back k).2 else 0))) ∧
      ∀ k : Nat, k < 4 → lane 32 v k =
        if k / 2 = half.toNat then (if pbit 32 (s.pp gp) k then (back k).1.toNat else lane 32 (s.pv vd) k)
        else lane 32 (s.pv vb) k := by
  intro back
  have he : lane 8 (s.pv vc) 0 = (s.pv vc).toNat % 256 := by simp [lane, natBits]
  have hq : ∀ k, (quantLane half k = true) = (k / 2 = half.toNat) := fun k => by simp [quantLane]
  refine ⟨blend (guardMask 32 (s.pp gp) ||| ofLanes 32 ((laneIdx 32).map (fun k => if quantLane half k then 0 else 2 ^ 32 - 1)))
    (s.pv vd) (ofLanes 32 ((laneIdx 32).map (fun k => (if quantLane half k then back k else (lane32 (s.pv vb) k, 0)).1.toNat))), ?_,
    fun k hk => ?_⟩
  · change execVquantInv half h vd va vb vc gp s = _
    unfold execVquantInv
    rw [he]
    simp only [hq]
    congr 3
    funext k
    split <;> rfl
  · have hk' : k < 128 / 32 := hk
    have hres : lane 32 (ofLanes 32 ((laneIdx 32).map (fun k => (if quantLane half k then back k else (lane32 (s.pv vb) k, 0)).1.toNat))) k =
        if k / 2 = half.toNat then (back k).1.toNat else lane 32 (s.pv vb) k := by
      rw [lane_ofLanes_map hk', Nat.mod_eq_of_lt (BitVec.isLt _)]
      simp only [hq]
      split
      · rfl
      · exact toNat_lane32 _ _
    have hact : lane 32 (guardMask 32 (s.pp gp) ||| ofLanes 32 ((laneIdx 32).map (fun k => if quantLane half k then 0 else 2 ^ 32 - 1))) k =
        if k / 2 = half.toNat then (if pbit 32 (s.pp gp) k then 2 ^ 32 - 1 else 0) else 2 ^ 32 - 1 := by
      rw [lane_or, lane_guardMask hk', lane_ofLanes_map hk']
      simp only [hq]
      by_cases hh : k / 2 = half.toNat
      · rw [if_pos hh, if_pos hh, Nat.zero_mod, Nat.or_zero]
      · rw [if_neg hh, if_neg hh]
        split <;> decide
    by_cases hh : k / 2 = half.toNat
    · rw [if_pos hh] at hact hres ⊢
      by_cases hp : pbit 32 (s.pp gp) k = true
      · rw [if_pos hp] at hact ⊢
        rw [lane_blend_ones hact, hres]
      · rw [if_neg hp] at hact ⊢
        rw [lane_blend_zeros hact]
    · rw [if_neg hh] at hact hres ⊢
      rw [lane_blend_ones hact, hres]

/-! ## VPLANE and VUNPL, lane by lane (R289 to R295) -/

theorem stickIf_iv (c : Bool) : stickIf c bitIv = if c then 0x20 else 0 := by
  cases c <;> rfl

/-- The lanes of a register put together from four words. -/
theorem lane32_append (a b c d : BitVec 32) : lane32 (a ++ b ++ c ++ d) 0 = d ∧ lane32 (a ++ b ++ c ++ d) 1 = c ∧
    lane32 (a ++ b ++ c ++ d) 2 = b ∧ lane32 (a ++ b ++ c ++ d) 3 = a := by
  unfold lane32
  refine ⟨BitVec.extractLsb'_append_eq_right, ?_, ?_, ?_⟩
  · rw [BitVec.extractLsb'_append_eq_of_le (by decide)]
    exact BitVec.extractLsb'_append_eq_right
  · rw [BitVec.extractLsb'_append_eq_of_le (by decide), BitVec.extractLsb'_append_eq_of_le (by decide)]
    exact BitVec.extractLsb'_append_eq_right
  · rw [BitVec.extractLsb'_append_eq_of_le (by decide), BitVec.extractLsb'_append_eq_of_le (by decide)]
    exact BitVec.extractLsb'_append_eq_left

theorem vplaneScan_result (s : State) (f19 : Bool) (m : Rnd) (vd va vc : BitVec 5) :
    let a (k : Nat) := fRead f19 (lane32 (s.pv va) k)
    let st := [a 0, a 1, a 2, a 3].foldl scanLane (lane32 (s.pv vc) 0, lane32 (s.pv vc) 1, lane32 (s.pv vc) 2)
    ∃ v : VWord, exec (.vplaneScan f19 m vd va vc) s =
        .next ((s.setV vd v 2).flags (if (List.range 4).any (fun k => f32SNaN (a k)) then 0x20 else 0) 2) ∧
      lane32 v 0 = st.1 ∧ lane32 v 1 = st.2.1 ∧ lane32 v 2 = st.2.2 ∧ lane32 v 3 = 0 := by
  intro a st
  refine ⟨(0 : BitVec 32) ++ st.2.2 ++ st.2.1 ++ st.1, ?_, lane32_append 0 st.2.2 st.2.1 st.1⟩
  rw [← stickIf_iv]
  rfl

theorem vplaneAlign_result (s : State) (f19 : Bool) (m : Rnd) (q : BitVec 2) (kind : ByteKind) (vd va vb vc : BitVec 5)
    (hh : hdrOk ((s.pv vc).toNat % 2 ^ 64) = true) (hc : hCls ((s.pv vc).toNat % 2 ^ 64) = 1) :
    let al (k : Nat) := alignLane ((s.pv vc).toNat % 2 ^ 64) kind (fRead f19 (lane32 (s.pv va) k))
    VWhole s (.vplaneAlign f19 m q kind vd va vb vc) 8 vd ((al 0).2 ||| (al 1).2 ||| (al 2).2 ||| (al 3).2)
      (fun k => if k / 4 = q.toNat then ((al (k % 4)).1 : Int) else lane 8 (s.pv vb) k) := by
  intro al
  have hl : lane 64 (s.pv vc) 0 = (s.pv vc).toNat % 2 ^ 64 := by simp [lane, natBits]
  refine ⟨ofLanes 8 ((laneIdx 8).map (fun p => if p / 4 = q.toNat then (al (p % 4)).1 else lane 8 (s.pv vb) p)), ?_, fun k hk => ?_⟩
  · change execVplaneAlign f19 m q kind vd va vb vc s = _
    unfold execVplaneAlign
    dsimp only
    rw [hl, if_pos (by rw [hh, hc]; rfl)]
  · rw [lane_ofLanes_map hk]
    split <;> rename_i hk4 <;> simp [hk4]

theorem vplaneAlign_illegal (s : State) (f19 : Bool) (m : Rnd) (q : BitVec 2) (kind : ByteKind) (vd va vb vc : BitVec 5)
    (h : hdrOk ((s.pv vc).toNat % 2 ^ 64) = false ∨ hCls ((s.pv vc).toNat % 2 ^ 64) ≠ 1) :
    exec (.vplaneAlign f19 m q kind vd va vb vc) s = .next (s.trap { cause := 0x01, eval := natWord ((s.pv vc).toNat % 2 ^ 64) }) := by
  have hl : lane 64 (s.pv vc) 0 = (s.pv vc).toNat % 2 ^ 64 := by simp [lane, natBits]
  change execVplaneAlign f19 m q kind vd va vb vc s = _
  unfold execVplaneAlign
  dsimp only
  rw [hl, if_neg (by simpa [or_iff_not_imp_left] using h)]
  rfl

theorem planeOf_testBit (bs : List Bool) (k : Nat) : (planeOf bs).testBit k = bs.getD k false := by
  unfold planeOf
  induction bs generalizing k with
  | nil => simp
  | cons b bs ih =>
    rw [List.foldr_cons, Nat.add_comm]
    cases k with
    | zero => cases b <;> simp [Nat.testBit_zero]
    | succ k =>
      have : (2 * bs.foldr (fun b x => b.toNat + 2 * x) 0 + b.toNat) / 2 = bs.foldr (fun b x => b.toNat + 2 * x) 0 := by
        have := b.toNat_le
        omega
      rw [Nat.testBit_succ, this, ih]
      rfl

theorem bitN_eq (x i : Nat) : (bitN x i == 1) = x.testBit i := by
  rw [bitN, Nat.testBit_eq_decide_div_mod_eq, beq_eq_decide]

/-- Lane by lane, the bytes of three registers, 16 of each. -/
theorem bytes_getD (u v w : VWord) {e : Nat} (he : e < 48) :
    ([u, v, w].flatMap (fun x => (laneIdx 8).map (lane 8 x))).getD e 0 =
      lane 8 (if e < 16 then u else if e < 32 then v else w) (e % 16) := by
  have hlen : ∀ x : VWord, ((laneIdx 8).map (lane 8 x)).length = 16 := fun x => by rw [List.length_map, laneIdx_length]
  have hget : ∀ (x : VWord) (i : Nat), i < 16 → ((laneIdx 8).map (lane 8 x)).getD i 0 = lane 8 x i := fun x i hi => by
    rw [laneIdx, rangeFrom_zero]
    simp [List.getD, hi]
  rw [List.flatMap_cons, List.flatMap_cons, List.flatMap_cons, List.flatMap_nil, List.append_nil]
  by_cases h1 : e < 16
  · rw [List.getD_append _ _ _ _ (by rw [hlen]; exact h1), hget _ _ h1, if_pos h1, Nat.mod_eq_of_lt h1]
  · rw [List.getD_append_right _ _ _ _ (by rw [hlen]; omega), hlen, if_neg h1]
    by_cases h2 : e < 32
    · rw [List.getD_append _ _ _ _ (by rw [hlen]; omega), hget _ _ (by omega), if_pos h2, show e % 16 = e - 16 by omega]
    · rw [List.getD_append_right _ _ _ _ (by rw [hlen]; omega), hlen, hget _ _ (by omega), if_neg h2,
        show e % 16 = e - 16 - 16 by omega]

theorem planeOf_lt (bs : List Bool) : planeOf bs < 2 ^ bs.length := by
  unfold planeOf
  induction bs with
  | nil => simp
  | cons b bs ih =>
    rw [List.foldr_cons, List.length_cons, Nat.pow_succ]
    have := b.toNat_le
    omega

theorem vplaneTr_result (s : State) (m : Rnd) (q : BitVec 2) (vd va vb vc : BitVec 5) :
    let byte (e : Nat) : Nat := lane 8 (s.pv (if e < 16 then va else if e < 32 then vb else vc)) (e % 16)
    ∃ v : VWord, exec (.vplaneTr m q vd va vb vc) s = .next (s.setV vd v 2) ∧
      ∀ k : Nat, k < 64 → v.getLsbD k = (decide (k < 48) && (byte k).testBit (2 * q.toNat)) ∧
        v.getLsbD (64 + k) = (decide (k < 48) && (byte k).testBit (2 * q.toNat + 1)) := by
  intro byte
  set bytes := [s.pv va, s.pv vb, s.pv vc].flatMap (fun v => (laneIdx 8).map (lane 8 v)) with hbytes
  have hlen : bytes.length = 48 := by simp [hbytes, laneIdx_length]
  have hplane : ∀ b k, (planeOf (bytes.map (fun x => bitN x b == 1))).testBit k = (decide (k < 48) && (byte k).testBit b) := by
    intro b k
    rw [planeOf_testBit]
    by_cases hk : k < 48
    · have hb : byte k = bytes.getD k 0 := by
        rw [hbytes, bytes_getD _ _ _ hk]
        simp only [byte]
        split
        · rfl
        · split <;> rfl
      rw [hb]
      simp [List.getD, hlen, hk, bitN_eq]
    · simp [List.getD, hlen, hk]
  have hlt : ∀ b, planeOf (bytes.map (fun x => bitN x b == 1)) < 2 ^ 64 := fun b =>
    (planeOf_lt _).trans_le (by rw [List.length_map, hlen]; decide)
  refine ⟨_, rfl, fun k hk => ⟨?_, ?_⟩⟩
  · rw [BitVec.getLsbD_ofNat, decide_eq_true (by omega), Bool.true_and, Nat.mul_comm _ (2 ^ 64), Nat.add_comm,
      Nat.testBit_two_pow_mul_add _ (hlt _), if_pos hk]
    exact hplane _ k
  · rw [BitVec.getLsbD_ofNat, decide_eq_true (by omega), Bool.true_and, Nat.mul_comm _ (2 ^ 64), Nat.add_comm (planeOf _),
      Nat.testBit_two_pow_mul_add _ (hlt _), if_neg (by omega), Nat.add_sub_cancel_left]
    exact hplane _ k

/-- A number from its bits below lo, two bits from lo on, and the rest. -/
theorem two_bits_testBit {lo low c H : Nat} (hl : low < 2 ^ lo) (hc : c < 4) (i : Nat) :
    (2 ^ lo * (4 * H + c) + low).testBit i =
      if i < lo then low.testBit i else if i < lo + 2 then c.testBit (i - lo) else H.testBit (i - lo - 2) := by
  rw [Nat.testBit_two_pow_mul_add _ hl]
  split
  · rfl
  · rw [show 4 * H + c = 2 ^ 2 * H + c from rfl, Nat.testBit_two_pow_mul_add _ hc]
    by_cases h : i - lo < 2
    · rw [if_pos h, if_pos (by omega)]
    · rw [if_neg h, if_neg (by omega)]

theorem gatherLane_testBit (va : VWord) (e lo x i : Nat) : (gatherLane va e lo x).testBit i =
    if i = lo then va.getLsbD e else if i = lo + 1 then va.getLsbD (64 + e) else x.testBit i := by
  obtain ⟨P, hP⟩ : ∃ P, P = 2 ^ lo := ⟨_, rfl⟩
  have hpos : 0 < P := hP ▸ Nat.two_pow_pos lo
  have hlow : x % P < P := Nat.mod_lt x hpos
  have hb0 : bitN x lo = x / P % 2 := by rw [bitN, hP]
  have hb1 : bitN x (lo + 1) = x / P / 2 % 2 := by rw [bitN, Nat.pow_succ, ← hP, Nat.div_div_eq_div_mul]
  have hX : x / P = 4 * (x / P / 4) + (x / P % 2 + 2 * (x / P / 2 % 2)) := by omega
  have hx : x = P * (4 * (x / P / 4) + (x / P % 2 + 2 * (x / P / 2 % 2))) + x % P := by
    rw [← hX]
    exact (Nat.div_add_mod x P).symm
  have hg : gatherLane va e lo x =
      P * (4 * (x / P / 4) + ((va.getLsbD e).toNat + 2 * (va.getLsbD (64 + e)).toNat)) + x % P := by
    generalize x / P / 4 = H, x / P % 2 = b0, x / P / 2 % 2 = b1, x % P = low at hx hb0 hb1
    rw [gatherLane, hb0, hb1, Nat.pow_succ, ← hP, hx]
    have h1 : P * (4 * H + (b0 + 2 * b1)) = 4 * (P * H) + b0 * P + b1 * (P * 2) := by ring
    have h2 : P * (4 * H + ((va.getLsbD e).toNat + 2 * (va.getLsbD (64 + e)).toNat)) =
        4 * (P * H) + (va.getLsbD e).toNat * P + (va.getLsbD (64 + e)).toNat * (P * 2) := by ring
    rw [h1, h2]
    omega
  have hc' : (va.getLsbD e).toNat + 2 * (va.getLsbD (64 + e)).toNat < 4 := by
    have := (va.getLsbD e).toNat_le
    have := (va.getLsbD (64 + e)).toNat_le
    omega
  have hx' := congrArg (Nat.testBit · i) hx
  rw [hP] at hlow hx' hg
  rw [hg, two_bits_testBit hlow hc']
  rw [two_bits_testBit hlow (by omega)] at hx'
  rcases Nat.lt_or_ge i lo with hi | hi
  · rw [if_pos hi, if_neg (by omega), if_neg (by omega)]
    exact (hx'.trans (if_pos hi)).symm
  · rw [if_neg (by omega)]
    by_cases h0 : i = lo
    · subst h0
      rw [if_pos (by omega), if_pos rfl, Nat.sub_self]
      cases va.getLsbD e <;> cases va.getLsbD (64 + e) <;> rfl
    · rw [if_neg h0]
      by_cases h1 : i = lo + 1
      · subst h1
        rw [if_pos (by omega), if_pos rfl, Nat.add_sub_cancel_left]
        cases va.getLsbD e <;> cases va.getLsbD (64 + e) <;> rfl
      · rw [if_neg (by omega), if_neg h1]
        rw [if_neg (by omega), if_neg (by omega)] at hx'
        exact hx'.symm

theorem vunplGather_result (s : State) (i16 : Bool) (g : BitVec 3) (r : BitVec 2) (h : Bool) (vd va vb : BitVec 5) :
    let n := if i16 then 16 else 8
    let lo := 8 * h.toNat + 2 * r.toNat
    let e (k : Nat) : Nat := (if i16 then 8 else 16) * g.toNat + k
    ∃ v : VWord, exec (.vunplGather i16 g r h vd va vb) s = .next (s.setV vd v 2) ∧
      ∀ k : Nat, k < 128 / n → ∀ i : Nat, i < n → (lane n v k).testBit i =
        if i = lo then (s.pv va).getLsbD (e k) else if i = lo + 1 then (s.pv va).getLsbD (64 + e k)
        else (lane n (s.pv vb) k).testBit i := by
  intro n lo e
  refine ⟨_, rfl, fun k hk i hi => ?_⟩
  have he : (128 / n) * g.toNat + k = e k := by
    simp only [n, e]
    cases i16 <;> simp
  change (lane n (ofLanes n ((laneIdx n).map (fun k => gatherLane (s.pv va) ((128 / n) * g.toNat + k) lo (lane n (s.pv vb) k)))) k).testBit i = _
  rw [lane_ofLanes_map hk, Nat.testBit_mod_two_pow, decide_eq_true hi, Bool.true_and, he, gatherLane_testBit]

theorem vunplVal_result (s : State) (i16 : Bool) (q : BitVec 2) (vd va vb vc : BitVec 5)
    (hh : hdrOk ((s.pv vc).toNat % 2 ^ 64) = true) :
    let n := if i16 then 16 else 8
    let un (k : Nat) := unplLane ((s.pv vc).toNat % 2 ^ 64) (lane n (s.pv va) (4 * q.toNat + k)) (lane n (s.pv vb) (4 * q.toNat + k))
    VWhole s (.vunplVal i16 q vd va vb vc) 32 vd
      ((un 0).2 ||| (un 1).2 ||| (un 2).2 ||| (un 3).2 ||| (if ((s.pv vc).toNat % 2 ^ 64).testBit 16 then 0x20 else 0))
      (fun k => ((un k).1.toNat : Int)) := by
  intro n un
  have hl : lane 64 (s.pv vc) 0 = (s.pv vc).toNat % 2 ^ 64 := by simp [lane, natBits]
  have hn : hNan ((s.pv vc).toNat % 2 ^ 64) = ((s.pv vc).toNat % 2 ^ 64).testBit 16 := bitN_eq _ 16
  refine ⟨ofLanes 32 ((laneIdx 32).map (fun k => (un k).1.toNat)), ?_, fun k hk => ?_⟩
  · change execVunplVal i16 q vd va vb vc s = _
    unfold execVunplVal
    dsimp only
    rw [hl, if_pos hh, stickIf_iv, hn]
  · rw [lane_ofLanes_map hk]
    rfl

theorem vunplVal_illegal (s : State) (i16 : Bool) (q : BitVec 2) (vd va vb vc : BitVec 5)
    (h : hdrOk ((s.pv vc).toNat % 2 ^ 64) = false) :
    exec (.vunplVal i16 q vd va vb vc) s = .next (s.trap { cause := 0x01, eval := natWord ((s.pv vc).toNat % 2 ^ 64) }) := by
  have hl : lane 64 (s.pv vc) 0 = (s.pv vc).toNat % 2 ^ 64 := by simp [lane, natBits]
  change execVunplVal i16 q vd va vb vc s = _
  unfold execVunplVal
  dsimp only
  rw [hl, h]
  rfl

/-! ## Finite FP32 values in order (R180) -/

/-- The magnitude of a finite value of given exponent and fraction bits. -/
def magOf (n : Nat) : Nat := if n / 2 ^ 23 = 0 then n % 2 ^ 23 else (2 ^ 23 + n % 2 ^ 23) * 2 ^ (n / 2 ^ 23 - 1)

theorem f32Mag_eq (x : BitVec 32) : f32Mag x = magOf (x.toNat % 2 ^ 31) := by
  have he : f32Exp x = x.toNat % 2 ^ 31 / 2 ^ 23 := by
    unfold f32Exp natBits
    omega
  have hf : f32Frac x = x.toNat % 2 ^ 31 % 2 ^ 23 := by
    unfold f32Frac natBits
    omega
  rw [f32Mag, magOf, he, hf]

theorem magOf_lt_succ (n : Nat) : magOf n < magOf (n + 1) := by
  unfold magOf
  by_cases hf : n % 2 ^ 23 = 2 ^ 23 - 1
  · have h1 : (n + 1) % 2 ^ 23 = 0 := by omega
    have h2 : (n + 1) / 2 ^ 23 = n / 2 ^ 23 + 1 := by omega
    by_cases h0 : n / 2 ^ 23 = 0
    · rw [h1, h2, hf, h0, if_pos rfl, if_neg (by decide)]
      decide
    · obtain ⟨e, he⟩ : ∃ e, n / 2 ^ 23 = e + 1 := ⟨n / 2 ^ 23 - 1, by omega⟩
      rw [h1, h2, hf, he, if_neg (by omega), if_neg (by omega), Nat.add_sub_cancel, Nat.add_sub_cancel, Nat.pow_succ]
      have := Nat.two_pow_pos e
      omega
  · have h1 : (n + 1) % 2 ^ 23 = n % 2 ^ 23 + 1 := by omega
    have h2 : (n + 1) / 2 ^ 23 = n / 2 ^ 23 := by omega
    rw [h1, h2]
    split
    · omega
    · exact Nat.mul_lt_mul_of_pos_right (by omega) (Nat.two_pow_pos _)

theorem magOf_strictMono : StrictMono magOf := strictMono_nat_of_lt_succ magOf_lt_succ

/-- Finite values stand in the order of their bits. -/
theorem f32Ord_lt_iff (x y : BitVec 32) : f32Ord x < f32Ord y ↔ f32Int x < f32Int y := by
  have h0 : magOf 0 = 0 := rfl
  have hord : ∀ z : BitVec 32, f32Ord z = if f32Neg z then -((z.toNat % 2 ^ 31 : Nat) : Int) else ((z.toNat % 2 ^ 31 : Nat) : Int) := fun z => by
    simp [f32Ord, natBits]
  have hint : ∀ z : BitVec 32, f32Int z = if f32Neg z then -(magOf (z.toNat % 2 ^ 31) : Int) else magOf (z.toNat % 2 ^ 31) := fun z => by
    rw [f32Int, f32Mag_eq]
  have hz : ∀ n, magOf n = 0 ↔ n = 0 := fun n => by rw [← h0]; exact magOf_strictMono.injective.eq_iff
  rw [hord, hord, hint, hint]
  generalize x.toNat % 2 ^ 31 = a, y.toNat % 2 ^ 31 = b
  have hab := magOf_strictMono.lt_iff_lt (a := a) (b := b)
  have hba := magOf_strictMono.lt_iff_lt (a := b) (b := a)
  have ha := hz a
  have hb := hz b
  split <;> split <;> omega

theorem f32Mag_zero_iff (x : BitVec 32) : f32Mag x = 0 ↔ f32Zero x = true := by
  have h0 : magOf 0 = 0 := rfl
  rw [f32Mag_eq, ← h0, magOf_strictMono.injective.eq_iff]
  simp [f32Zero, natBits]

theorem f32Mag_lt {x : BitVec 32} (h : f32Fin x = true) : f32Mag x < 2 ^ 277 := by
  have he : f32Exp x ≤ 254 := by
    have hlt : f32Exp x < 2 ^ 8 := Nat.mod_lt _ (by decide)
    have hne : f32Exp x ≠ 255 := by simpa [f32Fin] using h
    omega
  have hf : f32Frac x < 2 ^ 23 := Nat.mod_lt _ (by decide)
  unfold f32Mag
  split
  · exact hf.trans (by decide)
  · calc (2 ^ 23 + f32Frac x) * 2 ^ (f32Exp x - 1) < 2 ^ 24 * 2 ^ (f32Exp x - 1) :=
          Nat.mul_lt_mul_of_pos_right (by omega) (Nat.two_pow_pos _)
      _ ≤ 2 ^ 24 * 2 ^ 253 := Nat.mul_le_mul_left _ (Nat.pow_le_pow_right (by decide) (by omega))
      _ = 2 ^ 277 := (Nat.pow_add 2 24 253).symm

theorem f32Class (x : BitVec 32) : (f32NaN x = true ∧ f32Inf x = false ∧ f32Fin x = false) ∨
    (f32NaN x = false ∧ f32Inf x = true ∧ f32Fin x = false) ∨ (f32NaN x = false ∧ f32Inf x = false ∧ f32Fin x = true) := by
  unfold f32NaN f32Inf f32Fin
  by_cases he : f32Exp x = 255 <;> by_cases hf : f32Frac x = 0 <;> simp [he, hf]

/-- What the scan keeps of a lane. -/
theorem scanLane_spec (hi lo fl x : BitVec 32) : let t := scanLane (hi, lo, fl) x
    (f32NaN x = true → t = (hi, lo, fl ||| 1)) ∧ (f32Inf x = true → t = (hi, lo, fl ||| if x.getLsbD 31 then 4 else 2)) ∧
    (f32Fin x = true → t = (if f32Int hi < f32Int x then x else hi, if f32Int x < f32Int lo then x else lo, fl)) := by
  intro t
  have ht : t = scanLane (hi, lo, fl) x := rfl
  rw [ht]
  unfold scanLane
  rcases f32Class x with ⟨h1, h2, h3⟩ | ⟨h1, h2, h3⟩ | ⟨h1, h2, h3⟩
  · simp [h1, h2, h3]
  · simp [h1, h2, h3, f32Neg]
  · simp [h1, h2, h3, f32Ord_lt_iff]

/-! ## The header of a plane (R289, R290) -/

/-- The value of a plane's lane at an exponent. -/
def planeAt (w e : Nat) (x : BitVec 32) : Int := (rneAt (f32Int x) ((e : Int) - 127 - ((w : Int) - 2))).1

/-- An extreme of the scan lies outside the range at an exponent. -/
def planeOut (w : Nat) (hi lo : BitVec 32) (e : Nat) : Bool :=
  decide ((2 ^ (w - 1) : Int) - 1 < planeAt w e hi) || decide (planeAt w e lo < -(2 ^ (w - 1) : Int))

/-- The exponent rises from its start while an extreme lies outside the range, and no further than 255. -/
theorem fixExp_spec (w : Nat) (hi lo : BitVec 32) : ∀ n e0 : Nat, e0 ≤ 255 → 255 < e0 + n →
    e0 ≤ fixExp w hi lo n e0 ∧ fixExp w hi lo n e0 ≤ 255 ∧
    (planeOut w hi lo (fixExp w hi lo n e0) = true → fixExp w hi lo n e0 = 255) ∧
    ∀ k, e0 ≤ k → k < fixExp w hi lo n e0 → planeOut w hi lo k = true := by
  intro n
  induction n with
  | zero => intro e0 h1 h2; omega
  | succ n ih =>
    intro e0 h1 h2
    have hstep : fixExp w hi lo (n + 1) e0 =
        if planeOut w hi lo e0 && decide (e0 < 255) then fixExp w hi lo n (e0 + 1) else e0 := rfl
    rw [hstep]
    by_cases hc : (planeOut w hi lo e0 && decide (e0 < 255)) = true
    · rw [if_pos hc]
      simp only [Bool.and_eq_true, decide_eq_true_eq] at hc
      obtain ⟨i1, i2, i3, i4⟩ := ih (e0 + 1) (by omega) (by omega)
      refine ⟨by omega, i2, i3, fun k hk1 hk2 => ?_⟩
      rcases Nat.eq_or_lt_of_le hk1 with rfl | hk1
      · exact hc.1
      · exact i4 k hk1 hk2
    · rw [if_neg hc]
      refine ⟨Nat.le_refl _, h1, fun ho => ?_, fun k hk1 hk2 => by omega⟩
      simp only [Bool.and_eq_true, decide_eq_true_eq, ho, true_and] at hc
      omega

theorem rneAt_zero (e : Int) : (rneAt 0 e).1 = 0 := by
  simp [rneAt, roundAt, roundInt]

/-- The start of a plane's exponent: that of the larger extreme, from 0 on. -/
def planeStart (hi lo : BitVec 32) : Nat :=
  let mx := Nat.max (f32Mag hi) (f32Mag lo)
  (clampInt 0 255 (if mx = 0 then 0 else (mx.log2 : Int) - 149 + 127)).toNat

theorem planeStart_eq {hi lo : BitVec 32} {n : Nat} (hhi : f32Fin hi = true) (hlo : f32Fin lo = true)
    (h1 : 2 ^ n ≤ Nat.max (f32Mag hi) (f32Mag lo)) (h2 : Nat.max (f32Mag hi) (f32Mag lo) < 2 ^ (n + 1)) :
    planeStart hi lo = n - 22 := by
  have hlt : Nat.max (f32Mag hi) (f32Mag lo) < 2 ^ 277 := Nat.max_lt.2 ⟨f32Mag_lt hhi, f32Mag_lt hlo⟩
  have hn : n < 277 := (Nat.pow_lt_pow_iff_right (by decide)).1 (h1.trans_lt hlt)
  have hne : Nat.max (f32Mag hi) (f32Mag lo) ≠ 0 := by
    have := Nat.two_pow_pos n
    omega
  have hlog : (Nat.max (f32Mag hi) (f32Mag lo)).log2 = n := (Nat.log2_eq_iff hne).2 ⟨h1, h2⟩
  unfold planeStart
  dsimp only
  rw [if_neg hne, hlog, clampInt_eq (by decide)]
  omega

theorem planeStart_zero {hi lo : BitVec 32} (hhi : f32Mag hi = 0) (hlo : f32Mag lo = 0) : planeStart hi lo = 0 := by
  simp [planeStart, hhi, hlo, clampInt]

/-- The fields of a number that is put together from bits. -/
theorem header_fields {e w : Nat} (he : e < 256) (hw : w < 256) (b16 b17 b18 b19 b24 : Bool) :
    let h := e + w * 2 ^ 8 + b16.toNat * 2 ^ 16 + b17.toNat * 2 ^ 17 + b18.toNat * 2 ^ 18 + b19.toNat * 2 ^ 19 + 2 ^ 20 + 2 ^ 21 +
      b24.toNat * 2 ^ 24
    h % 256 = e ∧ h / 2 ^ 8 % 256 = w ∧ h.testBit 16 = b16 ∧ h.testBit 17 = b17 ∧ h.testBit 18 = b18 ∧ h.testBit 19 = b19 ∧
      h.testBit 20 = true ∧ h / 2 ^ 21 % 8 = 1 ∧ h.testBit 24 = b24 ∧ h < 2 ^ 25 := by
  intro h
  have hh : h = e + w * 2 ^ 8 + b16.toNat * 2 ^ 16 + b17.toNat * 2 ^ 17 + b18.toNat * 2 ^ 18 + b19.toNat * 2 ^ 19 + 2 ^ 20 +
    2 ^ 21 + b24.toNat * 2 ^ 24 := rfl
  have hb : ∀ b : Bool, b = decide (b.toNat = 1) := fun b => by cases b <;> rfl
  have l16 := b16.toNat_le
  have l17 := b17.toNat_le
  have l18 := b18.toNat_le
  have l19 := b19.toNat_le
  have l24 := b24.toNat_le
  simp only [Nat.testBit_eq_decide_div_mod_eq]
  refine ⟨by omega, by omega, ?_, ?_, ?_, ?_, ?_, by omega, ?_, by omega⟩
  · rw [hb b16, decide_eq_decide]; omega
  · rw [hb b17, decide_eq_decide]; omega
  · rw [hb b18, decide_eq_decide]; omega
  · rw [hb b19, decide_eq_decide]; omega
  · rw [decide_eq_true_iff]; omega
  · rw [hb b24, decide_eq_decide]; omega

/-- The header that fix makes of a scan state. -/
theorem planeFix_spec (v : VWord) {w : Nat} (hw4 : 4 ≤ w) (hw16 : w ≤ 16) (hhi : f32Fin (lane32 v 0) = true)
    (hlo : f32Fin (lane32 v 1) = true) :
    let top : Int := 2 ^ (w - 1) - 1
    let h := planeFix v w
    let f := lane32 v 2
    let at_ (e : Nat) (x : BitVec 32) : Int := planeAt w e x
    let e := h % 256
    let big := decide (top < at_ e (lane32 v 0))
    let low := decide (at_ e (lane32 v 1) < -top - 1)
    let bit (i : Nat) : Bool := h.testBit i
    h / 2 ^ 8 % 256 = w ∧ bit 16 = f.getLsbD 0 ∧ bit 17 = (f.getLsbD 1 || big) ∧ bit 18 = (f.getLsbD 2 || low) ∧
    bit 19 = (at_ e (lane32 v 0) == 0 && at_ e (lane32 v 1) == 0 && !(bit 16 || bit 17 || bit 18)) ∧ bit 20 = true ∧
    h / 2 ^ 21 % 8 = 1 ∧ bit 24 = (bit 17 || bit 18) ∧ h < 2 ^ 25 ∧ (big = true ∨ low = true → e = 255) ∧
    (f32Mag (lane32 v 0) = 0 → f32Mag (lane32 v 1) = 0 → e = 0) ∧
    (∀ n : Nat, 2 ^ n ≤ Nat.max (f32Mag (lane32 v 0)) (f32Mag (lane32 v 1)) →
      Nat.max (f32Mag (lane32 v 0)) (f32Mag (lane32 v 1)) < 2 ^ (n + 1) →
      n - 22 ≤ e ∧ ∀ k : Nat, n - 22 ≤ k → k < e → top < at_ k (lane32 v 0) ∨ at_ k (lane32 v 1) < -top - 1) := by
  intro top h f at_ e big low bit
  obtain ⟨E, hE⟩ : ∃ E, E = fixExp w (lane32 v 0) (lane32 v 1) 256 (planeStart (lane32 v 0) (lane32 v 1)) := ⟨_, rfl⟩
  have hstart : planeStart (lane32 v 0) (lane32 v 1) ≤ 255 := by
    unfold planeStart
    dsimp only
    rw [clampInt_eq (by decide)]
    omega
  obtain ⟨f1, f2, f3, f4⟩ := fixExp_spec w (lane32 v 0) (lane32 v 1) 256 _ hstart (by omega)
  rw [← hE] at f1 f2 f3 f4
  have htop : -top - 1 = -(2 ^ (w - 1) : Int) := by simp only [top]; ring
  have hout : ∀ k, planeOut w (lane32 v 0) (lane32 v 1) k = true ↔ top < at_ k (lane32 v 0) ∨ at_ k (lane32 v 1) < -top - 1 := by
    intro k
    rw [htop]
    simp [planeOut, at_, top]
  have hform : h = E + w * 2 ^ 8 + (f.getLsbD 0).toNat * 2 ^ 16 +
      (f.getLsbD 1 || decide (top < at_ E (lane32 v 0))).toNat * 2 ^ 17 +
      (f.getLsbD 2 || decide (at_ E (lane32 v 1) < -top - 1)).toNat * 2 ^ 18 +
      (at_ E (lane32 v 0) == 0 && at_ E (lane32 v 1) == 0 && !(f.getLsbD 0 || (f.getLsbD 1 || decide (top < at_ E (lane32 v 0))) ||
        (f.getLsbD 2 || decide (at_ E (lane32 v 1) < -top - 1)))).toNat * 2 ^ 19 + 2 ^ 20 + 2 ^ 21 +
      ((f.getLsbD 1 || decide (top < at_ E (lane32 v 0))) || (f.getLsbD 2 || decide (at_ E (lane32 v 1) < -top - 1))).toNat * 2 ^ 24 := by
    rw [htop, hE]
    rfl
  obtain ⟨h0, h8, h16, h17, h18, h19, h20, h21, h24, h25⟩ := header_fields (e := E) (w := w) (by omega) (by omega) (f.getLsbD 0)
    (f.getLsbD 1 || decide (top < at_ E (lane32 v 0))) (f.getLsbD 2 || decide (at_ E (lane32 v 1) < -top - 1))
    (at_ E (lane32 v 0) == 0 && at_ E (lane32 v 1) == 0 && !(f.getLsbD 0 || (f.getLsbD 1 || decide (top < at_ E (lane32 v 0))) ||
        (f.getLsbD 2 || decide (at_ E (lane32 v 1) < -top - 1))))
    ((f.getLsbD 1 || decide (top < at_ E (lane32 v 0))) || (f.getLsbD 2 || decide (at_ E (lane32 v 1) < -top - 1)))
  rw [← hform] at h0 h8 h16 h17 h18 h19 h20 h21 h24 h25
  have he : e = E := h0
  have hbig : big = decide (top < at_ E (lane32 v 0)) := by rw [← he]
  have hlow : low = decide (at_ E (lane32 v 1) < -top - 1) := by rw [← he]
  have hb16 : bit 16 = f.getLsbD 0 := h16
  have hb17 : bit 17 = (f.getLsbD 1 || big) := h17.trans (by rw [hbig])
  have hb18 : bit 18 = (f.getLsbD 2 || low) := h18.trans (by rw [hlow])
  refine ⟨h8, hb16, hb17, hb18, ?_, h20, h21, ?_, h25, fun hbl => ?_, fun z0 z1 => ?_, fun n n1 n2 => ?_⟩
  · rw [hb16, hb17, hb18, hbig, hlow, he]
    exact h19
  · rw [hb17, hb18, hbig, hlow]
    exact h24
  · rw [he]
    refine f3 ((hout E).2 ?_)
    rw [hbig, hlow, decide_eq_true_iff, decide_eq_true_iff] at hbl
    exact hbl
  · have hat : ∀ k x, f32Mag x = 0 → at_ k x = 0 := fun k x hx => by
      have hi : f32Int x = 0 := by simp [f32Int, hx]
      simp only [at_, planeAt, hi, rneAt_zero]
    have hpos : (0 : Int) < 2 ^ (w - 1) := Int.pow_pos (by decide)
    have hno : ∀ k, ¬ planeOut w (lane32 v 0) (lane32 v 1) k = true := fun k hk => by
      rcases (hout k).1 hk with hk | hk
      · rw [hat k _ z0] at hk; simp only [top] at hk; omega
      · rw [hat k _ z1] at hk; simp only [top] at hk; omega
    rw [he]
    by_contra hne
    have hs0 := planeStart_zero z0 z1
    exact hno 0 (f4 0 (by omega) (by omega))
  · rw [planeStart_eq hhi hlo n1 n2] at f1 f4
    rw [he]
    exact ⟨f1, fun k hk1 hk2 => (hout k).1 (f4 k hk1 hk2)⟩

/-! ## The byte of a lane (R291) -/

theorem wrapInt16_bytes (x : Int) : wrapInt 16 x % 256 = (x % 256).toNat ∧ wrapInt 16 x / 256 = (x / 256 % 256).toNat := by
  unfold wrapInt
  omega

theorem stickIf_bits (c : Bool) : stickIf c bitNx = (if c then 0x200 else 0) ∧ stickIf c bitOf = (if c then 0x80 else 0) ∧
    stickIf c bitUf = (if c then 0x100 else 0) := by
  cases c <;> exact ⟨rfl, rfl, rfl⟩

theorem alignLane_spec (h : Nat) (x : BitVec 32) :
    let w : Nat := h / 2 ^ 8 % 256
    let y := rneAt (f32Int x) (((h % 256 : Nat) : Int) - 127 - ((w : Int) - 2))
    let fin := f32Fin x
    let out := fin && !(decide (-(2 ^ (w - 1) : Int) ≤ y.1) && decide (y.1 ≤ 2 ^ (w - 1) - 1))
    let sv : Int := if fin = false ∨ out = true then 0 else y.1
    (alignLane h .lo x).1 = (sv % 256).toNat ∧ (alignLane h .hi x).1 = (sv / 256 % 256).toNat ∧
    (alignLane h .spec x).1 = (fin && !out && sv == 0).toNat + 2 * (!fin && !f32NaN x || out).toNat +
      4 * ((!fin && !f32NaN x || out) && x.getLsbD 31).toNat ∧
    (∀ kind : ByteKind, (alignLane h kind x).2 =
      (if out = true ∨ (fin = true ∧ y.2 = true) then 0x200 else 0) ||| (if out then 0x80 else 0) |||
        (if fin = true ∧ f32Mag x ≠ 0 ∧ y.1 = 0 then 0x100 else 0) ||| (if f32SNaN x then 0x20 else 0)) := by
  intro w y fin out sv
  have hy : alignElem (hW h) (hE h) x = if fin then y else (0, false) := by
    unfold alignElem
    simp only [fin, y, w, hW, hE, natBits, Nat.pow_zero, Nat.div_one]
    rfl
  have hinf : f32Inf x = (!fin && !f32NaN x) := by
    rcases f32Class x with ⟨h1, h2, h3⟩ | ⟨h1, h2, h3⟩ | ⟨h1, h2, h3⟩ <;> simp [fin, h1, h2, h3]
  have hzero : f32Zero x = decide (f32Mag x = 0) := by
    rw [Bool.eq_iff_iff, decide_eq_true_iff, f32Mag_zero_iff]
  have hw : hW h = w := rfl
  obtain ⟨s1, s2⟩ := wrapInt16_bytes sv
  by_cases hf : fin = true
  · have hout : (f32Fin x && !inRange (hW h) (alignElem (hW h) (hE h) x).1) = out := by rw [hy, if_pos hf]; rfl
    have hsv : (if out = true then 0 else (alignElem (hW h) (hE h) x).1) = sv := by
      rw [hy, if_pos hf]
      simp only [sv, hf, Bool.true_eq_false, false_or]
    unfold alignLane
    dsimp only
    rw [hout, hsv, hinf, hzero, hy, if_pos hf]
    refine ⟨s1, s2, ?_, fun kind => ?_⟩
    · rw [show f32Fin x = true from hf, show fin = true from hf]
      cases out <;> simp [f32Neg]
    · rw [show f32Fin x = true from hf, stickIf_iv, (stickIf_bits _).1, (stickIf_bits _).2.1, (stickIf_bits _).2.2]
      simp [hf, or_comm]
  · have hff : fin = false := by simpa using hf
    have hout : (f32Fin x && !inRange (hW h) (alignElem (hW h) (hE h) x).1) = out := by
      rw [show f32Fin x = false from hff]
      simp [out, hff]
    have ho : out = false := by simp [out, hff]
    have hsv : (if out = true then 0 else (alignElem (hW h) (hE h) x).1) = sv := by
      rw [hy, if_neg hf]
      simp [sv, hff]
    unfold alignLane
    dsimp only
    rw [hout, hsv, hinf, hzero, hy, if_neg hf, ho]
    refine ⟨s1, s2, ?_, fun kind => ?_⟩
    · rw [show f32Fin x = false from hff, hff]
      simp [f32Neg]
    · rw [show f32Fin x = false from hff, stickIf_iv]
      simp [hff, stickIf]

/-! ## The value of an element (R295) -/

/-- A number of at most 24 bits needs no rounding: an exponent that leaves it whole. -/
theorem roundAt_exact (neg : Bool) {n L : Nat} (hL : L ≤ 23) :
    (if (0 : Int) ≤ (L : Int) - 23 then roundInt .rne neg n (2 ^ 0 * 2 ^ ((L : Int) - 23).toNat) 0
      else roundInt .rne neg (n * 2 ^ (-((L : Int) - 23)).toNat) (2 ^ 0) 0) = (n * 2 ^ (23 - L), false) := by
  have h1 : (-((L : Int) - 23)).toNat = 23 - L := by omega
  have h2 : ((L : Int) - 23).toNat = 0 := by omega
  rw [h1, h2]
  split
  · rw [show 23 - L = 0 by omega]
    simp [roundInt, Nat.mod_one]
  · simp [roundInt, Nat.mod_one]

/-- The leading power of two of a number of at most 24 bits. -/
theorem log2_spec {n : Nat} (h0 : n ≠ 0) (h : n < 2 ^ 24) : n.log2 ≤ 23 ∧ 2 ^ n.log2 ≤ n ∧ n < 2 ^ (n.log2 + 1) := by
  obtain ⟨h1, h2⟩ := (Nat.log2_eq_iff h0).1 (rfl : n.log2 = n.log2)
  exact ⟨Nat.lt_succ_iff.1 ((Nat.log2_lt h0).2 h), h1, h2⟩

/-- The significand of a number of at most 24 bits: its 24 bits from the leading one on. -/
theorem significand_range {n : Nat} (h0 : n ≠ 0) (h : n < 2 ^ 24) :
    2 ^ 23 ≤ n * 2 ^ (23 - n.log2) ∧ n * 2 ^ (23 - n.log2) < 2 ^ 24 := by
  obtain ⟨hL, h1, h2⟩ := log2_spec h0 h
  constructor
  · calc 2 ^ 23 = 2 ^ n.log2 * 2 ^ (23 - n.log2) := by rw [← Nat.pow_add, Nat.add_sub_cancel' hL]
      _ ≤ n * 2 ^ (23 - n.log2) := Nat.mul_le_mul_right _ h1
  · calc n * 2 ^ (23 - n.log2) < 2 ^ (n.log2 + 1) * 2 ^ (23 - n.log2) := Nat.mul_lt_mul_of_pos_right h2 (Nat.two_pow_pos _)
      _ = 2 ^ 24 := by rw [← Nat.pow_add]; congr 1; omega

/-- The bits of an integer of at most 24 bits. -/
theorem f32Bits_int {n : Nat} (h0 : n ≠ 0) (h : n < 2 ^ 24) :
    f32Bits (n * 2 ^ 149) = (n.log2 + 127) * 2 ^ 23 + (n * 2 ^ (23 - n.log2) - 2 ^ 23) := by
  obtain ⟨hL, h1, h2⟩ := log2_spec h0 h
  have hlog : (n * 2 ^ 149).log2 = n.log2 + 149 := by
    have hn : n * 2 ^ 149 ≠ 0 := Nat.mul_ne_zero h0 (by decide)
    refine (Nat.log2_eq_iff hn).2 ⟨?_, ?_⟩
    · rw [Nat.pow_add]
      exact Nat.mul_le_mul_right _ h1
    · rw [show n.log2 + 149 + 1 = n.log2 + 1 + 149 by omega, Nat.pow_add]
      exact Nat.mul_lt_mul_of_pos_right h2 (by decide)
  have hdiv : n * 2 ^ 149 / 2 ^ (n.log2 + 126) = n * 2 ^ (23 - n.log2) := by
    refine Nat.div_eq_of_eq_mul_left (Nat.two_pow_pos _) ?_
    rw [Nat.mul_assoc, ← Nat.pow_add, show 23 - n.log2 + (n.log2 + 126) = 149 by omega]
  unfold f32Bits
  dsimp only
  rw [if_neg (by have := Nat.pos_of_ne_zero h0; omega), hlog, show n.log2 + 149 - 22 = n.log2 + 127 by omega,
    show n.log2 + 127 - 1 = n.log2 + 126 by omega, hdiv]

/-- The fields of FP32 bits with a sign. -/
theorem f32_fields (neg : Bool) {b : Nat} (h : b < 2 ^ 31) : let x : BitVec 32 := f32ZeroOf neg ||| BitVec.ofNat 32 b
    x.toNat % 2 ^ 31 = b ∧ f32Neg x = neg := by
  intro x
  have hx : x.toNat = (if neg then 2 ^ 31 else 0) + b := by
    have hb : (BitVec.ofNat 32 b).toNat = b := by rw [BitVec.toNat_ofNat]; exact Nat.mod_eq_of_lt (by omega)
    have hz : x.toNat = (f32ZeroOf neg).toNat ||| b := by rw [← hb]; exact BitVec.toNat_or ..
    rw [hz]
    cases neg
    · simp [f32ZeroOf]
    · exact (Nat.two_pow_add_eq_or_of_lt h 1).symm
  constructor
  · rw [hx]
    split <;> omega
  · rw [f32Neg, BitVec.getLsbD, Nat.testBit_eq_decide_div_mod_eq, hx]
    cases neg
    · simp; omega
    · simp; omega

theorem f32Fin_of_lt {x : BitVec 32} {b : Nat} (hx : x.toNat % 2 ^ 31 = b) (hb : b / 2 ^ 23 ≠ 255) : f32Fin x = true := by
  have : f32Exp x = b / 2 ^ 23 := by
    rw [← hx]
    unfold f32Exp natBits
    omega
  simpa [f32Fin, this] using hb

/-- An integer of at most 24 bits is exact. -/
theorem packF_int (neg : Bool) {n : Nat} (h0 : n ≠ 0) (h : n < 2 ^ 24) : ∃ x, packF false .rne neg n (2 ^ 0) 0 = (x, 0) ∧
    f32Fin x = true ∧ f32Neg x = neg ∧ f32Mag x = n * 2 ^ 149 := by
  obtain ⟨hL, h1, h2⟩ := log2_spec h0 h
  obtain ⟨s1, s2⟩ := significand_range h0 h
  have hratio : ratLog n (2 ^ 0) = (n.log2 : Int) := by
    unfold ratLog
    have hl : ((n.log2 : Int) - ((2 ^ 0 : Nat).log2 : Int)) = n.log2 := by rw [Nat.log2_two_pow]; simp
    dsimp only
    rw [hl]
    simp [h1]
  have hb : f32Bits (n * 2 ^ 149) < 2 ^ 31 ∧ f32Bits (n * 2 ^ 149) / 2 ^ 23 = n.log2 + 127 ∧
      f32Bits (n * 2 ^ 149) % 2 ^ 23 = n * 2 ^ (23 - n.log2) - 2 ^ 23 := by
    rw [f32Bits_int h0 h]
    omega
  obtain ⟨hb1, hb2, hb3⟩ := hb
  obtain ⟨hx, hneg⟩ := f32_fields neg hb1
  refine ⟨f32ZeroOf neg ||| BitVec.ofNat 32 (f32Bits (n * 2 ^ 149)), ?_, f32Fin_of_lt hx (by omega), hneg, ?_⟩
  · have hround : ∀ q : Int, q = (n.log2 : Int) - 23 → roundAt .rne neg n (2 ^ 0) q 0 = (n * 2 ^ (23 - n.log2), false) := by
      rintro q rfl
      exact roundAt_exact neg hL
    have hq : max ((n.log2 : Int) - (fPrec false : Nat) + 1) (fMinExp false) = (n.log2 : Int) - 23 := by
      rw [show fPrec false = 24 from rfl, show fMinExp false = -149 from rfl]
      omega
    have htop : ((128 : Int) - (fPrec false : Nat)) = 104 := rfl
    unfold packF
    dsimp only
    rw [hratio, hq, ite_self, hround _ rfl, htop, if_neg (by omega), show ((n.log2 : Int) - 23 + 149).toNat = n.log2 + 126 by omega,
      Nat.mul_assoc, ← Nat.pow_add, show 23 - n.log2 + (n.log2 + 126) = 149 by omega]
    simp [stickIf]
  · rw [f32Mag_eq, hx, magOf, hb2, hb3, if_neg (by omega), Nat.add_sub_cancel' s1, show n.log2 + 127 - 1 = n.log2 + 126 by omega,
      Nat.mul_assoc, ← Nat.pow_add, show 23 - n.log2 + (n.log2 + 126) = 149 by omega]

/-- An integer of at most 24 bits, exact, is its correct rounding (R180 to R183). -/
theorem rounded_packF_int (neg : Bool) {n : Nat} (h0 : n ≠ 0) (h : n < 2 ^ 24) :
    Rounded false .rne neg n (2 ^ 0) 0 (packF false .rne neg n (2 ^ 0) 0) := by
  obtain ⟨hL, h1, h2⟩ := log2_spec h0 h
  obtain ⟨x, hpack, hfin, hneg, hmag⟩ := packF_int neg h0 h
  intro a b hlo hhi
  have ha : a = n.log2 + b := by
    rw [Nat.pow_zero, Nat.mul_one] at hlo hhi
    have hlt : 2 ^ a < 2 ^ (n.log2 + 1 + b) := by
      rw [Nat.pow_add _ _ b]
      exact lt_of_le_of_lt hlo (Nat.mul_lt_mul_of_pos_right h2 (Nat.two_pow_pos _))
    have hgt : 2 ^ (n.log2 + b) < 2 ^ (a + 1) := by
      rw [Nat.pow_add]
      exact lt_of_le_of_lt (Nat.mul_le_mul_right _ h1) hhi
    have := (Nat.pow_lt_pow_iff_right (by decide : 1 < 2)).1 hlt
    have := (Nat.pow_lt_pow_iff_right (by decide : 1 < 2)).1 hgt
    omega
  have hq : max ((a : Int) - b - (24 : Nat) + 1) (-149) = (n.log2 : Int) - 23 := by omega
  have hval : n * 2 ^ (23 - n.log2) * 2 ^ ((n.log2 : Int) - 23 + 149).toNat = n * 2 ^ 149 := by
    rw [show ((n.log2 : Int) - 23 + 149).toNat = n.log2 + 126 by omega, Nat.mul_assoc, ← Nat.pow_add,
      show 23 - n.log2 + (n.log2 + 126) = 149 by omega]
  have hsmall : n * 2 ^ 149 < 2 ^ 277 :=
    calc n * 2 ^ 149 < 2 ^ 24 * 2 ^ 149 := Nat.mul_lt_mul_of_pos_right h (Nat.two_pow_pos _)
      _ = 2 ^ 173 := (Nat.pow_add 2 24 149).symm
      _ < 2 ^ 277 := Nat.pow_lt_pow_right (by decide) (by decide)
  dsimp only
  simp only [Bool.false_eq_true, if_false, ite_self]
  rw [hq, roundAt_exact neg hL, hval, hpack]
  refine ⟨fun hbig => absurd hbig (Nat.not_le.2 hsmall), fun _ => ⟨hfin, hneg, hmag, False.elim, fun _ => rfl, ?_, ?_⟩⟩
  · exact fun hf => nomatch hf
  · exact fun hf => nomatch hf

/-- An integer of at most 24 bits, as FP32 (R295). -/
theorem intToF_rounded {v : Int} (hv : v.natAbs < 2 ^ 24) : RoundedInt false .rne false v 0 0 (intToF false .rne v 0) := by
  constructor
  · intro h
    simp [intToF, packUnits, h, f32ZeroOf]
  · intro h
    rw [intToF, packUnits, if_neg h]
    exact rounded_packF_int _ (Int.natAbs_ne_zero.2 h) hv

/-! ## The header's fields (R289) -/

theorem hSgn_eq (h : Nat) : hSgn h = h.testBit 20 := by rw [hSgn, natBits, Nat.pow_one, Nat.testBit_eq_decide_div_mod_eq, beq_eq_decide]
theorem hSpec_eq (h : Nat) : hSpec h = h.testBit 24 := by rw [hSpec, natBits, Nat.pow_one, Nat.testBit_eq_decide_div_mod_eq, beq_eq_decide]

/-- An integer header has a width of 1 to 16 bits. -/
theorem hdrOk_width {h : Nat} (hok : hdrOk h = true) (hcls : hCls h = 0) : hW h ≤ 16 := by
  simp only [hdrOk, hcls, Bool.and_eq_true, decide_eq_true_eq] at hok
  exact hok.2.1.1.1.2

/-- The value of an element of at most 16 bits. -/
theorem signedOf_natAbs_lt (sgn : Bool) {w u : Nat} (hw : w ≤ 16) (hu : u < 2 ^ w) : (signedOf sgn w u).natAbs < 2 ^ 24 := by
  have hp : (2 : Int) ^ w ≤ 2 ^ 16 := by exact_mod_cast Nat.pow_le_pow_right (by decide : 0 < 2) hw
  have hu' : (u : Int) < 2 ^ w := by exact_mod_cast hu
  unfold signedOf
  split <;> omega

theorem unplLane_spec (h x sp : Nat) (hok : hdrOk h = true) :
    let w : Nat := h / 2 ^ 8 % 256
    let u : Nat := x % 2 ^ w
    let sv : Int := if h.testBit 20 = true ∧ 2 ^ (w - 1) ≤ u then (u : Int) - 2 ^ w else u
    let spec := h.testBit 24
    let cls := h / 2 ^ 21 % 8
    (cls = 2 → unplLane h x sp = (if x % 2 = 1 then 0x3F800000 else 0, 0)) ∧
    (cls = 0 → RoundedInt false .rne false sv 0 0 (unplLane h x sp)) ∧
    (cls = 1 → spec = true → sp.testBit 1 = true → unplLane h x sp = (if sp.testBit 2 then 0xFF800000 else 0x7F800000, 0)) ∧
    (cls = 1 → spec = true → sp.testBit 1 = false → sv = 0 → sp.testBit 0 = false → unplLane h x sp = (0x7FC00000, 0)) ∧
    (cls = 1 → (spec = false ∨ (sp.testBit 1 = false ∧ (sv ≠ 0 ∨ sp.testBit 0 = true))) →
      unplLane h x sp = scaleToF sv (((h % 256 : Nat) : Int) - 127 - ((w : Int) - 2))) := by
  intro w u sv spec cls
  have hsv : signedOf (hSgn h) (hW h) (x % 2 ^ hW h) = sv := by
    simp only [signedOf, hSgn_eq, Bool.and_eq_true, decide_eq_true_eq]
    rfl
  have hb (i : Nat) : (bitN sp i == 0) = !sp.testBit i := by
    rw [← bitN_eq]
    rcases Nat.mod_two_eq_zero_or_one (sp / 2 ^ i) with h | h <;> simp [bitN, h]
  have he : hE h = h % 256 := by simp [hE, natBits]
  have hun : unplLane h x sp = if cls = 2 then (if x % 2 = 1 then 0x3F800000 else 0, 0)
      else if cls = 0 then intToF false .rne sv 0
      else if spec && sp.testBit 1 then (f32InfOf (sp.testBit 2), 0)
      else if spec && sv == 0 && !sp.testBit 0 then (qNaN, 0)
      else scaleToF sv (((h % 256 : Nat) : Int) - 127 - ((w : Int) - 2)) := by
    rw [unplLane, hsv, hSpec_eq, bitN_eq, bitN_eq, hb, he]
    rfl
  rw [hun]
  refine ⟨fun hc => if_pos hc, fun hc => ?_, fun hc hs h1 => ?_, fun hc hs h1 hz h0 => ?_, fun hc hor => ?_⟩
  · rw [if_neg (by omega), if_pos hc, ← hsv]
    exact intToF_rounded (signedOf_natAbs_lt _ (hdrOk_width hok hc) (Nat.mod_lt _ (Nat.two_pow_pos _)))
  · rw [if_neg (by omega), if_neg (by omega), hs, h1]
    rfl
  · rw [if_neg (by omega), if_neg (by omega), hs, h1, hz, h0]
    rfl
  · rw [if_neg (by omega), if_neg (by omega)]
    rcases hor with hs | ⟨h1, hz | h0⟩
    · simp [hs]
    · simp [h1, hz]
    · simp [h1, h0]

/-! ## VPLANE, VUNPL and VQUANT -/

/-- Settles O25, mode by mode; the bound of `planeFix` on the exponent is the search's, and an integer element of at most 16 bits
needs no rounding. -/
theorem vectorPlanes : Obligations.VectorPlanes := by
  unfold Obligations.VectorPlanes
  refine ⟨?_, ?_, ?_, ?_, ?_, ?_⟩
  · intro s f19 m w q r g h kind i16 vd va vb vc
    obtain ⟨v, hv, hlane⟩ := vunplGather_result s i16 g r h vd va vb
    exact ⟨vplaneScan_result .., rfl, fun hok hc => vplaneAlign_result _ _ _ _ _ _ _ _ _ hok hc,
      fun hbad => vplaneAlign_illegal _ _ _ _ _ _ _ _ _ hbad, vplaneTr_result .., ⟨v, hv, fun _ => hlane⟩,
      fun hok => vunplVal_result _ _ _ _ _ _ _ hok, fun hbad => vunplVal_illegal _ _ _ _ _ _ _ hbad⟩
  · intro s half h vd va vb vc gp
    have hx := fun x => quantElem_eq h.toNat ((s.pv vc).toNat % 256) x
    refine ⟨?_, vquantInv_result s half h vd va vb vc gp⟩
    simpa only [(hx _).1, (hx _).2] using vquant_result s half h vd va vc gp
  · exact fun hi lo fl x _ _ => scanLane_spec hi lo fl x
  · exact fun v w h4 h16 hhi hlo _ => planeFix_spec v h4 h16 hhi hlo
  · exact fun h x _ _ => alignLane_spec h x
  · exact unplLane_spec

end Sys2Proof.Machine


namespace Sys2Proof.Machine

/-! ## A state with other storage errors (R428) -/

/-- The state with other uncorrectable storage and other error counts. -/
def State.withErrors (s : State) (b : NMap Err) (e : NMap Errors) : State := { s with bad := b, hub := { s.hub with errors := e } }

/-- An outcome with other errors in its state. -/
def outWithErrors (b : NMap Err) (e : NMap Errors) : Out → Out
  | .next t => .next (t.withErrors b e)
  | o => o

section
variable (s : State) (b : NMap Err) (e : NMap Errors)

@[simp] theorem State.frame_withErrors (k : Nat) : (s.withErrors b e).frame k = s.frame k := rfl
@[simp] theorem State.cf_withErrors : (s.withErrors b e).cf = s.cf := rfl
theorem State.cur_withErrors : (s.withErrors b e).cur = s.cur := rfl
@[simp] theorem State.slot_withErrors (k : Nat) : (s.withErrors b e).slot k = s.slot k := rfl
@[simp] theorem State.slotOf_withErrors (k : Nat) : (s.withErrors b e).slotOf k = s.slotOf k := rfl
@[simp] theorem State.core_withErrors (k : Nat) : (s.withErrors b e).core k = s.core k := rfl
@[simp] theorem State.cluster_withErrors (k : Nat) : (s.withErrors b e).cluster k = s.cluster k := rfl
@[simp] theorem State.part_withErrors (k : Nat) : (s.withErrors b e).part k = s.part k := rfl
@[simp] theorem State.future_withErrors (k : Nat) : (s.withErrors b e).future k = s.future k := rfl
@[simp] theorem State.fresh_withErrors : (s.withErrors b e).fresh = (s.fresh.1, s.fresh.2.withErrors b e) := rfl
@[simp] theorem State.draw_withErrors : (s.withErrors b e).draw = (s.draw.1, s.draw.2.withErrors b e) := rfl
@[simp] theorem State.updFrame_withErrors (k : Nat) (h : Frame → Frame) :
    (s.withErrors b e).updFrame k h = (s.updFrame k h).withErrors b e := rfl
@[simp] theorem State.setFrame_withErrors (k : Nat) (h : Frame) : (s.withErrors b e).setFrame k h = (s.setFrame k h).withErrors b e := rfl
@[simp] theorem State.upd_withErrors (h : Frame → Frame) : (s.withErrors b e).upd h = (s.upd h).withErrors b e := rfl
@[simp] theorem State.updSlot_withErrors (k : Nat) (h : Slot → Slot) :
    (s.withErrors b e).updSlot k h = (s.updSlot k h).withErrors b e := rfl
@[simp] theorem State.updCore_withErrors (k : Nat) (h : Core → Core) :
    (s.withErrors b e).updCore k h = (s.updCore k h).withErrors b e := rfl
@[simp] theorem State.updCluster_withErrors (k : Nat) (h : Cluster → Cluster) :
    (s.withErrors b e).updCluster k h = (s.updCluster k h).withErrors b e := rfl
@[simp] theorem State.updGeyser_withErrors (k : Nat) (h : Geyser → Geyser) :
    (s.withErrors b e).updGeyser k h = (s.updGeyser k h).withErrors b e := rfl
@[simp] theorem State.updPart_withErrors (k : Nat) (h : Part → Part) :
    (s.withErrors b e).updPart k h = (s.updPart k h).withErrors b e := rfl
@[simp] theorem State.updFuture_withErrors (k : Nat) (h : Future → Future) :
    (s.withErrors b e).updFuture k h = (s.updFuture k h).withErrors b e := rfl
@[simp] theorem State.later_withErrors (n : Nat) (i : Instr) : (s.withErrors b e).later n i = (s.later n i).withErrors b e := rfl
@[simp] theorem State.charge_withErrors (fk c n : Nat) : (s.withErrors b e).charge fk c n = (s.charge fk c n).withErrors b e := rfl
@[simp] theorem State.retry_withErrors : (s.withErrors b e).retry = s.retry.withErrors b e := rfl

@[simp] theorem State.ite_withErrors (c : Prop) [Decidable c] (s t : State) :
    (if c then s.withErrors b e else t.withErrors b e) = (if c then s else t).withErrors b e := (apply_ite (State.withErrors · b e) c s t).symm

@[simp] theorem foldl_withErrors {α : Type} {f : State → α → State} (hf : ∀ s x, f (s.withErrors b e) x = (f s x).withErrors b e)
    (l : List α) (s : State) :
    l.foldl f (s.withErrors b e) = (l.foldl f s).withErrors b e := by
  induction l generalizing s with
  | nil => rfl
  | cons x l ih => rw [List.foldl_cons, hf, ih, List.foldl_cons]

@[simp] theorem State.updHub_withErrors {h : Hub → Hub} (hh : ∀ x : Hub, h { x with errors := e } = { h x with errors := e }) :
    (s.withErrors b e).updHub h = (s.updHub h).withErrors b e := by
  unfold State.updHub State.withErrors
  simp only [hh]

@[simp] theorem State.trapMsg_withErrors (k : Nat) (m : TrapMsg) : (s.withErrors b e).trapMsg k m = (s.trapMsg k m).withErrors b e := rfl
@[simp] theorem State.chargeFabric_withErrors (k n : Nat) : (s.withErrors b e).chargeFabric k n = (s.chargeFabric k n).withErrors b e := rfl

@[simp] theorem State.set_net_withErrors (x : List Packet) :
    { s.withErrors b e with net := x } = ({ s with net := x } : State).withErrors b e := rfl
@[simp] theorem State.set_unperf_withErrors (x : List Nat) :
    { s.withErrors b e with unperf := x } = ({ s with unperf := x } : State).withErrors b e := rfl
@[simp] theorem State.set_copies_withErrors (x : NMap Copy) :
    { s.withErrors b e with copies := x } = ({ s with copies := x } : State).withErrors b e := rfl
@[simp] theorem State.set_cur_withErrors (x : Cur) :
    { s.withErrors b e with cur := x } = ({ s with cur := x } : State).withErrors b e := rfl
@[simp] theorem State.set_host_withErrors (x : Mem) :
    { s.withErrors b e with host := x } = ({ s with host := x } : State).withErrors b e := rfl
@[simp] theorem outWithErrors_next : outWithErrors b e (.next s) = .next (s.withErrors b e) := rfl
@[simp] theorem outWithErrors_ite (c : Prop) [Decidable c] (o p : Out) :
    outWithErrors b e (if c then o else p) = if c then outWithErrors b e o else outWithErrors b e p := apply_ite _ c o p

@[simp] theorem State.refuse_withErrors (agent : Nat) (tag : BitVec 10) :
    (s.withErrors b e).refuse agent tag = (s.refuse agent tag).withErrors b e := by
  simp [State.refuse]
  rfl

@[simp] theorem State.refusePacket_withErrors (p : Packet) : (s.withErrors b e).refusePacket p = (s.refusePacket p).withErrors b e := by
  unfold State.refusePacket
  simp
  split <;> rfl

@[simp] theorem State.toLink_withErrors (p : Packet) : (s.withErrors b e).toLink p = (s.toLink p).withErrors b e := by
  simp [State.toLink]
  rfl

@[simp] theorem State.dispatchPacket_withErrors (p : Packet) :
    (s.withErrors b e).dispatchPacket p = (s.dispatchPacket p).withErrors b e := by
  simp [State.dispatchPacket]
  rfl

@[simp] theorem State.send_withErrors (src dst vc : Nat) (tag : BitVec 10) (epoch : BitVec 6) (sender : Nat) (after : List Nat)
    (body : Body) :
    (s.withErrors b e).send src dst vc tag epoch sender after body = (s.send src dst vc tag epoch sender after body).withErrors b e := by
  simp [State.send]
  rfl

@[simp] theorem State.frameTag_withErrors (fk : Nat) : (s.withErrors b e).frameTag fk = s.frameTag fk := rfl
@[simp] theorem State.frameEpoch_withErrors (fk : Nat) : (s.withErrors b e).frameEpoch fk = s.frameEpoch fk := rfl

@[simp] theorem State.sendFrom_withErrors (fk dst vc : Nat) (after : List Nat) (body : Body) :
    (s.withErrors b e).sendFrom fk dst vc after body = (s.sendFrom fk dst vc after body).withErrors b e := by
  simp [State.sendFrom]

@[simp] theorem State.accIds_withErrors (fk : Nat) : (s.withErrors b e).accIds fk = s.accIds fk := rfl
@[simp] theorem State.releaseOver_withErrors (fk : Nat) : (s.withErrors b e).releaseOver fk = s.releaseOver fk := rfl

@[simp] theorem State.resume_withErrors (fk : Nat) : (s.withErrors b e).resume fk = (s.resume fk).withErrors b e := by
  simp only [State.resume, State.slotOf_withErrors]
  cases s.slotOf fk with
  | none => rfl
  | some sk =>
    simp only [State.slot_withErrors]
    cases (s.slot sk).state with
    | inPlace => by_cases h : s.releaseOver fk = true <;> simp [h]
    | _ => simp

@[simp] theorem State.giveReply_withErrors (fk : Nat) (r : Reply) :
    (s.withErrors b e).giveReply fk r = (s.giveReply fk r).withErrors b e := by
  simp [State.giveReply]

@[simp] theorem State.makeResumable_withErrors (fk : Nat) : (s.withErrors b e).makeResumable fk = (s.makeResumable fk).withErrors b e := rfl

@[simp] theorem State.wakeThread_withErrors (fk out : Nat) (r : Reply) :
    (s.withErrors b e).wakeThread fk out r = (s.wakeThread fk out r).withErrors b e := by
  simp [State.wakeThread]

@[simp] theorem wakeOne_withErrors (q : Nat) (tag : BitVec 10) (r : Reply) (a : Asker) :
    wakeOne q tag r (s.withErrors b e) a = (wakeOne q tag r s a).withErrors b e := by
  simp [wakeOne]

@[simp] theorem State.noteFinal_withErrors (p : Producer) (h : Word) (st : FState) :
    (s.withErrors b e).noteFinal p h st = (s.noteFinal p h st).withErrors b e := by
  unfold State.noteFinal
  simp
  split <;> rfl

@[simp] theorem State.settle_withErrors (key : Nat) (st : FState) (v : Word) :
    (s.withErrors b e).settle key st v = (s.settle key st v).withErrors b e := by
  simp [State.settle, foldl_withErrors]
  rfl

@[simp] theorem State.retireEntry_withErrors (h : Word) (st : FState) (v : Word) :
    (s.withErrors b e).retireEntry h st v = (s.retireEntry h st v).withErrors b e := by
  simp [State.retireEntry]

@[simp] theorem State.hasRoute_withErrors (m : Nat) : (s.withErrors b e).hasRoute m = s.hasRoute m := rfl

@[simp] theorem State.sendJoin_withErrors (src : Nat) (tag : BitVec 10) (epoch : BitVec 6) (sender : Nat) (join : Word)
    (final : FState) (lane : Option Nat) :
    (s.withErrors b e).sendJoin src tag epoch sender join final lane =
      (s.sendJoin src tag epoch sender join final lane).withErrors b e := by
  simp [State.sendJoin]
  rfl

@[simp] theorem State.countEnd_withErrors (tag : BitVec 10) (lseq : Nat) (st : FState) :
    (s.withErrors b e).countEnd tag lseq st = (s.countEnd tag lseq st).withErrors b e := rfl
@[simp] theorem State.handleEnd_withErrors (h : Word) : (s.withErrors b e).handleEnd h = s.handleEnd h := rfl

@[simp] theorem State.endFuture_withErrors (src q : Nat) (tag : BitVec 10) (epoch : BitVec 6) (sender : Nat) (fut join : Word)
    (lane : Option Nat) (lseq : Nat) (noted : Option FState) (st : FState) (v : Word) :
    (s.withErrors b e).endFuture src q tag epoch sender fut join lane lseq noted st v =
      (s.endFuture src q tag epoch sender fut join lane lseq noted st v).withErrors b e := by
  simp [State.endFuture]
  rfl

@[simp] theorem State.setCore_withErrors (k : Nat) (c : Core) : (s.withErrors b e).setCore k c = (s.setCore k c).withErrors b e := rfl
@[simp] theorem State.endArray_withErrors (fk : Nat) : (s.withErrors b e).endArray fk = (s.endArray fk).withErrors b e := rfl
@[simp] theorem State.dropAlease_withErrors (fk : Nat) : (s.withErrors b e).dropAlease fk = (s.dropAlease fk).withErrors b e := by
  simp [State.dropAlease]
@[simp] theorem State.dropWaiters_withErrors (fk : Nat) : (s.withErrors b e).dropWaiters fk = (s.dropWaiters fk).withErrors b e := rfl
@[simp] theorem State.dropFifoWaits_withErrors (fk : Nat) : (s.withErrors b e).dropFifoWaits fk = (s.dropFifoWaits fk).withErrors b e := rfl

@[simp] theorem State.withdraw_withErrors (fk : Nat) : (s.withErrors b e).withdraw fk = (s.withdraw fk).withErrors b e := by
  simp [State.withdraw]
  rfl

@[simp] theorem State.releaseSlot_withErrors (fk : Nat) : (s.withErrors b e).releaseSlot fk = (s.releaseSlot fk).withErrors b e := by
  unfold State.releaseSlot
  simp
  split <;> rfl

@[simp] theorem State.retireTask_withErrors (fk : Nat) (st : FState) (v : Word) (keep : Bool) :
    (s.withErrors b e).retireTask fk st v keep = (s.retireTask fk st v keep).withErrors b e := by
  simp [State.retireTask]
  rfl

@[simp] theorem State.position_withErrors (e1 : Nat) : (s.withErrors b e).position e1 = s.position e1 := rfl

@[simp] theorem State.stopGeyser_withErrors (fk : Nat) (st : BitVec 2) (cause : BitVec 8) :
    (s.withErrors b e).stopGeyser fk st cause = (s.stopGeyser fk st cause).withErrors b e := by
  simp [State.stopGeyser]

@[simp] theorem State.unhandled_withErrors (fk : Nat) (cause detail : BitVec 8) :
    (s.withErrors b e).unhandled fk cause detail = (s.unhandled fk cause detail).withErrors b e := by
  simp [State.unhandled]

@[simp] theorem State.trapVector_withErrors (fk : Nat) (cause : BitVec 8) :
    (s.withErrors b e).trapVector fk cause = s.trapVector fk cause := rfl

@[simp] theorem State.enterTrap_withErrors (fk : Nat) (t : TrapRec) :
    (s.withErrors b e).enterTrap fk t = (s.enterTrap fk t).withErrors b e := by
  unfold State.enterTrap
  simp only [State.frame_withErrors, State.unhandled_withErrors, State.trapVector_withErrors, State.setFrame_withErrors]
  split
  · rfl
  · cases s.trapVector fk t.cause <;> rfl

@[simp] theorem State.trap_withErrors (t : TrapRec) : (s.withErrors b e).trap t = (s.trap t).withErrors b e := by
  simp [State.trap]
  rfl

@[simp] theorem State.illegal_withErrors (eval : Word) : (s.withErrors b e).illegal eval = (s.illegal eval).withErrors b e := by
  simp [State.illegal]
@[simp] theorem State.parkMarker_withErrors  : (s.withErrors b e).parkMarker = (s.parkMarker).withErrors b e := rfl
@[simp] theorem State.parkInPlace_withErrors  : (s.withErrors b e).parkInPlace = (s.parkInPlace).withErrors b e := rfl

@[simp] theorem State.parkReleased_withErrors (st : TaskState) :
    (s.withErrors b e).parkReleased st = (s.parkReleased st).withErrors b e := by
  simp [State.parkReleased]
  rfl

@[simp] theorem State.addWait_withErrors (w : Nat) : (s.withErrors b e).addWait w = (s.addWait w).withErrors b e := rfl
@[simp] theorem State.awaitRelease_withErrors  : (s.withErrors b e).awaitRelease = (s.awaitRelease).withErrors b e := by
  simp [State.awaitRelease]

@[simp] theorem State.endTask_withErrors (keep : Bool) : (s.withErrors b e).endTask keep = (s.endTask keep).withErrors b e := by
  simp [State.endTask]
  rfl

@[simp] theorem State.markerEnd_withErrors  : (s.withErrors b e).markerEnd = (s.markerEnd).withErrors b e := rfl
@[simp] theorem State.trapReturn_withErrors  : (s.withErrors b e).trapReturn = (s.trapReturn).withErrors b e := rfl

@[simp] theorem State.parkTouch_withErrors  : (s.withErrors b e).parkTouch = (s.parkTouch).withErrors b e := by
  simp [State.parkTouch]
  rfl

@[simp] theorem State.onGeyser_withErrors  : (s.withErrors b e).onGeyser = s.onGeyser := rfl
@[simp] theorem State.curCore_withErrors  : (s.withErrors b e).curCore = s.curCore := rfl
@[simp] theorem State.curChannel_withErrors  : (s.withErrors b e).curChannel = s.curChannel := rfl
@[simp] theorem State.curTag_withErrors  : (s.withErrors b e).curTag = s.curTag := rfl
@[simp] theorem State.ownPcid_withErrors  : (s.withErrors b e).ownPcid = s.ownPcid := rfl
@[simp] theorem State.pg_withErrors (r : BitVec 6) : (s.withErrors b e).pg r = s.pg r := rfl
@[simp] theorem State.pv_withErrors (r : BitVec 5) : (s.withErrors b e).pv r = s.pv r := rfl
@[simp] theorem State.pp_withErrors (r : BitVec 4) : (s.withErrors b e).pp r = s.pp r := rfl
@[simp] theorem State.viewPtr_withErrors (o : Word) : (s.withErrors b e).viewPtr o = s.viewPtr o := rfl
@[simp] theorem State.localPtr_withErrors (a : Word) : (s.withErrors b e).localPtr a = s.localPtr a := rfl
@[simp] theorem scopeTrap_withErrors (scope : Nat) : scopeTrap (s.withErrors b e) scope = scopeTrap s scope := rfl
@[simp] theorem State.scopeLimited_withErrors (scope : Nat) : (s.withErrors b e).scopeLimited scope = s.scopeLimited scope := rfl
@[simp] theorem State.decodeOperand_withErrors (am : AMode) (sum : Word) (n : Nat) :
    (s.withErrors b e).decodeOperand am sum n = s.decodeOperand am sum n := rfl
@[simp] theorem State.wordPlaces_withErrors (d : Dec) (n : Nat) : (s.withErrors b e).wordPlaces d n = s.wordPlaces d n := rfl
@[simp] theorem State.accStalls_withErrors (kind : OutKind) (cls : AccClass) (bytes : List (Nat × Nat)) (atIssue : Bool) :
    (s.withErrors b e).accStalls kind cls bytes atIssue = s.accStalls kind cls bytes atIssue := rfl
@[simp] theorem State.ownGap_withErrors (off : Nat) : (s.withErrors b e).ownGap off = s.ownGap off := rfl
@[simp] theorem feTrap_withErrors (am : AMode) (sum : Word) (n : Nat) : feTrap (s.withErrors b e) am sum n = feTrap s am sum n := rfl
@[simp] theorem cgoTrap_withErrors  : cgoTrap (s.withErrors b e) = cgoTrap s := rfl
@[simp] theorem State.usedTids_withErrors (k : Nat) : (s.withErrors b e).usedTids k = s.usedTids k := rfl
@[simp] theorem State.copyAfter_withErrors (rel : Bool) : (s.withErrors b e).copyAfter rel = s.copyAfter rel := rfl
@[simp] theorem State.steer_withErrors (tag va : Nat) : (s.withErrors b e).steer tag va = s.steer tag va := rfl
@[simp] theorem csubTrap_withErrors (a b1 : Word) : csubTrap (s.withErrors b e) a b1 = csubTrap s a b1 := rfl
@[simp] theorem State.subHeld_withErrors  : (s.withErrors b e).subHeld = s.subHeld := rfl
@[simp] theorem tagTrap_withErrors (a : Word) : tagTrap (s.withErrors b e) a = tagTrap s a := rfl
@[simp] theorem State.spawnTarget_withErrors (b1 : Word) : (s.withErrors b e).spawnTarget b1 = s.spawnTarget b1 := rfl
@[simp] theorem State.spawnReach_withErrors (t : Nat × Nat) : (s.withErrors b e).spawnReach t = s.spawnReach t := rfl
@[simp] theorem State.heritage_withErrors  : (s.withErrors b e).heritage = s.heritage := rfl
@[simp] theorem State.askHeld_withErrors  : (s.withErrors b e).askHeld = s.askHeld := rfl
@[simp] theorem State.rootEnd_withErrors (tag other : Nat) : (s.withErrors b e).rootEnd tag other = s.rootEnd tag other := rfl
@[simp] theorem coreDecode_withErrors (k : Nat) (am : AMode) (sum : Word) (n : Nat) :
    coreDecode (s.withErrors b e) k am sum n = coreDecode s k am sum n := rfl
@[simp] theorem State.fenceHolds_withErrors (cls : AccClass) : (s.withErrors b e).fenceHolds cls = s.fenceHolds cls := rfl
@[simp] theorem State.pcid_withErrors (k : Nat) : (s.withErrors b e).pcid k = s.pcid k := rfl
@[simp] theorem State.mailCount_withErrors (fk : Nat) : (s.withErrors b e).mailCount fk = s.mailCount fk := rfl
@[simp] theorem State.sendHeader_withErrors (tag : BitVec 8) : (s.withErrors b e).sendHeader tag = s.sendHeader tag := rfl
@[simp] theorem crdTrap_withErrors (num : BitVec 12) : crdTrap (s.withErrors b e) num = crdTrap s num := rfl
@[simp] theorem crdValue_withErrors (n : Nat) : crdValue (s.withErrors b e) n = crdValue s n := rfl
@[simp] theorem crdFree_withErrors (n : Nat) : crdFree (s.withErrors b e) n = crdFree s n := rfl
@[simp] theorem cwrTrap_withErrors (num : BitVec 12) : cwrTrap (s.withErrors b e) num = cwrTrap s num := rfl
@[simp] theorem cwrValueTrap_withErrors (num : BitVec 12) (x : Word) : cwrValueTrap (s.withErrors b e) num x = cwrValueTrap s num x := rfl
@[simp] theorem privTrap_withErrors  : privTrap (s.withErrors b e) = privTrap s := rfl
@[simp] theorem State.block_withErrors  : (s.withErrors b e).block = s.block := rfl
@[simp] theorem codeDesc_withErrors (i : Instr) (b1 : Bool) (g : BitVec 5) : codeDesc (s.withErrors b e) i b1 g = codeDesc s i b1 g := rfl
@[simp] theorem State.wholeCluster_withErrors  : (s.withErrors b e).wholeCluster = s.wholeCluster := rfl
@[simp] theorem eStalls_withErrors (token : Bool) : eStalls (s.withErrors b e) token = eStalls s token := rfl
@[simp] theorem State.pushPlaces_withErrors (sum : Word) (n : Nat) : (s.withErrors b e).pushPlaces sum n = s.pushPlaces sum n := rfl
@[simp] theorem State.partChannels_withErrors (t : Nat) : (s.withErrors b e).partChannels t = s.partChannels t := rfl
@[simp] theorem xtlbiTrap_withErrors (am : AMode) (sum : Word) : xtlbiTrap (s.withErrors b e) am sum = xtlbiTrap s am sum := rfl
@[simp] theorem State.delay_withErrors (a b1 : Nat) : (s.withErrors b e).delay a b1 = s.delay a b1 := rfl
@[simp] theorem State.sticky_withErrors (b1 : Nat) : (s.withErrors b e).sticky b1 = (s.sticky b1).withErrors b e := rfl
@[simp] theorem State.stickyIf_withErrors (c : Bool) (b1 : Nat) : (s.withErrors b e).stickyIf c b1 = (s.stickyIf c b1).withErrors b e := by
  simp [State.stickyIf]
@[simp] theorem State.clampScope_withErrors (scope : Nat) : (s.withErrors b e).clampScope scope = (s.clampScope scope).withErrors b e := by
  simp [State.clampScope]
@[simp] theorem State.setG_withErrors (r : BitVec 6) (x : Word) (lat : Nat) :
    (s.withErrors b e).setG r x lat = (s.setG r x lat).withErrors b e := rfl
@[simp] theorem State.setV_withErrors (r : BitVec 5) (x : VWord) (lat : Nat) :
    (s.withErrors b e).setV r x lat = (s.setV r x lat).withErrors b e := rfl
@[simp] theorem State.setP_withErrors (r : BitVec 4) (x : PWord) (lat : Nat) :
    (s.withErrors b e).setP r x lat = (s.setP r x lat).withErrors b e := rfl

@[simp] theorem State.flags_withErrors (m : BitVec 32) (lat : Nat) : (s.withErrors b e).flags m lat = (s.flags m lat).withErrors b e := by
  simp [State.flags]
  rfl

@[simp] theorem State.advance_withErrors (lat : Nat) : (s.withErrors b e).advance lat = (s.advance lat).withErrors b e := by
  simp [State.advance]
  rfl

@[simp] theorem State.drawIf_withErrors (m : Rnd) (lat : Nat) : (s.withErrors b e).drawIf m lat = (s.drawIf m lat).withErrors b e := by
  simp [State.drawIf]
@[simp] theorem State.vOut_withErrors (bits : Nat) (vd : BitVec 5) (gp : BitVec 4) (res : VWord) (lat : Nat) :
    (s.withErrors b e).vOut bits vd gp res lat = (s.vOut bits vd gp res lat).withErrors b e := rfl
@[simp] theorem State.pOut_withErrors (bits : Nat) (pd gp : BitVec 4) (res : Nat → Bool) (lat : Nat) :
    (s.withErrors b e).pOut bits pd gp res lat = (s.pOut bits pd gp res lat).withErrors b e := rfl
@[simp] theorem State.jump_withErrors (t : Word) : (s.withErrors b e).jump t = (s.jump t).withErrors b e := rfl
@[simp] theorem State.addOut_withErrors (o : Outst) : (s.withErrors b e).addOut o = (s.addOut o).withErrors b e := rfl
@[simp] theorem State.expect_withErrors (rd : BitVec 6) (pd : BitVec 4) :
    (s.withErrors b e).expect rd pd = ((s.expect rd pd).1, (s.expect rd pd).2.withErrors b e) := rfl
@[simp] theorem State.expectAcc_withErrors (rd : BitVec 6) :
    (s.withErrors b e).expectAcc rd = ((s.expectAcc rd).1, (s.expectAcc rd).2.withErrors b e) := rfl

@[simp] theorem State.reply_withErrors (src : Nat) (tag : BitVec 10) (a : Asker) (r : Reply) (xpart oor : Bool) :
    (s.withErrors b e).reply src tag a r xpart oor = (s.reply src tag a r xpart oor).withErrors b e := by
  simp [State.reply]

@[simp] theorem State.answer_withErrors (src fk out : Nat) (r : Reply) (xpart : Bool) :
    (s.withErrors b e).answer src fk out r xpart = (s.answer src fk out r xpart).withErrors b e := by
  simp [State.answer]

@[simp] theorem State.addCopy_withErrors (id : Nat) (c : Copy) (delay : Nat) :
    (s.withErrors b e).addCopy id c delay = (s.addCopy id c delay).withErrors b e := rfl
@[simp] theorem State.performed_withErrors (id : Nat) : (s.withErrors b e).performed id = (s.performed id).withErrors b e := rfl

@[simp] theorem State.subDone_withErrors (v : Word) (x : Nat × Nat) :
    State.subDone v (s.withErrors b e) x = (State.subDone v s x).withErrors b e := by
  simp [State.subDone]

@[simp] theorem State.replaceSub_withErrors (k fk out : Nat) (tag : BitVec 10) (mtag : BitVec 16) (off : Nat) :
    (s.withErrors b e).replaceSub k fk out tag mtag off = (s.replaceSub k fk out tag mtag off).withErrors b e := by
  simp [State.replaceSub]
  rfl

@[simp] theorem State.askLamp_withErrors (dst : Nat) (body : Body) :
    (s.withErrors b e).askLamp dst body = (s.askLamp dst body).withErrors b e := by
  simp [State.askLamp]
  rfl

@[simp] theorem State.nullAnswer_withErrors (out : Nat) (xpart : Bool) :
    (s.withErrors b e).nullAnswer out xpart = (s.nullAnswer out xpart).withErrors b e := by
  simp [State.nullAnswer]
  rfl

@[simp] theorem State.spawnSend_withErrors (t : Nat × Nat) (a : Word) (out : Nat) (trap : Bool) :
    (s.withErrors b e).spawnSend t a out trap = (s.spawnSend t a out trap).withErrors b e := by
  simp [State.spawnSend]
  rfl

@[simp] theorem State.returnWord_withErrors (fk out part : Nat) (data : Word) (oor xpart : Bool) (pd : Option Bool) :
    (s.withErrors b e).returnWord fk out part data oor xpart pd = (s.returnWord fk out part data oor xpart pd).withErrors b e := by
  unfold State.returnWord
  simp
  split <;> rfl

@[simp] theorem State.chargeAcc_withErrors (own : Bool) (places : List (Nat × Nat)) :
    (s.withErrors b e).chargeAcc own places = (s.chargeAcc own places).withErrors b e := by
  simp [State.chargeAcc]
  rfl

@[simp] theorem State.issueOwn_withErrors (op : AccOp) (d : Dec) (n : Nat) (lo hi : Word) (dst : Option Nat) :
    (s.withErrors b e).issueOwn op d n lo hi dst = (s.issueOwn op d n lo hi dst).withErrors b e := by
  unfold State.issueOwn
  simp
  split <;> rfl

@[simp] theorem sendWord_withErrors (fk out : Nat) (after : List Nat) (x : (Nat × Nat) × WordAcc) :
    sendWord fk out after (s.withErrors b e) x = (sendWord fk out after s x).withErrors b e := by
  simp [sendWord]

@[simp] theorem State.issueRemote_withErrors (op : AccOp) (kind : OutKind) (cls : AccClass) (d : Dec) (n : Nat) (lo hi expect : Word)
    (dst : Option Nat) (after : List Nat) (acquire fe : Bool) :
    (s.withErrors b e).issueRemote op kind cls d n lo hi expect dst after acquire fe =
      (s.issueRemote op kind cls d n lo hi expect dst after acquire fe).withErrors b e := by
  simp [State.issueRemote]
  rfl

@[simp] theorem State.endLease_withErrors (q : Nat) : (s.withErrors b e).endLease q = (s.endLease q).withErrors b e := rfl

@[simp] theorem State.giveWait_withErrors (fk wait : Nat) (v : Word) :
    (s.withErrors b e).giveWait fk wait v = (s.giveWait fk wait v).withErrors b e := by
  simp [State.giveWait]

@[simp] theorem State.popToken_withErrors (fk : Nat) :
    (s.withErrors b e).popToken fk = (s.popToken fk).map (fun x => (x.1, x.2.withErrors b e)) := by
  unfold State.popToken
  simp only [State.core_withErrors]
  split <;> rfl

@[simp] theorem State.wakeToken_withErrors (fk : Nat) : (s.withErrors b e).wakeToken fk = (s.wakeToken fk).withErrors b e := by
  simp only [State.wakeToken, State.frame_withErrors, State.popToken_withErrors]
  cases (s.frame fk).waitTok with
  | none => rfl
  | some w =>
    cases s.popToken fk with
    | none => rfl
    | some x => simp

@[simp] theorem State.placeToken_withErrors (a : ACmd) (status : Nat) :
    (s.withErrors b e).placeToken a status = (s.placeToken a status).withErrors b e := by
  simp [State.placeToken]

@[simp] theorem State.finishCmd_withErrors (a : ACmd) (st status : Nat) :
    (s.withErrors b e).finishCmd a st status = (s.finishCmd a st status).withErrors b e := by
  simp [State.finishCmd]

@[simp] theorem State.countCmd_withErrors (q : Nat) (a : ACmd) : (s.withErrors b e).countCmd q a = (s.countCmd q a).withErrors b e := by
  unfold State.countCmd
  simp
  split <;> rfl

@[simp] theorem State.flushCmd_withErrors (a : ACmd) : (s.withErrors b e).flushCmd a = (s.flushCmd a).withErrors b e := by
  simp [State.flushCmd]

@[simp] theorem State.eIssue_withErrors (i : Instr) (ga gb : Word) (token : Bool) :
    (s.withErrors b e).eIssue i ga gb token = (s.eIssue i ga gb token).withErrors b e := by
  simp [State.eIssue]
  rfl

@[simp] theorem State.setVec_withErrors (svec : Bool) (x : Word) : (s.withErrors b e).setVec svec x = (s.setVec svec x).withErrors b e := by
  unfold State.setVec
  rw [State.onGeyser_withErrors]
  split <;> rfl

@[simp] theorem State.setTimer_withErrors (x : Word) : (s.withErrors b e).setTimer x = (s.setTimer x).withErrors b e := by
  unfold State.setTimer
  rw [State.onGeyser_withErrors]
  split <;> rfl

@[simp] theorem State.setEwt_withErrors (x : Word) : (s.withErrors b e).setEwt x = (s.setEwt x).withErrors b e := by
  simp [State.setEwt]
  rfl

@[simp] theorem State.updCurSlot_withErrors (h : Slot → Slot) : (s.withErrors b e).updCurSlot h = (s.updCurSlot h).withErrors b e := rfl

@[simp] theorem cwrEffect_withErrors (n : Nat) (x : Word) : cwrEffect (s.withErrors b e) n x = (cwrEffect s n x).withErrors b e := by
  unfold cwrEffect
  simp
  split <;> rfl

@[simp] theorem State.startInval_withErrors (tag : BitVec 10) (va len : Nat) (whole device : Bool) (frame : Option Nat) (out : Nat)
    (ats : Option Nat) :
    (s.withErrors b e).startInval tag va len whole device frame out ats =
      (s.startInval tag va len whole device frame out ats).withErrors b e := by
  have hl (t : State) (l : List Nat) : l.foldl (fun t ch => t.later (t.delay hubEnd (2 ^ 20 + ch) + 8) (.tlbInvalidation s.fresh.1 ch))
      (t.withErrors b e) = _ := foldl_withErrors b e (fun _ _ => rfl) l t
  simp [State.startInval] at hl ⊢
  simp [hl]

@[simp] theorem State.atsInvalidate_withErrors (vf va len : Nat) (whole : Bool) :
    (s.withErrors b e).atsInvalidate vf va len whole = (s.atsInvalidate vf va len whole).withErrors b e := rfl
@[simp] theorem State.useEntry_withErrors (ch id : Nat) (up : Bool) :
    (s.withErrors b e).useEntry ch id up = (s.useEntry ch id up).withErrors b e := rfl
@[simp] theorem State.useAts_withErrors (id : Nat) (up : Bool) : (s.withErrors b e).useAts id up = (s.useAts id up).withErrors b e := rfl
@[simp] theorem State.noteBurst_withErrors (ch : Nat) (tag : BitVec 10) (va len : Nat) :
    (s.withErrors b e).noteBurst ch tag va len = (s.noteBurst ch tag va len).withErrors b e := rfl

@[simp] theorem State.askHost_withErrors (id tag va len : Nat) (copy : Option (Nat × Nat)) (frame : Option Nat) (chan gent : Nat)
    (eval : Word) (unit : Nat) :
    (s.withErrors b e).askHost id tag va len copy frame chan gent eval unit =
      (s.askHost id tag va len copy frame chan gent eval unit).withErrors b e := rfl

@[simp] theorem State.askAts_withErrors (tag va : Nat) (write : Bool) (copy frame : Option Nat) (unit : Nat) :
    (s.withErrors b e).askAts tag va write copy frame unit = (s.askAts tag va write copy frame unit).withErrors b e := rfl

@[simp] theorem State.hostStore_withErrors (tag va : Nat) (bs : List Byte) :
    (s.withErrors b e).hostStore tag va bs = (s.hostStore tag va bs).withErrors b e := by
  simp [State.hostStore, foldl_withErrors b e (f := fun s i => s.later 1 (.ringUpdate tag i))
    (fun s i => State.later_withErrors s b e 1 (.ringUpdate tag i))]
  rfl

@[simp] theorem State.chargeBytes_withErrors (ch tag n : Nat) :
    (s.withErrors b e).chargeBytes ch tag n = (s.chargeBytes ch tag n).withErrors b e := rfl
@[simp] theorem State.overBytes_withErrors (ch tag : Nat) : (s.withErrors b e).overBytes ch tag = s.overBytes ch tag := rfl
@[simp] theorem State.hold_withErrors (wait : Nat) (v : Word) : (s.withErrors b e).hold wait v = (s.hold wait v).withErrors b e := rfl
@[simp] theorem State.xDone_withErrors  : (s.withErrors b e).xDone = (s.xDone).withErrors b e := rfl
@[simp] theorem State.heldValue_withErrors (wait : Nat) : (s.withErrors b e).heldValue wait = s.heldValue wait := rfl

@[simp] theorem State.xCharge_withErrors (i n : Nat) :
    (s.withErrors b e).xCharge i n = ((s.xCharge i n).1.withErrors b e, (s.xCharge i n).2) := by
  have hv : (s.withErrors b e).heldValue 10 = s.heldValue 10 := rfl
  unfold State.xCharge
  by_cases h1 : i < (s.heldValue 10).toNat
  · simp [h1]
  · by_cases h2 : s.overBytes s.curChannel s.curTag = true <;> simp [h1, h2]

@[simp] theorem State.hostCanWrite_withErrors (tag : Nat) : (s.withErrors b e).hostCanWrite tag = s.hostCanWrite tag := rfl
@[simp] theorem State.hostReady_withErrors (tag va : Nat) : (s.withErrors b e).hostReady tag va = s.hostReady tag va := rfl
@[simp] theorem State.canRequestPage_withErrors (tag : Nat) (host : Bool) :
    (s.withErrors b e).canRequestPage tag host = s.canRequestPage tag host := rfl
@[simp] theorem State.pageFailed_withErrors (host : Bool) (va : Nat) : (s.withErrors b e).pageFailed host va = s.pageFailed host va := rfl

@[simp] theorem State.xSend_withErrors (op : AccOp) (cls : AccClass) (va : Word) (t : Trans) (n : Nat) (data : Word)
    (dst : Option Nat) (o : Ord) :
    (s.withErrors b e).xSend op cls va t n data dst o = (s.xSend op cls va t n data dst o).withErrors b e := by
  simp [State.xSend]
  rfl

@[simp] theorem State.xHostErr_withErrors (cls : AccClass) (kind : OutKind) (va : Word) (dst : Option Nat) :
    (s.withErrors b e).xHostErr cls kind va dst = (s.xHostErr cls kind va dst).withErrors b e := by
  simp [State.xHostErr]
  rfl

@[simp] theorem State.xHostAccess_withErrors (op : AccOp) (cls : AccClass) (va : Word) (t : Trans) (n : Nat) (data : Word)
    (dst : Option Nat) (o : Ord) :
    (s.withErrors b e).xHostAccess op cls va t n data dst o = (s.xHostAccess op cls va t n data dst o).withErrors b e := by
  simp [State.xHostAccess]
  rfl

@[simp] theorem holdBurst_withErrors (b1 : Burst) : holdBurst (s.withErrors b e) b1 = (holdBurst s b1).withErrors b e := by
  simp [holdBurst]
  rfl

@[simp] theorem State.startXpush_withErrors (rt : BitVec 6) (sum tile : Word) (pool : Bool) (o : Ord) (bytes : List (Nat × Nat))
    (bs : List Burst) :
    (s.withErrors b e).startXpush rt sum tile pool o bytes bs = (s.startXpush rt sum tile pool o bytes bs).withErrors b e := by
  simp [State.startXpush]
  rfl

@[simp] theorem State.releaseStalls_withErrors  : (s.withErrors b e).releaseStalls = s.releaseStalls := rfl

@[simp] theorem State.reportIsol_withErrors (agent tag : Nat) (w : WalkEnd) :
    (s.withErrors b e).reportIsol agent tag w = (s.reportIsol agent tag w).withErrors b e := by
  simp [State.reportIsol]

@[simp] theorem State.accSum_withErrors {n : Nat} (rb : BitVec 6) (off : BitVec n) :
    (s.withErrors b e).accSum rb off = s.accSum rb off := rfl

theorem State.trappingForm_withErrors (rd : BitVec 6) (pd : BitVec 4) {eval : Word → Word} {ask ask' : Nat → State → State}
    {fin fin' : State → State} (hask : ∀ n t, ask' n (t.withErrors b e) = (ask n t).withErrors b e)
    (hfin : ∀ t, fin' (t.withErrors b e) = (fin t).withErrors b e) :
    (s.withErrors b e).trappingForm rd pd eval ask' fin' = (s.trappingForm rd pd eval ask fin).withErrors b e := by
  unfold State.trappingForm
  simp only [State.cf_withErrors, State.upd_withErrors, State.setG_withErrors, State.setP_withErrors, State.trap_withErrors, hfin,
    State.parkInPlace_withErrors, State.fresh_withErrors, hask, State.addWait_withErrors, State.ite_withErrors]
  split <;> rfl

theorem spawnForm_withErrors (t : Bool) (rd : BitVec 6) (pd : BitVec 4) {eval : Word → Word} {ask ask' : Nat → State → State}
    {fin fin' : State → State} (hask : ∀ n t, ask' n (t.withErrors b e) = (ask n t).withErrors b e)
    (hfin : ∀ t, fin' (t.withErrors b e) = (fin t).withErrors b e) :
    spawnForm (s.withErrors b e) t rd pd eval ask' fin' = outWithErrors b e (spawnForm s t rd pd eval ask fin) := by
  unfold spawnForm
  simp [State.trappingForm_withErrors s b e rd pd hask hfin, hask, hfin]

theorem futureOp_withErrors (op : FutOp) (h : Word) (release : Bool) {done : Word → Bool → State → State}
    (hd : ∀ v x t, done v x (State.withErrors t b e) = (done v x t).withErrors b e) :
    futureOp (s.withErrors b e) op h release done = outWithErrors b e (futureOp s op h release done) := by
  unfold futureOp
  by_cases hh : s.askHeld = true
  · simp [hh]
  · cases hr : s.hasRoute (handleModule h) with
    | false => simp [hh, hr, hd]; rfl
    | true =>
      rcases hp : s.cf.reply with _ | _ | _ | _ <;> simp [hh, hr, hp, hd] <;> rfl

theorem g3_withErrors {q : QFlags} (ha : q.qa = false) (hb : q.qb = false) (hd : q.qd = false) (rd ra rb : BitVec 6) (lat : Nat)
    (res : Word → Word → Word) {eff eff' : Word → Word → State → State}
    (heff : ∀ x y t, eff' x y (State.withErrors t b e) = (eff x y t).withErrors b e) :
    g3 (s.withErrors b e) q rd ra rb lat res eff' = outWithErrors b e (g3 s q rd ra rb lat res eff) := by
  simp [g3, g3Trap, queueHeld, g3Acquire, g3Pops, g3Ready, opA, opB, ha, hb, hd, heff]
  rfl

@[simp] theorem windowOp_withErrors (rd : BitVec 6) (x : Word) :
    windowOp (s.withErrors b e) rd x = outWithErrors b e (windowOp s rd x) := by
  simp [windowOp]

@[simp] theorem execGptrOwn_withErrors (rd ra : BitVec 6) :
    execGptrOwn rd ra (s.withErrors b e) = outWithErrors b e (execGptrOwn rd ra s) := by
  simp [execGptrOwn]

@[simp] theorem execGptrBlk_withErrors (rd ra : BitVec 6) :
    execGptrBlk rd ra (s.withErrors b e) = outWithErrors b e (execGptrBlk rd ra s) := by
  simp [execGptrBlk]

@[simp] theorem execGptrIlv_withErrors (rd ra : BitVec 6) :
    execGptrIlv rd ra (s.withErrors b e) = outWithErrors b e (execGptrIlv rd ra s) := by
  simp [execGptrIlv]

@[simp] theorem execGwinCls_withErrors (rd ra : BitVec 6) :
    execGwinCls rd ra (s.withErrors b e) = outWithErrors b e (execGwinCls rd ra s) := by
  simp [execGwinCls]

@[simp] theorem execGwinLoc_withErrors (rd ra : BitVec 6) :
    execGwinLoc rd ra (s.withErrors b e) = outWithErrors b e (execGwinLoc rd ra s) := by
  simp [execGwinLoc]

@[simp] theorem execFence_withErrors (o : Ord) : execFence o (s.withErrors b e) = outWithErrors b e (execFence o s) := by
  unfold execFence
  simp
  split <;> rfl

@[simp] theorem execCgo_withErrors (rd : BitVec 6) : execCgo rd (s.withErrors b e) = outWithErrors b e (execCgo rd s) := by
  unfold execCgo
  simp
  (repeat' split) <;> rfl

@[simp] theorem execCsub_withErrors (rd ra rb : BitVec 6) :
    execCsub rd ra rb (s.withErrors b e) = outWithErrors b e (execCsub rd ra rb s) := by
  simp only [execCsub, State.pg_withErrors, csubTrap_withErrors]
  cases csubTrap s (s.pg ra) (s.pg rb) with
  | some t => simp
  | none =>
    simp
    rfl

@[simp] theorem execCunsub_withErrors (rd ra : BitVec 6) :
    execCunsub rd ra (s.withErrors b e) = outWithErrors b e (execCunsub rd ra s) := by
  unfold execCunsub
  dsimp only
  have ht : (s.withErrors b e).hub.tiles = s.hub.tiles := rfl
  rw [State.pg_withErrors, tagTrap_withErrors, State.cur_withErrors, State.frameTag_withErrors, State.curCore_withErrors, ht]
  cases tagTrap s (s.pg ra) with
  | some t => simp
  | none =>
    generalize (s.hub.tiles.filter (fun t => t.tag == s.frameTag s.cur.fk && t.mtag == (s.pg ra).setWidth 16 &&
      t.cores.any (fun c => c.1 == s.curCore))).map (·.id) = begun
    cases begun with
    | nil => simp
    | cons x xs => simp

@[simp] theorem execXtlbi_withErrors (rt rb rc : BitVec 6) (am : AMode) (off : BitVec 32) :
    execXtlbi rt rb rc am off (s.withErrors b e) = outWithErrors b e (execXtlbi rt rb rc am off s) := by
  unfold execXtlbi
  simp
  (repeat' split) <;> rfl

@[simp] theorem execXtlbiAll_withErrors (rt : BitVec 6) (am : AMode) :
    execXtlbiAll rt am (s.withErrors b e) = outWithErrors b e (execXtlbiAll rt am s) := by
  unfold execXtlbiAll
  simp
  split <;> rfl

@[simp] theorem execGrow_withErrors (rd ra : BitVec 6) (pd : BitVec 4) :
    execGrow rd ra pd (s.withErrors b e) = outWithErrors b e (execGrow rd ra pd s) := by
  simp [execGrow]
  rfl

@[simp] theorem staleHandle_withErrors (h : Word) : staleHandle (s.withErrors b e) h = outWithErrors b e (staleHandle s h) := by
  simp [staleHandle]

@[simp] theorem execJoini_withErrors (rd ra rb : BitVec 6) (prio : BitVec 2) :
    execJoini rd ra rb prio (s.withErrors b e) = outWithErrors b e (execJoini rd ra rb prio s) := by
  unfold execJoini
  dsimp only
  rw [State.pg_withErrors, State.pg_withErrors, State.curCore_withErrors, coreDecode_withErrors]
  cases coreDecode s s.curCore .gen (s.pg ra) 8 with
  | error t => simp
  | ok d =>
    dsimp only
    rw [State.wordPlaces_withErrors, State.hasRoute_withErrors, State.cur_withErrors]
    simp
    rfl

@[simp] theorem execRetire_withErrors  : execRetire (s.withErrors b e) = outWithErrors b e (execRetire s) := by
  simp [execRetire]
@[simp] theorem execWaitw_withErrors  : execWaitw (s.withErrors b e) = outWithErrors b e (execWaitw s) := by
  simp [execWaitw]

@[simp] theorem execWaitm_withErrors (rd : BitVec 6) : execWaitm rd (s.withErrors b e) = outWithErrors b e (execWaitm rd s) := by
  simp [execWaitm]
  rfl

@[simp] theorem execYield_withErrors  : execYield (s.withErrors b e) = outWithErrors b e (execYield s) := by
  simp [execYield]
  rfl

@[simp] theorem execSend_withErrors (ra rb : BitVec 6) (tag : BitVec 8) (sys : Bool) :
    execSend ra rb tag sys (s.withErrors b e) = outWithErrors b e (execSend ra rb tag sys s) := by
  unfold execSend
  simp
  (repeat' split) <;> rfl

@[simp] theorem execTrap_withErrors (fn : BitVec 8) : execTrap fn (s.withErrors b e) = outWithErrors b e (execTrap fn s) := by
  simp [execTrap]
  rfl

@[simp] theorem execEret_withErrors  : execEret (s.withErrors b e) = outWithErrors b e (execEret s) := by
  simp [execEret]
  rfl

@[simp] theorem execCrd_withErrors (rd : BitVec 6) (num : BitVec 12) :
    execCrd rd num (s.withErrors b e) = outWithErrors b e (execCrd rd num s) := by
  simp only [execCrd, crdTrap_withErrors]
  cases crdTrap s num with
  | some t => simp
  | none => by_cases h : crdFree s num.toNat = true <;> simp [h]

@[simp] theorem execCwr_withErrors (ra : BitVec 6) (num : BitVec 12) :
    execCwr ra num (s.withErrors b e) = outWithErrors b e (execCwr ra num s) := by
  unfold execCwr
  simp
  split <;> rfl

@[simp] theorem execFlushi_withErrors (line : Bool) (ra : BitVec 6) :
    execFlushi line ra (s.withErrors b e) = outWithErrors b e (execFlushi line ra s) := by
  unfold execFlushi
  simp
  split <;> rfl

@[simp] theorem execDbrk_withErrors  : execDbrk (s.withErrors b e) = outWithErrors b e (execDbrk s) := by
  simp [execDbrk]
  rfl

@[simp] theorem execHalt_withErrors  : execHalt (s.withErrors b e) = outWithErrors b e (execHalt s) := by
  unfold execHalt
  simp
  (repeat' split) <;> rfl

@[simp] theorem execScrub_withErrors (rd : BitVec 6) (fn : BitVec 3) :
    execScrub rd fn (s.withErrors b e) = outWithErrors b e (execScrub rd fn s) := by
  unfold execScrub
  simp
  split <;> rfl

@[simp] theorem execVcvt_withErrors (dst src : LaneType) (m : Rnd) (su du sat : Bool) (part : BitVec 2) (vd va : BitVec 5) (gp : BitVec 4) :
    execVcvt dst src m su du sat part vd va gp (s.withErrors b e) = outWithErrors b e (execVcvt dst src m su du sat part vd va gp s) := by
  simp [execVcvt]

@[simp] theorem execVdec_withErrors (b1 : Bool) (g : BitVec 5) (x : BitVec 4) (vd va vc : BitVec 5) (gp : BitVec 4) :
    execVdec b1 g x vd va vc gp (s.withErrors b e) = outWithErrors b e (execVdec b1 g x vd va vc gp s) := by
  unfold execVdec
  simp
  split <;> rfl

@[simp] theorem execVenc_withErrors (f19 b1 : Bool) (g : BitVec 5) (x : BitVec 4) (vd va vb vc : BitVec 5) :
    execVenc f19 b1 g x vd va vb vc (s.withErrors b e) = outWithErrors b e (execVenc f19 b1 g x vd va vb vc s) := by
  unfold execVenc
  simp
  split <;> rfl

@[simp] theorem execVquant_withErrors (half : Bool) (h vd va vc : BitVec 5) (gp : BitVec 4) :
    execVquant half h vd va vc gp (s.withErrors b e) = outWithErrors b e (execVquant half h vd va vc gp s) := rfl
@[simp] theorem execVquantInv_withErrors (half : Bool) (h vd va vb vc : BitVec 5) (gp : BitVec 4) :
    execVquantInv half h vd va vb vc gp (s.withErrors b e) = outWithErrors b e (execVquantInv half h vd va vb vc gp s) := rfl

@[simp] theorem execVplaneAlign_withErrors (f19 : Bool) (m : Rnd) (q : BitVec 2) (kind : ByteKind) (vd va vb vc : BitVec 5) :
    execVplaneAlign f19 m q kind vd va vb vc (s.withErrors b e) = outWithErrors b e (execVplaneAlign f19 m q kind vd va vb vc s) := by
  simp [execVplaneAlign]

@[simp] theorem execVunplVal_withErrors (i16 : Bool) (q : BitVec 2) (vd va vb vc : BitVec 5) :
    execVunplVal i16 q vd va vb vc (s.withErrors b e) = outWithErrors b e (execVunplVal i16 q vd va vb vc s) := by
  simp [execVunplVal]

@[simp] theorem eOp_withErrors (i : Instr) (ga gb : Word) (scope : Nat) (token : Bool) :
    eOp (s.withErrors b e) i ga gb scope token = outWithErrors b e (eOp s i ga gb scope token) := by
  unfold eOp
  simp
  (repeat' split) <;> rfl

@[simp] theorem execArel_withErrors  : execArel (s.withErrors b e) = outWithErrors b e (execArel s) := by
  simp [execArel]

@[simp] theorem execAset_withErrors (o : Ord) (t : Bool) (entry : BitVec 4) (p : BitVec 5) (sat skip rm : Bool) :
    execAset o t entry p sat skip rm (s.withErrors b e) = outWithErrors b e (execAset o t entry p sat skip rm s) := by
  simp [execAset]

@[simp] theorem execAldb_withErrors (o : Ord) (t : Bool) (view : View) (ga gb : BitVec 6) (rstr : BitVec 11) (n : BitVec 8)
    (k : BitVec 10) :
    execAldb o t view ga gb rstr n k (s.withErrors b e) = outWithErrors b e (execAldb o t view ga gb rstr n k s) := by
  simp [execAldb]

@[simp] theorem execAstr_withErrors (o : Ord) (t : Bool) (view : View) (ga : BitVec 6) (aoff : BitVec 14) (rstr m : BitVec 11) :
    execAstr o t view ga aoff rstr m (s.withErrors b e) = outWithErrors b e (execAstr o t view ga aoff rstr m s) := by
  simp [execAstr]

@[simp] theorem execAdrn_withErrors (o : Ord) (t : Bool) (view : View) (ga : BitVec 6) (aoff : BitVec 14) (n m : BitVec 8)
    (wd : BitVec 4) (clr tr : Bool) (mode : DrainMode) :
    execAdrn o t view ga aoff n m wd clr tr mode (s.withErrors b e) =
      outWithErrors b e (execAdrn o t view ga aoff n m wd clr tr mode s) := by
  simp [execAdrn]

@[simp] theorem execAzero_withErrors (o : Ord) (t : Bool) (aoff : BitVec 14) (n m : BitVec 8) :
    execAzero o t aoff n m (s.withErrors b e) = outWithErrors b e (execAzero o t aoff n m s) := by
  simp [execAzero]

@[simp] theorem execAmark_withErrors (acq : Bool) (scope : BitVec 3) (tag : BitVec 32) :
    execAmark acq scope tag (s.withErrors b e) = outWithErrors b e (execAmark acq scope tag s) := by
  simp [execAmark]

end
end Sys2Proof.Machine

namespace Sys2Proof.Machine

/-! ## Fewer errors (R428, R429) -/

/-- t is s but for storage errors and their counts, and each error of t is one of s, lasting only where that of s is. -/
def State.Heals (s t : State) : Prop := (∃ b e, t = s.withErrors b e) ∧
  ∀ k x, t.errorAt k = some x → ∃ y, s.errorAt k = some y ∧ (x = true → y = true)

theorem State.Heals.refl (s : State) : s.Heals s := ⟨⟨s.bad, s.hub.errors, rfl⟩, fun _ x hx => ⟨x, hx, id⟩⟩

/-- Of what a function does that reads no errors and changes none. -/
theorem State.Heals.map {s t : State} (h : s.Heals t) {f : State → State}
    (hf : ∀ b e, f (s.withErrors b e) = (f s).withErrors b e) (hb : (f s).bad = s.bad) : (f s).Heals (f t) := by
  obtain ⟨⟨b, e, rfl⟩, hk⟩ := h
  refine ⟨⟨b, e, hf b e⟩, fun k x hx => ?_⟩
  rw [hf] at hx
  have he : (f s).errorAt k = s.errorAt k := by rw [State.errorAt, hb]; rfl
  rw [he]
  exact hk k x hx

theorem State.errorAt_of_bad {s : State} (hb : s.bad = []) (k : Nat) : s.errorAt k = none := by
  simp [State.errorAt, hb, NMap.get?]

/-- An error is lasting as long as its storage is not retried. -/
theorem errorAt_isLasting (o : Option Err) : o.map (· == Err.lasting) = some true ↔ o = some .lasting := by
  rcases o with _ | _ | _ | _ <;> simp

/-! ### The error of a line -/

/-- The error of a line that no slice holds. -/
theorem State.lineError_uncached {s : State} {tag l : Nat} (hc : s.cached tag (64 * l) = none) :
    s.lineError tag l = (s.errorAt (2 ^ 30 + l)).map (fun b => (2 ^ 30 + l, b)) := by
  unfold State.lineError
  split
  · next hb => rw [State.errorAt_of_bad (List.isEmpty_iff.1 hb)]; rfl
  · simp only [hc]

section
variable {s : State} {tag l : Nat} {x : CLine} (hc : s.cached tag (64 * l) = some x)
include hc

/-- The error of a line that a slice holds. -/
theorem State.lineError_cached_none (hs : s.errorAt (sliceKey l) = none) : s.lineError tag l = none := by
  simp [State.lineError, hc, hs]

theorem State.lineError_cached_some {b : Bool} (hs : s.errorAt (sliceKey l) = some b) :
    s.lineError tag l = if x.dirty then some (sliceKey l, b)
      else if s.errorAt (2 ^ 30 + l) = some true then some (2 ^ 30 + l, true) else some (sliceKey l, false) := by
  have hb : s.bad.isEmpty = false := by
    rw [Bool.eq_false_iff]
    intro hb
    rw [State.errorAt_of_bad (List.isEmpty_iff.1 hb)] at hs
    exact Option.some_ne_none b hs.symm
  simp [State.lineError, hc, hs, hb]

end

/-- The storage whose transient error a read of a line corrects. -/
def State.lineKey (s : State) (tag l : Nat) : Nat := if (s.cached tag (64 * l)).isSome then sliceKey l else 2 ^ 30 + l

/-- A correctable error of a line is that of its storage. -/
theorem State.lineError_key {s : State} {tag l key : Nat} (hl : s.lineError tag l = some (key, false)) : key = s.lineKey tag l := by
  rcases hc : s.cached tag (64 * l) with _ | x
  · rw [State.lineError_uncached hc] at hl
    obtain ⟨b, -, hb⟩ := Option.map_eq_some_iff.1 hl
    simpa [State.lineKey, hc] using (Prod.mk.inj hb).1.symm
  · rcases he : s.errorAt (sliceKey l) with _ | b
    · rw [State.lineError_cached_none hc he] at hl
      simp at hl
    · rw [State.lineError_cached_some hc he] at hl
      have hk : s.lineKey tag l = sliceKey l := by simp [State.lineKey, hc]
      rw [hk]
      split at hl
      · exact (Prod.mk.inj (Option.some.inj hl)).1.symm
      · split at hl
        · exact absurd (Prod.mk.inj (Option.some.inj hl)).2 (by decide)
        · exact (Prod.mk.inj (Option.some.inj hl)).1.symm

/-- A line without an error has none in its storage. -/
theorem State.errorAt_lineKey {s : State} {tag l : Nat} (hl : s.lineError tag l = none) : s.errorAt (s.lineKey tag l) = none := by
  rcases hc : s.cached tag (64 * l) with _ | x
  · rw [State.lineError_uncached hc] at hl
    simpa [State.lineKey, hc] using Option.map_eq_none_iff.1 hl
  · have hk : s.lineKey tag l = sliceKey l := by simp [State.lineKey, hc]
    rw [hk]
    rcases he : s.errorAt (sliceKey l) with _ | b
    · rfl
    · rw [State.lineError_cached_some hc he] at hl
      split at hl
      · simp at hl
      · split at hl <;> simp at hl

section
variable {s t : State} (h : s.Heals t)
include h

theorem State.Heals.errorAt_true {k : Nat} (hk : t.errorAt k = some true) : s.errorAt k = some true := by
  obtain ⟨y, hy, hxy⟩ := h.2 k true hk
  rw [hy, hxy rfl]

theorem State.Heals.cached (tag pa : Nat) : t.cached tag pa = s.cached tag pa := by
  obtain ⟨⟨b, e, rfl⟩, -⟩ := h
  rfl

/-- The error that a read of a line meets was met before, and was lasting if it is. -/
theorem State.Heals.lineError {tag l : Nat} {y : Nat × Bool} (ht : t.lineError tag l = some y) :
    ∃ z, s.lineError tag l = some z ∧ (y.2 = true → z.2 = true) := by
  rcases hc : s.cached tag (64 * l) with _ | x
  · rw [State.lineError_uncached ((h.cached tag (64 * l)).trans hc)] at ht
    obtain ⟨a, ha, rfl⟩ := Option.map_eq_some_iff.1 ht
    obtain ⟨c, hcs, hac⟩ := h.2 _ a ha
    exact ⟨(2 ^ 30 + l, c), by rw [State.lineError_uncached hc, hcs]; rfl, hac⟩
  · have hct := (h.cached tag (64 * l)).trans hc
    rcases ha : t.errorAt (sliceKey l) with _ | a
    · rw [State.lineError_cached_none hct ha] at ht
      simp at ht
    · obtain ⟨c, hcs, hac⟩ := h.2 _ a ha
      rw [State.lineError_cached_some hct ha] at ht
      rw [State.lineError_cached_some hc hcs]
      split at ht
      · next hd =>
        rw [if_pos hd, ← Option.some.inj ht]
        exact ⟨_, rfl, hac⟩
      · next hd =>
        rw [if_neg hd]
        split at ht
        · next hl =>
          rw [if_pos (h.errorAt_true hl)]
          exact ⟨_, rfl, fun _ => rfl⟩
        · rw [← Option.some.inj ht]
          split
          · exact ⟨_, rfl, fun _ => rfl⟩
          · exact ⟨_, rfl, id⟩

theorem State.Heals.lineKey (tag l : Nat) : t.lineKey tag l = s.lineKey tag l := by
  unfold State.lineKey
  rw [h.cached]

end

/-! ### A read of device memory -/

/-- The lines of n bytes from an address. -/
def linesOf (pa n : Nat) : List Nat := rangeFrom (pa / 64) ((pa + n - 1) / 64 - pa / 64 + 1)

/-- The first error of the lines of a read. -/
def State.headError (s : State) (tag pa n : Nat) : Option (Nat × Bool) := (linesOf pa n).findSome? (s.lineError tag)

/-- A read whose lines have no lasting error corrects the first error that it meets. -/
theorem State.deviceSound_true {s : State} {tag : BitVec 10} {pa n va : Nat} (h : (s.deviceSound tag pa n va).2 = true) :
    (∀ l ∈ linesOf pa n, ∀ k, s.lineError tag.toNat l ≠ some (k, true)) ∧
    ((∃ key, s.headError tag.toNat pa n = some (key, false) ∧ (s.deviceSound tag pa n va).1 = s.transient (paChannel pa / 128) key) ∨
      s.headError tag.toNat pa n = none ∧ (s.deviceSound tag pa n va).1 = s) := by
  have hfind : ((linesOf pa n).filterMap (s.lineError tag.toNat)).find? (·.2) = none := by
    rcases hf : ((linesOf pa n).filterMap (s.lineError tag.toNat)).find? (·.2) with _ | ⟨k, b⟩
    · exact hf
    · have hb : b = true := by simpa using List.find?_some hf
      have hd : s.deviceError tag.toNat pa n = some (k, true) := by
        rw [← hb]
        exact congrArg (Option.or · _) hf
      simp [State.deviceSound, hd] at h
  have hd : s.deviceError tag.toNat pa n = s.headError tag.toNat pa n := by
    refine (congrArg (Option.or · _) hfind).trans ?_
    exact List.head?_filterMap
  have hlast : ∀ l ∈ linesOf pa n, ∀ k, s.lineError tag.toNat l ≠ some (k, true) := fun l hl k hk =>
    absurd (List.find?_eq_none.1 hfind (k, true) (List.mem_filterMap.2 ⟨l, hl, hk⟩)) (by simp)
  refine ⟨hlast, ?_⟩
  rcases hk : s.headError tag.toNat pa n with _ | ⟨key, b⟩
  · exact .inr ⟨rfl, by simp [State.deviceSound, hd, hk]⟩
  · cases b with
    | false => exact .inl ⟨key, rfl, by simp [State.deviceSound, hd, hk]⟩
    | true =>
      obtain ⟨x, hx, hxe⟩ := List.exists_of_findSome?_eq_some hk
      exact absurd hxe (hlast x hx key)

theorem State.deviceSound_false {s : State} {tag : BitVec 10} {pa n va : Nat} (h : (s.deviceSound tag pa n va).2 = false) :
    ∃ l ∈ linesOf pa n, ∃ k, s.lineError tag.toNat l = some (k, true) := by
  rcases hd : s.deviceError tag.toNat pa n with _ | ⟨k, b⟩
  · simp [State.deviceSound, hd] at h
  · cases b with
    | false => simp [State.deviceSound, hd] at h
    | true =>
      have hm : (k, true) ∈ (linesOf pa n).filterMap (s.lineError tag.toNat) := by
        rcases Option.or_eq_some_iff.1 hd with hf | ⟨-, hh⟩
        · exact List.mem_of_find?_eq_some hf
        · exact List.mem_of_head? hh
      obtain ⟨l, hl, hk⟩ := List.mem_filterMap.1 hm
      exact ⟨l, hl, k, hk⟩

theorem State.errorAt_transient (s : State) (die key k : Nat) :
    (s.transient die key).errorAt k = if k = key then none else s.errorAt k := by
  have h : (s.transient die key).bad = s.bad.del key := rfl
  rw [State.errorAt, h, NMap.get?_del]
  split <;> rfl

section
variable {s t : State} (h : s.Heals t)
include h

/-- Where s corrects the first error of a read, t has none there after the read. -/
theorem State.Heals.errorAt_head {tag : BitVec 10} {pa n va key : Nat} (ht : (t.deviceSound tag pa n va).2 = true)
    (hk : s.headError tag.toNat pa n = some (key, false)) : (t.deviceSound tag pa n va).1.errorAt key = none := by
  obtain ⟨A, l, B, hL, hl, hA⟩ := List.findSome?_eq_some_iff.1 hk
  have hkey : key = t.lineKey tag.toNat l := (State.lineError_key hl).trans (h.lineKey _ _).symm
  have hAt : ∀ x ∈ A, t.lineError tag.toNat x = none := fun x hx => by
    rcases hx' : t.lineError tag.toNat x with _ | y
    · rfl
    · obtain ⟨z, hz, -⟩ := h.lineError hx'
      rw [hA x hx] at hz
      simp at hz
  obtain ⟨hlast, hread⟩ := State.deviceSound_true ht
  rcases htl : t.lineError tag.toNat l with _ | ⟨k, b⟩
  · have h0 : t.errorAt key = none := hkey ▸ State.errorAt_lineKey htl
    rcases hread with ⟨k1, -, h1⟩ | ⟨-, h1⟩
    · rw [h1, State.errorAt_transient, h0, ite_self]
    · rw [h1, h0]
  · cases b with
    | true => exact absurd htl (hlast l (hL ▸ by simp) k)
    | false =>
      have hh : t.headError tag.toNat pa n = some (k, false) := List.findSome?_eq_some_iff.2 ⟨A, l, B, hL, htl, hAt⟩
      rcases hread with ⟨k1, hk1, h1⟩ | ⟨hn, -⟩
      · rw [hh] at hk1
        have hkk : key = k1 := hkey.trans ((State.lineError_key htl).symm.trans (Prod.mk.inj (Option.some.inj hk1)).1)
        rw [h1, State.errorAt_transient, if_pos hkk]
      · rw [hh] at hn
        simp at hn

omit h in
/-- A read corrects errors, and brings none. -/
theorem State.deviceSound_errors {tag : BitVec 10} {pa n va : Nat} (hs : (s.deviceSound tag pa n va).2 = true) :
    (∃ b e, (s.deviceSound tag pa n va).1 = s.withErrors b e) ∧
    ∀ k x, (s.deviceSound tag pa n va).1.errorAt k = some x → s.errorAt k = some x := by
  rcases (State.deviceSound_true hs).2 with ⟨key, -, h1⟩ | ⟨-, h1⟩
  · rw [h1]
    refine ⟨⟨_, _, rfl⟩, fun k x hx => ?_⟩
    rw [State.errorAt_transient] at hx
    split at hx
    · simp at hx
    · exact hx
  · rw [h1]
    exact ⟨⟨s.bad, s.hub.errors, rfl⟩, fun _ _ hx => hx⟩

/-- A read that a state with more errors survives leaves fewer errors here too. -/
theorem State.Heals.deviceSound {tag : BitVec 10} {pa n va : Nat} (hs : (s.deviceSound tag pa n va).2 = true) :
    (t.deviceSound tag pa n va).2 = true ∧ (s.deviceSound tag pa n va).1.Heals (t.deviceSound tag pa n va).1 := by
  obtain ⟨hlast, hread⟩ := State.deviceSound_true hs
  have ht : (t.deviceSound tag pa n va).2 = true := by
    rw [← Bool.not_eq_false]
    intro hf
    obtain ⟨l, hl, k, hk⟩ := State.deviceSound_false hf
    obtain ⟨⟨k', b'⟩, hz, hb⟩ := h.lineError hk
    exact hlast l hl k' (by rw [hz, show b' = true from hb rfl])
  obtain ⟨⟨b1, e1, hb1⟩, -⟩ := State.deviceSound_errors hs
  obtain ⟨⟨b2, e2, hb2⟩, htk⟩ := State.deviceSound_errors ht
  obtain ⟨b, e, hbe⟩ := h.1
  refine ⟨ht, ⟨b2, e2, by rw [hb1, hb2, hbe]; rfl⟩, fun k x hx => ?_⟩
  obtain ⟨y, hy, hxy⟩ := h.2 k x (htk k x hx)
  refine ⟨y, ?_, hxy⟩
  rcases hread with ⟨key, hkey, h1⟩ | ⟨-, h1⟩
  · rw [h1, State.errorAt_transient]
    split
    · next hk =>
      rw [hk, h.errorAt_head ht hkey] at hx
      simp at hx
    · exact hy
  · rw [h1, hy]

end

/-! ### The caches of device memory -/

/-- The errors after a line has left its slice. -/
theorem State.errorAt_leaveSlice (s : State) (ch : Nat) (l : CLine) (k : Nat) : (s.leaveSlice ch l).errorAt k =
    if k = 2 ^ 30 + s.lineNumber ch l ∧ l.dirty = true ∧ s.errorAt (sliceKey (s.lineNumber ch l)) = some true then some true
    else if k = sliceKey (s.lineNumber ch l) then none else s.errorAt k := by
  have hp : (l.dirty && s.bad.get? (sliceKey (s.lineNumber ch l)) == some .lasting) = true ↔
      l.dirty = true ∧ s.errorAt (sliceKey (s.lineNumber ch l)) = some true := by
    rw [Bool.and_eq_true, beq_iff_eq, State.errorAt, errorAt_isLasting]
  have hdel : (s.bad.del (sliceKey (s.lineNumber ch l))).get? k =
      if k = sliceKey (s.lineNumber ch l) then none else s.bad.get? k := NMap.get?_del _ _ _
  unfold State.leaveSlice
  dsimp only
  rw [State.errorAt]
  by_cases hd : (l.dirty && s.bad.get? (sliceKey (s.lineNumber ch l)) == some .lasting) = true
  · rw [if_pos hd, NMap.get?_put]
    by_cases hk : k = 2 ^ 30 + s.lineNumber ch l
    · rw [if_pos hk, if_pos ⟨hk, hp.1 hd⟩]
      rfl
    · rw [if_neg hk, if_neg (fun hc => hk hc.1), hdel]
      split <;> rfl
  · rw [if_neg hd, if_neg (fun hc => hd (hp.2 hc.2)), hdel]
    split <;> rfl

theorem State.Heals.leaveSlice {s t : State} (h : s.Heals t) (ch : Nat) (l : CLine) : (s.leaveSlice ch l).Heals (t.leaveSlice ch l) := by
  obtain ⟨b, e, hbe⟩ := h.1
  have hn : t.lineNumber ch l = s.lineNumber ch l := by rw [hbe]; rfl
  refine ⟨⟨(t.leaveSlice ch l).bad, e, by rw [hbe]; rfl⟩, fun k x hx => ?_⟩
  rw [State.errorAt_leaveSlice, hn] at hx
  rw [State.errorAt_leaveSlice]
  split at hx
  · next hc =>
    rw [if_pos ⟨hc.1, hc.2.1, h.errorAt_true hc.2.2⟩]
    exact ⟨true, rfl, fun _ => rfl⟩
  · split at hx
    · simp at hx
    · next hk =>
      obtain ⟨y, hy, hxy⟩ := h.2 k x hx
      split
      · exact ⟨true, rfl, fun _ => rfl⟩
      · exact ⟨y, hy, hxy⟩

theorem State.leaveSlice_of_bad {s : State} (hb : s.bad = []) (ch : Nat) (l : CLine) : s.leaveSlice ch l = s := by
  cases s
  simp [State.leaveSlice, NMap.del] at hb ⊢
  simp [hb, NMap.get?]

/-- What a cacheable miss evicts. -/
theorem State.evict_eq (s : State) (tag pa : Nat) (c : Bool) : s.evict tag pa c =
    if (!c || (s.cached tag pa).isSome) = true then s
    else ((s.geyser (paChannel pa)).victim (s.cacheIndex tag pa).1).elim s (s.leaveSlice (paChannel pa)) := by
  unfold State.evict
  by_cases hb : s.bad.isEmpty = true
  · rw [if_pos (by simp [hb])]
    split
    · rfl
    · cases (s.geyser (paChannel pa)).victim (s.cacheIndex tag pa).1 with
      | none => rfl
      | some l => exact (State.leaveSlice_of_bad (List.isEmpty_iff.1 hb) _ _).symm
  · simp only [hb, Bool.false_or]
    split
    · rfl
    · cases (s.geyser (paChannel pa)).victim (s.cacheIndex tag pa).1 <;> rfl

theorem State.Heals.evict {s t : State} (h : s.Heals t) (tag pa : Nat) (c : Bool) : (s.evict tag pa c).Heals (t.evict tag pa c) := by
  obtain ⟨b, e, hbe⟩ := h.1
  have hg : t.geyser (paChannel pa) = s.geyser (paChannel pa) := by rw [hbe]; rfl
  have hi : t.cacheIndex tag pa = s.cacheIndex tag pa := by rw [hbe]; rfl
  rw [State.evict_eq, State.evict_eq, h.cached, hg, hi]
  split
  · exact h
  · cases (s.geyser (paChannel pa)).victim (s.cacheIndex tag pa).1 with
    | none => exact h
    | some l => exact h.leaveSlice _ l

theorem State.Heals.updGeyser {s t : State} (h : s.Heals t) (ch : Nat) (g : Geyser → Geyser) :
    (s.updGeyser ch g).Heals (t.updGeyser ch g) :=
  h.map (f := fun u => u.updGeyser ch g) (fun _ _ => rfl) rfl

theorem State.Heals.cacheTouch {s t : State} (h : s.Heals t) (tag pa : Nat) (c w : Bool) :
    (s.cacheTouch tag pa c w).Heals (t.cacheTouch tag pa c w) := by
  unfold State.cacheTouch
  have he := h.evict tag pa c
  generalize s.evict tag pa c = s1 at he ⊢
  generalize t.evict tag pa c = t1 at he ⊢
  have hg : t1.geyser (paChannel pa) = s1.geyser (paChannel pa) := by obtain ⟨⟨b, e, rfl⟩, -⟩ := he; rfl
  have hi : t1.cacheIndex tag pa = s1.cacheIndex tag pa := by obtain ⟨⟨b, e, rfl⟩, -⟩ := he; rfl
  have hd : t1.dev = s1.dev := by obtain ⟨⟨b, e, rfl⟩, -⟩ := he; rfl
  dsimp only
  rw [hg, hi, hd]
  split
  · exact he.updGeyser _ _
  · split
    · exact he.updGeyser _ _
    · exact he

/-! ### The walk (R84) -/

/-- The write of a table entry that sets its A and D. -/
theorem State.Heals.setEntry {s t : State} (h : s.Heals t) (tag ea : Nat) (x : Word) :
    State.Heals { s.cacheTouch tag ea true true with dev := (s.cacheTouch tag ea true true).dev.setDword ea x }
      { t.cacheTouch tag ea true true with dev := (t.cacheTouch tag ea true true).dev.setDword ea x } :=
  (h.cacheTouch tag ea true true).map (f := fun u => { u with dev := u.dev.setDword ea x }) (fun _ _ => rfl) rfl

theorem State.Heals.walkLeaf {s t : State} (h : s.Heals t) (tag va : Nat) (write quiet : Bool) (level ea pte : Nat) :
    (walkLeaf s tag va write quiet level ea pte).1.Heals (walkLeaf t tag va write quiet level ea pte).1 ∧
    (walkLeaf t tag va write quiet level ea pte).2 = (walkLeaf s tag va write quiet level ea pte).2 := by
  have hi (pa : Nat) : t.insidePart tag pa = s.insidePart tag pa := by obtain ⟨⟨b, e, rfl⟩, -⟩ := h; rfl
  have h1 (x : Word) := h.setEntry tag ea x
  unfold Machine.walkLeaf
  dsimp only
  generalize (pte ||| 32 ||| (if write = true then 64 else 0)) = want
  simp only [hi]
  split
  · exact ⟨h, rfl⟩
  split
  · exact ⟨h, rfl⟩
  split
  · exact ⟨h, rfl⟩
  by_cases hw : want = pte ∨ quiet = true
  · simp only [if_pos hw]
    (repeat' split) <;> exact ⟨h, rfl⟩
  · simp only [if_neg hw]
    (repeat' split) <;> exact ⟨h1 _, rfl⟩

/-- A walk that a state with more errors ends goes the same way here. -/
theorem State.Heals.walkFrom {tag va : Nat} {write quiet : Bool} (n : Nat) : ∀ {s t : State} {table level : Nat}, s.Heals t →
    (walkFrom s tag va write quiet table level n).2 ≠ .ecc →
    (walkFrom s tag va write quiet table level n).1.Heals (walkFrom t tag va write quiet table level n).1 ∧
    (walkFrom t tag va write quiet table level n).2 = (walkFrom s tag va write quiet table level n).2 := by
  induction n with
  | zero => exact fun h _ => ⟨h, rfl⟩
  | succ n ih =>
    intro s t table level h hne
    have hi (pa : Nat) : t.insidePart tag pa = s.insidePart tag pa := by obtain ⟨⟨b, e, rfl⟩, -⟩ := h; rfl
    have hd : t.dev = s.dev := by obtain ⟨⟨b, e, rfl⟩, -⟩ := h; rfl
    unfold Machine.walkFrom at hne ⊢
    simp only [hi, hd] at hne ⊢
    by_cases hin : s.insidePart tag (table + 8 * walkIndex va level) = true
    · simp only [hin, if_true] at hne ⊢
      by_cases hs : (s.deviceSound (BitVec.ofNat 10 tag) (table + 8 * walkIndex va level) 8 va).2 = true
      · obtain ⟨ht, h1⟩ := h.deviceSound hs
        simp only [hs, ht, Bool.not_true, Bool.false_eq_true, if_false] at hne ⊢
        have h2 := h1.cacheTouch tag (table + 8 * walkIndex va level) true false
        generalize s.dev.readLE (table + 8 * walkIndex va level) 8 = pte at hne ⊢
        by_cases hres : natBits pte 7 9 ≠ 0 ∨ natBits pte 52 12 ≠ 0
        · simp only [if_pos hres]
          exact ⟨h2, trivial⟩
        by_cases hp : (!pteBit pte 0) = true
        · simp only [if_neg hres, if_pos hp]
          exact ⟨h2, trivial⟩
        by_cases hleaf : (!pteBit pte 2) = true
        · by_cases hl : level = 2
          · simp only [if_neg hres, if_neg hp, if_pos hleaf, if_pos hl]
            exact ⟨h2, trivial⟩
          · simp only [if_neg hres, if_neg hp, if_pos hleaf, if_neg hl] at hne ⊢
            exact ih h2 hne
        · simp only [if_neg hres, if_neg hp, if_neg hleaf]
          exact h2.walkLeaf _ _ _ _ _ _ _
      · simp [hs] at hne
    · simp [hin, h]

theorem State.Heals.walk {s t : State} (h : s.Heals t) {tag va : Nat} {write quiet : Bool} (hne : (s.walk tag va write quiet).2 ≠ .ecc) :
    (s.walk tag va write quiet).1.Heals (t.walk tag va write quiet).1 ∧
    (t.walk tag va write quiet).2 = (s.walk tag va write quiet).2 := by
  have hp : t.part tag = s.part tag := by obtain ⟨⟨b, e, rfl⟩, -⟩ := h; rfl
  unfold State.walk at hne ⊢
  rw [hp]
  exact State.Heals.walkFrom 3 h hne

end Sys2Proof.Machine

namespace Sys2Proof.Machine

/-! ### Translation (R84 to R86, R263) -/

theorem State.reportIsol_bad (s : State) (agent tag : Nat) (w : WalkEnd) : (s.reportIsol agent tag w).bad = s.bad := by
  unfold State.reportIsol State.refuse
  dsimp only
  split
  · split <;> rfl
  · rfl

theorem State.Heals.reportIsol {s t : State} (h : s.Heals t) (agent tag : Nat) (w : WalkEnd) :
    (s.reportIsol agent tag w).Heals (t.reportIsol agent tag w) :=
  h.map (f := fun u => u.reportIsol agent tag w) (fun b e => State.reportIsol_withErrors s b e agent tag w) (s.reportIsol_bad agent tag w)

/-- A translation that a state with more errors ends goes the same way here. -/
theorem State.Heals.translate {s t : State} (h : s.Heals t) {ch tag va : Nat} {write : Bool}
    (hne : (s.translate ch tag va write).2 ≠ .error .ecc) :
    (s.translate ch tag va write).1.Heals (t.translate ch tag va write).1 ∧
    (t.translate ch tag va write).2 = (s.translate ch tag va write).2 := by
  have hg : t.geyser ch = s.geyser ch := by obtain ⟨⟨b, e, rfl⟩, -⟩ := h; rfl
  have hi (pa : Nat) : t.insidePart tag pa = s.insidePart tag pa := by obtain ⟨⟨b, e, rfl⟩, -⟩ := h; rfl
  unfold State.translate at hne ⊢
  simp only [hg, hi] at hne ⊢
  cases hf : (s.geyser ch).gtlb.find? (fun e => gtlbMatch e tag va && !e.invalid && (!write || (e.wr && e.d))) with
  | some e =>
    simp only
    generalize (if e.block = true then va % 2 ^ 29 else va % 2 ^ 16) = off
    split
    · exact ⟨h, rfl⟩
    · exact ⟨h.reportIsol (2 ^ 20 + ch) tag (.bad 5), rfl⟩
  | none =>
    simp only [hf] at hne ⊢
    have hw : (s.walk tag va write false).2 ≠ .ecc := fun he => by simp [he] at hne
    obtain ⟨hwalk, heq⟩ := h.walk hw
    generalize s.walk tag va write false = r at *
    generalize t.walk tag va write false = r' at *
    obtain ⟨u, x⟩ := r
    obtain ⟨u', x'⟩ := r'
    obtain rfl : x' = x := heq
    have hg' : u'.geyser ch = u.geyser ch := by obtain ⟨⟨b, e, hb⟩, -⟩ := hwalk; rw [show u' = _ from hb]; rfl
    have hfr : u'.fresh.1 = u.fresh.1 := by obtain ⟨⟨b, e, hb⟩, -⟩ := hwalk; rw [show u' = _ from hb]; rfl
    cases x' with
    | ok addr host c wr d block =>
      simp only [hg', hfr]
      generalize (if block = true then 2 ^ 29 else 2 ^ 16) = size
      split
      · refine ⟨?_, rfl⟩
        dsimp only
        exact State.Heals.updGeyser (s := u.fresh.2) (t := u'.fresh.2)
          (hwalk.map (f := fun v => v.fresh.2) (fun _ _ => rfl) rfl) ch _
      · exact ⟨hwalk, rfl⟩
    | ecc => exact absurd rfl hw
    | full => exact ⟨hwalk.reportIsol (2 ^ 20 + ch) tag .full, rfl⟩
    | notPresent => exact ⟨hwalk.reportIsol (2 ^ 20 + ch) tag .notPresent, rfl⟩
    | notWritable => exact ⟨hwalk.reportIsol (2 ^ 20 + ch) tag .notWritable, rfl⟩
    | bad code => exact ⟨hwalk.reportIsol (2 ^ 20 + ch) tag (.bad code), rfl⟩

/-- The place of an external address with other errors in the state of a wait. -/
def XAddr.withErrors (b : NMap Err) (e : NMap Errors) : XAddr → XAddr
  | .wait s => .wait (s.withErrors b e)
  | x => x

theorem State.xWait_withErrors (s : State) (b : NMap Err) (e : NMap Errors) (code : Nat) :
    (s.withErrors b e).xWait code = (s.xWait code).withErrors b e := rfl

theorem State.xHost_withErrors (s : State) (b : NMap Err) (e : NMap Errors) (t : Trans) (write : Bool) :
    (s.withErrors b e).xHost t write = (s.xHost t write).withErrors b e := by
  simp only [State.xHost, State.pageFailed_withErrors, State.hostCanWrite_withErrors, State.curTag_withErrors,
    State.hostReady_withErrors, State.cur_withErrors, State.askAts_withErrors, State.xWait_withErrors]
  cases s.pageFailed true t.addr with
  | some code =>
    simp only
    split <;> rfl
  | none =>
    simp only
    rw [apply_ite (XAddr.withErrors b e), apply_ite (XAddr.withErrors b e)]
    rfl

/-- The translation of an external address waits in place, or goes the same way where there are fewer errors. -/
theorem State.Heals.xTranslate {s t : State} (h : s.Heals t) (va : Word) (write : Bool) :
    (∃ u : State, (s.xTranslate va write).2 = .wait u.parkInPlace) ∨
    (s.xTranslate va write).1.Heals (t.xTranslate va write).1 ∧
      ∃ b e, (t.xTranslate va write).2 = ((s.xTranslate va write).2).withErrors b e := by
  have hxh (b : NMap Err) (e : NMap Errors) := s.xHost_withErrors b e
  unfold State.xTranslate
  split
  · obtain ⟨⟨b, e, rfl⟩, -⟩ := id h
    exact .inr ⟨h, b, e, hxh b e _ _⟩
  · have hp : t.pageFailed false (va.toNat % 2 ^ 56) = s.pageFailed false (va.toNat % 2 ^ 56) := by
      obtain ⟨⟨b, e, rfl⟩, -⟩ := h; rfl
    have hch : t.curChannel = s.curChannel := by obtain ⟨⟨b, e, rfl⟩, -⟩ := h; rfl
    have htag : t.curTag = s.curTag := by obtain ⟨⟨b, e, rfl⟩, -⟩ := h; rfl
    have hcur : t.cur = s.cur := by obtain ⟨⟨b, e, rfl⟩, -⟩ := h; rfl
    dsimp only
    rw [hp, hch, htag, hcur]
    cases s.pageFailed false (va.toNat % 2 ^ 56) with
    | some code => exact .inr ⟨h, s.bad, s.hub.errors, rfl⟩
    | none =>
      dsimp only
      have htr := h.translate (ch := s.curChannel) (tag := s.curTag) (va := va.toNat % 2 ^ 56) (write := write)
      generalize s.translate s.curChannel s.curTag (va.toNat % 2 ^ 56) write = r at *
      generalize t.translate s.curChannel s.curTag (va.toNat % 2 ^ 56) write = r' at *
      obtain ⟨u, x⟩ := r
      obtain ⟨u', x'⟩ := r'
      by_cases hx : x = .error .ecc
      · subst hx
        exact .inl ⟨_, rfl⟩
      · obtain ⟨hu, heq⟩ := htr hx
        obtain rfl : x' = x := heq
        obtain ⟨b, e, hb⟩ := hu.1
        obtain rfl : u' = u.withErrors b e := hb
        right
        cases x' with
        | ok y =>
          refine ⟨hu, b, e, ?_⟩
          dsimp only
          rw [State.xHost_withErrors]
          split <;> rfl
        | error w =>
          cases w with
          | full => exact ⟨hu, b, e, rfl⟩
          | ecc => exact absurd rfl hx
          | _ =>
            dsimp only
            rw [State.canRequestPage_withErrors]
            split
            · exact ⟨hu, b, e, rfl⟩
            · exact ⟨hu, b, e, rfl⟩


/-! ### XPUSH and the external accesses (R263 to R266) -/

theorem State.xCharge_bad (s : State) (i n : Nat) : (s.xCharge i n).1.bad = s.bad := by
  unfold State.xCharge
  dsimp only
  split
  · rfl
  · split <;> rfl

theorem State.Heals.xCharge {s t : State} (h : s.Heals t) (i n : Nat) :
    (s.xCharge i n).1.Heals (t.xCharge i n).1 ∧ (t.xCharge i n).2 = (s.xCharge i n).2 := by
  refine ⟨h.map (f := fun u => (u.xCharge i n).1) (fun b e => by simp) (s.xCharge_bad i n), ?_⟩
  obtain ⟨⟨b, e, rfl⟩, -⟩ := h
  simp

/-- The translation of the pieces of a tile waits in place, or goes the same way where there are fewer errors. -/
theorem State.Heals.pushFrom (row : Word → Nat → Word) (va : Word) (rowb : Nat) (ps : List (Nat × Nat × Nat)) :
    ∀ {s t : State} (i : Nat), s.Heals t →
    (∃ u : State, (pushFrom row s va rowb i ps).2 = .error (.wait u.parkInPlace)) ∨
    (∃ b e, (pushFrom row t va rowb i ps).1 = (pushFrom row s va rowb i ps).1.withErrors b e) ∧
      ∃ b e, (pushFrom row t va rowb i ps).2 = (pushFrom row s va rowb i ps).2.mapError (XAddr.withErrors b e) := by
  induction ps with
  | nil => exact fun i h => .inr ⟨h.1, [], [], rfl⟩
  | cons p ps ih =>
    intro s t i h
    obtain ⟨r, off, len⟩ := p
    obtain ⟨hc, hc2⟩ := h.xCharge i len
    have hch : t.curChannel = s.curChannel := by obtain ⟨⟨b, e, rfl⟩, -⟩ := h; rfl
    have hats (a : Nat) : t.atsEntry t.curTag a = s.atsEntry s.curTag a := by obtain ⟨⟨b, e, rfl⟩, -⟩ := h; rfl
    unfold Machine.pushFrom
    dsimp only
    rw [hc2]
    generalize s.xCharge i len = c at *
    generalize t.xCharge i len = c' at *
    by_cases hb : (!c.2) = true
    · rw [if_pos hb, if_pos hb]
      exact .inl ⟨_, rfl⟩
    · rw [if_neg hb, if_neg hb]
      rcases hc.xTranslate (row va (r * rowb + off)) false with ⟨u, hu⟩ | ⟨hx, b, e, hxe⟩
      · left
        generalize c.1.xTranslate (row va (r * rowb + off)) false = x at *
        obtain ⟨s1, x⟩ := x
        obtain rfl : x = .wait u.parkInPlace := hu
        exact ⟨u, rfl⟩
      · generalize c.1.xTranslate (row va (r * rowb + off)) false = x at *
        generalize c'.1.xTranslate (row va (r * rowb + off)) false = x' at *
        obtain ⟨s1, x⟩ := x
        obtain ⟨t1, x'⟩ := x'
        obtain rfl : x' = x.withErrors b e := hxe
        obtain ⟨b1, e1, hb1⟩ := id hx.1
        obtain rfl : t1 = s1.withErrors b1 e1 := hb1
        cases x with
        | at_ t0 =>
          dsimp only [XAddr.withErrors]
          rw [hch, hats]
          have hf : s1.fresh.2.Heals (s1.withErrors b1 e1).fresh.2 := State.Heals.map hx (f := fun v => v.fresh.2) (fun _ _ => rfl) rfl
          rcases ih (i + 1) hf with ⟨u, hu⟩ | ⟨h1, b2, e2, h2⟩
          · exact .inl ⟨u, by rw [hu]; rfl⟩
          · refine .inr ⟨h1, b2, e2, ?_⟩
            rw [h2]
            cases (Machine.pushFrom row s1.fresh.2 va rowb (i + 1) ps).2 <;> rfl
        | trap code => exact .inr ⟨⟨b1, e1, State.trap_withErrors _ _ _ _⟩, b, e, rfl⟩
        | hostErr => exact .inr ⟨⟨b1, e1, State.xHostErr_withErrors _ _ _ _ _ _ _⟩, b, e, rfl⟩
        | wait w => exact .inr ⟨⟨b1, e1, rfl⟩, b, e, rfl⟩

/-! ## Outcomes with fewer errors -/

/-- An outcome o waits in place, or o' is o but for errors, or both leave the thread in issue alive. -/
def Parallel (o o' : Out) : Prop :=
  (∃ u : State, o = .next u.parkInPlace) ∨ (∃ b e, o' = outWithErrors b e o) ∨ ∃ u' : State, o' = .next u' ∧ u'.cur.stopped = false

theorem Parallel.withErrors {o o' : Out} (b : NMap Err) (e : NMap Errors) (h : o' = outWithErrors b e o) :
    Parallel o o' := .inr (.inl ⟨b, e, h⟩)

theorem Parallel.ite {c : Prop} [Decidable c] {o o' p p' : Out} (h : Parallel o o') (h' : ¬ c → Parallel p p') :
    Parallel (if c then o else p) (if c then o' else p') := by
  by_cases hc : c
  · rwa [if_pos hc, if_pos hc]
  · rw [if_neg hc, if_neg hc]
    exact h' hc

section
variable {s t : State} (h : s.Heals t)
include h

/-- XLD and XST. -/
theorem State.Heals.xAccess (op : AccOp) (am : AMode) (sum : Word) (n : Nat) (data : Word) (dst : Option Nat) (o : Ord) :
    Parallel (xAccess s op am sum n data dst o) (xAccess t op am sum n data dst o) := by
  obtain ⟨hc, hc2⟩ := h.xCharge 0 n
  obtain ⟨b, e, hbe⟩ := id h.1
  obtain rfl : t = s.withErrors b e := hbe
  unfold Machine.xAccess
  simp only [scopeTrap_withErrors, State.trap_withErrors, State.accStalls_withErrors, State.retry_withErrors, hc2]
  cases (scopeTrap s (ordScope o)).or (xWindow am sum) with
  | some t => exact .withErrors b e rfl
  | none =>
    dsimp only
    generalize natWord (sum.toNat - sum.toNat % n) = va
    refine .ite (.withErrors b e rfl) fun _ => .ite (.inl ⟨_, rfl⟩) fun _ => ?_
    rcases hc.xTranslate va (op == .store) with ⟨u, hu⟩ | ⟨hx, b0, e0, hxe⟩
    · left
      generalize (s.xCharge 0 n).1.xTranslate va (op == .store) = x at *
      obtain ⟨s1, x⟩ := x
      obtain rfl : x = .wait u.parkInPlace := hu
      exact ⟨u, rfl⟩
    · generalize (s.xCharge 0 n).1.xTranslate va (op == .store) = x at *
      generalize ((s.withErrors b e).xCharge 0 n).1.xTranslate va (op == .store) = x' at *
      obtain ⟨s1, x⟩ := x
      obtain ⟨t1, x'⟩ := x'
      obtain rfl : x' = x.withErrors b0 e0 := hxe
      obtain ⟨b1, e1, hb1⟩ := id hx.1
      obtain rfl : t1 = s1.withErrors b1 e1 := hb1
      cases x with
      | at_ t0 =>
        dsimp only [XAddr.withErrors]
        simp only [State.xDone_withErrors, State.stickyIf_withErrors, State.clampScope_withErrors, State.cur_withErrors,
          State.charge_withErrors, State.releaseStalls_withErrors, State.awaitRelease_withErrors, State.parkInPlace_withErrors,
          State.xHostAccess_withErrors, State.xSend_withErrors]
        refine .withErrors b1 e1 ?_
        (repeat' split) <;> rfl
      | trap code => exact .withErrors b1 e1 (by simp [XAddr.withErrors])
      | hostErr => exact .withErrors b1 e1 (by simp [XAddr.withErrors])
      | wait w => exact .withErrors b0 e0 rfl

theorem State.Heals.execXpush (rt rb rc : BitVec 6) (am : AMode) (o : Ord) (off : BitVec 32) :
    Parallel (execXpush rt rb rc am o off s) (execXpush rt rb rc am o off t) := by
  obtain ⟨b, e, hbe⟩ := id h.1
  obtain rfl : t = s.withErrors b e := hbe
  unfold Machine.execXpush
  simp only [State.accSum_withErrors, State.pg_withErrors, scopeTrap_withErrors, State.trap_withErrors, State.accStalls_withErrors,
    State.pushPlaces_withErrors, State.retry_withErrors, State.clampScope_withErrors, State.expect_withErrors, State.cur_withErrors,
    State.answer_withErrors, State.ownGap_withErrors, State.stickyIf_withErrors, State.startXpush_withErrors]
  cases (scopeTrap s (ordScope o)).or (xpushTrap am (s.accSum rb off) (s.pg rc)) with
  | some t => exact .withErrors b e rfl
  | none =>
    dsimp only
    refine .ite (.withErrors b e rfl) fun _ => .ite (.withErrors b e rfl) fun _ => .ite (.withErrors b e rfl) fun _ => ?_
    generalize tilePieces _ _ _ = ps
    generalize xBytes _ _ = bytes
    rw [pushTranslate_eq_pushFrom]
    rcases State.Heals.pushFrom rowAddress (s.accSum rb off) (puRowb (s.pg rc)) ps 0 h with ⟨u, hu⟩ | ⟨⟨b1, e1, h1⟩, b2, e2, h2⟩
    · left
      generalize Machine.pushFrom rowAddress s (s.accSum rb off) (puRowb (s.pg rc)) 0 ps = x at *
      obtain ⟨s1, x⟩ := x
      obtain rfl : x = .error (.wait u.parkInPlace) := hu
      exact ⟨u, rfl⟩
    · generalize Machine.pushFrom rowAddress s (s.accSum rb off) (puRowb (s.pg rc)) 0 ps = x at *
      generalize Machine.pushFrom rowAddress (s.withErrors b e) (s.accSum rb off) (puRowb (s.pg rc)) 0 ps = x' at *
      obtain ⟨s1, x⟩ := x
      obtain ⟨t1, x'⟩ := x'
      obtain rfl : t1 = s1.withErrors b1 e1 := h1
      obtain rfl : x' = x.mapError (XAddr.withErrors b2 e2) := h2
      rcases x with (_ | _ | _ | w) | bs
      · exact .withErrors b1 e1 rfl
      · exact .withErrors b1 e1 rfl
      · exact .withErrors b1 e1 (by simp [Except.mapError, XAddr.withErrors])
      · exact .withErrors b2 e2 rfl
      · exact .withErrors b1 e1 (congrArg Host.Outcome.next (State.startXpush_withErrors ..))

end

/-- XPREF keeps its thread alive unless its window is wrong. -/
theorem State.Heals.execXpref {s t : State} (h : s.Heals t) (hs : s.cur.stopped = false) (rb : BitVec 6) (am : AMode) (off : BitVec 32) :
    Parallel (execXpref rb am off s) (execXpref rb am off t) := by
  obtain ⟨b, e, hbe⟩ := id h.1
  obtain rfl : t = s.withErrors b e := hbe
  unfold Machine.execXpref
  simp only [State.accSum_withErrors, State.trap_withErrors]
  cases xWindow am (s.accSum rb off) with
  | some t => exact .withErrors b e rfl
  | none =>
    refine .inr (.inr ⟨_, rfl, ?_⟩)
    by_cases h0 : ptrTag (s.accSum rb off) = 0
    · simp only [h0, if_true]
      rw [(State.readAhead_leaves _ _ _ _).1.fields.2.2.2.1]
      exact hs
    · simp only [h0, if_false]
      exact hs

/-! ### Accesses of a pool (R251 to R254) -/

/-- t has fewer errors than s, but every lasting one of s. -/
def State.Retried (s t : State) : Prop := s.Heals t ∧ ∀ k, s.errorAt k = some true → t.errorAt k = some true

theorem State.heal_withErrors (s : State) (o : Option (Nat × Bool)) : ∃ b e, s.heal o = s.withErrors b e := by
  unfold State.heal
  split
  · exact ⟨_, _, rfl⟩
  · exact ⟨s.bad, s.hub.errors, rfl⟩

theorem State.eccTrap_withErrors (s : State) (b : NMap Err) (e : NMap Errors) (key : Nat) :
    ∃ b' e', (s.withErrors b e).eccTrap key = (s.eccTrap key).withErrors b' e' := by
  have hl (s : State) (k : Nat) (tag : BitVec 10) (va : Nat) :
      ∃ e', (s.withErrors b e).lasting k tag va = (s.lasting k tag va).withErrors b e' := ⟨_, rfl⟩
  unfold State.eccTrap
  dsimp only
  have hx : (if keyInPool key then (natWord (keyOffset key), s.withErrors b e) else (s.withErrors b e).draw) =
      ((if keyInPool key then (natWord (keyOffset key), s) else s.draw).1,
        (if keyInPool key then (natWord (keyOffset key), s) else s.draw).2.withErrors b e) := by
    cases keyInPool key <;> rfl
  rw [hx]
  generalize (if keyInPool key then (natWord (keyOffset key), s) else s.draw) = x
  obtain ⟨e', he'⟩ := hl x.2 (keyEnd key) (s.frameTag s.cur.fk) (x.1.toNat % 2 ^ 56)
  refine ⟨b, e', ?_⟩
  rw [← State.trap_withErrors]
  exact congrArg (State.trap · { cause := 0x12, eval := x.1 }) he'

/-- The error that storage meets is lasting, or it is corrected. -/
theorem State.Retried.firstError {s t : State} (h : s.Retried t) (keys : List Nat) :
    (∃ key, s.firstError keys = some (key, true) ∧ t.firstError keys = some (key, true)) ∨
    (∀ key, s.firstError keys ≠ some (key, true)) ∧ ∀ key, t.firstError keys ≠ some (key, true) := by
  have hp : (fun k => t.errorAt k == some true) = fun k => s.errorAt k == some true := by
    funext k
    rw [Bool.eq_iff_iff, beq_iff_eq, beq_iff_eq]
    exact ⟨h.1.errorAt_true, h.2 k⟩
  have hne (u : State) (hf : keys.find? (fun k => u.errorAt k == some true) = none) (key : Nat) : u.firstError keys ≠ some (key, true) := by
    unfold State.firstError
    rw [hf]
    simp
  rcases hf : keys.find? (fun k => s.errorAt k == some true) with _ | key
  · exact .inr ⟨hne s hf, hne t (by rw [hp, hf])⟩
  · exact .inl ⟨key, by simp [State.firstError, hf], by simp [State.firstError, hp, hf]⟩

theorem State.Retried.ownError {s t : State} (h : s.Retried t) (op : AccOp) (d : Dec) (n : Nat) :
    (∃ key, s.ownError op d n = some (key, true) ∧ t.ownError op d n = some (key, true)) ∨
    (∀ key, s.ownError op d n ≠ some (key, true)) ∧ ∀ key, t.ownError op d n ≠ some (key, true) := by
  have hf := h.firstError
  obtain ⟨b, e, rfl⟩ := h.1.1
  unfold State.ownError
  by_cases h1 : d.view ≠ 0 ∨ s.ownGap d.off
  · have h1' : d.view ≠ 0 ∨ (s.withErrors b e).ownGap d.off := h1
    rw [if_pos h1, if_pos h1']
    exact .inr ⟨fun _ => nofun, fun _ => nofun⟩
  · have h1' : ¬ (d.view ≠ 0 ∨ (s.withErrors b e).ownGap d.off) := h1
    have hg : (s.withErrors b e).onGeyser = s.onGeyser := rfl
    rw [if_neg h1, if_neg h1', hg]
    cases s.onGeyser
    · exact hf _
    · cases accReadsWord op
      · exact .inr ⟨fun _ => nofun, fun _ => nofun⟩
      · exact hf _

/-- What follows an own-pool access's error: ECC where it is lasting, else the access with the error corrected. -/
def afterError (s : State) (o : Option (Nat × Bool)) (go : State → State) : Out :=
  match o with
  | some (key, true) => .next (s.eccTrap key)
  | e => .next (go (s.heal e))

theorem State.Retried.afterError {s t : State} (h : s.Retried t) (op : AccOp) (d : Dec) (n : Nat) {go : State → State}
    (hgo : ∀ u b e, go (u.withErrors b e) = (go u).withErrors b e) :
    Parallel (afterError s (s.ownError op d n) go) (afterError t (t.ownError op d n) go) := by
  have hn (u : State) (o : Option (Nat × Bool)) (ho : ∀ key, o ≠ some (key, true)) : Machine.afterError u o go = .next (go (u.heal o)) := by
    rcases o with _ | ⟨key, _ | _⟩
    · rfl
    · rfl
    · exact absurd rfl (ho key)
  rcases h.ownError op d n with ⟨key, h1, h2⟩ | ⟨h1, h2⟩
  · obtain ⟨b, e, hbe⟩ := h.1.1
    rw [h1, h2]
    obtain ⟨b', e', he⟩ := s.eccTrap_withErrors b e key
    exact .withErrors b' e' (by rw [hbe]; exact congrArg Host.Outcome.next he)
  · rw [hn s _ h1, hn t _ h2]
    obtain ⟨b, e, hbe⟩ := h.1.1
    obtain ⟨b1, e1, hb1⟩ := s.heal_withErrors (s.ownError op d n)
    obtain ⟨b2, e2, hb2⟩ := t.heal_withErrors (t.ownError op d n)
    refine .withErrors b2 e2 ?_
    rw [hb1, hb2, hbe, outWithErrors_next, hgo, hgo, hgo]
    rfl

/-- A plain access that has not stalled. -/
def State.goPlain (s : State) (op : AccOp) (cls : AccClass) (d : Dec) (n : Nat) (lo hi : Word) (dst : Option Nat) (u : State) : State :=
  if s.isOwnPlain d then u.issueOwn op d n lo hi dst
  else u.issueRemote op (if s.cur.rx then .rx else .plain) cls d n lo hi 0 dst [] false false

theorem plainAccess_ok {s : State} {am : AMode} {sum : Word} {n : Nat} {d : Dec} (hd : s.decodeOperand am sum n = .ok d) (op : AccOp)
    (cls : AccClass) (lo hi : Word) (dst : Option Nat) : plainAccess s op cls am sum n lo hi dst =
      if s.accStalls (if s.cur.rx then .rx else .plain) cls (s.placeBytes (s.wordPlaces d n) n) (s.isOwnPlain d) then .next s.retry
      else afterError s (s.ownError op d n) (s.goPlain op cls d n lo hi dst) := by
  unfold plainAccess afterError State.goPlain
  rw [hd]
  dsimp only
  cases s.isOwnPlain d <;> rfl

/-- An atomic access that has not stalled. -/
def State.goAtomic (s : State) (op : AccOp) (d : Dec) (n : Nat) (data expect : Word) (rt : BitVec 6) (o : Ord) (u : State) : State :=
  (u.clampScope (ordScope o)).issueRemote op (if s.cur.rx then .rx else .plain) .atomic d n data 0 expect (some rt.toNat)
    (if o.rel then s.accIds s.cur.fk else []) o.acq false

theorem atomic_ok {s : State} {am : AMode} {sum : Word} {n : Nat} {d : Dec} {o : Ord} (ho : scopeTrap s (ordScope o) = none)
    (hd : s.decodeOperand am sum n = .ok d) (op : AccOp) (data expect : Word) (rt : BitVec 6) : atomic s op am sum n data expect rt o =
      if s.accStalls (if s.cur.rx then .rx else .plain) .atomic (s.placeBytes (s.wordPlaces d n) n) false then .next s.retry
      else afterError s (s.ownError op d n) (s.goAtomic op d n data expect rt o) := by
  unfold atomic
  rw [ho, hd]
  rfl

section
variable {s t : State} (h : s.Retried t)
include h

theorem State.Retried.plainAccess (op : AccOp) (cls : AccClass) (am : AMode) (sum : Word) (n : Nat) (lo hi : Word) (dst : Option Nat) :
    Parallel (plainAccess s op cls am sum n lo hi dst) (plainAccess t op cls am sum n lo hi dst) := by
  have ha (d : Dec) := h.afterError op d n (go := s.goPlain op cls d n lo hi dst) fun u b e => by
    simp only [State.goPlain, State.issueOwn_withErrors, State.issueRemote_withErrors, State.ite_withErrors]
  obtain ⟨b, e, hbe⟩ := h.1.1
  obtain rfl : t = s.withErrors b e := hbe
  cases hd : s.decodeOperand am sum n with
  | error t =>
    unfold Machine.plainAccess
    rw [State.decodeOperand_withErrors, hd]
    exact .withErrors b e (by simp)
  | ok d =>
    rw [plainAccess_ok hd, plainAccess_ok (s := s.withErrors b e) hd]
    exact .ite (.withErrors b e rfl) fun _ => ha d

theorem State.Retried.feset (op : AccOp) (am : AMode) (sum : Word) (n : Nat) : Parallel (feset s op am sum n) (feset t op am sum n) := by
  have hp := h.plainAccess op .store am sum n 0 0 none
  obtain ⟨b, e, hbe⟩ := h.1.1
  obtain rfl : t = s.withErrors b e := hbe
  unfold Machine.feset
  rw [feTrap_withErrors]
  cases feTrap s am sum n with
  | some t => exact .withErrors b e (by simp)
  | none => exact hp

theorem State.Retried.atomic (op : AccOp) (am : AMode) (sum : Word) (n : Nat) (data expect : Word) (rt : BitVec 6) (o : Ord) :
    Parallel (atomic s op am sum n data expect rt o) (atomic t op am sum n data expect rt o) := by
  have ha (d : Dec) := h.afterError op d n (go := s.goAtomic op d n data expect rt o) fun u b e => by
    simp only [State.goAtomic, State.clampScope_withErrors, State.issueRemote_withErrors]
  obtain ⟨b, e, hbe⟩ := h.1.1
  obtain rfl : t = s.withErrors b e := hbe
  have hsc := scopeTrap_withErrors s b e (ordScope o)
  cases hd : s.decodeOperand am sum n with
  | error t =>
    unfold Machine.atomic
    rw [State.decodeOperand_withErrors, hsc, hd]
    cases scopeTrap s (ordScope o) <;> exact .withErrors b e (by simp)
  | ok d =>
    cases ho : scopeTrap s (ordScope o) with
    | some t =>
      unfold Machine.atomic
      rw [hsc, ho]
      exact .withErrors b e (by simp)
    | none =>
      rw [atomic_ok ho hd, atomic_ok (s := s.withErrors b e) (hsc.trans ho) hd]
      exact .ite (.withErrors b e rfl) fun _ => ha d

end

/-! ### The trial of an operation -/

/-- The queue flags of an operation that begins no wait at a queue. -/
theorem QFlags.of_not_acquires {q : QFlags} {a b d : Nat}
    (h : (!((if q.qa then [a] else []) ++ (if q.qb then [b] else [])).isEmpty || !(if q.qd then [d] else []).isEmpty || false) = false) :
    q.qa = false ∧ q.qb = false ∧ q.qd = false := by
  obtain ⟨qa, qb, qd⟩ := q
  cases qa <;> cases qb <;> cases qd <;> simp at h ⊢

theorem spawnForm_parallel (s : State) (b : NMap Err) (e : NMap Errors) (w : Bool) (rd : BitVec 6) (pd : BitVec 4) {eval : Word → Word}
    {ask ask' : Nat → State → State} {fin fin' : State → State} (hask : ∀ n t, ask' n (t.withErrors b e) = (ask n t).withErrors b e)
    (hfin : ∀ t, fin' (t.withErrors b e) = (fin t).withErrors b e) :
    Parallel (spawnForm s w rd pd eval ask fin) (spawnForm (s.withErrors b e) w rd pd eval ask' fin') :=
  .withErrors b e (spawnForm_withErrors s b e w rd pd hask hfin)

theorem execSpawn_parallel (s : State) (b : NMap Err) (e : NMap Errors) (rd ra rb : BitVec 6) (pd : BitVec 4) (w : Bool) :
    Parallel (execSpawn rd ra rb pd w s) (execSpawn rd ra rb pd w (s.withErrors b e)) := by
  unfold execSpawn
  rw [State.pg_withErrors]
  cases spawnTrap (s.pg rb) with
  | some x => exact .withErrors b e (by simp)
  | none => exact spawnForm_parallel s b e w rd pd (fun n t => by simp; rfl) (fun t => by simp)

/-- An operation of a future, or one of a stale handle. -/
theorem futureForm_parallel (s : State) (b : NMap Err) (e : NMap Errors) (op : FutOp) (h : Word) (release : Bool)
    {done : Word → Bool → State → State} (hd : ∀ v x t, done v x (State.withErrors t b e) = (done v x t).withErrors b e) :
    Parallel (if handleOk h then futureOp s op h release done else staleHandle s h)
      (if handleOk h then futureOp (s.withErrors b e) op h release done else staleHandle (s.withErrors b e) h) :=
  .ite (.withErrors b e (futureOp_withErrors s b e op h release hd)) fun _ => .withErrors b e (staleHandle_withErrors s b e h)

theorem execTouchq_parallel (s : State) (b : NMap Err) (e : NMap Errors) (rd ra : BitVec 6) :
    Parallel (execTouchq rd ra s) (execTouchq rd ra (s.withErrors b e)) :=
  .ite (.withErrors b e (futureOp_withErrors s b e .touchq (s.pg ra) false fun _ _ _ => rfl)) fun _ =>
    .ite (.withErrors b e rfl) fun _ => .withErrors b e rfl

theorem transfer_parallel (s : State) (b : NMap Err) (e : NMap Errors) (t : Word) {link link' : State → State}
    (h : link' (s.withErrors b e) = (link s).withErrors b e) :
    Parallel (transfer s t link) (transfer (s.withErrors b e) t link') :=
  .withErrors b e (by simp [transfer, h])

theorem branch_parallel (s : State) (b : NMap Err) (e : NMap Errors) (c : Bool) (t : Word) :
    Parallel (branch s c t) (branch (s.withErrors b e) c t) := by
  cases c
  · exact .withErrors b e rfl
  · exact transfer_parallel s b e t rfl

theorem idz_withErrors (x y : Word) (s : State) (b : NMap Err) (e : NMap Errors) :
    idz x y (s.withErrors b e) = (idz x y s).withErrors b e := by
  simp [idz]

theorem g3_parallel (s : State) (b : NMap Err) (e : NMap Errors) {q : QFlags} {na nb nd : Nat}
    (h : (!((if q.qa then [na] else []) ++ (if q.qb then [nb] else [])).isEmpty || !(if q.qd then [nd] else []).isEmpty || false) = false)
    (rd ra rb : BitVec 6) (lat : Nat) (res : Word → Word → Word) {eff eff' : Word → Word → State → State}
    (heff : ∀ x y t, eff' x y (State.withErrors t b e) = (eff x y t).withErrors b e) :
    Parallel (g3 s q rd ra rb lat res eff) (g3 (s.withErrors b e) q rd ra rb lat res eff') := by
  obtain ⟨ha, hb, hd⟩ := QFlags.of_not_acquires h
  exact .withErrors b e (g3_withErrors s b e ha hb hd rd ra rb lat res heff)

/-- The trial of an operation that begins no wait, where a transient error has been corrected before. -/
theorem State.Retried.tryOp {s t : State} (h : s.Retried t) (hs : s.cur.stopped = false) {i : Instr} (hi : acquires i = false) :
    Parallel (tryOp i s) (tryOp i t) := by
  obtain ⟨b, e, hbe⟩ := h.1.1
  obtain rfl : t = s.withErrors b e := hbe
  have hg {q : QFlags} {na nb nd : Nat} := g3_parallel s b e (q := q) (na := na) (nb := nb) (nd := nd)
  cases i with
  | div q d x y | divu q d x y | rem q d x y | remu q d x y => exact hg hi _ _ _ _ _ fun _ _ _ => idz_withErrors ..
  | add q d x y | sub q d x y | mul q d x y | mulh q d x y | mulhu q d x y | and q d x y | or q d x y | xor q d x y
  | shl q d x y | shr q d x y | sar q d x y | rol q d x y | min q d x y
  | max q d x y | minu q d x y | maxu q d x y | sel q d x y ps v
  | bfx q d x y l g => exact hg hi _ _ _ _ _ fun _ _ _ => rfl
  | adc q d x y pc pd =>
    change Parallel (execAdc q d x y pc pd s) (execAdc q d x y pc pd (s.withErrors b e))
    unfold execAdc
    exact hg hi _ _ _ _ _ fun _ _ _ => rfl
  | sbc q d x y pc pd =>
    change Parallel (execSbc q d x y pc pd s) (execSbc q d x y pc pd (s.withErrors b e))
    unfold execSbc
    exact hg hi _ _ _ _ _ fun _ _ _ => rfl
  | cmp q d x y pd c =>
    change Parallel (execCmp q d x y pd c s) (execCmp q d x y pd c (s.withErrors b e))
    unfold execCmp
    exact hg hi _ _ _ _ _ fun _ _ _ => rfl
  | bfi q d x y l =>
    change Parallel (execBfi q d x y l s) (execBfi q d x y l (s.withErrors b e))
    unfold execBfi
    exact .ite (.withErrors b e (by simp)) fun _ => hg hi _ _ _ _ _ fun _ _ _ => rfl
  | br p v d l | brc p v d l => exact branch_parallel s b e _ _
  | jmp d l | jr x => exact transfer_parallel s b e _ rfl
  | jal d l =>
    change Parallel (execJal d l s) (execJal d l (s.withErrors b e))
    unfold execJal
    exact transfer_parallel s b e _ rfl
  | jalr d x =>
    change Parallel (execJalr d x s) (execJalr d x (s.withErrors b e))
    unfold execJalr
    exact transfer_parallel s b e _ rfl
  | loop d x w l =>
    change Parallel (execLoop d x w l s) (execLoop d x w l (s.withErrors b e))
    unfold execLoop
    exact .ite (.withErrors b e rfl) fun _ => transfer_parallel s b e _ rfl
  | ld t x m z o | st t x m z o | vld t x m o | vst t x m o => exact h.plainAccess ..
  | fesetFull x m z o | fesetEmpty x m z o => exact h.feset ..
  | amo t x c m w op o off | cas t x c m w o off => exact h.atomic ..
  | lds | ldsp | sts | alease => exact absurd hi (by simp [acquires])
  | qpush => exact absurd hi (by simp [acquires, Instr.pushes])
  | xld t x m z o off | xst t x m z o off => exact h.1.xAccess ..
  | xpush t x c m o off => exact h.1.execXpush ..
  | xpref x m off => exact h.1.execXpref hs ..
  | spawn d x y pd w => exact execSpawn_parallel ..
  | spawnr d x y pd w => exact spawnForm_parallel s b e w d pd (fun _ _ => by simp) (fun _ => by simp)
  | spawni d x y pd w p n => exact spawnForm_parallel s b e w d pd (fun _ _ => by simp) (fun _ => rfl)
  | touch d x pd c => exact futureForm_parallel s b e (.touch c) (s.pg x) false fun _ _ _ => rfl
  | touchq d x => exact execTouchq_parallel ..
  | resolve x y pd => exact futureForm_parallel s b e (.resolve (s.pg y)) (s.pg x) true fun _ _ _ => rfl
  | cancel d x => exact futureForm_parallel s b e .cancel (s.pg x) false fun _ _ _ => rfl
  | fdrop x pd => exact futureForm_parallel s b e .fdrop (s.pg x) false fun _ _ _ => rfl
  | gptrOwn => exact .withErrors b e (execGptrOwn_withErrors ..)
  | gptrBlk => exact .withErrors b e (execGptrBlk_withErrors ..)
  | gptrIlv => exact .withErrors b e (execGptrIlv_withErrors ..)
  | gwinCls => exact .withErrors b e (execGwinCls_withErrors ..)
  | gwinLoc => exact .withErrors b e (execGwinLoc_withErrors ..)
  | fence => exact .withErrors b e (execFence_withErrors ..)
  | cgo => exact .withErrors b e (execCgo_withErrors ..)
  | csub => exact .withErrors b e (execCsub_withErrors ..)
  | cunsub => exact .withErrors b e (execCunsub_withErrors ..)
  | xtlbi => exact .withErrors b e (execXtlbi_withErrors ..)
  | xtlbiAll t am => exact .withErrors b e (execXtlbiAll_withErrors s b e t am)
  | grow => exact .withErrors b e (execGrow_withErrors ..)
  | joini => exact .withErrors b e (execJoini_withErrors ..)
  | retire => exact .withErrors b e (execRetire_withErrors ..)
  | waitw => exact .withErrors b e (execWaitw_withErrors ..)
  | waitm => exact .withErrors b e (execWaitm_withErrors ..)
  | yield => exact .withErrors b e (execYield_withErrors ..)
  | send => exact .withErrors b e (execSend_withErrors ..)
  | trap => exact .withErrors b e (execTrap_withErrors ..)
  | eret => exact .withErrors b e (execEret_withErrors ..)
  | crd => exact .withErrors b e (execCrd_withErrors ..)
  | cwr => exact .withErrors b e (execCwr_withErrors ..)
  | flushi => exact .withErrors b e (execFlushi_withErrors ..)
  | dbrk => exact .withErrors b e (execDbrk_withErrors ..)
  | halt => exact .withErrors b e (execHalt_withErrors ..)
  | scrub => exact .withErrors b e (execScrub_withErrors ..)
  | vcvt => exact .withErrors b e (execVcvt_withErrors ..)
  | vdec => exact .withErrors b e (execVdec_withErrors ..)
  | venc => exact .withErrors b e (execVenc_withErrors ..)
  | vquant => exact .withErrors b e (execVquant_withErrors ..)
  | vquantInv => exact .withErrors b e (execVquantInv_withErrors ..)
  | vplaneAlign f r q k d x y z => exact .withErrors b e (execVplaneAlign_withErrors s b e f r q k d x y z)
  | vunplVal => exact .withErrors b e (execVunplVal_withErrors ..)
  | arel => exact .withErrors b e (execArel_withErrors ..)
  | aset => exact .withErrors b e (execAset_withErrors ..)
  | aldb => exact .withErrors b e (execAldb_withErrors ..)
  | astr => exact .withErrors b e (execAstr_withErrors ..)
  | adrn => exact .withErrors b e (execAdrn_withErrors ..)
  | azero => exact .withErrors b e (execAzero_withErrors ..)
  | amark => exact .withErrors b e (execAmark_withErrors ..)
  | _ => exact .withErrors b e rfl

theorem fateOf_withErrors (i : Instr) (s : State) (b : NMap Err) (e : NMap Errors) : fateOf i (s.withErrors b e) = fateOf i s := rfl

theorem fateOf_live {i : Instr} {s : State} (h : s.cur.stopped = false) : fateOf i s = .go := by
  simp [fateOf, h]

/-- A thread that waits in place does not go on. -/
theorem fateOf_parkInPlace (i : Instr) (s : State) : fateOf i s.parkInPlace ≠ .go := by
  have hs : (s.parkInPlace.slot s.cur.sk).state = .inPlace := by
    rw [State.parkInPlace, State.slot_updSlot, if_pos rfl]
  have hc : s.parkInPlace.cur = { s.cur with stopped := true } := rfl
  unfold fateOf
  rw [hc, hs]
  cases s.cur.trapped <;> simp

/-- An operation that goes on goes on where fewer errors stand. -/
theorem State.Retried.fate {s t : State} (h : s.Retried t) (hs : s.cur.stopped = false) {i : Instr} (hi : acquires i = false)
    (hgo : fateOf i (trial s i) = .go) : fateOf i (trial t i) = .go := by
  have ht : t.cur.stopped = false := by
    obtain ⟨b, e, rfl⟩ := h.1.1
    exact hs
  rcases h.tryOp hs hi with ⟨u, hu⟩ | ⟨b, e, hbe⟩ | ⟨u, hu, hlive⟩
  · simp only [trial, hu] at hgo
    exact absurd hgo (fateOf_parkInPlace i u)
  · rcases hu : Machine.tryOp i s with u | _ | _
    · simp only [trial, hu] at hgo
      simp only [trial, hbe, hu, outWithErrors_next, fateOf_withErrors, hgo]
    · simp only [trial, hbe, hu, outWithErrors]
      exact fateOf_live ht
    · simp only [trial, hbe, hu, outWithErrors]
      exact fateOf_live ht
  · simp only [trial, hu]
    exact fateOf_live hlive
end Sys2Proof.Machine

namespace Sys2Proof.Machine

/-! ## The issue of one operation (R155 to R160) -/

/-- From s to t the thread in issue has touched its own frame, the memories and the errors, and nothing else. -/
structure State.OnlyFrame (s t : State) : Prop where
  cur : t.cur = s.cur
  slots : t.slots = s.slots
  cores : t.cores = s.cores
  net : t.net = s.net
  agenda : t.agenda = s.agenda
  frame : ∀ k, k ≠ s.cur.fk → t.frame k = s.frame k

theorem State.OnlyFrame.trans {s t u : State} (h1 : s.OnlyFrame t) (h2 : t.OnlyFrame u) : s.OnlyFrame u where
  cur := h2.cur.trans h1.cur
  slots := h2.slots.trans h1.slots
  cores := h2.cores.trans h1.cores
  net := h2.net.trans h1.net
  agenda := h2.agenda.trans h1.agenda
  frame k hk := (h2.frame k (by rwa [h1.cur])).trans (h1.frame k hk)

theorem State.onlyFrame_withErrors (s : State) (b : NMap Err) (e : NMap Errors) : s.OnlyFrame (s.withErrors b e) :=
  ⟨rfl, rfl, rfl, rfl, rfl, fun _ _ => rfl⟩

theorem State.onlyFrame_heal (s : State) (o : Option (Nat × Bool)) : s.OnlyFrame (s.heal o) := by
  obtain ⟨b, e, h⟩ := s.heal_withErrors o
  rw [h]
  exact s.onlyFrame_withErrors b e

theorem State.onlyFrame_upd (s : State) (h : Frame → Frame) : s.OnlyFrame (s.upd h) :=
  ⟨rfl, rfl, rfl, rfl, rfl, fun k hk => by rw [State.frame_upd, if_neg hk]⟩

theorem State.onlyFrame_chargeOps (s : State) (i : Instr) : s.OnlyFrame (s.chargeOps [i]) := by
  change s.OnlyFrame (match energyClass i with | some c => s.charge s.cur.fk c 1 | none => s)
  cases energyClass i with
  | some c => exact s.onlyFrame_upd _
  | none => exact ⟨rfl, rfl, rfl, rfl, rfl, fun _ _ => rfl⟩

/-- One operation starts: its bundle is left to execute, from the pc of the next. -/
theorem State.startOps_one (u : State) (i : Instr) :
    let t := u.startOps [i]
    t.cur = { u.cur with ops := [i] } ∧ (t.frame u.cur.fk).pc = u.cur.npc ∧
      SameRegsBut [] (u.frame u.cur.fk) (t.frame u.cur.fk) ∧ SameControl (u.frame u.cur.fk) (t.frame u.cur.fk) ∧ SameMemory u t ∧
      (∀ k, k ≠ u.cur.fk → t.frame k = u.frame k) ∧ t.slots = u.slots ∧ t.cores = u.cores ∧ t.net = u.net ∧ t.agenda = u.agenda := by
  intro t
  let s0 := u.heal (u.firstError (u.regWords i))
  let s1 := s0.chargeOps [i]
  have hk : u.Keeps s1 := (u.keeps_healOps [i]).trans (State.keeps_chargeOps _ _)
  have ho := ((u.onlyFrame_heal (u.firstError (u.regWords i))).trans (s0.onlyFrame_chargeOps i)).trans
    (s1.onlyFrame_upd (fun f => { f with pc := u.cur.npc }))
  have hops : [i].filter (fun i => !leaves i) ++ [i].filter leaves = [i] := by cases h : leaves i <;> simp [h]
  have ht : t = { s1.upd (fun f => { f with pc := u.cur.npc }) with cur := { u.cur with ops := [i] } } := by
    have h1 : t = { s1.upd (fun f => { f with pc := u.cur.npc }) with
      cur := { (s1.upd (fun f => { f with pc := u.cur.npc })).cur with ops := [i].filter (fun i => !leaves i) ++ [i].filter leaves } } := rfl
    rw [h1, hops, ho.cur]
  have hf : t.frame u.cur.fk = { s1.cf with pc := u.cur.npc } := by
    have h1 : t.frame u.cur.fk = (s1.upd (fun f => { f with pc := u.cur.npc })).frame u.cur.fk := by rw [ht]; rfl
    rw [h1, State.frame_upd, hk.cur, if_pos rfl]
  have hm : t.mems = u.mems := by
    rw [ht]
    exact (State.upd_mems s1 (fun f => { f with pc := u.cur.npc })).trans hk.mems
  obtain ⟨-, -, -, -, hc⟩ := hk.frame
  refine ⟨by rw [ht], by rw [hf], ?_, by rw [hf]; exact hc, sameMemory_of_mems hm, fun k hk => ?_, ?_, ?_, ?_, ?_⟩
  · rw [hf]
    exact (hk.frame.sameRegs []).trans ⟨fun _ _ _ => rfl, fun _ _ _ => rfl, fun _ _ _ => rfl⟩
  · rw [ht]
    exact ho.frame k hk
  all_goals rw [ht]
  · exact ho.slots
  · exact ho.cores
  · exact ho.net
  · exact ho.agenda

/-! ### The state that is left when the fetch has corrected its store -/

/-- The thread at its bundle, before the fetch corrects a transient error of the store. -/
def State.beforeFetch (s : State) (sk fk : Nat) (l : Line) (b : Bundle) : State :=
  { s.begin sk fk with cur := { (s.begin sk fk).cur with npc := nextBundle (s.frame fk).pc l.heads b.len, rx := b.ops.any (·.rx), sw := b.sw } }

/-- The fetch corrects a transient error of the instruction store. -/
theorem State.atBundle_retried {s : State} {sk fk : Nat} (he : s.errorAt (istoreErrKey (istoreOf fk)) ≠ some true) (l : Line) (b : Bundle) :
    (s.beforeFetch sk fk l b).Retried (s.atBundle sk fk l b) := by
  have hsame (hf : s.fetched sk fk = s.begin sk fk) : (s.beforeFetch sk fk l b).Retried (s.atBundle sk fk l b) := by
    have : s.atBundle sk fk l b = s.beforeFetch sk fk l b := by rw [State.atBundle, hf]; rfl
    rw [this]
    exact ⟨.refl _, fun _ h => h⟩
  rcases hc : s.errorAt (istoreErrKey (istoreOf fk)) with _ | _ | _
  · exact hsame (by rw [State.fetched, hc]; rfl)
  · have hk (k : Nat) : (s.atBundle sk fk l b).errorAt k = if k = istoreErrKey (istoreOf fk) then none else s.errorAt k := by
      have h1 : (s.atBundle sk fk l b).errorAt k = (s.fetched sk fk).errorAt k := rfl
      rw [h1, State.fetched, hc]
      exact State.errorAt_transient _ _ _ _
    refine ⟨⟨⟨(s.fetched sk fk).bad, (s.fetched sk fk).hub.errors, ?_⟩, fun k x hx => ?_⟩, fun k hx => ?_⟩
    · rw [State.atBundle, State.fetched, hc]
      rfl
    · rw [hk] at hx
      split at hx
      · simp at hx
      · exact ⟨x, hx, id⟩
    · have hx' : s.errorAt k = some true := hx
      have hne : k ≠ istoreErrKey (istoreOf fk) := by
        rintro rfl
        exact he hx'
      rw [hk, if_neg hne, hx']
  · exact absurd hc he

/-- A lasting error is met where some of the storage has one. -/
theorem State.firstError_lasting {s : State} {keys : List Nat} :
    (∃ key, s.firstError keys = some (key, true)) ↔ ∃ k ∈ keys, s.errorAt k = some true := by
  rcases hf : keys.find? (fun k => s.errorAt k == some true) with _ | key
  · have h1 : ∀ k ∈ keys, s.errorAt k ≠ some true := fun k hk h => by simpa [h] using List.find?_eq_none.1 hf k hk
    refine ⟨fun ⟨key, hk⟩ => ?_, fun ⟨k, hk, h⟩ => absurd h (h1 k hk)⟩
    simp [State.firstError, hf] at hk
  · have hk : s.errorAt key = some true := by simpa using List.find?_some hf
    exact ⟨fun _ => ⟨key, List.mem_of_find?_eq_some hf, hk⟩, fun _ => ⟨key, by simp [State.firstError, hf]⟩⟩

/-- The registers and queues that an operation reads, while some storage is bad. -/
theorem State.regWords_withErrors (s : State) (b : NMap Err) (e : NMap Errors) (i : Instr) (hs : s.bad ≠ []) :
    (s.withErrors b e).regWords i ⊆ s.regWords i := by
  have h : s.bad.isEmpty = false := by simpa using hs
  cases hb : b.isEmpty with
  | true =>
    have hb' : (s.withErrors b e).bad.isEmpty = true := hb
    unfold State.regWords
    rw [if_pos hb']
    exact List.nil_subset _
  | false =>
    have hb' : (s.withErrors b e).bad.isEmpty = false := hb
    unfold State.regWords
    rw [h, hb']
    exact List.Subset.refl _

theorem State.Retried.regWords {s t : State} (h : s.Retried t) {i : Instr} (hs : ∀ key, s.firstError (s.regWords i) ≠ some (key, true))
    (key : Nat) : t.firstError (t.regWords i) ≠ some (key, true) := by
  intro ht
  obtain ⟨k, hk, hkt⟩ := State.firstError_lasting.1 ⟨key, ht⟩
  have hks : s.errorAt k = some true := h.1.errorAt_true hkt
  have hbad : s.bad ≠ [] := fun hb => by simp [State.errorAt_of_bad hb] at hks
  obtain ⟨b, e, hbe⟩ := h.1.1
  rw [hbe] at hk
  obtain ⟨key', hkey'⟩ := State.firstError_lasting.2 ⟨k, s.regWords_withErrors b e i hbad hk, hks⟩
  exact hs key' hkey'

/-! ### The bundle of one operation -/

section
variable {t : State} {i : Instr} (hh : t.hazardOf i = none) (he : ∀ key, t.firstError (t.regWords i) ≠ some (key, true))
  (hgo : fateOf i (trial t i) = .go)
include hh he hgo

/-- An unguarded operation that goes on raises no trap. -/
theorem opTraps_goes {o : BundleOp} (hd : o.dec = .op i) (hg : o.guard = none) : opTraps t o = [] := by
  have h1 : regEcc t (t.regWords i) = [] := by
    unfold regEcc
    rcases hf : t.firstError (t.regWords i) with _ | ⟨key, _ | _⟩
    · rfl
    · rfl
    · exact absurd hf (he key)
  have h2 : trialTrap t i false = [] := by
    unfold trialTrap
    dsimp only
    rw [hgo]
  have h3 : regEcc t (t.guardWords none) = [] := rfl
  unfold opTraps
  rw [hd, hg, h3]
  simp only [State.guardHazard, State.guardHolds, hh, h1, h2]
  rfl

/-- A bundle of one such operation starts it. -/
theorem State.issueBundle_one {b : Bundle} (hb : b.ops.map (fun o => (o.dec, o.guard)) = [(.op i, none)]) (ha : acquires i = false)
    (hw : t.cf.waits = []) (hst : t.cur.stopped = false) : t.issueBundle b = t.startOps [i] := by
  obtain ⟨o, ho, hod, hog⟩ : ∃ o, b.ops = [o] ∧ o.dec = .op i ∧ o.guard = none := by
    rcases hops : b.ops with _ | ⟨o, _ | ⟨p, l⟩⟩
    · simp [hops] at hb
    · simp only [hops, List.map_cons, List.map_nil, List.cons.injEq, Prod.mk.injEq, and_true] at hb
      exact ⟨o, rfl, hb⟩
    · simp [hops] at hb
  have hlive : t.liveOps b.ops = [i] := by
    simp [State.liveOps, ho, hod, hog, State.guardHolds]
  rw [← hlive]
  apply State.issueBundle_goes
  · rw [ho]
    simp [opTraps_goes hh he hgo hod hog, firstTrap]
  · rw [hlive]
    simp [hgo]
  · rw [hlive]
    simp [hgo, ha]
  · exact hw
  · exact hst

end

/-- The bundle of an operation that is left executes it and ends. -/
theorem runOps_one (i : Instr) (u : State) : runOps [i] u = exec i u := by
  unfold runOps
  cases exec i u with
  | next t => cases h : t.cur.stopped <;> simp [runOps]
  | _ => rfl

end Sys2Proof.Machine

namespace Sys2Proof.Machine

/-! ## The choice of the next step (R46, R47, R430) -/

section
variable {s : State} {ms : List Move}

/-- The tape names no order of activities here: its head is an issue, or it names an activity or nothing. -/
def State.tapeIssues (s : State) (ms : List Move) : Prop :=
  s.tape = .issue :: ms ∨ (s.tape = ms ∧ (ms = [] ∨ ∃ (k : Nat) (l : List Move), ms = .pending k :: l))

theorem State.takeIssue_issue {sk : Nat} {sks : List Nat} (hc : s.thisCycle = sk :: sks) (hd : s.detDue true = none) :
    s.takeIssue = .issue sk { s with thisCycle := sks } := by
  simp only [State.takeIssue, hd, hc]

/-- The slots of the cycle come before its activities. -/
theorem State.nextPlan_issue (hr : s.hub.recovery = false) {sk : Nat} {sks : List Nat} (ht : s.tapeIssues ms)
    (hc : s.thisCycle = sk :: sks) (hd : s.detDue true = none) : s.nextPlan = .issue sk { s with tape := ms, thisCycle := sks } := by
  have hi := State.takeIssue_issue hc hd
  rcases ht with h | ⟨h, rfl | ⟨k, l, rfl⟩⟩
  · simp only [State.nextPlan, h, hr, Bool.false_eq_true, if_false]
    exact State.takeIssue_issue (s := { s with tape := ms }) hc hd
  · have hs : ({ s with tape := [], thisCycle := sks } : State) = { s with thisCycle := sks } := by rw [← h]
    simp only [State.nextPlan, h, hr, Bool.false_eq_true, if_false, hc, hi, hs]
  · have hs : ({ s with tape := .pending k :: l, thisCycle := sks } : State) = { s with thisCycle := sks } := by rw [← h]
    simp only [State.nextPlan, h, hr, Bool.false_eq_true, if_false, hc, hi, hs, List.isEmpty_cons]

theorem State.step_issue (hr : s.hub.recovery = false) {sk : Nat} {sks : List Nat} (ht : s.tapeIssues ms)
    (hc : s.thisCycle = sk :: sks) (hd : s.detDue true = none) : step s = issueTurn sk { s with tape := ms, thisCycle := sks } := by
  unfold step
  rw [State.nextPlan_issue hr ht hc hd]

/-- With no trap pending and no cause due, the slot issues its bundle. -/
theorem State.boundary_bundle {sk fk : Nat} (hrot : s.inRotation sk = true) (hf : (s.slot sk).frame = some fk)
    (ht : (s.frame fk).trapPend = none) (hd : s.dueSteps sk fk = []) : s.boundary sk = .bundle s := by
  unfold State.boundary
  simp [hrot, hf, ht, hd, lowestStep]

end

/-- The bundle of one operation that goes on: its fetch starts the operation, which executes; then the bundle ends. -/
theorem issueBundle_goes {s : State} {sk fk : Nat} {l : Line} {b : Bundle} {i : Instr} (hf : (s.slot sk).frame = some fk)
    (hw : (s.frame fk).waits = []) (hl : (s.begin sk fk).storedLine fk (codeLine (s.frame fk).pc) = some l)
    (he : s.errorAt (istoreErrKey (istoreOf fk)) ≠ some true)
    (hb : fetchBundle l ((s.frame fk).pc.toNat % 32) (isGeyserFrame fk) = .ok b) (hops : b.ops.map (fun o => (o.dec, o.guard)) = [(.op i, none)])
    (hh : (s.beforeFetch sk fk l b).hazardOf i = none)
    (hecc : ∀ key, (s.beforeFetch sk fk l b).firstError ((s.beforeFetch sk fk l b).regWords i) ≠ some (key, true))
    (hgo : fateOf i (trial (s.beforeFetch sk fk l b) i) = .go) (ha : acquires i = false) :
    issueBundle sk s = (match exec i ((s.atBundle sk fk l b).startOps [i]) with | .next t => .next t.finishBundle | o => o) := by
  have hr := State.atBundle_retried (sk := sk) he l b
  obtain ⟨⟨-, hfk, -⟩, -, -, hst, hfr, -⟩ := s.atBundle_ready sk fk l b
  have hhaz : (s.atBundle sk fk l b).hazardOf i = none := by
    obtain ⟨b, e, hbe⟩ := hr.1.1
    rw [hbe]
    exact hh
  have hone := State.issueBundle_one hhaz (hr.regWords hecc) (hr.fate rfl ha hgo) hops ha
    (by rw [State.cf, hfk, hfr]; exact hw) hst
  have hx : exec (.bundleFetch sk) s = .next ((s.atBundle sk fk l b).startOps [i]) := by
    rw [exec_bundleFetch_line hf hl he, State.issueLine_bundle hb, hone]
  obtain ⟨hcur, -⟩ := (s.atBundle sk fk l b).startOps_one i
  have hops : ((s.atBundle sk fk l b).startOps [i]).cur.ops = [i] := by rw [hcur]
  have hlive : ((s.atBundle sk fk l b).startOps [i]).cur.stopped = false := by rw [hcur]; exact hst
  unfold issueBundle
  simp only [hx, hlive, hops, runOps_one, Bool.false_eq_true, if_false] <;>
    cases exec i ((s.atBundle sk fk l b).startOps [i]) <;> rfl

/-- The address of the next bundle, written out. -/
theorem nextBundle_eq (pc : Word) (h n : Nat) : nextBundle pc h n =
    natWord (if pc.toNat % 32 + n < h then pc.toNat / 2 ^ 6 % 2 ^ 50 * 64 + pc.toNat % 32 + n
      else (pc.toNat / 2 ^ 6 % 2 ^ 50 * 64 + 64) % 2 ^ 56) := by
  unfold nextBundle codeHead
  rw [codeLine_eq, Nat.add_assoc]
  exact (apply_ite natWord _ _ _).symm

/-- The issue of a slot whose bundle is one operation that goes on (R155, R158, R160). -/
theorem step_bundle {s : State} (hr : s.hub.recovery = false) (sk : Nat) (sks : List Nat) (ms : List Move) (fk : Nat) (l : ILine) (b : Bundle)
    (i : Instr) (htape : s.tapeIssues ms) (hc : s.thisCycle = sk :: sks) (hd : s.detDue true = none) :
    let s0 := { s with tape := ms, thisCycle := sks }
    let f := s.frame fk
    let pc := f.pc
    s.inRotation sk = true → (s.slot sk).frame = some fk → f.trapPend = none → s.dueSteps sk fk = [] → f.waits = [] →
    (s.cluster (if isGeyserFrame fk then 1024 + frameCore fk else fk / 1024)).icache.find?
      (fun l => l.va == pc.toNat / 2 ^ 6 % 2 ^ 50 * 64 && l.tag == s.frameTag fk && l.epoch == s.frameEpoch fk) = some l →
    s.errorAt (istoreErrKey (istoreOf fk)) ≠ some true →
    fetchBundle l.data (pc.toNat % 32) (isGeyserFrame fk) = .ok b → b.ops.map (fun o => (o.dec, o.guard)) = [(.op i, none)] →
    let next := if pc.toNat % 32 + b.len < l.data.heads then pc.toNat / 2 ^ 6 % 2 ^ 50 * 64 + pc.toNat % 32 + b.len
      else (pc.toNat / 2 ^ 6 % 2 ^ 50 * 64 + 64) % 2 ^ 56
    let rx := b.ops.any (·.rx)
    let cur : Cur := { sk, fk, bpc := pc, npc := natWord next, rx, sw := b.sw, pre := f, slot := s.slot sk }
    let start := { s0 with cur }
    start.hazardOf i = none → (∀ key : Nat, start.firstError (start.regWords i) ≠ some (key, true)) → fateOf i (trial start i) = .go →
    acquires i = false →
    ∃ u : State, u.cur = { cur with ops := [i] } ∧ (u.frame fk).pc = natWord next ∧
      SameRegsBut [] f (u.frame fk) ∧ SameControl f (u.frame fk) ∧ SameMemory s u ∧ (∀ k : Nat, k ≠ fk → u.frame k = s.frame k) ∧
      u.slots = s.slots ∧ u.cores = s.cores ∧ u.net = s.net ∧ u.agenda = s.agenda ∧
      step s = (match exec i u with | .next t => .next t.finishBundle | o => o) := by
  intro s0 f pc hrot hf htp hdue hw hline he hb hops next rx cur start hh hecc hgo ha
  have hstart : s0.beforeFetch sk fk l.data b = start := by
    have hn : nextBundle pc l.data.heads b.len = natWord next := nextBundle_eq pc l.data.heads b.len
    have h1 : s0.beforeFetch sk fk l.data b = { s0 with cur := { cur with npc := nextBundle pc l.data.heads b.len } } := rfl
    rw [h1, hn]
  have hstored : (s0.begin sk fk).storedLine fk (codeLine pc) = some l.data := by
    have h1 : (s0.begin sk fk).storedLine fk (codeLine pc) = ((s.cluster (istoreOf fk)).icache.find?
      (fun l => l.va == codeLine pc && l.tag == s.frameTag fk && l.epoch == s.frameEpoch fk)).map (·.data) := rfl
    rw [h1, codeLine_eq, istoreOf_eq, hline]
    rfl
  have hstep : step s = issueBundle sk s0 := by
    rw [State.step_issue hr htape hc hd]
    unfold issueTurn
    rw [State.boundary_bundle (s := s0) hrot hf htp hdue]
  rw [← hstart] at hh hecc hgo
  rw [hstep, issueBundle_goes (s := s0) hf hw hstored he hb hops hh hecc hgo ha]
  obtain ⟨b1, e1, hbe⟩ := (State.atBundle_retried (s := s0) (sk := sk) he l.data b).1.1
  rw [hbe, hstart]
  obtain ⟨hcur, hpc, hregs, hctl, hmem, hframe, hslots, hcores, hnet, hag⟩ := (start.withErrors b1 e1).startOps_one i
  exact ⟨_, hcur, hpc, hregs, hctl, hmem, hframe, hslots, hcores, hnet, hag, rfl⟩

end Sys2Proof.Machine

namespace Sys2Proof.Machine

/-! ## Recovery, inputs and due activities (R46, R430) -/

section
variable {s : State}

theorem step_recovery {ms : List Move} (hr : s.hub.recovery = true) (ht : s.tape = [] ∨ s.tape = .issue :: ms ∨
    (∃ k : Nat, s.tape = .pending k :: ms) ∨ ∃ i : Instr, s.tape = .input i :: ms ∧ isReset i = false) : step s = .fault .recovery := by
  have hp : s.nextPlan = .stuck := by
    rcases ht with h | h | ⟨k, h⟩ | ⟨i, h, hi⟩
    · simp [State.nextPlan, h, hr]
    · simp [State.nextPlan, h, hr]
    · simp [State.nextPlan, h, hr]
    · simp [State.nextPlan, h, hr, hi]
  rw [step, hp]

theorem step_input {i : Instr} {ms : List Move} (ht : s.tape = .input i :: ms) (hi : isInput i = true)
    (hr : s.hub.recovery = false ∨ isReset i = true) : step s = exec i { s with tape := ms } := by
  have hg : (s.hub.recovery && !isReset i) = false := by
    rcases hr with h | h <;> simp [h]
  have hp : s.nextPlan = .run i { s with tape := ms } := by
    simp [State.nextPlan, ht, hg, hi]
  rw [step, hp]

/-- An activity that uses no bank ports of a deterministic core keeps its place. -/
theorem State.bankFirst_self {k : Nat} {e : Event} (he : s.agenda[k]? = some e)
    (hd : ∀ x : Nat × Nat, s.bankAgent e.act = some x → (s.core x.1).det = false) : s.bankFirst k = k := by
  unfold State.bankFirst
  simp only [he, Option.bind_some]
  cases hx : s.bankAgent e.act with
  | none => rfl
  | some x => simp [hd x hx]

theorem State.takeEvent_due {k : Nat} {e : Event} (he : s.agenda[k]? = some e) (hc : e.notBefore ≤ s.cycle) :
    s.takeEvent k = .run e.act { s with agenda := s.agenda.eraseIdx k } := by
  simp [State.takeEvent, he, hc]

theorem step_pending (hr : s.hub.recovery = false) {k : Nat} {ms : List Move} {e : Event} (ht : s.tape = .pending k :: ms)
    (hc : s.thisCycle = []) (he : s.agenda[k]? = some e) (hn : e.notBefore ≤ s.cycle)
    (hd : ∀ x : Nat × Nat, s.bankAgent e.act = some x → (s.core x.1).det = false) :
    step s = exec e.act { s with tape := ms, agenda := s.agenda.eraseIdx k } := by
  have hp : s.nextPlan = .run e.act { s with tape := ms, agenda := s.agenda.eraseIdx k } := by
    have hc' : s.thisCycle.isEmpty = true := by rw [hc]; rfl
    simp only [State.nextPlan, ht, hr, Bool.false_eq_true, if_false, hc', if_true, State.bankFirst_self he hd]
    exact State.takeEvent_due (s := { s with tape := ms }) he hn
  rw [step, hp]

/-- The oldest activity that is due. -/
theorem State.firstDue_eq {k : Nat} {e : Event} (he : s.agenda[k]? = some e) (hn : e.notBefore ≤ s.cycle)
    (hmin : ∀ (j : Nat) (x : Event), j < k → s.agenda[j]? = some x → s.cycle < x.notBefore) : s.firstDue = some k := by
  obtain ⟨hk, hek⟩ := List.getElem?_eq_some_iff.1 he
  rw [State.firstDue, List.findIdx?_eq_some_iff_getElem]
  refine ⟨hk, by rw [hek]; simpa using hn, fun j hj => ?_⟩
  have := hmin j _ hj (List.getElem?_eq_getElem (hj.trans hk))
  simpa using this

theorem step_firstDue (hr : s.hub.recovery = false) {k : Nat} {e : Event} (ht : s.tape = []) (hc : s.thisCycle = [])
    (he : s.agenda[k]? = some e) (hn : e.notBefore ≤ s.cycle)
    (hmin : ∀ (j : Nat) (x : Event), j < k → s.agenda[j]? = some x → s.cycle < x.notBefore)
    (hd : ∀ x : Nat × Nat, s.bankAgent e.act = some x → (s.core x.1).det = false) :
    step s = exec e.act { s with agenda := s.agenda.eraseIdx k } := by
  have hp : s.nextPlan = .run e.act { s with agenda := s.agenda.eraseIdx k } := by
    simp only [State.nextPlan, ht, hr, Bool.false_eq_true, if_false, hc, State.firstDue_eq he hn hmin, State.bankFirst_self he hd,
      State.takeEvent_due he hn]
  rw [step, hp]

/-! ### The rotation of the bank ports (R46) -/

/-- best is an activity at the bank ports of a core with its place in the rotation, no later than those of js that are due. -/
def State.BankBest (s : State) (core : Nat) (js : List Nat) (best : Nat × Nat) : Prop :=
  (∃ (x : Event) (b : Nat), s.agenda[best.1]? = some x ∧ s.bankAgent x.act = some (core, b) ∧ best.2 = Config.bankRank (s.cycle % 8) b) ∧
  ∀ j ∈ js, ∀ (d : Nat) (y : Event), s.agenda[j]? = some y → y.notBefore ≤ s.cycle → s.bankAgent y.act = some (core, d) →
    best.2 ≤ Config.bankRank (s.cycle % 8) d

theorem State.BankBest.bankBefore {core : Nat} {js : List Nat} {best : Nat × Nat} (h : s.BankBest core js best) (j : Nat) :
    s.BankBest core (js ++ [j]) (s.bankBefore core best j) := by
  obtain ⟨hb, hall⟩ := h
  have hkeep (hj : ∀ (d : Nat) (y : Event), s.agenda[j]? = some y → y.notBefore ≤ s.cycle → s.bankAgent y.act = some (core, d) →
      best.2 ≤ Config.bankRank (s.cycle % 8) d) : s.BankBest core (js ++ [j]) best := by
    refine ⟨hb, fun i hi => ?_⟩
    rcases List.mem_append.1 hi with hi | hi
    · exact hall i hi
    · rw [List.mem_singleton.1 hi]
      exact hj
  unfold State.bankBefore
  rcases hj : s.agenda[j]? with _ | e
  · exact hkeep fun d y hy => by simp [hj] at hy
  rcases ha : s.bankAgent e.act with _ | ⟨k1, a⟩
  · simp only [ha]
    exact hkeep fun d y hy _ hyd => by
      rw [hj] at hy
      rw [← Option.some.inj hy, ha] at hyd
      simp at hyd
  simp only [ha]
  split
  · next hc =>
    obtain ⟨rfl, -, hlt⟩ := hc
    refine ⟨⟨e, a, hj, ha, rfl⟩, fun i hi d y hy hyn hyd => ?_⟩
    rcases List.mem_append.1 hi with hi | hi
    · exact hlt.le.trans (hall i hi d y hy hyn hyd)
    · rw [List.mem_singleton.1 hi, hj] at hy
      rw [← Option.some.inj hy, ha] at hyd
      rw [(Prod.mk.inj (Option.some.inj hyd)).2]
  · next hc =>
    refine hkeep fun d y hy hyn hyd => ?_
    rw [hj] at hy
    obtain rfl := Option.some.inj hy
    rw [ha] at hyd
    obtain ⟨rfl, rfl⟩ := Prod.mk.inj (Option.some.inj hyd)
    by_contra hlt
    exact hc ⟨rfl, hyn, not_le.1 hlt⟩

theorem State.BankBest.foldl {core : Nat} (ks : List Nat) : ∀ {js : List Nat} {best : Nat × Nat}, s.BankBest core js best →
    s.BankBest core (js ++ ks) (ks.foldl (s.bankBefore core) best) := by
  induction ks with
  | nil => intro js best h; simpa using h
  | cons k ks ih =>
    intro js best h
    simpa using ih (h.bankBefore k)

theorem State.bankFirst_first {k c a : Nat} {e : Event} (he : s.agenda[k]? = some e) (ha : s.bankAgent e.act = some (c, a))
    (hd : (s.core c).det = true) : ∃ (x : Event) (b : Nat), s.agenda[s.bankFirst k]? = some x ∧ s.bankAgent x.act = some (c, b) ∧
      ∀ (j d : Nat) (y : Event), s.agenda[j]? = some y → y.notBefore ≤ s.cycle → s.bankAgent y.act = some (c, d) →
        Config.bankRank (s.cycle % 8) b ≤ Config.bankRank (s.cycle % 8) d := by
  have h0 : s.BankBest c [] (k, Config.bankRank (s.cycle % 8) a) := ⟨⟨e, a, he, ha, rfl⟩, by simp⟩
  have hf : s.bankFirst k = ((rangeFrom 0 s.agenda.length).foldl (s.bankBefore c) (k, Config.bankRank (s.cycle % 8) a)).1 := by
    simp [State.bankFirst, he, ha, hd]
  obtain ⟨⟨x, b, hx, hxb, hr⟩, hall⟩ := h0.foldl (rangeFrom 0 s.agenda.length)
  refine ⟨x, b, hf ▸ hx, hxb, fun j d y hy hyn hyd => ?_⟩
  rw [← hr]
  have hj : j < s.agenda.length := (List.getElem?_eq_some_iff.1 hy).1
  exact hall j (by rw [List.nil_append, rangeFrom_eq, List.mem_range'_1]; omega) d y hy hyn hyd

/-! ### The end of a cycle -/

theorem step_tick (hr : s.hub.recovery = false) (ht : s.tape = []) (ha : ∀ x ∈ s.agenda, s.cycle < x.notBefore) (hc : s.thisCycle = []) :
    step s = .next s.tick := by
  have hdue (f : Event → Bool) : s.agenda.findIdx? (fun e => decide (e.notBefore ≤ s.cycle) && f e) = none := by
    rw [List.findIdx?_eq_none_iff]
    intro x hx
    simp [ha x hx]
  have hfirst : s.firstDue = none := by
    rw [State.firstDue, List.findIdx?_eq_none_iff]
    intro x hx
    simpa using ha x hx
  have hdet (b : Bool) : s.detDue b = none := hdue _
  have hp : s.nextPlan = .idle s.tick := by
    simp only [State.nextPlan, ht, hr, Bool.false_eq_true, if_false, hc, hfirst, State.takeIssue, hdet]
  rw [step, hp]

end

end Sys2Proof.Machine

namespace Sys2Proof.Machine

/-! ## The advance of a cycle (R154) -/

/-! What surrounds the turns of a cycle moves neither the cycle nor the future entries. -/

theorem State.giveWait_still (s : State) (fk w : Nat) (v : Word) : (s.giveWait fk w v).still = s.still := by
  simp [State.giveWait]

theorem State.putDwords_still (k off : Nat) (ds : List (Word → Word)) (s : State) : (s.putDwords k off ds).still = s.still := by
  induction ds generalizing s off with
  | nil => rfl
  | cons d ds ih => rw [State.putDwords, ih]; rfl

theorem State.parkMessage_still (s : State) (k : Nat) (p : Packet) : (s.parkMessage k p).still = s.still := by
  have hd : (s.dropPacket p.id).still = s.still := rfl
  unfold State.parkMessage
  dsimp only
  split
  · rw [State.putDwords_still, State.updCore_still, hd]
  · rw [State.updCore_still, hd]

theorem State.parkGrant_still (s : State) (k fk w : Nat) (v : Word) : (s.parkGrant k fk w v).still = s.still := by
  rw [State.parkGrant, State.parkMessage_still]
  rfl

theorem State.performedFor_still (s : State) (src id : Nat) : (s.performedFor src id).still = s.still := by
  simp [State.performedFor]

theorem State.lasting_still (s : State) (e : Nat) (tag : BitVec 10) (va : Nat) : (s.lasting e tag va).still = s.still := by
  simp [State.lasting]

theorem State.healAt_still (s : State) (e : Nat) (err : Option (Nat × Bool)) : (s.healAt e err).still = s.still := by
  unfold State.healAt State.transient
  split <;> rfl

theorem State.bankAccess_still (s : State) (k : Nat) (a : WordAcc) : (s.bankAccess k a).1.still = s.still := by
  unfold State.bankAccess
  dsimp only
  (repeat' split) <;> rfl

theorem State.answerWaiter_still (s : State) (k : Nat) (w : Waiter) (v : Word) : (s.answerWaiter k w v).still = s.still := by
  unfold State.answerWaiter
  split
  · simp [State.parkGrant_still, State.giveWait_still]
  · simp [State.respond, State.performedFor_still]

theorem State.failWaiter_still (s : State) (k off key : Nat) (w : Waiter) : (s.failWaiter k off key w).still = s.still := by
  unfold State.failWaiter
  split
  · simp
  · simp [State.respond, State.performedFor_still, State.lasting_still]

theorem State.setWaiters_still (s : State) (key : Nat) (ws : List Waiter) : (s.setWaiters key ws).still = s.still := rfl

theorem State.feServe_still (k off n : Nat) (s : State) : (s.feServe k off n).still = s.still := by
  induction n generalizing s with
  | zero => rfl
  | succ n ih =>
    unfold State.feServe
    dsimp only
    split
    · rfl
    split
    · rfl
    split
    · rw [ih, State.failWaiter_still, State.setWaiters_still]
    · rw [ih, State.answerWaiter_still, State.setWaiters_still, State.bankAccess_still, State.healAt_still]

theorem State.bankServe_still (s : State) (k : Nat) (a : WordAcc) : (s.bankServe k a).1.still = s.still := by
  have hs := s.bankAccess_still k a
  unfold State.bankServe State.serve
  dsimp only
  split <;> simp only [State.feServe_still, hs]

theorem State.geyserBank_still (s : State) (ch : Nat) (a : WordAcc) : (s.geyserBank ch a).1.still = s.still := by
  unfold State.geyserBank
  dsimp only
  split <;> rfl

theorem delayedWord_still (x : Delayed) (r : State × List Word) (a : WordAcc) : (delayedWord x r a).1.still = r.1.still := by
  unfold delayedWord
  split
  · rfl
  · dsimp only
    split
    · exact State.geyserBank_still _ _ _
    · exact State.bankServe_still _ _ _

theorem delayedWords_still (x : Delayed) (as : List WordAcc) (r : State × List Word) :
    (as.foldl (delayedWord x) r).1.still = r.1.still := by
  induction as generalizing r with
  | nil => rfl
  | cons a as ih => rw [List.foldl_cons, ih, delayedWord_still]

theorem State.performDelayed_still (s : State) (x : Delayed) : (s.performDelayed x).still = s.still := by
  have h := delayedWords_still x x.accs (s, [])
  unfold State.performDelayed
  dsimp only
  split
  · rw [State.performed_still, h]
  · rw [State.updFrame_still, State.performed_still, h]

theorem State.flushDelayed_still (s : State) : s.flushDelayed.still = s.still := by
  unfold State.flushDelayed
  dsimp only
  rw [still_foldl State.performDelayed_still]
  rfl

theorem State.flushTabs_still (s : State) : s.flushTabs.still = s.still := by
  unfold State.flushTabs
  refine (still_foldl ?_ _ _).trans rfl
  exact fun _ _ => rfl

theorem fifoStep_still (s : State) (n : Nat) : (fifoStep s n).still = s.still := by
  have h1 (s : State) (u : FifoWaiter) : (fifoEnter s n u).still = s.still := State.giveWait_still _ _ _ _
  have h2 (s : State) (o : FifoWaiter) (x : Word) (xs : List Word) : (fifoLeave s n o x xs).still = s.still := State.giveWait_still _ _ _ _
  have h3 (u o : FifoWaiter) : (fifoPass s n u o).still = s.still := by
    rw [fifoPass, State.giveWait_still, State.giveWait_still]
    rfl
  unfold fifoStep
  dsimp only
  (repeat' split) <;> simp only [h1, h2, h3]

theorem State.sendReleased_still (n : Nat) (s : State) : (s.sendReleased n).still = s.still := by
  induction n generalizing s with
  | zero => rfl
  | succ n ih =>
    unfold State.sendReleased
    split
    · rfl
    · rw [ih, State.dispatchPacket_still]
      rfl

theorem State.staticCharges_still (s : State) : s.staticCharges.still = s.still := by
  unfold State.staticCharges
  refine (still_foldl ?_ _ _).trans (still_foldl ?_ _ _)
  · exact fun _ _ => rfl
  · exact fun _ _ => rfl

theorem wdogTick_still (n : Nat) (s : State) (fk : Nat) : (wdogTick n s fk).still = s.still := by
  unfold wdogTick
  dsimp only
  (repeat' split) <;> rfl

theorem State.tick_cycle (s : State) : s.tick.cycle = s.cycle + 1 := by
  let s0 := s.staticCharges.sendReleased s.net.length
  let s1 := ((({ s0 with cycle := s0.cycle + 1 }.flushDelayed).flushTabs).flushFlags).fifosTick
  let s3 := if s.time / 1000 = s1.tickTime.time / 1000 then s1.tickTime else s1.tickTime.startPeriod.later 0 .budgetPeriod
  have h0 : s0.cycle = s.cycle := State.cycle_of_still (by rw [State.sendReleased_still, State.staticCharges_still])
  have h1 : s1.cycle = s0.cycle + 1 := by
    have h : s1.still = State.still { s0 with cycle := s0.cycle + 1 } := by
      have hf (u : State) : u.fifosTick.still = u.still := still_foldl fifoStep_still _ _
      have hg (u : State) : u.flushFlags.still = u.still := rfl
      rw [hf, hg, State.flushTabs_still, State.flushDelayed_still]
    exact State.cycle_of_still h
  have h3 : s3.cycle = s1.cycle := by
    have : s3.still = s1.still := by
      simp only [s3]
      split <;> rfl
    exact State.cycle_of_still this
  have h4 : s.tick.cycle = s3.cycle := State.cycle_of_still (s := s3) (still_foldl (wdogTick_still _) _ _)
  rw [h4, h3, h1, h0]

/-- Settles O57: the plan of the step by its tape; for the issue of a bundle, the fetch corrects a transient error of the instruction store
at most, and an operation that goes on does so with fewer errors too (`State.Retried.fate`). -/
theorem stepRunsDecoded : Obligations.StepRunsDecoded := by
  unfold Obligations.StepRunsDecoded
  intro s
  refine ⟨fun ms hr ht => step_recovery hr ht, fun i ms ht hi hr => step_input ht hi hr, fun hr => ⟨?_, ?_, ?_, ?_, ?_⟩⟩
  · exact fun k ms e ht hc he hn hd => step_pending hr ht hc he hn hd
  · exact fun k e ht hc he hn hmin hd => step_firstDue hr ht hc he hn hmin hd
  · exact fun k c a e he ha hd => State.bankFirst_first he ha hd
  · exact fun ht ha hc => ⟨step_tick hr ht ha hc, s.tick_cycle⟩
  · exact fun sk sks ms fk l b i ht hc hd => step_bundle hr sk sks ms fk l b i ht hc hd

end Sys2Proof.Machine
